-- ==== Sys2Proof/Word.lean ====
section
/-! DEFINITION. The word types of the HS1024: bytes, the 32-bit scalar word and its 64-bit pair, the 96-bit
instruction word and the 256-bit vector register (R7, R173, R182, R266). -/
namespace Sys2Proof

/-- One byte of any store (R5). -/
abbrev Byte := BitVec 8
/-- A scalar register, and most control registers. -/
abbrev Word := BitVec 32
/-- An even-odd scalar pair, a timeline value, FP64 bits. -/
abbrev DWord := BitVec 64
/-- An instruction word (R173). -/
abbrev IWord := BitVec 96
/-- A vector register's bits (R266). -/
abbrev VWord := BitVec 256
/-- A fetch line: five slots and the line word (R182). -/
abbrev Line := BitVec 512

end Sys2Proof
end

