-- ==== Sys2Proof/Syntax.lean ====
section
/-! DEFINITION. The instruction words of the HS1024 as data, one constructor of `Instr` for each row of
spec/opcode_table.json: the encoded instructions with their operands (R173 and the entries of files 10 to 15), then
the event rows (steps of the mesh, the joint array, the dispatcher, the engines, the firmware and the host) with what
each of them names or brings in from outside the device. -/
namespace Sys2Proof

/-- A scalar register s0-s31. -/
abbrev SReg := Fin 32
/-- An even-odd scalar pair: pair k is s[2k] (low half) and s[2k+1] (R7). -/
abbrev SPair := Fin 16
/-- A vector register v0-v31. -/
abbrev VReg := Fin 32
/-- A predicate p0-p7. -/
abbrev PReg := Fin 8
/-- A Flinum register f0-f31. -/
abbrev FReg := Fin 32
/-- A tile register m0-m15. -/
abbrev MReg := Fin 16
/-- An accumulator tile c0-c7. -/
abbrev CReg := Fin 8
/-- The 24-bit immediate (R173). -/
abbrev Imm := BitVec 24

/-- The fields every encoded instruction carries: the vote bit (R181), the guard (R176) and the dead marks on A, B
and C (R179). -/
structure Hdr where
  vote : Bool := false
  pg : PReg := 0
  pn : Bool := false
  dmA : Bool := false
  dmB : Bool := false
  dmC : Bool := false
  deriving DecidableEq, Repr

/-- The number formats and format tags of R91. -/
inductive Fmt where
  | ut | s8 | z8 | s4 | z4 | s16 | z16 | s32 | z32 | fp64 | fp32 | fp16 | bf16 | t8 | t6 | e8
  deriving DecidableEq, Repr

/-- The rounding code of MD[51:49] (R84); 110 is no code. -/
inductive RmCode where
  | rne | rtz | rdn | rup | rmm | rto | dyn
  deriving DecidableEq, Repr

/-- The scalar conditions of R223. -/
inductive Cond where
  | eq | ne | lt | ge | ltz | gez | le | gt | lez | gtz
  deriving DecidableEq, Repr

/-- The lane and Flinum conditions of R276 and R301. -/
inductive FCond where
  | eq | ne | lt | le | gt | ge | un | or
  deriving DecidableEq, Repr

/-- The amount of a scalar shift: a register, or IMM under .i (R217). -/
inductive ShiftAmt where
  | reg (b : SReg)
  | imm (n : Fin 32)
  deriving DecidableEq, Repr

/-- The forms of IADDI (R221). -/
inductive AddiForm where
  | w32 (d a : SReg) (sat : Bool)
  | w64 (d a : SPair)
  deriving DecidableEq, Repr

/-- The sources of PSET (R226). -/
inductive PsetSrc where
  | cmp (c : Cond) (a b : SReg)
  | eqi (a : SReg) (imm : Imm)
  | nei (a : SReg) (imm : Imm)
  | lti (a : SReg) (imm : Imm)
  | gei (a : SReg) (imm : Imm)
  | bit (a : SReg) (n : Fin 32)
  | const (v : Bool)
  deriving DecidableEq, Repr

/-- A relative code target: a signed displacement in lines and a slot (R175). -/
structure RelTarget where
  lines : BitVec 21
  slot : Fin 5
  deriving DecidableEq, Repr

/-- The widths of LD and of the scalar forms of GLD (R244, R324). -/
inductive LdWidth where
  | b8 | b16 | b32 | b64 | sb8 | sb16
  deriving DecidableEq, Repr

/-- The widths of ST and of the scalar forms of GST. -/
inductive StWidth where
  | b8 | b16 | b32 | b64
  deriving DecidableEq, Repr

/-- The rows of a tile transfer: first row and count minus 1 (R248). -/
structure TileRows where
  cnt : Fin 32
  row : Fin 32
  deriving DecidableEq, Repr

/-- The bank operations of R63 and the global operations of R146. -/
inductive BankOp where
  | write | add | adds | min | max | and | or | xor | cas
  deriving DecidableEq, Repr

/-- The element codes of R63 and R146. -/
inductive Elem where
  | z32 | s32 | fp32 | fp64 | b64 | z64 | s64
  deriving DecidableEq, Repr

/-- The length operand of SEND and SENDOP (R256): n/8 - 1, or a scalar under .rl. -/
inductive SendLen where
  | imm (n : BitVec 13)
  | reg (d : SReg)
  deriving DecidableEq, Repr

/-- The second operand of a vector shift (R279). -/
inductive VShiftAmt where
  | reg (b : VReg)
  | imm (n : Fin 32)
  deriving DecidableEq, Repr

/-- The patterns of VSHUF (R282). -/
inductive ShufPat where
  | ilo (b : VReg) | ihi (b : VReg) | even (b : VReg) | odd (b : VReg)
  | rev
  | rot (n : Fin 32)
  deriving DecidableEq, Repr

/-- The wide formats of block quantisation (R289). -/
inductive WideFmt where
  | fp32 | fp16 | bf16
  deriving DecidableEq, Repr

/-- The register named by VTAGQ (R294). -/
inductive TagSrc where
  | vec (a : VReg)
  | tile (a : MReg)
  | acc (a : CReg)
  deriving DecidableEq, Repr

/-- The integer operand of FCVTS and the destination of FTOS (R302). -/
inductive IntReg where
  | w32 (a : SReg)
  | w64 (a : SPair)
  deriving DecidableEq, Repr

/-- The operand of FPREC (R304). -/
inductive PrecSrc where
  | imm (p : Fin 1024)
  | reg (a : SReg)
  deriving DecidableEq, Repr

/-- The operand of FLDC (R305). -/
inductive LdcSrc where
  | imm (v : Imm)
  | literal (lines : BitVec 21) (off : Fin 60)
  deriving DecidableEq, Repr

/-- The fields of X of MGANG (R312), with the segment size code. -/
structure GangShape where
  nlog : Fin 5
  g : Fin 8
  ks : Fin 16
  scl : Bool
  sp : Bool
  col : Bool
  fmt : Fmt
  deriving DecidableEq, Repr

/-- The fields of X of MDRAIN (R316). -/
structure DrainShape where
  z : Bool
  cnt : Fin 16
  row : Fin 16
  dst : Fmt
  deriving DecidableEq, Repr

/-- The element widths of the column port (R318). -/
inductive ColWidth where
  | b4 | b8 | b16 | b32 | b64
  deriving DecidableEq, Repr

/-- The destination of GLD (R324). -/
inductive GldDst where
  | scalar (w : LdWidth) (d : SReg)
  | vec (d : VReg)
  | blk (d : SReg) (cnt : BitVec 13)
  deriving DecidableEq, Repr

/-- The source of GST (R324). -/
inductive GstSrc where
  | scalar (w : StWidth) (b : SReg)
  | vec (b : VReg)
  | blk (b : SReg) (cnt : BitVec 13)
  deriving DecidableEq, Repr

/-- The scopes of R148. -/
inductive Scope where
  | task | stack | package | system
  deriving DecidableEq, Repr

/-- The forms of PUSH (R154, R327). -/
inductive PushForm where
  | direct (b c : SReg)
  | deal
  | mc (b : SReg)
  deriving DecidableEq, Repr

/-- The fields GREF reads (R329). -/
inductive GrefField where
  | desc | ext (n : Fin 4) | szlo | szhi
  deriving DecidableEq, Repr

/-- A core of the package: a compute core by package column and row (R10), a memory core by stack and channel (R11),
a control core by number (R351). -/
inductive CoreId where
  | compute (x y : Nat)
  | memory (stack chan : Nat)
  | control (n : Nat)
  deriving DecidableEq, Repr

/-- How a copy engine's work ended, as far as the outside decides it (R332): done, with the bytes that host or peer
memory supplied when the source lies there, or a bus error at an address outside the device (with the bytes supplied all
the same). -/
inductive CopyEnd where
  | done (outside : List Byte)
  | busError (addr : Nat) (outside : List Byte)
  deriving DecidableEq, Repr

/-- Where a network packet comes from: a peer, or a context of this device itself (R469). -/
inductive NetOrigin where
  | peer (id : Nat)
  | own (ctx : Nat)
  deriving DecidableEq, Repr

/-- A network packet as it reaches a target context (R459, R460). Of a packet from this device only origin, message and
sequence number count: the rest is what left it. -/
structure NetPacketIn where
  origin : NetOrigin
  message : Nat
  lastSeq : Nat
  seq : Nat
  opc : Nat
  aop : Nat
  elem : Nat
  rkey : Nat
  roff : Nat
  bytes : List Byte
  operand : DWord
  rcnt : Nat
  total : Nat
  deriving DecidableEq, Repr

/-- The unit an uncorrectable ECC error strikes (R446); a replica's line is met while it is updated (R440). -/
inductive EccUnit where
  | store (core : CoreId) (addr : Nat)
  | hbm (pa : Nat)
  | replica (ctx gva stack : Nat)
  deriving DecidableEq, Repr

/-- Who waits for a page that firmware supplies (R432, R438, R494): a parked memory task, the record at the head of a
queue, or an engine that is to write there. -/
inductive PageWaiter where
  | task (stack chan slot : Nat)
  | record (ctx q : Nat)
  | engine (ctx gva : Nat)
  deriving DecidableEq, Repr

/-- What the host reads of a function outside the aperture: configuration space, or BAR 0 (R453, R457). -/
inductive HostRead where
  | config (off : Nat)
  | bar0 (off len : Nat)
  deriving DecidableEq, Repr

/-- A host write to BAR 0: its width in bits and its value (R414, R453). -/
structure BarWrite where
  width : Nat
  word : DWord
  deriving DecidableEq, Repr

/-- What the posts of a checkpoint bring: the shards of the peers, and the members to or from whom a post has failed (R477,
R481). -/
structure PeerShards where
  shards : List (List Byte)
  failed : List Nat
  deriving DecidableEq, Repr

/-- What a debugger asks to see (R395). -/
inductive DebugItem where
  | scalar (core : CoreId) (t r : Nat)
  | vector (core : CoreId) (t r : Nat)
  | predicate (core : CoreId) (t r : Nat)
  | flinum (core : CoreId) (t r : Nat)
  | loopLevel (core : CoreId) (t k : Nat)
  | control (core : CoreId) (t reg : Nat)
  | position (core : CoreId) (t : Nat)
  | tileRow (core : CoreId) (r row : Nat)
  | tileTag (core : CoreId) (r : Nat)
  | accRow (core : CoreId) (r row : Nat)
  | accTag (core : CoreId) (r : Nat)
  | storeByte (core : CoreId) (addr : Nat)
  | plateByte (core : CoreId) (addr : Nat)
  | window (core : CoreId) (i : Nat)
  | subscription (core : CoreId) (i : Nat)
  | chronEntry (core : CoreId) (i : Nat)
  | chronState (core : CoreId)
  | imageByte (ctx handle off : Nat)
  | counter (core : CoreId) (t ev : Nat)
  deriving DecidableEq, Repr

/-- A post of a context whose source bytes an engine reads: a network post, or a copy, with the bytes that host or peer memory supplies
where its source lies there (R331, R332, R335). -/
inductive PostRead where
  | network (number : Nat)
  | copy (id : Nat) (outside : List Byte)
  deriving DecidableEq, Repr

/-- A remote-access registration (R459). -/
inductive RemoteKind where
  | global (gva size : Nat) (write : Bool)
  | window (x y base len : Nat)
  | ring (gva slotSize slots : Nat)
  deriving DecidableEq, Repr

/-- One step of the machine: an encoded instruction, or an event row. -/
inductive Instr where
  -- scalar, address and predicate instructions (10)
  | nop (h : Hdr)
  | iadd (h : Hdr) (d a b : SReg) (sat : Bool)
  | isub (h : Hdr) (d a b : SReg) (sat : Bool)
  | imul (h : Hdr) (d a b : SReg)
  | imulh (h : Hdr) (d a b : SReg)
  | imulhz (h : Hdr) (d a b : SReg)
  | idiv (h : Hdr) (d a b : SReg)
  | idivz (h : Hdr) (d a b : SReg)
  | irem (h : Hdr) (d a b : SReg)
  | iremz (h : Hdr) (d a b : SReg)
  | iand (h : Hdr) (d a b : SReg)
  | ior (h : Hdr) (d a b : SReg)
  | ixor (h : Hdr) (d a b : SReg)
  | iandn (h : Hdr) (d a b : SReg)
  | ishl (h : Hdr) (d a : SReg) (n : ShiftAmt)
  | ishrl (h : Hdr) (d a : SReg) (n : ShiftAmt)
  | ishra (h : Hdr) (d a : SReg) (n : ShiftAmt)
  | irotl (h : Hdr) (d a : SReg) (n : ShiftAmt)
  | imin (h : Hdr) (d a b : SReg)
  | imax (h : Hdr) (d a b : SReg)
  | iminz (h : Hdr) (d a b : SReg)
  | imaxz (h : Hdr) (d a b : SReg)
  | iclz (h : Hdr) (d a : SReg)
  | ipop (h : Hdr) (d a : SReg)
  | isel (h : Hdr) (d a b : SReg) (pc : PReg)
  | iaddi (h : Hdr) (f : AddiForm) (imm : Imm)
  | imovi (h : Hdr) (d : SReg) (imm : Imm)
  | imovhi (h : Hdr) (d : SReg) (imm : BitVec 16)
  | icmp (h : Hdr) (c : Cond) (d a b : SReg)
  | padd (h : Hdr) (d a b : SPair)
  | psub (h : Hdr) (d a b : SPair)
  | aadd (h : Hdr) (d a : SPair) (b : SReg) (k : Fin 8) (sat : Bool) (imm : Imm)
  | aadds (h : Hdr) (d a : SPair) (b : SReg) (k : Fin 8) (imm : Imm)
  | pset (h : Hdr) (d : PReg) (src : PsetSrc)
  | pand (h : Hdr) (d a b : PReg)
  | por (h : Hdr) (d a b : PReg)
  | pxor (h : Hdr) (d a b : PReg)
  | pnot (h : Hdr) (d a : PReg)
  -- transfers, loops, HALT, YIELD (10)
  | br (h : Hdr) (t : RelTarget)
  | jmp (h : Hdr) (a : SReg)
  | call (h : Hdr) (d : SReg) (t : RelTarget)
  | callInd (h : Hdr) (d a : SReg)
  | ret (h : Hdr) (a : SReg)
  | loop (h : Hdr) (a : SReg) (e : RelTarget)
  | loopi (h : Hdr) (e : RelTarget) (count : BitVec 20)
  | halt (h : Hdr)
  | yield (h : Hdr)
  -- system (15)
  | crd (h : Hdr) (d : SReg) (reg : BitVec 10)
  | cwr (h : Hdr) (a : SReg) (reg : BitVec 10)
  | counterZero (h : Hdr) (a : SReg) (t : Fin 4)
  | trap (h : Hdr) (imm : Imm)
  | xret (h : Hdr) (next : Bool)
  | ifence (h : Hdr)
  | brk (h : Hdr) (imm : Imm)
  | wait (h : Hdr) (d : SReg) (a b : SPair) (imm : Imm) (bound : BitVec 20)
  | waitBoundExpiry (core : CoreId) (t : Nat)
  | capbuild (h : Hdr) (d a : SReg)
  -- local memory (11)
  | ld (h : Hdr) (w : LdWidth) (d : SReg) (a : SPair) (imm : Imm)
  | st (h : Hdr) (w : StWidth) (b : SReg) (a : SPair) (imm : Imm)
  | ldv (h : Hdr) (fmt : Fmt) (d : VReg) (a : SPair) (imm : Imm)
  | stv (h : Hdr) (t6 : Bool) (b : VReg) (a : SPair) (imm : Imm)
  | ldvs (h : Hdr) (fmt : Fmt) (d : VReg) (a : SPair) (b : SReg) (imm : Imm)
  | stvs (h : Hdr) (fmt : Fmt) (b : VReg) (a : SPair) (c : SReg) (imm : Imm)
  | ldvx (h : Hdr) (fmt : Fmt) (k : Fin 8) (d : VReg) (a : SPair) (b : VReg) (imm : Imm)
  | stvx (h : Hdr) (fmt : Fmt) (k : Fin 8) (b : VReg) (a : SPair) (c : VReg) (imm : Imm)
  | ldt (h : Hdr) (fmt : Fmt) (d : MReg) (a : SPair) (b : SReg) (imm : Imm) (rows : TileRows)
  | stt (h : Hdr) (t6 : Bool) (b : MReg) (a : SPair) (c : SReg) (imm : Imm) (rows : TileRows)
  | ldf (h : Hdr) (rm : RmCode) (x : Bool) (d : FReg) (a : SPair) (imm : Imm)
  | stf (h : Hdr) (b : FReg) (a : SPair) (imm : Imm)
  | lamo (h : Hdr) (op : BankOp) (el : Elem) (d : Option SReg) (a : SPair) (b : SReg) (imm : Imm)
  | lfence (h : Hdr)
  | lwopen (h : Hdr) (now log : Bool) (a : SPair) (b : SReg) (imm : Imm)
  | lwclose (h : Hdr) (a : SPair) (imm : Imm)
  | lwdue (h : Hdr) (a : SPair) (b : SReg) (imm : Imm)
  | send (h : Hdr) (len : SendLen) (a : SPair) (b c : SReg) (imm : Imm)
  | sendop (h : Hdr) (op : BankOp) (el : Elem) (len : SendLen) (a : SPair) (b c : SReg) (imm : Imm)
  | subscribe (h : Hdr) (a b : SReg)
  | unsubscribe (h : Hdr) (a : SReg)
  | bar (h : Hdr)
  | barq (h : Hdr) (d : SReg)
  | chron (h : Hdr) (d : VReg) (a : SReg)
  | tlwait (h : Hdr) (sel : Fin 8) (a : SPair)
  | tlread (h : Hdr) (sel : Fin 8) (d : SPair)
  -- vector (12)
  | vadd (h : Hdr) (fmt : Fmt) (rm : RmCode) (sat : Bool) (d a b : VReg)
  | vsub (h : Hdr) (fmt : Fmt) (rm : RmCode) (sat : Bool) (d a b : VReg)
  | vmul (h : Hdr) (fmt : Fmt) (rm : RmCode) (sat : Bool) (d a b : VReg)
  | vfma (h : Hdr) (fmt : Fmt) (rm : RmCode) (sat : Bool) (d a b c : VReg)
  | vfms (h : Hdr) (fmt : Fmt) (rm : RmCode) (sat : Bool) (d a b c : VReg)
  | vmin (h : Hdr) (fmt : Fmt) (rm : RmCode) (sat : Bool) (d a b : VReg)
  | vmax (h : Hdr) (fmt : Fmt) (rm : RmCode) (sat : Bool) (d a b : VReg)
  | vabs (h : Hdr) (fmt : Fmt) (rm : RmCode) (sat : Bool) (d a : VReg)
  | vneg (h : Hdr) (fmt : Fmt) (rm : RmCode) (sat : Bool) (d a : VReg)
  | vdiv (h : Hdr) (fmt : Fmt) (rm : RmCode) (sat : Bool) (d a b : VReg)
  | vsqrt (h : Hdr) (fmt : Fmt) (rm : RmCode) (sat : Bool) (d a : VReg)
  | vrsq (h : Hdr) (fmt : Fmt) (rm : RmCode) (sat : Bool) (d a : VReg)
  | vexp2 (h : Hdr) (fmt : Fmt) (rm : RmCode) (sat : Bool) (d a : VReg)
  | vlog2 (h : Hdr) (fmt : Fmt) (rm : RmCode) (sat : Bool) (d a : VReg)
  | vcmp (h : Hdr) (fmt : Fmt) (c : FCond) (d : SReg) (a b : VReg)
  | vsel (h : Hdr) (fmt : Fmt) (d a b : VReg) (c : SReg)
  | vand (h : Hdr) (d a b : VReg)
  | vor (h : Hdr) (d a b : VReg)
  | vxor (h : Hdr) (d a b : VReg)
  | vshl (h : Hdr) (fmt : Fmt) (d a : VReg) (n : VShiftAmt)
  | vshr (h : Hdr) (fmt : Fmt) (d a : VReg) (n : VShiftAmt)
  | vshra (h : Hdr) (fmt : Fmt) (d a : VReg) (n : VShiftAmt)
  | vperm (h : Hdr) (fmt : Fmt) (d a b c : VReg)
  | vbcast (h : Hdr) (fmt : Fmt) (d : VReg) (a : SReg)
  | vshuf (h : Hdr) (fmt : Fmt) (pat : ShufPat) (d a : VReg)
  | vredadd (h : Hdr) (fmt : Fmt) (rm : RmCode) (sat : Bool) (d : SReg) (a : VReg)
  | vredmax (h : Hdr) (fmt : Fmt) (rm : RmCode) (d : SReg) (a : VReg)
  | vredmin (h : Hdr) (fmt : Fmt) (rm : RmCode) (d : SReg) (a : VReg)
  | vdot (h : Hdr) (fmt : Fmt) (rm : RmCode) (sat : Bool) (d a b c : VReg)
  | vmovs (h : Hdr) (fmt : Fmt) (d : VReg) (a : SReg) (lane : Fin 32)
  | vexts (h : Hdr) (fmt : Fmt) (d : SReg) (a : VReg) (lane : Fin 32)
  | viota (h : Hdr) (fmt : Fmt) (sat : Bool) (d : VReg) (a : SReg) (imm : Imm)
  | vcvt (h : Hdr) (dst src : Fmt) (rm : RmCode) (sat : Bool) (part : Fin 8) (d a : VReg)
  | vquant (h : Hdr) (qf : Fmt) (wf : WideFmt) (d a : VReg) (b : SReg)
  | vdeq (h : Hdr) (qf : Fmt) (wf : WideFmt) (rm : RmCode) (sat : Bool) (d a : VReg) (b : SReg)
  | vscale (h : Hdr) (qf : Fmt) (wf : WideFmt) (d a : VReg) (b : SReg)
  | vtag (h : Hdr) (t : Fmt) (d a : VReg)
  | vtagq (h : Hdr) (d : SReg) (src : TagSrc)
  -- Flinum (13)
  | fadd (h : Hdr) (rm : RmCode) (x sat : Bool) (d a b : FReg)
  | fsub (h : Hdr) (rm : RmCode) (x sat : Bool) (d a b : FReg)
  | fmul (h : Hdr) (rm : RmCode) (x sat : Bool) (d a b : FReg)
  | ffma (h : Hdr) (rm : RmCode) (x sat : Bool) (d a b c : FReg)
  | fdiv (h : Hdr) (rm : RmCode) (x sat : Bool) (d a b : FReg)
  | fsqrt (h : Hdr) (rm : RmCode) (x sat : Bool) (d a : FReg)
  | fabs (h : Hdr) (rm : RmCode) (x sat : Bool) (d a : FReg)
  | fneg (h : Hdr) (rm : RmCode) (x sat : Bool) (d a : FReg)
  | fmov (h : Hdr) (rm : RmCode) (x sat : Bool) (d a : FReg)
  | fround (h : Hdr) (rm : RmCode) (x sat : Bool) (d a : FReg)
  | fscalb (h : Hdr) (rm : RmCode) (x sat : Bool) (d a : FReg) (b : SReg)
  | fcmp (h : Hdr) (c : FCond) (d : PReg) (a b : FReg)
  | fcvtd (h : Hdr) (rm : RmCode) (x sat : Bool) (d : FReg) (a : SPair)
  | fcvts (h : Hdr) (rm : RmCode) (x sat : Bool) (d : FReg) (a : IntReg)
  | ftod (h : Hdr) (rm : RmCode) (x sat : Bool) (d : SPair) (a : FReg)
  | ftos (h : Hdr) (rm : RmCode) (x : Bool) (d : IntReg) (a : FReg)
  | faccv (h : Hdr) (rm : RmCode) (x sat : Bool) (d a : FReg) (b : VReg)
  | fprec (h : Hdr) (p : PrecSrc)
  | fldc (h : Hdr) (rm : RmCode) (x sat : Bool) (d : FReg) (src : LdcSrc)
  | frel (h : Hdr) (d : FReg) (upto : Option FReg)
  | flen (h : Hdr) (d : SReg) (a : FReg)
  | fexp (h : Hdr) (d : SReg) (a : FReg)
  -- matrix (13)
  | mgang (h : Hdr) (shape : GangShape) (d : CReg) (a : MReg) (b c : SReg)
  | mdesc (h : Hdr) (a : SPair) (imm : Imm)
  | mzero (h : Hdr) (fp64 : Bool) (d : CReg)
  | mdrain (h : Hdr) (rm : RmCode) (sat : Bool) (shape : DrainShape) (a : SPair) (b : SReg) (c : CReg) (imm : Imm)
  | mmeta (h : Hdr) (a : SPair) (imm : Imm)
  | mscl (h : Hdr) (bset : Bool) (a : SPair) (imm : Imm)
  | mrowrd (h : Hdr) (half : Bool) (d : VReg) (a : MReg) (row : Fin 32)
  | mrowwr (h : Hdr) (half : Bool) (d : MReg) (a : VReg) (row : Fin 32)
  | mcolrd (h : Hdr) (w : ColWidth) (d : VReg) (a : MReg) (j : Fin 128) (q : Fin 8)
  | mcolwr (h : Hdr) (w : ColWidth) (d : MReg) (a : VReg) (j : Fin 128) (q : Fin 8)
  | jointJoin (x y nlog : Nat)
  | jointOpComplete (x y : Nat)
  -- memory cores and engine posts (14)
  | gld (h : Hdr) (fmt : Fmt) (dst : GldDst) (a : SPair) (c : Fin 32) (imm : Imm)
  | gst (h : Hdr) (fmt : Fmt) (src : GstSrc) (a : SPair) (c : Fin 32) (imm : Imm)
  | gatom (h : Hdr) (op : BankOp) (el : Elem) (d : Option SReg) (a : SPair) (b : SReg) (c : Fin 32) (imm : Imm)
  | gfence (h : Hdr) (sc : Scope)
  | gacq (h : Hdr) (wide : Bool) (sc : Scope) (fmt : Fmt) (d : SReg) (a : SPair) (c : Fin 32) (imm : Imm)
  | grel (h : Hdr) (wide : Bool) (sc : Scope) (fmt : Fmt) (a : SPair) (b : SReg) (c : Fin 32) (imm : Imm)
  | push (h : Hdr) (f : PushForm) (a : SPair) (imm : Imm) (n : BitVec 13)
  | dpat (h : Hdr) (a : SPair) (imm : Imm)
  | gref (h : Hdr) (f : GrefField) (d : SReg) (c : Fin 32)
  | globalResponse (core : CoreId) (t id : Nat)
  | blockLoadComplete (core : CoreId) (t number : Nat)
  | cpypost (h : Hdr) (d : SPair) (a : SPair) (imm : Imm)
  | ovlpost (h : Hdr) (d : SPair) (a : SPair) (imm : Imm)
  | nwpost (h : Hdr) (d : SPair) (a : SPair) (imm : Imm)
  | qpost (h : Hdr) (d : SReg) (a : SPair) (b : SReg) (imm : Imm)
  | tscore (h : Hdr) (a : SPair)
  | tdone (h : Hdr) (final : Bool)
  | tround (h : Hdr) (d : SReg)
  -- the mesh and the barrier (01, 02)
  | packetArrival (id : Nat)
  | refusalReturn (id : Nat)
  | scoreArrival (id : Nat)
  | joinPacket (id : Nat)
  | coreArrival (x y : Nat)
  | barrierToken (gang x y : Nat) (column : Bool)
  | memoryTaskArrival (stack chan slot : Nat)
  | barrierComplete (gang : Nat)
  | barrierRelease (gang : Nat) (core : CoreId) (slot : Nat)
  | commitEntryDrain (stack chan id : Nat)
  | retirementSweep (gang : Nat)
  | taskFrameLoad (stack chan slot t : Nat)
  | pageSupplied (waiter : PageWaiter) (frame : Nat) (bytes : List Byte)
  | demandFetch (core : CoreId) (line : Nat)
  | superstepRollback (gang : Nat)
  | watchdog (gang : Nat)
  | allowanceExhausted (gang : Nat)
  | roundEnd (tour : Nat)
  -- queues and dispatch (23)
  | doorbellTailUpdate (fn off : Nat) (d : BarWrite)
  | resume (ctx q : Nat)
  | flush (ctx q : Nat)
  | quiesce (ctx q : Nat)
  | unquiesce (ctx q : Nat)
  | launchRecord (ctx q : Nat)
  | gangReserve (ctx q : Nat)
  | gangStart (gang : Nat) (ok : Bool)
  | tlwaitRecord (ctx q : Nat)
  | tlwaitRecordComplete (ctx q : Nat)
  | tlsignal (ctx q : Nat)
  | copyRecord (ctx q : Nat)
  | cond (ctx q : Nat)
  | loopRecord (ctx q : Nat)
  | copyComplete (id : Nat) (e : CopyEnd)
  | overlayLoadComplete (id : Nat)
  -- network engine and host link (25)
  | networkPacketArrival (ctx : Nat) (p : NetPacketIn)
  | networkAck (ctx number : Nat)
  | sackReceived (ctx number : Nat) (missing : List Nat)
  | negativeAck (ctx number err : Nat)
  | retransmitTimeout (ctx number seq : Nat)
  | apertureAccess (fn addr len : Nat) (data : Option (List Byte))
  | configAccess (fn : Nat) (r : HostRead)
  -- capsules, contexts, regions, mappings (20, 23, 24)
  | install (ctx : Nat) (object : List Byte) (test : Bool)
  | uninstall (ctx handle : Nat)
  | rebuildRequest (ctx handle : Nat)
  | buildStart (ctx handle : Nat)
  | buildComplete (ctx handle bodyLen : Nat)
  | createContext (ctx fn counters : Nat) (injection : Bool)
  | regionEdit (handle : Nat) (node : List Byte)
  | queueCreate (ctx q ring log2n : Nat) (prod : Bool) (group : Nat)
  | map (ctx gva level pa kind rmask : Nat) (r w : Bool)
  | unmap (ctx gva level : Nat)
  | setKind (ctx gva kind rmask : Nat)
  | migrate (ctx gva : Nat)
  | migrationSwitch (ctx gva pa : Nat)
  | pageEviction (ctx : Nat) (gvas : List Nat)
  | peerTableSet (ctx index addr port target : Nat) (own : Bool)
  | remoteBufferRegister (ctx rkey : Nat) (k : RemoteKind)
  | apertureMap (fn off ctx gva len : Nat)
  | errorInject (ctx : Nat) (record : List Byte)
  | debugRead (item : DebugItem)
  | debugResume (core : CoreId) (t : Nat)
  -- reliability, bring-up and operations (27, 28)
  | checkpointGroupCreate (group devices self ctx area areaLen : Nat)
  | checkpointWrite (group step : Nat) (buffers : List (Nat × Nat)) (longest : Nat) (peers : PeerShards)
  | checkpointManifest (group step : Nat) (entries : List Byte)
  | checkpointRestore (group step : Nat) (answering : List (List Nat)) (manifest : List Byte) (buffers : List (Nat × Nat)) (peerShards : List (Nat × Nat × List Byte))
  | coldstart (failStep : Nat) (fenced : List CoreId)
  | warmstart (failStep : Nat) (fenced : List CoreId)
  | fwstage (image : List Byte)
  | activate
  | attest (nonce : List Byte)
  | powercap (watts : Nat)
  | throttleStep
  | thermalTrip
  | uncorrectableEccError (u : EccUnit)
  | engineSourceRead (ctx : Nat) (p : PostRead)
  deriving DecidableEq, Repr

end Sys2Proof
end

