-- ==== Sys2Proof/Decode.lean ====
section
/-! DEFINITION. The encoding of R173 and the decoder: the fields of a word, what each opcode does with each field
(`form`, from the opcode map R189 and the entries of files 10 to 15), the checks of R192 in the order of their reason
codes, and the encoder. -/
namespace Sys2Proof

/-- The kinds of core an instruction is decoded for. -/
inductive CoreKind where
  | compute | memory | control
  deriving DecidableEq, Repr

/-- The fields of an instruction word (R173), MD split into its four parts. -/
structure Fields where
  op : BitVec 8 := 0
  v : BitVec 1 := 0
  pg : BitVec 3 := 0
  pn : BitVec 1 := 0
  dm : BitVec 3 := 0
  d : BitVec 5 := 0
  a : BitVec 5 := 0
  b : BitVec 5 := 0
  c : BitVec 5 := 0
  fn : BitVec 8 := 0
  rm : BitVec 3 := 0
  ex : BitVec 1 := 0
  sat : BitVec 1 := 0
  lo : BitVec 3 := 0
  imm : BitVec 24 := 0
  x : BitVec 20 := 0
  deriving DecidableEq, Repr

/-- The fields of a word (R173). -/
def Fields.ofWord (w : IWord) : Fields where
  op := w.extractLsb' 88 8
  v := w.extractLsb' 87 1
  pg := w.extractLsb' 84 3
  pn := w.extractLsb' 83 1
  dm := w.extractLsb' 80 3
  d := w.extractLsb' 75 5
  a := w.extractLsb' 70 5
  b := w.extractLsb' 65 5
  c := w.extractLsb' 60 5
  fn := w.extractLsb' 52 8
  rm := w.extractLsb' 49 3
  ex := w.extractLsb' 48 1
  sat := w.extractLsb' 47 1
  lo := w.extractLsb' 44 3
  imm := w.extractLsb' 20 24
  x := w.extractLsb' 0 20

/-- The word of a set of fields (R173). -/
def Fields.toWord (f : Fields) : IWord :=
  f.op ++ f.v ++ f.pg ++ f.pn ++ f.dm ++ f.d ++ f.a ++ f.b ++ f.c ++ f.fn ++ f.rm ++ f.ex ++ f.sat ++ f.lo ++ f.imm ++
    f.x

/-- How an entry uses a register field: not at all, as a register of a class, as a group of vector registers, as a
scalar destination, as a parameter index, or as the first of the registers of a CAS. -/
inductive Use where
  | none | s | sp | v | vg (n : Nat) | p | f | m | c | sOut | par | cas (n : Nat)
  deriving DecidableEq, Repr

/-- A dead mark may stand on a scalar, vector or Flinum source only (R179). -/
def Use.markable : Use → Bool
  | .s | .sp | .v | .vg _ | .f | .cas _ => true
  | _ => false

/-- An index that exists in its class (R174, R289, R325). -/
def Use.inClass (u : Use) (r : Nat) : Bool :=
  match u with
  | .sp => r % 2 == 0
  | .vg n => r % n == 0
  | .p | .c => decide (r < 8)
  | .m => decide (r < 16)
  | .cas 4 => decide (r < 31)
  | .cas _ => r % 2 == 0 && decide (r < 29)
  | _ => true

/-- What an opcode does with the fields of the word: the use of D, A, B and C, whether IMM is used, which bits of X are
used, which parts of MD may be nonzero, whether the entry forbids a value (R192, 0x104), on which kinds of core it
runs, and the instruction it stands for. -/
structure Form where
  d : Use := .none
  a : Use := .none
  b : Use := .none
  c : Use := .none
  imm : Bool := false
  x : BitVec 20 := 0
  rm : Bool := false
  ex : Bool := false
  sat : Bool := false
  lo : List Nat := [0]
  bad : Bool := false
  kinds : List CoreKind := [.compute, .memory, .control]
  vote : Bool := false
  unguarded : Bool := false
  priv : Option Word := .none
  instr : Option Instr := .none

/-- Why a word is no instruction here (R192): ILLEGAL with its reason code, or PRIVILEGE with XVAL (R190). -/
inductive Reject where
  | illegal (code : Word)
  | privilege (xval : Word)
  deriving DecidableEq, Repr

section Codes

def Fmt.ofCode : Nat → Fmt
  | 1 => .s8 | 2 => .z8 | 3 => .s4 | 4 => .z4 | 5 => .s16 | 6 => .z16 | 7 => .s32 | 8 => .z32 | 9 => .fp64
  | 10 => .fp32 | 11 => .fp16 | 12 => .bf16 | 13 => .t8 | 14 => .t6 | 15 => .e8 | _ => .ut

/-- The code of a format (R91). -/
def Fmt.code : Fmt → Nat
  | .ut => 0 | .s8 => 1 | .z8 => 2 | .s4 => 3 | .z4 => 4 | .s16 => 5 | .z16 => 6 | .s32 => 7 | .z32 => 8 | .fp64 => 9
  | .fp32 => 10 | .fp16 => 11 | .bf16 => 12 | .t8 => 13 | .t6 => 14 | .e8 => 15

/-- The width in bits of an element in a register; T6 in its 8-bit container (R75, R81, R266). -/
def Fmt.width : Fmt → Nat
  | .ut => 8 | .s8 | .z8 | .t8 | .t6 | .e8 => 8 | .s4 | .z4 => 4 | .s16 | .z16 | .fp16 | .bf16 => 16
  | .s32 | .z32 | .fp32 => 32 | .fp64 => 64

def Fmt.isInt : Fmt → Bool
  | .s8 | .z8 | .s4 | .z4 | .s16 | .z16 | .s32 | .z32 => true
  | _ => false

def Fmt.isSigned : Fmt → Bool
  | .s8 | .s4 | .s16 | .s32 => true
  | _ => false

/-- The lanes of a vector register (R266). -/
def Fmt.lanes (f : Fmt) : Nat := 256 / f.width

/-- The rounding codes of R84; 110 is no code and its form forbids it. -/
def RmCode.ofCode : Nat → RmCode
  | 0 => .rne | 1 => .rtz | 2 => .rdn | 3 => .rup | 4 => .rmm | 5 => .rto | _ => .dyn

def RmCode.code : RmCode → Nat
  | .rne => 0 | .rtz => 1 | .rdn => 2 | .rup => 3 | .rmm => 4 | .rto => 5 | .dyn => 7

def Cond.ofCode : Nat → Cond
  | 0 => .eq | 1 => .ne | 2 => .lt | 3 => .ge | 4 => .ltz | 5 => .gez | 6 => .le | 7 => .gt | 8 => .lez | _ => .gtz

def Cond.code : Cond → Nat
  | .eq => 0 | .ne => 1 | .lt => 2 | .ge => 3 | .ltz => 4 | .gez => 5 | .le => 6 | .gt => 7 | .lez => 8 | .gtz => 9

def FCond.ofCode : Nat → FCond
  | 0 => .eq | 1 => .ne | 2 => .lt | 3 => .le | 4 => .gt | 5 => .ge | 6 => .un | _ => .or

def FCond.code : FCond → Nat
  | .eq => 0 | .ne => 1 | .lt => 2 | .le => 3 | .gt => 4 | .ge => 5 | .un => 6 | .or => 7

def BankOp.ofCode : Nat → BankOp
  | 0 => .write | 1 => .add | 2 => .adds | 3 => .min | 4 => .max | 5 => .and | 6 => .or | 7 => .xor | _ => .cas

def BankOp.code : BankOp → Nat
  | .write => 0 | .add => 1 | .adds => 2 | .min => 3 | .max => 4 | .and => 5 | .or => 6 | .xor => 7 | .cas => 8

def Elem.ofCode : Nat → Elem
  | 0 => .z32 | 1 => .s32 | 2 => .fp32 | 3 => .fp64 | 4 => .b64 | 5 => .z64 | _ => .s64

def Elem.code : Elem → Nat
  | .z32 => 0 | .s32 => 1 | .fp32 => 2 | .fp64 => 3 | .b64 => 4 | .z64 => 5 | .s64 => 6

/-- The width in bytes of an element (R251, R325). -/
def Elem.bytes : Elem → Nat
  | .z32 | .s32 | .fp32 => 4
  | _ => 8

/-- The pairs of operation and element that R63 allows. -/
def bankPairOk (op el : Nat) : Bool :=
  match op with
  | 0 => decide (el ≤ 4)
  | 1 | 3 | 4 => decide (el ≤ 3)
  | 2 => decide (el ≤ 1)
  | 5 | 6 | 7 => decide (el ≤ 1) || el == 4
  | _ => false

/-- The pairs of operation and element that R146 allows. -/
def atomPairOk (op el : Nat) : Bool :=
  match op with
  | 0 => decide (el ≤ 6)
  | 1 | 3 | 4 => decide (el ≤ 3) || el == 5 || el == 6
  | 5 | 6 | 7 | 8 => decide (el ≤ 1) || el == 4 || el == 5 || el == 6
  | _ => false

def LdWidth.ofCode : Nat → LdWidth
  | 0 => .b8 | 1 => .b16 | 2 => .b32 | 3 => .b64 | 4 => .sb8 | _ => .sb16

def LdWidth.code : LdWidth → Nat
  | .b8 => 0 | .b16 => 1 | .b32 => 2 | .b64 => 3 | .sb8 => 4 | .sb16 => 5

def StWidth.ofCode : Nat → StWidth
  | 0 => .b8 | 1 => .b16 | 2 => .b32 | _ => .b64

def StWidth.code : StWidth → Nat
  | .b8 => 0 | .b16 => 1 | .b32 => 2 | .b64 => 3

def Scope.ofCode : Nat → Scope
  | 0 => .task | 1 => .stack | 2 => .package | _ => .system

def Scope.code : Scope → Nat
  | .task => 0 | .stack => 1 | .package => 2 | .system => 3

def ColWidth.ofCode : Nat → ColWidth
  | 0 => .b4 | 1 => .b8 | 2 => .b16 | 3 => .b32 | _ => .b64

def ColWidth.code : ColWidth → Nat
  | .b4 => 0 | .b8 => 1 | .b16 => 2 | .b32 => 3 | .b64 => 4

/-- Element width in bits, rows of a group, columns and groups of the column port (R318). -/
def ColWidth.bits : ColWidth → Nat
  | .b4 => 4 | .b8 => 8 | .b16 => 16 | .b32 => 32 | .b64 => 64

def ColWidth.rows : ColWidth → Nat
  | .b4 | .b8 => 32 | .b16 => 16 | .b32 => 8 | .b64 => 4

def ColWidth.columns (w : ColWidth) : Nat := 512 / w.bits

def ColWidth.groups (w : ColWidth) : Nat := 32 / w.rows

def WideFmt.ofCode : Nat → WideFmt
  | 0 => .fp32 | 1 => .fp16 | _ => .bf16

def WideFmt.code : WideFmt → Nat
  | .fp32 => 0 | .fp16 => 1 | .bf16 => 2

def WideFmt.fmt : WideFmt → Fmt
  | .fp32 => .fp32 | .fp16 => .fp16 | .bf16 => .bf16

/-- The registers of a wide group (R289). -/
def WideFmt.group : WideFmt → Nat
  | .fp32 => 4
  | _ => 2

def GrefField.ofCode : Nat → GrefField
  | 0 => .desc | 1 => .ext 0 | 2 => .ext 1 | 3 => .ext 2 | 4 => .ext 3 | 5 => .szlo | _ => .szhi

def GrefField.code : GrefField → Nat
  | .desc => 0 | .ext n => n.val + 1 | .szlo => 5 | .szhi => 6

/-- The formats that R270 allows for the opcodes 0x60 to 0x7F. -/
def vecFmtOk (op : Nat) (f : Fmt) : Bool :=
  let ints := [Fmt.s8, .z8, .s16, .z16, .s32, .z32]
  let small := [Fmt.s8, .s16, .s32]
  let floats := [Fmt.fp64, .fp32, .fp16, .bf16]
  let ok : List Fmt :=
    if op ∈ [0x60, 0x61, 0x62, 0x65, 0x66, 0x6E, 0x79, 0x7A, 0x7B] then ints ++ floats
    else if op ∈ [0x63, 0x64, 0x69, 0x6A] then floats
    else if op ∈ [0x67, 0x68] then small ++ floats
    else if op ∈ [0x6B, 0x6C, 0x6D] then [.fp32, .fp16, .bf16]
    else if op ∈ [0x73, 0x74, 0x7F] then ints
    else if op = 0x75 then small
    else if op = 0x7C then [.s8, .z8, .s16, .fp16, .bf16]
    else if op ∈ [0x6F, 0x76, 0x78, 0x7D, 0x7E] then ints ++ floats ++ [.t8, .t6, .e8]
    else if op = 0x77 then ints ++ [.s4, .z4] ++ floats ++ [.t8, .t6, .e8]
    else [.ut]
  ok.contains f

/-- The pairs of destination and source format of VCVT (R287). -/
def cvtOk (dst src : Fmt) : Bool :=
  !(dst == .ut || src == .ut || dst == src || dst == .e8
    || (src == .e8 && !([Fmt.fp64, .fp32, .fp16, .bf16].contains dst))
    || ([Fmt.s4, .z4].contains dst && src == .fp64) || ([Fmt.s4, .z4].contains src && dst == .fp64))

/-- A conversion that never rounds, so that its rounding field is 000 (R84, R287): one between integers, and one to an
IEEE or BF16 format that holds every value of the source, T8 and T6 among the sources (R88). -/
def cvtExact (dst src : Fmt) : Bool :=
  (dst.isInt && src.isInt) || (match dst with
    | .fp64 => [Fmt.fp32, .fp16, .bf16, .t8, .t6].contains src
    | .fp32 => [Fmt.fp16, .bf16, .t8, .t6].contains src
    | .fp16 | .bf16 => [Fmt.t8, .t6].contains src
    | _ => false)

/-- The parts of a conversion: the ratio of the lane counts (R288). -/
def cvtParts (dst src : Fmt) : Nat :=
  max dst.lanes src.lanes / min dst.lanes src.lanes

/-- The K-step of a joint operation (R118). -/
def kStep (f : Fmt) (sp : Bool) : Nat :=
  (match f with
    | .fp64 => 2 | .fp16 | .bf16 => 4 | .s4 => 16 | _ => 8) * (if sp then 2 else 1)

/-- The largest K of a joint operation (R118). -/
def kMax (f : Fmt) (col sp : Bool) : Nat :=
  if col then 32
  else (match f with
    | .fp64 => 8 | .fp16 | .bf16 => 32 | .s4 => 128 | _ => 64) * (if sp then 2 else 1)

/-- The groups of B columns in a tile (R120, R312). -/
def gGroups (f : Fmt) (col : Bool) : Nat :=
  if col then (match f with
    | .fp64 => 1 | .fp16 | .bf16 => 2 | .s4 => 8 | _ => 4)
  else if f = .fp64 then 4 else 2

/-- The limits of R312 on the shape of an MGANG. -/
def gangShapeOk (s : GangShape) : Bool :=
  decide (s.nlog.val ≤ 4) && [Fmt.fp64, .fp16, .bf16, .t8, .t6, .s8, .s4].contains s.fmt
    && decide ((s.ks.val + 1) * kStep s.fmt s.sp ≤ kMax s.fmt s.col s.sp) && decide (s.g.val < gGroups s.fmt s.col)
    && !(s.sp && (s.fmt == .fp64 || s.fmt == .s4 || s.col))
    && !(s.scl && !([Fmt.t8, .t6, .s8, .s4].contains s.fmt))

/-- Who may read and write a control register by its number. -/
inductive RegClass where
  | unassigned
  | reg (kinds : List CoreKind)
  deriving DecidableEq, Repr

/-- The control registers (R349, R351, R367). The reserved number after a control word counts as unassigned, those of
thread sets 2 and 3 of a memory core among them (DEDUCED, log entry 10). -/
def regClass (n : Nat) : RegClass :=
  let c := RegClass.reg [.compute]
  let cm := RegClass.reg [.compute, .memory]
  if n ∈ [0x000, 0x003, 0x004, 0x010, 0x011, 0x012, 0x013, 0x030, 0x031, 0x032] then c
  else if n ∈ [0x001, 0x002, 0x005, 0x014, 0x018, 0x019, 0x01A, 0x020, 0x021, 0x022, 0x023, 0x024, 0x028, 0x029,
      0x02A, 0x02B, 0x02C, 0x02D, 0x02E] then cm
  else if n = 0x038 then .reg [.compute, .memory, .control]
  else if n = 0x200 ∨ n = 0x201 then .reg [.control]
  else if 0x100 ≤ n ∧ n < 0x200 then
    if n % 0x40 = 1 then .unassigned
    else if n < 0x180 then cm else c
  else .unassigned

/-- The number reads a 64-bit value into a pair: SCORE, and the low half of a count (R165, R368). -/
def regWide (n : Nat) : Bool :=
  n == 0x030 || (decide (0x100 ≤ n) && decide (n < 0x200) && n % 2 == 0 && n % 0x40 != 0)

/-- The control word of a thread set (R367). -/
def regControlWord (n : Nat) : Option (Fin 4) :=
  if 0x100 ≤ n ∧ n < 0x200 ∧ n % 0x40 = 0 then some (Fin.ofNat 4 ((n - 0x100) / 0x40)) else none

/-- The timelines a core may name (R157). -/
def selOk (k : CoreKind) (sel : Nat) : Bool :=
  match k with
  | .compute => [0, 1, 2, 6, 7].contains sel
  | .memory => [3, 4, 5, 6, 7].contains sel
  | .control => false

end Codes

section Parts

def sreg (x : BitVec 5) : SReg := x.toFin
def spair (x : BitVec 5) : SPair := Fin.ofNat 16 (x.toNat / 2)
def preg (x : BitVec 5) : PReg := Fin.ofNat 8 x.toNat
def mreg (x : BitVec 5) : MReg := Fin.ofNat 16 x.toNat
def creg (x : BitVec 5) : CReg := Fin.ofNat 8 x.toNat

/-- Bits [lo + n - 1 : lo] of X as a number. -/
def xbits (x : BitVec 20) (lo n : Nat) : Nat := x.toNat / 2 ^ lo % 2 ^ n

/-- The relative target in IMM (R175). -/
def relTarget (imm : BitVec 24) : RelTarget :=
  { lines := imm.extractLsb' 3 21, slot := Fin.ofNat 5 (imm.toNat % 8) }

/-- A target slot of 5 to 7 is no slot (R175). -/
def badSlot (imm : BitVec 24) : Bool := decide (4 < imm.toNat % 8)

/-- The fields common to every instruction. -/
def Fields.hdr (f : Fields) : Hdr where
  vote := f.v == 1
  pg := f.pg.toFin
  pn := f.pn == 1
  dmA := f.dm.getLsbD 2
  dmB := f.dm.getLsbD 1
  dmC := f.dm.getLsbD 0

end Parts

section Forms
variable (k : CoreKind) (f : Fields) (h : Hdr)

/-- OP 0x02: three scalar operands (R217). IMM without .i counts as an unused field (DEDUCED, log entry 10). -/
def formInt3 (mk : Hdr → SReg → SReg → SReg → Instr) : Form :=
  { d := .s, a := .s, b := .s, vote := true, instr := mk h (sreg f.d) (sreg f.a) (sreg f.b) }

def formIntSat (mk : Hdr → SReg → SReg → SReg → Bool → Instr) : Form :=
  { d := .s, a := .s, b := .s, vote := true, sat := true,
    instr := mk h (sreg f.d) (sreg f.a) (sreg f.b) (f.sat == 1) }

def formShift (mk : Hdr → SReg → SReg → ShiftAmt → Instr) : Form :=
  if f.lo = 1 then
    { d := .s, a := .s, imm := true, vote := true, lo := [0, 1], bad := decide (31 < f.imm.toNat),
      instr := mk h (sreg f.d) (sreg f.a) (.imm (Fin.ofNat 32 f.imm.toNat)) }
  else
    { d := .s, a := .s, b := .s, vote := true, lo := [0, 1],
      instr := mk h (sreg f.d) (sreg f.a) (.reg (sreg f.b)) }

def formInt1 (mk : Hdr → SReg → SReg → Instr) : Form :=
  { d := .s, a := .s, vote := true, instr := mk h (sreg f.d) (sreg f.a) }

/-- OP 0x02 by FN (R217, R218). -/
def formInt : Option Form :=
  match f.fn.toNat with
  | 0x00 => some (formIntSat f h .iadd)
  | 0x01 => some (formIntSat f h .isub)
  | 0x02 => some (formInt3 f h .imul)
  | 0x03 => some (formInt3 f h .imulh)
  | 0x04 => some (formInt3 f h .imulhz)
  | 0x05 => some (formInt3 f h .idiv)
  | 0x06 => some (formInt3 f h .idivz)
  | 0x07 => some (formInt3 f h .irem)
  | 0x08 => some (formInt3 f h .iremz)
  | 0x09 => some (formInt3 f h .iand)
  | 0x0A => some (formInt3 f h .ior)
  | 0x0B => some (formInt3 f h .ixor)
  | 0x0C => some (formInt3 f h .iandn)
  | 0x0D => some (formShift f h .ishl)
  | 0x0E => some (formShift f h .ishrl)
  | 0x0F => some (formShift f h .ishra)
  | 0x10 => some (formShift f h .irotl)
  | 0x11 => some (formInt3 f h .imin)
  | 0x12 => some (formInt3 f h .imax)
  | 0x13 => some (formInt3 f h .iminz)
  | 0x14 => some (formInt3 f h .imaxz)
  | 0x15 => some (formInt1 f h .iclz)
  | 0x16 => some (formInt1 f h .ipop)
  | 0x17 => some { d := .s, a := .s, b := .s, c := .p, vote := true,
                   instr := Instr.isel h (sreg f.d) (sreg f.a) (sreg f.b) (preg f.c) }
  | _ => none

/-- IADDI (R221). -/
def formAddi : Form :=
  if f.lo = 1 then
    { d := .sp, a := .sp, imm := true, sat := true, lo := [0, 1], bad := f.sat == 1, vote := true,
      instr := Instr.iaddi h (.w64 (spair f.d) (spair f.a)) f.imm }
  else
    { d := .s, a := .s, imm := true, sat := true, lo := [0, 1], vote := true,
      instr := Instr.iaddi h (.w32 (sreg f.d) (sreg f.a) (f.sat == 1)) f.imm }

/-- PSET (R226). -/
def formPset : Option Form :=
  let n := f.fn.toNat
  let one (mk : SReg → PsetSrc) (bad : Bool) : Form :=
    { d := .p, a := .s, imm := true, vote := true, bad := bad, instr := Instr.pset h (preg f.d) (mk (sreg f.a)) }
  if n ≤ 9 then
    some { d := .p, a := .s, b := .s, vote := true,
           instr := Instr.pset h (preg f.d) (.cmp (Cond.ofCode n) (sreg f.a) (sreg f.b)) }
  else
    match n with
    | 0x0A => some (one (.eqi · f.imm) false)
    | 0x0B => some (one (.nei · f.imm) false)
    | 0x0C => some (one (.lti · f.imm) false)
    | 0x0D => some (one (.gei · f.imm) false)
    | 0x0E => some (one (.bit · (Fin.ofNat 32 f.imm.toNat)) (decide (31 < f.imm.toNat)))
    | 0x0F => some { d := .p, imm := true, vote := true, bad := decide (1 < f.imm.toNat),
                     instr := Instr.pset h (preg f.d) (.const (f.imm == 1)) }
    | _ => none

/-- OP 0x31 (R227). -/
def formPred (mk : Hdr → PReg → PReg → PReg → Instr) : Form :=
  { d := .p, a := .p, b := .p, vote := true, instr := mk h (preg f.d) (preg f.a) (preg f.b) }

/-- Transfers and loops (R229, R233). -/
def formCall : Form :=
  if f.lo = 1 then
    { d := .s, a := .s, lo := [0, 1], instr := Instr.callInd h (sreg f.d) (sreg f.a) }
  else
    { d := .s, imm := true, lo := [0, 1], bad := badSlot f.imm, instr := Instr.call h (sreg f.d) (relTarget f.imm) }

/-- CRD and CWR (R348, R349, R190): what the register number decides. -/
def formReg (write : Bool) : Form :=
  let n := xbits f.x 0 10
  let r := f.x.extractLsb' 0 10
  let base : Form :=
    if write then
      { a := .s, x := 0x3FF,
        instr := match regControlWord n with
          | some t => Instr.counterZero h (sreg f.a) t
          | none => Instr.cwr h (sreg f.a) r }
    else { d := if regWide n then .sp else .s, x := 0x3FF, instr := Instr.crd h (sreg f.d) r }
  match regClass n with
  | .unassigned => { base with bad := true }
  | .reg kinds => { base with kinds := kinds }

def both : List CoreKind := [.compute, .memory, .control]

/-- A load or store of OP 0x40 and 0x41 (R244). -/
def formLd : Form :=
  { d := if f.lo = 3 then .sp else .s, a := .sp, imm := true, lo := [0, 1, 2, 3, 4, 5],
    instr := Instr.ld h (.ofCode f.lo.toNat) (sreg f.d) (spair f.a) f.imm }

def formSt : Form :=
  { b := if f.lo = 3 then .sp else .s, a := .sp, imm := true, lo := [0, 1, 2, 3],
    instr := Instr.st h (.ofCode f.lo.toNat) (sreg f.b) (spair f.a) f.imm }

/-- The formats of the strided and gathered forms (R246, R247). -/
def strideFmtOk (f : Fmt) : Bool := !([Fmt.ut, .s4, .z4, .t6].contains f)
def gatherFmtOk (f : Fmt) : Bool := [Fmt.s32, .z32, .fp32, .fp64].contains f

/-- The rows of a tile transfer (R248). -/
def tileRows (x : BitVec 20) : TileRows :=
  { cnt := Fin.ofNat 32 (xbits x 5 5), row := Fin.ofNat 32 (xbits x 0 5) }

/-- LAMO (R251). -/
def formLamo : Form :=
  let op := xbits f.x 0 4
  let el := xbits f.x 4 3
  let r : Use := if (Elem.ofCode el).bytes = 8 then .sp else .s
  let bad := !(bankPairOk op el)
  if f.lo = 1 then
    { a := .sp, b := r, imm := true, x := 0x7F, lo := [0, 1], bad := bad,
      instr := Instr.lamo h (.ofCode op) (.ofCode el) none (spair f.a) (sreg f.b) f.imm }
  else
    { d := r, a := .sp, b := r, imm := true, x := 0x7F, lo := [0, 1], bad := bad,
      instr := Instr.lamo h (.ofCode op) (.ofCode el) (some (sreg f.d)) (spair f.a) (sreg f.b) f.imm }

/-- SEND and SENDOP (R256); `hi` holds the bits of X above the length that the entry uses. -/
def formSend (hi : BitVec 20) (bad : Bool) (mk : SendLen → Instr) : Form :=
  if f.lo = 1 then
    { d := .s, a := .sp, b := .s, c := .s, imm := true, x := hi, lo := [0, 1], bad := bad,
      kinds := [.compute], instr := mk (.reg (sreg f.d)) }
  else
    { a := .sp, b := .s, c := .s, imm := true, x := hi ||| 0x1FFF, lo := [0, 1], bad := bad,
      kinds := [.compute], instr := mk (.imm (f.x.extractLsb' 0 13)) }

/-- TLWAIT and TLREAD (R263). -/
def formTl (write : Bool) : Form :=
  let sel := xbits f.x 0 5
  let bad := !(selOk k sel)
  if write then { a := .sp, x := 0x1F, bad := bad, instr := Instr.tlwait h (Fin.ofNat 8 sel) (spair f.a) }
  else { d := .sp, x := 0x1F, bad := bad, instr := Instr.tlread h (Fin.ofNat 8 sel) (spair f.d) }

/-- One definition for the element-wise forms of R271 to R274: how many vector sources, rounding, saturation. -/
def formV1 (mk : Hdr → Fmt → RmCode → Bool → VReg → VReg → Instr) (rm sat : Bool) : Form :=
  { d := .v, a := .v, rm := rm, sat := sat, vote := true,
    instr := mk h (.ofCode f.fn.toNat) (.ofCode f.rm.toNat) (f.sat == 1) (sreg f.d) (sreg f.a) }

def formV2 (mk : Hdr → Fmt → RmCode → Bool → VReg → VReg → VReg → Instr) (rm sat : Bool) : Form :=
  { d := .v, a := .v, b := .v, rm := rm, sat := sat, vote := true,
    instr := mk h (.ofCode f.fn.toNat) (.ofCode f.rm.toNat) (f.sat == 1) (sreg f.d) (sreg f.a) (sreg f.b) }

def formV3 (mk : Hdr → Fmt → RmCode → Bool → VReg → VReg → VReg → VReg → Instr) (rm sat : Bool) : Form :=
  { d := .v, a := .v, b := .v, c := .v, rm := rm, sat := sat, vote := true,
    instr := mk h (.ofCode f.fn.toNat) (.ofCode f.rm.toNat) (f.sat == 1) (sreg f.d) (sreg f.a) (sreg f.b) (sreg f.c) }

def formVBit (mk : Hdr → VReg → VReg → VReg → Instr) : Form :=
  { d := .v, a := .v, b := .v, vote := true, instr := mk h (sreg f.d) (sreg f.a) (sreg f.b) }

def formVShift (mk : Hdr → Fmt → VReg → VReg → VShiftAmt → Instr) : Form :=
  if f.lo = 1 then
    { d := .v, a := .v, imm := true, lo := [0, 1], bad := decide (31 < f.imm.toNat), vote := true,
      instr := mk h (.ofCode f.fn.toNat) (sreg f.d) (sreg f.a) (.imm (Fin.ofNat 32 f.imm.toNat)) }
  else
    { d := .v, a := .v, b := .v, lo := [0, 1], vote := true,
      instr := mk h (.ofCode f.fn.toNat) (sreg f.d) (sreg f.a) (.reg (sreg f.b)) }

def formVshuf : Form :=
  let fmt := Fmt.ofCode f.fn.toNat
  let two (p : VReg → ShufPat) : Form :=
    { d := .v, a := .v, b := .v, lo := [0, 1, 2, 3, 4, 5], vote := true,
      instr := Instr.vshuf h fmt (p (sreg f.b)) (sreg f.d) (sreg f.a) }
  match f.lo.toNat with
  | 0 => two .ilo
  | 1 => two .ihi
  | 2 => two .even
  | 3 => two .odd
  | 4 => { d := .v, a := .v, lo := [4], vote := true, instr := Instr.vshuf h fmt .rev (sreg f.d) (sreg f.a) }
  | 5 => { d := .v, a := .v, imm := true, lo := [5], vote := true, bad := decide (fmt.lanes ≤ f.imm.toNat),
           instr := Instr.vshuf h fmt (.rot (Fin.ofNat 32 f.imm.toNat)) (sreg f.d) (sreg f.a) }
  | _ => two .ilo

/-- The scalar register that takes or gives a lane: a pair for FP64 (R281, R283, R285). -/
def laneUse (fmt : Fmt) : Use := if fmt = .fp64 then .sp else .s

/-- OP 0x60 to 0x7F (R267, R271 to R286). -/
def formVec : Option Form :=
  let fmt := Fmt.ofCode f.fn.toNat
  let fl := !fmt.isInt
  if f.fn.toNat / 16 ≠ 0 ∨ ¬ vecFmtOk f.op.toNat fmt then none
  else
    match f.op.toNat with
    | 0x60 => some (formV2 f h .vadd fl true)
    | 0x61 => some (formV2 f h .vsub fl true)
    | 0x62 => some (formV2 f h .vmul fl true)
    | 0x63 => some (formV3 f h .vfma fl true)
    | 0x64 => some (formV3 f h .vfms fl true)
    | 0x65 => some (formV2 f h .vmin fl fl)
    | 0x66 => some (formV2 f h .vmax fl fl)
    | 0x67 => some (formV1 f h .vabs fl true)
    | 0x68 => some (formV1 f h .vneg fl true)
    | 0x69 => some (formV2 f h .vdiv true true)
    | 0x6A => some (formV1 f h .vsqrt true true)
    | 0x6B => some (formV1 f h .vrsq (fmt != .fp32) true)
    | 0x6C => some (formV1 f h .vexp2 (fmt != .fp32) true)
    | 0x6D => some (formV1 f h .vlog2 (fmt != .fp32) true)
    | 0x6E => some { d := .s, a := .v, b := .v, lo := [0, 1, 2, 3, 4, 5, 6, 7], vote := true,
                     bad := fmt.isInt && decide (6 ≤ f.lo.toNat),
                     instr := Instr.vcmp h fmt (.ofCode f.lo.toNat) (sreg f.d) (sreg f.a) (sreg f.b) }
    | 0x6F => some { d := .v, a := .v, b := .v, c := .s, vote := true,
                     instr := Instr.vsel h fmt (sreg f.d) (sreg f.a) (sreg f.b) (sreg f.c) }
    | 0x70 => some (formVBit f h .vand)
    | 0x71 => some (formVBit f h .vor)
    | 0x72 => some (formVBit f h .vxor)
    | 0x73 => some (formVShift f h .vshl)
    | 0x74 => some (formVShift f h .vshr)
    | 0x75 => some (formVShift f h .vshra)
    | 0x76 => some { d := .v, a := .v, b := .v, c := .v, vote := true,
                     instr := Instr.vperm h fmt (sreg f.d) (sreg f.a) (sreg f.b) (sreg f.c) }
    | 0x77 => some { d := .v, a := laneUse fmt, vote := true, instr := Instr.vbcast h fmt (sreg f.d) (sreg f.a) }
    | 0x78 => some (formVshuf f h)
    | 0x79 => some { d := laneUse fmt, a := .v, rm := fl, sat := true, vote := true,
                     instr := Instr.vredadd h fmt (.ofCode f.rm.toNat) (f.sat == 1) (sreg f.d) (sreg f.a) }
    | 0x7A => some { d := laneUse fmt, a := .v, rm := fl, vote := true,
                     instr := Instr.vredmax h fmt (.ofCode f.rm.toNat) (sreg f.d) (sreg f.a) }
    | 0x7B => some { d := laneUse fmt, a := .v, rm := fl, vote := true,
                     instr := Instr.vredmin h fmt (.ofCode f.rm.toNat) (sreg f.d) (sreg f.a) }
    | 0x7C => some (formV3 f h .vdot fl true)
    | 0x7D => some { d := .v, a := laneUse fmt, imm := true, vote := true, bad := decide (fmt.lanes ≤ f.imm.toNat),
                     instr := Instr.vmovs h fmt (sreg f.d) (sreg f.a) (Fin.ofNat 32 f.imm.toNat) }
    | 0x7E => some { d := laneUse fmt, a := .v, imm := true, vote := true, bad := decide (fmt.lanes ≤ f.imm.toNat),
                     instr := Instr.vexts h fmt (sreg f.d) (sreg f.a) (Fin.ofNat 32 f.imm.toNat) }
    | 0x7F => some { d := .v, a := .s, imm := true, sat := true, vote := true,
                     instr := Instr.viota h fmt (f.sat == 1) (sreg f.d) (sreg f.a) f.imm }
    | _ => none

/-- OP 0x80 to 0x85: conversion, block quantisation, tags (R287 to R294). -/
def formCvt : Option Form :=
  let dst := Fmt.ofCode (f.fn.toNat / 16)
  let src := Fmt.ofCode (f.fn.toNat % 16)
  if cvtOk dst src then
    some { d := .v, a := .v, rm := !cvtExact dst src, sat := true, vote := true,
           lo := List.range (min 8 (cvtParts dst src)),
           instr := Instr.vcvt h dst src (.ofCode f.rm.toNat) (f.sat == 1) (Fin.ofNat 8 f.lo.toNat) (sreg f.d)
             (sreg f.a) }
  else none

def quantFmtOk (f : Fmt) : Bool := [Fmt.s8, .s4, .t8, .t6].contains f

def formQuant : Option Form :=
  let qf := Fmt.ofCode f.fn.toNat
  let wf := WideFmt.ofCode f.lo.toNat
  if f.fn.toNat / 16 ≠ 0 ∨ ¬ quantFmtOk qf then none
  else
    match f.op.toNat with
    | 0x81 => some { d := .v, a := .vg wf.group, b := .sOut, lo := [0, 1, 2], vote := true,
                     instr := Instr.vquant h qf wf (sreg f.d) (sreg f.a) (sreg f.b) }
    | 0x82 => some { d := .vg wf.group, a := .v, b := .s, rm := true, sat := true, lo := [0, 1, 2], vote := true,
                     instr := Instr.vdeq h qf wf (.ofCode f.rm.toNat) (f.sat == 1) (sreg f.d) (sreg f.a) (sreg f.b) }
    | _ => some { d := .v, a := .vg wf.group, b := .s, lo := [0, 1, 2], vote := true,
                  instr := Instr.vscale h qf wf (sreg f.d) (sreg f.a) (sreg f.b) }

/-- VTAGQ (R294): every value it forbids raises 0x104. Its A takes no dead mark. -/
def formTagq : Form :=
  let bad := decide (3 ≤ f.x.toNat) || (k == .memory && f.x != 0)
  match f.x.toNat with
  | 1 => { d := .s, a := .m, x := 0xFFFFF, vote := true, bad := bad,
           instr := Instr.vtagq h (sreg f.d) (.tile (mreg f.a)) }
  | 2 => { d := .s, a := .c, x := 0xFFFFF, vote := true, bad := bad,
           instr := Instr.vtagq h (sreg f.d) (.acc (creg f.a)) }
  | _ => { d := .s, a := .par, x := 0xFFFFF, vote := true, bad := bad,
           instr := Instr.vtagq h (sreg f.d) (.vec (sreg f.a)) }

/-- The Flinum forms (R296 to R308). -/
def formF1 (mk : Hdr → RmCode → Bool → Bool → FReg → FReg → Instr) : Form :=
  { d := .f, a := .f, rm := true, ex := true, sat := true, vote := true, kinds := [.compute],
    instr := mk h (.ofCode f.rm.toNat) (f.ex == 1) (f.sat == 1) (sreg f.d) (sreg f.a) }

def formF2 (mk : Hdr → RmCode → Bool → Bool → FReg → FReg → FReg → Instr) : Form :=
  { d := .f, a := .f, b := .f, rm := true, ex := true, sat := true, vote := true, kinds := [.compute],
    instr := mk h (.ofCode f.rm.toNat) (f.ex == 1) (f.sat == 1) (sreg f.d) (sreg f.a) (sreg f.b) }

def formFArith : Option Form :=
  match f.fn.toNat with
  | 0x00 => some (formF2 f h .fadd)
  | 0x01 => some (formF2 f h .fsub)
  | 0x02 => some (formF2 f h .fmul)
  | 0x03 => some { formF2 f h .fadd with
      c := .f
      instr := Instr.ffma h (.ofCode f.rm.toNat) (f.ex == 1) (f.sat == 1) (sreg f.d) (sreg f.a) (sreg f.b) (sreg f.c) }
  | 0x04 => some (formF2 f h .fdiv)
  | 0x05 => some (formF1 f h .fsqrt)
  | 0x06 => some (formF1 f h .fabs)
  | 0x07 => some (formF1 f h .fneg)
  | 0x08 => some (formF1 f h .fmov)
  | 0x09 => some (formF1 f h .fround)
  | 0x0A => some { formF2 f h .fadd with
      b := .s
      instr := Instr.fscalb h (.ofCode f.rm.toNat) (f.ex == 1) (f.sat == 1) (sreg f.d) (sreg f.a) (sreg f.b) }
  | _ => none

def formFConv : Option Form :=
  let rm := RmCode.ofCode f.rm.toNat
  let x := f.ex == 1
  let sat := f.sat == 1
  let w := f.lo = 1
  let base : Form := { rm := true, ex := true, sat := true, vote := true, kinds := [.compute] }
  match f.fn.toNat with
  | 0x00 => some { base with d := .f, a := .sp, instr := Instr.fcvtd h rm x sat (sreg f.d) (spair f.a) }
  | 0x01 => some { base with
      d := .f, a := if w then .sp else .s, lo := [0, 1]
      instr := Instr.fcvts h rm x sat (sreg f.d) (if w then .w64 (spair f.a) else .w32 (sreg f.a)) }
  | 0x02 => some { base with d := .sp, a := .f, instr := Instr.ftod h rm x sat (spair f.d) (sreg f.a) }
  | 0x03 => some { base with
      d := if w then .sp else .s, a := .f, lo := [0, 1], sat := false
      instr := Instr.ftos h rm x (if w then .w64 (spair f.d) else .w32 (sreg f.d)) (sreg f.a) }
  | 0x04 => some { base with
      d := .f, a := .f, b := .v, instr := Instr.faccv h rm x sat (sreg f.d) (sreg f.a) (sreg f.b) }
  | _ => none

def formFState : Option Form :=
  let imm := f.imm.toNat
  let off := xbits f.x 0 6
  match f.fn.toNat with
  | 0x00 =>
    if f.lo = 1 then some { a := .s, lo := [0, 1], kinds := [.compute], instr := Instr.fprec h (.reg (sreg f.a)) }
    else some { imm := true, lo := [0, 1], kinds := [.compute], bad := decide (imm < 8) || decide (512 < imm),
                instr := Instr.fprec h (.imm (Fin.ofNat 1024 imm)) }
  | 0x01 =>
    let rm := RmCode.ofCode f.rm.toNat
    if f.lo = 1 then
      some { d := .f, imm := true, rm := true, ex := true, sat := true, lo := [0, 1], kinds := [.compute],
             instr := Instr.fldc h rm (f.ex == 1) (f.sat == 1) (sreg f.d) (.imm f.imm) }
    else
      some { d := .f, imm := true, x := 0xFFFFF, rm := true, ex := true, sat := true, lo := [0, 1],
             kinds := [.compute],
             bad := imm % 8 != 0 || f.x.toNat % 4 != 0 || decide (60 ≤ f.x.toNat),
             instr := Instr.fldc h rm (f.ex == 1) (f.sat == 1) (sreg f.d)
               (.literal (f.imm.extractLsb' 3 21) (Fin.ofNat 60 off)) }
  | 0x02 =>
    -- neither D nor A is read, so neither takes a mark (R303)
    if f.lo = 1 then
      some { d := .f, a := .par, lo := [0, 1], kinds := [.compute], bad := decide (f.a.toNat < f.d.toNat),
             instr := Instr.frel h (sreg f.d) (some (sreg f.a)) }
    else some { d := .f, lo := [0, 1], kinds := [.compute], instr := Instr.frel h (sreg f.d) none }
  | 0x03 => some { d := .s, a := .par, kinds := [.compute], instr := Instr.flen h (sreg f.d) (sreg f.a) }
  | 0x04 => some { d := .s, a := .f, kinds := [.compute], instr := Instr.fexp h (sreg f.d) (sreg f.a) }
  | _ => none

/-- The fields of X of MGANG and MDRAIN (R312, R316). -/
def gangShape (lo : BitVec 3) (x : BitVec 20) : GangShape where
  nlog := Fin.ofNat 5 lo.toNat
  g := Fin.ofNat 8 (xbits x 11 3)
  ks := Fin.ofNat 16 (xbits x 7 4)
  scl := x.getLsbD 6
  sp := x.getLsbD 5
  col := x.getLsbD 4
  fmt := .ofCode (xbits x 0 4)

def drainShape (x : BitVec 20) : DrainShape where
  z := x.getLsbD 12
  cnt := Fin.ofNat 16 (xbits x 8 4)
  row := Fin.ofNat 16 (xbits x 4 4)
  dst := .ofCode (xbits x 0 4)

def drainShapeOk (s : DrainShape) : Bool :=
  decide (s.row.val + s.cnt.val ≤ 15) && [Fmt.fp32, .fp16, .bf16, .fp64].contains s.dst

/-- OP 0xA0 to 0xA9 (R310 to R318). -/
def formMat : Form :=
  let row : Fin 32 := Fin.ofNat 32 (xbits f.x 0 5)
  let w := ColWidth.ofCode f.lo.toNat
  let j := xbits f.x 0 7
  let q := xbits f.x 7 3
  match f.op.toNat with
  | 0xA0 =>
    { d := .c, a := .m, b := .s, c := .s, x := 0x3FFF, lo := [0, 1, 2, 3, 4], unguarded := true, kinds := [.compute],
      bad := !gangShapeOk (gangShape f.lo f.x),
      instr := Instr.mgang h (gangShape f.lo f.x) (creg f.d) (mreg f.a) (sreg f.b) (sreg f.c) }
  | 0xA1 => { a := .sp, imm := true, kinds := [.compute], instr := Instr.mdesc h (spair f.a) f.imm }
  | 0xA2 =>
    { d := .c, x := 0xF, kinds := [.compute], bad := xbits f.x 0 4 != 0xA && xbits f.x 0 4 != 0x9,
      instr := Instr.mzero h (xbits f.x 0 4 == 0x9) (creg f.d) }
  | 0xA3 =>
    { a := .sp, b := .s, c := .c, imm := true, x := 0x1FFF, rm := true, sat := true, kinds := [.compute],
      bad := !drainShapeOk (drainShape f.x),
      instr := Instr.mdrain h (.ofCode f.rm.toNat) (f.sat == 1) (drainShape f.x) (spair f.a) (sreg f.b) (creg f.c)
        f.imm }
  | 0xA4 => { a := .sp, imm := true, kinds := [.compute], instr := Instr.mmeta h (spair f.a) f.imm }
  | 0xA5 => { a := .sp, imm := true, lo := [0, 1], kinds := [.compute],
              instr := Instr.mscl h (f.lo == 1) (spair f.a) f.imm }
  | 0xA6 => { d := .v, a := .m, x := 0x1F, lo := [0, 1], kinds := [.compute],
              instr := Instr.mrowrd h (f.lo == 1) (sreg f.d) (mreg f.a) row }
  | 0xA7 => { d := .m, a := .v, x := 0x1F, lo := [0, 1], kinds := [.compute],
              instr := Instr.mrowwr h (f.lo == 1) (mreg f.d) (sreg f.a) row }
  | 0xA8 => { d := .v, a := .m, x := 0x3FF, lo := [0, 1, 2, 3, 4], kinds := [.compute],
              bad := !(decide (j < w.columns) && decide (q < w.groups)),
              instr := Instr.mcolrd h w (sreg f.d) (mreg f.a) (Fin.ofNat 128 j) (Fin.ofNat 8 q) }
  | _ => { d := .m, a := .v, x := 0x3FF, lo := [0, 1, 2, 3, 4], kinds := [.compute],
           bad := !(decide (j < w.columns) && decide (q < w.groups)),
           instr := Instr.mcolwr h w (mreg f.d) (sreg f.a) (Fin.ofNat 128 j) (Fin.ofNat 8 q) }

/-- GLD and GST (R324). -/
def formGld : Form :=
  let fmt := Fmt.ofCode (xbits f.x 0 4)
  let base : Form := { a := .sp, c := .par, imm := true, x := 0xF, lo := [0, 1, 2, 3, 4, 5, 6, 7], kinds := [.memory],
                       bad := fmt == .ut }
  let mk (dst : GldDst) := Instr.gld h fmt dst (spair f.a) (sreg f.c) f.imm
  match f.lo.toNat with
  | 6 => { base with d := .v, instr := mk (.vec (sreg f.d)) }
  | 7 => { base with d := .s, x := 0x1FFFF, instr := mk (.blk (sreg f.d) (f.x.extractLsb' 4 13)) }
  | 3 => { base with d := .sp, instr := mk (.scalar .b64 (sreg f.d)) }
  | w => { base with d := .s, instr := mk (.scalar (.ofCode w) (sreg f.d)) }

def formGst : Form :=
  let fmt := Fmt.ofCode (xbits f.x 0 4)
  let base : Form := { a := .sp, c := .par, imm := true, x := 0xF, lo := [0, 1, 2, 3, 6, 7], kinds := [.memory],
                       bad := fmt == .ut }
  let mk (src : GstSrc) := Instr.gst h fmt src (spair f.a) (sreg f.c) f.imm
  match f.lo.toNat with
  | 6 => { base with b := .v, instr := mk (.vec (sreg f.b)) }
  | 7 => { base with b := .s, x := 0x1FFFF, instr := mk (.blk (sreg f.b) (f.x.extractLsb' 4 13)) }
  | 3 => { base with b := .sp, instr := mk (.scalar .b64 (sreg f.b)) }
  | w => { base with b := .s, instr := mk (.scalar (.ofCode w) (sreg f.b)) }

/-- GATOM (R325). -/
def formGatom : Form :=
  let op := xbits f.x 4 4
  let el := xbits f.x 8 3
  let w8 := (Elem.ofCode el).bytes = 8
  let r : Use := if w8 then .sp else .s
  let rb : Use := if op = 8 then (if w8 then .cas 8 else .cas 4) else r
  let base : Form := { a := .sp, b := rb, c := .par, imm := true, x := 0x7F0, lo := [0, 1], kinds := [.memory] }
  if f.lo = 1 then
    { base with
      bad := !(atomPairOk op el) || op == 8
      instr := Instr.gatom h (.ofCode op) (.ofCode el) none (spair f.a) (sreg f.b) (sreg f.c) f.imm }
  else
    { base with
      d := r, bad := !(atomPairOk op el)
      instr := Instr.gatom h (.ofCode op) (.ofCode el) (some (sreg f.d)) (spair f.a) (sreg f.b) (sreg f.c) f.imm }

/-- GACQ and GREL (R326). -/
def formGacq : Form :=
  let fmt := Fmt.ofCode (xbits f.x 0 4)
  let wide := f.lo.getLsbD 2
  { d := if wide then .sp else .s, a := .sp, c := .par, imm := true, x := 0xF, lo := [0, 1, 2, 3, 4, 5, 6, 7],
    kinds := [.memory], bad := fmt == .ut,
    instr := Instr.gacq h wide (.ofCode (f.lo.toNat % 4)) fmt (sreg f.d) (spair f.a) (sreg f.c) f.imm }

def formGrel : Form :=
  let fmt := Fmt.ofCode (xbits f.x 0 4)
  let wide := f.lo.getLsbD 2
  { b := if wide then .sp else .s, a := .sp, c := .par, imm := true, x := 0xF, lo := [0, 1, 2, 3, 4, 5, 6, 7],
    kinds := [.memory], bad := fmt == .ut,
    instr := Instr.grel h wide (.ofCode (f.lo.toNat % 4)) fmt (spair f.a) (sreg f.b) (sreg f.c) f.imm }

/-- PUSH (R327). -/
def formPush : Form :=
  let base : Form := { a := .sp, imm := true, x := 0x1FFF, lo := [0, 1, 2], kinds := [.memory] }
  let mk (p : PushForm) := Instr.push h p (spair f.a) f.imm (f.x.extractLsb' 0 13)
  match f.lo.toNat with
  | 1 => { base with instr := mk .deal }
  | 2 => { base with b := .s, instr := mk (.mc (sreg f.b)) }
  | _ => { base with b := .s, c := .s, instr := mk (.direct (sreg f.b) (sreg f.c)) }

/-- The form of a word by its opcode (R189); `none` where OP or FN is unassigned. -/
def form : Option Form :=
  let fn0 (g : Form) : Option Form := if f.fn = 0 then some g else none
  let fmt := Fmt.ofCode (xbits f.x 0 4)
  let d := sreg f.d
  let a := spair f.a
  match f.op.toNat with
  | 0x01 => fn0 { instr := Instr.nop h }
  | 0x02 => formInt f h
  | 0x03 => fn0 (formAddi f h)
  | 0x04 => if f.fn.toNat ≤ 9 then
      some { d := .s, a := .s, b := .s, vote := true,
             instr := Instr.icmp h (.ofCode f.fn.toNat) d (sreg f.a) (sreg f.b) } else none
  | 0x05 => fn0 { d := .s, imm := true, vote := true, instr := Instr.imovi h d f.imm }
  | 0x06 => fn0 { d := .s, imm := true, vote := true, bad := decide (0xFFFF < f.imm.toNat),
                  instr := Instr.imovhi h d (f.imm.extractLsb' 0 16) }
  | 0x07 => match f.fn.toNat with
    | 0 => some { d := .sp, a := .sp, b := .sp, vote := true, instr := Instr.padd h (spair f.d) a (spair f.b) }
    | 1 => some { d := .sp, a := .sp, b := .sp, vote := true, instr := Instr.psub h (spair f.d) a (spair f.b) }
    | _ => none
  | 0x08 => match f.fn.toNat with
    | 0 => some { d := .sp, a := .sp, b := .s, imm := true, sat := true, lo := List.range 8, vote := true,
                  instr := Instr.aadd h (spair f.d) a (sreg f.b) f.lo.toFin (f.sat == 1) f.imm }
    | 1 => some { d := .sp, a := .sp, b := .s, imm := true, lo := List.range 8, vote := true,
                  instr := Instr.aadds h (spair f.d) a (sreg f.b) f.lo.toFin f.imm }
    | _ => none
  | 0x20 => fn0 { imm := true, bad := badSlot f.imm, instr := Instr.br h (relTarget f.imm) }
  | 0x21 => fn0 { a := .s, instr := Instr.jmp h (sreg f.a) }
  | 0x22 => fn0 (formCall f h)
  | 0x23 => fn0 { a := .s, instr := Instr.ret h (sreg f.a) }
  | 0x24 => fn0 { a := .s, imm := true, bad := badSlot f.imm, unguarded := true,
                  instr := Instr.loop h (sreg f.a) (relTarget f.imm) }
  | 0x25 => fn0 { imm := true, x := 0xFFFFF, bad := badSlot f.imm, unguarded := true,
                  instr := Instr.loopi h (relTarget f.imm) f.x }
  | 0x26 => fn0 { unguarded := true, instr := Instr.halt h }
  | 0x27 => fn0 { instr := Instr.yield h }
  | 0x30 => formPset f h
  | 0x31 => match f.fn.toNat with
    | 0 => some (formPred f h .pand)
    | 1 => some (formPred f h .por)
    | 2 => some (formPred f h .pxor)
    | 3 => some { d := .p, a := .p, vote := true, instr := Instr.pnot h (preg f.d) (preg f.a) }
    | _ => none
  | 0x38 => fn0 (formReg f h false)
  | 0x39 => fn0 (formReg f h true)
  | 0x3A => fn0 { imm := true, instr := Instr.trap h f.imm }
  | 0x3B => fn0 { lo := [0, 1], unguarded := true, instr := Instr.xret h (f.lo == 1) }
  | 0x3C => fn0 { instr := Instr.ifence h }
  | 0x3D => fn0 { imm := true, instr := Instr.brk h f.imm }
  | 0x3E => fn0 { d := .s, a := .sp, b := .sp, imm := true, x := 0xFFFFF,
                  instr := Instr.wait h d a (spair f.b) f.imm f.x }
  | 0x3F => fn0 { d := .s, a := .s, priv := some 0, instr := Instr.capbuild h d (sreg f.a) }
  | 0x40 => fn0 (formLd f h)
  | 0x41 => fn0 (formSt f h)
  | 0x42 => fn0 { d := .v, a := .sp, imm := true, x := 0xF, bad := fmt == .ut, instr := Instr.ldv h fmt d a f.imm }
  | 0x43 => fn0 { b := .v, a := .sp, imm := true, x := 0xF, bad := fmt != .ut && fmt != .t6,
                  instr := Instr.stv h (fmt == .t6) (sreg f.b) a f.imm }
  | 0x44 => fn0 { d := .v, a := .sp, b := .s, imm := true, x := 0xF, bad := !strideFmtOk fmt,
                  instr := Instr.ldvs h fmt d a (sreg f.b) f.imm }
  | 0x45 => fn0 { b := .v, a := .sp, c := .s, imm := true, x := 0xF, bad := !strideFmtOk fmt,
                  instr := Instr.stvs h fmt (sreg f.b) a (sreg f.c) f.imm }
  | 0x46 => fn0 { d := .v, a := .sp, b := .v, imm := true, x := 0xF, lo := List.range 8, bad := !gatherFmtOk fmt,
                  instr := Instr.ldvx h fmt f.lo.toFin d a (sreg f.b) f.imm }
  | 0x47 => fn0 { b := .v, a := .sp, c := .v, imm := true, x := 0xF, lo := List.range 8, bad := !gatherFmtOk fmt,
                  instr := Instr.stvx h fmt f.lo.toFin (sreg f.b) a (sreg f.c) f.imm }
  | 0x48 => fn0 { d := .m, a := .sp, b := .s, imm := true, x := 0x3FFF, kinds := [.compute],
                  bad := xbits f.x 10 4 == 0 || xbits f.x 10 4 == 15 || decide (31 < xbits f.x 0 5 + xbits f.x 5 5),
                  instr := Instr.ldt h (.ofCode (xbits f.x 10 4)) (mreg f.d) a (sreg f.b) f.imm (tileRows f.x) }
  | 0x49 => fn0 { b := .m, a := .sp, c := .s, imm := true, x := 0x3FFF, kinds := [.compute],
                  bad := (xbits f.x 10 4 != 0 && xbits f.x 10 4 != 14) || decide (31 < xbits f.x 0 5 + xbits f.x 5 5),
                  instr := Instr.stt h (xbits f.x 10 4 == 14) (mreg f.b) a (sreg f.c) f.imm (tileRows f.x) }
  | 0x4A => fn0 { d := .f, a := .sp, imm := true, rm := true, ex := true, kinds := [.compute],
                  instr := Instr.ldf h (.ofCode f.rm.toNat) (f.ex == 1) d a f.imm }
  | 0x4B => fn0 { b := .f, a := .sp, imm := true, kinds := [.compute], instr := Instr.stf h (sreg f.b) a f.imm }
  | 0x4C => fn0 (formLamo f h)
  | 0x4D => fn0 { instr := Instr.lfence h }
  | 0x50 => fn0 { a := .sp, b := .s, imm := true, lo := [0, 1, 2, 3], kinds := [.compute],
                  instr := Instr.lwopen h (f.lo.getLsbD 0) (f.lo.getLsbD 1) a (sreg f.b) f.imm }
  | 0x51 => fn0 { a := .sp, imm := true, kinds := [.compute], instr := Instr.lwclose h a f.imm }
  | 0x52 => fn0 { a := .sp, b := .s, imm := true, kinds := [.compute], instr := Instr.lwdue h a (sreg f.b) f.imm }
  | 0x53 => fn0 (formSend f 0 false fun n => Instr.send h n a (sreg f.b) (sreg f.c) f.imm)
  | 0x54 => fn0 (formSend f 0xFE000 (!bankPairOk (xbits f.x 13 4) (xbits f.x 17 3)) fun n =>
                  Instr.sendop h (.ofCode (xbits f.x 13 4)) (.ofCode (xbits f.x 17 3)) n a (sreg f.b) (sreg f.c) f.imm)
  | 0x55 => fn0 { a := .s, b := .s, kinds := [.compute], instr := Instr.subscribe h (sreg f.a) (sreg f.b) }
  | 0x56 => fn0 { a := .s, kinds := [.compute], instr := Instr.unsubscribe h (sreg f.a) }
  | 0x57 => fn0 { unguarded := true, instr := Instr.bar h }
  | 0x58 => fn0 { d := .s, instr := Instr.barq h d }
  | 0x59 => fn0 { d := .v, a := .s, kinds := [.compute], instr := Instr.chron h d (sreg f.a) }
  | 0x5A => fn0 (formTl k f h true)
  | 0x5B => fn0 (formTl k f h false)
  | 0x80 => formCvt f h
  | 0x81 => formQuant f h
  | 0x82 => formQuant f h
  | 0x83 => formQuant f h
  | 0x84 => if f.fn.toNat < 16 then
      some { d := .v, a := .v, vote := true, instr := Instr.vtag h (.ofCode f.fn.toNat) d (sreg f.a) } else none
  | 0x85 => fn0 (formTagq k f h)
  | 0x90 => formFArith f h
  | 0x91 => if f.fn.toNat < 8 then
      some { d := .p, a := .f, b := .f, vote := true, kinds := [.compute],
             instr := Instr.fcmp h (.ofCode f.fn.toNat) (preg f.d) (sreg f.a) (sreg f.b) } else none
  | 0x92 => formFConv f h
  | 0x93 => formFState f h
  | 0xB0 => fn0 (formGld f h)
  | 0xB1 => fn0 (formGst f h)
  | 0xB2 => fn0 (formGatom f h)
  | 0xB3 => fn0 { lo := [0, 1, 2, 3], kinds := [.memory], instr := Instr.gfence h (.ofCode f.lo.toNat) }
  | 0xB4 => fn0 (formGacq f h)
  | 0xB5 => fn0 (formGrel f h)
  | 0xB6 => fn0 (formPush f h)
  | 0xB7 => fn0 { a := .sp, imm := true, kinds := [.memory], instr := Instr.dpat h a f.imm }
  | 0xB8 => fn0 { d := .s, c := .par, x := 7, kinds := [.memory], bad := xbits f.x 0 3 == 7,
                  instr := Instr.gref h (.ofCode (xbits f.x 0 3)) d (sreg f.c) }
  | 0xC0 => fn0 { d := .sp, a := .sp, imm := true, instr := Instr.cpypost h (spair f.d) a f.imm }
  | 0xC1 => fn0 { d := .sp, a := .sp, imm := true, instr := Instr.ovlpost h (spair f.d) a f.imm }
  | 0xC2 => fn0 { d := .sp, a := .sp, imm := true, instr := Instr.nwpost h (spair f.d) a f.imm }
  | 0xC3 => fn0 { d := .s, a := .sp, b := .s, imm := true, instr := Instr.qpost h d a (sreg f.b) f.imm }
  | 0xC8 => fn0 { a := .sp, kinds := [.compute], instr := Instr.tscore h a }
  | 0xC9 => fn0 { lo := [0, 1], kinds := [.compute], instr := Instr.tdone h (f.lo == 1) }
  | 0xCA => fn0 { d := .s, kinds := [.compute], instr := Instr.tround h d }
  | n => if 0x60 ≤ n ∧ n ≤ 0x7F then formVec f h
         else if 0xA0 ≤ n ∧ n ≤ 0xA9 then fn0 (formMat f h) else none

end Forms

/-- The issue classes of R185. -/
inductive IClass where
  | i | b | l | v | f | m | g | s
  deriving DecidableEq, Repr

/-- The class of an opcode; `none` where it is unassigned (R185, R189). -/
def opClass (op : Nat) : Option IClass :=
  if op = 0x01 ∨ (0x02 ≤ op ∧ op ≤ 0x08) ∨ op = 0x30 ∨ op = 0x31 then some .i
  else if 0x20 ≤ op ∧ op ≤ 0x23 then some .b
  else if (0x24 ≤ op ∧ op ≤ 0x27) ∨ (0x38 ≤ op ∧ op ≤ 0x3F) then some .s
  else if op = 0x4D ∨ op = 0x57 ∨ op = 0x58 ∨ op = 0x5A then some .s
  else if (0x40 ≤ op ∧ op ≤ 0x4C) ∨ (0x50 ≤ op ∧ op ≤ 0x5B) then some .l
  else if 0x60 ≤ op ∧ op ≤ 0x85 then some .v
  else if 0x90 ≤ op ∧ op ≤ 0x93 then some .f
  else if 0xA0 ≤ op ∧ op ≤ 0xA9 then some .m
  else if 0xB0 ≤ op ∧ op ≤ 0xB8 then some .g
  else if (0xC0 ≤ op ∧ op ≤ 0xC3) ∨ (0xC8 ≤ op ∧ op ≤ 0xCA) then some .s
  else none

section Checks
variable (k : CoreKind) (f : Fields) (g : Form)

/-- 0x103: a nonzero bit in an unused field other than MD, or in a reserved bit (R174, R192). -/
def Form.extraBits : Bool :=
  (g.d == .none && f.d != 0) || (g.a == .none && f.a != 0) || (g.b == .none && f.b != 0) || (g.c == .none && f.c != 0)
    || (!g.imm && f.imm != 0) || (f.x &&& ~~~g.x != 0)

/-- 0x104: a disallowed value in MD, IMM or X (R192). -/
def Form.badValue : Bool :=
  g.bad || f.rm == 6 || (!g.rm && f.rm != 0) || (!g.ex && f.ex != 0) || (!g.sat && f.sat != 0)
    || !(g.lo.contains f.lo.toNat)

/-- 0x107: a guard that can never hold, or any guard on an unguarded instruction (R177). -/
def Form.badGuard : Bool :=
  (f.pg == 0 && f.pn == 1) || (g.unguarded && (f.pg != 0 || f.pn != 0))

/-- 0x108: a dead mark where R179 allows none. -/
def Form.badMark : Bool :=
  (f.dm.getLsbD 2 && !g.a.markable) || (f.dm.getLsbD 1 && !g.b.markable) || (f.dm.getLsbD 0 && !g.c.markable)

/-- 0x109: a register index outside its class, or an odd pair index (R174). -/
def Form.badIndex : Bool :=
  !(g.d.inClass f.d.toNat && g.a.inClass f.a.toNat && g.b.inClass f.b.toNat && g.c.inClass f.c.toNat)

/-- The lowest reason of R192 that applies to a word whose form is known. -/
def Form.reason : Option Word :=
  if g.extraBits f then some 0x103
  else if g.badValue f then some 0x104
  else if !(g.kinds.contains k) then some 0x105
  else if f.v == 1 && !g.vote then some 0x106
  else if g.badGuard f then some 0x107
  else if g.badMark f then some 0x108
  else if g.badIndex f then some 0x109
  else none

end Checks

/-- Decode a word for a kind of core: the instruction, or the trap of R192 and R190. -/
def decode (k : CoreKind) (w : IWord) : Except Reject Instr :=
  let f := Fields.ofWord w
  if f.op = 0 ∨ w = BitVec.allOnes 96 then .error (.illegal 0x100)
  else if opClass f.op.toNat = none then .error (.illegal 0x101)
  else
    match form k f f.hdr with
    | none => .error (.illegal 0x102)
    | some g =>
      match g.reason k f with
      | some c => .error (.illegal c)
      | none =>
        match g.priv, k with
        | some x, .compute | some x, .memory => .error (.privilege x)
        | _, _ =>
          match g.instr with
          | some i => .ok i
          | none => .error (.illegal 0x104)

/-- The bytes of a slot, lowest address first, as a word: byte 0 holds bits [7:0] (R173). -/
def wordOfBytes (bs : List Byte) : IWord :=
  bs.foldr (fun b acc => (acc <<< 8) ||| b.setWidth 96) 0

/-- Decode any twelve bytes. -/
def decodeBytes (k : CoreKind) (bs : List Byte) : Except Reject Instr := decode k (wordOfBytes (bs.take 12))

/-- The instruction that the decoder reads from an instruction whose bits are w, as it stands on a compute core or, for
an instruction that only a memory core or a control core has, there. -/
def decodeTableWord (_nbits w : Nat) : Option Instr :=
  match decode .compute (BitVec.ofNat 96 w) with
  | .ok i => some i
  | .error _ =>
    match decode .memory (BitVec.ofNat 96 w) with
    | .ok i => some i
    | .error _ =>
      match decode .control (BitVec.ofNat 96 w) with
      | .ok i => some i
      | .error _ => none

section Encoder

def encS (r : Fin 32) : BitVec 5 := BitVec.ofFin r
def encSP (p : SPair) : BitVec 5 := BitVec.ofNat 5 (2 * p.val)
def encP (p : PReg) : BitVec 5 := BitVec.ofNat 5 p.val
def encM (m : MReg) : BitVec 5 := BitVec.ofNat 5 m.val
def encC (c : CReg) : BitVec 5 := BitVec.ofNat 5 c.val
def encB (b : Bool) : BitVec 1 := BitVec.ofBool b
def encRm (r : RmCode) : BitVec 3 := BitVec.ofNat 3 r.code
def encT (t : RelTarget) : BitVec 24 := t.lines ++ BitVec.ofNat 3 t.slot.val

/-- The fields of the header. -/
def Hdr.fields (h : Hdr) (op fn : Nat) : Fields where
  op := BitVec.ofNat 8 op
  fn := BitVec.ofNat 8 fn
  v := encB h.vote
  pg := BitVec.ofFin h.pg
  pn := encB h.pn
  dm := BitVec.ofBool h.dmA ++ BitVec.ofBool h.dmB ++ BitVec.ofBool h.dmC

def encShift (h : Hdr) (fn : Nat) (d a : SReg) : ShiftAmt → Fields
  | .reg b => { h.fields 0x02 fn with d := encS d, a := encS a, b := encS b }
  | .imm n => { h.fields 0x02 fn with d := encS d, a := encS a, lo := 1, imm := BitVec.ofNat 24 n.val }

def encVShift (h : Hdr) (op : Nat) (fmt : Fmt) (d a : VReg) : VShiftAmt → Fields
  | .reg b => { h.fields op fmt.code with d := encS d, a := encS a, b := encS b }
  | .imm n => { h.fields op fmt.code with d := encS d, a := encS a, lo := 1, imm := BitVec.ofNat 24 n.val }

def encI3 (h : Hdr) (fn : Nat) (d a b : SReg) (sat : Bool := false) : Fields :=
  { h.fields 0x02 fn with d := encS d, a := encS a, b := encS b, sat := encB sat }

def encV1 (h : Hdr) (op : Nat) (fmt : Fmt) (rm : RmCode) (sat : Bool) (d a : VReg) : Fields :=
  { h.fields op fmt.code with d := encS d, a := encS a, rm := encRm rm, sat := encB sat }

def encV2 (h : Hdr) (op : Nat) (fmt : Fmt) (rm : RmCode) (sat : Bool) (d a b : VReg) : Fields :=
  { h.fields op fmt.code with d := encS d, a := encS a, b := encS b, rm := encRm rm, sat := encB sat }

def encV3 (h : Hdr) (op : Nat) (fmt : Fmt) (rm : RmCode) (sat : Bool) (d a b c : VReg) : Fields :=
  { h.fields op fmt.code with d := encS d, a := encS a, b := encS b, c := encS c, rm := encRm rm, sat := encB sat }

def encF (h : Hdr) (op fn : Nat) (rm : RmCode) (x sat : Bool) (d a : FReg) : Fields :=
  { h.fields op fn with d := encS d, a := encS a, rm := encRm rm, ex := encB x, sat := encB sat }

def encSend (h : Hdr) (op : Nat) (hi : BitVec 20) (len : SendLen) (a : SPair) (b c : SReg) (imm : Imm) : Fields :=
  let base : Fields := { h.fields op 0 with a := encSP a, b := encS b, c := encS c, imm := imm, x := hi }
  match len with
  | .imm n => { base with x := hi ||| n.setWidth 20 }
  | .reg d => { base with d := encS d, lo := 1 }

def encShape (s : GangShape) : BitVec 20 :=
  BitVec.ofNat 20 (s.g.val * 2048 + s.ks.val * 128 + s.scl.toNat * 64 + s.sp.toNat * 32 + s.col.toNat * 16
    + s.fmt.code)

def encDrain (s : DrainShape) : BitVec 20 :=
  BitVec.ofNat 20 (s.z.toNat * 4096 + s.cnt.val * 256 + s.row.val * 16 + s.dst.code)

def encRows (fmt : Nat) (r : TileRows) : BitVec 20 :=
  BitVec.ofNat 20 (fmt * 1024 + r.cnt.val * 32 + r.row.val)

/-- The fields of an encoded instruction; `none` for an event row, which has no encoding. -/
def Instr.fields : Instr → Option Fields
  | .nop h => some (h.fields 0x01 0)
  | .iadd h d a b sat => some (encI3 h 0x00 d a b sat)
  | .isub h d a b sat => some (encI3 h 0x01 d a b sat)
  | .imul h d a b => some (encI3 h 0x02 d a b)
  | .imulh h d a b => some (encI3 h 0x03 d a b)
  | .imulhz h d a b => some (encI3 h 0x04 d a b)
  | .idiv h d a b => some (encI3 h 0x05 d a b)
  | .idivz h d a b => some (encI3 h 0x06 d a b)
  | .irem h d a b => some (encI3 h 0x07 d a b)
  | .iremz h d a b => some (encI3 h 0x08 d a b)
  | .iand h d a b => some (encI3 h 0x09 d a b)
  | .ior h d a b => some (encI3 h 0x0A d a b)
  | .ixor h d a b => some (encI3 h 0x0B d a b)
  | .iandn h d a b => some (encI3 h 0x0C d a b)
  | .ishl h d a n => some (encShift h 0x0D d a n)
  | .ishrl h d a n => some (encShift h 0x0E d a n)
  | .ishra h d a n => some (encShift h 0x0F d a n)
  | .irotl h d a n => some (encShift h 0x10 d a n)
  | .imin h d a b => some (encI3 h 0x11 d a b)
  | .imax h d a b => some (encI3 h 0x12 d a b)
  | .iminz h d a b => some (encI3 h 0x13 d a b)
  | .imaxz h d a b => some (encI3 h 0x14 d a b)
  | .iclz h d a => some { h.fields 0x02 0x15 with d := encS d, a := encS a }
  | .ipop h d a => some { h.fields 0x02 0x16 with d := encS d, a := encS a }
  | .isel h d a b pc => some { h.fields 0x02 0x17 with d := encS d, a := encS a, b := encS b, c := encP pc }
  | .iaddi h (.w32 d a sat) imm =>
    some { h.fields 0x03 0 with d := encS d, a := encS a, sat := encB sat, imm := imm }
  | .iaddi h (.w64 d a) imm => some { h.fields 0x03 0 with d := encSP d, a := encSP a, lo := 1, imm := imm }
  | .imovi h d imm => some { h.fields 0x05 0 with d := encS d, imm := imm }
  | .imovhi h d imm => some { h.fields 0x06 0 with d := encS d, imm := imm.setWidth 24 }
  | .icmp h c d a b => some { h.fields 0x04 c.code with d := encS d, a := encS a, b := encS b }
  | .padd h d a b => some { h.fields 0x07 0 with d := encSP d, a := encSP a, b := encSP b }
  | .psub h d a b => some { h.fields 0x07 1 with d := encSP d, a := encSP a, b := encSP b }
  | .aadd h d a b k sat imm =>
    some { h.fields 0x08 0 with
      d := encSP d, a := encSP a, b := encS b, lo := BitVec.ofFin k, sat := encB sat, imm := imm }
  | .aadds h d a b k imm =>
    some { h.fields 0x08 1 with d := encSP d, a := encSP a, b := encS b, lo := BitVec.ofFin k, imm := imm }
  | .pset h d (.cmp c a b) => some { h.fields 0x30 c.code with d := encP d, a := encS a, b := encS b }
  | .pset h d (.eqi a imm) => some { h.fields 0x30 0x0A with d := encP d, a := encS a, imm := imm }
  | .pset h d (.nei a imm) => some { h.fields 0x30 0x0B with d := encP d, a := encS a, imm := imm }
  | .pset h d (.lti a imm) => some { h.fields 0x30 0x0C with d := encP d, a := encS a, imm := imm }
  | .pset h d (.gei a imm) => some { h.fields 0x30 0x0D with d := encP d, a := encS a, imm := imm }
  | .pset h d (.bit a n) => some { h.fields 0x30 0x0E with d := encP d, a := encS a, imm := BitVec.ofNat 24 n.val }
  | .pset h d (.const v) => some { h.fields 0x30 0x0F with d := encP d, imm := BitVec.ofNat 24 v.toNat }
  | .pand h d a b => some { h.fields 0x31 0 with d := encP d, a := encP a, b := encP b }
  | .por h d a b => some { h.fields 0x31 1 with d := encP d, a := encP a, b := encP b }
  | .pxor h d a b => some { h.fields 0x31 2 with d := encP d, a := encP a, b := encP b }
  | .pnot h d a => some { h.fields 0x31 3 with d := encP d, a := encP a }
  | .br h t => some { h.fields 0x20 0 with imm := encT t }
  | .jmp h a => some { h.fields 0x21 0 with a := encS a }
  | .call h d t => some { h.fields 0x22 0 with d := encS d, imm := encT t }
  | .callInd h d a => some { h.fields 0x22 0 with d := encS d, a := encS a, lo := 1 }
  | .ret h a => some { h.fields 0x23 0 with a := encS a }
  | .loop h a e => some { h.fields 0x24 0 with a := encS a, imm := encT e }
  | .loopi h e count => some { h.fields 0x25 0 with imm := encT e, x := count }
  | .halt h => some (h.fields 0x26 0)
  | .yield h => some (h.fields 0x27 0)
  | .crd h d reg => some { h.fields 0x38 0 with d := encS d, x := reg.setWidth 20 }
  | .cwr h a reg => some { h.fields 0x39 0 with a := encS a, x := reg.setWidth 20 }
  | .counterZero h a t => some { h.fields 0x39 0 with a := encS a, x := BitVec.ofNat 20 (0x100 + 0x40 * t.val) }
  | .trap h imm => some { h.fields 0x3A 0 with imm := imm }
  | .xret h n => some { h.fields 0x3B 0 with lo := BitVec.ofNat 3 n.toNat }
  | .ifence h => some (h.fields 0x3C 0)
  | .brk h imm => some { h.fields 0x3D 0 with imm := imm }
  | .wait h d a b imm bound =>
    some { h.fields 0x3E 0 with d := encS d, a := encSP a, b := encSP b, imm := imm, x := bound }
  | .capbuild h d a => some { h.fields 0x3F 0 with d := encS d, a := encS a }
  | .ld h w d a imm =>
    some { h.fields 0x40 0 with d := encS d, a := encSP a, lo := BitVec.ofNat 3 w.code, imm := imm }
  | .st h w b a imm =>
    some { h.fields 0x41 0 with b := encS b, a := encSP a, lo := BitVec.ofNat 3 w.code, imm := imm }
  | .ldv h fmt d a imm =>
    some { h.fields 0x42 0 with d := encS d, a := encSP a, imm := imm, x := BitVec.ofNat 20 fmt.code }
  | .stv h t6 b a imm =>
    some { h.fields 0x43 0 with b := encS b, a := encSP a, imm := imm, x := if t6 then 14 else 0 }
  | .ldvs h fmt d a b imm =>
    some { h.fields 0x44 0 with
      d := encS d, a := encSP a, b := encS b, imm := imm, x := BitVec.ofNat 20 fmt.code }
  | .stvs h fmt b a c imm =>
    some { h.fields 0x45 0 with
      b := encS b, a := encSP a, c := encS c, imm := imm, x := BitVec.ofNat 20 fmt.code }
  | .ldvx h fmt k d a b imm =>
    some { h.fields 0x46 0 with
      d := encS d, a := encSP a, b := encS b, lo := BitVec.ofFin k, imm := imm, x := BitVec.ofNat 20 fmt.code }
  | .stvx h fmt k b a c imm =>
    some { h.fields 0x47 0 with
      b := encS b, a := encSP a, c := encS c, lo := BitVec.ofFin k, imm := imm, x := BitVec.ofNat 20 fmt.code }
  | .ldt h fmt d a b imm rows =>
    some { h.fields 0x48 0 with
      d := encM d, a := encSP a, b := encS b, imm := imm, x := encRows fmt.code rows }
  | .stt h t6 b a c imm rows =>
    some { h.fields 0x49 0 with
      b := encM b, a := encSP a, c := encS c, imm := imm, x := encRows (if t6 then 14 else 0) rows }
  | .ldf h rm x d a imm =>
    some { h.fields 0x4A 0 with d := encS d, a := encSP a, rm := encRm rm, ex := encB x, imm := imm }
  | .stf h b a imm => some { h.fields 0x4B 0 with b := encS b, a := encSP a, imm := imm }
  | .lamo h op el d a b imm =>
    let base : Fields := { h.fields 0x4C 0 with
      a := encSP a, b := encS b, imm := imm, x := BitVec.ofNat 20 (el.code * 16 + op.code) }
    match d with
    | some d => some { base with d := encS d }
    | none => some { base with lo := 1 }
  | .lfence h => some (h.fields 0x4D 0)
  | .lwopen h now log a b imm =>
    some { h.fields 0x50 0 with
      a := encSP a, b := encS b, imm := imm, lo := BitVec.ofNat 3 (log.toNat * 2 + now.toNat) }
  | .lwclose h a imm => some { h.fields 0x51 0 with a := encSP a, imm := imm }
  | .lwdue h a b imm => some { h.fields 0x52 0 with a := encSP a, b := encS b, imm := imm }
  | .send h len a b c imm => some (encSend h 0x53 0 len a b c imm)
  | .sendop h op el len a b c imm =>
    some (encSend h 0x54 (BitVec.ofNat 20 (el.code * 131072 + op.code * 8192)) len a b c imm)
  | .subscribe h a b => some { h.fields 0x55 0 with a := encS a, b := encS b }
  | .unsubscribe h a => some { h.fields 0x56 0 with a := encS a }
  | .bar h => some (h.fields 0x57 0)
  | .barq h d => some { h.fields 0x58 0 with d := encS d }
  | .chron h d a => some { h.fields 0x59 0 with d := encS d, a := encS a }
  | .tlwait h sel a => some { h.fields 0x5A 0 with a := encSP a, x := BitVec.ofNat 20 sel.val }
  | .tlread h sel d => some { h.fields 0x5B 0 with d := encSP d, x := BitVec.ofNat 20 sel.val }
  | .vadd h fmt rm sat d a b => some (encV2 h 0x60 fmt rm sat d a b)
  | .vsub h fmt rm sat d a b => some (encV2 h 0x61 fmt rm sat d a b)
  | .vmul h fmt rm sat d a b => some (encV2 h 0x62 fmt rm sat d a b)
  | .vfma h fmt rm sat d a b c => some (encV3 h 0x63 fmt rm sat d a b c)
  | .vfms h fmt rm sat d a b c => some (encV3 h 0x64 fmt rm sat d a b c)
  | .vmin h fmt rm sat d a b => some (encV2 h 0x65 fmt rm sat d a b)
  | .vmax h fmt rm sat d a b => some (encV2 h 0x66 fmt rm sat d a b)
  | .vabs h fmt rm sat d a => some (encV1 h 0x67 fmt rm sat d a)
  | .vneg h fmt rm sat d a => some (encV1 h 0x68 fmt rm sat d a)
  | .vdiv h fmt rm sat d a b => some (encV2 h 0x69 fmt rm sat d a b)
  | .vsqrt h fmt rm sat d a => some (encV1 h 0x6A fmt rm sat d a)
  | .vrsq h fmt rm sat d a => some (encV1 h 0x6B fmt rm sat d a)
  | .vexp2 h fmt rm sat d a => some (encV1 h 0x6C fmt rm sat d a)
  | .vlog2 h fmt rm sat d a => some (encV1 h 0x6D fmt rm sat d a)
  | .vcmp h fmt c d a b =>
    some { h.fields 0x6E fmt.code with d := encS d, a := encS a, b := encS b, lo := BitVec.ofNat 3 c.code }
  | .vsel h fmt d a b c => some { h.fields 0x6F fmt.code with d := encS d, a := encS a, b := encS b, c := encS c }
  | .vand h d a b => some { h.fields 0x70 0 with d := encS d, a := encS a, b := encS b }
  | .vor h d a b => some { h.fields 0x71 0 with d := encS d, a := encS a, b := encS b }
  | .vxor h d a b => some { h.fields 0x72 0 with d := encS d, a := encS a, b := encS b }
  | .vshl h fmt d a n => some (encVShift h 0x73 fmt d a n)
  | .vshr h fmt d a n => some (encVShift h 0x74 fmt d a n)
  | .vshra h fmt d a n => some (encVShift h 0x75 fmt d a n)
  | .vperm h fmt d a b c => some { h.fields 0x76 fmt.code with d := encS d, a := encS a, b := encS b, c := encS c }
  | .vbcast h fmt d a => some { h.fields 0x77 fmt.code with d := encS d, a := encS a }
  | .vshuf h fmt pat d a =>
    let base : Fields := { h.fields 0x78 fmt.code with d := encS d, a := encS a }
    match pat with
    | .ilo b => some { base with b := encS b }
    | .ihi b => some { base with b := encS b, lo := 1 }
    | .even b => some { base with b := encS b, lo := 2 }
    | .odd b => some { base with b := encS b, lo := 3 }
    | .rev => some { base with lo := 4 }
    | .rot n => some { base with lo := 5, imm := BitVec.ofNat 24 n.val }
  | .vredadd h fmt rm sat d a => some (encV1 h 0x79 fmt rm sat d a)
  | .vredmax h fmt rm d a => some (encV1 h 0x7A fmt rm false d a)
  | .vredmin h fmt rm d a => some (encV1 h 0x7B fmt rm false d a)
  | .vdot h fmt rm sat d a b c => some (encV3 h 0x7C fmt rm sat d a b c)
  | .vmovs h fmt d a lane =>
    some { h.fields 0x7D fmt.code with d := encS d, a := encS a, imm := BitVec.ofNat 24 lane.val }
  | .vexts h fmt d a lane =>
    some { h.fields 0x7E fmt.code with d := encS d, a := encS a, imm := BitVec.ofNat 24 lane.val }
  | .viota h fmt sat d a imm =>
    some { h.fields 0x7F fmt.code with d := encS d, a := encS a, sat := encB sat, imm := imm }
  | .vcvt h dst src rm sat part d a =>
    some { h.fields 0x80 (dst.code * 16 + src.code) with
      d := encS d, a := encS a, rm := encRm rm, sat := encB sat, lo := BitVec.ofFin part }
  | .vquant h qf wf d a b =>
    some { h.fields 0x81 qf.code with d := encS d, a := encS a, b := encS b, lo := BitVec.ofNat 3 wf.code }
  | .vdeq h qf wf rm sat d a b =>
    some { h.fields 0x82 qf.code with
      d := encS d, a := encS a, b := encS b, rm := encRm rm, sat := encB sat, lo := BitVec.ofNat 3 wf.code }
  | .vscale h qf wf d a b =>
    some { h.fields 0x83 qf.code with d := encS d, a := encS a, b := encS b, lo := BitVec.ofNat 3 wf.code }
  | .vtag h t d a => some { h.fields 0x84 t.code with d := encS d, a := encS a }
  | .vtagq h d (.vec a) => some { h.fields 0x85 0 with d := encS d, a := encS a }
  | .vtagq h d (.tile a) => some { h.fields 0x85 0 with d := encS d, a := encM a, x := 1 }
  | .vtagq h d (.acc a) => some { h.fields 0x85 0 with d := encS d, a := encC a, x := 2 }
  | .fadd h rm x sat d a b => some { encF h 0x90 0x00 rm x sat d a with b := encS b }
  | .fsub h rm x sat d a b => some { encF h 0x90 0x01 rm x sat d a with b := encS b }
  | .fmul h rm x sat d a b => some { encF h 0x90 0x02 rm x sat d a with b := encS b }
  | .ffma h rm x sat d a b c => some { encF h 0x90 0x03 rm x sat d a with b := encS b, c := encS c }
  | .fdiv h rm x sat d a b => some { encF h 0x90 0x04 rm x sat d a with b := encS b }
  | .fsqrt h rm x sat d a => some (encF h 0x90 0x05 rm x sat d a)
  | .fabs h rm x sat d a => some (encF h 0x90 0x06 rm x sat d a)
  | .fneg h rm x sat d a => some (encF h 0x90 0x07 rm x sat d a)
  | .fmov h rm x sat d a => some (encF h 0x90 0x08 rm x sat d a)
  | .fround h rm x sat d a => some (encF h 0x90 0x09 rm x sat d a)
  | .fscalb h rm x sat d a b => some { encF h 0x90 0x0A rm x sat d a with b := encS b }
  | .fcmp h c d a b => some { h.fields 0x91 c.code with d := encP d, a := encS a, b := encS b }
  | .fcvtd h rm x sat d a => some { encF h 0x92 0x00 rm x sat d 0 with a := encSP a }
  | .fcvts h rm x sat d (.w32 a) => some { encF h 0x92 0x01 rm x sat d 0 with a := encS a }
  | .fcvts h rm x sat d (.w64 a) => some { encF h 0x92 0x01 rm x sat d 0 with a := encSP a, lo := 1 }
  | .ftod h rm x sat d a => some { encF h 0x92 0x02 rm x sat 0 a with d := encSP d }
  | .ftos h rm x (.w32 d) a => some { encF h 0x92 0x03 rm x false 0 a with d := encS d }
  | .ftos h rm x (.w64 d) a => some { encF h 0x92 0x03 rm x false 0 a with d := encSP d, lo := 1 }
  | .faccv h rm x sat d a b => some { encF h 0x92 0x04 rm x sat d a with b := encS b }
  | .fprec h (.imm p) => some { h.fields 0x93 0x00 with imm := BitVec.ofNat 24 p.val }
  | .fprec h (.reg a) => some { h.fields 0x93 0x00 with a := encS a, lo := 1 }
  | .fldc h rm x sat d (.imm v) => some { encF h 0x93 0x01 rm x sat d 0 with lo := 1, imm := v }
  | .fldc h rm x sat d (.literal lines off) =>
    some { encF h 0x93 0x01 rm x sat d 0 with imm := lines ++ 0#3, x := BitVec.ofNat 20 off.val }
  | .frel h d none => some { h.fields 0x93 0x02 with d := encS d }
  | .frel h d (some a) => some { h.fields 0x93 0x02 with d := encS d, a := encS a, lo := 1 }
  | .flen h d a => some { h.fields 0x93 0x03 with d := encS d, a := encS a }
  | .fexp h d a => some { h.fields 0x93 0x04 with d := encS d, a := encS a }
  | .mgang h s d a b c =>
    some { h.fields 0xA0 0 with
      d := encC d, a := encM a, b := encS b, c := encS c, lo := BitVec.ofNat 3 s.nlog.val, x := encShape s }
  | .mdesc h a imm => some { h.fields 0xA1 0 with a := encSP a, imm := imm }
  | .mzero h fp64 d => some { h.fields 0xA2 0 with d := encC d, x := if fp64 then 9 else 10 }
  | .mdrain h rm sat s a b c imm =>
    some { h.fields 0xA3 0 with
      a := encSP a, b := encS b, c := encC c, rm := encRm rm, sat := encB sat, imm := imm, x := encDrain s }
  | .mmeta h a imm => some { h.fields 0xA4 0 with a := encSP a, imm := imm }
  | .mscl h bset a imm => some { h.fields 0xA5 0 with a := encSP a, lo := BitVec.ofNat 3 bset.toNat, imm := imm }
  | .mrowrd h half d a row =>
    some { h.fields 0xA6 0 with d := encS d, a := encM a, lo := BitVec.ofNat 3 half.toNat, x := BitVec.ofNat 20 row.val }
  | .mrowwr h half d a row =>
    some { h.fields 0xA7 0 with d := encM d, a := encS a, lo := BitVec.ofNat 3 half.toNat, x := BitVec.ofNat 20 row.val }
  | .mcolrd h w d a j q =>
    some { h.fields 0xA8 0 with
      d := encS d, a := encM a, lo := BitVec.ofNat 3 w.code, x := BitVec.ofNat 20 (q.val * 128 + j.val) }
  | .mcolwr h w d a j q =>
    some { h.fields 0xA9 0 with
      d := encM d, a := encS a, lo := BitVec.ofNat 3 w.code, x := BitVec.ofNat 20 (q.val * 128 + j.val) }
  | .gld h fmt dst a c imm =>
    let base : Fields := { h.fields 0xB0 0 with a := encSP a, c := encS c, imm := imm, x := BitVec.ofNat 20 fmt.code }
    match dst with
    | .scalar w d => some { base with d := encS d, lo := BitVec.ofNat 3 w.code }
    | .vec d => some { base with d := encS d, lo := 6 }
    | .blk d cnt => some { base with d := encS d, lo := 7, x := BitVec.ofNat 20 (cnt.toNat * 16 + fmt.code) }
  | .gst h fmt src a c imm =>
    let base : Fields := { h.fields 0xB1 0 with a := encSP a, c := encS c, imm := imm, x := BitVec.ofNat 20 fmt.code }
    match src with
    | .scalar w b => some { base with b := encS b, lo := BitVec.ofNat 3 w.code }
    | .vec b => some { base with b := encS b, lo := 6 }
    | .blk b cnt => some { base with b := encS b, lo := 7, x := BitVec.ofNat 20 (cnt.toNat * 16 + fmt.code) }
  | .gatom h op el d a b c imm =>
    let base : Fields := { h.fields 0xB2 0 with
      a := encSP a, b := encS b, c := encS c, imm := imm, x := BitVec.ofNat 20 (el.code * 256 + op.code * 16) }
    match d with
    | some d => some { base with d := encS d }
    | none => some { base with lo := 1 }
  | .gfence h sc => some { h.fields 0xB3 0 with lo := BitVec.ofNat 3 sc.code }
  | .gacq h wide sc fmt d a c imm =>
    some { h.fields 0xB4 0 with
      d := encS d, a := encSP a, c := encS c, lo := BitVec.ofNat 3 (wide.toNat * 4 + sc.code), imm := imm,
      x := BitVec.ofNat 20 fmt.code }
  | .grel h wide sc fmt a b c imm =>
    some { h.fields 0xB5 0 with
      a := encSP a, b := encS b, c := encS c, lo := BitVec.ofNat 3 (wide.toNat * 4 + sc.code), imm := imm,
      x := BitVec.ofNat 20 fmt.code }
  | .push h p a imm n =>
    let base : Fields := { h.fields 0xB6 0 with a := encSP a, imm := imm, x := n.setWidth 20 }
    match p with
    | .direct b c => some { base with b := encS b, c := encS c }
    | .deal => some { base with lo := 1 }
    | .mc b => some { base with b := encS b, lo := 2 }
  | .dpat h a imm => some { h.fields 0xB7 0 with a := encSP a, imm := imm }
  | .gref h g d c => some { h.fields 0xB8 0 with d := encS d, c := encS c, x := BitVec.ofNat 20 g.code }
  | .cpypost h d a imm => some { h.fields 0xC0 0 with d := encSP d, a := encSP a, imm := imm }
  | .ovlpost h d a imm => some { h.fields 0xC1 0 with d := encSP d, a := encSP a, imm := imm }
  | .nwpost h d a imm => some { h.fields 0xC2 0 with d := encSP d, a := encSP a, imm := imm }
  | .qpost h d a b imm => some { h.fields 0xC3 0 with d := encS d, a := encSP a, b := encS b, imm := imm }
  | .tscore h a => some { h.fields 0xC8 0 with a := encSP a }
  | .tdone h final => some { h.fields 0xC9 0 with lo := BitVec.ofNat 3 final.toNat }
  | .tround h d => some { h.fields 0xCA 0 with d := encS d }
  | _ => none

/-- The word of an encoded instruction, written from the same rows; zero, which is no instruction, for an event. -/
def encode (i : Instr) : IWord :=
  match i.fields with
  | some f => f.toWord
  | none => 0

end Encoder

end Sys2Proof
end

