-- ==== Sys2Proof/Config.lean ====
section
/-! DEFINITION. What the HS1024 fixes (sizes, limits, address ranges) and the free values: constants without a body that
stand for what the manual leaves open. No proof can see what a free value is. -/
namespace Sys2Proof.Config

/-- One past the last local-store byte (R44). -/
def lsTop : Nat := 0x180000
/-- First byte of the plate while plating is enabled (R44). -/
def plateBase : Nat := 0x150000
/-- One past the last staging byte an instruction reaches (R135). -/
def stagingTop : Nat := 0x38000
/-- Blocks the plate of a compute core holds (R444). -/
def plateBlocks : Nat := 768
/-- Blocks the hidden staging plate of a memory core holds (R444). -/
def stagingPlateBlocks : Nat := 256
/-- Entries of the landing-window table (R51). -/
def windowEntries : Nat := 64
/-- Entries of the subscription match table (R68). -/
def subscriptionEntries : Nat := 16
/-- Tags a router's subscription bitmap holds (R69). -/
def routerTags : Nat := 64
/-- Entries of the chronograph ring (R66). -/
def chronEntries : Nat := 512
/-- Sends, pushes or posts held short of their timeline (R62, R327, R331). -/
def heldSends : Nat := 16
/-- Entries of a core's joint queue (R114). -/
def jointEntries : Nat := 4
/-- Line entries of a commit buffer (R135). -/
def commitEntries : Nat := 8192
/-- Task slots of a memory core (R432). -/
def taskSlots : Nat := 16
/-- Limbs of a thread set's Flinum window (R102). -/
def flinumLimbs : Nat := 256
/-- The mapped range of global virtual addresses (R139, R434). -/
def gvaLow : Nat := 0x0001000000000000
/-- The last mapped global virtual address (R434). -/
def gvaHigh : Nat := 0x00FFFFFFFFFFFFFF
/-- Bytes of HBM in one stack (R435). -/
def stackBytes : Nat := 48 * 2 ^ 30
/-- The highest behaviour level and the support window of the HS1024 (R391). -/
def lowestLevel : Nat := 1
/-- The native behaviour level (R2). -/
def nativeLevel : Nat := 3

/-- FREE VALUE (log entry 5). Which of the bit patterns that R274 allows an FP32 VRSQ (op 0), VEXP2 (op 1) or VLOG2
(op 2) gives for this operand: R274 bounds the result and says it is a fixed function of the operand. -/
opaque approxPick (op : Nat) (a : BitVec 32) : Nat

/-- FREE VALUE (log entry 6). Whether a word that software was bound not to touch yet is seen as its old or its new
value (R61, R133, R140, R153, R331): true means the old one. -/
opaque seesOld (tick addr : Nat) : Bool

/-- FREE VALUE (log entry 20). Whether a firmware image's LMS signature holds under the fused key (R486). -/
opaque lmsHolds (image : List Byte) : Bool

/-- FREE VALUE (log entry 20). The signature that ATTEST makes with one-time index n over a report (R487). -/
opaque hssSign (n : Nat) (report : List Byte) : List Byte

/-- FREE VALUE (log entry 20). The stepping identity of this part (R389, R486, R487). -/
opaque stepping : BitVec 16

/-- FREE VALUE (log entry 4). The leaf indices that the two firmware slots and the monotonic counter of this part hold
as it comes to its first start (R486). -/
opaque firstLeaf (slot : Nat) : Nat

/-- FREE VALUE (log entry 20). Whether the stepping that a firmware image declares is the part's (R486). -/
opaque fwSteppingOk (image : List Byte) : Bool

/-- FREE VALUE (log entry 20). The leaf index of the signature of a firmware image (R486). -/
opaque fwLeafOf (image : List Byte) : Nat

/-- FREE VALUE (log entry 20). The lowest behaviour level that a staged firmware supports (R389, R391). -/
opaque fwLowest (image : List Byte) : Nat

/-- FREE VALUE (log entry 23). The words of the PCI Express configuration space of a function (R457). -/
opaque configWord (fn off : Nat) : BitVec 32

/-- FREE VALUE (log entry 23). A byte of BAR 0 of a function that holds neither the STATUS word nor a counter: the manual
does not give the registers of the mailbox rings (R453). -/
opaque barByte (fn off : Nat) : BitVec 8

/-- FREE VALUE (log entry 56). The n-th word of the sensors' readings, at a tick (R488). -/
opaque reading (tick n : Nat) : BitVec 32

/-- The sensors' words (R488), each kind from its first number on, in the order of the table (DESIGN CHOICE, log entry 56): 48
temperatures of each of 4 compute dies, 8 stacks' temperatures, 8 voltages of each die, 16 oscillators of each die, one of power. -/
def stackTemps : Nat := 4 * 48
def railVolts : Nat := stackTemps + 8
def oscillators : Nat := railVolts + 4 * 8
def packagePower : Nat := oscillators + 4 * 16
def readings : Nat := packagePower + 1

/-- FREE VALUE (log entry 24). The SRC code of the report that a thermal trip makes (R475 names none). -/
opaque tripSource : Nat

/-- FREE VALUE (log entry 25). The bytes that a poisoned line gives an aperture read, which consumes nothing. -/
opaque poisonByte (tick addr : Nat) : BitVec 8

/-- FREE VALUE (log entry 26). Where firmware keeps a replica: the physical address in a report of its removal (R475). -/
opaque replicaPa (ctx gva stack : Nat) : Nat

/-- FREE VALUE (log entry 20). The firmware image that the module leaves the factory with in a slot (R485). -/
opaque factoryImage (slot : Nat) : List (BitVec 8)

/-- Where the global memory begins that firmware reserves for page tables: the topmost GiB of each stack (R434; DESIGN
CHOICE, log entry 55). -/
def tableStart : Nat := 47 * 2 ^ 30
/-- Where the page table of the i-th context of a function has its root; its other tables follow (log entry 55). -/
def tableRoot (fn i : Nat) : Nat := i % 8 * 2 ^ 36 + tableStart + (2 * fn + i / 8) * 2 ^ 24
/-- One table (R434). -/
def tableBytes : Nat := 4096

/-- HBM frames of 64 KiB in one stack (R435). -/
def stackFrames : Nat := 48 * 2 ^ 14

end Sys2Proof.Config
end

