-- ==== Sys2Proof/Machine/State.lean ====
section
/-! DEFINITION. The state of one HS1024 package as plain data: thread sets, compute and memory cores, gangs and
tournaments, contexts with their queues and capsules, the mesh and the engines, global memory and the device's own
records; and the machine as it stands when the power comes. INVENTORY.md '## State' names the rule for each field. -/
namespace Sys2Proof.Machine

/-- A store of bytes: address and byte, addresses strictly rising, no byte that an unlisted address reads as. -/
abbrev Mem := List Host.Cell

/-- What a byte that a store does not list reads as: zero, since a start zeroes every local and staging store
(R483, step 5); for global memory log entry 3 says so. -/
def Mem.unlisted : Byte := 0

/-- The canonical form, as a check that can be run. -/
def Mem.wfFrom : Nat → Mem → Bool
  | _, [] => true
  | lo, (a, b) :: m => decide (lo ≤ a) && (b != Mem.unlisted) && Mem.wfFrom (a + 1) m

/-- Addresses strictly rising, no entry equal to what an unlisted address reads as. -/
def Mem.wf (m : Mem) : Bool := Mem.wfFrom 0 m

/-- A finite table keyed by number; an absent key stands for a default its reader names. -/
abbrev Table (α : Type) := List (Nat × α)

/-- The causes of R339. -/
inductive Cause where
  | illegal | privilege | lineform | target | format | pxh | deadread | loopform | prot | sendrefused
  | reftype | refbound | bodysealed | blretired | watchdog | user | break | copyfail
  deriving DecidableEq, Repr

/-- The classes of a Flinum (R96). -/
inductive FClass where
  | zero | normal | inf | qnan | snan
  deriving DecidableEq, Repr

/-- A Flinum value (R96): sign, class, biased exponent, L limbs, and the significand as one number of 32 L bits whose
top bit is bit 31 of limb 0. -/
structure Flinum where
  neg : Bool
  cls : FClass
  exp : BitVec 24
  limbs : Nat
  sig : Nat
  deriving DecidableEq, Repr

/-- A Flinum register (R102, R103): dead, resident at a run of the window, or spilled (its value lies in its slot; the
register keeps its length and its count of significant bits, which FLEN reports, R307). -/
inductive FSlot where
  | dead
  | resident (base : Nat) (v : Flinum)
  | spilled (limbs sigBits : Nat)
  deriving DecidableEq, Repr

/-- An active loop level (R232). -/
structure LoopLevel where
  count : Word
  first : Word
  last : Word
  deriving DecidableEq, Repr

/-- What a WAIT waits for (R353): the word and what it is compared with, the bound, whether a write has changed it; and
what its completion writes and marks. -/
structure WaitFor where
  addr : Nat
  cmp : DWord
  deadline : Option Nat
  hit : Bool
  d : SReg
  markA : Option SPair
  markB : Option SPair
  deriving DecidableEq, Repr

/-- What a thread set, or a memory task, is doing (R18, R40, R137, R347). -/
inductive RunState where
  | idle
  | ready
  | atBar
  | atTlwait (sel : Nat) (value : Nat)
  | atWait (f : WaitFor)
  | stopped
  | parked
  | retired
  deriving DecidableEq, Repr

/-- An asynchronous trap that has reached its thread set (R60, R116, R341). -/
structure PendTrap where
  cause : Cause
  xpc : Word
  xval : Word
  deriving DecidableEq, Repr

/-- The register a global answer writes (R140). -/
inductive AnswerReg where
  | scalar (w : LdWidth) (d : SReg)
  | vec (fmt : Fmt) (d : VReg)
  | old (wide : Bool) (d : SReg)
  deriving DecidableEq, Repr

/-- A global access whose answer has not come back (R140, R147, R323): the address, the width, and the bytes that it has
already: what the task's own buffered stores give (R142), what it has read before a later store of the task reached memory,
and for an atomic, which is performed at once, the old value. -/
structure PendGlobal where
  id : Nat
  reg : AnswerReg
  gva : Nat
  n : Nat
  own : List (Option Byte)
  acquire : Option Scope
  step : Word
  deriving DecidableEq, Repr

/-- A block load on its way (R140); `id` orders it among the task's accesses, `done` are the 8-byte words that have landed. -/
structure BlockLoad where
  id : Nat
  number : Nat
  gva : Nat
  dst : Nat
  n : Nat
  own : List (Option Byte)
  step : Word
  landed : Bool
  done : List Nat := []
  deriving DecidableEq, Repr

/-- A send, push, join or score packet series short of its timeline (R61, R62, R153). `left` counts its packets that
have not landed and whose refusal has not returned; `returned` is set once one has (R58, R60); `join` marks a join or a
leave (R69). -/
structure OpenSend where
  number : Nat
  left : Nat
  returned : Bool
  join : Bool
  xpc : Word
  deriving DecidableEq, Repr

/-- Where a memory task stands (R137). -/
inductive TaskState where
  | free | resident | ready | running | waiting | bound | parked
  deriving DecidableEq, Repr

/-- The register context of a thread set; on a memory core, that of a task (its frame, R137). `enter`: the line of `pc`
is checked as it is entered (R194); `lineHeld`: the line a demand fetch has brought (R406); `bubbles`: the cycles that it
has still to wait, each with its event (R231, R364); `waits`: the registers whose results are not yet there, each with the
cycles left (R216); `native`: it runs from the body (R390); `ovlWaited`, `ovlFenced`: the
overlay number that TLWAIT has reached, and that which an IFENCE has followed (R352, R407). -/
structure ThreadSet where
  run : RunState := .idle
  pc : Word := 0
  enter : Bool := true
  lineHeld : Option Nat := none
  bubbles : List Nat := []
  waits : List (Nat × Nat) := []
  ovlWaited : Nat := 0
  ovlFenced : Nat := 0
  native : Bool := false
  s : Vector Word 32 := Vector.replicate 32 0
  sDead : Vector Bool 32 := Vector.replicate 32 false
  v : Vector VWord 32 := Vector.replicate 32 0
  vTag : Vector Fmt 32 := Vector.replicate 32 .ut
  vDead : Vector Bool 32 := Vector.replicate 32 false
  p : Vector Bool 8 := Vector.replicate 8 false
  f : Vector FSlot 32 := Vector.replicate 32 .dead
  prec : Word := 64
  rmode : Word := 0
  fstat : Word := 0
  pxneed : Word := 0
  fwspill : Word := 0
  deadmode : Word := 0
  tidx : Word := 0
  pwbase : Word := 0
  pwlim : Word := 0
  pwattr : Word := 0
  xcause : Word := 0
  xpc : Word := 0
  xval : Word := 0
  xrpc : Word := 0
  xstat : Word := 0
  loops : List LoopLevel := []
  traps : List PendTrap := []
  sendCount : Nat := 0
  sendTl : Nat := 0
  sends : List OpenSend := []
  answers : List PendGlobal := []
  -- a memory task only
  sstep : Word := 0
  loadCount : Nat := 0
  loadTl : Nat := 0
  loads : List BlockLoad := []
  commitTl : Nat := 0
  pattern : BitVec 128 := 0
  deriving DecidableEq, Repr

/-- A landing window's state (R55). -/
inductive WinState where
  | accepting | due | complete | closing | readable
  deriving DecidableEq, Repr

/-- A landing-window entry (R51). `written` holds the addresses of the 8-byte words written in this arming (R65, R66). -/
structure Window where
  base : Nat := 0
  len : Nat := 0
  arm : Word := 0
  count : Nat := 0
  expect : Option Nat := none
  log : Bool := false
  state : WinState := .accepting
  written : List Nat := []
  deriving DecidableEq, Repr

/-- A subscription entry (R68); `active` once the barrier that ends its superstep has released the core, `leaving`
once an UNSUBSCRIBE has removed it from the match table but not yet from pushes (R70). -/
structure Subscription where
  tag : Nat
  stack : Nat
  chan : Nat
  base : Nat
  active : Bool
  leaving : Bool
  deriving DecidableEq, Repr

/-- The chronograph ring (R66, R67): entries by slot, head, lost count, next SEQ. -/
structure Chron where
  ring : Table (BitVec 128) := []
  head : Nat := 0
  lost : Nat := 0
  seq : Nat := 0
  deriving DecidableEq, Repr

/-- An entry of the joint queue with what its MGANG captured (R114, R313). `feed` holds the codes of A, row by row: on the
feed core from issue on, and on every core of the segment once the unit has read them (`fed`, R123, R133); `join` names
the joint operation that the heads joined to. -/
structure JointOp where
  number : Nat
  ts : Nat
  xpc : Word
  shape : GangShape
  acc : CReg
  tile : MReg
  first : Nat
  row0 : Nat
  k0 : Nat
  desc : BitVec 256
  aScale : BitVec 512
  bScale : BitVec 512
  smeta : BitVec 2048
  step : Word
  joined : Bool
  join : Nat := 0
  feed : Option (List Nat)
  fed : Bool
  deriving DecidableEq, Repr

/-- A tile register (R119): 32 rows of 64 bytes and the tag. -/
structure Tile where
  bits : BitVec 16384 := 0
  tag : Fmt := .ut
  deriving DecidableEq, Repr

/-- An accumulator tile (R121): 16 rows of 64 bytes and the tag. -/
structure Acc where
  bits : BitVec 8192 := 0
  tag : Fmt := .ut
  deriving DecidableEq, Repr

/-- What the thread sets of a compute core share and a rollback restores (R444). -/
structure Shared where
  windows : List Window := []
  subs : List Subscription := []
  chron : Chron := { }
  tiles : Vector Tile 16 := Vector.replicate 16 { }
  accs : Vector Acc 8 := Vector.replicate 8 { }
  desc : BitVec 256 := 0
  aScale : BitVec 512 := 0
  bScale : BitVec 512 := 0
  smeta : BitVec 2048 := 0
  joint : List JointOp := []
  matrixCount : Nat := 0
  matrixTl : Nat := 0
  matrixDone : List Nat := []
  score : DWord := 0
  deriving DecidableEq, Repr

/-- A line tag of the instruction scratchpad (R406): index, capsule handle, line number, build identity; and the number of
the overlay that brought it (R407; 0: a demand fetch, or the overlays of the launch record). -/
structure ScratchLine where
  index : Nat
  capsule : Nat
  line : Nat
  build : Nat
  overlay : Nat := 0
  deriving DecidableEq, Repr

/-- A deferred atomic, a release point, or plain bytes in the commit buffer (R141, R147, R148). -/
inductive CommitKind where
  | bytes
  | release
  | atom (op : BankOp) (el : Elem) (opnd : DWord)
  deriving DecidableEq, Repr

/-- A commit-buffer entry (R141): the line, its bytes with the mask as the bytes present, the gang, its queue, the task's
slot and the superstep, also as the count of the gang's supersteps before it (`epoch`); `draining` once its barrier has
completed (R143), and `order` tells which barrier of all did so; `locked` while every replica of its line is locked (R151). -/
structure CommitEntry where
  id : Nat
  ctx : Nat
  gang : Nat
  q : Nat
  slot : Nat
  step : Word
  epoch : Nat
  line : Nat
  bytes : Mem
  mask : List Nat
  kind : CommitKind
  draining : Bool
  order : Nat
  locked : Bool := false
  deriving DecidableEq, Repr

/-- One task slot of a memory core (R137, R432): `faultPages` are the pages a parked task waits for, `homePages` those
whose read firmware serves from home for want of a frame (R438). -/
structure Task where
  state : TaskState := .free
  gang : Nat := 0
  set : Nat := 0
  since : Nat := 0
  faultPages : List Nat := []
  homePages : List Nat := []
  deriving DecidableEq, Repr

/-- What the store of a lockstep pair's shadow core holds otherwise than its leader's (R473): bytes, poisoned words, the
bytes as they stood at the barrier, and those under arrivals of the superstep to come (R493). -/
structure Twin where
  bytes : Table Byte := []
  poison : List Nat := []
  shadow : Table Byte := []
  early : Table Byte := []
  deriving DecidableEq, Repr

/-- A core. A compute core uses contexts 0 to 3 (its thread sets); a memory core uses contexts 0 to 15 (the frames of
its task slots) and `running` says which task each of its two thread sets holds. `units` are the shared
units of the core that are busy, each with the cycles left (R216, R273, R309, R46); `cycled`: its sets have been charged for
the cycle that runs (R365); a core that leads a lockstep pair keeps its shadow's `twin`. -/
structure Core where
  gang : Option Nat := none
  lastCtx : Option Nat := none
  fenced : Bool := false
  gpos : Word := 0
  gdim : Word := 0
  brect : Word := 0
  round : Word := 0
  sstep : Word := 0
  overlayTl : Nat := 0
  overlayCount : Nat := 0
  overlayDone : List Nat := []
  ts : Vector ThreadSet 16 := Vector.replicate 16 { }
  shadowTs : Vector ThreadSet 16 := Vector.replicate 16 { }
  shared : Shared := { }
  shadow : Shared := { }
  store : Mem := []
  poison : List Nat := []
  plate : Table (BitVec 2048) := []
  early : Table Byte := []
  earlyScore : Option DWord := none
  twin : Option Twin := none
  sched : Nat := 0
  schedRun : Nat := 0
  pairHold : Bool := false
  arrived : Bool := false
  scratch : List ScratchLine := []
  units : List (Nat × Nat) := []
  cycled : Bool := false
  counters : Vector (Vector Nat 16) 4 := Vector.replicate 4 (Vector.replicate 16 0)
  freeze : Vector Bool 4 := Vector.replicate 4 false
  shadowFreeze : Vector Bool 4 := Vector.replicate 4 false
  -- a memory core only
  running : Vector (Option Nat) 2 := Vector.replicate 2 none
  tasks : Vector Task 16 := Vector.replicate 16 { }
  commit : List CommitEntry := []
  deriving DecidableEq, Repr

/-- A typed reference as a launch record binds it (R393). -/
structure Ref where
  base : Nat
  fmt : Fmt
  rank : Nat
  ext : List Nat
  r : Bool
  w : Bool
  size : Nat
  deriving DecidableEq, Repr

/-- A gang's phase (R430). -/
inductive GangPhase where
  | starting | running | retiring | ended
  deriving DecidableEq, Repr

/-- A rival's state (R168); an ordinary gang is `ordinary`. -/
inductive RivalState where
  | ordinary | running | closing | held | heldRetired | faulted | empty
  deriving DecidableEq, Repr

/-- An injected error armed for a gang (R452): the kind, what is left to fire, the superstep, where. -/
structure Inject where
  kind : Nat
  left : Nat
  step : Word
  tgt : Nat
  col : Nat
  row : Nat
  addr : Nat
  deriving DecidableEq, Repr

/-- Where an error that a gang consumed came from (the SRC codes of R475). -/
inductive ErrSrc where
  | checker | vote | parity | residue | lockstep | poison | bank
  deriving DecidableEq, Repr

/-- A gang (R21, R28, R41, R430), or a rival of a tournament (R160). `rels` names the cores and tasks its release has
yet to reach, `restart` that it is the release that repeats a superstep (R449); `epoch` counts the supersteps that have
ended; `badLines` are the lines that failed a parity check in this superstep, by core (R183); `toks` the barrier tokens
passed on; `taskAt` the task arrivals the corner core has; `lateSends` the pushes that tasks had open when they retired
(R40); `lost` that the error waiting for the ladder is one of a superstep that has been committed (R117); `fault` is a
faulted rival's cause, XPC and XVAL, and the mark of a handler entry that failed (R342). -/
structure Gang where
  ctx : Nat := 0
  q : Nat := 0
  idx : Nat := 0
  launch : Nat := 0
  capsule : Nat := 0
  ox : Nat := 0
  oy : Nat := 0
  w : Nat := 0
  h : Nat := 0
  sets : Nat := 0
  limit : Nat := 0
  cycles : Nat := 0
  tasks : List (Nat × Nat × Nat) := []
  shadowTasks : List (Nat × Nat × Nat) := []
  phase : GangPhase := .starting
  noplate : Bool := false
  lock : Bool := false
  fdom : Nat := 0
  params : List Ref := []
  sstep : Word := 0
  epoch : Nat := 0
  taskAt : List (Nat × Nat × Nat) := []
  lateSends : List (CoreId × Nat × OpenSend) := []
  toks : List (Nat × Nat × Bool) := []
  rels : List (CoreId × Nat) := []
  restart : Bool := false
  badLines : List (CoreId × Nat) := []
  nonroll : Bool := false
  retries : Nat := 0
  err : Option ErrSrc := none
  errWhere : Nat := 0xFFFF
  errAddr : Nat := 0
  lost : Bool := false
  injects : List Inject := []
  tour : Option Nat := none
  bidx : Nat := 0
  rival : RivalState := .ordinary
  count : Nat := 0
  final : Bool := false
  shadowCount : Nat := 0
  shadowRival : RivalState := .ordinary
  shadowFinal : Bool := false
  word : Word := 0
  fault : Option (Cause × Word × Word × Bool) := none
  deriving DecidableEq, Repr

/-- A tournament (R160 to R172). `rivals` names the gangs by bracket index; `faults` keeps the causes of rivals that have
been wiped. -/
structure Tour where
  ctx : Nat
  q : Nat
  idx : Nat
  ox : Nat
  oy : Nat
  w0 : Nat
  h0 : Nat
  m : Nat
  k : Nat
  solo : Bool
  allow0 : Nat
  limit : Nat
  cycles : Nat
  rivals : List Nat
  annexWins : List (Nat × Nat)
  faults : List (Nat × Cause × Word × Word × Bool)
  live : Bool
  deriving DecidableEq, Repr

/-- A capsule's state (R389). -/
inductive CapState where
  | portable | native | voided | rebuilding | retired
  deriving DecidableEq, Repr

/-- A declared parameter (R384). -/
structure Param where
  name : Nat
  fmt : Fmt
  rank : Nat
  acc : Nat
  deriving DecidableEq, Repr

/-- An installed capsule (R386 to R390): its portable form, entries, parameters, trap table and body range. -/
structure Capsule where
  handle : Nat
  level : Nat
  state : CapState
  depuse : Bool
  test : Bool
  lines : List Line
  entry : Word
  annex : Word
  params : List Param
  traps : List Word
  base : Nat
  bodyBase : Nat
  bodyLen : Nat
  buildId : Nat
  queued : Bool
  withheld : Bool
  deriving DecidableEq, Repr

/-- A registered buffer (R386, R394). -/
structure Buffer where
  handle : Nat
  base : Nat
  fmt : Fmt
  rank : Nat
  ext : List Nat
  size : Nat
  r : Bool
  w : Bool
  capsule : Nat
  deriving DecidableEq, Repr

/-- A launch record as installed, with its dependence counter (R422, R426). -/
structure Launch where
  handle : Nat
  capsule : Nat
  header : List Byte
  entries : List (List Byte)
  depn : Nat
  counter : Nat
  deriving DecidableEq, Repr

/-- A queue's state code (R413). -/
inductive QState where
  | running | quiesced | halted | torn
  deriving DecidableEq, Repr

/-- A dispatched record that has not completed, or a completed one whose slot is not yet free (R415, R416). -/
structure Slot where
  idx : Nat
  kind : Nat
  done : Bool
  hold : Bool
  deriving DecidableEq, Repr

/-- A placement that a GANGRESERVE holds for the launch behind it (R428, R430): rectangle and task slots. -/
structure Resv where
  ox : Nat
  oy : Nat
  w : Nat
  h : Nat
  slots : List (Nat × Nat)
  deriving DecidableEq, Repr

/-- A hardware queue (R413, R418, R420); `turn64` says in which order it reached 64 passes (R429; 0: it has not). -/
structure Queue where
  ring : Nat := 0
  log2n : Nat := 0
  prod : Bool := false
  group : Nat := 0
  head : Nat := 0
  free : Nat := 0
  tail : Nat := 0
  state : QState := .running
  err : Nat := 0
  errIdx : Nat := 0
  xcause : Nat := 0
  xpc : Word := 0
  xval : Word := 0
  done : Nat := 0
  bodyWait : Nat := 0
  signalTl : Nat := 0
  copyCount : Nat := 0
  copyTl : Nat := 0
  copyDone : List Nat := []
  skip : Nat := 0
  slots : List Slot := []
  iters : Table Nat := []
  checked : Bool := false
  counted : Bool := false
  waitTl : Option (Nat × Nat × Nat) := none
  passes : Nat := 0
  turn64 : Nat := 0
  resv : Option Resv := none
  handlerFail : Bool := false
  deriving DecidableEq, Repr

/-- A peer-table entry (R459, R469). -/
structure Peer where
  addr : Nat
  port : Nat
  target : Nat
  own : Bool
  deriving DecidableEq, Repr

/-- A remote-access registration with the receive ring's next slot (R459). -/
structure Remote where
  rkey : Nat
  kind : RemoteKind
  used : Nat
  deriving DecidableEq, Repr

/-- A message being received (R460): its packets placed so far, those of a SEND held until it is complete, and the
LASTERR code with which it was refused (0: none). -/
structure Inbound where
  origin : NetOrigin
  message : Nat
  placed : List Nat
  held : List (Nat × List Byte)
  complete : Bool
  err : Nat
  deriving DecidableEq, Repr

/-- A network post (R334, R335, R463): held until its barrier, then in flight, kept until the timeline reaches its number;
`q` and `idx` name its gang's record, `tour` its tournament (R465). -/
structure Post where
  number : Nat
  gang : Nat
  q : Nat
  idx : Nat
  poster : CoreId
  ts : Nat
  step : Word
  opc : Nat
  aop : Nat
  elem : Nat
  ccnt : Nat
  rcnt : Nat
  peer : Nat
  rkey : Nat
  roff : Nat
  laddr : Nat
  len : Nat
  opnd : DWord
  src : List Byte
  read : Bool
  released : Bool
  ended : Bool
  tries : Table Nat
  tour : Option Nat := none
  deriving DecidableEq, Repr

/-- A context (R411, R434, R453). Its page table is the tables that firmware keeps for it, by level and index path with the
address at which each lies (`root` for the first), and their entries, by level and index path (R434). `replicas` are the
frames of read replicas: page, stack and address (R438). `installs` are the
install requests whose status is withheld (R386); `records` the records sections of the objects installed, by capsule,
which the driver submits from (R386); `denied` the aperture accesses that firmware has logged, address and direction
(R455); `migrates` the migration requests not yet answered, by page (R442); `lost` the poisoned lines of its page tables
(R446). -/
structure Context where
  fn : Nat := 0
  local_ : Nat := 0
  depcount : Word := 0
  kctl : Word := 0
  injection : Bool := false
  root : Nat := 0
  tables : List ((Nat × Nat) × Nat) := []
  pt : List ((Nat × Nat) × DWord) := []
  backing : Table (List Byte) := []
  replicas : List (Nat × Nat × Nat) := []
  capsules : List Capsule := []
  buffers : List Buffer := []
  launches : List Launch := []
  queues : Table Queue := []
  counters : Nat := 0
  netCount : Nat := 0
  netTl : Nat := 0
  netDone : List Nat := []
  posts : List Post := []
  peers : Table Peer := []
  remotes : List Remote := []
  inbound : List Inbound := []
  injects : List (Nat × Inject) := []
  installs : List (Nat × Nat) := []
  records : List (Nat × List Byte) := []
  denied : List (Nat × Bool) := []
  migrates : List (Nat × Nat) := []
  lost : List Nat := []
  deriving DecidableEq, Repr

/-- A region control block (R411): its handle and its 64 bytes; `tour` names the tournament that a tournament node stands for
(R412). -/
structure Region where
  handle : Nat
  kind : Nat
  ovr : BitVec 8
  prio : Nat
  blmin : Nat
  noplate : Bool
  lock : Bool
  fdom : Nat
  parent : Nat
  cores : Nat
  slots : Nat
  limit : Nat
  rect : BitVec 32
  ctx : Nat
  qtab : Nat
  tour : Option Nat := none
  deriving DecidableEq, Repr

/-- Who sent a packet (R57, R67, R153). -/
structure Sender where
  core : CoreId
  ts : Nat
  gang : Nat
  deriving DecidableEq, Repr

/-- A packet in the mesh (R57, R58, R153): plain data with a bank operation, at most 256 bytes. `bytes` are the source
bytes as they stood at issue, `src` their address (R61); `untagged` as R53 says. -/
structure Packet where
  id : Nat
  sender : Sender
  number : Nat
  tag : Word
  untagged : Bool
  x : Nat
  y : Nat
  addr : Nat
  bytes : List Byte
  src : Nat
  sendop : Bool
  op : BankOp
  el : Elem
  set : Nat
  mcast : Bool
  deriving DecidableEq, Repr

/-- A refusal on its way back (R60, R69, R71): where its packet was refused, and how many packets it answers for, the
refused one and those discarded behind it (R58). -/
structure RefusalPkt where
  id : Nat
  sender : Sender
  number : Nat
  x : Nat
  y : Nat
  xval : Word
  mcast : Bool
  count : Nat
  deriving DecidableEq, Repr

/-- A TSCORE packet on its way (R356). -/
structure ScorePkt where
  id : Nat
  sender : Sender
  number : Nat
  tag : Word
  x : Nat
  y : Nat
  value : DWord
  deriving DecidableEq, Repr

/-- A join or leave packet on its way (R69). -/
structure JoinPkt where
  id : Nat
  sender : Sender
  number : Nat
  tag : Nat
  stack : Nat
  chan : Nat
  leave : Bool
  deriving DecidableEq, Repr

/-- A router's subscription bitmap (R69): the router, the tag, the memory core and the port bits set. -/
structure RouterTag where
  x : Nat
  y : Nat
  tag : Nat
  ports : List Nat
  deriving DecidableEq, Repr

/-- A copy accepted by a copy engine (R332, R418), kept until its queue's timeline reaches its number: posted by a gang
(then `record` is the ring index of the gang's launch record) or dispatched from a queue (then it is that of the COPY).
`src` holds the source bytes once the engine has read them (R41); `late` the pages it writes that were migrating when it was
accepted (R442), `tour` the poster's tournament (R332). -/
structure CopyJob where
  id : Nat
  ctx : Nat
  q : Nat
  number : Nat
  gang : Option Nat
  record : Nat
  xpc : Word
  saddr : Nat
  daddr : Nat
  len : Nat
  sk : Nat
  dk : Nat
  dig : Bool
  digaddr : Nat
  dep : Bool
  deprec : Nat
  poster : Option (CoreId × Nat)
  src : Option (List Byte)
  late : List Nat
  finished : Bool
  tour : Option Nat := none
  deriving DecidableEq, Repr

/-- An overlay load on its way (R333). -/
structure OverlayJob where
  id : Nat
  gang : Nat
  x : Nat
  y : Nat
  number : Nat
  line : Nat
  lines : Nat
  poster : CoreId
  ts : Nat
  finished : Bool
  deriving DecidableEq, Repr

/-- A queue record accepted by QPOST and not yet released (R335, R336). -/
structure QPost where
  id : Nat
  ctx : Nat
  q : Nat
  gang : Nat
  poster : CoreId
  ts : Nat
  record : List Byte
  deriving DecidableEq, Repr

/-- What an engine has still to do because the page it writes is away or migrates, or its bytes have still to drain (R143,
R442): a released queue record (R336), or a post's completion with its counter (R463); or the teardown of the fault domain of a
queue, for what the network engine met at a counter (R448). -/
inductive Deferred where
  | record (p : QPost)
  | finish (ctx number counter : Nat) (ok : Bool) (lasterr : Nat)
  | tear (ctx q src addr : Nat)
  deriving DecidableEq, Repr

/-- A packet that leaves the device for a peer (R459, R461). -/
structure WirePkt where
  ctx : Nat
  peer : Nat
  number : Nat
  seq : Nat
  opc : Nat
  aop : Nat
  elem : Nat
  rkey : Nat
  roff : Nat
  bytes : List Byte
  opnd : DWord
  rcnt : Nat
  total : Nat
  deriving DecidableEq, Repr

/-- An error report (R475). -/
structure Report where
  level : Nat
  src : Nat
  ctx : Nat
  queue : Nat
  whereIs : Nat
  sstep : Word
  retry : Nat
  addr : Nat
  time : Nat
  deriving DecidableEq, Repr

/-- An aperture window (R453). -/
structure Aperture where
  fn : Nat
  off : Nat
  ctx : Nat
  gva : Nat
  len : Nat
  deriving DecidableEq, Repr

/-- The mailbox's answers and records, and what host accesses return (R453, R455, R457, R475, R481). -/
inductive Answer where
  | status (request : Nat) (code : Nat)
  | handle (request : Nat) (code h : Nat)
  | data (request : Nat) (bytes : List Byte)
  | unsupported (request : Nat)
  | report (fn : Nat) (bytes : List Byte)
  | stopped (ctx capsule : Nat) (core : CoreId) (t pos : Nat)
  deriving DecidableEq, Repr

/-- A unit that poison marks (R446): a line of memory, or a word of a store. -/
inductive PoisonUnit where
  | line (l : Nat)
  | word (c : CoreId) (a : Nat)
  deriving DecidableEq, Repr

/-- An entry of a structure that holds containment state, in its three copies; a copy that has gone wrong agrees with no
other (R447; DESIGN CHOICE, log entry 58). -/
structure Copies (α : Type) where
  a : Option α
  b : Option α
  c : Option α
  deriving DecidableEq, Repr

/-- A data shard that leaves for the device that keeps the parity of its stripe, as a network PUT (R477). -/
structure CkPut where
  group : Nat
  dev : Nat
  stripe : Nat
  bytes : List Byte
  deriving DecidableEq, Repr

/-- A checkpoint group as this device knows it (R477); its slots lie in the area of memory that the group names (R478). -/
structure CkGroup where
  group : Nat
  devices : Nat
  self : Nat
  ctx : Nat
  area : Nat
  areaLen : Nat
  deriving DecidableEq, Repr

/-- The device counters of R476. -/
structure DevCounters where
  l1retry : Nat := 0
  l2rollback : Nat := 0
  l3teardown : Nat := 0
  l4fatal : Nat := 0
  poisoncons : Nat := 0
  lockmiss : Nat := 0
  repldrop : Nat := 0
  ctlrepair : Nat := 0
  frameret : Nat := 0
  evpinwait : Nat := 0
  nonroll : Nat := 0
  ckfail : Nat := 0
  deriving DecidableEq, Repr

/-- The STATUS classes of R482. -/
inductive DevClass where
  | starting | ready | failed | fallback | fatal
  deriving DecidableEq, Repr

/-- A firmware slot (R485, R486): the image and the leaf index recorded for it. -/
structure FwSlot where
  image : List Byte := []
  leaf : Nat := 0
  deriving DecidableEq, Repr

/-- A start that runs (R483, R484): warm or cold, the step that fails (0: none), the cores that step 5 fences, the slot that it
boots, whether as the other one after three failures, and the steps still to come. -/
structure StartRun where
  warm : Bool
  fail : Nat
  fenced : List CoreId
  slot : Nat
  other : Bool
  todo : List Nat
  deriving DecidableEq, Repr

/-- The thread set (or task context) whose instruction executes. -/
structure Who where
  core : CoreId
  t : Fin 16
  deriving DecidableEq, Repr

/-- The structures that hold containment state in three copies (R447). -/
inductive CopySet where
  | records | remaps | retired
  deriving DecidableEq, Repr

/-- Who moves next: an event happens, a core takes an issue cycle, a cycle of the clock passes, or the hardware errs: what
a thread set is about to complete fails its check, and, with `again`, fails it once more; `addr` is that of a bank or atomic
unit, or the position of a line, and a stray error is one of a unit that works for no gang but for a queue (log entries 1 and 28); or copies of an entry of a containment structure go
wrong, those whose bit of `mask` is set (R447); or a sensor reads another value from then on (R488). -/
inductive Turn where
  | event (i : Instr)
  | issue (c : CoreId)
  | tick
  | upset (w : Who) (src : ErrSrc) (again : Bool) (addr : Nat)
  | stray (ctx q addr : Nat)
  | corrupt (which : CopySet) (i mask : Nat)
  | sense (i : Nat) (v : Word)
  deriving DecidableEq, Repr

/-- The device. -/
structure State where
  -- the model's own: who moves (log entry 1), the clock in cycles, the tick of the free values, the next identifier, and the
  -- event of R364 that the last thread set's cycle belongs to (1 where it issued, 0x11 where it issued and did not retire)
  agenda : List Turn
  turn : CoreId
  who : Who
  now : Nat
  tick : Nat
  nextId : Nat
  evt : Nat
  -- cores, gangs, contexts
  compute : Table Core
  memory : Table Core
  control : Table Core
  gangs : Table Gang
  tours : Table Tour
  contexts : Table Context
  regions : List Region
  -- the mesh and the engines
  packets : List Packet
  refusals : List RefusalPkt
  scores : List ScorePkt
  joins : List JoinPkt
  routers : List RouterTag
  copies : List CopyJob
  overlays : List OverlayJob
  qposts : List QPost
  deferred : List Deferred
  wire : List WirePkt
  -- global memory and its containment records (`hbmLost` are poisoned lines that no replica holds unspoilt, R440; the module's
  -- flash keeps remaps and retired frames across a start, R483)
  hbm : Mem
  hbmPoison : List Nat
  hbmLost : List Nat
  poisonRecords : List (Copies PoisonUnit)
  eccSeen : Table Nat
  remaps : List (Copies (Nat × Nat))
  retiredFrames : List (Copies Nat)
  flashRemaps : List (Nat × Nat)
  flashRetired : List Nat
  -- the host link and the device (`picos` is the time since the last cold start, R475; `served` names the queue last
  -- served at each priority, R428; `sensed` the sensors' words that the agenda has set, R488)
  apertures : List Aperture
  irqs : List (Nat × Nat)
  reports : List Report
  answers : List Answer
  devCounters : DevCounters
  devClass : DevClass
  devDetail : Nat
  railsOff : Bool
  failedStarts : Nat
  starting : Option StartRun
  fwA : FwSlot
  fwB : FwSlot
  fwActive : Nat
  fwLeaf : Nat
  attestIndex : Nat
  clockMhz : Nat
  picos : Nat
  powerCap : Nat
  sensed : Table Word
  kctx : Word
  served : Table Nat
  ckGroups : List CkGroup
  ckOut : List CkPut
  deriving DecidableEq, Repr

/-- Why the machine can stop. No meaning of this model stops: every row has an effect that the manual describes, a trap
among them. -/
inductive Fault where
  /-- The thread set that is to issue does not exist: raised by nothing the step does. Safe: a machine that stops where
  the device goes on proves no false claim. -/
  | noSuchAgent
  deriving DecidableEq, Repr

/-- Why an instruction has no meaning here. -/
inductive Refusal where
  /-- The instruction's arm in `exec` has no meaning yet; it names the opcode-table row. Safe: nothing is proved of
  what follows. -/
  | notModelled (mnemonic : String)
  deriving DecidableEq, Repr

/-- The device as power comes to it, before its first start has run: nothing resident, nothing installed, every store
reading zero, STATUS starting (R482). -/
def State.reset : State where
  agenda := []
  turn := .compute 0 0
  who := { core := .compute 0 0, t := 0 }
  now := 0
  tick := 0
  nextId := 0
  evt := 0
  compute := []
  memory := []
  control := []
  gangs := []
  tours := []
  contexts := []
  regions := []
  packets := []
  refusals := []
  scores := []
  joins := []
  routers := []
  copies := []
  overlays := []
  qposts := []
  deferred := []
  wire := []
  hbm := []
  hbmPoison := []
  hbmLost := []
  poisonRecords := []
  eccSeen := []
  remaps := []
  retiredFrames := []
  flashRemaps := []
  flashRetired := []
  apertures := []
  irqs := []
  reports := []
  answers := []
  devCounters := { }
  devClass := .starting
  devDetail := 0
  railsOff := false
  failedStarts := 0
  starting := none
  fwA := { leaf := Config.firstLeaf 0 }
  fwB := { leaf := Config.firstLeaf 1 }
  fwActive := 0
  fwLeaf := Config.firstLeaf 2
  attestIndex := Config.firstLeaf 3
  clockMhz := 2000
  picos := 0
  powerCap := 1800
  sensed := []
  kctx := 0
  served := []
  ckGroups := []
  ckOut := []

end Sys2Proof.Machine
end

