-- ==== Sys2Proof/Machine/Ops.lean ====
section
/-! DEFINITION. The operations every meaning is made of: tables and stores of bytes, cores and thread sets, registers
and flags, the checks of a store access, code lines and transfers, retiring an instruction, ending a gang, and taking a
trap (R338 to R345). -/
namespace Sys2Proof

/-- The key of a core in its table. -/
def CoreId.key : CoreId → Nat
  | .compute x y => y * 32 + x
  | .memory s c => s * 32 + c
  | .control n => n

/-- The cores of the package (R10, R11, R351). -/
def CoreId.exists : CoreId → Bool
  | .compute x y => decide (x < 32) && decide (y < 32)
  | .memory s c => decide (s < 8) && decide (c < 32)
  | .control _ => true

/-- The shadow core of a lockstep pair lies east of its leader (R472). -/
def CoreId.east : CoreId → CoreId
  | .compute x y => .compute (x + 1) y
  | c => c

def CoreId.kind : CoreId → CoreKind
  | .compute _ _ => .compute
  | .memory _ _ => .memory
  | .control _ => .control

def CoreId.isMemory : CoreId → Bool
  | .memory _ _ => true
  | _ => false

namespace Machine

section Tables

/-- The entry of a key. -/
def Table.find (t : Table α) (k : Nat) : Option α :=
  match t with
  | [] => none
  | (j, v) :: r => if j = k then some v else Table.find r k

/-- Set the entry of a key; keys stay rising. -/
def Table.put (t : Table α) (k : Nat) (v : α) : Table α :=
  match t with
  | [] => [(k, v)]
  | (j, u) :: r => if k < j then (k, v) :: (j, u) :: r else if k = j then (k, v) :: r else (j, u) :: Table.put r k v

/-- A 64-bit counter of the device rises and stops at its highest value (R476). -/
def sat64 (n : Nat) : Nat := min (n + 1) (2 ^ 64 - 1)

/-- Remove the entry of a key. -/
def Table.drop (t : Table α) (k : Nat) : Table α := t.filter fun e => e.1 != k

end Tables

section Bytes

/-- One byte of a store. -/
def Mem.read (m : Mem) (k : Nat) : Byte :=
  match m with
  | [] => Mem.unlisted
  | (a, b) :: r => if a = k then b else Mem.read r k

/-- Write one byte and keep the canonical form. -/
def Mem.write (m : Mem) (k : Nat) (v : Byte) : Mem :=
  match m with
  | [] => if v = Mem.unlisted then [] else [(k, v)]
  | (a, b) :: r =>
    if k < a then (if v = Mem.unlisted then (a, b) :: r else (k, v) :: (a, b) :: r)
    else if k = a then (if v = Mem.unlisted then r else (k, v) :: r)
    else (a, b) :: Mem.write r k v

/-- n bytes from an address up. -/
def Mem.readN (m : Mem) (a n : Nat) : List Byte := (List.range n).map fun i => m.read (a + i)

/-- Write bytes from an address up. -/
def Mem.writeN (m : Mem) (a : Nat) : List Byte → Mem
  | [] => m
  | b :: bs => Mem.writeN (m.write a b) (a + 1) bs

/-- Little-endian value of bytes (R5). -/
def leNat : List Byte → Nat
  | [] => 0
  | b :: bs => b.toNat + 256 * leNat bs

/-- The n low bytes of a number, little-endian (R5). -/
def leBytes : Nat → Nat → List Byte
  | 0, _ => []
  | n + 1, v => BitVec.ofNat 8 v :: leBytes n (v / 256)

/-- n bytes of a list from a place on, zero past its end. -/
def bytesAt (bs : List Byte) (a n : Nat) : List Byte := (List.range n).map fun i => bs.getD (a + i) 0

/-- The little-endian number in n bytes of a list. -/
def fieldAt (bs : List Byte) (a n : Nat) : Nat := leNat (bytesAt bs a n)

end Bytes

section Cores

/-- A core as it stands. -/
def State.core (s : State) : CoreId → Core
  | .compute x y => (s.compute.find (y * 32 + x)).getD { }
  | .memory k c => (s.memory.find (k * 32 + c)).getD { }
  | .control n => (s.control.find n).getD { }

def State.setCore (s : State) (c : CoreId) (k : Core) : State :=
  match c with
  | .compute x y => { s with compute := s.compute.put (y * 32 + x) k }
  | .memory a b => { s with memory := s.memory.put (a * 32 + b) k }
  | .control n => { s with control := s.control.put n k }

def State.modCore (s : State) (c : CoreId) (g : Core → Core) : State := s.setCore c (g (s.core c))

/-- The registers of a thread set or task. -/
def State.ts (s : State) (w : Who) : ThreadSet := (s.core w.core).ts[w.t]

def State.setTs (s : State) (w : Who) (t : ThreadSet) : State :=
  s.modCore w.core fun k => { k with ts := k.ts.set w.t t }

def State.modTs (s : State) (w : Who) (g : ThreadSet → ThreadSet) : State := s.setTs w (g (s.ts w))

def State.modShared (s : State) (c : CoreId) (g : Shared → Shared) : State :=
  s.modCore c fun k => { k with shared := g k.shared }

/-- The gang a thread set or task belongs to. -/
def State.gangId (s : State) (w : Who) : Option Nat :=
  let k := s.core w.core
  if w.core.isMemory then
    let t := k.tasks[w.t]
    if t.state = .free then none else some t.gang
  else k.gang

def State.gang (s : State) (g : Nat) : Option Gang := s.gangs.find g

def State.gangOf (s : State) (w : Who) : Option Gang := (s.gangId w).bind s.gang

def State.modGang (s : State) (g : Nat) (f : Gang → Gang) : State :=
  match s.gang g with
  | some x => { s with gangs := s.gangs.put g (f x) }
  | none => s

def State.ctx (s : State) (c : Nat) : Option Context := s.contexts.find c

def State.modCtx (s : State) (c : Nat) (f : Context → Context) : State :=
  match s.ctx c with
  | some x => { s with contexts := s.contexts.put c (f x) }
  | none => s

def State.queue (s : State) (c q : Nat) : Option Queue := (s.ctx c).bind fun x => x.queues.find q

def State.modQueue (s : State) (c q : Nat) (f : Queue → Queue) : State :=
  s.modCtx c fun x =>
    match x.queues.find q with
    | some y => { x with queues := x.queues.put q (f y) }
    | none => x

def Context.capsule (c : Context) (h : Nat) : Option Capsule := c.capsules.find? fun k => k.handle == h

def State.capsule (s : State) (c h : Nat) : Option Capsule := (s.ctx c).bind fun x => x.capsule h

def State.modCapsule (s : State) (c h : Nat) (f : Capsule → Capsule) : State :=
  s.modCtx c fun x => { x with capsules := x.capsules.map fun k => if k.handle = h then f k else k }

/-- The capsule a thread set runs. -/
def State.capsuleOf (s : State) (w : Who) : Option Capsule := (s.gangOf w).bind fun g => s.capsule g.ctx g.capsule

/-- Package columns from one logical core of a gang to the next: in lockstep each has a shadow east of it (R472). -/
def Gang.stride (g : Gang) : Nat := if g.lock then 2 else 1

/-- The core at a place of a gang's rectangle; of a lockstep pair, the leader (R21, R472). -/
def Gang.coreAt (g : Gang) (x y : Nat) : CoreId := .compute (g.ox + g.stride * x) (g.oy + y)

/-- The compute cores of a gang, row by row (R21). -/
def Gang.rect (g : Gang) : List CoreId :=
  (List.range g.h).flatMap fun y => (List.range g.w).map fun x => g.coreAt x y

/-- GDIM and BRECT (R23, R24). -/
def Gang.gdim (g : Gang) : Word := BitVec.ofNat 32 (g.h % 256 * 256 + g.w % 256)
def Gang.brect (g : Gang) : Word :=
  BitVec.ofNat 32 (g.h % 256 * 2 ^ 24 + g.w % 256 * 2 ^ 16 + g.oy % 256 * 256 + g.ox % 256)

/-- ROUND (R163). -/
def Tour.round (t : Tour) (bidx : Nat) : Word :=
  BitVec.ofNat 32 (t.oy % 32 * 2 ^ 27 + t.ox % 32 * 2 ^ 22 + bidx % 64 * 2 ^ 16 + t.m % 8 * 2 ^ 13 + t.k % 8 * 2 ^ 10
    + (if t.solo then 1 else 0))

/-- A 32-bit handle that is not zero (R386): the numbers come in turn (DESIGN CHOICE, log entry 45). -/
def State.newHandle (s : State) (i : Nat) : Nat := (s.nextId + i) % (2 ^ 32 - 1) + 1

/-- The memory tasks of a gang, as who runs them. -/
def Gang.taskWhos (g : Gang) : List Who :=
  g.tasks.map fun t => { core := .memory t.1 t.2.1, t := Fin.ofNat 16 t.2.2 }

/-- The started thread sets of a gang. -/
def Gang.setWhos (g : Gang) : List Who :=
  g.rect.flatMap fun c => (List.range g.sets).map fun t => { core := c, t := Fin.ofNat 16 t }

/-- The corner core (R31). -/
def Gang.corner (g : Gang) : CoreId := .compute g.ox g.oy

def Gang.holds (g : Gang) (x y : Nat) : Bool :=
  decide (g.ox ≤ x) && decide (x < g.ox + g.stride * g.w) && (x - g.ox) % g.stride == 0
    && decide (g.oy ≤ y) && decide (y < g.oy + g.h)

/-- The leader of a lockstep pair, of which the shadow runs the same (R472); any other core leads itself. -/
def State.leaderOf (s : State) (c : CoreId) : CoreId :=
  match c with
  | .compute x y =>
    if s.gangs.any (fun e => e.2.lock && decide (1 ≤ x) && e.2.holds (x - 1) y && !e.2.holds x y) then .compute (x - 1) y else c
  | _ => c

end Cores

section Registers

/-- FSTAT's flags (R89). -/
def fINV : Word := 1
def fDZ : Word := 2
def fOFL : Word := 4
def fUFL : Word := 8
def fINX : Word := 16
def fSAT : Word := 32
def fNAV : Word := 64

/-- The codes of R339. -/
def Cause.code : Cause → Nat
  | .illegal => 0x01 | .privilege => 0x02 | .lineform => 0x03 | .target => 0x04 | .format => 0x05 | .pxh => 0x06
  | .deadread => 0x07 | .loopform => 0x08 | .prot => 0x09 | .sendrefused => 0x0A | .reftype => 0x0B
  | .refbound => 0x0C | .bodysealed => 0x0D | .blretired => 0x0E | .watchdog => 0x0F | .user => 0x10 | .break => 0x11
  | .copyfail => 0x12

/-- The causes a handler never gets (R339). -/
def Cause.delivered : Cause → Bool
  | .blretired | .watchdog | .copyfail => false
  | _ => true

/-- Why an instruction does not retire: a trap with XVAL, PXH with PXNEED (R101), a wait to issue charged to an event of R364, an error consumed
(the injected error that supplied it, if one did, R452; and the address), or a wait that the instruction itself begins (BAR, TLWAIT,
WAIT), or pages that are absent, for which the task parks (R137), or a wait of a store that is partly done, with the state that it
has come to (R145). -/
inductive Stop where
  | trap (c : Cause) (xval : Word)
  | pxh (need : Word)
  | wait (event : Nat)
  | park (pages : List Nat)
  | check (src : ErrSrc) (inject : Option Nat) (addr : Nat)
  | hold (r : RunState)
  | part (t : State)
  deriving DecidableEq, Repr

/-- A register that a global answer has yet to write (R140, R147). -/
def AnswerReg.holdsS : AnswerReg → Nat → Bool
  | .scalar .b64 d, r => d.val == r || d.val + 1 == r
  | .scalar _ d, r => d.val == r
  | .old wide d, r => d.val == r || (wide && d.val + 1 == r)
  | .vec _ _, _ => false

def AnswerReg.holdsV : AnswerReg → Nat → Bool
  | .vec _ d, r => d.val == r
  | _, _ => false

def ThreadSet.awaitsS (t : ThreadSet) (r : SReg) : Bool := t.answers.any fun a => a.reg.holdsS r.val
def ThreadSet.awaitsV (t : ThreadSet) (r : VReg) : Bool := t.answers.any fun a => a.reg.holdsV r.val

/-- DEADMODE.ZERO (R104). -/
def ThreadSet.deadZero (t : ThreadSet) : Bool := t.deadmode.getLsbD 0

/-- Read a scalar register: the interlock, then DEADREAD (R179, R180), then its value. -/
def ThreadSet.readS (t : ThreadSet) (r : SReg) : Except Stop Word :=
  if t.awaitsS r then .error (.wait 2)
  else if t.sDead[r] then
    if t.deadZero then .ok 0 else .error (.trap .deadread (BitVec.ofNat 32 (32 + r.val)))
  else .ok t.s[r]

/-- The registers of a pair (R7). -/
def SPair.lo (p : SPair) : SReg := ⟨2 * p.val, by omega⟩
def SPair.hi (p : SPair) : SReg := ⟨2 * p.val + 1, by omega⟩

/-- The pair that an even register begins. -/
def SReg.pair (r : SReg) : SPair := ⟨r.val / 2, by omega⟩

def ThreadSet.readP (t : ThreadSet) (p : SPair) : Except Stop DWord := do
  let lo ← t.readS (SPair.lo p)
  let hi ← t.readS (SPair.hi p)
  .ok (hi ++ lo)

/-- XVAL of FORMAT (R94): class, register, tag found, tag wanted. -/
def formatVal (cls reg : Nat) (found want : Nat) : Word :=
  BitVec.ofNat 32 (cls * 8192 + reg * 256 + found * 16 + want)

/-- Read a vector register, checked against a tag where one is named (R93, R94, R180). -/
def ThreadSet.readV (t : ThreadSet) (r : VReg) (want : Option Fmt) : Except Stop VWord :=
  if t.awaitsV r then .error (.wait 2)
  else if t.vDead[r] then
    if t.deadZero then .ok 0 else .error (.trap .deadread (BitVec.ofNat 32 (64 + r.val)))
  else
    match want with
    | none => .ok t.v[r]
    | some f =>
      if t.vTag[r] = f then .ok t.v[r]
      else .error (.trap .format (formatVal 0 r.val t.vTag[r].code f.code))

/-- The tag that a source passes on: a dead register holds no value, and one that reads as zero has tag code 0, as VTAGQ
gives it (R93, R179, R294; DEDUCED, log entry 60). -/
def ThreadSet.tagV (t : ThreadSet) (r : VReg) : Fmt := if t.vDead[r] then .ut else t.vTag[r]

/-- A destination is free to be written: no answer is still on its way to it (R140). -/
def ThreadSet.freeS (t : ThreadSet) (r : SReg) : Except Stop Unit := if t.awaitsS r then .error (.wait 2) else .ok ()
def ThreadSet.freeV (t : ThreadSet) (r : VReg) : Except Stop Unit := if t.awaitsV r then .error (.wait 2) else .ok ()

def ThreadSet.freeP (t : ThreadSet) (p : SPair) : Except Stop Unit := do
  t.freeS (SPair.lo p)
  t.freeS (SPair.hi p)

/-- A predicate; p0 reads as true (R16). -/
def ThreadSet.pred (t : ThreadSet) (p : PReg) : Bool := p == 0 || t.p[p]

/-- Write a register; any write makes it live (R179). -/
def ThreadSet.putS (t : ThreadSet) (r : SReg) (v : Word) : ThreadSet :=
  { t with s := t.s.set r v, sDead := t.sDead.set r false }

def ThreadSet.putP (t : ThreadSet) (p : SPair) (v : DWord) : ThreadSet :=
  (t.putS (SPair.lo p) (v.extractLsb' 0 32)).putS (SPair.hi p) (v.extractLsb' 32 32)

def ThreadSet.putV (t : ThreadSet) (r : VReg) (v : VWord) (tag : Fmt) : ThreadSet :=
  { t with v := t.v.set r v, vTag := t.vTag.set r tag, vDead := t.vDead.set r false }

/-- A write to p0 changes nothing (R228). -/
def ThreadSet.putPred (t : ThreadSet) (p : PReg) (v : Bool) : ThreadSet :=
  if p = 0 then t else { t with p := t.p.set p v }

/-- Dead marks (R179). -/
def ThreadSet.killS (t : ThreadSet) (mark : Bool) (r : SReg) : ThreadSet :=
  if mark then { t with sDead := t.sDead.set r true } else t

def ThreadSet.killP (t : ThreadSet) (mark : Bool) (p : SPair) : ThreadSet :=
  (t.killS mark (SPair.lo p)).killS mark (SPair.hi p)

def ThreadSet.killV (t : ThreadSet) (mark : Bool) (r : VReg) : ThreadSet :=
  if mark then { t with vDead := t.vDead.set r true } else t

/-- Flags are recorded (R90). -/
def ThreadSet.flag (t : ThreadSet) (f : Word) : ThreadSet := { t with fstat := t.fstat ||| f }

/-- XSTAT.INH (R340). -/
def ThreadSet.inh (t : ThreadSet) : Bool := t.xstat.getLsbD 0

/-- The guard (R176). -/
def ThreadSet.guard (t : ThreadSet) (h : Hdr) : Bool := t.pred h.pg != h.pn

end Registers

section Code

/-- The word of a slot, and the line word (R173, R182). -/
def lineSlot (l : Line) (i : Nat) : IWord := l.extractLsb' (96 * i) 96
def lineWord (l : Line) : Word := l.extractLsb' 480 32
def lineKind (l : Line) : Nat := (lineWord l).toNat / 2 ^ 20 % 16
def lineShape (l : Line) : Nat := (lineWord l).toNat / 2 ^ 7 % 8
def linePairKind (l : Line) : Nat := (lineWord l).toNat / 2 ^ 5 % 4
def lineTarget (l : Line) (i : Nat) : Bool := (lineWord l).getLsbD i

/-- The lower slots of a line's pairs (R186). -/
def linePairs (l : Line) : List Nat :=
  match (lineShape l) with
  | 1 => [0]
  | 2 => [1]
  | 3 => [2]
  | 4 => [3]
  | 5 => [0, 2]
  | 6 => [0, 3]
  | 7 => [1, 3]
  | _ => []

def bitParity (x : BitVec 48) : Bool := (List.range 48).foldl (fun acc i => acc != x.getLsbD i) false

/-- Every parity bit of a line agrees with the 48 bits it covers (R183). -/
def lineParityOk (l : Line) : Bool :=
  (List.range 5).all fun i =>
    let w := lineSlot l i
    bitParity (w.extractLsb' 0 48) == (lineWord l).getLsbD (10 + 2 * i)
      && bitParity (w.extractLsb' 48 48) == (lineWord l).getLsbD (11 + 2 * i)

/-- A slot's opcode and vote bit. -/
def slotOp (w : IWord) : Nat := (w.extractLsb' 88 8).toNat
def slotVote (w : IWord) : Bool := w.getLsbD 87

/-- The classes a pair of a kind joins (R186). -/
def pairOk (kind : Nat) (lo hi : Option IClass) : Bool :=
  match kind, lo, hi with
  | 0, some .i, some .v | 0, some .i, some .f => true
  | 1, some .l, some .v | 1, some .l, some .f | 1, some .l, some .m => true
  | 1, some .g, some .v | 1, some .g, some .f | 1, some .g, some .m => true
  | 2, some .i, some .l | 2, some .i, some .g => true
  | 3, some .i, some .b | 3, some .v, some .b | 3, some .f, some .b | 3, some .l, some .b => true
  | _, _, _ => false

/-- LINEFORM reasons 1, 2 and 4 to 6, which the line word alone decides; reason 3 where execution enters (R192). -/
def lineBadWord (l : Line) : Option Nat :=
  if (lineWord l).toNat / 2 ^ 24 ≠ 0 then some 1
  else if 2 ≤ lineKind l then some 2
  else if (linePairs l).any (fun i => !pairOk (linePairKind l) (opClass (slotOp (lineSlot l i)))
      (opClass (slotOp (lineSlot l (i + 1))))) then some 4
  else if (linePairs l).any (fun i => lineTarget l (i + 1)) then some 5
  else if (linePairs l).any (fun i => slotVote (lineSlot l i) || slotVote (lineSlot l (i + 1))) then some 6
  else none

/-- The entry check of R194. A literal line is never entered; its own template and mask are for FLDC to check. -/
def lineBadEntry (l : Line) : Option Nat :=
  if (lineWord l).toNat / 2 ^ 24 ≠ 0 then some 1
  else if 2 ≤ lineKind l then some 2
  else if lineKind l = 1 then some 3
  else lineBadWord l

/-- A portable position (R175). -/
def posOk (p : Nat) : Bool := p % 64 % 12 == 0 && decide (p % 64 ≤ 48)

def posSlot (p : Nat) : Nat := p % 64 / 12

/-- The position after a slot (R214). -/
def nextPos (p : Nat) : Nat := if p % 64 < 48 then p + 12 else p - p % 64 + 64

/-- A relative target (R214). -/
def relPos (p : Nat) (t : RelTarget) : Int := 64 * ((p / 64 : Nat) + t.lines.toInt) + 12 * t.slot.val

def Capsule.lineAt (c : Capsule) (p : Nat) : Option Line := c.lines[p / 64]?

/-- May control pass to t (R188)? `none` where it may; where the target line fails its own entry check the transfer
stands and the line raises LINEFORM (R194). -/
def Capsule.refuses (c : Capsule) (t : Int) : Bool :=
  if t < 0 then true
  else
    let p := t.toNat
    if !posOk p then true
    else
      match c.lineAt p with
      | none => true
      | some l =>
        if (lineBadEntry l).isSome || !lineParityOk l then false else !lineTarget l (posSlot p)

/-- A transfer of a thread set is refused: also where it runs no capsule. -/
def State.refusesTarget (s : State) (w : Who) (t : Int) : Bool :=
  match s.capsuleOf w with
  | some c => c.refuses t
  | none => true

/-- The body identity of a capsule: that of its native body, or zero in direct decode (R387, R406). -/
def Capsule.bodyId (c : Capsule) : Nat := if c.state = .native then c.buildId else 0

/-- The body that a thread set of a capsule runs: its own where it has taken it up, none in direct decode (R390, R406). -/
def Capsule.runId (c : Capsule) (native : Bool) : Nat := if native then c.bodyId else 0

/-- The tag that a line of a capsule has in an instruction scratchpad, with the body that it is a line of and the overlay
that brings it (R406, R407). -/
def Capsule.tagOf (c : Capsule) (build line overlay : Nat) : ScratchLine where
  index := line % 2048
  capsule := c.handle
  line := line
  build := build
  overlay := overlay

/-- The scratchpad serves a line: it holds the line, by an overlay only once TLWAIT and IFENCE have followed it (R352,
R407). -/
def Core.serves (k : Core) (t : ThreadSet) (l : ScratchLine) : Bool :=
  k.scratch.any fun x => x.capsule == l.capsule && x.line == l.line && x.build == l.build && decide (x.overlay ≤ t.ovlFenced)

/-- A line is installed at its index (R406). -/
def Core.install (k : Core) (l : ScratchLine) : Core :=
  { k with scratch := l :: k.scratch.filter fun x => x.index != l.index }

/-- The line that a thread set enters next and that its core's scratchpad does not serve (R406). -/
def State.lineAbsent (s : State) (w : Who) : Option ScratchLine :=
  let t := s.ts w
  if t.enter then
    match s.capsuleOf w with
    | some c =>
      let l := c.tagOf (c.runId t.native) (t.pc.toNat / 64) 0
      if l.line < c.lines.length ∧ t.lineHeld ≠ some l.line ∧ ¬ (s.core w.core).serves t l then some l else none
    | none => none
  else none

/-- A line is fetched on demand for a thread set (R406). -/
def State.demandLine (s : State) (w : Who) (l : ScratchLine) : State :=
  (s.modCore w.core fun k => k.install l).modTs w fun t => { t with lineHeld := some l.line }

/-- Charge a thread set one cycle of an event (R364, R365); FREEZE stops every count (R369). -/
def Core.charge (k : Core) (t e : Nat) : Core :=
  if h : t < 4 then
    if e = 0 ∨ k.freeze[t] ∨ 16 ≤ e then k
    else
      let v := k.counters[t]
      { k with counters := k.counters.set t (v.set! e (sat64 (v.toList.getD e 0))) }
  else k

end Code

section GlobalMemory

/-- The lowest index bit of a level of the walk (R434). -/
def levelShift : Nat → Nat
  | 4 => 48
  | 3 => 39
  | 2 => 30
  | 1 => 21
  | _ => 16

/-- The fields of a page-table entry (R435). -/
def pteV (p : DWord) : Bool := p.getLsbD 0
def pteLeaf (p : DWord) : Bool := p.getLsbD 1
def pteKind (p : DWord) : Nat := p.toNat / 4 % 4
def pteR (p : DWord) : Bool := p.getLsbD 4
def pteW (p : DWord) : Bool := p.getLsbD 5
def pteMig (p : DWord) : Bool := p.getLsbD 8
def pteAddr (p : DWord) : Nat := p.toNat / 2 ^ 12 % 2 ^ 36 * 2 ^ 12
def pteRmask (p : DWord) : Nat := p.toNat / 2 ^ 48 % 256

/-- A physical address lies in the 48 GiB of a stack (R435). -/
def paOk (pa : Nat) : Bool := decide (pa < 2 ^ 39) && decide (pa % 2 ^ 36 < Config.stackBytes)

/-- The stack that a physical address names (R435). -/
def paStack (pa : Nat) : Nat := pa / 2 ^ 36 % 8

/-- The malformed entries of R435. -/
def pteBad (level : Nat) (p : DWord) : Bool :=
  p.toNat / 2 ^ 56 ≠ 0 || p.toNat / 2 ^ 9 % 8 ≠ 0 || p.toNat / 2 ^ 6 % 4 ≠ 0
    || (pteLeaf p && 3 ≤ level) || (!pteLeaf p && level == 0) || pteKind p == 3 || !paOk (pteAddr p)

/-- How a walk ends (R434, R438), rights apart. -/
inductive Walk where
  | leaf (level : Nat) (pte : DWord)
  | absent
  | broken
  deriving DecidableEq, Repr

def Context.pte (c : Context) (level gva : Nat) : DWord :=
  ((c.pt.find? fun e => e.1 == (level, gva / 2 ^ levelShift level)).map (·.2)).getD 0

/-- The table of a level that serves an address: its level and the index path to it (R434). -/
def tableKey (level gva : Nat) : Nat × Nat := (level, if 4 ≤ level then 0 else gva / 2 ^ levelShift (level + 1))

/-- The entry that the table at an address holds for an access; memory that is no table of the context holds none. -/
def Context.entryAt (c : Context) (table level gva : Nat) : DWord :=
  if c.tables.contains (tableKey level gva, table) then c.pte level gva else 0

/-- The line of memory that a walk reads in a table: nine bits of the address are the index of an entry of 8 bytes, at level 0
five (R434). -/
def tableLine (table level gva : Nat) : Nat :=
  (table + 8 * (gva / 2 ^ levelShift level % (if level = 0 then 32 else 512))) / 64

/-- The walk from the table of a level down, each table where the entry above it says (R434, R435). A line that is poisoned gives
no entry (DESIGN CHOICE, log entry 55). -/
def Context.walkFrom (c : Context) (gva table : Nat) : Nat → Walk
  | 0 =>
    let p := c.entryAt table 0 gva
    if c.lost.contains (tableLine table 0 gva) then .broken
    else if !pteV p then .absent else if pteBad 0 p then .broken else .leaf 0 p
  | l + 1 =>
    let p := c.entryAt table (l + 1) gva
    if c.lost.contains (tableLine table (l + 1) gva) then .broken
    else if !pteV p then .absent
    else if pteBad (l + 1) p then .broken
    else if pteLeaf p then .leaf (l + 1) p
    else c.walkFrom gva (pteAddr p) l

/-- The five-level walk from the root that firmware has set (R434); only the mapped range of R434 is ever valid. -/
def Context.walk (c : Context) (gva : Nat) : Walk :=
  if Config.gvaLow ≤ gva ∧ gva ≤ Config.gvaHigh then c.walkFrom gva c.root 4 else .absent

/-- The physical address that a leaf gives. -/
def leafPa (level : Nat) (p : DWord) (gva : Nat) : Nat := pteAddr p + gva % 2 ^ levelShift level

/-- The physical address of a byte, where one is mapped. -/
def Context.pa (c : Context) (gva : Nat) : Option Nat :=
  match c.walk gva with
  | .leaf l p => some (leafPa l p gva)
  | _ => none

/-- The bytes of a capsule's image as it lies in global memory (R387): header, portable form, parameters, trap table. -/
def Capsule.header (c : Capsule) : List Byte :=
  let st := match c.state with
    | .portable => 0
    | .native => 1
    | .voided => 2
    | .rebuilding => 3
    | .retired => 4
  leBytes 4 c.handle ++ leBytes 1 c.level ++ leBytes 1 st
    ++ leBytes 1 ((if c.depuse then 2 else 0) + (if c.test then 1 else 0)) ++ leBytes 1 0
    ++ leBytes 4 (64 * c.lines.length) ++ leBytes 4 c.entry.toNat ++ leBytes 4 c.annex.toNat
    ++ leBytes 4 c.params.length ++ leBytes 8 c.bodyBase ++ leBytes 8 c.bodyLen ++ leBytes 8 c.buildId ++ leBytes 208 0

/-- A parameter-table entry (R384). -/
def paramBytes (p : Param) : List Byte :=
  leBytes 4 p.name ++ leBytes 1 p.fmt.code ++ leBytes 1 p.rank ++ leBytes 1 p.acc ++ leBytes 9 0

def Capsule.image (c : Capsule) : List Byte :=
  c.header ++ c.lines.flatMap (fun l => leBytes 64 l.toNat) ++ c.params.flatMap paramBytes
    ++ c.traps.flatMap fun t => leBytes 4 t.toNat

/-- The length of an image. -/
def Capsule.imageLen (c : Capsule) : Nat := 256 + 64 * c.lines.length + 16 * c.params.length + 4 * c.traps.length

/-- The image that covers a byte of the context's space (R387). -/
def Context.imageAt (c : Context) (gva : Nat) : Option Capsule :=
  c.capsules.find? fun k => decide (k.base ≤ gva) && decide (gva < k.base + k.imageLen)

/-- STATE of a queue (R413). -/
def QState.code : QState → Nat
  | .running => 0
  | .quiesced => 1
  | .halted => 2
  | .torn => 3

/-- A queue's entry of the queue table (R413). -/
def Queue.entry (q : Queue) : List Byte :=
  leBytes 8 q.ring ++ leBytes 1 q.log2n ++ leBytes 1 (2 + (if q.prod then 1 else 0)) ++ leBytes 2 0 ++ leBytes 4 q.group
    ++ leBytes 2 q.head ++ leBytes 2 q.free ++ leBytes 2 q.tail ++ leBytes 1 q.state.code ++ leBytes 1 q.err
    ++ leBytes 2 q.errIdx ++ leBytes 6 0 ++ leBytes 4 q.xcause ++ leBytes 4 q.xpc.toNat ++ leBytes 4 q.xval.toNat
    ++ leBytes 4 0 ++ leBytes 8 q.done ++ leBytes 4 q.bodyWait ++ leBytes 4 0

/-- A byte of a context's queue table, which its node places and the device alone writes (R411, R413). -/
def State.tableByte (s : State) (ctx gva : Nat) (c : Context) : Option Byte :=
  match s.regions.find? fun r => r.kind == 2 && r.ctx == ctx && r.qtab != 0 with
  | none => none
  | some r =>
    if r.qtab ≤ gva ∧ gva < r.qtab + 4096 then
      some (match c.queues.find ((gva - r.qtab) / 64) with
        | some q => q.entry.getD ((gva - r.qtab) % 64) 0
        | none => 0)
    else none

/-- A byte of a context's global memory as committed: a capsule image, the queue table, or a mapped byte; `none` where
the page is absent. -/
def State.globalByte (s : State) (ctx gva : Nat) : Option Byte :=
  (s.ctx ctx).bind fun c =>
    match c.imageAt gva, s.tableByte ctx gva c with
    | some k, _ => some (k.image.getD (gva - k.base) 0)
    | none, some b => some b
    | none, none => (c.pa gva).map s.hbm.read

/-- The 64-byte lines of memory that a range of global addresses meets, by physical address. -/
def Context.linesOf (c : Context) (gva n : Nat) : List Nat :=
  if n = 0 then []
  else (List.range ((gva + n - 1) / 64 - gva / 64 + 1)).filterMap fun i =>
    (c.pa ((gva / 64 + i) * 64)).map (· / 64)

/-- A replicated page has another copy to be repaired from (R440). -/
def Context.repairable (c : Context) (gva : Nat) : Bool :=
  match c.walk gva with
  | .leaf l p => pteKind p != 0 && pteRmask p != 2 ^ paStack (leafPa l p gva)
  | _ => false

/-- An entry as it is written, in three copies that agree (R447). -/
def Copies.of (x : α) : Copies α where
  a := some x
  b := some x
  c := some x

/-- What a read of an entry gives: what two of its copies agree on (R447). -/
def Copies.value [DecidableEq α] (x : Copies α) : Option α :=
  if x.a.isSome && (x.a == x.b || x.a == x.c) then x.a else if x.b == x.c then x.b else none

/-- The values of a structure that holds containment state. -/
def copyValues [DecidableEq α] (xs : List (Copies α)) : List α := xs.filterMap Copies.value

/-- The poisoned words of the store of a pair's shadow core (R473). -/
def Core.twinPoison (k : Core) : List Nat := k.twin.elim [] (·.poison)

/-- A unit is poisoned (R446). -/
def State.unitPoisoned (s : State) : PoisonUnit → Bool
  | .line l => s.hbmPoison.contains l
  | .word c a =>
    let k := s.core (s.leaderOf c)
    (if s.leaderOf c = c then k.poison else k.twinPoison).contains a

/-- The die that keeps the record of a unit, and the entries that it holds (R10, R447): a base die, by stack, or a compute
die. -/
def PoisonUnit.die : PoisonUnit → Nat × Nat
  | .line l => (paStack (64 * l), 4096)
  | .word (.memory k _) _ => (k, 4096)
  | .word (.compute x y) _ => (8 + x / 16 + 2 * (y / 16), 512)
  | .word (.control n) _ => (8 + n, 512)

/-- A unit that has become poisoned is recorded (R446, R447). Records of units whose poison has been cleared are free; with
none free on the die, nothing is recorded (DESIGN CHOICE, log entry 58). -/
def State.notePoison (s : State) (u : PoisonUnit) : State :=
  let kept := s.poisonRecords.filter fun (e : Copies PoisonUnit) => e.value.elim true s.unitPoisoned
  let here := kept.filter fun (e : Copies PoisonUnit) => (e.value.map PoisonUnit.die) == some u.die
  if (copyValues kept).contains u || decide (u.die.2 ≤ here.length) then { s with poisonRecords := kept }
  else { s with poisonRecords := kept ++ [Copies.of u] }

/-- A list with a number in it. -/
def listed (xs : List Nat) (n : Nat) : List Nat := if xs.contains n then xs else n :: xs

/-- A line of memory becomes poisoned (R446), of which replicas hold what it held (R440); a context loses the entries of a table that
lies there (DESIGN CHOICE, log entry 55). -/
def State.poisonLine (s : State) (l : Nat) : State :=
  { s with
    hbmPoison := listed s.hbmPoison l
    hbmLost := if s.hbmPoison.contains l then s.hbmLost else s.hbmLost.filter (· != l)
    contexts := s.contexts.map fun (e : Nat × Context) =>
      if e.2.tables.any fun t => decide (t.2 / 64 ≤ l) && decide (l < (t.2 + Config.tableBytes) / 64) then
        (e.1, { e.2 with lost := listed e.2.lost l })
      else e }.notePoison (.line l)

/-- A word of a store becomes poisoned (R446), also of a shadow core's (R473). -/
def State.poisonWord (s : State) (c : CoreId) (a : Nat) : State :=
  (s.modCore (s.leaderOf c) fun k =>
    if s.leaderOf c = c then { k with poison := listed k.poison a }
    else { k with twin := k.twin.map fun (t : Twin) => { t with poison := listed t.poison a } }).notePoison (.word c a)

/-- Frames that firmware never allocates again (R447). -/
def State.retired (s : State) : List Nat := copyValues s.retiredFrames

/-- The bytes of a page of a level. -/
def pageBytes (level : Nat) : Nat := 2 ^ levelShift level

/-- Two ranges meet. -/
def meets (a n b m : Nat) : Bool := decide (a < b + m) && decide (b < a + n)

/-- The page that covers an address, mapped: its level, its entry and its base. -/
def Context.page (c : Context) (gva : Nat) : Option (Nat × DWord × Nat) :=
  match c.walk gva with
  | .leaf l p => some (l, p, gva / pageBytes l * pageBytes l)
  | _ => none

/-- The ranges of physical addresses in use or given up: what page tables map, read replicas that are still there,
checkpoint areas, retired frames (R447), and the memory of the page tables (R434). -/
def State.usedFrames (s : State) : List (Nat × Nat) :=
  (s.contexts.flatMap fun c => (c.2.pt.filter fun e => pteV e.2 && pteLeaf e.2).map fun e =>
    (pteAddr e.2, pageBytes e.1.1)) ++ (s.contexts.flatMap fun c => c.2.replicas.filterMap fun r =>
      match c.2.page r.1 with
      | some (l, p, _) => if pteKind p = 1 ∧ (pteRmask p).testBit r.2.1 then some (r.2.2, pageBytes l) else none
      | none => none)
    ++ (s.ckGroups.map fun g => (g.area, g.areaLen)) ++ (s.retired.map fun f => (f * 65536, 65536))
    ++ (List.range 8).map fun k => (k * 2 ^ 36 + Config.tableStart, Config.stackBytes - Config.tableStart)

/-- Memory that nothing uses (R435). -/
def State.frameFree (s : State) (pa n : Nat) : Bool := !(s.usedFrames.any fun u => meets pa n u.1 u.2)

/-- A page of a level fits a stack at an address of its alignment, on frames that nothing uses (R435, R447). -/
def State.frameOk (s : State) (level pa : Nat) : Bool :=
  let n := pageBytes level
  pa % n == 0 && paOk pa && paOk (pa + n - 1) && s.frameFree pa n

/-- A line of an address is poisoned, and no copy of it is good (R440): its page has no replica, or the line was poisoned as its
replicas were made. -/
def State.lineLost (s : State) (c : Context) (gva l : Nat) : Bool :=
  s.hbmPoison.contains l && (!c.repairable gva || s.hbmLost.contains l)

/-- A read of a range for use meets a poisoned line (R446); a line with a surviving copy is repaired first (R440). -/
def State.globalPoison (s : State) (ctx gva n : Nat) : Bool :=
  match s.ctx ctx with
  | none => false
  | some c => (List.range ((gva + n + 63) / 64 - gva / 64)).any fun i =>
      let a := max gva ((gva / 64 + i) * 64)
      (c.linesOf a 1).any (s.lineLost c a)

/-- The unit that such a read meets first: its line, by global address (R446, R475). -/
def State.poisonUnit (s : State) (ctx gva n : Nat) : Nat :=
  ((List.range ((gva + n + 63) / 64 - gva / 64)).find? fun i =>
    s.globalPoison ctx (max gva ((gva / 64 + i) * 64)) 1).elim gva fun i => (gva / 64 + i) * 64

/-- Lines of a capsule lie in poisoned memory: where, if they do (R387, R446). Those of the portable form follow the image's
header; line n of a body lies 512 n bytes into its range, which holds 8 bytes for each of the portable form (R389; DESIGN CHOICE,
log entry 28). -/
def State.codePoison (s : State) (ctx : Nat) (k : Capsule) (build line n : Nat) : Option Nat :=
  let a := if build = 0 then k.base + 256 + 64 * line else k.bodyBase + 512 * line
  let n := (if build = 0 then 64 else 512) * n
  if s.globalPoison ctx a n then some (s.poisonUnit ctx a n) else none

/-- The line that a thread set would fetch cannot be read (R446). -/
def State.fetchPoison (s : State) (w : Who) (l : ScratchLine) : Option Nat :=
  match s.gangOf w, s.capsuleOf w with
  | some g, some k => s.codePoison g.ctx k l.build l.line 1
  | _, _ => none

/-- The runs of physical addresses that a range of global addresses covers, page by page. -/
def Context.runs (c : Context) (gva n : Nat) : List (Nat × Nat) :=
  if n = 0 then []
  else (List.range ((gva + n - 1) / 2 ^ 16 - gva / 2 ^ 16 + 1)).filterMap fun i =>
    let p := (gva / 2 ^ 16 + i) * 2 ^ 16
    let lo := max gva p
    (c.pa lo).map fun a => (a, min (gva + n) (p + 2 ^ 16) - lo)

/-- The physical addresses of an entry's bytes; while it holds its line locked, of all of the line (R151). -/
def State.entryBytes (s : State) (e : CommitEntry) : List Nat :=
  match (s.ctx e.ctx).bind fun x => x.pa e.line with
  | some p => if e.locked then (List.range 64).map (p + ·) else e.mask.map fun a => p + (a - e.line)
  | none => []

/-- A byte of memory is covered by a commit-buffer entry whose barrier has completed and that has not drained (R143). -/
def State.undrained (s : State) (ctx gva n : Nat) : Bool :=
  match s.ctx ctx with
  | none => false
  | some c =>
    let rs := c.runs gva n
    s.memory.any fun m => m.2.commit.any fun e =>
      e.draining && (s.entryBytes e).any fun b => rs.any fun r => decide (r.1 ≤ b) && decide (b < r.1 + r.2)

/-- A byte that an access has still to read, of those it covers, has yet to drain (R143). -/
def State.awaitsDrain (s : State) (ctx gva : Nat) (own : List (Option Byte)) : Bool :=
  s.undrained ctx gva own.length
    && own.zipIdx.any fun e => e.1.isNone && s.undrained ctx (gva + e.2) 1

/-- What a task's own buffered stores of a superstep give for each byte of a range (R142). -/
def Core.ownBytes (k : Core) (gang slot : Nat) (step : Word) (gva n : Nat) : List (Option Byte) :=
  let es := k.commit.filter fun e => e.gang == gang && e.slot == slot && e.step == step && !e.draining
    && (match e.kind with
      | .atom _ _ _ => false
      | _ => true)
  (List.range n).map fun i =>
    es.foldl (fun acc e => if e.mask.contains (gva + i) then some (e.bytes.read (gva + i)) else acc) none

/-- The bytes an access brings: the task's own stores first, then committed memory (R142). -/
def State.globalRead (s : State) (ctx gva : Nat) (own : List (Option Byte)) : List Byte :=
  own.zipIdx.map fun e =>
    match e.1 with
    | some b => b
    | none => (s.globalByte ctx (gva + e.2)).getD 0

/-- Write bytes to mapped memory; a line written whole loses its poison (R446). -/
def State.globalWrite (s : State) (ctx gva : Nat) (bs : List Byte) : State :=
  match s.ctx ctx with
  | none => s
  | some c =>
    let m := bs.zipIdx.foldl (fun m e =>
      match c.pa (gva + e.2) with
      | some pa => m.write pa e.1
      | none => m) s.hbm
    let whole := (c.linesOf gva bs.length).zipIdx.filter fun l =>
      let lo := (gva / 64 + l.2) * 64
      decide (gva ≤ lo) && decide (lo + 64 ≤ gva + bs.length)
    { s with hbm := m, hbmPoison := s.hbmPoison.filter fun l => !(whole.any fun w => w.1 == l) }

/-- A leaf of a context's page table is rewritten. -/
def Context.setPte (c : Context) (level gva : Nat) (p : DWord) : Context :=
  let k := (level, gva / 2 ^ levelShift level)
  { c with pt := (c.pt.filter fun e => e.1 != k) ++ (if p = 0 then [] else [(k, p)]) }

/-- A leaf with another KIND and RMASK. -/
def pteWith (p : DWord) (kind rmask : Nat) : DWord :=
  (p &&& 0xFF00FFFFFFFFFFF3#64) ||| BitVec.ofNat 64 (rmask % 256 * 2 ^ 48 + kind % 4 * 4)

/-- The lines of a page whose home copy has failed are rewritten from a replica while one survives (R440). -/
def State.repairPage (s : State) (ctx gva : Nat) : State :=
  match (s.ctx ctx).bind fun c => if c.repairable gva then c.page gva else none with
  | some (l, p, _) =>
    { s with hbmPoison := s.hbmPoison.filter fun x =>
        s.hbmLost.contains x || !meets (64 * x) 64 (pteAddr p) (pageBytes l) }
  | none => s

/-- Replicas are made of a range of memory as it stands: a line that is poisoned then has no good copy (R440). -/
def State.loseLines (s : State) (pa n : Nat) : State :=
  { s with hbmLost := (s.hbmPoison.filter fun x => meets (64 * x) 64 pa n).foldl listed s.hbmLost }

/-- New replicas of a page are made, once what the replicas that it has still hold is put right (R440). -/
def State.copyPage (s : State) (ctx gva : Nat) : State :=
  let s := s.repairPage ctx gva
  match (s.ctx ctx).bind fun c => c.page gva with
  | some (l, p, _) => s.loseLines (pteAddr p) (pageBytes l)
  | none => s

/-- A store to a read-replicated page collapses it to its home copy, whose bit alone stays in RMASK (R150, R439); what the
replicas alone still hold is put right first (R440). -/
def State.collapse (s : State) (ctx gva : Nat) : State :=
  match (s.ctx ctx).bind fun c => c.page gva with
  | some (l, p, _) =>
    if pteKind p = 1 then (s.repairPage ctx gva).modCtx ctx fun c => c.setPte l gva (pteWith p 0 (2 ^ paStack (pteAddr p)))
    else s
  | none => s

/-- The smallest pages that a range touches, by their lowest byte in it. -/
def pageStarts (gva n : Nat) : List Nat :=
  (List.range ((gva + n - 1) / 2 ^ 16 - gva / 2 ^ 16 + 1)).map fun i =>
    if i = 0 then gva else (gva / 2 ^ 16 + i) * 2 ^ 16

/-- Bytes are stored to global memory by an engine: read-replicated pages collapse (R439). -/
def State.engineWrite (s : State) (ctx gva : Nat) (bs : List Byte) : State :=
  ((pageStarts gva bs.length).foldl (fun s a => s.collapse ctx a) s).globalWrite ctx gva bs

/-- A range of global memory lies on a page that migrates (R442). -/
def Context.migrating (c : Context) (gva : Nat) : Bool :=
  match c.walk gva with
  | .leaf _ p => pteMig p
  | _ => false

/-- A write of an engine to a range can be performed now: no page of it is away or migrates, no byte of it has still to
drain (R143, R438, R442). -/
def State.engineReady (s : State) (ctx gva n : Nat) : Bool :=
  match s.ctx ctx with
  | none => true
  | some c =>
    !s.undrained ctx gva n && (pageStarts gva n).all fun a =>
      match c.walk a with
      | .absent => false
      | .broken => true
      | .leaf _ p => !pteMig p

/-- A line whose home copy has failed while a replica survives is rewritten from it before a load is served (R440). -/
def State.repair (s : State) (ctx gva n : Nat) : State :=
  match s.ctx ctx with
  | none => s
  | some c =>
    let fixed := (pageStarts gva n).filter c.repairable
    let lines := (fixed.flatMap fun a => c.linesOf a (min (gva + n) ((a / 2 ^ 16 + 1) * 2 ^ 16) - a)).filter fun l =>
      !s.hbmLost.contains l
    if lines.isEmpty then s else { s with hbmPoison := s.hbmPoison.filter fun l => !lines.contains l }

end GlobalMemory

section Access

/-- One past the last byte an instruction of a core reaches (R240). -/
def storeTop : CoreId → Nat
  | .memory _ _ => Config.stagingTop
  | _ => Config.lsTop

/-- The effective address (R240). -/
def ea (base : DWord) (imm : Imm) (off : Int) : Int := (base.toNat : Int) + imm.toInt + off

def minOpt (a b : Option Int) : Option Int :=
  match a, b with
  | some x, some y => some (min x y)
  | some x, none => some x
  | none, y => y

/-- The lowest offending address of a check over ranges (lowest byte, length at least 1). -/
def lowest (bad : Int → Int → Option Int) (ranges : List (Int × Nat)) : Option Int :=
  ranges.foldl (fun acc r => if r.2 = 0 then acc else minOpt acc (bad r.1 (r.1 + r.2 - 1))) none

/-- The lowest byte of lo..hi outside base..limit - 1. -/
def outside (base limit : Int) (lo hi : Int) : Option Int :=
  if lo < base then some lo else if limit ≤ hi then some (max lo limit) else none

/-- The lowest byte of lo..hi in a landing window that is not readable (R54). -/
def inWindow (ws : List Window) (lo hi : Int) : Option Int :=
  ws.foldl (fun acc w =>
    if w.state ≠ .readable ∧ lo < w.base + w.len ∧ w.base ≤ hi then minOpt acc (some (max lo w.base)) else acc) none

def protAt (a : Int) : Stop := .trap .prot (BitVec.ofInt 32 a)

/-- access of R240 over every range of an instruction. -/
def State.access (s : State) (w : Who) (ranges : List (Int × Nat)) : Except Stop Unit :=
  let t := s.ts w
  match lowest (outside 0 (storeTop w.core)) ranges with
  | some a => .error (protAt a)
  | none =>
    match lowest (outside t.pwbase.toNat t.pwlim.toNat) ranges with
    | some a => .error (protAt a)
    | none =>
      match lowest (inWindow (s.core w.core).shared.windows) ranges with
      | some a => .error (protAt a)
      | none => .ok ()

/-- The alignment check of R241. -/
def aligned (n : Nat) (addrs : List Int) : Except Stop Unit :=
  match addrs.foldl (fun acc (a : Int) => if a % (n : Int) = 0 then acc else minOpt acc (some a)) none with
  | some a => .error (protAt a)
  | none => .ok ()

/-- An armed injection of transient read poison that this range meets (R452, kind 1). -/
def Gang.readInject (g : Gang) (s : State) (c : CoreId) (a n : Nat) : Option Nat :=
  g.injects.findIdx? fun i =>
    i.kind == 1 && decide (0 < i.left) && i.step == g.sstep && decide (a < i.addr / 8 * 8 + 8)
      && decide (i.addr / 8 * 8 < a + n)
      && (match c with
        | .compute x y => i.tgt == 0 && (s.core (.compute x y)).gpos.toNat == i.row * 256 + i.col
        | .memory st ch => i.tgt == 1 && st == i.col && ch == i.row
        | .control _ => false)

/-- The word that an injection names (R452). -/
def Gang.injectWord (g : Gang) (i : Nat) : Nat := (g.injects.map (·.addr)).getD i 0 / 8 * 8

/-- Poisoned words that a range meets (R446). -/
def wordsHit (ps : List Nat) (a n : Nat) : List Nat := ps.filter fun p => decide (a < p + 8) && decide (p < a + n)

/-- A range of a store meets poison (R446). -/
def Core.poisoned (k : Core) (a n : Nat) : Bool := !(wordsHit k.poison a n).isEmpty

/-- What the shadow core of a pair holds in a range of its store (R473). -/
def Core.twinBytes (k : Core) (a n : Nat) : List Byte :=
  (List.range n).map fun i => (k.twin.bind fun t => t.bytes.find (a + i)).getD (k.store.read (a + i))

/-- Bytes of a store that are read for use: poison is consumed (R446), the lowest word of it. -/
def State.readBytes (s : State) (w : Who) (a n : Nat) : Except Stop (List Byte) :=
  let k := s.core w.core
  if k.poisoned a n then .error (.check .poison none ((wordsHit k.poison a n).foldl min (a + n)))
  else
    match (s.gangOf w).bind fun g => (g.readInject s w.core a n).map fun i => (i, g.injectWord i) with
    | some (i, p) => .error (.check .poison (some i) p)
    | none => .ok (k.store.readN a n)

/-- The same on both cores of a lockstep pair: poison in the shadow's store is consumed as well (R473). -/
def State.bankBytes (s : State) (w : Who) (a n : Nat) : Except Stop (List Byte) :=
  match s.readBytes w a n with
  | .error e => .error e
  | .ok bs =>
    match wordsHit (s.core w.core).twinPoison a n with
    | [] => .ok bs
    | ps => .error (.check .poison none (ps.foldl min (a + n)))

/-- Bytes that an instruction brings into a register or a packet: the cores of a pair are compared where it retires, or where the
packet would leave (R473). -/
def State.loadBytes (s : State) (w : Who) (a n : Nat) : Except Stop (List Byte) :=
  match s.bankBytes w a n with
  | .error e => .error e
  | .ok bs =>
    if (s.core w.core).twin.any fun t => t.bytes.any fun e => decide (a ≤ e.1) && decide (e.1 < a + n) then
      .error (.check .lockstep none 0)
    else .ok bs

/-- The bank of an 8-byte word (R45). -/
def bankOf (word : Nat) : Nat := (word % 32) ^^^ (word / 32 % 32)

/-- The cycles that a core-port access takes (R46): the largest number of distinct words that it touches in one bank, and
never fewer than one. -/
def bankCycles (ranges : List (Int × Nat)) : Nat :=
  let words := (ranges.flatMap fun r =>
    if r.2 = 0 then []
    else (List.range ((r.1.toNat + r.2 - 1) / 8 - r.1.toNat / 8 + 1)).map (r.1.toNat / 8 + ·)).eraseDups
  (List.range 32).foldl (fun m b => max m (words.filter fun w => bankOf w == b).length) 1

/-- A thread set waits for some cycles of an event (R231, R364). -/
def ThreadSet.delay (t : ThreadSet) (evt n : Nat) : ThreadSet := { t with bubbles := t.bubbles ++ List.replicate n evt }

/-- The 256-byte blocks a range touches (R444). -/
def blocksOf (a n : Nat) : List Nat :=
  if n = 0 then [] else (List.range ((a + n - 1) / 256 - a / 256 + 1)).map (a / 256 + ·)

def blockBits (m : Mem) (b : Nat) : BitVec 2048 := BitVec.ofNat 2048 (leNat (m.readN (b * 256) 256))

/-- The plate takes the first write of each block after a release (R444): the core with its plate, and whether the
plate was full. On a memory core a block is kept for the task that wrote it. -/
def Core.plateFor (k : Core) (limit : Nat) (slot : Nat) (mates : List Nat) (blocks : List Nat) : Core × Bool :=
  blocks.foldl (fun acc b =>
    let c := acc.1
    if mates.any fun m => (c.plate.find (m * 4096 + b)).isSome then acc
    else if limit ≤ c.plate.length then (c, true)
    else ({ c with plate := c.plate.put (slot * 4096 + b) (blockBits c.store b) }, acc.2)) (k, false)

/-- A write reaches a word that a WAIT watches (R353): the wait has been met. -/
def ThreadSet.watch (t : ThreadSet) (m : Mem) (a n : Nat) : ThreadSet :=
  match t.run with
  | .atWait f =>
    if a < f.addr + 8 ∧ f.addr < a + n ∧ BitVec.ofNat 64 (leNat (m.readN f.addr 8)) ≠ f.cmp then
      { t with run := .atWait { f with hit := true } }
    else t
  | _ => t

/-- Words that a write covers whole lose their poison (R446). -/
def clearPoison (ps : List Nat) (a n : Nat) : List Nat := ps.filter fun p => !(decide (a ≤ p) && decide (p + 8 ≤ a + n))

/-- Both cores of a pair write the same bytes: there they differ no longer (R473). -/
def Twin.wrote (t : Twin) (a n : Nat) : Twin :=
  { t with
    bytes := t.bytes.filter fun e => !(decide (a ≤ e.1) && decide (e.1 < a + n))
    poison := clearPoison t.poison a n }

/-- The bytes of a store change. -/
def Core.putBytes (k : Core) (a : Nat) (bs : List Byte) : Core :=
  let m := k.store.writeN a bs
  { k with
    store := m
    poison := clearPoison k.poison a bs.length
    twin := k.twin.map fun t => t.wrote a bs.length
    ts := k.ts.map fun t => t.watch m a bs.length }

/-- A place of two stores where they differ, and what the second one holds there. -/
def Mem.differ (m n : Mem) : Table Byte :=
  (m ++ n).foldl (fun t e => if m.read e.1 = n.read e.1 then t else t.put e.1 (n.read e.1)) []

/-- The shadow core of a pair holds these bytes, whatever its leader holds (R473). -/
def Core.putTwin (k : Core) (a : Nat) (bs : List Byte) : Core :=
  { k with twin := k.twin.map fun (t : Twin) => { t with bytes := bs.zipIdx.foldl (fun t e =>
      if k.store.read (a + e.2) = e.1 then t.drop (a + e.2) else t.put (a + e.2) e.1) t.bytes } }

/-- The store of a pair's shadow core (R473). -/
def Core.twinStore (k : Core) : Mem := (k.twin.elim [] (·.bytes)).foldl (fun m e => m.write e.1 e.2) k.store

/-- The task slots of a gang on a memory core, those of tasks that have retired in this superstep among them (R42, R444); slot 0
stands for a compute core. -/
def Gang.mates (g : Gang) : CoreId → List Nat
  | .memory st ch => (g.shadowTasks.filter fun t => t.1 == st && t.2.1 == ch).map (·.2.2)
  | _ => [0]

/-- A write to a core's own store by one of its thread sets or by its engines: plating (R444), the 769th or 257th block
(R445), poison, waits. -/
def State.storeBytes (s : State) (w : Who) (a : Nat) (bs : List Byte) : State :=
  let k := s.core w.core
  match s.gangId w with
  | some g =>
    match s.gang g with
    | some gg =>
      if gg.noplate then s.setCore w.core (k.putBytes a bs)
      else
        let slot := if w.core.isMemory then w.t.val else 0
        let limit := if w.core.isMemory then Config.stagingPlateBlocks else Config.plateBlocks
        let r := k.plateFor limit slot (gg.mates w.core) (blocksOf a bs.length)
        let s := s.setCore w.core (r.1.putBytes a bs)
        if r.2 && !gg.nonroll then
          { s.modGang g fun x => { x with nonroll := true } with
            devCounters := { s.devCounters with nonroll := sat64 s.devCounters.nonroll } }
        else s
    | none => s.setCore w.core (k.putBytes a bs)
  | none => s.setCore w.core (k.putBytes a bs)

/-- A gang's superstep becomes non-rollbackable; the device counts the first time (R445, R476). -/
def State.makeNonroll (s : State) (g : Nat) : State :=
  match s.gang g with
  | some x =>
    if x.nonroll then s
    else { s.modGang g fun x => { x with nonroll := true } with
      devCounters := { s.devCounters with nonroll := sat64 s.devCounters.nonroll } }
  | none => s

end Access

section Routers

/-- The attachment core of a memory core (R491). -/
def attachment (stack chan : Nat) : Nat × Nat :=
  let d := stack / 2
  (16 * (d % 2) + 15 * (stack % 2), 16 * (d / 2) + chan / 2)

/-- The routers that a push passes on its way to a core, each with the port it leaves by (log entry 21: along the row,
then along the column): 0 to the core, 1 east, 2 west, 3 south, 4 north. -/
def pushRoute (stack chan x y : Nat) : List (Nat × Nat × Nat) :=
  let a := attachment stack chan
  let along := (List.range (max a.1 x - min a.1 x)).map fun i =>
    if a.1 ≤ x then (a.1 + i, a.2, 1) else (a.1 - i, a.2, 2)
  let down := (List.range (max a.2 y - min a.2 y)).map fun i =>
    if a.2 ≤ y then (x, a.2 + i, 3) else (x, a.2 - i, 4)
  along ++ down ++ [(x, y, 0)]

/-- The port bits that the other subscriptions of a tag still need (log entry 21). -/
def State.portsNeeded (s : State) (tag x y : Nat) : List (Nat × Nat × Nat) :=
  s.compute.flatMap fun e =>
    let cx := e.1 % 32
    let cy := e.1 / 32
    if cx = x ∧ cy = y then []
    else (e.2.shared.subs.filter fun u => u.tag == tag && !u.leaving).flatMap fun u => pushRoute u.stack u.chan cx cy

/-- A leave clears the port bits that only its subscription used. -/
def State.leaveRouters (s : State) (tag x y : Nat) (path : List (Nat × Nat × Nat)) : List RouterTag :=
  let keep := s.portsNeeded tag x y
  (s.routers.map fun t =>
    if t.tag = tag then
      { t with ports := t.ports.filter fun p => !(path.contains (t.x, t.y, p)) || keep.contains (t.x, t.y, p) }
    else t).filter fun t => !t.ports.isEmpty

/-- The subscriptions of a core close with its gang (R41, R170, R425), and with each the port bits that it alone used; a
rollback (R56) leaves the bits of the routers as they are (DESIGN CHOICE, log entry 21). -/
def State.closeSubs (s : State) (c : CoreId) : State :=
  match c with
  | .compute x y =>
    (s.core c).shared.subs.foldl (fun s u =>
      { s with routers := s.leaveRouters u.tag x y (pushRoute u.stack u.chan x y).reverse })
      (s.modShared c fun q => { q with subs := [] })
  | _ => s

end Routers

section Ending

/-- The slots free from the front: the oldest slot not done, or held, stays (R415). -/
def freeSlots : List Slot → List Slot
  | [] => []
  | x :: r => if x.done && !x.hold then freeSlots r else x :: r

/-- A dispatched record completes (R413, R415). The iteration counts of records whose slots are free go with them (R420). -/
def Queue.complete (q : Queue) (idx : Nat) : Queue :=
  let slots := freeSlots (q.slots.map fun x => if x.idx = idx ∧ ¬ x.done then { x with done := true } else x)
  let free := match slots with
    | [] => q.head
    | x :: _ => x.idx
  let n := 2 ^ q.log2n
  { q with
    slots := slots
    done := q.done + 1
    free := free
    iters := q.iters.filter fun e => decide ((e.1 + n - free) % n < (q.tail + n - free) % n) }

/-- A record completes with an error and halts the queue (R492). -/
def Queue.fail (q : Queue) (idx err : Nat) : Queue :=
  { q.complete idx with err := err, errIdx := idx, state := if q.state = .torn then .torn else .halted }

/-- The longest run of finished numbers above a timeline (R157, R463). -/
def climb : Nat → Nat → List Nat → Nat
  | 0, v, _ => v
  | n + 1, v, done => if done.contains (v + 1) then climb n (v + 1) done else v

/-- A completion counter of a context counts one more message or failure (R462, R463). -/
def State.bumpCounter (s : State) (ctx n : Nat) (ok : Bool) (lasterr : Nat) : State :=
  match s.ctx ctx with
  | none => s
  | some c =>
    let a := c.counters + 16 * (n % 65536)
    let old := (List.range 16).map fun i => (s.globalByte ctx (a + i)).getD 0
    let succ := fieldAt old 0 8
    let fail := fieldAt old 8 4
    let new := if ok then leBytes 8 (succ + 1) ++ old.drop 8
      else old.take 8 ++ leBytes 4 (min (fail + 1) 0xFFFFFFFF) ++ leBytes 1 lasterr ++ old.drop 13
    s.engineWrite ctx a new

/-- An overlay's number is reached once every earlier one of its core is (R157). -/
def Core.settleOverlay (k : Core) (n : Nat) : Core :=
  let done := k.overlayDone ++ [n]
  let v := climb done.length k.overlayTl done
  { k with overlayTl := v, overlayDone := done.filter (v < ·) }

/-- The overlay loads of a gang that ends are dropped; on the cores they were for they count as finished (R157, R333). -/
def State.dropOverlays (s : State) (gid : Nat) : State :=
  let mine := s.overlays.filter fun o => o.gang == gid
  mine.foldl (fun s o => if o.finished then s else s.modCore (.compute o.x o.y) fun k => k.settleOverlay o.number)
    { s with overlays := s.overlays.filter fun o => o.gang != gid }

/-- The posts of a context that have finished move its network timeline (R463). -/
def Context.finishPost (c : Context) (n : Nat) : Context :=
  let done := c.netDone ++ [n]
  let v := climb done.length c.netTl done
  let posts := c.posts.map fun (p : Post) =>
    if p.number = n then { p with ended := true, released := true, read := true, src := [] } else p
  { c with posts := posts.filter (fun p => decide (v < p.number)), netTl := v, netDone := done.filter (v < ·) }

/-- The counter of a context can count now (R462). -/
def State.counterReady (s : State) (ctx n : Nat) : Bool :=
  (s.ctx ctx).elim true fun c => s.engineReady ctx (c.counters + 16 * (n % 65536)) 16

/-- What the engine meets where it reads a counter to count it: a walk error or poison, with the address (R438, R446, R448). -/
def State.counterError (s : State) (ctx n : Nat) : Option (Nat × Nat) :=
  match s.ctx ctx with
  | none => none
  | some c =>
    let a := c.counters + 16 * (n % 65536)
    match (pageStarts a 16).find? fun p => c.walk p == .broken with
    | some p => some (6, p)
    | none => if s.globalPoison ctx a 16 then some (5, s.poisonUnit ctx a 16) else none

/-- A post's completion: its counter counts, then the timeline moves (R463); it waits while the counter cannot. Where the engine
meets an error there, the counter does not count, and the fault domain of the post's queue is torn down (R448). -/
def State.finish (s : State) (ctx number counter : Nat) (ok : Bool) (lasterr : Nat) : State :=
  if s.counterReady ctx counter then
    match s.counterError ctx counter with
    | some (src, a) =>
      let q := ((s.ctx ctx).bind fun c => c.posts.find? fun p => p.number == number).elim 0 (·.q)
      { s with deferred := s.deferred ++ [Deferred.tear ctx q src a] }.modCtx ctx fun c => c.finishPost number
    | none => (s.bumpCounter ctx counter ok lasterr).modCtx ctx fun c => c.finishPost number
  else { s with deferred := s.deferred ++ [Deferred.finish ctx number counter ok lasterr] }.modCtx ctx fun c =>
    { c with posts := c.posts.map fun (p : Post) =>
        if p.number = number then { p with ended := true, released := true, read := true, src := [] } else p }

/-- A post completes locally (R463). -/
def State.endPost (s : State) (ctx : Nat) (p : Post) (ok : Bool) (lasterr : Nat) : State :=
  s.finish ctx p.number p.ccnt ok lasterr

/-- The posts of a gang that no barrier has released are discarded (R335). -/
def State.discardPosts (s : State) (ctx g : Nat) : State :=
  match s.ctx ctx with
  | none => s
  | some c => (c.posts.filter fun p => p.gang == g && !p.released && !p.ended).foldl (fun s p => s.endPost ctx p false 6) s

/-- A core leaves its gang: thread sets idle, windows and subscriptions closed (R41, R425). -/
def Core.vacate (k : Core) (ctx : Nat) : Core :=
  { k with
    gang := none
    lastCtx := some ctx
    ts := k.ts.map fun t => { t with run := .idle, traps := [], answers := [], sends := [] }
    shared := { k.shared with windows := [], subs := [], joint := [] }
    plate := []
    early := []
    twin := none
    arrived := false, pairHold := false
    counters := Vector.replicate 4 (Vector.replicate 16 0)
    freeze := Vector.replicate 4 false }

/-- The cores of a gang become free. The shadow core of a lockstep pair (R472) has run what its leader ran: its scratchpad is
left as its leader's is, and its store is its own (R473). -/
def State.leaveCores (s : State) (g : Gang) (gid : Nat) : State :=
  g.rect.foldl (fun s c =>
    if (s.core c).gang ≠ some gid then s
    else
      let s := s.closeSubs c
      let k := s.core c
      let s := s.setCore c (k.vacate g.ctx)
      if g.lock then s.modCore c.east fun o =>
        { o with lastCtx := some g.ctx, store := k.twinStore, poison := k.twinPoison, scratch := k.scratch }
      else s) s

/-- The thread set of a memory core on which a task runs. -/
def Core.setOf (k : Core) (slot : Nat) : Option Nat :=
  if k.running.toList.getD 0 none = some slot then some 0
  else if k.running.toList.getD 1 none = some slot then some 1
  else none

/-- The task of a slot leaves its thread set, and with it the turn that the set keeps for the upper slot of a pair of it (R19). -/
def Core.endPair (k : Core) (slot : Nat) : Core :=
  { k with pairHold := k.pairHold && k.setOf slot != some k.sched }

/-- A task slot is freed (R137, R432). -/
def Core.freeTask (k : Core) (slot : Nat) : Core :=
  { k.endPair slot with
    tasks := k.tasks.set! slot { }
    ts := k.ts.set! slot { }
    running := k.running.map fun r => if r = some slot then none else r
    plate := k.plate.filter fun e => e.1 / 4096 != slot }

/-- The commit-buffer entries of a gang that no barrier has committed are discarded (R425, R450). -/
def State.dropCommits (s : State) (gid : Nat) : State :=
  { s with memory := s.memory.map fun (e : Nat × Core) =>
      (e.1, { e.2 with commit := e.2.commit.filter fun x => x.gang != gid || x.draining }) }

/-- The packets and pushes of a gang leave the mesh (R449). -/
def State.dropPackets (s : State) (g : Nat) : State :=
  { s with
    packets := s.packets.filter fun p => p.sender.gang != g
    refusals := s.refusals.filter fun p => p.sender.gang != g
    scores := s.scores.filter fun p => p.sender.gang != g
    joins := s.joins.filter fun p => p.sender.gang != g }

/-- What the staging plates keep for task slots is no longer needed (R444). -/
def State.dropPlates (s : State) (ts : List (Nat × Nat × Nat)) : State :=
  ts.foldl (fun s t => s.modCore (.memory t.1 t.2.1) fun k =>
    { k with plate := k.plate.filter fun e => e.1 / 4096 != t.2.2 }) s

/-- The tasks of a gang are killed: their slots are free, and those of tasks that have retired in the superstep may be let again. -/
def State.killTasks (s : State) (g : Gang) : State :=
  (g.tasks.foldl (fun s t => s.modCore (.memory t.1 t.2.1) fun k => k.freeTask t.2.2) s).dropPlates g.shadowTasks

/-- A gang's cores and task slots become free; what it has not committed is discarded (R425, R450, R451). -/
def State.releaseGang (s : State) (g : Gang) (gid : Nat) : State :=
  let s := (s.leaveCores g gid).killTasks g
  let s := (s.dropCommits gid).dropPackets gid
  let s := { s with
    qposts := s.qposts.filter fun p => p.gang != gid
    overlays := s.overlays.filter fun o => o.gang != gid
    gangs := s.gangs.drop gid }
  s.discardPosts g.ctx gid

/-- A rival becomes faulted: its cores stop, its tasks are killed, the cause is recorded (R168). -/
def State.faultRival (s : State) (g : Gang) (gid : Nat) (cause : Cause) (xpc xval : Word) (mark : Bool) : State :=
  let s := g.rect.foldl (fun s c => s.modCore c fun k =>
    { k with ts := k.ts.map fun t => { t with run := .idle, traps := [], answers := [] } }) s
  let s := ((s.killTasks g).dropCommits gid).dropPackets gid
  let s := { s with qposts := s.qposts.filter fun p => p.gang != gid }
  let s := s.discardPosts g.ctx gid
  s.modGang gid fun x => { x with
    rival := .faulted, fault := some (cause, xpc, xval, mark), tasks := [], shadowTasks := [], toks := [], rels := []
    err := none, lost := false }

/-- Tournaments that have ended go, and with each its node of the region tree (R412). -/
def State.keepTours (s : State) (keep : Nat → Tour → Bool) : State :=
  { s with
    tours := s.tours.filter fun t => keep t.1 t.2
    regions := s.regions.filter fun r => r.tour.elim true fun i => (s.tours.find i).any (keep i) }

/-- A launch record's run ends in failure: its gangs (every rival of a tournament) are released, the record completes
with ERR and the fault recorded, the queue halts (R425, R430, R492). The mark of a failed handler entry (R342) is kept in the
queue, and no byte of the queue table shows it (DESIGN CHOICE, log entry 73). -/
def State.killRecord (s : State) (ctx q idx err cause : Nat) (xpc xval : Word) (mark : Bool) : State :=
  let gs := s.gangs.filter fun e => e.2.ctx == ctx && e.2.q == q && e.2.idx == idx
  let s := gs.foldl (fun s e => s.releaseGang e.2 e.1) s
  let s := s.keepTours fun _ t => !(t.ctx == ctx && t.q == q && t.idx == idx)
  s.modQueue ctx q fun x =>
    { x.fail idx err with xcause := cause, xpc := xpc, xval := xval, handlerFail := mark }

/-- A gang ends in failure, with the record that launched it. -/
def State.endGang (s : State) (gid err : Nat) (cause : Nat) (xpc xval : Word) (mark : Bool) : State :=
  match s.gang gid with
  | none => s
  | some g => s.killRecord g.ctx g.q g.idx err cause xpc xval mark

/-- A program fault (R342, R425): it kills the gang, or makes the rival faulted; a tournament's survivor runs on as an
ordinary gang. -/
def State.programFault (s : State) (gid : Nat) (cause : Cause) (xpc xval : Word) (mark : Bool) : State :=
  match s.gang gid with
  | none => s
  | some g =>
    if g.rival = .ordinary then s.endGang gid 1 cause.code xpc xval mark
    else s.faultRival g gid cause xpc xval mark

end Ending

section Tasks

/-- The ready task that has waited longest (R137, R239); of tasks that became ready in one cycle, that of the lowest slot
(DESIGN CHOICE, log entry 69). -/
def Core.oldestReady (k : Core) : Option Nat :=
  (List.range 16).foldl (fun best i =>
    let x := k.tasks.toList.getD i { }
    if x.state = .ready then
      match best with
      | some j => if x.since < (k.tasks.toList.getD j { }).since then some i else best
      | none => some i
    else best) none

/-- A context that is restored enters the line of its position again (R194). -/
def ThreadSet.reenter (t : ThreadSet) : ThreadSet := { t with enter := true }

/-- A thread set of a memory core takes a task, whose frame is loaded (R137, R194); a turn that the set kept for the task before is
over (R19). -/
def Core.giveSet (k : Core) (set slot : Nat) : Core :=
  let x := k.tasks.toList.getD slot { }
  { k with
    running := k.running.set! set (some slot)
    tasks := k.tasks.set! slot { x with state := .running, set := set }
    ts := k.ts.set! slot (k.ts.toList.getD slot { }).reenter
    pairHold := k.pairHold && k.sched != set }

/-- A task leaves its thread set for the oldest ready task and enters a state; with none ready, `stay` says whether it
keeps the thread set (R137). -/
def Core.passSet (k : Core) (slot : Nat) (st stay : TaskState) (keep : Bool) : Core :=
  let x := k.tasks.toList.getD slot { }
  let k := k.endPair slot
  match k.oldestReady, k.setOf slot with
  | some n, some set => { k with tasks := k.tasks.set! slot { x with state := st } }.giveSet set n
  | _, set =>
    { k with
      tasks := k.tasks.set! slot { x with state := stay }
      running := match set, keep with
        | some i, false => k.running.set! i none
        | _, _ => k.running }

/-- A thread set or task begins to wait at BAR, TLWAIT or WAIT (R18, R137). -/
def State.beginWait (s : State) (w : Who) (r : RunState) : State :=
  let s := s.modTs w fun t => { t with run := r }
  if w.core.isMemory then s.modCore w.core fun k => k.passSet w.t.val .waiting .bound true else s

/-- A task that finds pages absent saves its context and parks (R137, R323). -/
def State.parkTask (s : State) (w : Who) (pages : List Nat) : State :=
  let s := s.modTs w fun t => { t with run := .parked }
  s.modCore w.core fun k =>
    let k := k.passSet w.t.val .parked .parked false
    { k with tasks := k.tasks.set w.t { k.tasks[w.t] with faultPages := pages } }

end Tasks

section Traps

/-- The WHERE field that an error report gives a core (R475). -/
def coreWhere : CoreId → Nat
  | .compute x y => x + 256 * y
  | .memory k c => k + 256 * c + 0x8000
  | .control _ => 0xFFFF

/-- An injected error has fired once more (R452). -/
def Gang.fired (g : Gang) (i : Nat) : Gang :=
  { g with injects := g.injects.modify i fun j => { j with left := j.left - 1 } }

/-- A line has failed its parity before in this superstep (R183). -/
def State.badBefore (s : State) (w : Who) (line : Nat) : Bool :=
  (s.gangOf w).any fun g => g.badLines.contains (w.core, line)

/-- An error at a core is consumed by a thread set's gang (R448): it waits for the containment ladder. A line whose parity fails
is fetched once more before that, unless it has failed before in the superstep; it counts as one that has (R183). -/
def State.consumeAt (s : State) (w : Who) (c : CoreId) (src : ErrSrc) (inject : Option Nat) (addr : Nat) : State :=
  match s.gangId w with
  | none => s
  | some g =>
    let before := s.badBefore w (addr / 64)
    let s := s.modGang g fun x => { inject.elim x x.fired with
      err := some src
      errWhere := coreWhere c
      errAddr := addr }
    match src with
    | .poison => { s with devCounters := { s.devCounters with poisoncons := sat64 s.devCounters.poisoncons } }
    | .lockstep => { s with devCounters := { s.devCounters with lockmiss := sat64 s.devCounters.lockmiss } }
    | .parity =>
      let s := s.modGang g fun x => { x with badLines := (w.core, addr / 64) :: x.badLines }
      if before then s else { s with devCounters := { s.devCounters with l1retry := sat64 s.devCounters.l1retry } }
    | _ => s

/-- The core of a pair whose store holds the poison that a read of a range meets (R473). -/
def Core.hitAt (k : Core) (c : CoreId) (a n : Nat) : CoreId :=
  if k.poisoned a n || (wordsHit k.twinPoison a n).isEmpty then c else c.east

/-- An error of a thread set is consumed by its gang; poison lies at its address in the store of its core, or of that core's
shadow. -/
def State.consume (s : State) (w : Who) (src : ErrSrc) (inject : Option Nat) (addr : Nat) : State :=
  s.consumeAt w (if src = .poison ∧ inject = none then (s.core w.core).hitAt w.core addr 1 else w.core) src inject addr

/-- Trap entry (R342), as one step: the exception registers, the nested-trap fault, the handler, the checks of its
line, its parity first (R193). `xrpc` is where XRET resumes (R341). A thread set without a gang, such as a control core's, retires
where a gang would end (DESIGN CHOICE, log entry 73). -/
def State.takeTrap (s : State) (w : Who) (cause : Cause) (xpc xval xrpc : Word) : State :=
  let t := s.ts w
  let s1 := s.setTs w { t with
    run := .ready, xcause := BitVec.ofNat 32 cause.code, xpc := xpc, xval := xval, xrpc := xrpc }
  let fault (mark : Bool) : State :=
    match s.gangId w with
    | some g => s1.programFault g cause xpc xval mark
    | none => s1.modTs w fun t => { t with run := .retired }
  if t.inh then fault false
  else
    match s.capsuleOf w with
    | none => fault false
    | some c =>
      let h := c.traps.getD cause.code 0xFFFFFFFF
      let h := if h = 0xFFFFFFFF then c.traps.getD 0 0xFFFFFFFF else h
      if !cause.delivered || h == 0xFFFFFFFF then fault false
      else
        match c.lineAt h.toNat with
        | none => fault true
        | some l =>
          if !lineParityOk l then s.consume w .parity none h.toNat
          else if (lineBadEntry l).isSome || !posOk h.toNat || !lineTarget l (posSlot h.toNat) then fault true
          else s1.modTs w fun t => { t with xstat := t.xstat ||| 1, pc := h, enter := true }

/-- What a body that does not complete leaves: a trap at the instruction's position (R338), a wait, an error. -/
def State.stopped (s : State) : Stop → State
  | .trap c x =>
    let pc := (s.ts s.who).pc
    { s.takeTrap s.who c pc x pc with evt := 0x11 }
  | .wait e => { s with evt := e }
  | .park ps => { s.parkTask s.who ps with evt := 0x0F }
  | .pxh n =>
    let pc := (s.ts s.who).pc
    let s := s.modTs s.who fun t => { t with pxneed := n }
    { s.takeTrap s.who .pxh pc 0 pc with evt := 0x11 }
  | .check src i a => { s.consume s.who src i a with evt := 0x0B }
  | .hold r => { s.beginWait s.who r with evt := 0x11 }
  | .part t => { t with evt := 2 }

end Traps

section Retiring

/-- Where an instruction continues. -/
inductive Next where
  | seq
  | jump (t : Nat) (leaves : Bool)
  | stay
  deriving DecidableEq, Repr

/-- The end of a pass at the end slot of the top loop levels (R234). -/
inductive LoopEnd where
  | fall (levels : List LoopLevel)
  | back (first : Word) (levels : List LoopLevel)
  | refused (first : Word) (levels : List LoopLevel)
  deriving DecidableEq, Repr

/-- The active levels are listed innermost first. -/
def loopEnd (refuses : Int → Bool) (pos : Word) : List LoopLevel → LoopEnd
  | [] => .fall []
  | l :: r =>
    if l.last ≠ pos then .fall (l :: r)
    else if l.count ≠ 1 then
      if refuses l.first.toNat then .refused l.first (l :: r)
      else .back l.first ({ l with count := l.count - 1 } :: r)
    else loopEnd refuses pos r

/-- Levels that a taken transfer leaves behind (R236). -/
def loopExit (pos t : Nat) : List LoopLevel → List LoopLevel
  | [] => []
  | l :: r =>
    if l.first.toNat ≤ pos ∧ pos ≤ l.last.toNat ∧ ¬ (l.first.toNat ≤ t ∧ t ≤ l.last.toNat) then loopExit pos t r
    else l :: r

/-- The retirement counts toward the rival's allowance (R166). -/
def State.countRival (s : State) (w : Who) : State :=
  if w.core.isMemory then s
  else
    match s.gangId w with
    | some g => s.modGang g fun x => if x.rival = .ordinary then x else { x with count := x.count + 1 }
    | none => s

/-- The injected checker mismatches that the next retirement of a thread set meets (R452, kind 4): the gang, which
injection, and how many are left. On a memory core the target's thread set 0 is the one that runs the task. -/
def State.checkerHit (s : State) (w : Who) : Option (Nat × Nat × Nat) :=
  match s.gangId w with
  | none => none
  | some g =>
    match s.gang g with
    | none => none
    | some x =>
      let here (i : Inject) : Bool := i.kind == 4 && decide (0 < i.left) && i.step == x.sstep
        && (match w.core with
          | .compute _ _ => i.tgt == 0 && w.t.val == 0 && (s.core w.core).gpos.toNat == i.row * 256 + i.col
          | .memory st ch => i.tgt == 1 && st == i.col && ch == i.row && (s.core w.core).tasks[w.t].set == 0
          | .control _ => false)
      (x.injects.findIdx? here).map fun i => (g, i, ((x.injects.map (·.left)).getD i 0))

/-- Move to a position; another line is checked as it is entered (R194). -/
def ThreadSet.goTo (t : ThreadSet) (p : Nat) : ThreadSet :=
  { t with pc := BitVec.ofNat 32 p, enter := t.enter || p / 64 != t.pc.toNat / 64 }

/-- A thread set passes from its instruction to the next position in order (R234, R343). -/
def State.advance (s : State) (w : Who) : State :=
  let t := s.ts w
  let pos := t.pc
  if t.inh then s.setTs w { t.goTo (nextPos pos.toNat) with run := .ready }
  else
    match loopEnd (s.refusesTarget w) pos t.loops with
    | .fall ls => s.setTs w { t.goTo (nextPos pos.toNat) with run := .ready, loops := ls }
    | .back f ls => s.setTs w { t with run := .ready, loops := ls, pc := f, enter := true }
    | .refused f ls => (s.setTs w { t with run := .ready, loops := ls }).takeTrap w .target pos f pos

/-- An instruction has completed: the counts, then the next position (R234, R236, R343). -/
def State.retire (s : State) (nx : Next) : State :=
  let w := s.who
  let s := { s.countRival w with evt := 1 }
  match nx with
  | .stay => s
  | .jump p leaves =>
    let t := s.ts w
    let loops := if leaves && !t.inh then loopExit t.pc.toNat p t.loops else t.loops
    s.setTs w { t with run := .ready, loops := loops, pc := BitVec.ofNat 32 p, enter := true }
  | .seq => s.advance w

/-- Run an instruction of the thread set that issues: predicated off, completed, or stopped (R176, R178, R338). -/
def State.run (s : State) (h : Hdr) (body : State → Except Stop (State × Next)) :
    Host.Outcome State Fault Refusal :=
  if (s.ts s.who).guard h then
    match body s with
    | .ok (s', nx) => .next (s'.retire nx)
    | .error e => .next (s.stopped e)
  else .next (s.retire .seq)

/-- A body that reads and writes the registers of its own thread set only. -/
def State.runT (s : State) (h : Hdr) (body : ThreadSet → Except Stop ThreadSet) :
    Host.Outcome State Fault Refusal :=
  s.run h fun s => do
    let t ← body (s.ts s.who)
    .ok (s.setTs s.who t, .seq)

end Retiring

section Waiting

/-- The value of a timeline for a thread set (R157). -/
def State.timeline (s : State) (w : Who) (sel : Nat) : Nat :=
  let t := s.ts w
  let k := s.core w.core
  match sel with
  | 0 => t.sendTl
  | 1 => k.shared.matrixTl
  | 2 => k.overlayTl
  | 3 => t.loadTl
  | 4 => t.sendTl
  | 5 => t.commitTl
  | 6 => ((s.gangOf w).bind fun g => s.queue g.ctx g.q).elim 0 (·.copyTl)
  | _ => ((s.gangOf w).bind fun g => s.ctx g.ctx).elim 0 (·.netTl)

/-- A TLWAIT has reached a value; of the overlay timeline, an IFENCE makes the code fetchable (R352, R407). -/
def ThreadSet.reached (t : ThreadSet) (sel v : Nat) : ThreadSet :=
  if sel = 2 then { t with ovlWaited := max t.ovlWaited v } else t

/-- A deadline has passed (R353). -/
def past (now : Nat) : Option Nat → Bool
  | some d => decide (d ≤ now)
  | none => false

/-- A thread set or task is not held by a wait (R18). -/
def State.awake (s : State) (w : Who) : Bool :=
  match (s.ts w).run with
  | .ready => true
  | .atTlwait sel v => decide (v ≤ s.timeline w sel)
  | .atWait f => f.hit || past s.now f.deadline
  | _ => false

end Waiting

section Asynchronous

/-- A task that a trap takes out of its wait runs again, or is ready to (R137, R341). -/
def State.rouseTask (s : State) (w : Who) : State :=
  if w.core.isMemory then
    s.modCore w.core fun k =>
      let x := k.tasks[w.t]
      { k with tasks := k.tasks.set w.t { x with
          state := if x.state = .bound then .running else if x.state = .waiting then .ready else x.state
          since := s.now } }
  else s

/-- The barrier tokens that stand for a core's arrival: its row's from its column west, its column's from its row north
(R32). -/
def Gang.withoutToken (g : Gang) (x y : Nat) : Gang :=
  { g with toks := g.toks.filter fun k => if k.2.2 then y < k.2.1 else k.2.1 ≠ y ∨ x < k.1 }

/-- The arrival of a thread set or task is withdrawn, and with it what has been passed on for it (R260). -/
def State.withdraw (s : State) (w : Who) : State :=
  match s.gangId w with
  | none => s
  | some g =>
    match w.core with
    | .compute x y =>
      let was := (s.core w.core).arrived
      let s := s.modCore w.core fun k => { k with arrived := false }
      if was then s.modGang g fun v => v.withoutToken ((x - v.ox) / v.stride) (y - v.oy) else s
    | .memory a b => s.modGang g fun v => { v with taskAt := v.taskAt.filter fun e => e != (a, b, w.t.val) }
    | .control _ => s

/-- An asynchronous trap reaches a thread set or task (R40, R260, R341, R343): it is a program fault where the set has
retired; a set that waits at BAR, TLWAIT or WAIT takes it at once, its arrival withdrawn; else it is held before the
next issue. -/
def State.asyncTrap (s : State) (w : Who) (p : PendTrap) : State :=
  let t := s.ts w
  let hold := s.setTs w { t with traps := t.traps ++ [p] }
  match t.run with
  | .idle => s
  | .retired =>
    match s.gangId w with
    | some g => s.programFault g p.cause p.xpc p.xval false
    | none => s
  | .atBar | .atTlwait _ _ | .atWait _ =>
    if t.inh || !t.traps.isEmpty then hold
    else let s := s.withdraw w
      ((s.modTs w fun t => { t with run := .ready }).rouseTask w).takeTrap w p.cause p.xpc p.xval t.pc
  | _ => hold

/-- Numbers of the joint operations of a core that have finished, dropped and cancelled ones among them, move its matrix
timeline (R132). -/
def Shared.finishJoint (k : Shared) (n : Nat) : Shared :=
  let done := k.matrixDone ++ [n]
  let v := climb done.length k.matrixTl done
  { k with matrixTl := v, matrixDone := done.filter (v < ·), joint := k.joint.filter fun j => j.number != n }

end Asynchronous

end Machine
end Sys2Proof
end

