-- ==== Sys2Proof/Machine/Operands.lean ====
section
/-! DEFINITION. Operand forms: shift amounts, conditions, exact addresses, lanes and register groups, the packing of T6
and of 4-bit elements, rows and columns of tiles. -/
namespace Sys2Proof.Machine

section Scalars

/-- The least and greatest integers of a width (R75). -/
def intMin (signed : Bool) (w : Nat) : Int := if signed then -(2 ^ (w - 1)) else 0
def intMax (signed : Bool) (w : Nat) : Int := if signed then 2 ^ (w - 1) - 1 else 2 ^ w - 1

/-- clamp of R214: the value limited, and SAT where it lay outside. -/
def clampInt (v lo hi : Int) : Int × Word := if v < lo then (lo, fSAT) else if hi < v then (hi, fSAT) else (v, 0)

/-- The amount of a scalar shift (R217, R218). -/
def ThreadSet.readAmt (t : ThreadSet) : ShiftAmt → Except Stop Nat
  | .reg b => do
    let v ← t.readS b
    .ok v.toNat
  | .imm n => .ok n.val

def ThreadSet.killAmt (t : ThreadSet) (mark : Bool) : ShiftAmt → ThreadSet
  | .reg b => t.killS mark b
  | .imm _ => t

/-- The conditions of R223 on words of any width. -/
def condHolds (c : Cond) (a b : BitVec w) : Bool :=
  match c with
  | .eq => a == b
  | .ne => a != b
  | .lt => a.slt b
  | .ge => b.sle a
  | .ltz => a.ult b
  | .gez => b.ule a
  | .le => a.sle b
  | .gt => b.slt a
  | .lez => a.ule b
  | .gtz => b.ult a

/-- A word as a signed integer of the immediate. -/
def sext24 (imm : Imm) : Word := imm.signExtend 32

end Scalars

section Lanes

/-- Lane i of width w of a register (R266). -/
def laneAt (v : BitVec n) (w i : Nat) : Nat := v.toNat / 2 ^ (w * i) % 2 ^ w

/-- A register from its lanes, lane 0 lowest. -/
def ofLanes (n w : Nat) (ls : List Nat) : BitVec n :=
  BitVec.ofNat n (ls.foldr (fun x acc => x % 2 ^ w + 2 ^ w * acc) 0)

def lanesOf (v : BitVec n) (w count : Nat) : List Nat := (List.range count).map (laneAt v w)

/-- A code of width w as a signed integer. -/
def toSigned (w x : Nat) : Int := if x % 2 ^ w < 2 ^ (w - 1) then (x % 2 ^ w : Nat) else (x % 2 ^ w : Nat) - (2 ^ w : Nat)

/-- An integer as a code of width w. -/
def ofInt (w : Nat) (v : Int) : Nat := (v % (2 ^ w : Nat)).toNat

/-- The value of an integer code of a format (R75). -/
def intVal (f : Fmt) (x : Nat) : Int := if f.isSigned then toSigned f.width x else (x % 2 ^ f.width : Nat)

/-- The bytes of a register, lowest first, and a register from bytes. -/
def bytesOf (v : BitVec n) : List Byte := leBytes (n / 8) v.toNat
def ofBytes (n : Nat) (bs : List Byte) : BitVec n := BitVec.ofNat n (leNat bs)

/-- A register from lane codes; bits [7:6] of a T6 container are written as zero (R81, R266). -/
def vecOf (f : Fmt) (codes : List Nat) : VWord :=
  ofLanes 256 f.width (if f = .t6 then codes.map (· % 64) else codes)

/-- The lanes of a register in a format. -/
def vecLanes (f : Fmt) (v : VWord) : List Nat := lanesOf v f.width f.lanes

/-- Bits that a result of a tag keeps (R81, R266). -/
def maskTag (f : Fmt) (v : VWord) : VWord := if f = .t6 then vecOf .t6 (vecLanes .t6 v) else v

/-- The value that a lane of width w takes at place i of a register or row tagged f: bits [7:6] of a T6 container are
written as zero (R81). -/
def maskLane (f : Fmt) (w i x : Nat) : Nat :=
  if f ≠ .t6 then x
  else if w = 4 then (if i % 2 = 1 then x % 4 else x)
  else x &&& 0x3F3F3F3F3F3F3F3F

/-- T6 codes in memory: four in three bytes (R81). -/
def unpackT6 (count : Nat) (bs : List Byte) : List Nat :=
  let x := leNat bs
  (List.range count).map fun i => x / 2 ^ (6 * i) % 64

def packT6 (codes : List Nat) : List Byte :=
  leBytes (codes.length * 6 / 8) (codes.foldr (fun c acc => c % 64 + 64 * acc) 0)

/-- The wide elements of a register group, element e in register r + e div n (R289). -/
def groupLanes (regs : List VWord) (w : Nat) : List Nat := regs.flatMap fun v => lanesOf v w (256 / w)

end Lanes

section Tiles

/-- Row i of a tile, 64 bytes as a number (R119). -/
def Tile.row (t : Tile) (i : Nat) : BitVec 512 := t.bits.extractLsb' (512 * i) 512

def Tile.setRow (t : Tile) (i : Nat) (r : BitVec 512) : Tile :=
  let mask : BitVec 16384 := (BitVec.ofNat 16384 (2 ^ 512 - 1)) <<< (512 * i)
  { t with bits := (t.bits &&& ~~~mask) ||| ((r.setWidth 16384) <<< (512 * i)) }

def Acc.row (a : Acc) (i : Nat) : BitVec 512 := a.bits.extractLsb' (512 * i) 512

def Acc.setRow (a : Acc) (i : Nat) (r : BitVec 512) : Acc :=
  let mask : BitVec 8192 := (BitVec.ofNat 8192 (2 ^ 512 - 1)) <<< (512 * i)
  { a with bits := (a.bits &&& ~~~mask) ||| ((r.setWidth 8192) <<< (512 * i)) }

/-- Bits [lo + w - 1 : lo] of a row replaced. -/
def setBits (r : BitVec 512) (lo w v : Nat) : BitVec 512 :=
  let mask : BitVec 512 := BitVec.ofNat 512 ((2 ^ w - 1) * 2 ^ lo)
  (r &&& ~~~mask) ||| BitVec.ofNat 512 (v % 2 ^ w * 2 ^ lo)

end Tiles

end Sys2Proof.Machine
end

