-- ==== Sys2Proof/Machine/Flags.lean ====
section
/-! DEFINITION. Numbers and flags: the value of a code of every format (R75, R76, R79, R82), the one rounding of R85 with
overflow, saturation and the flags of R86 to R90, exact arithmetic before rounding, and the conversions of R88. -/
namespace Sys2Proof

/-- Exponent and fraction bits of the IEEE formats and BF16 (R76). -/
def Fmt.ieee : Fmt → Option (Nat × Nat)
  | .fp64 => some (11, 52)
  | .fp32 => some (8, 23)
  | .fp16 => some (5, 10)
  | .bf16 => some (8, 7)
  | _ => none

/-- The width of an element in bits (R63, R146). -/
def Elem.width : Elem → Nat
  | .z32 | .s32 | .fp32 => 32
  | _ => 64

/-- The unsigned and the signed elements, and the floating ones. -/
def Elem.signed : Elem → Bool
  | .s32 | .s64 => true
  | _ => false

def Elem.ieee : Elem → Option (Nat × Nat)
  | .fp32 => some (8, 23)
  | .fp64 => some (11, 52)
  | _ => none

namespace Machine

section Values

/-- A value of any format: a NaN, the NAV of the tapered and scale formats, an infinity, or the exact (-1)^neg x m x 2^e;
m = 0 is a signed zero. A value that is not dyadic is held truncated toward zero with bit 0 of m set, at a length beyond
every format, so that it rounds as the exact value does. -/
inductive Num where
  | nan (signalling : Bool)
  | nav
  | inf (neg : Bool)
  | fin (neg : Bool) (m : Nat) (e : Int)
  deriving DecidableEq, Repr

/-- Bits of a number. -/
def bitLen (m : Nat) : Nat := if m = 0 then 0 else m.log2 + 1

/-- The value of an IEEE or BF16 code (R76). -/
def ieeeVal (eb fb code : Nat) : Num :=
  let neg := code / 2 ^ (eb + fb) % 2 == 1
  let ex := code / 2 ^ fb % 2 ^ eb
  let fr := code % 2 ^ fb
  let bias : Int := 2 ^ (eb - 1) - 1
  if ex = 2 ^ eb - 1 then
    if fr = 0 then .inf neg else .nan (fr < 2 ^ (fb - 1))
  else if ex = 0 then .fin neg fr (1 - bias - fb)
  else .fin neg (2 ^ fb + fr) (ex - bias - fb)

/-- Bits of a run of equal bits from bit i down. -/
def runLen (code : Nat) (bit : Bool) : Nat → Nat
  | 0 => 0
  | i + 1 => if code.testBit i == bit then runLen code bit i + 1 else 0

/-- The magnitude code of a tapered format with n magnitude bits and es exponent bits (R79): the significand and the
exponent of its last bit. -/
def taperMag (n es mag : Nat) : Nat × Int :=
  let first := mag.testBit (n - 1)
  let k := runLen mag first n
  let reg : Int := if first then (k : Int) - 1 else -(k : Int)
  let rest := n - min n (k + 1)
  let ebits := min es rest
  let e := (mag / 2 ^ (rest - ebits) % 2 ^ ebits) * 2 ^ (es - ebits)
  let fb := rest - ebits
  (2 ^ fb + mag % 2 ^ fb, 2 ^ es * reg + e - fb)

/-- The value of a T8 or T6 code (R79); bits above the code are ignored (R81). -/
def taperVal (n es code : Nat) : Num :=
  let neg := code.testBit n
  let mag := code % 2 ^ n
  if mag = 0 then (if neg then .nav else .fin false 0 0)
  else
    let r := taperMag n es mag
    .fin neg r.1 r.2

/-- The value of a code of a format. -/
def codeVal (f : Fmt) (code : Nat) : Num :=
  match f.ieee with
  | some (eb, fb) => ieeeVal eb fb code
  | none =>
    match f with
    | .t8 => taperVal 7 1 code
    | .t6 => taperVal 5 0 code
    | .e8 => if code % 256 = 255 then .nav else .fin false 1 ((code % 256 : Nat) - 127)
    | f =>
      let v := intVal f code
      .fin (v < 0) v.natAbs 0

/-- The default quiet NaN of a format (R76). -/
def qnan (eb fb : Nat) : Nat := (2 ^ eb - 1) * 2 ^ fb + 2 ^ (fb - 1)

/-- A code with its flags. -/
abbrev Coded := Nat × Word

end Values

section Rounding

/-- The mode of an instruction: its own, or RMODE.MODE (R84, R87). -/
def ThreadSet.mode (t : ThreadSet) : RmCode → RmCode
  | .dyn =>
    match t.rmode.toNat % 8 with
    | 0 => .rne
    | 1 => .rtz
    | 2 => .rdn
    | 3 => .rup
    | 4 => .rmm
    | _ => .rto
  | m => m

/-- Of two neighbours around an inexact magnitude, is the greater magnitude taken (R85)? `odd` is bit 0 of the lesser
one's code, `cmp` orders the exact value against their middle. -/
def takesUpper (mode : RmCode) (neg odd : Bool) (cmp : Ordering) : Bool :=
  match mode with
  | .rtz => false
  | .rdn => neg
  | .rup => !neg
  | .rto => !odd
  | .rmm => cmp != .lt
  | _ => cmp == .gt || (cmp == .eq && odd)

/-- Round m x 2^e to a multiple of 2^q: the multiple, and whether it is inexact. -/
def roundQuantum (mode : RmCode) (neg : Bool) (m : Nat) (e q : Int) : Nat × Bool :=
  if q ≤ e then (m * 2 ^ (e - q).toNat, false)
  else
    let k := (q - e).toNat
    let lo := m / 2 ^ k
    let rem := m % 2 ^ k
    if rem = 0 then (lo, false)
    else (if takesUpper mode neg (lo % 2 == 1) (compare (2 * rem) (2 ^ k)) then lo + 1 else lo, true)

/-- The flags of an inexact result. -/
def inexact (b : Bool) : Word := if b then fINX else 0

/-- Round a finite nonzero value to an IEEE format or BF16 with R86: the code of its magnitude and the flags. -/
def roundIeee (eb fb : Nat) (mode : RmCode) (sat neg : Bool) (m : Nat) (e : Int) : Coded :=
  let p := fb + 1
  let qmin : Int := 2 - 2 ^ (eb - 1) - fb
  let qfree : Int := e + bitLen m - p
  let q := max qfree qmin
  let r := roundQuantum mode neg m e q
  let code := (q - qmin).toNat * 2 ^ fb + r.1
  let infCode := (2 ^ eb - 1) * 2 ^ fb
  if infCode ≤ code then
    let toInf := match mode with
      | .rtz | .rto => false
      | .rdn => neg
      | .rup => !neg
      | _ => true
    if toInf && !sat then (infCode, fOFL ||| fINX)
    else (infCode - 1, fOFL ||| fINX ||| (if toInf then fSAT else 0))
  else
    let u := roundQuantum mode neg m e qfree
    let tiny := decide (qfree < qmin ∧ ¬ (u.1 = 2 ^ p ∧ qfree + 1 = qmin))
    (code, inexact r.2 ||| (if r.2 && tiny then fUFL else 0))

/-- The sign bit of a code. -/
def withSign (neg : Bool) (bits code : Nat) : Nat := if neg then 2 ^ (bits - 1) + code else code

/-- rnd of R268 for an IEEE format or BF16. -/
def rndIeee (eb fb : Nat) (mode : RmCode) (sat : Bool) : Num → Coded
  | .nan _ => (qnan eb fb, 0)
  | .nav => (qnan eb fb, fNAV)
  | .inf neg =>
    let infCode := (2 ^ eb - 1) * 2 ^ fb
    if sat then (withSign neg (eb + fb + 1) (infCode - 1), fSAT) else (withSign neg (eb + fb + 1) infCode, 0)
  | .fin neg m e =>
    if m = 0 then (withSign neg (eb + fb + 1) 0, 0)
    else
      let r := roundIeee eb fb mode sat neg m e
      (withSign neg (eb + fb + 1) r.1, r.2)

/-- Order of m x 2^e against n x 2^d. -/
def cmpMag (m : Nat) (e : Int) (n : Nat) (d : Int) : Ordering :=
  let k := min e d
  compare (m * 2 ^ (e - k).toNat) (n * 2 ^ (d - k).toNat)

/-- A magnitude to T8 or T6 (R85, R88): the greatest code not above it, then the rounding; above the greatest code it is
clamped. -/
def roundTaper (n es : Nat) (mode : RmCode) (neg : Bool) (m : Nat) (e : Int) : Coded :=
  let val (c : Nat) : Nat × Int := if c = 0 then (0, 0) else taperMag n es c
  let lo := (List.range (2 ^ n)).foldl (fun acc c => if cmpMag (val c).1 (val c).2 m e = .gt then acc else c) 0
  if cmpMag (val lo).1 (val lo).2 m e = .eq then (lo, 0)
  else if lo = 2 ^ n - 1 then (lo, fSAT ||| fINX)
  else
    let a := val lo
    let b := val (lo + 1)
    let k := min a.2 b.2
    let sum := a.1 * 2 ^ (a.2 - k).toNat + b.1 * 2 ^ (b.2 - k).toNat
    (if takesUpper mode neg (lo % 2 == 1) (cmpMag m e sum (k - 1)) then lo + 1 else lo, fINX)

/-- A value to T8 or T6 (R88): no negative zero. -/
def rndTaper (n es : Nat) (mode : RmCode) : Num → Coded
  | .nan _ | .nav | .inf _ => (2 ^ n, fINV ||| fNAV)
  | .fin neg m e =>
    if m = 0 then (0, 0)
    else
      let r := roundTaper n es mode neg m e
      (if r.1 = 0 then 0 else withSign neg (n + 1) r.1, r.2)

/-- A value rounded to an integer (R85). -/
def roundInt (mode : RmCode) (neg : Bool) (m : Nat) (e : Int) : Int × Bool :=
  let r := roundQuantum mode neg m e 0
  (if neg then -(r.1 : Int) else r.1, r.2)

/-- A floating-point value to an integer of w bits (R88): clamped with INV in every case. -/
def rndIntW (signed : Bool) (w : Nat) (mode : RmCode) : Num → Coded
  | .nan _ => (0, fINV)
  | .nav => (0, fINV ||| fNAV)
  | .inf neg => (ofInt w (if neg then intMin signed w else intMax signed w), fINV)
  | .fin neg m e =>
    let lo := intMin signed w
    let hi := intMax signed w
    if m ≠ 0 ∧ (w : Int) < bitLen m + e then (ofInt w (if neg then lo else hi), fINV)
    else
      let r := roundInt mode neg m e
      if r.1 < lo then (ofInt w lo, fINV)
      else if hi < r.1 then (ofInt w hi, fINV)
      else (ofInt w r.1, inexact r.2)

/-- A value to an integer format. -/
def rndInt (f : Fmt) (mode : RmCode) (x : Num) : Coded := rndIntW f.isSigned f.width mode x

/-- fix of R268: an exact integer wrapped, or clamped with SAT. -/
def fixInt (f : Fmt) (sat : Bool) (v : Int) : Coded :=
  if sat then
    let r := clampInt v (intMin f.isSigned f.width) (intMax f.isSigned f.width)
    (ofInt f.width r.1, r.2)
  else (ofInt f.width v, 0)

/-- rnd of R268 for a floating-point format. -/
def rnd (f : Fmt) (mode : RmCode) (sat : Bool) (x : Num) : Coded :=
  match f.ieee with
  | some (eb, fb) => rndIeee eb fb mode sat x
  | none =>
    match f with
    | .t8 => rndTaper 7 1 mode x
    | .t6 => rndTaper 5 0 mode x
    | f => rndInt f mode x

end Rounding

section Exact

def Num.isNan : Num → Bool
  | .nan _ => true
  | _ => false

def Num.isSnan : Num → Bool
  | .nan s => s
  | _ => false

def Num.neg? : Num → Bool
  | .inf n => n
  | .fin n _ _ => n
  | _ => false

def Num.isZero : Num → Bool
  | .fin _ 0 _ => true
  | _ => false

def Num.isInf : Num → Bool
  | .inf _ => true
  | _ => false

def Num.negate : Num → Num
  | .inf n => .inf (!n)
  | .fin n m e => .fin (!n) m e
  | x => x

def Num.abs : Num → Num
  | .inf _ => .inf false
  | .fin _ m e => .fin false m e
  | x => x

/-- INV where an operand is a signalling NaN (R78). -/
def snanFlag (xs : List Num) : Word := if xs.any Num.isSnan then fINV else 0

/-- A signed exact value at exponent e. -/
def Num.ofIntAt (v : Int) (e : Int) : Num := .fin (v < 0) v.natAbs e

/-- The exact sum of finite values; an exact zero has the sign that IEEE 754-2019 gives a sum (R78). -/
def addFin (mode : RmCode) (na : Bool) (ma : Nat) (ea : Int) (nb : Bool) (mb : Nat) (eb : Int) : Num :=
  if ma = 0 ∧ mb = 0 then .fin (if na = nb then na else mode == .rdn) 0 0
  else if ma = 0 then .fin nb mb eb
  else if mb = 0 then .fin na ma ea
  else
    let k := min ea eb
    let x : Int := ma * 2 ^ (ea - k).toNat
    let y : Int := mb * 2 ^ (eb - k).toNat
    let v := (if na then -x else x) + (if nb then -y else y)
    if v = 0 then .fin (mode == .rdn) 0 0 else Num.ofIntAt v k

/-- a + b with its flags, before rounding. -/
def addNum (mode : RmCode) (a b : Num) : Num × Word :=
  match a, b with
  | .nan _, _ | _, .nan _ => (.nan false, snanFlag [a, b])
  | .nav, _ | _, .nav => (.nan false, fNAV)
  | .inf x, .inf y => if x = y then (.inf x, 0) else (.nan false, fINV)
  | .inf x, _ => (.inf x, 0)
  | _, .inf y => (.inf y, 0)
  | .fin na ma ea, .fin nb mb eb => (addFin mode na ma ea nb mb eb, 0)

/-- a x b. -/
def mulNum (a b : Num) : Num × Word :=
  match a, b with
  | .nan _, _ | _, .nan _ => (.nan false, snanFlag [a, b])
  | .nav, _ | _, .nav => (.nan false, fNAV)
  | .inf x, .inf y => (.inf (x != y), 0)
  | .inf x, .fin y m _ => if m = 0 then (.nan false, fINV) else (.inf (x != y), 0)
  | .fin x m _, .inf y => if m = 0 then (.nan false, fINV) else (.inf (x != y), 0)
  | .fin na ma ea, .fin nb mb eb => (.fin (na != nb) (ma * mb) (ea + eb), 0)

/-- a x b + c, rounded once; 0 x infinity raises INV unless c is a quiet NaN (R272). -/
def fmaNum (mode : RmCode) (a b c : Num) : Num × Word :=
  if a.isNan || b.isNan || c.isNan then (.nan false, snanFlag [a, b, c])
  else
    let p := mulNum a b
    let r := addNum mode p.1 c
    (r.1, p.2 ||| r.2)

/-- Keep the sticky bit of an inexact magnitude. -/
def jam (m : Nat) (exact : Bool) (e : Int) : Nat × Int := if exact then (m, e) else (2 * m + 1, e - 1)

/-- a / b to at least n significant bits with a sticky bit. -/
def divMag (n ma mb : Nat) (e : Int) : Nat × Int :=
  let k := n + 2 + bitLen mb - bitLen ma
  let x := ma * 2 ^ k
  jam (x / mb) (x % mb == 0) (e - k)

/-- a / b (R272). -/
def divNum (n : Nat) (a b : Num) : Num × Word :=
  match a, b with
  | .nan _, _ | _, .nan _ => (.nan false, snanFlag [a, b])
  | .nav, _ | _, .nav => (.nan false, fNAV)
  | .inf _, .inf _ => (.nan false, fINV)
  | .inf x, .fin y _ _ => (.inf (x != y), 0)
  | .fin x _ _, .inf y => (.fin (x != y) 0 0, 0)
  | .fin na ma ea, .fin nb mb eb =>
    if mb = 0 then
      if ma = 0 then (.nan false, fINV) else (.inf (na != nb), fDZ)
    else if ma = 0 then (.fin (na != nb) 0 0, 0)
    else
      let r := divMag n ma mb (ea - eb)
      (.fin (na != nb) r.1 r.2, 0)

/-- The integer square root, bit by bit from bit i down. -/
def isqrtFrom (m : Nat) : Nat → Nat → Nat
  | 0, r => r
  | i + 1, r => isqrtFrom m i (if (r + 2 ^ i) * (r + 2 ^ i) ≤ m then r + 2 ^ i else r)

def isqrt (m : Nat) : Nat := isqrtFrom m (bitLen m / 2 + 1) 0

/-- The root of a finite positive value to at least n significant bits. -/
def sqrtMag (n m : Nat) (e : Int) : Nat × Int :=
  let k := 2 * (n + 2)
  let k := if (e - k) % 2 = 0 then k else k + 1
  let x := m * 2 ^ k
  let r := isqrt x
  jam r (r * r == x) ((e - k) / 2)

/-- The square root (R272). -/
def sqrtNum (n : Nat) (a : Num) : Num × Word :=
  match a with
  | .nan s => (.nan false, if s then fINV else 0)
  | .nav => (.nan false, fNAV)
  | .inf neg => if neg then (.nan false, fINV) else (.inf false, 0)
  | .fin neg m e =>
    if m = 0 then (.fin neg 0 0, 0)
    else if neg then (.nan false, fINV)
    else
      let r := sqrtMag n m e
      (.fin false r.1 r.2, 0)

/-- Order of two values that are no NaN; zeros of either sign are equal. -/
def cmpNum (a b : Num) : Ordering :=
  match a, b with
  | .inf x, .inf y => if x = y then .eq else if x then .lt else .gt
  | .inf x, _ => if x then .lt else .gt
  | _, .inf y => if y then .gt else .lt
  | .fin na ma ea, .fin nb mb eb =>
    let k := min ea eb
    let x : Int := ma * 2 ^ (ea - k).toNat
    let y : Int := mb * 2 ^ (eb - k).toNat
    compare (if na then -x else x) (if nb then -y else y)
  | _, _ => .eq

/-- The lesser or greater of two values, -0 below +0, one NaN giving the other operand (R64, R272). -/
def minMaxNum (wantMax : Bool) (a b : Num) : Num :=
  if a.isNan then (if b.isNan then .nan false else b)
  else if b.isNan then a
  else
    match cmpNum a b with
    | .eq => if wantMax then (if a.neg? then b else a) else if a.neg? then a else b
    | .lt => if wantMax then b else a
    | .gt => if wantMax then a else b

/-- A comparison of R276 with its flags. -/
def fcondHolds (c : FCond) (a b : Num) : Bool × Word :=
  if a.isNan || b.isNan then
    let sn := snanFlag [a, b]
    match c with
    | .eq | .or => (false, sn)
    | .ne | .un => (true, sn)
    | _ => (false, fINV)
  else
    let o := cmpNum a b
    (match c with
      | .eq => o == .eq
      | .ne => o != .eq
      | .lt => o == .lt
      | .le => o != .gt
      | .gt => o == .gt
      | .ge => o != .lt
      | .un => false
      | .or => true, 0)

end Exact

section Conversion

/-- A conversion of R88 of one code. -/
def convert (dst src : Fmt) (mode : RmCode) (sat : Bool) (code : Nat) : Coded :=
  if src.isInt && dst.isInt then
    let v := intVal src code
    if dst.width < src.width then fixInt dst sat v else (ofInt dst.width v, 0)
  else
    let x := codeVal src code
    let r := rnd dst mode sat x
    let snan := match dst.ieee with
      | some _ => snanFlag [x]
      | none => 0
    (r.1, r.2 ||| snan)

end Conversion

section Quantising

/-- The greatest magnitude that quantisation gives (R80, R83), as an integer. -/
def fmtMax : Fmt → Nat
  | .s8 => 127
  | .s4 => 7
  | .t8 => 4096
  | _ => 16

/-- An element that is no number (R83, R291). -/
def quantBad (qf : Fmt) : Coded :=
  match qf with
  | .t8 => (128, fNAV ||| fINV)
  | .t6 => (32, fNAV ||| fINV)
  | _ => (0, fNAV ||| fINV)

/-- An element clamped to the greatest magnitude. -/
def quantMax (qf : Fmt) (neg : Bool) (fl : Word) : Coded :=
  match qf with
  | .t8 => (withSign neg 8 127, fl)
  | .t6 => (withSign neg 6 31, fl)
  | f => (ofInt f.width (if neg then -(fmtMax f : Int) else fmtMax f), fl)

/-- One finite element scaled by 2^-X and rounded to nearest even, clamped to fmtmax (R83). -/
def quantOne (qf : Fmt) (neg : Bool) (m : Nat) (e x : Int) : Coded :=
  if m = 0 then (0, 0)
  else
    match qf with
    | .t8 => rndTaper 7 1 .rne (.fin neg m (e - x))
    | .t6 => rndTaper 5 0 .rne (.fin neg m (e - x))
    | f =>
      let r := roundInt .rne neg m (e - x)
      if fmtMax f < r.1.natAbs then quantMax f neg (fSAT ||| fINX) else (ofInt f.width r.1, inexact r.2)

/-- The least X with m x 2^e at most 2^X times fmtmax, limited to -127..127 (R83). -/
def quantExp (qf : Fmt) (m : Nat) (e : Int) : Int :=
  let start : Int := e + bitLen m - bitLen (fmtMax qf) - 2
  let x := (List.range 6).foldl (fun (x : Int) _ => if cmpMag m e (fmtMax qf) x = .gt then x + 1 else x) start
  min 127 (max (-127) x)

/-- A block quantised (R83): the scale, the elements, the flags. -/
def quantBlock (qf : Fmt) (blk : List Num) : Nat × List Nat × Word :=
  if blk.any fun x => x.isNan || x.isInf then (255, blk.map fun _ => (quantBad qf).1, fNAV ||| fINV)
  else
    let big := blk.foldl (fun (a : Nat × Int) x =>
      match x with
      | .fin _ m e => if cmpMag m e a.1 a.2 = .gt then (m, e) else a
      | _ => a) (0, 0)
    if big.1 = 0 then (0, blk.map fun _ => 0, 0)
    else
      let x := quantExp qf big.1 big.2
      let rs := blk.map fun v =>
        match v with
        | .fin neg m e => quantOne qf neg m e x
        | _ => quantBad qf
      ((x + 127).toNat, rs.map (·.1), rs.foldl (fun f r => f ||| r.2) 0)

/-- One element against a given scale (R291). -/
def quantAgainst (qf : Fmt) (c : Nat) (v : Num) : Coded :=
  if c = 255 then quantBad qf
  else
    match v with
    | .nan _ | .nav => quantBad qf
    | .inf neg => quantMax qf neg fSAT
    | .fin neg m e => quantOne qf neg m e ((c : Int) - 127)

/-- An element times a scale (R292): NAV is no number. -/
def scaled (f : Fmt) (code c : Nat) : Num :=
  if c = 255 then .nav
  else
    match codeVal f code with
    | .fin neg m e => .fin neg m (e + c - 127)
    | x => x

end Quantising

section BankUnits

def elemInt (el : Elem) (x : Nat) : Int :=
  if el.signed then toSigned el.width x else (x % 2 ^ el.width : Nat)

/-- A bank operation on an element (R63, R64, R146): the new code. CAS compares in the low half and writes the high half
of its operand where the old word equals (R146). -/
def bankResult (op : BankOp) (el : Elem) (old new : Nat) : Nat :=
  let w := el.width
  match el.ieee with
  | some (eb, fb) =>
    let a := ieeeVal eb fb old
    let b := ieeeVal eb fb new
    match op with
    | .write => new % 2 ^ w
    | .add => (rndIeee eb fb .rne false (addNum .rne a b).1).1
    | .min => (rndIeee eb fb .rne false (minMaxNum false a b)).1
    | .max => (rndIeee eb fb .rne false (minMaxNum true a b)).1
    | _ => old % 2 ^ w
  | none =>
    let a := elemInt el old
    let b := elemInt el new
    match op with
    | .write => new % 2 ^ w
    | .add => (old + new) % 2 ^ w
    | .adds => ofInt w (clampInt (a + b) (intMin el.signed w) (intMax el.signed w)).1
    | .min => if b < a then new % 2 ^ w else old % 2 ^ w
    | .max => if a < b then new % 2 ^ w else old % 2 ^ w
    | .and => Nat.land (old % 2 ^ w) (new % 2 ^ w)
    | .or => Nat.lor (old % 2 ^ w) (new % 2 ^ w)
    | .xor => Nat.xor (old % 2 ^ w) (new % 2 ^ w)
    | .cas => old % 2 ^ w

end BankUnits

end Machine
end Sys2Proof
end

