-- ==== Sys2Proof/Machine/Local.lean ====
section
/-! DEFINITION. The instructions on a core's own store: loads and stores, vector and tile transfers, the local atomic,
landing windows, CHRON, and the timeline instructions (R240 to R255, R259 to R264). -/
namespace Sys2Proof

def LdWidth.bytes : LdWidth → Nat
  | .b8 | .sb8 => 1
  | .b16 | .sb16 => 2
  | .b32 => 4
  | .b64 => 8

def StWidth.bytes : StWidth → Nat
  | .b8 => 1
  | .b16 => 2
  | .b32 => 4
  | .b64 => 8

/-- The codes of R63 for operations and elements. -/
def BankOp.bits : BankOp → Nat
  | .write => 0 | .add => 1 | .adds => 2 | .min => 3 | .max => 4 | .and => 5 | .or => 6 | .xor => 7 | .cas => 8

def Elem.bits : Elem → Nat
  | .z32 => 0 | .s32 => 1 | .fp32 => 2 | .fp64 => 3 | .b64 => 4 | .z64 => 5 | .s64 => 6

namespace Machine

section Shapes

/-- The value of a load of a width (R244). -/
def loadVal (w : LdWidth) (bs : List Byte) : Nat :=
  match w with
  | .sb8 => ofInt 32 (toSigned 8 (leNat bs))
  | .sb16 => ofInt 32 (toSigned 16 (leNat bs))
  | _ => leNat bs

/-- The destination of LD, GLD and the like is free. -/
def ThreadSet.freeLd (t : ThreadSet) (w : LdWidth) (d : SReg) : Except Stop Unit :=
  match w with
  | .b64 => t.freeP (SReg.pair d)
  | _ => t.freeS d

def ThreadSet.putLd (t : ThreadSet) (w : LdWidth) (d : SReg) (bs : List Byte) : ThreadSet :=
  match w with
  | .b64 => t.putP (SReg.pair d) (BitVec.ofNat 64 (loadVal w bs))
  | _ => t.putS d (BitVec.ofNat 32 (loadVal w bs))

/-- The bytes that ST and GST take from their source (R244). -/
def ThreadSet.readSt (t : ThreadSet) (w : StWidth) (b : SReg) : Except Stop (List Byte) :=
  match w with
  | .b64 => do
    let v ← t.readP (SReg.pair b)
    .ok (leBytes 8 v.toNat)
  | w => do
    let v ← t.readS b
    .ok (leBytes w.bytes v.toNat)

def ThreadSet.killSt (t : ThreadSet) (mark : Bool) (w : StWidth) (b : SReg) : ThreadSet :=
  match w with
  | .b64 => t.killP mark (SReg.pair b)
  | _ => t.killS mark b

/-- Loads of several elements, in ascending order. -/
def State.loadAll (s : State) (w : Who) : List (Int × Nat) → Except Stop (List (List Byte))
  | [] => .ok []
  | (a, n) :: r => do
    let bs ← s.loadBytes w a.toNat n
    let rest ← s.loadAll w r
    .ok (bs :: rest)

/-- Stores of several elements, in ascending order (R246, R248). -/
def State.storeAll (s : State) (w : Who) (xs : List (Int × List Byte)) : State :=
  xs.foldl (fun s x => s.storeBytes w x.1.toNat x.2) s

/-- An element of 32 or 64 bits that an instruction takes from a scalar or a pair (R251, R325). -/
def ThreadSet.readElem (t : ThreadSet) (el : Elem) (b : SReg) : Except Stop DWord :=
  if el.width = 64 then t.readP (SReg.pair b)
  else do
    let v ← t.readS b
    .ok (v.setWidth 64)

def ThreadSet.killElem (t : ThreadSet) (mark : Bool) (el : Elem) (b : SReg) : ThreadSet :=
  if el.width = 64 then t.killP mark (SReg.pair b) else t.killS mark b

def ThreadSet.freeElem (t : ThreadSet) (el : Elem) (d : SReg) : Except Stop Unit :=
  if el.width = 64 then t.freeP (SReg.pair d) else t.freeS d

def ThreadSet.putElem (t : ThreadSet) (el : Elem) (d : SReg) (v : Nat) : ThreadSet :=
  if el.width = 64 then t.putP (SReg.pair d) (BitVec.ofNat 64 v) else t.putS d (BitVec.ofNat 32 v)

/-- A tile or accumulator register checked against a tag (R93, R94). -/
def Core.readTile (k : Core) (r : MReg) (want : Option Fmt) : Except Stop Tile :=
  let t := k.shared.tiles[r]
  match want with
  | none => .ok t
  | some f => if t.tag = f then .ok t else .error (.trap .format (formatVal 1 r.val t.tag.code f.code))

def Core.readAcc (k : Core) (r : CReg) (want : Option Fmt) : Except Stop Acc :=
  let t := k.shared.accs[r]
  match want with
  | none => .ok t
  | some f => if t.tag = f then .ok t else .error (.trap .format (formatVal 2 r.val t.tag.code f.code))

/-- A joint operation queued or running still uses a register (R133). -/
def Core.tileFree (k : Core) (r : MReg) : Except Stop Unit :=
  if k.shared.joint.any fun j => j.tile == r then .error (.wait 7) else .ok ()

def Core.accFree (k : Core) (r : CReg) : Except Stop Unit :=
  if k.shared.joint.any fun j => j.acc == r then .error (.wait 7) else .ok ()

end Shapes

section LoadsAndStores

/-- LD (R244). -/
def execLd (h : Hdr) (w : LdWidth) (d : SReg) (a : SPair) (imm : Imm) (s : State) : Host.Outcome State Fault Refusal :=
  s.run h fun s => do
    let t := s.ts s.who
    let x ← t.readP a
    t.freeLd w d
    let p := ea x imm 0
    aligned w.bytes [p]
    s.access s.who [(p, w.bytes)]
    let bs ← s.loadBytes s.who p.toNat w.bytes
    .ok (s.modTs s.who fun t => (t.killP h.dmA a).putLd w d bs, .seq)

/-- ST (R244). -/
def execSt (h : Hdr) (w : StWidth) (b : SReg) (a : SPair) (imm : Imm) (s : State) : Host.Outcome State Fault Refusal :=
  s.run h fun s => do
    let t := s.ts s.who
    let x ← t.readP a
    let bs ← t.readSt w b
    let p := ea x imm 0
    aligned w.bytes [p]
    s.access s.who [(p, w.bytes)]
    .ok ((s.storeBytes s.who p.toNat bs).modTs s.who fun t => (t.killP h.dmA a).killSt h.dmB w b, .seq)

/-- The bits of a vector register from its image in memory (R245). -/
def vecOfImage (fmt : Fmt) (bs : List Byte) : VWord :=
  match fmt with
  | .t6 => ofLanes 256 8 (unpackT6 32 bs)
  | _ => ofBytes 256 bs

/-- LDV (R245). -/
def execLdv (h : Hdr) (fmt : Fmt) (d : VReg) (a : SPair) (imm : Imm) (s : State) : Host.Outcome State Fault Refusal :=
  s.run h fun s => do
    let t := s.ts s.who
    let x ← t.readP a
    t.freeV d
    let p := ea x imm 0
    let n := if fmt = .t6 then 24 else 32
    aligned 8 [p]
    s.access s.who [(p, n)]
    let bs ← s.loadBytes s.who p.toNat n
    .ok (s.modTs s.who fun t => (t.killP h.dmA a).putV d (vecOfImage fmt bs) fmt, .seq)

/-- The image of a vector register in memory (R245). -/
def vecImage (t6 : Bool) (v : VWord) : List Byte := if t6 then packT6 (lanesOf v 8 32) else bytesOf v

/-- STV (R245). -/
def execStv (h : Hdr) (t6 : Bool) (b : VReg) (a : SPair) (imm : Imm) (s : State) : Host.Outcome State Fault Refusal :=
  s.run h fun s => do
    let t := s.ts s.who
    let x ← t.readP a
    let v ← t.readV b (if t6 then some .t6 else none)
    let p := ea x imm 0
    let bs := vecImage t6 v
    aligned 8 [p]
    s.access s.who [(p, bs.length)]
    .ok ((s.storeBytes s.who p.toNat bs).modTs s.who fun t => (t.killP h.dmA a).killV h.dmB b, .seq)

/-- The addresses of the lanes of a strided access (R246). -/
def strideAddrs (base : DWord) (imm : Imm) (stride : Word) (n : Nat) : List Int :=
  (List.range n).map fun (i : Nat) => ea base imm ((i : Int) * stride.toInt)

/-- LDVS (R246). -/
def execLdvs (h : Hdr) (fmt : Fmt) (d : VReg) (a : SPair) (b : SReg) (imm : Imm) (s : State) :
    Host.Outcome State Fault Refusal :=
  s.run h fun s => do
    let t := s.ts s.who
    let x ← t.readP a
    let st ← t.readS b
    t.freeV d
    let w := fmt.width / 8
    let ps := strideAddrs x imm st (32 / w)
    let rs := ps.map fun p => (p, w)
    aligned w ps
    s.access s.who rs
    let ls ← s.loadAll s.who rs
    .ok (s.modTs s.who fun t => ((t.killP h.dmA a).killS h.dmB b).putV d (ofBytes 256 ls.flatten) fmt, .seq)

/-- The lanes of a vector as bytes, each at its address. -/
def laneBytes (v : VWord) (w : Nat) (ps : List Int) : List (Int × List Byte) :=
  ps.zipIdx.map fun e => (e.1, leBytes w (laneAt v (8 * w) e.2))

/-- STVS (R246). -/
def execStvs (h : Hdr) (fmt : Fmt) (b : VReg) (a : SPair) (c : SReg) (imm : Imm) (s : State) :
    Host.Outcome State Fault Refusal :=
  s.run h fun s => do
    let t := s.ts s.who
    let x ← t.readP a
    let v ← t.readV b none
    let st ← t.readS c
    let w := fmt.width / 8
    let ps := strideAddrs x imm st (32 / w)
    aligned w ps
    s.access s.who (ps.map fun p => (p, w))
    .ok ((s.storeAll s.who (laneBytes v w ps)).modTs s.who fun t =>
      ((t.killP h.dmA a).killV h.dmB b).killS h.dmC c, .seq)

/-- The addresses of the lanes of an indexed access (R247). -/
def indexAddrs (base : DWord) (imm : Imm) (ix : VWord) (k n : Nat) : List Int :=
  (List.range n).map fun i => ea base imm (toSigned 32 (laneAt ix 32 i) * 2 ^ k)

/-- LDVX (R247). -/
def execLdvx (h : Hdr) (fmt : Fmt) (k : Fin 8) (d : VReg) (a : SPair) (b : VReg) (imm : Imm) (s : State) :
    Host.Outcome State Fault Refusal :=
  s.run h fun s => do
    let t := s.ts s.who
    let x ← t.readP a
    let ix ← t.readV b (some .s32)
    t.freeV d
    let w := fmt.width / 8
    let ps := indexAddrs x imm ix k.val (32 / w)
    let rs := ps.map fun p => (p, w)
    aligned w ps
    s.access s.who rs
    let ls ← s.loadAll s.who rs
    .ok (s.modTs s.who fun t => ((t.killP h.dmA a).killV h.dmB b).putV d (ofBytes 256 ls.flatten) fmt, .seq)

/-- STVX (R247). -/
def execStvx (h : Hdr) (fmt : Fmt) (k : Fin 8) (b : VReg) (a : SPair) (c : VReg) (imm : Imm) (s : State) :
    Host.Outcome State Fault Refusal :=
  s.run h fun s => do
    let t := s.ts s.who
    let x ← t.readP a
    let v ← t.readV b none
    let ix ← t.readV c (some .s32)
    let w := fmt.width / 8
    let ps := indexAddrs x imm ix k.val (32 / w)
    aligned w ps
    s.access s.who (ps.map fun p => (p, w))
    .ok ((s.storeAll s.who (laneBytes v w ps)).modTs s.who fun t =>
      ((t.killP h.dmA a).killV h.dmB b).killV h.dmC c, .seq)

/-- The addresses of the rows of a tile transfer (R248). -/
def rowAddrs (base : DWord) (imm : Imm) (pitch : Word) (n : Nat) : List Int :=
  (List.range n).map fun (j : Nat) => ea base imm ((j : Int) * (pitch.toNat : Int))

/-- The pitch of a tile transfer or a drain is a multiple of 8 (R248, R316). -/
def pitchOk (pitch : Word) : Except Stop Unit :=
  if pitch.toNat % 8 = 0 then .ok () else .error (.trap .prot pitch)

/-- A tile row from its image in memory. -/
def rowOfImage (fmt : Fmt) (bs : List Byte) : BitVec 512 :=
  match fmt with
  | .t6 => ofLanes 512 8 (unpackT6 64 bs)
  | _ => ofBytes 512 bs

/-- LDT (R248). -/
def execLdt (h : Hdr) (fmt : Fmt) (d : MReg) (a : SPair) (b : SReg) (imm : Imm) (rows : TileRows) (s : State) :
    Host.Outcome State Fault Refusal :=
  s.run h fun s => do
    let t := s.ts s.who
    let x ← t.readP a
    let pitch ← t.readS b
    (s.core s.who.core).tileFree d
    pitchOk pitch
    let n := rows.cnt.val + 1
    let rb := if fmt = .t6 then 48 else 64
    let ps := rowAddrs x imm pitch n
    let rs := ps.map fun p => (p, rb)
    aligned 8 ps
    s.access s.who rs
    let ls ← s.loadAll s.who rs
    let s := s.modShared s.who.core fun k =>
      let tile := ls.zipIdx.foldl (fun (m : Tile) e => m.setRow (rows.row.val + e.2) (rowOfImage fmt e.1)) k.tiles[d]
      { k with tiles := k.tiles.set d { tile with tag := fmt } }
    .ok (s.modTs s.who fun t => (t.killP h.dmA a).killS h.dmB b, .seq)

/-- The image of a tile row in memory. -/
def rowImage (t6 : Bool) (r : BitVec 512) : List Byte := if t6 then packT6 (lanesOf r 8 64) else bytesOf r

/-- STT (R248). -/
def execStt (h : Hdr) (t6 : Bool) (b : MReg) (a : SPair) (c : SReg) (imm : Imm) (rows : TileRows) (s : State) :
    Host.Outcome State Fault Refusal :=
  s.run h fun s => do
    let t := s.ts s.who
    let x ← t.readP a
    let tile ← (s.core s.who.core).readTile b (if t6 then some .t6 else none)
    let pitch ← t.readS c
    pitchOk pitch
    let n := rows.cnt.val + 1
    let ps := rowAddrs x imm pitch n
    let xs := ps.zipIdx.map fun e => (e.1, rowImage t6 (tile.row (rows.row.val + e.2)))
    aligned 8 ps
    s.access s.who (xs.map fun e => (e.1, e.2.length))
    .ok ((s.storeAll s.who xs).modTs s.who fun t => (t.killP h.dmA a).killS h.dmC c, .seq)

end LoadsAndStores

section Atomics

/-- LAMO (R251): one indivisible read, combination and write; the bank of a pair's shadow combines its own word (R473). -/
def execLamo (h : Hdr) (op : BankOp) (el : Elem) (d : Option SReg) (a : SPair) (b : SReg) (imm : Imm) (s : State) :
    Host.Outcome State Fault Refusal :=
  s.run h fun s => do
    let t := s.ts s.who
    let x ← t.readP a
    let new ← t.readElem el b
    match d with
    | some r => t.freeElem el r
    | none => .ok ()
    let p := ea x imm 0
    let n := el.width / 8
    aligned n [p]
    s.access s.who [(p, n)]
    let old ← if d.isSome then s.loadBytes s.who p.toNat n
      else if op = .write then .ok (List.replicate n (0 : Byte))
      else s.bankBytes s.who p.toNat n
    let res (old : List Byte) : List Byte := leBytes n (bankResult op el (leNat old) new.toNat)
    let other := res ((s.core s.who.core).twinBytes p.toNat n)
    let s := (s.storeBytes s.who p.toNat (res old)).modCore s.who.core fun k => k.putTwin p.toNat other
    .ok (s.modTs s.who fun t =>
      let t := (t.killP h.dmA a).killElem h.dmB el b
      match d with
      | some r => t.putElem el r (leNat old)
      | none => t, .seq)

/-- LFENCE: every earlier access of the thread set has already been performed here (R47, R252). -/
def execLfence (h : Hdr) (s : State) : Host.Outcome State Fault Refusal := s.runT h fun t => .ok t

end Atomics

section Windows

/-- PROT of a window or subscription instruction (R255). -/
def windowProt (reason : Nat) (v : Int) : Stop :=
  .trap .prot (BitVec.ofNat 32 (reason * 2 ^ 28 + (v % 2 ^ 28).toNat))

/-- The range of a core's store that a thread set may name (R49). -/
def State.windowBounds (s : State) (w : Who) : Int × Int :=
  let t := s.ts w
  (max 0 (t.pwbase.toNat : Int), min (storeTop w.core : Int) t.pwlim.toNat)

/-- The checks of LWOPEN (R52, R255). -/
def State.openCheck (s : State) (base : Int) (len : Nat) : Except Stop Unit :=
  let b := s.windowBounds s.who
  let ws := (s.core s.who.core).shared.windows
  match outside b.1 b.2 base (base + (max len 1 : Nat) - 1) with
  | some a => .error (windowProt 0 a)
  | none =>
    if base % 8 ≠ 0 ∨ len % 8 ≠ 0 ∨ len = 0 ∨ Config.lsTop < len then .error (windowProt 1 base)
    else
      match ws.foldl (fun acc w =>
          if base < w.base + w.len ∧ (w.base : Int) < base + len then minOpt acc (some (w.base : Int)) else acc) none with
      | some o => .error (windowProt 2 o)
      | none => if Config.windowEntries ≤ ws.length then .error (windowProt 3 0) else .ok ()

/-- LWOPEN (R253). -/
def execLwopen (h : Hdr) (now log : Bool) (a : SPair) (b : SReg) (imm : Imm) (s : State) :
    Host.Outcome State Fault Refusal :=
  s.run h fun s => do
    let t := s.ts s.who
    let x ← t.readP a
    let len ← t.readS b
    let base := ea x imm 0
    s.openCheck base len.toNat
    let step := (s.core s.who.core).sstep
    let w : Window := { base := base.toNat, len := len.toNat, arm := if now then step else step + 1, log := log }
    let s := s.modShared s.who.core fun k => { k with windows := k.windows ++ [w] }
    .ok (s.modTs s.who fun t => (t.killP h.dmA a).killS h.dmB b, .seq)

/-- The window that LWCLOSE or LWDUE names (R254, R255). -/
def State.namedWindow (s : State) (base : Int) : Except Stop Window :=
  let b := s.windowBounds s.who
  match (s.core s.who.core).shared.windows.find? fun w => (w.base : Int) == base with
  | none => .error (windowProt 4 base)
  | some w => if b.1 ≤ w.base ∧ (w.base : Int) + w.len ≤ b.2 then .ok w else .error (windowProt 4 base)

/-- Change the window at a base; `none` frees it. -/
def Shared.modWindow (k : Shared) (base : Nat) (f : Window → Option Window) : Shared :=
  { k with windows := k.windows.filterMap fun w => if w.base = base then f w else some w }

/-- LWCLOSE (R55, R254). -/
def execLwclose (h : Hdr) (a : SPair) (imm : Imm) (s : State) : Host.Outcome State Fault Refusal :=
  s.run h fun s => do
    let t := s.ts s.who
    let x ← t.readP a
    let w ← s.namedWindow (ea x imm 0)
    if w.state = .closing then .error (windowProt 5 w.base)
    else
      let s := s.modShared s.who.core fun k => k.modWindow w.base fun w =>
        if w.state = .readable then none else some { w with state := .closing, expect := none }
      .ok (s.modTs s.who fun t => t.killP h.dmA a, .seq)

/-- LWDUE (R55, R254). -/
def execLwdue (h : Hdr) (a : SPair) (b : SReg) (imm : Imm) (s : State) : Host.Outcome State Fault Refusal :=
  s.run h fun s => do
    let t := s.ts s.who
    let x ← t.readP a
    let e ← t.readS b
    let w ← s.namedWindow (ea x imm 0)
    let n := e.toNat
    if w.state ≠ .accepting ∨ n < 8 ∨ Config.lsTop < n ∨ n % 8 ≠ 0 ∨ n < w.count then .error (windowProt 5 w.base)
    else
      let s := s.modShared s.who.core fun k => k.modWindow w.base fun w =>
        some { w with expect := some n, state := if w.count = n then .complete else .due }
      .ok (s.modTs s.who fun t => (t.killP h.dmA a).killS h.dmB b, .seq)

end Windows

section BarrierAndTimelines

/-- BAR (R259): the thread set or task waits until the release reaches it. -/
def execBar (h : Hdr) (s : State) : Host.Outcome State Fault Refusal :=
  s.run h fun s => if (s.ts s.who).inh then .error (.trap .illegal 5) else .error (.hold .atBar)

/-- Has arrived or retired, or was not started (R261). -/
def ThreadSet.arrivedOrRetired (t : ThreadSet) : Bool := t.run == .atBar || t.run == .retired || t.run == .idle

/-- The word of BARQ (R261). On a memory core the ARR bit of a thread set that holds no task is set, also where the task it had has
parked or passed the set on (DESIGN CHOICE, log entry 75: the rule names only sets that were not started). -/
def State.barqWord (s : State) : Word :=
  let k := s.core s.who.core
  let t := s.ts s.who
  if s.who.core.isMemory then
    let bit (i : Nat) : Nat :=
      match k.running.toList.getD i none with
      | none => 2 ^ i
      | some slot => if (k.ts.toList.getD slot { }).arrivedOrRetired then 2 ^ i else 0
    let out := (t.sends.filter fun o => o.left != 0).length
    BitVec.ofNat 32 (min 255 out * 2 ^ 8 + bit 0 + bit 1)
  else
    let due := (k.shared.windows.filter fun w => w.state == .due).length
    let out := (t.sends.filter fun o => !o.join).length
    let bit (i : Nat) : Nat := if (k.ts.toList.getD i { }).arrivedOrRetired then 2 ^ i else 0
    BitVec.ofNat 32 (due * 2 ^ 16 + out * 2 ^ 8 + bit 0 + bit 1 + bit 2 + bit 3)

/-- BARQ (R261). -/
def execBarq (h : Hdr) (d : SReg) (s : State) : Host.Outcome State Fault Refusal :=
  s.run h fun s => do
    (s.ts s.who).freeS d
    .ok (s.modTs s.who fun t => t.putS d s.barqWord, .seq)

/-- CHRON (R262). -/
def execChron (h : Hdr) (d : VReg) (a : SReg) (s : State) : Host.Outcome State Fault Refusal :=
  s.run h fun s => do
    let t := s.ts s.who
    let x ← t.readS a
    t.freeV d
    let c := (s.core s.who.core).shared.chron
    let e := (c.ring.find (x.toNat % Config.chronEntries)).getD 0
    let v : VWord := BitVec.ofNat 256 (e.toNat + c.head * 2 ^ 128 + c.lost * 2 ^ 160)
    .ok (s.modTs s.who fun t => (t.killS h.dmA a).putV d v .ut, .seq)

/-- TLWAIT (R263): the value is reached, or the thread set waits. -/
def execTlwait (h : Hdr) (sel : Fin 8) (a : SPair) (s : State) : Host.Outcome State Fault Refusal :=
  s.run h fun s => do
    let v ← (s.ts s.who).readP a
    if v.toNat ≤ s.timeline s.who sel.val then .ok (s.modTs s.who fun t => (t.killP h.dmA a).reached sel.val v.toNat, .seq)
    else .error (.hold (.atTlwait sel.val v.toNat))

/-- TLREAD (R263). -/
def execTlread (h : Hdr) (sel : Fin 8) (d : SPair) (s : State) : Host.Outcome State Fault Refusal :=
  s.run h fun s => do
    (s.ts s.who).freeP d
    .ok (s.modTs s.who fun t => t.putP d (BitVec.ofNat 64 (s.timeline s.who sel.val)), .seq)

end BarrierAndTimelines

end Machine
end Sys2Proof
end

