-- ==== Sys2Proof/Machine/Mesh.lean ====
section
/-! DEFINITION. The mesh: SEND, SENDOP, SUBSCRIBE, UNSUBSCRIBE and TSCORE (R57 to R62, R256 to R258, R356), the landing
and refusal of packets (R53, R58 to R60, R63 to R67, R493), and the joins of subscriptions (R68 to R71). -/
namespace Sys2Proof.Machine

section Sending

/-- A range of destination bytes is cut into packets of at most 256 bytes, aligned to 256 bytes there (R57): offset and
length of each, from an offset on with so many bytes left. -/
def cutPackets (dst : Nat) : Nat → Nat → Nat → List (Nat × Nat)
  | 0, _, _ => []
  | fuel + 1, off, left =>
    if left = 0 then []
    else
      let n := min left (256 - (dst + off) % 256)
      (off, n) :: cutPackets dst fuel (off + n) (left - n)

/-- The packets of a payload for one destination. -/
def packetsTo (snd : Sender) (number : Nat) (tag : Word) (set x y dst src : Nat) (bs : List Byte) (sendop : Bool)
    (op : BankOp) (el : Elem) (mcast : Bool) : List Packet :=
  (cutPackets dst (bs.length / 256 + 2) 0 bs.length).map fun c =>
    { id := 0, sender := snd, number := number, tag := tag, untagged := false, x := x, y := y, addr := dst + c.1
      bytes := (bs.drop c.1).take c.2, src := src + c.1, sendop := sendop, op := op, el := el, set := set
      mcast := mcast }

/-- Packets enter the mesh in order, each with a name of its own. -/
def State.launch (s : State) (ps : List Packet) : State :=
  ps.foldl (fun s p => { s with packets := s.packets ++ [{ p with id := s.nextId }], nextId := s.nextId + 1 }) s

/-- A send, push, join or score takes the next number of its timeline (R61, R69, R153). -/
def ThreadSet.openSend (t : ThreadSet) (left : Nat) (join : Bool) : ThreadSet :=
  { t with
    sendCount := t.sendCount + 1
    sends := t.sends ++ [{ number := t.sendCount + 1, left := left, returned := false, join := join, xpc := t.pc }] }

/-- Sends that are done at the front of the list move the timeline (R61). -/
def ThreadSet.settleSends (t : ThreadSet) : ThreadSet :=
  let rest := t.sends.dropWhile fun o => o.left == 0
  { t with
    sends := rest
    sendTl := match rest with
      | [] => t.sendCount
      | o :: _ => o.number - 1 }

/-- k packets of a send have landed, or their refusal has returned. -/
def ThreadSet.landed (t : ThreadSet) (number k : Nat) : ThreadSet :=
  let sends := t.sends.map fun (o : OpenSend) => if o.number = number then { o with left := o.left - k } else o
  { t with sends := sends }.settleSends

/-- The thread set or task that sent a packet. -/
def Sender.who (p : Sender) : Who := { core := p.core, t := Fin.ofNat 16 p.ts }

/-- The sender is still there: a task that has retired has given up its slot (R40, R137). -/
def State.senderStays (s : State) (p : Sender) : Bool :=
  !p.core.isMemory ||
    (let x := (s.core p.core).tasks[p.who.t]
     x.state != .free && x.gang == p.gang)

/-- k packets of a send have landed or been answered for, at their sender (R61). -/
def State.landedAt (s : State) (p : Sender) (number k : Nat) : State :=
  if s.senderStays p then s.modTs p.who fun t => t.landed number k
  else s.modGang p.gang fun g => { g with
    lateSends := (g.lateSends.map fun (e : CoreId × Nat × OpenSend) =>
      if e.1 = p.core ∧ e.2.1 = p.ts ∧ e.2.2.number = number then (e.1, e.2.1, { e.2.2 with left := e.2.2.left - k })
      else e).filter fun e => e.2.2.left != 0 }

/-- The open send that a packet belongs to. -/
def State.sendOf (s : State) (p : Sender) (number : Nat) : Option OpenSend :=
  if s.senderStays p then (s.ts p.who).sends.find? fun o => o.number == number
  else ((s.gang p.gang).elim [] (·.lateSends)).findSome? fun e =>
    if e.1 = p.core ∧ e.2.1 = p.ts ∧ e.2.2.number = number then some e.2.2 else none

/-- SENDREFUSED reaches the sender; one that has retired cannot take it (R40, R60). -/
def State.sendRefused (s : State) (p : Sender) (xpc xval : Word) : State :=
  if s.senderStays p then s.asyncTrap p.who { cause := .sendrefused, xpc := xpc, xval := xval }
  else s.programFault p.gang .sendrefused xpc xval false

/-- The sender of what a thread set or task issues. -/
def State.senderOf (s : State) (w : Who) : Sender := { core := w.core, ts := w.t.val, gang := (s.gangId w).getD 0 }

/-- The northwest core that GPOS counts from: the gang's, or its tournament region's (R22, R162). -/
def State.gangOrigin (s : State) (g : Gang) : Nat × Nat :=
  match g.tour.bind s.tours.find with
  | some t => (t.ox, t.oy)
  | none => (g.ox, g.oy)

/-- The package position of a core named in the coordinates of GPOS, where it lies in the gang or rival (R256). -/
def State.coreNamed (s : State) (w : Who) (col row : Nat) : Option (Nat × Nat) :=
  (s.gangOf w).bind fun g =>
    let o := s.gangOrigin g
    let x := o.1 + g.stride * col
    if g.holds x (o.2 + row) then some (x, o.2 + row) else none

/-- A thread set holds 16 sends short of their timeline (R62). -/
def ThreadSet.sendsFull (t : ThreadSet) : Bool := decide (Config.heldSends ≤ (t.sends.filter fun o => !o.join).length)

/-- The shared course of SEND and SENDOP (R256, R257). -/
def State.sendBody (s : State) (h : Hdr) (len : SendLen) (a : SPair) (b c : SReg) (imm : Imm) (sendop : Bool)
    (op : BankOp) (el : Elem) : Except Stop (State × Next) := do
  let w := s.who
  let t := s.ts w
  let x ← t.readP a
  let dst ← t.readS b
  let crd ← t.readS c
  let n ← match len with
    | .imm v => .ok (8 * (v.toNat + 1))
    | .reg d => do
      let v ← t.readS d
      .ok v.toNat
  let src := ea x imm 0
  if n = 0 ∨ n % 8 ≠ 0 ∨ 65536 < n then .error (.trap .prot (BitVec.ofNat 32 n))
  else if src % 8 ≠ 0 then .error (protAt src)
  else if dst.toNat % 8 ≠ 0 then .error (.trap .prot dst)
  else
    let at' := if crd.toNat / 65536 = 0 then s.coreNamed w (crd.toNat % 256) (crd.toNat / 256 % 256) else none
    match at' with
    | none => .error (.trap .prot crd)
    | some (px, py) =>
      s.access w [(src, n)]
      if t.sendsFull then .error (.wait 4)
      else
        let bs ← s.loadBytes w src.toNat n
        let ps := packetsTo (s.senderOf w) (t.sendCount + 1) (s.core w.core).sstep w.t.val px py dst.toNat src.toNat bs
          sendop op el false
        .ok ((s.launch ps).modTs w fun t =>
          (((t.openSend ps.length false).killP h.dmA a).killS h.dmB b).killS h.dmC c, .seq)

/-- SEND (R256). -/
def execSend (h : Hdr) (len : SendLen) (a : SPair) (b c : SReg) (imm : Imm) (s : State) :
    Host.Outcome State Fault Refusal :=
  s.run h fun s => s.sendBody h len a b c imm false .write .b64

/-- SENDOP (R256). -/
def execSendop (h : Hdr) (op : BankOp) (el : Elem) (len : SendLen) (a : SPair) (b c : SReg) (imm : Imm) (s : State) :
    Host.Outcome State Fault Refusal :=
  s.run h fun s => s.sendBody h len a b c imm true op el

/-- TSCORE (R356): one packet to the rival's origin core. -/
def execTscore (h : Hdr) (a : SPair) (s : State) : Host.Outcome State Fault Refusal :=
  s.run h fun s => do
    let w := s.who
    let t := s.ts w
    let v ← t.readP a
    match (s.gangOf w).filter fun g => g.tour.isSome with
    | none => .error (.trap .illegal 7)
    | some g =>
      if t.sendsFull then .error (.wait 4)
      else
        let p : ScorePkt :=
          { id := s.nextId, sender := s.senderOf w, number := t.sendCount + 1, tag := (s.core w.core).sstep
            x := g.ox, y := g.oy, value := v }
        let s := { s with scores := s.scores ++ [p], nextId := s.nextId + 1 }
        .ok (s.modTs w fun t => (t.openSend 1 false).killP h.dmA a, .seq)

end Sending

section Subscriptions

/-- The reasons of R255 for SUBSCRIBE, the lowest that applies. -/
def State.subscribeCheck (s : State) (spec base : Word) : Except Stop Unit :=
  let b := s.windowBounds s.who
  let subs := (s.core s.who.core).shared.subs.filter fun e => !e.leaving
  let tag := spec.toNat % 65536
  match outside b.1 b.2 base.toNat base.toNat with
  | some a => .error (windowProt 0 a)
  | none =>
    if Config.subscriptionEntries ≤ subs.length then .error (windowProt 6 tag)
    else if subs.any fun e => e.tag == tag then .error (windowProt 7 tag)
    else if spec.toNat / 2 ^ 24 ≠ 0 ∨ base.toNat % 8 ≠ 0 then .error (windowProt 9 spec.toNat)
    else .ok ()

/-- A join or leave packet leaves its core (R69). -/
def State.launchJoin (s : State) (w : Who) (tag stack chan : Nat) (leave : Bool) : State :=
  let t := s.ts w
  let p : JoinPkt :=
    { id := s.nextId, sender := s.senderOf w, number := t.sendCount + 1, tag := tag, stack := stack, chan := chan
      leave := leave }
  { s with joins := s.joins ++ [p], nextId := s.nextId + 1 }.modTs w fun t => t.openSend 1 true

/-- SUBSCRIBE (R68 to R70, R258). -/
def execSubscribe (h : Hdr) (a b : SReg) (s : State) : Host.Outcome State Fault Refusal :=
  s.run h fun s => do
    let t := s.ts s.who
    let spec ← t.readS a
    let base ← t.readS b
    s.subscribeCheck spec base
    let tag := spec.toNat % 65536
    let chan := spec.toNat / 65536 % 32
    let stack := spec.toNat / 2 ^ 21 % 8
    let e : Subscription :=
      { tag := tag, stack := stack, chan := chan, base := base.toNat, active := false, leaving := false }
    let s := s.modShared s.who.core fun q => { q with subs := q.subs ++ [e] }
    .ok ((s.launchJoin s.who tag stack chan false).modTs s.who fun t => (t.killS h.dmA a).killS h.dmB b, .seq)

/-- UNSUBSCRIBE (R68 to R70, R258): an entry in effect stays so until the barrier. -/
def execUnsubscribe (h : Hdr) (a : SReg) (s : State) : Host.Outcome State Fault Refusal :=
  s.run h fun s => do
    let spec ← (s.ts s.who).readS a
    let tag := spec.toNat % 65536
    match (s.core s.who.core).shared.subs.find? fun e => e.tag == tag && !e.leaving with
    | none => .error (windowProt 8 tag)
    | some e =>
      if spec.toNat / 65536 ≠ 0 then .error (windowProt 9 spec.toNat)
      else
        let s := s.modShared s.who.core fun q => { q with subs := q.subs.filterMap fun u =>
          if u.tag = tag ∧ ¬ u.leaving then (if u.active then some { u with leaving := true } else none) else some u }
        .ok ((s.launchJoin s.who tag e.stack e.chan true).modTs s.who fun t => t.killS h.dmA a, .seq)

/-- The port bits that a join sets, router by router from the subscriber on, and whether it has found a full table, which
sends it back; the bits set before that stay (R69, log entry 21). -/
def joinRouters (tag : Nat) (rs : List RouterTag) : List (Nat × Nat × Nat) → List RouterTag × Bool
  | [] => (rs, false)
  | (x, y, port) :: r =>
    match rs.find? fun t => t.x == x && t.y == y && t.tag == tag with
    | some _ =>
      joinRouters tag (rs.map fun t =>
        if t.x = x ∧ t.y = y ∧ t.tag = tag then { t with ports := if t.ports.contains port then t.ports else t.ports ++ [port] }
        else t) r
    | none =>
      if Config.routerTags ≤ (rs.filter fun t => t.x == x && t.y == y).length then (rs, true)
      else joinRouters tag (rs ++ [{ x := x, y := y, tag := tag, ports := [port] }]) r

/-- JOIN_PACKET (R69): a join or leave reaches its memory core's router, or is refused on the way. -/
def execJoinPacket (id : Nat) (s : State) : Host.Outcome State Fault Refusal :=
  match s.joins.find? fun p => p.id == id with
  | none => .next s
  | some p =>
    match p.sender.core with
    | .compute x y =>
      let s1 := { s with joins := s.joins.filter fun q => q.id != id }
      let path := (pushRoute p.stack p.chan x y).reverse
      if p.leave then
        .next ({ s1 with routers := s1.leaveRouters p.tag x y path }.landedAt p.sender p.number 1)
      else
        match joinRouters p.tag s1.routers path with
        | (rs, false) => .next ({ s1 with routers := rs }.landedAt p.sender p.number 1)
        | (rs, true) =>
          let s2 := { s1 with routers := rs }.modShared p.sender.core fun q =>
            { q with subs := q.subs.filter fun u => u.tag != p.tag || u.active }
          let r : RefusalPkt :=
            { id := s2.nextId, sender := p.sender, number := p.number, x := x, y := y
              xval := BitVec.ofNat 32 p.tag, mcast := false, count := 1 }
          .next { s2 with refusals := s2.refusals ++ [r], nextId := s2.nextId + 1 }
    | _ => .next s

end Subscriptions

section Landing

/-- What reaches a core's network port. -/
structure Arriving where
  tag : Option Word
  addr : Nat
  bytes : List Byte
  sendop : Bool
  op : BankOp
  el : Elem
  kind : Nat
  ts : Nat
  sx : Nat
  sy : Nat
  deriving DecidableEq, Repr

/-- The window that accepts an arrival whole (R53, R58). -/
def Core.accepts (k : Core) (a : Arriving) : Option Window :=
  k.shared.windows.find? fun w =>
    decide (w.base ≤ a.addr) && decide (a.addr + a.bytes.length ≤ w.base + w.len)
      && (w.state == .accepting || w.state == .due)
      && (match a.tag with
        | some t => t == w.arm
        | none => true)
      && (match w.expect with
        | some e => decide (w.count + a.bytes.length ≤ e)
        | none => true)

/-- The bits of a chronograph entry (R67); the entry of a plain packet, to which R67 gives no element code, has ELEM 0
(DESIGN CHOICE, log entry 63). -/
def chronWord (a : Arriving) (seq : Nat) (race : Bool) : BitVec 128 :=
  BitVec.ofNat 128
    ((a.tag.elim 0 (·.toNat)) * 2 ^ 96 + (if a.tag.isNone then 2 ^ 95 else 0)
      + (a.bytes.length / 8 - 1) % 32 * 2 ^ 88 + (if a.sendop then a.op.bits else 0) * 2 ^ 84
      + (if a.sendop then a.el.bits else 0) % 8 * 2 ^ 81 + a.addr % 2 ^ 21 * 2 ^ 60 + a.kind % 4 * 2 ^ 58
      + a.ts % 4 * 2 ^ 56 + a.sy % 256 * 2 ^ 48 + a.sx % 256 * 2 ^ 40 + seq % 2 ^ 31 * 2 + (if race then 1 else 0))

/-- The ring takes an entry (R66, R262). -/
def Chron.append (c : Chron) (e : BitVec 128) : Chron :=
  { c with
    ring := c.ring.put c.head e
    head := (c.head + 1) % Config.chronEntries
    lost := if (c.ring.find c.head).isSome then min (c.lost + 1) 0xFFFFFFFF else c.lost }

/-- The port numbers every packet that reaches it (R67). -/
def Core.numberPacket (k : Core) : Core :=
  { k with shared := { k.shared with chron := { k.shared.chron with seq := k.shared.chron.seq + 1 } } }

/-- The new bytes of one 8-byte word under a packet's operation (R63). -/
def combineWord (a : Arriving) (old new : List Byte) : List Byte :=
  if a.sendop then
    let w := a.el.width / 8
    (List.range (8 / w)).flatMap fun i => leBytes w (bankResult a.op a.el (fieldAt old (i * w) w) (fieldAt new (i * w) w))
  else new

/-- An operation of an arrival reads poison in a range: its combination does not take place (R446). -/
def Arriving.meets (a : Arriving) (ps : List Nat) (p n : Nat) : Bool :=
  a.sendop && a.op != .write && !(wordsHit ps p n).isEmpty

/-- A word of an arrival meets poison that its operation reads, of a pair on either core (R446, R473). -/
def Core.poisonMet (k : Core) (a : Arriving) : Bool := a.meets (k.poison ++ k.twinPoison) a.addr a.bytes.length

/-- One word of the arrival does. -/
def Core.wordMet (k : Core) (a : Arriving) (off : Nat) : Bool := a.meets k.poison (a.addr + off) 8

/-- The blocks that an arrival writes (R444). -/
def Core.landBlocks (k : Core) (a : Arriving) : List Nat :=
  (((List.range (a.bytes.length / 8)).filter fun i => !k.wordMet a (8 * i)).map fun i => (a.addr + 8 * i) / 256).eraseDups

/-- One word lands. An operation on a poisoned word does nothing; a WRITE of 4-byte elements leaves the poison. The bank of a
pair's shadow core combines the word that it holds itself (R473). -/
def Core.landWord (k : Core) (a : Arriving) (off : Nat) : Core :=
  let p := a.addr + off
  let new := (a.bytes.drop off).take 8
  let part := a.sendop && a.el.width == 32
  let lead :=
    if k.wordMet a off then k
    else
      let k' := k.putBytes p (combineWord a (k.store.readN p 8) new)
      if part then { k' with poison := k.poison } else k'
  let met := a.meets k.twinPoison p 8
  let kept := if met || part then k.twinPoison else clearPoison k.twinPoison p 8
  ({ lead with twin := lead.twin.map fun (t : Twin) => { t with poison := kept } }).putTwin p
    (if met then k.twinBytes p 8 else combineWord a (k.twinBytes p 8) new)

/-- The bytes of an arrival before it lands are kept for a rollback of the superstep to come (R493), of a pair those of its shadow
too. -/
def Core.keepEarly (k : Core) (a n : Nat) : Core :=
  let new := ((List.range n).map (a + ·)).filter fun p => (k.early.find p).isNone
  { k with
    early := new.foldl (fun e p => e.put p (k.store.read p)) k.early
    twin := k.twin.map fun (t : Twin) =>
      { t with early := (t.bytes.filter fun e => new.contains e.1).foldl (fun m e => m.put e.1 e.2) t.early } }

/-- An arrival belongs to the superstep that the core has yet to enter: its tag is the next one, or the start release has
not reached the core (R29, R34, R493). -/
def Core.isEarly (k : Core) (a : Arriving) : Bool :=
  match a.tag with
  | some t => t == k.sstep + 1 || k.ts[0].run == .idle
  | none => false

/-- The window and the ring after a landing (R55, R65, R66). -/
def Shared.noteLanding (q : Shared) (w : Window) (a : Arriving) (seq : Nat) : Shared :=
  let words := (List.range (a.bytes.length / 8)).map fun i => a.addr / 8 + i
  let race := words.any fun x => w.written.contains x
  let c := if a.sendop || race || w.log then q.chron.append (chronWord a seq race) else q.chron
  { q with
    chron := c
    windows := q.windows.map fun u =>
      if u.base = w.base then
        let n := u.count + a.bytes.length
        { u with
          count := n
          state := if u.expect = some n then .complete else u.state
          written := u.written ++ words.filter fun x => !u.written.contains x }
      else u }

/-- The injected read poison that an arrival's operation meets in the bank (R452, kind 1): which injection, and the word
that reads as poisoned this once. -/
def State.bankInject (s : State) (c : CoreId) (a : Arriving) : Option (Nat × Nat) :=
  if a.sendop && a.op != .write then
    ((s.core c).gang.bind s.gang).bind fun g =>
      (g.readInject s c a.addr a.bytes.length).map fun i => (i, g.injectWord i)
  else none

/-- An accepted arrival lands on a core of a gang: plating, words, window, ring (R55, R63 to R66, R444, R493). -/
def State.land (s : State) (c : CoreId) (a : Arriving) (w : Window) : State :=
  let hit := s.bankInject c a
  let k := s.core c
  let k := hit.elim k fun i => { k with poison := i.2 :: k.poison }
  let seq := k.shared.chron.seq
  let n := a.bytes.length
  let who : Who := { core := c, t := 0 }
  let plated := (k.gang.bind s.gang).elim false fun g => !g.noplate
  let r := if !plated then (k, false)
    else if k.isEarly a then (k.keepEarly a.addr n, false)
    else k.plateFor Config.plateBlocks 0 [0] (k.landBlocks a)
  let bad := k.poisonMet a
  let unit := (wordsHit (k.poison ++ k.twinPoison) a.addr n).foldl min (a.addr + n)
  let at' := k.hitAt c a.addr n
  let k := (List.range (n / 8)).foldl (fun k i => k.landWord a (8 * i)) r.1
  let k := hit.elim k fun i => { k with poison := k.poison.erase i.2 }
  let k := ({ k with shared := k.shared.noteLanding w a seq }).numberPacket
  let s := s.setCore c k
  let s := if bad then s.consumeAt who at' .poison (hit.map (·.1)) unit else s
  match k.gang with
  | some g => if r.2 || a.tag.isNone then s.makeNonroll g else s
  | none => s

end Landing

section Packets

/-- The packet is the first in the mesh from its thread set to its core, score packets among them (R59, R153, R165). -/
def State.firstInLine (s : State) (snd : Sender) (number x y id : Nat) : Bool :=
  (match s.packets.find? fun q => q.sender == snd && q.x == x && q.y == y with
    | some q => q.id == id || decide (number < q.number)
    | none => true)
    && s.scores.all fun q => !(q.sender == snd && q.x == x && q.y == y && decide (q.number < number))

/-- The bytes that a packet brings: each word as it stood at issue, or as it stands now in the sender's store (R61,
R153). -/
def State.packetBytes (s : State) (p : Packet) : List Byte :=
  let m := (s.core p.sender.core).store
  p.bytes.zipIdx.map fun e =>
    let q := p.src + e.2
    if Config.seesOld s.tick (q / 8) then e.1 else m.read q

def Packet.arriving (s : State) (p : Packet) : Arriving where
  tag := if p.untagged then none else some p.tag
  addr := p.addr
  bytes := s.packetBytes p
  sendop := p.sendop
  op := p.op
  el := p.el
  kind := if p.sender.core.isMemory then 1 else 0
  ts := p.set
  sx := match p.sender.core with
    | .compute x _ => x
    | .memory k _ => k
    | .control _ => 0
  sy := match p.sender.core with
    | .compute _ y => y
    | .memory _ c => c
    | .control _ => 0

/-- A packet is refused: a refusal sets out, or an earlier one of its send at this core stands for it too (R58, R60,
R71). -/
def State.refuse (s : State) (p : Packet) : State :=
  let same (r : RefusalPkt) : Bool := r.sender == p.sender && r.number == p.number && r.x == p.x && r.y == p.y
  if s.refusals.any same then
    { s with refusals := s.refusals.map fun r => if same r then { r with count := r.count + 1 } else r }
  else
    let xval := if p.mcast then BitVec.ofNat 32 (p.y * 256 + p.x) else BitVec.ofNat 32 p.addr
    { s with
      refusals := s.refusals ++ [{ id := s.nextId, sender := p.sender, number := p.number, x := p.x, y := p.y
                                   xval := xval, mcast := p.mcast, count := 1 }]
      nextId := s.nextId + 1 }

/-- A gang whose units work on: no error waits for the ladder. -/
def State.liveGang (s : State) (g : Nat) : Bool := (s.gang g).elim false fun x => x.err.isNone

/-- PACKET_ARRIVAL (R58): the packet lands whole, or none of it. -/
def execPacketArrival (id : Nat) (s : State) : Host.Outcome State Fault Refusal :=
  match s.packets.find? fun p => p.id == id with
  | none => .next s
  | some p =>
    if (p.untagged || s.liveGang p.sender.gang) && s.firstInLine p.sender p.number p.x p.y id then
      let c : CoreId := .compute p.x p.y
      let a := p.arriving s
      let s := { s with packets := s.packets.filter fun q => q.id != id }
      let again := s.refusals.any fun r => r.sender == p.sender && r.number == p.number && r.x == p.x && r.y == p.y
      match if again then none else (s.core c).accepts a with
      | some win => .next ((s.land c a win).landedAt p.sender p.number 1)
      | none => .next ((s.modCore c Core.numberPacket).refuse p)
    else .next s

/-- A refusal has returned: what is still on the way to that core counts as landed with it, and SENDREFUSED is raised
once for a send, once for each copy of a multicast (R60, R71). -/
def State.refusalBack (s : State) (r : RefusalPkt) : State :=
  let mine (p : Packet) : Bool := p.sender == r.sender && p.number == r.number && p.x == r.x && p.y == r.y
  let n := r.count + (s.packets.filter mine).length
  let o := s.sendOf r.sender r.number
  let s := { s with
    packets := s.packets.filter fun p => !mine p
    refusals := s.refusals.filter fun q => q.id != r.id }
  match o with
  | none => s
  | some o =>
    let s := if s.senderStays r.sender then s.modTs r.sender.who fun t =>
        { t with sends := t.sends.map fun (u : OpenSend) =>
            if u.number = r.number then { u with returned := true } else u }
      else s
    let s := s.landedAt r.sender r.number n
    if o.returned && !r.mcast then s else s.sendRefused r.sender o.xpc r.xval

/-- REFUSAL_RETURN (R60). -/
def execRefusalReturn (id : Nat) (s : State) : Host.Outcome State Fault Refusal :=
  match s.refusals.find? fun r => r.id == id with
  | none => .next s
  | some r => if s.liveGang r.sender.gang then .next (s.refusalBack r) else .next s

/-- SCORE_ARRIVAL (R165): the last value to arrive at the origin core stands; one of the superstep to come is kept apart
from the shadow of this one (R493). -/
def execScoreArrival (id : Nat) (s : State) : Host.Outcome State Fault Refusal :=
  match s.scores.find? fun p => p.id == id with
  | none => .next s
  | some p =>
    let before := s.packets.any fun q =>
      q.sender == p.sender && q.x == p.x && q.y == p.y && decide (q.number < p.number)
    let earlier := s.scores.any fun q => q.sender == p.sender && decide (q.number < p.number)
    if s.liveGang p.sender.gang && !before && !earlier then
      let c : CoreId := .compute p.x p.y
      let s := { s with scores := s.scores.filter fun q => q.id != id }
      let s := s.modCore c fun k =>
        { k with
          earlyScore :=
            if (p.tag = k.sstep + 1 ∨ k.ts[0].run = RunState.idle) ∧ k.earlyScore = none then some k.shared.score
            else k.earlyScore
          shared := { k.shared with score := p.value } }.numberPacket
      .next (s.landedAt p.sender p.number 1)
    else .next s

end Packets

end Sys2Proof.Machine
end

