-- ==== Sys2Proof/Machine/Ladder.lean ====
section
/-! DEFINITION. The region tree's effective values (R411, R412), interrupts and error reports (R454, R475), the teardown
of a fault domain (R450) and device fatal (R451), the departure of network posts (R335, R463), and the commit buffer's
drain (R143 to R151, R439, R446). -/
namespace Sys2Proof.Machine

section Regions

def State.region (s : State) (h : Nat) : Option Region := s.regions.find? fun r => r.handle == h

/-- A node and its ancestors, at most five levels (R412). -/
def State.regionChain (s : State) : Nat → Nat → List Region
  | 0, _ => []
  | n + 1, h =>
    match s.region h with
    | none => []
    | some r => r :: (if r.kind = 0 then [] else s.regionChain n r.parent)

def State.chainOf (s : State) (h : Nat) : List Region := s.regionChain 5 h

/-- The value of the nearest node that sets a field. -/
def nearest (cs : List Region) (bit : Nat) (f : Region → α) (dflt : α) : α :=
  match cs.find? fun r => r.ovr.getLsbD bit with
  | some r => f r
  | none => dflt

def effPrio (cs : List Region) : Nat := nearest cs 0 (·.prio) 0
def effFdom (cs : List Region) : Nat := nearest cs 1 (·.fdom) 0
def effLock (cs : List Region) : Bool := nearest cs 2 (·.lock) false
def effNoplate (cs : List Region) : Bool := nearest cs 4 (·.noplate) false

/-- BLMIN is raised to the parent's effective value; CORES, SLOTS and LIMIT are clamped to it (R412). -/
def effBlmin (cs : List Region) : Nat := cs.foldr (fun r acc => if r.ovr.getLsbD 3 then max r.blmin acc else acc) 1
def effLeast (cs : List Region) (bit : Nat) (f : Region → Nat) : Option Nat :=
  cs.foldr (fun r acc => if r.ovr.getLsbD bit then some (match acc with
    | some v => min (f r) v
    | none => f r) else acc) none

def effCores (cs : List Region) : Nat := (effLeast cs 5 (·.cores)).getD 0
def effSlots (cs : List Region) : Nat := (effLeast cs 6 (·.slots)).getD 0
def effLimit (cs : List Region) : Nat := (effLeast cs 7 (·.limit)).getD 0

end Regions

section Reporting

/-- An MSI-X vector of a function is raised (R454). -/
def State.raise (s : State) (fn v : Nat) : State := { s with irqs := s.irqs ++ [(fn, v)] }

/-- The host interrupt of a queue (R454). -/
def State.raiseQueue (s : State) (ctx q : Nat) : State :=
  match s.ctx ctx with
  | some c => s.raise c.fn (64 + 64 * c.local_ + q)
  | none => s

/-- The 32 bytes of a record (R475). -/
def Report.bytes (r : Report) : List Byte :=
  leBytes 1 r.level ++ leBytes 1 r.src ++ leBytes 2 r.ctx ++ leBytes 2 r.queue ++ leBytes 2 r.whereIs
    ++ leBytes 4 r.sstep.toNat ++ leBytes 4 r.retry ++ leBytes 8 r.addr ++ leBytes 8 r.time

/-- A record goes to a function's response ring, with vector 1 (R454, R475). -/
def State.deliver (s : State) (fn : Nat) (r : Report) : State :=
  { s with answers := s.answers ++ [Answer.report fn r.bytes] }.raise fn 1

/-- An error report goes to function 0, and to the function of the context it names (R475). -/
def State.report (s : State) (r : Report) : State :=
  let r := { r with time := s.picos / 1000 }
  let s := { s with reports := s.reports ++ [r] }.deliver 0 r
  match s.ctx r.ctx with
  | some c => if c.fn = 0 then s else s.deliver c.fn r
  | none => s

def ErrSrc.code : ErrSrc → Nat
  | .checker => 0
  | .vote => 1
  | .parity => 2
  | .residue => 3
  | .lockstep => 4
  | .poison => 5
  | .bank => 10

/-- The report of what a gang consumed. -/
def Gang.report (g : Gang) (level : Nat) : Report where
  level := level
  src := g.err.elim 0 ErrSrc.code
  ctx := g.ctx
  queue := g.q
  whereIs := g.errWhere
  sstep := g.sstep
  retry := min 2 g.retries
  addr := g.errAddr
  time := 0

end Reporting

section Teardown

/-- Records of a ring from one index on. -/
def ringIdx (q : Queue) (from_ n : Nat) : List Nat := (List.range n).map fun i => (from_ + i) % 2 ^ q.log2n

/-- The records from HEAD to TAIL - 1 complete with ERR 14 and no effect, and every hold ends (R427, R450). -/
def Queue.flushAll (q : Queue) : Queue :=
  let n := (q.tail + 2 ^ q.log2n - q.head) % 2 ^ q.log2n
  let idxs := ringIdx q q.head n
  let slots := q.slots ++ idxs.map fun i => { idx := i, kind := 0, done := true, hold := false }
  let slots := freeSlots (slots.map fun (x : Slot) => { x with hold := false })
  { q with
    head := q.tail
    slots := slots
    free := match slots with
      | [] => q.tail
      | x :: _ => x.idx
    done := q.done + n
    err := if n = 0 then q.err else 14
    errIdx := match idxs.getLast? with
      | some i => i
      | none => q.errIdx
    iters := []
    skip := 0
    checked := false
    counted := false
    waitTl := none
    passes := 0
    turn64 := 0
    resv := none }

/-- Gangs of a queue that have not started lose their reservation; their record is still at the head (R416, R430). -/
def State.dropStarting (s : State) (ctx q : Nat) : State :=
  let gs := s.gangs.filter fun e => e.2.ctx == ctx && e.2.q == q && e.2.phase == .starting
  let s := gs.foldl (fun s e => s.releaseGang e.2 e.1) s
  s.keepTours fun i _ => !(gs.any fun e => e.2.tour == some i)

/-- One queue of a torn fault domain (R450): a gang whose sweep has released has run, and its record completes (R430). -/
def State.tearQueue (s : State) (ctx q : Nat) : State :=
  if (s.queue ctx q).any fun x => x.state == .torn then s
  else
    let s := s.dropStarting ctx q
    let idxs := ((s.gangs.filter fun e => e.2.ctx == ctx && e.2.q == q && e.2.phase != .retiring).map fun e => e.2.idx).eraseDups
    let s := idxs.foldl (fun s i => s.killRecord ctx q i 10 0 0 0 false) s
    (s.modQueue ctx q fun x => { x.flushAll with state := .torn }).raiseQueue ctx q

/-- The queues of a fault domain: the queue, its group, or its context (R411, R450). -/
def State.domain (s : State) (ctx q fdom : Nat) : List Nat :=
  match s.ctx ctx with
  | none => []
  | some c =>
    match fdom with
    | 0 => [q]
    | 1 =>
      let g := (c.queues.find q).map (·.group)
      (c.queues.filter fun e => some e.2.group == g).map (·.1)
    | _ => c.queues.map (·.1)

/-- A teardown (R448 level 3, R450). -/
def State.teardown (s : State) (ctx q fdom : Nat) : State :=
  let s := { s with devCounters := { s.devCounters with l3teardown := sat64 s.devCounters.l3teardown } }
  (s.domain ctx q fdom).foldl (fun s q => s.tearQueue ctx q) s

/-- An error that no gang can be pinned for, at a place that a report can name, tears down the domain of the queue behind the access
(R448, R475). -/
def State.unpinnedAt (s : State) (ctx q src addr whereIs : Nat) : State :=
  let cs := s.chainOf ((s.queue ctx q).elim 0 (·.group))
  let s := if src = 5 then { s with devCounters := { s.devCounters with poisoncons := sat64 s.devCounters.poisoncons } }
    else s
  let s := s.report
    { level := 3, src := src, ctx := ctx, queue := q, whereIs := whereIs, sstep := 0, retry := 0, addr := addr, time := 0 }
  s.teardown ctx q (effFdom cs)

/-- The same, at no core. -/
def State.unpinned (s : State) (ctx q src addr : Nat) : State := s.unpinnedAt ctx q src addr 0xFFFF

/-- The record of a gang that device fatal ends in its run completes with ERR 10 (R430). -/
def Queue.fatalRecord (x : Queue) (idx : Nat) : Queue :=
  { x.fail idx 10 with xcause := 0, xpc := 0, xval := 0, handlerFail := false }

/-- Device fatal (R451): every gang ends without a drain, every queue is torn down, transfers are abandoned, a start that runs is
given up, and every function is told (R454). -/
def State.fatal (s : State) (src detail addr : Nat) : State :=
  let ran := ((s.gangs.filter fun e => e.2.phase == .running).map fun e => (e.2.ctx, e.2.q, e.2.idx)).eraseDups
  let s := ran.foldl (fun s r => s.modQueue r.1 r.2.1 fun x => x.fatalRecord r.2.2) s
  let s := s.gangs.foldl (fun (s : State) (e : Nat × Gang) =>
    let g := e.2
    (s.leaveCores g e.1).killTasks g) s
  let s := ({ s with memory := s.memory.map fun (e : Nat × Core) => (e.1, { e.2 with commit := [] }) } : State).keepTours
    fun _ _ => false
  { s with
    gangs := [], packets := [], refusals := [], scores := [], joins := [], copies := [], overlays := []
    qposts := [], deferred := [], wire := [], ckOut := []
    contexts := s.contexts.map fun (e : Nat × Context) => (e.1, { e.2 with
      posts := []
      inbound := []
      queues := e.2.queues.map fun (x : Nat × Queue) => (x.1, { x.2 with state := .torn, waitTl := none, resv := none }) })
    devClass := .fatal
    devDetail := detail
    starting := none
    devCounters := { s.devCounters with l4fatal := sat64 s.devCounters.l4fatal }
    irqs := s.irqs ++ (List.range 31).map fun f => (f + 1, 1) }.report
      { level := 4, src := src, ctx := 0xFFFF, queue := 0xFFFF, whereIs := 0xFFFF, sstep := 0, retry := 0, addr := addr, time := 0 }

end Teardown

section PostsLeave

/-- Fewer bytes than a packet may carry (R458): a message cut into packets of at most 4,096 bytes. -/
def netPackets : Nat → Nat → List Byte → List (Nat × List Byte)
  | 0, _, _ => []
  | fuel + 1, off, bs =>
    if bs.isEmpty then [] else (off, bs.take 4096) :: netPackets fuel (off + 4096) (bs.drop 4096)

/-- The packets of a post as they leave the device. -/
def Post.wirePkts (p : Post) (ctx : Nat) : List WirePkt :=
  let parts := if p.opc = 2 then [(0, [])] else netPackets (p.src.length / 4096 + 1) 0 p.src
  parts.zipIdx.map fun e =>
    { ctx := ctx, peer := p.peer, number := p.number, seq := e.2, opc := p.opc, aop := p.aop, elem := p.elem
      rkey := p.rkey, roff := p.roff + e.1.1, bytes := e.1.2, opnd := p.opnd, rcnt := p.rcnt, total := p.len }

/-- The launch record behind a post still runs: its gang is there, or its tournament (R465). -/
def State.recordRuns (s : State) (gang tour : Option Nat) : Bool :=
  (gang.bind s.gang).isSome || (tour.bind s.tours.find).isSome

/-- A post has failed (R461, R463, R465): where its launch record has completed, its queue records error 15. -/
def State.failPost (s : State) (ctx : Nat) (p : Post) (lasterr : Nat) : State :=
  let s := s.endPost ctx p false lasterr
  let s := { s with wire := s.wire.filter fun w => !(w.ctx == ctx && w.number == p.number) }
  if s.recordRuns (some p.gang) p.tour then s
  else s.modQueue ctx p.q fun q => { q with err := 15, errIdx := p.idx }

/-- A released post whose source bytes the engine has read leaves; one whose peer lies outside the table fails (R335,
R459, LASTERR 8). -/
def State.depart (s : State) (ctx : Nat) (p : Post) : State :=
  if p.released && p.read then
    match (s.ctx ctx).bind fun c => c.peers.find p.peer with
    | none => s.failPost ctx p 8
    | some _ => { s with wire := s.wire ++ p.wirePkts ctx }
  else s

/-- The walk for an address meets an error (R435, R446). -/
def State.walkBroken (s : State) (ctx gva : Nat) : Bool := (s.ctx ctx).any fun c => c.walk gva == .broken

/-- A queue record that QPOST accepted reaches its ring (R335, R336), where it can be written: else it waits, and those of
its queue behind it (R143, R442); a torn-down queue completes it with ERR 14 (R450), and a walk error tears it down (R448). -/
def State.appendRecord (s : State) (p : QPost) : State :=
  match s.queue p.ctx p.q with
  | none => s
  | some q =>
    let a := q.ring + 64 * q.tail
    let behind := s.deferred.any fun d =>
      match d with
      | .record x => x.ctx == p.ctx && x.q == p.q
      | .finish _ _ _ _ _ | .tear _ _ _ _ => false
    if behind || !s.engineReady p.ctx a 64 then { s with deferred := s.deferred ++ [Deferred.record p] }
    else if s.walkBroken p.ctx a then s.unpinned p.ctx p.q 6 a
    else
      (s.engineWrite p.ctx a p.record).modQueue p.ctx p.q fun q =>
        let q := { q with tail := (q.tail + 1) % 2 ^ q.log2n }
        if q.state = .torn then q.flushAll else q

/-- What engines have still to write is written as far as it can be, and what they met at a counter costs its queue's domain
(R448). -/
def State.settleDeferred (s : State) : State :=
  s.deferred.foldl (fun s d =>
    match d with
    | .record p => s.appendRecord p
    | .finish ctx number counter ok lasterr => s.finish ctx number counter ok lasterr
    | .tear ctx q src addr => s.unpinned ctx q src addr) { s with deferred := [] }

/-- Posts of different posters are appended in an order that is not specified (R336): a free choice takes the next
poster, each poster's own posts in order. -/
def mergePosts (tick : Nat) : Nat → List QPost → List QPost
  | 0, _ => []
  | n + 1, ps =>
    let firsts := ps.filter fun p =>
      (ps.find? fun q => q.poster == p.poster && q.ts == p.ts).any fun q => q.id == p.id
    match (firsts.zipIdx.find? fun e => Config.seesOld tick (n * 4096 + e.2)).map (·.1) <|> firsts.head? with
    | none => []
    | some p => p :: mergePosts tick n (ps.filter fun q => q.id != p.id)

/-- POST_RELEASE: the posts of a gang's ending superstep are released (R335). -/
def State.releasePosts (s : State) (gid : Nat) (g : Gang) : State :=
  let mine := s.qposts.filter fun p => p.gang == gid
  let s := { s with qposts := s.qposts.filter fun p => p.gang != gid }
  let s := (mergePosts s.tick mine.length mine).foldl (fun s p => s.appendRecord p) s
  match s.ctx g.ctx with
  | none => s
  | some c =>
    let nw := c.posts.filter fun p => p.gang == gid && !p.released
    let s := s.modCtx g.ctx fun c => { c with
      posts := c.posts.map fun (p : Post) => if p.gang = gid then { p with released := true } else p }
    nw.foldl (fun s p => s.depart g.ctx { p with released := true }) s

end PostsLeave

section Drain

/-- The table of a level for an address exists, and lies behind the tables that the context has (R434). -/
def Context.newTable (c : Context) (level gva : Nat) : Context :=
  if c.tables.any fun t => t.1 == tableKey level gva then c
  else { c with tables := c.tables ++ [(tableKey level gva, c.root + Config.tableBytes * c.tables.length)] }

/-- The address of a table. -/
def Context.tableAt (c : Context) (level gva : Nat) : Nat :=
  ((c.tables.find? fun t => t.1 == tableKey level gva).map (·.2)).getD 0

/-- The tables above a leaf exist, and each entry on the way names the next one (R434, R435). -/
def Context.withTables (c : Context) (level gva : Nat) : Context :=
  ([4, 3, 2, 1].filter fun l => decide (level < l)).foldl (fun c l =>
    let c := c.newTable (l - 1) gva
    if pteV (c.pte l gva) then c else c.setPte l gva (BitVec.ofNat 64 (c.tableAt (l - 1) gva + 1))) (c.newTable 4 gva)

/-- A superstep is not after another one (R34: modulo 2^32). -/
def notAfter (a b : Word) : Bool := decide ((b - a).toNat < 2 ^ 31)

/-- An entry goes before another one where both are on their way to memory: of two that barriers have committed, one that
the earlier barrier did or the same one; before a store that is written early, every committed one and those of its gang. -/
def CommitEntry.goesBefore (x e : CommitEntry) : Bool :=
  if e.draining then x.draining && decide (x.order ≤ e.order) else x.draining || x.gang == e.gang

/-- What lies before an entry in its buffer holds it back (R143, R148): an entry for the same line, a release point, and
for a release point everything. An entry of a gang whose barrier has not completed holds nothing back that a barrier has
committed, since it goes nowhere before that barrier (DEDUCED, log entry 66). -/
def Core.drainHeld (k : Core) (e : CommitEntry) : Bool :=
  ((k.commit.takeWhile fun x => x.id != e.id).filter fun x => x.goesBefore e).any fun x =>
    (x.ctx == e.ctx && x.line == e.line && !x.mask.isEmpty) || x.kind == .release || e.kind == .release

/-- An entry may not go to memory yet (R143, R145, R148, R151): its buffer holds it back, or a byte of it waits, as any access
does, for an entry of another buffer that an earlier barrier has committed, or that has locked the line. -/
def State.entryHeld (s : State) (c : CoreId) (e : CommitEntry) : Bool :=
  (s.core c).drainHeld e
    || (let mine := s.entryBytes e
        s.memory.any fun m => m.2.commit.any fun y =>
          y.id != e.id && y.draining && (!e.draining || y.locked || decide (y.order < e.order))
            && (s.entryBytes y).any mine.contains)

/-- Bytes that an access has still to read, of those that a store of the same task is about to write, it reads first. -/
def State.readFirst (s : State) (ctx gva : Nat) (own : List (Option Byte)) (mask : List Nat) : List (Option Byte) :=
  own.zipIdx.map fun e =>
    if e.1.isNone && mask.contains (gva + e.2) then s.globalByte ctx (gva + e.2) else e.1

/-- Loads and stores of one task to one byte take effect in program order (R142): what a task issued no later than the
superstep of a store has its bytes before the store is performed. -/
def State.loadsBefore (s : State) (w : Who) (ctx : Nat) (step : Word) (mask : List Nat) : State :=
  s.modTs w fun t => { t with
    answers := t.answers.map fun (a : PendGlobal) =>
      if notAfter a.step step then { a with own := s.readFirst ctx a.gva a.own mask } else a
    loads := t.loads.map fun (l : BlockLoad) =>
      if !l.landed && notAfter l.step step then { l with own := s.readFirst ctx l.gva l.own mask } else l }

/-- The bytes of an entry go to memory. -/
def State.drainBytes (s : State) (e : CommitEntry) : State :=
  if e.mask.length = 64 then s.globalWrite e.ctx e.line (e.bytes.readN e.line 64)
  else e.mask.foldl (fun s a => s.globalWrite e.ctx a [e.bytes.read a]) s

/-- A deferred atomic is performed (R147). -/
def State.drainAtom (s : State) (e : CommitEntry) (op : BankOp) (el : Elem) (opnd : DWord) : State :=
  let a := e.mask.headD e.line
  let n := el.width / 8
  let old := leNat ((List.range n).map fun i => (s.globalByte e.ctx (a + i)).getD 0)
  s.globalWrite e.ctx a (leBytes n (bankResult op el old opnd.toNat))

/-- The task that a commit-buffer entry came from still has its slot. -/
def State.entryTask (s : State) (c : CoreId) (e : CommitEntry) : Bool :=
  (s.core c).tasks.toList.zipIdx.any fun x => x.1.state != .free && x.1.gang == e.gang && x.2 == e.slot

/-- An entry leaves its buffer for global memory, where a line of a replicated page is put right first (R440); poison that a
deferred atomic reads, or a walk that ends in error, is an error of the queue behind the gang (R448). `none` while its page is
away or migrates (R442). -/
def State.performEntry (s : State) (c : CoreId) (e : CommitEntry) : Option State :=
  let gone := s.modCore c fun k => { k with commit := k.commit.filter fun x => x.id != e.id }
  match s.ctx e.ctx with
  | none => some gone
  | some x =>
    if e.mask.isEmpty then some gone
    else
      match x.walk e.line with
      | .absent => none
      | .broken => some (gone.unpinnedAt e.ctx e.q 6 e.line (coreWhere c))
      | .leaf _ p =>
        if pteMig p then none
        else
          let s := (gone.repair e.ctx e.line 64).collapse e.ctx e.line
          let s := if s.entryTask c e then s.loadsBefore { core := c, t := Fin.ofNat 16 e.slot } e.ctx e.step e.mask else s
          match e.kind with
          | .atom op el v =>
            let a := e.mask.headD e.line
            if s.globalPoison e.ctx a (el.width / 8) then
              some (s.unpinnedAt e.ctx e.q 5 (s.poisonUnit e.ctx a (el.width / 8)) (coreWhere c))
            else some (s.drainAtom e op el v)
          | _ => some (s.drainBytes e)

/-- Every entry of a gang's finished supersteps has drained: its tasks' commit timelines, which count them in 64 bits, say
so (R143, R157). -/
def State.settleCommit (s : State) (gid : Nat) : State :=
  match s.gang gid with
  | none => s
  | some g =>
    let left := (s.memory.flatMap fun m => m.2.commit).filter fun e => e.gang == gid && e.draining
    let v := left.foldl (fun v e => min v e.epoch) g.epoch
    g.taskWhos.foldl (fun s w => s.modTs w fun t => { t with commitTl := max t.commitTl v }) s

/-- A gang whose sweep has released, and whose buffers have drained, completes its record (R41, R416, R430). -/
def State.finishRetiring (s : State) (gid : Nat) : State :=
  match s.gang gid with
  | none => s
  | some g =>
    let left := s.memory.any fun m => m.2.commit.any fun e => e.gang == gid
    if g.phase = .retiring ∧ ¬ left then
      let s := ({ s with gangs := s.gangs.drop gid } : State).keepTours fun i _ => g.tour != some i
      s.modQueue g.ctx g.q fun q => q.complete g.idx
    else s

/-- The first step of a drain to an update-replicated page: every replica of the line is to be locked (R151). -/
def State.locksFirst (s : State) (e : CommitEntry) : Bool :=
  !e.locked && !e.mask.isEmpty && (match (s.ctx e.ctx).map (Context.walk · e.line) with
    | some (Walk.leaf _ p) => pteKind p == 2 && !pteMig p
    | _ => false)

/-- The replicas of an entry's line are locked. -/
def State.lockEntry (s : State) (c : CoreId) (id : Nat) : State :=
  s.modCore c fun k => { k with commit := k.commit.map fun (x : CommitEntry) =>
    if x.id = id then { x with locked := true } else x }

/-- COMMIT_ENTRY_DRAIN (R143, R151): in one step, or on an update-replicated page in two. -/
def execCommitEntryDrain (stack chan id : Nat) (s : State) : Host.Outcome State Fault Refusal :=
  let c : CoreId := .memory stack chan
  let k := s.core c
  match k.commit.find? fun e => e.id == id with
  | none => .next s
  | some e =>
    if e.draining && !s.entryHeld c e then
      if s.locksFirst e then .next (s.lockEntry c id)
      else match s.performEntry c e with
      | none => .next s
      | some t => .next ((t.settleCommit e.gang).finishRetiring e.gang).settleDeferred
    else .next s

end Drain

end Sys2Proof.Machine
end

