-- ==== Sys2Proof/Machine/Barrier.lean ====
section
/-! DEFINITION. The meridian barrier: arrivals, tokens, completion, commit and release (R31 to R39, R117, R143, R335),
plates and shadows (R444, R493), the retirement sweep (R41), rollback and the ladder (R448 to R450), page supply (R432,
R438) and the watchdog (R430). -/
namespace Sys2Proof.Machine

section Arrival

/-- Every started thread set and every memory task of a gang has retired (R41); once its release has reached every core,
a set that is idle was never started (a retired winner's annexed cores, R170). -/
def State.allRetired (s : State) (g : Gang) : Bool :=
  g.tasks.isEmpty && g.setWhos.all fun w => (s.ts w).run == .retired || (s.ts w).run == .idle

/-- A gang whose barrier can move: it runs, no error waits for the ladder, a round does not hold it. -/
def Gang.barriers (g : Gang) : Bool :=
  g.phase == .running && g.err.isNone
    && (match g.rival with
      | .ordinary | .running | .closing => true
      | _ => false)

/-- The three conditions of R31. -/
def Core.canArrive (k : Core) : Bool :=
  (k.ts.toList.all fun t => t.arrivedOrRetired && t.sends.isEmpty)
    && k.shared.windows.all fun w => !(w.state == .due && w.arm == k.sstep)

/-- CORE_ARRIVAL (R31). -/
def execCoreArrival (x y : Nat) (s : State) : Host.Outcome State Fault Refusal :=
  let c : CoreId := .compute x y
  let k := s.core c
  match k.gang.bind fun i => (s.gang i).map fun g => (i, g) with
  | none => .next s
  | some (_, g) =>
    if g.barriers && !g.rels.contains (c, 0) && !k.arrived && k.canArrive then
      .next (s.modCore c fun k => { k with arrived := true })
    else .next s

/-- The core at a gang position holds its row's token (R32): it has arrived, and the release of the barrier before has reached it. -/
def State.holdsRow (s : State) (g : Gang) (x y : Nat) : Bool :=
  (s.core (g.coreAt x y)).arrived && !g.rels.contains (g.coreAt x y, 0) && (x + 1 == g.w || g.toks.contains (x + 1, y, false))

/-- The core in gang column 0 may pass the column's token on, or complete the barrier (R32). -/
def State.holdsColumn (s : State) (g : Gang) (y : Nat) : Bool :=
  s.holdsRow g 0 y && (y + 1 == g.h || g.toks.contains (0, y + 1, true))

/-- BARRIER_TOKEN (R32): the token of a row or of column 0 is passed on from a gang position. -/
def execBarrierToken (gang x y : Nat) (column : Bool) (s : State) : Host.Outcome State Fault Refusal :=
  match s.gang gang with
  | none => .next s
  | some g =>
    let ok := if column then x == 0 && decide (0 < y) && decide (y < g.h) && s.holdsColumn g y
      else decide (0 < x) && decide (x < g.w) && decide (y < g.h) && s.holdsRow g x y
    if g.barriers && ok && !g.toks.contains (x, y, column) then
      .next (s.modGang gang fun g => { g with toks := g.toks ++ [(x, y, column)] })
    else .next s

/-- MEMORY_TASK_ARRIVAL (R38). -/
def execMemoryTaskArrival (stack chan slot : Nat) (s : State) : Host.Outcome State Fault Refusal :=
  let w : Who := { core := .memory stack chan, t := Fin.ofNat 16 slot }
  match (s.gangId w).bind fun i => (s.gang i).map fun g => (i, g) with
  | none => .next s
  | some (i, g) =>
    let t := s.ts w
    if g.barriers && t.run == .atBar && t.sends.isEmpty && !g.rels.contains (w.core, w.t.val)
        && !g.taskAt.contains (stack, chan, w.t.val) then
      .next (s.modGang i fun g => { g with taskAt := g.taskAt ++ [(stack, chan, w.t.val)] })
    else .next s

end Arrival

section Completion

/-- The entries of a gang's superstep are committed: they drain from now on, behind those that are draining (R143). -/
def State.commitGang (s : State) (gid : Nat) : State :=
  let order := s.nextId
  { s with
    nextId := order + 1
    memory := s.memory.map fun (e : Nat × Core) => (e.1, { e.2 with
      commit := e.2.commit.map fun (c : CommitEntry) =>
        if c.gang = gid ∧ ¬ c.draining then { c with draining := true, order := order } else c }) }

/-- One copy of the record of a line of memory goes wrong (R447, R452). -/
def State.corruptRecord (s : State) (l : Nat) : State :=
  { s with poisonRecords := s.poisonRecords.map fun (e : Copies PoisonUnit) =>
      if e.value = some (.line l) then { e with a := none } else e }

/-- Injections that a release fires in global memory (R452, kinds 3 and 6): the release that begins the superstep, and that
of each repeat while COUNT lasts (DEDUCED, log entry 33). -/
def State.injectMemory (s : State) (gid : Nat) : State :=
  match s.gang gid with
  | none => s
  | some g =>
    let due := g.injects.filter fun i => (i.kind == 3 || i.kind == 6) && decide (0 < i.left) && i.step == g.sstep
    let s := s.modGang gid fun g => { g with
      injects := g.injects.map fun (i : Inject) =>
        if (i.kind = 3 ∨ i.kind = 6) ∧ i.step = g.sstep then { i with left := i.left - 1 } else i }
    due.foldl (fun s i =>
      match (s.ctx g.ctx).bind fun c => c.pa i.addr with
      | some pa => if i.kind = 3 then s.poisonLine (pa / 64) else s.corruptRecord (pa / 64)
      | none => s) s

/-- A rival's allowance for its round, in instructions (R166). -/
def Tour.allowance (t : Tour) : Nat := t.allow0 * 1024 * 2 ^ t.k

/-- The rival is closing, or its count has reached its allowance (R167). -/
def State.closes (s : State) (g : Gang) : Bool :=
  g.rival == .closing || (g.rival == .running && (match g.tour.bind s.tours.find with
    | some t => !t.solo && decide (t.allowance ≤ g.count)
    | none => false))

/-- What a rollback of the superstep to come returns the gang and its tasks to (R444): the tasks' frames as they stand
at the barrier, their plates empty. Slots of tasks that have retired in the superstep that ends may be let again (R42). -/
def State.shadowTasks (s : State) (gid : Nat) : State :=
  match s.gang gid with
  | none => s
  | some g =>
    let s := (s.dropPlates g.shadowTasks).dropPlates g.tasks
    let s := g.taskWhos.foldl (fun s w => s.modCore w.core fun k => { k with
      shadowTs := k.shadowTs.set w.t { k.ts[w.t] with traps := [] } }) s
    s.modGang gid fun g => { g with
      shadowTasks := g.tasks, shadowCount := g.count, shadowRival := g.rival, shadowFinal := g.final }

/-- The cores and tasks that a release has to reach. -/
def Gang.everyone (g : Gang) : List (CoreId × Nat) :=
  (g.rect.map fun c => (c, 0)) ++ g.tasks.map fun t => (CoreId.memory t.1 t.2.1, t.2.2)

/-- The barrier completes: the commit, the posts, the next superstep (R33, R143, R335, R448); a closing rival's release is
withheld (R167), and its posts are released all the same (DESIGN CHOICE, log entry 65). -/
def State.completeBarrier (s : State) (gid : Nat) (g : Gang) : State :=
  let held := s.closes g
  let s := (s.commitGang gid).releasePosts gid g
  let s := s.modGang gid fun g => { g with
    sstep := g.sstep + 1
    epoch := g.epoch + 1
    badLines := []
    toks := []
    taskAt := []
    retries := 0
    nonroll := false
    rival := if held then .held else g.rival
    rels := if held then [] else g.everyone }
  ((s.shadowTasks gid).injectMemory gid).settleCommit gid

/-- BARRIER_COMPLETE (R32, R33). The pushes of tasks that have retired have landed too (R34, R40). -/
def execBarrierComplete (gang : Nat) (s : State) : Host.Outcome State Fault Refusal :=
  match s.gang gang with
  | none => .next s
  | some g =>
    if g.barriers && g.rels.isEmpty && !s.allRetired g && s.holdsColumn g 0 && g.tasks.all g.taskAt.contains
        && g.lateSends.isEmpty then
      .next (s.completeBarrier gang g)
    else .next s

end Completion

section Release

/-- A window at the release of a barrier that ends superstep `old` (R55). -/
def Window.released (w : Window) (old : Word) : Option Window :=
  match w.state with
  | .closing => none
  | .accepting | .complete => if w.arm = old then some { w with state := .readable } else some w
  | _ => some w

/-- The early bytes of windows armed for the superstep that begins (R493). -/
def Core.earlyKept (k : Core) : Table Byte :=
  k.early.filter fun e => k.shared.windows.any fun w =>
    w.arm == k.sstep && w.state != .readable && decide (w.base ≤ e.1) && decide (e.1 < w.base + w.len)

/-- A window as the shadow records it (R493). -/
def Window.shadowed (w : Window) (step : Word) : Window :=
  if w.arm = step ∧ w.state ≠ .readable then
    { w with count := 0, written := [], state := if w.expect.isSome then .due else .accepting }
  else w

/-- Where a pair's shadow core holds other bytes than its leader as the superstep begins, arrivals of it apart (R473, R493). -/
def Twin.take (t : Twin) (early : Table Byte) : Twin :=
  { t with
    shadow := early.foldl (fun m e => match t.early.find e.1 with
      | some b => m.put e.1 b
      | none => m.drop e.1) t.bytes
    early := [] }

/-- The plate and the shadow state are taken (R33, R444, R493): the core, and whether its plate overflows at once. -/
def Core.takePlate (k : Core) : Core × Bool :=
  let early := k.earlyKept
  let m := early.foldl (fun m e => m.write e.1 e.2) k.store
  let blocks := (early.map fun e => e.1 / 256).eraseDups
  ({ k with
      plate := (blocks.take Config.plateBlocks).foldl (fun p b => p.put b (blockBits m b)) []
      shadowTs := k.ts.map fun t => { t with traps := [] }
      shadowFreeze := k.freeze
      shadow := { k.shared with
        windows := k.shared.windows.map fun w => w.shadowed k.sstep
        score := k.earlyScore.getD k.shared.score }
      early := []
      twin := k.twin.map fun t => t.take early
      earlyScore := none },
    decide (Config.plateBlocks < blocks.length))

/-- Poison that an injection puts into a core's store at the release that begins its superstep, and at that of each repeat
while COUNT lasts (R452, kind 2). -/
def State.injectStore (s : State) (gid : Nat) (c : CoreId) : State :=
  match s.gang gid with
  | none => s
  | some g =>
    let here (i : Inject) : Bool := i.kind == 2 && decide (0 < i.left) && i.step == g.sstep
      && (match c with
        | .compute _ _ => i.tgt == 0 && (s.core c).gpos.toNat == i.row * 256 + i.col
        | .memory k n => i.tgt == 1 && k == i.col && n == i.row
        | .control _ => false)
    let ws := (g.injects.filter here).map fun i => i.addr / 8 * 8
    let s := s.modGang gid fun g => { g with
      injects := g.injects.map fun (i : Inject) => if here i then { i with left := i.left - 1 } else i }
    ws.foldl (fun s a => s.poisonWord c a) s

/-- MGANGs that have not joined are cancelled at a release: they finish at once, and ILLEGAL is raised before the next
instruction of their thread set, or is a program fault where it has retired (R40, R116, R117, R260). -/
def State.cancelJoint (s : State) (c : CoreId) : State :=
  ((s.core c).shared.joint.filter fun j => !j.joined).foldl (fun s j =>
    let w : Who := { core := c, t := Fin.ofNat 16 j.ts }
    let s := s.modShared c fun q => q.finishJoint j.number
    match (s.ts w).run with
    | .retired =>
      match s.gangId w with
      | some g => s.programFault g .illegal j.xpc 2 false
      | none => s
    | _ => s.modTs w fun t => { t with traps := t.traps ++ [{ cause := .illegal, xpc := j.xpc, xval := 2 }] }) s

/-- The gang is still there to be released further. -/
def State.goesOn (s : State) (gid : Nat) : Bool :=
  match s.gang gid with
  | some g => g.rival != .faulted
  | none => false

/-- The plate of a core of a gang is taken. -/
def State.plateCore (s : State) (gid : Nat) (c : CoreId) : State :=
  let r := (s.core c).takePlate
  let s := s.setCore c r.1
  let s := if r.2 then s.makeNonroll gid else s
  s.injectStore gid c

/-- At a release a thread set or task takes the body up, once its capsule is native (R390). -/
def State.takeBody (s : State) (w : Who) : State :=
  let n : Bool := (s.capsuleOf w).elim false fun k => k.state == .native
  s.modTs w fun t => { t with native := n }

def State.takeBodies (s : State) (c : CoreId) : State :=
  (List.range 4).foldl (fun s i => s.takeBody { core := c, t := Fin.ofNat 16 i }) s

/-- A BAR retires at the release: a rival counts it once, whether or not the superstep it begins is repeated (R166). -/
def State.countBar (s : State) (gid : Nat) : State :=
  s.modGang gid fun g =>
    if g.rival = .ordinary then g else { g with count := g.count + 1, shadowCount := g.shadowCount + 1 }

/-- The release reaches a compute core: a start, or the end of a superstep in the order of R33. -/
def State.releaseCore (s : State) (gid : Nat) (g : Gang) (c : CoreId) : State :=
  let s := s.modGang gid fun g => { g with rels := g.rels.filter fun e => e != (c, 0) }
  if (s.core c).ts[0].run = .idle then
    let s := s.modCore c fun k => { k with
      ts := k.ts.zipIdx.map fun e => if e.2 < g.sets then { e.1 with run := .ready } else e.1 }
    (s.takeBodies c).plateCore gid c
  else
    if !s.goesOn gid then s
    else
      let s := s.modCore c fun k => { k with
        sstep := k.sstep + 1
        arrived := false
        shared := { k.shared with
          windows := k.shared.windows.filterMap fun w => w.released k.sstep
          subs := (k.shared.subs.filter fun u => !u.leaving).map fun (u : Subscription) => { u with active := true } } }
      let s := (List.range 4).foldl (fun s i =>
        let w : Who := { core := c, t := Fin.ofNat 16 i }
        if (s.ts w).run = .atBar then (s.countBar gid).advance w else s) s
      if s.goesOn gid then (s.takeBodies c).plateCore gid c else s

/-- A task takes a thread set at the start release: the one its record names where that is free (R422), else the other,
else it waits for one (R137). -/
def Core.startTask (k : Core) (slot now : Nat) : Core :=
  let x := k.tasks.toList.getD slot { }
  let free (i : Nat) : Bool := (k.running.toList.getD i (some 0)).isNone
  if free x.set then k.giveSet x.set slot
  else if free (1 - x.set) then k.giveSet (1 - x.set) slot
  else { k with tasks := k.tasks.set! slot { x with state := .ready, since := now } }

/-- The release reaches a memory task (R38, R39). -/
def State.releaseTask (s : State) (gid : Nat) (g : Gang) (w : Who) : State :=
  let s := s.modGang gid fun g => { g with rels := g.rels.filter fun e => e != (w.core, w.t.val) }
  if (s.core w.core).tasks[w.t].state = .resident then
    let s := (s.modTs w fun t => { t with run := .ready }).takeBody w
    let s := s.modCore w.core fun k => k.startTask w.t.val s.now
    let s := s.modCore w.core fun k => { k with shadowTs := k.shadowTs.set w.t k.ts[w.t] }
    s.injectStore gid w.core
  else
    let s := (s.modTs w fun t => { t with sstep := g.sstep }).takeBody w
    let s := if (s.ts w).run = .atBar then (s.rouseTask w).advance w else s
    if s.goesOn gid then s.injectStore gid w.core else s

/-- The core that a release reaches before this one: it goes south along column 0 and east along every row from the corner
core (R28, R33). -/
def Gang.releasedBy (g : Gang) (c : CoreId) : Option CoreId :=
  match c with
  | .compute x y =>
    let i := (x - g.ox) / g.stride
    let j := y - g.oy
    if 0 < i then some (g.coreAt (i - 1) j) else if 0 < j then some (g.coreAt 0 (j - 1)) else none
  | _ => none

/-- The release that repeats a superstep reaches a core or a task (R449, step 5): it may issue again. -/
def State.restartCore (s : State) (gid : Nat) (core : CoreId) (slot : Nat) : State :=
  let s := s.modGang gid fun g =>
    let left := g.rels.filter fun e => e != (core, slot)
    { g with rels := left, restart := !left.isEmpty }
  s.injectStore gid core

/-- BARRIER_RELEASE (R28, R33, R117, R449): the release travels from the corner core and goes to each memory task. At a core it
first cancels what has not joined, then it waits for the joint operations that have. -/
def execBarrierRelease (gang : Nat) (core : CoreId) (slot : Nat) (s : State) : Host.Outcome State Fault Refusal :=
  match s.gang gang with
  | none => .next s
  | some g =>
    if g.phase == .running && g.rels.contains (core, slot) then
      if (g.releasedBy core).any fun c => g.rels.contains (c, 0) then .next s
      else if g.restart then .next (s.restartCore gang core slot)
      else
        match core with
        | .memory _ _ => .next (s.releaseTask gang g { core := core, t := Fin.ofNat 16 slot })
        | _ =>
          let s := s.cancelJoint core
          if s.goesOn gang && (s.core core).shared.joint.any fun j => j.joined then .next s
          else .next (s.releaseCore gang g core)
    else .next s

end Release

section Sweep

/-- Every send, push, join and score packet of a gang has landed. -/
def State.quiet (s : State) (gid : Nat) : Bool :=
  (s.packets.all fun p => p.sender.gang != gid) && (s.refusals.all fun p => p.sender.gang != gid)
    && (s.scores.all fun p => p.sender.gang != gid) && s.joins.all fun p => p.sender.gang != gid

/-- Every engine post of a gang has read its source bytes (R41, R465): a network post its payload, a copy and an overlay
load all that they carry. -/
def State.postsRead (s : State) (g : Gang) (gid : Nat) : Bool :=
  ((s.ctx g.ctx).elim true fun c => c.posts.all fun p => p.gang != gid || p.read)
    && (s.copies.all fun j => j.finished || j.src.isSome || j.gang != some gid)
    && s.overlays.all fun o => o.finished || o.gang != gid

/-- The sweep's release: the last superstep commits, posts are released, windows close, cores and slots are free (R41). -/
def State.sweep (s : State) (gid : Nat) (g : Gang) : State :=
  let s := (s.commitGang gid).releasePosts gid g
  let s := (s.leaveCores g gid).dropPlates g.shadowTasks
  let s := s.modGang gid fun g => { g with
    phase := .retiring, sstep := g.sstep + 1, epoch := g.epoch + 1, toks := [], taskAt := [], shadowTasks := [] }
  s.finishRetiring gid

/-- RETIREMENT_SWEEP (R41, R117): unjoined MGANGs are cancelled, then joined ones waited for; the sweep of a rival waits at its
release (R167). -/
def execRetirementSweep (gang : Nat) (s : State) : Host.Outcome State Fault Refusal :=
  match s.gang gang with
  | none => .next s
  | some g =>
    if g.barriers && g.rels.isEmpty && s.allRetired g && s.quiet gang && s.postsRead g gang then
      let s := g.rect.foldl (fun s c => if s.goesOn gang then s.cancelJoint c else s) s
      if !s.goesOn gang || (g.rect.any fun c => (s.core c).shared.joint.any fun j => j.joined) then .next s
      else if g.rival = .ordinary then .next (s.sweep gang g)
      else .next (s.modGang gang fun g => { g with rival := .heldRetired })
    else .next s

end Sweep

section Rollback

/-- The ring entries of a superstep's early arrivals are void once it is rolled back (R56, R67, R493). -/
def Chron.void (c : Chron) (step : Word) : Chron :=
  { c with ring := c.ring.map fun e =>
      if e.2.extractLsb' 96 32 = step ∧ ¬ e.2.getLsbD 95 then (e.1, e.2 ||| BitVec.ofNat 128 (2 ^ 94)) else e }

/-- Plated blocks are written back whole (R449); that clears poison (R446), of a pair on both cores. -/
def Core.unplate (k : Core) (mine : Nat → Bool) : Core :=
  let r := (k.plate.filter fun e => mine (e.1 / 4096)).foldl (fun (k : Core) e =>
    let a := e.1 % 4096 * 256
    { k with
      store := k.store.writeN a (bytesOf e.2)
      poison := clearPoison k.poison a 256
      twin := k.twin.map fun (t : Twin) => { t with poison := clearPoison t.poison a 256 } }) k
  { r with plate := r.plate.filter fun e => !mine (e.1 / 4096) }

/-- A compute core returns to the barrier that began the superstep (R449), and so does its shadow (R473); its sets enter their
lines again (R194). -/
def Core.rollBack (k : Core) : Core :=
  let sh := { k.shadow with chron := k.shadow.chron.void k.sstep }
  let r := k.unplate fun _ => true
  { r with
    twin := r.twin.map fun (t : Twin) => { t with bytes := t.shadow, early := [] }
    ts := k.shadowTs.map ThreadSet.reenter
    shared := sh
    shadow := sh
    early := []
    earlyScore := none
    freeze := k.shadowFreeze
    arrived := false
    pairHold := false }

/-- A memory task returns there: its frame, and the slot that it gave up where it has retired in the superstep (R42). It enters its
line again (R194). Its commit timeline does not fall (R157, R265). -/
def State.rollTask (s : State) (gid : Nat) (w : Who) : State :=
  let k := s.core w.core
  let holds := (k.setOf w.t.val).isSome
  let s := s.setCore w.core { k.endPair w.t.val with
    ts := k.ts.set w.t { k.shadowTs[w.t].reenter with commitTl := max k.shadowTs[w.t].commitTl k.ts[w.t].commitTl }
    tasks := k.tasks.set w.t { k.tasks[w.t] with
      state := if holds then .running else .ready
      gang := gid
      since := s.now
      faultPages := [] } }
  if (s.ts w).run = .atBar then
    (s.modTs w fun t => { t with sstep := t.sstep + 1 }).advance w
  else s

/-- The lines of a gang's context that a surviving replica can repair are repaired (R440, R449). -/
def State.repairLines (s : State) (ctx : Nat) : State :=
  match s.ctx ctx with
  | none => s
  | some c =>
    let fix (l : Nat) : Bool := c.pt.any fun e =>
      pteLeaf e.2 && pteV e.2 && pteKind e.2 != 0 && pteRmask e.2 != 2 ^ paStack (pteAddr e.2)
        && decide (pteAddr e.2 ≤ l * 64) && decide (l * 64 < pteAddr e.2 + 2 ^ levelShift e.1.1)
    { s with hbmPoison := s.hbmPoison.filter fun l => s.hbmLost.contains l || !fix l }

/-- A gang's superstep is rolled back; a release from its corner core begins it again (R449, R265). -/
def State.rollBack (s : State) (gid : Nat) (g : Gang) : State :=
  let s := s.report (g.report 2)
  let s := { s with devCounters := { s.devCounters with l2rollback := sat64 s.devCounters.l2rollback } }
  let s := s.dropPackets gid
  let s := { s with qposts := s.qposts.filter fun p => p.gang != gid }
  let s := s.discardPosts g.ctx gid
  let s := s.dropCommits gid
  let s := g.rect.foldl (fun s c => s.modCore c Core.rollBack) s
  let ws := g.shadowTasks.map fun t => ({ core := .memory t.1 t.2.1, t := Fin.ofNat 16 t.2.2 } : Who)
  let s := ws.foldl (fun s w => s.modCore w.core fun k => k.unplate fun i =>
    ws.any fun v => v.core == w.core && v.t.val == i) s
  let s := s.modGang gid fun g => { g with
    err := none
    lost := false
    retries := g.retries + 1
    toks := []
    taskAt := []
    lateSends := []
    tasks := g.shadowTasks
    count := g.shadowCount
    rival := g.shadowRival
    final := g.shadowFinal }
  let s := ws.foldl (fun s w => if s.goesOn gid then s.rollTask gid w else s) s
  let s := s.modGang gid fun g => { g with rels := g.everyone, restart := true }
  (((s.repairLines g.ctx).injectMemory gid).settleCommit gid)

/-- A gang whose superstep a rollback can repeat: a rival, only while it is live (R168). -/
def Gang.rollable (g : Gang) : Bool := g.rival == .ordinary || g.rival == .running || g.rival == .closing

/-- SUPERSTEP_ROLLBACK (R448, R449): the ladder's answer to what a gang has consumed, once the release under way has reached every
core: a rollback while the superstep can be rolled back and has been retried fewer than two times, else the teardown of its fault
domain; at once, where a committed superstep is lost. -/
def execSuperstepRollback (gang : Nat) (s : State) : Host.Outcome State Fault Refusal :=
  match s.gang gang with
  | none => .next s
  | some g =>
    if g.err.isSome && (g.lost || (g.rels.isEmpty && g.rollable)) then
      let s := if g.noplate then s.makeNonroll gang else s
      if g.noplate || g.lost || g.nonroll || decide (2 ≤ g.retries) then
        .next ((s.report (g.report 3)).teardown g.ctx g.q g.fdom)
      else .next (s.rollBack gang g)
    else .next s

end Rollback

section Limits

/-- The superstep that a WATCHDOG names: the corner core's; in a tournament that of the lowest rival not wiped (R430). -/
def State.watchStep (s : State) (g : Gang) : Word :=
  match g.tour.bind s.tours.find with
  | none => (s.core g.corner).sstep
  | some t =>
    match (t.rivals.filterMap s.gang).head? with
    | some r => (s.core r.corner).sstep
    | none => 0

/-- The cycle limit of a gang, or of its tournament, is exhausted (R172, R430). -/
def State.overLimit (s : State) (g : Gang) : Bool :=
  match g.tour.bind s.tours.find with
  | none => decide (g.limit ≤ g.cycles)
  | some t => decide (t.limit ≤ t.cycles)

/-- WATCHDOG (R36, R138, R172, R430). -/
def execWatchdog (gang : Nat) (s : State) : Host.Outcome State Fault Refusal :=
  match s.gang gang with
  | none => .next s
  | some g =>
    if g.phase = .running ∧ s.overLimit g then
      .next (s.endGang gang 2 0x0F 0xFFFFFFFF (s.watchStep g) false)
    else .next s

end Limits

section Paging

/-- TASK_FRAME_LOAD (R137): a free thread set takes the task that became ready earliest. -/
def execTaskFrameLoad (stack chan slot t : Nat) (s : State) : Host.Outcome State Fault Refusal :=
  let c : CoreId := .memory stack chan
  let k := s.core c
  if t < 2 ∧ slot < 16 ∧ (k.running.toList.getD t (some 0)).isNone ∧ k.oldestReady = some slot then
    .next (s.setCore c (k.giveSet t slot))
  else .next s

/-- A page of a context is put into a frame with bytes (R438, R443), plain, with the rights it had before it went; its lines
are written whole (R446). -/
def State.placePage (s : State) (ctx page frame : Nat) (bytes : List Byte) : State :=
  let s := s.modCtx ctx fun c =>
    let p := c.pte 0 page
    let rights := if p = 0 then 0x30 else p.toNat % 64 / 16 * 16
    { (c.withTables 0 page).setPte 0 page (BitVec.ofNat 64 (frame / 2 ^ 16 * 2 ^ 16 + rights + 3)) with
      backing := c.backing.filter fun e => e.1 != page / 2 ^ 16 }
  { s with
    hbm := s.hbm.writeN frame (bytesAt bytes 0 65536)
    hbmPoison := s.hbmPoison.filter fun l => !meets (64 * l) 64 frame 65536 }

/-- Every page that a parked task waits for is present: it is ready again (R137, R432). -/
def State.unpark (s : State) (w : Who) (ctx : Nat) : State :=
  let k := s.core w.core
  let x := k.tasks[w.t]
  let present (gva : Nat) : Bool := (s.ctx ctx).elim false fun c =>
    match c.walk gva with
    | .absent => false
    | .broken => true
    | .leaf _ p => pteKind p != 1 || x.homePages.contains (gva / 2 ^ 16)
        || (match w.core with
          | .memory st _ => (pteRmask p).testBit st
          | _ => true)
  let left := x.faultPages.filter fun g => !present g
  let x := { x with faultPages := left }
  if left.isEmpty then
    (s.setCore w.core { k with tasks := k.tasks.set w.t { x with state := .ready, since := s.now } }).modTs w fun t =>
      { t with run := .ready }
  else s.setCore w.core { k with tasks := k.tasks.set w.t x }

/-- A replica fault is answered: a replica in the reader's stack, in a frame of it that is free; with none (`frame` is no
such frame) the read is served from home (R438). -/
def State.answerReplica (s : State) (w : Who) (ctx gva frame : Nat) : State :=
  match w.core with
  | .memory st _ =>
    match (s.ctx ctx).bind fun c => c.page gva with
    | none => s
    | some (l, p, lo) =>
      if s.frameOk l frame && paStack frame == st then
        (s.copyPage ctx gva).modCtx ctx fun c =>
          { c.setPte l gva (pteWith p (pteKind p) (pteRmask p ||| 2 ^ st)) with replicas := c.replicas ++ [(lo, st, frame)] }
      else s.modCore w.core fun k =>
        { k with tasks := k.tasks.set w.t { k.tasks[w.t] with homePages := (gva / 2 ^ 16) :: k.tasks[w.t].homePages } }
  | _ => s

/-- Firmware answers the first page that a parked task waits for (R432, R438). The bytes are the backing store's where it
keeps the page. -/
def State.supplyTask (s : State) (w : Who) (frame : Nat) (bytes : List Byte) : State :=
  let x := (s.core w.core).tasks[w.t]
  match x.faultPages, s.gangOf w with
  | gva :: _, some g =>
    match (s.ctx g.ctx).map fun (c : Context) => (c, c.walk gva) with
    | some (c, .absent) =>
      if s.frameOk 0 frame then (s.placePage g.ctx gva frame ((c.backing.find (gva / 2 ^ 16)).getD bytes)).unpark w g.ctx
      else s
    | some (_, .leaf _ _) => (s.answerReplica w g.ctx gva frame).unpark w g.ctx
    | _ => s.unpark w g.ctx
  | _, _ => s

/-- A thread set's gang runs, and no error of it waits for the ladder. -/
def State.mayFetch (s : State) (w : Who) : Bool := (s.gangOf w).any fun g => g.phase == .running && g.err.isNone

/-- The first thread set of a core, or task that holds one, that waits for a line to be fetched. -/
def State.wantsLine (s : State) (core : CoreId) (line : Nat) : Option (Who × ScratchLine) :=
  (List.range 16).findSome? fun i =>
    let w : Who := { core := core, t := Fin.ofNat 16 i }
    match (s.ts w).run, s.lineAbsent w with
    | .ready, some l =>
      if l.line = line ∧ s.mayFetch w ∧ (core.isMemory → ((s.core core).setOf w.t.val).isSome) then some (w, l) else none
    | _, _ => none

/-- DEMAND_FETCH (R406): a line that a thread set enters and that the scratchpad does not serve is fetched from the image or
the body, and installed at its index; the cycle that it takes is charged to event 0x09 as it passes. A poisoned line is
consumed instead (R446). -/
def execDemandFetch (core : CoreId) (line : Nat) (s : State) : Host.Outcome State Fault Refusal :=
  match s.wantsLine core line with
  | none => .next s
  | some (w, l) =>
    match s.fetchPoison w l with
    | some a => .next (s.consume w .poison none a)
    | none => .next ((s.demandLine w l).modTs w fun t => t.delay 9 1)

end Paging

end Sys2Proof.Machine
end

