-- ==== Sys2Proof/Machine/Digest.lean ====
section
/-! DEFINITION. SHA-256, which copy engines and firmware compute over bytes (R332, R478, R487). The manual names the
function; its constants and rounds are those of FIPS 180-4 (PRESUMED, log entry 22). -/
namespace Sys2Proof.Machine

section Sha

/-- The primes below a bound, by trial division. -/
def primesBelow (n : Nat) : List Nat :=
  (List.range n).filter fun p => decide (2 ≤ p) && (List.range p).all fun d => decide (d < 2) || p % d != 0

/-- The first 32 bits of the fraction of the k-th root of n, found bit by bit from the top. -/
def rootFraction (k n : Nat) : Word :=
  let target := n * 2 ^ (32 * k)
  BitVec.ofNat 32 ((List.range 38).foldl (fun r i =>
    let r' := r + 2 ^ (37 - i)
    if r' ^ k ≤ target then r' else r) 0)

/-- The round constants: the cube roots of the first 64 primes. -/
def shaK : List Word := (primesBelow 312).map (rootFraction 3)

/-- The first hash value: the square roots of the first eight primes. -/
def shaInit : List Word := (primesBelow 20).map (rootFraction 2)

/-- The message schedule, newest word first. -/
def shaSchedule : Nat → List Word → List Word
  | 0, ws => ws
  | n + 1, ws =>
    let w (i : Nat) : Word := ws.getD i 0
    let s0 := (w 14).rotateRight 7 ^^^ (w 14).rotateRight 18 ^^^ w 14 >>> 3
    let s1 := (w 1).rotateRight 17 ^^^ (w 1).rotateRight 19 ^^^ w 1 >>> 10
    shaSchedule n ((s1 + w 6 + s0 + w 15) :: ws)

/-- One round. -/
def shaRound (h : List Word) (k w : Word) : List Word :=
  match h with
  | [a, b, c, d, e, f, g, x] =>
    let s1 := e.rotateRight 6 ^^^ e.rotateRight 11 ^^^ e.rotateRight 25
    let t1 := x + s1 + ((e &&& f) ^^^ (~~~e &&& g)) + k + w
    let s0 := a.rotateRight 2 ^^^ a.rotateRight 13 ^^^ a.rotateRight 22
    let t2 := s0 + ((a &&& b) ^^^ (a &&& c) ^^^ (b &&& c))
    [t1 + t2, a, b, c, d + t1, e, f, g]
  | _ => h

/-- A big-endian word. -/
def beWord (bs : List Byte) (i : Nat) : Word :=
  bs.getD (4 * i) 0 ++ bs.getD (4 * i + 1) 0 ++ bs.getD (4 * i + 2) 0 ++ bs.getD (4 * i + 3) 0

/-- One block of 64 bytes. -/
def shaBlock (h : List Word) (bs : List Byte) : List Word :=
  let ws := (shaSchedule 48 ((List.range 16).reverse.map (beWord bs))).reverse
  let r := (shaK.zip ws).foldl (fun h kw => shaRound h kw.1 kw.2) h
  (h.zip r).map fun x => x.1 + x.2

/-- The blocks of a padded message. -/
def shaBlocks : Nat → List Word → List Byte → List Word
  | 0, h, _ => h
  | n + 1, h, bs => shaBlocks n (shaBlock h (bs.take 64)) (bs.drop 64)

/-- SHA-256 of bytes: 32 bytes. -/
def sha256 (bs : List Byte) : List Byte :=
  let zeros := (119 - bs.length % 64) % 64
  let msg := bs ++ [0x80#8] ++ List.replicate zeros 0 ++ (leBytes 8 (8 * bs.length)).reverse
  (shaBlocks (msg.length / 64) shaInit msg).flatMap fun w => (leBytes 4 w.toNat).reverse

end Sha

end Sys2Proof.Machine
end

