-- ==== Sys2Proof/Machine/Scalar.lean ====
section
/-! DEFINITION. The scalar, address and predicate instructions: OP 0x01 to 0x08, 0x30 and 0x31 (R217 to R228, R237),
with the corrected errata that capsules of levels 1 and 2 keep (R391). -/
namespace Sys2Proof.Machine

/-- The behaviour level of the capsule that issues; level 3 is native (R391). -/
def State.level (s : State) : Nat :=
  match s.capsuleOf s.who with
  | some c => c.level
  | none => Config.nativeLevel

section Shapes

/-- Two scalar sources, one scalar destination, and the flags of the result (R218, R220). -/
def alu2 (h : Hdr) (d a b : SReg) (f : Word → Word → Word × Word) (s : State) : Host.Outcome State Fault Refusal :=
  s.runT h fun t => do
    let x ← t.readS a
    let y ← t.readS b
    t.freeS d
    .ok ((((t.killS h.dmA a).killS h.dmB b).putS d (f x y).1).flag (f x y).2)

/-- One scalar source. -/
def alu1 (h : Hdr) (d a : SReg) (f : Word → Word) (s : State) : Host.Outcome State Fault Refusal :=
  s.runT h fun t => do
    let x ← t.readS a
    t.freeS d
    .ok ((t.killS h.dmA a).putS d (f x))

/-- A scalar and a shift amount. -/
def aluShift (h : Hdr) (d a : SReg) (n : ShiftAmt) (f : Word → Nat → Word) (s : State) :
    Host.Outcome State Fault Refusal :=
  s.runT h fun t => do
    let x ← t.readS a
    let k ← t.readAmt n
    t.freeS d
    .ok (((t.killS h.dmA a).killAmt h.dmB n).putS d (f x k))

/-- Two pairs, one pair. -/
def aluP (h : Hdr) (d a b : SPair) (f : DWord → DWord → DWord) (s : State) : Host.Outcome State Fault Refusal :=
  s.runT h fun t => do
    let x ← t.readP a
    let y ← t.readP b
    t.freeP d
    .ok (((t.killP h.dmA a).killP h.dmB b).putP d (f x y))

/-- Predicates in, a predicate out (R227). -/
def aluPred (h : Hdr) (d a b : PReg) (f : Bool → Bool → Bool) (s : State) : Host.Outcome State Fault Refusal :=
  s.runT h fun t => .ok (t.putPred d (f (t.pred a) (t.pred b)))

end Shapes

section Values

/-- An exact integer result wrapped, or clamped with SAT (R214, R218). -/
def fixS32 (sat : Bool) (v : Int) : Word × Word :=
  if sat then
    let r := clampInt v (-(2 ^ 31)) (2 ^ 31 - 1)
    (BitVec.ofInt 32 r.1, r.2)
  else (BitVec.ofInt 32 v, 0)

/-- IDIV and IDIVZ by zero under the level of the capsule (R219, R391 HE2). -/
def divZero (level : Nat) : Word := if level < 3 then 0 else BitVec.allOnes 32

/-- Truncated division; the most negative value by -1 gives itself (R218, R219). -/
def idivVal (level : Nat) (a b : Word) : Word :=
  if b = 0 then divZero level else BitVec.ofInt 32 (a.toInt.tdiv b.toInt)

def idivzVal (level : Nat) (a b : Word) : Word :=
  if b = 0 then divZero level else BitVec.ofNat 32 (a.toNat / b.toNat)

def iremVal (a b : Word) : Word := if b = 0 then a else BitVec.ofInt 32 (a.toInt.tmod b.toInt)

def iremzVal (a b : Word) : Word := if b = 0 then a else BitVec.ofNat 32 (a.toNat % b.toNat)

/-- The shift amount under the level of the capsule (R218, R391 HE1). -/
def shiftAmount (level n : Nat) : Nat := if level < 2 then n % 32 else n

def shlVal (a : Word) (n : Nat) : Word := if 32 ≤ n then 0 else a <<< n
def shrlVal (a : Word) (n : Nat) : Word := if 32 ≤ n then 0 else a >>> n
def shraVal (a : Word) (n : Nat) : Word := a.sshiftRight (min n 31)

/-- Leading zeros and ones of a word (R218). -/
def clzVal (a : Word) : Word :=
  BitVec.ofNat 32 ((List.range 32).foldl (fun n i => if a.getLsbD i then 31 - i else n) 32)

def popVal (a : Word) : Word := BitVec.ofNat 32 ((List.range 32).foldl (fun n i => if a.getLsbD i then n + 1 else n) 0)

end Values

/-- NOP (R237). -/
def execNop (h : Hdr) (s : State) : Host.Outcome State Fault Refusal := s.runT h fun t => .ok t

/-- IADD (R218). -/
def execIadd (h : Hdr) (d a b : SReg) (sat : Bool) (s : State) : Host.Outcome State Fault Refusal :=
  alu2 h d a b (fun x y => fixS32 sat (x.toInt + y.toInt)) s

/-- ISUB (R218). -/
def execIsub (h : Hdr) (d a b : SReg) (sat : Bool) (s : State) : Host.Outcome State Fault Refusal :=
  alu2 h d a b (fun x y => fixS32 sat (x.toInt - y.toInt)) s

/-- IMUL: the low word (R218). -/
def execImul (h : Hdr) (d a b : SReg) (s : State) : Host.Outcome State Fault Refusal :=
  alu2 h d a b (fun x y => (x * y, 0)) s

/-- IMULH: the high word of the signed product (R218). -/
def execImulh (h : Hdr) (d a b : SReg) (s : State) : Host.Outcome State Fault Refusal :=
  alu2 h d a b (fun x y => (BitVec.ofInt 32 (x.toInt * y.toInt / 2 ^ 32), 0)) s

/-- IMULHZ: the high word of the unsigned product (R218). -/
def execImulhz (h : Hdr) (d a b : SReg) (s : State) : Host.Outcome State Fault Refusal :=
  alu2 h d a b (fun x y => (BitVec.ofNat 32 (x.toNat * y.toNat / 2 ^ 32), 0)) s

/-- IDIV (R218, R219). -/
def execIdiv (h : Hdr) (d a b : SReg) (s : State) : Host.Outcome State Fault Refusal :=
  alu2 h d a b (fun x y => (idivVal s.level x y, 0)) s

/-- IDIVZ (R218, R219). -/
def execIdivz (h : Hdr) (d a b : SReg) (s : State) : Host.Outcome State Fault Refusal :=
  alu2 h d a b (fun x y => (idivzVal s.level x y, 0)) s

/-- IREM (R218, R219). -/
def execIrem (h : Hdr) (d a b : SReg) (s : State) : Host.Outcome State Fault Refusal :=
  alu2 h d a b (fun x y => (iremVal x y, 0)) s

/-- IREMZ (R218, R219). -/
def execIremz (h : Hdr) (d a b : SReg) (s : State) : Host.Outcome State Fault Refusal :=
  alu2 h d a b (fun x y => (iremzVal x y, 0)) s

/-- IAND (R218). -/
def execIand (h : Hdr) (d a b : SReg) (s : State) : Host.Outcome State Fault Refusal :=
  alu2 h d a b (fun x y => (x &&& y, 0)) s

/-- IOR (R218). -/
def execIor (h : Hdr) (d a b : SReg) (s : State) : Host.Outcome State Fault Refusal :=
  alu2 h d a b (fun x y => (x ||| y, 0)) s

/-- IXOR (R218). -/
def execIxor (h : Hdr) (d a b : SReg) (s : State) : Host.Outcome State Fault Refusal :=
  alu2 h d a b (fun x y => (x ^^^ y, 0)) s

/-- IANDN (R218). -/
def execIandn (h : Hdr) (d a b : SReg) (s : State) : Host.Outcome State Fault Refusal :=
  alu2 h d a b (fun x y => (x &&& ~~~y, 0)) s

/-- IMIN (R218). -/
def execImin (h : Hdr) (d a b : SReg) (s : State) : Host.Outcome State Fault Refusal :=
  alu2 h d a b (fun x y => (if x.slt y then x else y, 0)) s

/-- IMAX (R218). -/
def execImax (h : Hdr) (d a b : SReg) (s : State) : Host.Outcome State Fault Refusal :=
  alu2 h d a b (fun x y => (if x.slt y then y else x, 0)) s

/-- IMINZ (R218). -/
def execIminz (h : Hdr) (d a b : SReg) (s : State) : Host.Outcome State Fault Refusal :=
  alu2 h d a b (fun x y => (if x.ult y then x else y, 0)) s

/-- IMAXZ (R218). -/
def execImaxz (h : Hdr) (d a b : SReg) (s : State) : Host.Outcome State Fault Refusal :=
  alu2 h d a b (fun x y => (if x.ult y then y else x, 0)) s

/-- ISHL (R218). -/
def execIshl (h : Hdr) (d a : SReg) (n : ShiftAmt) (s : State) : Host.Outcome State Fault Refusal :=
  aluShift h d a n (fun x k => shlVal x (shiftAmount s.level k)) s

/-- ISHRL (R218). -/
def execIshrl (h : Hdr) (d a : SReg) (n : ShiftAmt) (s : State) : Host.Outcome State Fault Refusal :=
  aluShift h d a n (fun x k => shrlVal x (shiftAmount s.level k)) s

/-- ISHRA (R218). -/
def execIshra (h : Hdr) (d a : SReg) (n : ShiftAmt) (s : State) : Host.Outcome State Fault Refusal :=
  aluShift h d a n (fun x k => shraVal x (shiftAmount s.level k)) s

/-- IROTL: by n mod 32 (R218). -/
def execIrotl (h : Hdr) (d a : SReg) (n : ShiftAmt) (s : State) : Host.Outcome State Fault Refusal :=
  aluShift h d a n (fun x k => x.rotateLeft (k % 32)) s

/-- ICLZ (R218). -/
def execIclz (h : Hdr) (d a : SReg) (s : State) : Host.Outcome State Fault Refusal :=
  alu1 h d a clzVal s

/-- IPOP (R218). -/
def execIpop (h : Hdr) (d a : SReg) (s : State) : Host.Outcome State Fault Refusal :=
  alu1 h d a popVal s

/-- ISEL reads both sources, whichever is selected (R218, R219). -/
def execIsel (h : Hdr) (d a b : SReg) (pc : PReg) (s : State) : Host.Outcome State Fault Refusal :=
  alu2 h d a b (fun x y => (if (s.ts s.who).pred pc then x else y, 0)) s

/-- IADDI (R221). -/
def execIaddi (h : Hdr) (f : AddiForm) (imm : Imm) (s : State) : Host.Outcome State Fault Refusal :=
  match f with
  | .w32 d a sat =>
    s.runT h fun t => do
      let x ← t.readS a
      t.freeS d
      let r := fixS32 sat (x.toInt + imm.toInt)
      .ok (((t.killS h.dmA a).putS d r.1).flag r.2)
  | .w64 d a =>
    s.runT h fun t => do
      let x ← t.readP a
      t.freeP d
      .ok ((t.killP h.dmA a).putP d (x + imm.signExtend 64))

/-- IMOVI (R222). -/
def execImovi (h : Hdr) (d : SReg) (imm : Imm) (s : State) : Host.Outcome State Fault Refusal :=
  s.runT h fun t => do
    t.freeS d
    .ok (t.putS d (sext24 imm))

/-- IMOVHI reads its destination (R222). -/
def execImovhi (h : Hdr) (d : SReg) (imm : BitVec 16) (s : State) : Host.Outcome State Fault Refusal :=
  s.runT h fun t => do
    let x ← t.readS d
    .ok (t.putS d (imm ++ x.extractLsb' 0 16))

/-- ICMP (R223). -/
def execIcmp (h : Hdr) (c : Cond) (d a b : SReg) (s : State) : Host.Outcome State Fault Refusal :=
  alu2 h d a b (fun x y => (if condHolds c x y then 1 else 0, 0)) s

/-- PADD (R224). -/
def execPadd (h : Hdr) (d a b : SPair) (s : State) : Host.Outcome State Fault Refusal :=
  aluP h d a b (fun x y => x + y) s

/-- PSUB (R224). -/
def execPsub (h : Hdr) (d a b : SPair) (s : State) : Host.Outcome State Fault Refusal :=
  aluP h d a b (fun x y => x - y) s

/-- The address of AADD, exact: base + index x 2^k + offset (R225). -/
def aaddVal (sat : Bool) (k : Nat) (base : DWord) (index : Word) (imm : Imm) : DWord × Word :=
  let v := (base.toNat : Int) + index.toInt * 2 ^ k + imm.toInt
  if sat then
    let r := clampInt v 0 (2 ^ 64 - 1)
    (BitVec.ofInt 64 r.1, r.2)
  else (BitVec.ofInt 64 v, 0)

/-- The shape of AADD and AADDS (R225). -/
def aaddBody (h : Hdr) (d a : SPair) (b : SReg) (k : Nat) (sat : Bool) (imm : Imm) (t : ThreadSet) :
    Except Stop ThreadSet := do
  let x ← t.readP a
  let y ← t.readS b
  t.freeP d
  let r := aaddVal sat k x y imm
  .ok ((((t.killP h.dmA a).killS h.dmB b).putP d r.1).flag r.2)

/-- A deprecated issue (R191, R350): DEPCOUNT rises and stops at its greatest value; the advisory interrupt of R392 where
KCTL.DEPINT is 1. -/
def State.deprecate (s : State) : State :=
  match s.gangOf s.who with
  | none => s
  | some g =>
    match s.ctx g.ctx with
    | none => s
    | some c =>
      if c.depcount = BitVec.allOnes 32 then s
      else
        let n := c.depcount + 1
        let s := s.modCtx g.ctx fun c => { c with depcount := n }
        if c.kctl.getLsbD 0 && (n == 1 || n.toNat % 65536 == 0) then
          { s with irqs := s.irqs ++ [(c.fn, 16 + c.local_)] }
        else s

/-- AADD (R225). -/
def execAadd (h : Hdr) (d a : SPair) (b : SReg) (k : Fin 8) (sat : Bool) (imm : Imm) (s : State) : Host.Outcome State Fault Refusal :=
  s.runT h (aaddBody h d a b k.val sat imm)

/-- AADDS: AADD saturating, each issue that raises no trap counted, predicated off or not (R191, R225). -/
def execAadds (h : Hdr) (d a : SPair) (b : SReg) (k : Fin 8) (imm : Imm) (s : State) : Host.Outcome State Fault Refusal :=
  if (s.ts s.who).guard h then
    s.run h fun s => do
      let t ← aaddBody h d a b k.val true imm (s.ts s.who)
      .ok ((s.setTs s.who t).deprecate, .seq)
  else s.deprecate.run h fun s => .ok (s, .seq)

/-- PSET (R226). -/
def execPset (h : Hdr) (d : PReg) (src : PsetSrc) (s : State) : Host.Outcome State Fault Refusal :=
  s.runT h fun t =>
    match src with
    | .cmp c a b => do
      let x ← t.readS a
      let y ← t.readS b
      .ok (((t.killS h.dmA a).killS h.dmB b).putPred d (condHolds c x y))
    | .eqi a imm => do
      let x ← t.readS a
      .ok ((t.killS h.dmA a).putPred d (x == sext24 imm))
    | .nei a imm => do
      let x ← t.readS a
      .ok ((t.killS h.dmA a).putPred d (x != sext24 imm))
    | .lti a imm => do
      let x ← t.readS a
      .ok ((t.killS h.dmA a).putPred d (x.slt (sext24 imm)))
    | .gei a imm => do
      let x ← t.readS a
      .ok ((t.killS h.dmA a).putPred d ((sext24 imm).sle x))
    | .bit a n => do
      let x ← t.readS a
      .ok ((t.killS h.dmA a).putPred d (x.getLsbD n.val))
    | .const v => .ok (t.putPred d v)

/-- PAND (R227). -/
def execPand (h : Hdr) (d a b : PReg) (s : State) : Host.Outcome State Fault Refusal :=
  aluPred h d a b (fun x y => x && y) s

/-- POR (R227). -/
def execPor (h : Hdr) (d a b : PReg) (s : State) : Host.Outcome State Fault Refusal :=
  aluPred h d a b (fun x y => x || y) s

/-- PXOR (R227). -/
def execPxor (h : Hdr) (d a b : PReg) (s : State) : Host.Outcome State Fault Refusal :=
  aluPred h d a b (fun x y => x != y) s

/-- PNOT (R227). -/
def execPnot (h : Hdr) (d a : PReg) (s : State) : Host.Outcome State Fault Refusal :=
  aluPred h d a a (fun x _ => !x) s

end Sys2Proof.Machine
end

