-- ==== Sys2Proof/Machine/System.lean ====
section
/-! DEFINITION. The system instructions: control registers (R348 to R351, R367 to R370), TRAP, XRET, BRK, IFENCE, WAIT,
CAPBUILD, and the tournament's TDONE and TROUND (R338 to R358). -/
namespace Sys2Proof.Machine

section ControlRegisters

/-- The context a core's DEPCOUNT and KCTL belong to: its gang's, or the one KCTX selects (R350, R351). There is one KCTX; while
it names no context, reads give 0 and writes are dropped (DESIGN CHOICE, log entry 73). -/
def State.regCtx (s : State) : Option Nat :=
  match s.who.core with
  | .control _ => some (s.kctx.toNat % 65536)
  | _ => (s.gangOf s.who).map (·.ctx)

def State.regContext (s : State) : Option Context := s.regCtx.bind s.ctx

/-- Loop level k, level 0 the outer; a level that is not active reads as zero (R232). -/
def ThreadSet.level (t : ThreadSet) (k : Nat) : LoopLevel := t.loops.reverse.getD k { count := 0, first := 0, last := 0 }

/-- What is left of a rival's allowance, in units of 1,024 instructions (R164, R166). -/
def State.allowLeft (s : State) (g : Gang) : Word :=
  match g.tour.bind s.tours.find with
  | none => 0
  | some t =>
    if t.solo then BitVec.allOnes 32
    else BitVec.ofNat 32 ((t.allow0 * 1024 * 2 ^ t.k - g.count) / 1024)

/-- The SCORE of the rival of a core, which its origin core holds (R165). -/
def State.rivalScore (s : State) (g : Gang) : DWord := (s.core g.corner).shared.score

/-- The index of the thread set that issues: on a memory core, the thread set the task runs on. -/
def State.setIndex (s : State) : Nat :=
  if s.who.core.isMemory then ((s.core s.who.core).setOf s.who.t.val).getD 0 else s.who.t.val

/-- A register of the gang's shape: a compute core holds it, a memory task reads its gang's (R23, R24, R163). -/
def State.shape (s : State) (held : Word) (f : Gang → Word) : Word :=
  if s.who.core.isMemory then (s.gangOf s.who).elim 0 f else held

/-- A control register that a CRD reads (R349); counts as R367 and R368 place them. -/
def State.readReg (s : State) (n : Nat) : DWord :=
  let w := s.who
  let t := s.ts w
  let k := s.core w.core
  let x (v : Word) : DWord := v.setWidth 64
  match n with
  | 0x000 => x t.prec
  | 0x001 => x t.rmode
  | 0x002 => x t.fstat
  | 0x003 => x t.pxneed
  | 0x004 => x t.fwspill
  | 0x005 => x t.deadmode
  | 0x010 => x (if w.core.isMemory then (t.tidx &&& 0x300) ||| BitVec.ofNat 32 s.setIndex else t.tidx)
  | 0x011 => x k.gpos
  | 0x012 => x (s.shape k.gdim Gang.gdim)
  | 0x013 => x (s.shape k.brect Gang.brect)
  | 0x014 => x (if w.core.isMemory then t.sstep else k.sstep)
  | 0x018 => x t.pwbase
  | 0x019 => x t.pwlim
  | 0x01A => x t.pwattr
  | 0x020 => x t.xcause
  | 0x021 => x t.xpc
  | 0x022 => x t.xval
  | 0x023 => x t.xrpc
  | 0x024 => x t.xstat
  | 0x028 => BitVec.ofNat 64 t.loops.length
  | 0x029 => x (t.level 0).count
  | 0x02A => x (t.level 1).count
  | 0x02B => x (t.level 0).first
  | 0x02C => x (t.level 1).first
  | 0x02D => x (t.level 0).last
  | 0x02E => x (t.level 1).last
  | 0x030 => (s.gangOf w).elim 0 s.rivalScore
  | 0x031 => (s.gangOf w).elim 0 fun g => x (s.allowLeft g)
  | 0x032 => x (s.shape k.round fun g => (g.tour.bind s.tours.find).elim 0 fun u => u.round g.bidx)
  | 0x038 => s.regContext.elim 0 fun c => x c.depcount
  | 0x200 => x s.kctx
  | 0x201 => s.regContext.elim 0 fun c => x c.kctl
  | _ =>
    let set := (n - 0x100) / 0x40 % 4
    let off := (n - 0x100) % 0x40
    if off = 0 then if k.freeze.toList.getD set false then 2 else 0
    else
      let v := (k.counters.toList.getD set (Vector.replicate 16 0)).toList.getD (off / 2) 0
      if off % 2 = 0 then BitVec.ofNat 64 v else BitVec.ofNat 64 (v / 2 ^ 32)

/-- SCORE, ALLOW and ROUND belong to a tournament (R355). -/
def State.needsTour (s : State) (n : Nat) : Bool :=
  (n == 0x030 || n == 0x031 || n == 0x032) && ((s.gangOf s.who).bind (·.tour)).isNone

/-- CRD (R348, R368). -/
def execCrd (h : Hdr) (d : SReg) (reg : BitVec 10) (s : State) : Host.Outcome State Fault Refusal :=
  s.run h fun s => do
    let n := reg.toNat
    if s.needsTour n then .error (.trap .illegal 7)
    else
      let v := s.readReg n
      if regWide n then do
        (s.ts s.who).freeP (SReg.pair d)
        .ok (s.modTs s.who fun t => t.putP (SReg.pair d) v, .seq)
      else do
        (s.ts s.who).freeS d
        .ok (s.modTs s.who fun t => t.putS d (v.extractLsb' 0 32), .seq)

/-- Write a control register; `none` where it is read-only at the issuing level or the value is refused (R348, R9,
R87, R98). -/
def State.writeReg (s : State) (n : Nat) (v : Word) : Option State :=
  let m (f : ThreadSet → ThreadSet) : Option State := some (s.modTs s.who f)
  let ctl := match s.who.core with
    | .control _ => true
    | _ => false
  match n with
  | 0x000 =>
    let p := v &&& 0x3FF
    if p.toNat < 8 ∨ 512 < p.toNat then none else m fun t => { t with prec := p }
  | 0x001 => if 6 ≤ (v &&& 7).toNat then none else m fun t => { t with rmode := v &&& 7 }
  | 0x002 => m fun t => { t with fstat := v &&& 0x7F }
  | 0x003 => m fun t => { t with pxneed := v }
  | 0x004 => m fun t => { t with fwspill := v &&& 0x1FFFF8 }
  | 0x005 => m fun t => { t with deadmode := v &&& 1 }
  | 0x020 => m fun t => { t with xcause := v &&& 0xFF }
  | 0x021 => m fun t => { t with xpc := v }
  | 0x022 => m fun t => { t with xval := v }
  | 0x023 => m fun t => { t with xrpc := v }
  | 0x038 => if ctl then some (s.regCtx.elim s fun c => s.modCtx c fun x => { x with depcount := v }) else none
  | 0x200 => if ctl then some { s with kctx := v &&& 0xFFFF } else none
  | 0x201 => if ctl then some (s.regCtx.elim s fun c => s.modCtx c fun x => { x with kctl := v &&& 3 }) else none
  | _ => none

/-- CWR (R348). -/
def execCwr (h : Hdr) (a : SReg) (reg : BitVec 10) (s : State) : Host.Outcome State Fault Refusal :=
  s.run h fun s => do
    let v ← (s.ts s.who).readS a
    match s.writeReg reg.toNat v with
    | none => .error (.trap .illegal 0)
    | some s => .ok (s.modTs s.who fun t => t.killS h.dmA a, .seq)

/-- A CWR of the counters' control word: FREEZE, and ZERO once (R369). The cycle of the CWR itself is counted after that, unless
it freezes: event 0x01 stands at 1 (DEDUCED, log entry 8: R369 does not say on which side of it the zeroing falls). -/
def execCounterZero (h : Hdr) (a : SReg) (t : Fin 4) (s : State) : Host.Outcome State Fault Refusal :=
  s.run h fun s => do
    let v ← (s.ts s.who).readS a
    if s.setIndex ≠ t.val then .error (.trap .illegal 0)
    else
      let s := s.modCore s.who.core fun k =>
        { k with
          freeze := k.freeze.set t (v.getLsbD 1)
          counters := if v.getLsbD 0 then k.counters.set t (Vector.replicate 16 0) else k.counters }
      .ok (s.modTs s.who fun x => x.killS h.dmA a, .seq)

end ControlRegisters

section TrapInstructions

/-- TRAP raises USER (R346). -/
def execTrap (h : Hdr) (imm : Imm) (s : State) : Host.Outcome State Fault Refusal :=
  s.run h fun _ => .error (.trap .user (imm.setWidth 32))

/-- XRET (R345): INH is cleared; where it resumes, the line is checked, then the position; held traps come before the
instruction there issues. -/
def execXret (h : Hdr) (next : Bool) (s : State) : Host.Outcome State Fault Refusal :=
  if (s.ts s.who).guard h then
    let t := s.ts s.who
    if !t.inh then .next (s.stopped (.trap .illegal 6))
    else
      let p := if next then nextPos t.xrpc.toNat else t.xrpc.toNat
      let s1 := s.setTs s.who { t with xstat := t.xstat &&& ~~~1#32 }
      match (s.capsuleOf s.who).bind fun c => c.lineAt p with
      | some l =>
        if !lineParityOk l then .next { s1.consume s.who .parity none p with evt := 0x0B }
        else
          match lineBadEntry l with
          | some r =>
            .next { s1.takeTrap s.who .lineform (BitVec.ofNat 32 p) (BitVec.ofNat 32 r) (BitVec.ofNat 32 p) with evt := 0x11 }
          | none =>
            if posOk p then .next (s1.retire (.jump p false))
            else .next { s1.takeTrap s.who .target t.pc (BitVec.ofNat 32 p) t.pc with evt := 0x11 }
      | none => .next { s1.takeTrap s.who .target t.pc (BitVec.ofNat 32 p) t.pc with evt := 0x11 }
  else .next (s.retire .seq)

/-- BRK raises BREAK, or stops the thread set for the driver under KCTL.DBG, with no issue slot used (R347, R364, R396). -/
def execBrk (h : Hdr) (imm : Imm) (s : State) : Host.Outcome State Fault Refusal :=
  if (s.ts s.who).guard h then
    let dbg := match (s.gangOf s.who).bind fun g => s.ctx g.ctx with
      | some c => c.kctl.getLsbD 1
      | none => false
    if dbg then
      let g := s.gangOf s.who
      .next { s.modTs s.who fun t => { t with run := .stopped } with
        evt := 0x0F
        answers := s.answers ++ [.stopped (g.elim 0 (·.ctx)) (g.elim 0 (·.capsule)) s.who.core s.setIndex
          (s.ts s.who).pc.toNat] }
    else .next (s.stopped (.trap .break (imm.setWidth 32)))
  else .next (s.retire .seq)

/-- IFENCE: what has been fetched is discarded, and the next line is fetched and checked anew (R352); code of overlays that
TLWAIT has reached is fetchable from here on (R407). -/
def execIfence (h : Hdr) (s : State) : Host.Outcome State Fault Refusal :=
  s.runT h fun t => .ok { t with enter := true, lineHeld := none, ovlFenced := t.ovlWaited }

end TrapInstructions

section Waits

/-- A WAIT completes with a value (R353). -/
def ThreadSet.finishWait (t : ThreadSet) (f : WaitFor) (v : Word) : ThreadSet :=
  let t := match f.markA with
    | some p => t.killP true p
    | none => t
  let t := match f.markB with
    | some p => t.killP true p
    | none => t
  { t.putS f.d v with run := .ready }

/-- WAIT (R353): on its own store's 8-byte word; it ends when the word differs or the bound has passed. One that has waited is
executed again as it wakes, and takes an issue slot of its own (DEDUCED, log entry 8). -/
def execWait (h : Hdr) (d : SReg) (a b : SPair) (imm : Imm) (bound : BitVec 20) (s : State) :
    Host.Outcome State Fault Refusal :=
  s.run h fun s =>
    let t := s.ts s.who
    match t.run with
    | .atWait f =>
      if f.hit then .ok (s.setTs s.who (t.finishWait f 0), .seq)
      else if past s.now f.deadline then .ok (s.setTs s.who (t.finishWait f 1), .seq)
      else .error (.hold t.run)
    | _ => do
      let x ← t.readP a
      let y ← t.readP b
      t.freeS d
      let p := ea x imm 0
      aligned 8 [p]
      s.access s.who [(p, 8)]
      let bs ← s.loadBytes s.who p.toNat 8
      let f : WaitFor :=
        { addr := p.toNat, cmp := y, hit := false, d := d
          deadline := if bound = 0 then none else some (s.now + 64 * bound.toNat)
          markA := if h.dmA then some a else none, markB := if h.dmB then some b else none }
      if BitVec.ofNat 64 (leNat bs) ≠ y then .ok (s.setTs s.who (t.finishWait f 0), .seq)
      else .error (.hold (.atWait f))

/-- WAIT_BOUND_EXPIRY: the bound of a WAIT passes; the wait ends with 1 (R353). -/
def execWaitBoundExpiry (core : CoreId) (t : Nat) (s : State) : Host.Outcome State Fault Refusal :=
  let w : Who := { core := core, t := Fin.ofNat 16 t }
  match (s.ts w).run with
  | .atWait f =>
    if !f.hit && past s.now f.deadline then
      .next ((({ s with who := w }.modTs w fun x => x.finishWait f 1).rouseTask w).retire .seq)
    else .next s
  | _ => .next s

end Waits

/-- The status that a request to build a capsule gets, and the capsule after it (R354, R386, R389). -/
def buildRequest (c : Capsule) : Nat × Capsule :=
  match c.state with
  | .retired => (4, c)
  | .native => (1, c)
  | .rebuilding => (2, c)
  | .portable => if c.test then (1, c) else if c.queued then (2, c) else (0, { c with queued := true })
  | .voided => if c.test then (1, c) else (0, { c with state := .portable, queued := true })

/-- A request to build a capsule of a context, by its handle (R354). -/
def State.requestBuild (s : State) (ctx handle : Nat) : Nat × State :=
  match s.capsule ctx handle with
  | none => (3, s)
  | some c => if c.withheld then (3, s) else ((buildRequest c).1, s.modCapsule ctx handle fun c => (buildRequest c).2)

/-- CAPBUILD (R354), on a control core; elsewhere it is privileged. It looks for the handle in the context that KCTX selects
(DESIGN CHOICE, log entry 73). -/
def execCapbuild (h : Hdr) (d a : SReg) (s : State) : Host.Outcome State Fault Refusal :=
  match s.who.core with
  | .control _ =>
    s.run h fun s => do
      let t := s.ts s.who
      let x ← t.readS a
      t.freeS d
      let ctx := s.kctx.toNat % 65536
      let r := s.requestBuild ctx x.toNat
      .ok (r.2.modTs s.who fun t => (t.killS h.dmA a).putS d (BitVec.ofNat 32 r.1), .seq)
  | _ => .next (s.stopped (.trap .privilege 0))

section Tournament

/-- TDONE makes the rival closing, and marks the tournament to end where it is final (R357). -/
def execTdone (h : Hdr) (final : Bool) (s : State) : Host.Outcome State Fault Refusal :=
  s.run h fun s =>
    match s.gangId s.who, (s.gangOf s.who).bind (·.tour) with
    | some g, some _ =>
      .ok (s.modGang g fun x =>
        if x.rival = .running ∨ x.rival = .closing then { x with rival := .closing, final := x.final || final } else x,
        .seq)
    | _, _ => .error (.trap .illegal 7)

/-- TROUND reads the outcome word of the rival's last round end (R171, R358). -/
def execTround (h : Hdr) (d : SReg) (s : State) : Host.Outcome State Fault Refusal :=
  s.run h fun s =>
    match s.gangOf s.who with
    | some g =>
      if g.tour.isNone then .error (.trap .illegal 7)
      else do
        (s.ts s.who).freeS d
        .ok (s.modTs s.who fun t => t.putS d g.word, .seq)
    | none => .error (.trap .illegal 7)

end Tournament

end Sys2Proof.Machine
end

