-- ==== Sys2Proof/Machine/Global.lean ====
section
/-! DEFINITION. Memory-core instructions (R139 to R157, R320 to R330): global loads, stores and atomics through typed
references, the ordering instructions, PUSH and DPAT, GREF, and the answers that come back to a task. -/
namespace Sys2Proof.Machine

section References

/-- The binding of a parameter; one at or above NPARAM has no right and format 0 (R393). -/
def State.refOf (s : State) (w : Who) (c : Nat) : Option Ref :=
  (s.gangOf w).bind fun g => g.params[c]?

/-- REFTYPE (R322). -/
def reftype (c found why : Nat) : Stop := .trap .reftype (BitVec.ofNat 32 (c * 256 + found * 16 + why))

/-- The exact offset of a global access (R321). -/
def globalOff (x : DWord) (imm : Imm) : Int := ea x imm 0

/-- What refcheck checks first: the format of a load or store, or the element width of an atomic. -/
inductive RefWant where
  | fmt (f : Fmt)
  | width (bytes : Nat)
  deriving DecidableEq, Repr

/-- refcheck (R321, R322, R325): the address. -/
def State.refcheck (s : State) (w : Who) (c : Nat) (want : RefWant) (r wr : Bool) (off : Int) (n align : Nat) :
    Except Stop Nat :=
  match s.refOf w c with
  | none => .error (reftype c 0 2)
  | some v =>
    let bad := match want with
      | .fmt f => if v.fmt = f then none else some 1
      | .width b => if v.fmt.width = 8 * b then none else some 3
    match bad with
    | some why => .error (reftype c v.fmt.code why)
    | none =>
      if (r && !v.r) || (wr && !v.w) then .error (reftype c v.fmt.code 2)
      else if off % (align : Int) ≠ 0 then .error (protAt off)
      else if off < 0 then .error (.trap .refbound (BitVec.ofInt 32 off))
      else if (v.size : Int) < off + n then .error (.trap .refbound (BitVec.ofInt 32 (max off v.size)))
      else .ok (v.base + off.toNat)

end References

section Translation

/-- How the translation of a range ends (R438), the lowest page that is not translated deciding. -/
inductive Reach where
  | ok
  | away (pages : List Nat)
  | denied (gva : Nat)
  | walkError (gva : Nat)
  deriving DecidableEq, Repr

/-- One page of a task's access (R438): a read of a read-replicated page without a copy in the reader's stack faults for
one, unless firmware serves it from home. -/
def State.pageReach (s : State) (w : Who) (ctx gva : Nat) (wr : Bool) : Reach :=
  match s.ctx ctx with
  | none => .denied gva
  | some c =>
    match c.walk gva with
    | .absent => .away [gva]
    | .broken => .walkError gva
    | .leaf _ p =>
      if (wr && !pteW p) || (!wr && !pteR p) then .denied gva
      else
        match w.core with
        | .memory st _ =>
          if !wr && pteKind p == 1 && !(pteRmask p).testBit st
              && !((s.core w.core).tasks[w.t].homePages.contains (gva / 2 ^ 16)) then .away [gva]
          else .ok
        | _ => .ok

/-- The pages of a range, in order. -/
def State.rangeReach (s : State) (w : Who) (ctx : Nat) (wr : Bool) : List Nat → Reach
  | [] => .ok
  | g :: r =>
    match s.pageReach w ctx g wr with
    | .ok => s.rangeReach w ctx wr r
    | .away ps =>
      match s.rangeReach w ctx wr r with
      | .away qs => .away (ps ++ qs)
      | _ => .away ps
    | x => x

/-- The bytes of a range lie on a page that migrates: new write permission is refused (R442). -/
def State.rangeMigrating (s : State) (ctx gva n : Nat) : Bool :=
  (s.ctx ctx).elim false fun c => (pageStarts gva n).any c.migrating

/-- An access that R438 lets through goes on; one whose page is away parks its task; a walk error is the queue's (R448). -/
def State.reach (s : State) (gva n : Nat) (wr : Bool) (go : State → Except Stop (State × Next)) :
    Except Stop (State × Next) :=
  let w := s.who
  match s.gangOf w with
  | none => .error (.trap .prot (BitVec.ofNat 32 gva))
  | some g =>
    match s.rangeReach w g.ctx wr (pageStarts gva n) with
    | .away ps => .error (.park ps)
    | .denied a => .error (.trap .prot (BitVec.ofNat 32 a))
    | .walkError a => .ok (s.unpinnedAt g.ctx g.q 6 a (coreWhere w.core), .stay)
    | .ok =>
      if wr && s.rangeMigrating g.ctx gva n then .error (.wait 2)
      else go (s.modCore w.core fun k => { k with tasks := k.tasks.set w.t { k.tasks[w.t] with homePages := [] } })

/-- An acquire of the task has not returned (R148). -/
def ThreadSet.acquiring (t : ThreadSet) : Bool :=
  t.answers.any fun a =>
    match a.acquire with
    | some sc => sc != .task
    | none => false

/-- A global access waits for an acquire before it (R148). -/
def ThreadSet.afterAcquire (t : ThreadSet) : Except Stop Unit := if t.acquiring then .error (.wait 2) else .ok ()

/-- The loads of a task have been performed (R148). -/
def ThreadSet.performed (t : ThreadSet) (sc : Scope) : Except Stop Unit :=
  if sc != .task && (!t.answers.isEmpty || t.loads.any fun l => !l.landed) then .error (.wait 2) else .ok ()

end Translation

section Buffering

/-- What a store puts into the commit buffer: runs of bytes by line. -/
def byLine (gva : Nat) (bs : List Byte) : List (Nat × List (Nat × Byte)) :=
  if bs.isEmpty then []
  else (List.range ((gva + bs.length - 1) / 64 - gva / 64 + 1)).map fun i =>
    let line := (gva / 64 + i) * 64
    (line, (bs.zipIdx.map fun e => (gva + e.2, e.1)).filter fun e => decide (line ≤ e.1) && decide (e.1 < line + 64))

/-- The buffer entries that a core's commit buffer counts (R135, R141): one for each line of a gang and superstep, one for
each deferred atomic. -/
def commitKeys (es : List CommitEntry) : List (Nat × Word × Nat) :=
  ((es.filter fun e => !e.mask.isEmpty && (match e.kind with
    | .atom _ _ _ => false
    | _ => true)).map fun e => (e.gang, e.step, e.line)).eraseDups

def commitCount (es : List CommitEntry) : Nat :=
  (commitKeys es).length + (es.filter fun e => match e.kind with
    | .atom _ _ _ => true
    | _ => false).length

/-- An entry that a store may merge into: its task's last one for the line, with no release point and no deferred atomic
of the line after it (R141, R147, R148). -/
def mergeable (es : List CommitEntry) (gang slot : Nat) (step : Word) (line : Nat) : Option Nat :=
  let mine := es.reverse.filter fun e => e.gang == gang && e.slot == slot
  match mine.find? fun e => e.kind == .release || e.line == line with
  | some e => if e.kind = .bytes ∧ e.line = line ∧ e.step = step ∧ ¬ e.draining then some e.id else none
  | none => none

/-- A line's bytes enter a commit buffer. -/
def State.putLine (s : State) (w : Who) (g : Nat) (ctx : Nat) (step : Word) (kind : CommitKind) (line : Nat)
    (bs : List (Nat × Byte)) : State :=
  let k := s.core w.core
  let target := if kind = .bytes then mergeable k.commit g w.t.val step line else none
  match target with
  | some id =>
    s.modCore w.core fun k => { k with commit := k.commit.map fun (e : CommitEntry) =>
      if e.id = id then
        { e with
          bytes := bs.foldl (fun m b => m.write b.1 b.2) e.bytes
          mask := e.mask ++ (bs.map (·.1)).filter fun a => !e.mask.contains a }
      else e }
  | none =>
    let e : CommitEntry :=
      { id := s.nextId, ctx := ctx, gang := g, q := (s.gang g).elim 0 (·.q), slot := w.t.val, step := step
        epoch := (s.gang g).elim 0 (·.epoch), line := line, bytes := bs.foldl (fun m b => m.write b.1 b.2) []
        mask := bs.map (·.1), kind := kind, draining := false, order := 0 }
    { s with nextId := s.nextId + 1 }.modCore w.core fun k => { k with commit := k.commit ++ [e] }

/-- Entries that a store needs beyond those there (R141, R145). -/
def needed (es : List CommitEntry) (g : Nat) (step : Word) (kind : CommitKind) (lines : List Nat) : Nat :=
  match kind with
  | .atom _ _ _ => 1
  | _ => (lines.filter fun l => !(commitKeys es).contains (g, step, l)).length

/-- Room in the commit buffer for a line (R145): the gang's own entries of the superstep are written early, oldest first and
honouring release points, and the superstep becomes non-rollbackable, until an entry is free. The state then, and whether one is:
not while every entry is another gang's or drains, or the next one to go is held back. -/
def State.makeRoom (s : State) (w : Who) (g : Nat) (step : Word) (kind : CommitKind) (line : Nat) : Nat → State × Bool
  | 0 => (s, false)
  | fuel + 1 =>
    let es := (s.core w.core).commit
    if commitCount es + needed es g step kind [line] ≤ Config.commitEntries then (s, true)
    else
      match es.find? fun e => e.gang == g && e.step == step && !e.draining with
      | none => (s, false)
      | some e =>
        match if s.entryHeld w.core e then none else s.performEntry w.core e with
        | none => (s, false)
        | some t => (t.makeNonroll g).makeRoom w g step kind line fuel

/-- The lines of a store enter the commit buffer one after the other, each as it finds room (R145): the state, and whether all of
them have. -/
def State.putLines (s : State) (w : Who) (g ctx : Nat) (step : Word) (kind : CommitKind) :
    List (Nat × List (Nat × Byte)) → State × Bool
  | [] => (s, true)
  | p :: r =>
    match s.makeRoom w g step kind p.1 (Config.commitEntries + 1) with
    | (t, true) => if (t.gang g).isNone then (t, false) else (t.putLine w g ctx step kind p.1 p.2).putLines w g ctx step kind r
    | (t, false) => (t, false)

/-- Bytes enter the commit buffer under the gang's superstep (R141); a store that has to wait for an entry keeps what it has
written so far. -/
def State.buffer (s : State) (w : Who) (kind : CommitKind) (gva : Nat) (bs : List Byte) : Except Stop State :=
  match s.gangId w, s.gangOf w with
  | some g, some gg =>
    match s.putLines w g gg.ctx (s.ts w).sstep kind (byLine gva bs) with
    | (t, true) => .ok t
    | (t, false) => .error (.part t)
  | _, _ => .error (.wait 2)

end Buffering

section LoadsAndStores

/-- A load's answer is awaited: the register is interlocked (R140). -/
def State.awaitAnswer (s : State) (w : Who) (reg : AnswerReg) (gva n : Nat) (own : List (Option Byte))
    (acquire : Option Scope) : State :=
  let a : PendGlobal :=
    { id := s.nextId, reg := reg, gva := gva, n := n, own := own, acquire := acquire, step := (s.ts w).sstep }
  { s with nextId := s.nextId + 1 }.modTs w fun t => { t with answers := t.answers ++ [a] }

/-- What a task's own buffered stores of its superstep give for a load (R142). -/
def State.ownStores (s : State) (w : Who) (gva n : Nat) : List (Option Byte) :=
  (s.core w.core).ownBytes ((s.gangId w).getD 0) w.t.val (s.ts w).sstep gva n

/-- GLD (R324). -/
def execGld (h : Hdr) (fmt : Fmt) (dst : GldDst) (a : SPair) (c : Fin 32) (imm : Imm) (s : State) :
    Host.Outcome State Fault Refusal :=
  s.run h fun s => do
    let w := s.who
    let t := s.ts w
    let x ← t.readP a
    let off := globalOff x imm
    match dst with
    | .scalar wd d => do
      t.freeLd wd d
      t.afterAcquire
      let n := wd.bytes
      let gva ← s.refcheck w c.val (.fmt fmt) true false off n n
      s.reach gva n false fun s =>
        .ok ((s.awaitAnswer w (.scalar wd d) gva n (s.ownStores w gva n) none).modTs w fun t => t.killP h.dmA a, .seq)
    | .vec d => do
      t.freeV d
      t.afterAcquire
      let gva ← s.refcheck w c.val (.fmt fmt) true false off 32 8
      s.reach gva 32 false fun s =>
        .ok ((s.awaitAnswer w (.vec fmt d) gva 32 (s.ownStores w gva 32) none).modTs w fun t => t.killP h.dmA a, .seq)
    | .blk d cnt => do
      let p ← t.readS d
      t.afterAcquire
      let n := 8 * (cnt.toNat + 1)
      let gva ← s.refcheck w c.val (.fmt fmt) true false off n 8
      aligned 8 [(p.toNat : Int)]
      s.access w [((p.toNat : Int), n)]
      s.reach gva n false fun s =>
        let own := s.ownStores w gva n
        let id := s.nextId
        .ok (({ s with nextId := id + 1 } : State).modTs w fun t =>
          { t.killP h.dmA a with
            loadCount := t.loadCount + 1
            loads := t.loads ++ [{ id := id, number := t.loadCount + 1, gva := gva, dst := p.toNat, n := n, own := own
                                   step := t.sstep, landed := false }] }, .seq)

/-- GST (R324). GST.v of a T6 register stores its 32 bytes as they stand, bits [7:6] of each container among them (DESIGN CHOICE,
log entry 71). -/
def execGst (h : Hdr) (fmt : Fmt) (src : GstSrc) (a : SPair) (c : Fin 32) (imm : Imm) (s : State) :
    Host.Outcome State Fault Refusal :=
  s.run h fun s => do
    let w := s.who
    let t := s.ts w
    let x ← t.readP a
    let off := globalOff x imm
    match src with
    | .scalar wd b => do
      let bs ← t.readSt wd b
      t.afterAcquire
      let n := wd.bytes
      let gva ← s.refcheck w c.val (.fmt fmt) false true off n n
      s.reach gva n true fun s => do
        let s ← s.buffer w .bytes gva bs
        .ok (s.modTs w fun t => (t.killP h.dmA a).killSt h.dmB wd b, .seq)
    | .vec b => do
      let v ← t.readV b (some fmt)
      t.afterAcquire
      let gva ← s.refcheck w c.val (.fmt fmt) false true off 32 8
      s.reach gva 32 true fun s => do
        let s ← s.buffer w .bytes gva (bytesOf v)
        .ok (s.modTs w fun t => (t.killP h.dmA a).killV h.dmB b, .seq)
    | .blk b cnt => do
      let p ← t.readS b
      t.afterAcquire
      let n := 8 * (cnt.toNat + 1)
      let gva ← s.refcheck w c.val (.fmt fmt) false true off n 8
      aligned 8 [(p.toNat : Int)]
      s.access w [((p.toNat : Int), n)]
      s.reach gva n true fun s => do
        let bs ← s.loadBytes w p.toNat n
        let s ← s.buffer w .bytes gva bs
        .ok (s.modTs w fun t => (t.killP h.dmA a).killS h.dmB b, .seq)

/-- The compare operand of CAS: the register after its operand's (R325). -/
def casReg (el : Elem) (b : SReg) : SReg := if el.width = 64 then Fin.ofNat 32 (b.val + 2) else Fin.ofNat 32 (b.val + 1)

/-- The atomic's new value at the base die (R146). -/
def atomResult (op : BankOp) (el : Elem) (old : Nat) (new cmp : DWord) : Nat :=
  match op with
  | .cas => if old = cmp.toNat % 2 ^ el.width then new.toNat % 2 ^ el.width else old
  | op => bankResult op el old new.toNat

/-- A returning atomic is performed at once (R147), as an early write: it waits for bytes that have still to drain (R143),
and poison that it reads is consumed. The state, and the old value's bytes. -/
def State.atomNow (s : State) (w : Who) (op : BankOp) (el : Elem) (new cmp : DWord) (gva : Nat) :
    Except Stop (State × List Byte) :=
  match s.gangId w, s.gangOf w with
  | some id, some g =>
    let n := el.width / 8
    if s.undrained g.ctx gva n then .error (.wait 2)
    else if s.globalPoison g.ctx gva n then .error (.check .poison none (s.poisonUnit g.ctx gva n))
    else
      let s := ((s.makeNonroll id).repair g.ctx gva n).loadsBefore w g.ctx (s.ts w).sstep
        ((List.range n).map (gva + ·))
      let old := s.globalRead g.ctx gva (List.replicate n none)
      .ok (s.engineWrite g.ctx gva (leBytes n (atomResult op el (leNat old) new cmp)), old)
  | _, _ => .error (.trap .prot (BitVec.ofNat 32 gva))

/-- GATOM (R146, R147, R325). -/
def execGatom (h : Hdr) (op : BankOp) (el : Elem) (d : Option SReg) (a : SPair) (b : SReg) (c : Fin 32) (imm : Imm)
    (s : State) : Host.Outcome State Fault Refusal :=
  s.run h fun s => do
    let w := s.who
    let t := s.ts w
    let x ← t.readP a
    let new ← t.readElem el b
    let cmp ← if op = .cas then t.readElem el (casReg el b) else .ok 0
    match d with
    | some r => t.freeElem el r
    | none => .ok ()
    t.afterAcquire
    let n := el.width / 8
    let gva ← s.refcheck w c.val (.width n) true true (globalOff x imm) n n
    let kill (t : ThreadSet) : ThreadSet :=
      let t := (t.killP h.dmA a).killElem h.dmB el b
      if op = .cas then t.killElem h.dmB el (casReg el b) else t
    s.reach gva n true fun s =>
      match d with
      | none => do
        let s ← s.buffer w (.atom op el new) gva (leBytes n 0)
        .ok (s.modTs w kill, .seq)
      | some r => do
        let (s, old) ← s.atomNow w op el new cmp gva
        .ok ((s.awaitAnswer w (.old (el.width == 64) r) gva n (old.map some) none).modTs w kill, .seq)

end LoadsAndStores

section Ordering

/-- GFENCE (R148, R326): a release point of the buffer, and every earlier load performed. -/
def execGfence (h : Hdr) (sc : Scope) (s : State) : Host.Outcome State Fault Refusal :=
  s.run h fun s => do
    let w := s.who
    (s.ts w).performed sc
    match sc, s.gangId w, s.gangOf w with
    | .task, _, _ => .ok (s, .seq)
    | _, some g, some gg => .ok (s.putLine w g gg.ctx (s.ts w).sstep .release 0 [], .seq)
    | _, _, _ => .ok (s, .seq)

/-- GACQ (R148, R326). -/
def execGacq (h : Hdr) (wide : Bool) (sc : Scope) (fmt : Fmt) (d : SReg) (a : SPair) (c : Fin 32) (imm : Imm)
    (s : State) : Host.Outcome State Fault Refusal :=
  s.run h fun s => do
    let w := s.who
    let t := s.ts w
    let x ← t.readP a
    let wd : LdWidth := if wide then .b64 else .b32
    t.freeLd wd d
    t.afterAcquire
    let n := wd.bytes
    let gva ← s.refcheck w c.val (.fmt fmt) true false (globalOff x imm) n n
    s.reach gva n false fun s =>
      .ok ((s.awaitAnswer w (.scalar wd d) gva n (s.ownStores w gva n) (some sc)).modTs w fun t => t.killP h.dmA a, .seq)

/-- GREL (R148, R326). -/
def execGrel (h : Hdr) (wide : Bool) (sc : Scope) (fmt : Fmt) (a : SPair) (b : SReg) (c : Fin 32) (imm : Imm)
    (s : State) : Host.Outcome State Fault Refusal :=
  s.run h fun s => do
    let w := s.who
    let t := s.ts w
    let x ← t.readP a
    let wd : StWidth := if wide then .b64 else .b32
    let bs ← t.readSt wd b
    t.afterAcquire
    t.performed sc
    let n := wd.bytes
    let gva ← s.refcheck w c.val (.fmt fmt) false true (globalOff x imm) n n
    s.reach gva n true fun s => do
      let s ← s.buffer w .release gva bs
      .ok (s.modTs w fun t => (t.killP h.dmA a).killSt h.dmB wd b, .seq)

end Ordering

section Answers

/-- A load before this one in program order that shares a byte with it has yet to be performed (R142). -/
def ThreadSet.earlierPending (t : ThreadSet) (id gva n : Nat) : Bool :=
  (t.answers.any fun a => decide (a.id < id) && decide (a.gva < gva + n) && decide (gva < a.gva + a.n))
    || t.loads.any fun l => !l.landed && decide (l.id < id) && decide (l.gva < gva + n) && decide (gva < l.gva + l.n)

/-- The register that an answer writes. -/
def ThreadSet.answer (t : ThreadSet) (r : AnswerReg) (bs : List Byte) : ThreadSet :=
  match r with
  | .scalar w d => t.putLd w d bs
  | .vec fmt d => t.putV d (maskTag fmt (ofBytes 256 bs)) fmt
  | .old wide d =>
    if wide then t.putP (SReg.pair d) (BitVec.ofNat 64 (leNat bs)) else t.putS d (BitVec.ofNat 32 (leNat bs))

/-- A base die answers (R140, R142, R147); a line that a replica can repair is repaired first (R440). -/
def State.answerGlobal (s : State) (w : Who) (ctx : Nat) (a : PendGlobal) : State :=
  let bs := s.globalRead ctx a.gva a.own
  (s.repair ctx a.gva a.n).modTs w fun t => { t.answer a.reg bs with answers := t.answers.filter fun b => b.id != a.id }

/-- A byte that an access has still to read lies on a page that has been evicted since it was issued (R441, R443). -/
def State.awaitsPage (s : State) (ctx gva : Nat) (own : List (Option Byte)) : Bool :=
  own.zipIdx.any fun e => e.1.isNone && (s.globalByte ctx (gva + e.2)).isNone

/-- An access cannot yet be performed: an entry that has been committed but not drained covers what it has still to read (R143), a
load of the task of the same bytes comes before it (R142), or a page of it is away. -/
def State.accessWaits (s : State) (w : Who) (ctx id gva : Nat) (own : List (Option Byte)) : Bool :=
  s.awaitsDrain ctx gva own || (s.ts w).earlierPending id gva own.length || s.awaitsPage ctx gva own

/-- A byte that an access has still to read lies in a poisoned line (R446). -/
def State.poisonAhead (s : State) (ctx gva : Nat) (own : List (Option Byte)) : Bool :=
  s.globalPoison ctx gva own.length && own.zipIdx.any fun e => e.1.isNone && s.globalPoison ctx (gva + e.2) 1

/-- The walk for a byte that an access has still to read meets an error (R446, R448). -/
def State.brokenAhead (s : State) (ctx gva : Nat) (own : List (Option Byte)) : Bool :=
  own.zipIdx.any fun e => e.1.isNone && s.walkBroken ctx (gva + e.2)

/-- The first byte that an access has still to read and that a test strikes. -/
def unreadAt (bad : Nat → Bool) (gva : Nat) (own : List (Option Byte)) : Nat :=
  (own.zipIdx.find? fun e => e.1.isNone && bad (gva + e.2)).elim gva fun e => gva + e.2

/-- Where the walk of an access meets its error, and the poisoned line that it reads first (R475). -/
def State.brokenAt (s : State) (ctx gva : Nat) (own : List (Option Byte)) : Nat := unreadAt (s.walkBroken ctx) gva own
def State.poisonAt (s : State) (ctx gva : Nat) (own : List (Option Byte)) : Nat :=
  unreadAt (fun a => s.globalPoison ctx a 1) gva own / 64 * 64

/-- GLOBAL_RESPONSE (R140): the access is performed, once it need not wait. -/
def execGlobalResponse (core : CoreId) (t id : Nat) (s : State) : Host.Outcome State Fault Refusal :=
  let w : Who := { core := core, t := Fin.ofNat 16 t }
  match (s.ts w).answers.find? fun a => a.id == id, s.gangOf w with
  | some a, some g =>
    if g.err.isSome then .next s
    else if s.brokenAhead g.ctx a.gva a.own then .next (s.unpinnedAt g.ctx g.q 6 (s.brokenAt g.ctx a.gva a.own) (coreWhere core))
    else if s.accessWaits w g.ctx id a.gva a.own then .next s
    else if s.poisonAhead g.ctx a.gva a.own then .next (s.consume w .poison none (s.poisonAt g.ctx a.gva a.own))
    else .next (s.answerGlobal w g.ctx a)
  | _, _ => .next s

/-- The load timeline (R140). -/
def ThreadSet.settleLoads (t : ThreadSet) : ThreadSet :=
  let rest := t.loads.dropWhile fun l => l.landed
  { t with
    loads := rest
    loadTl := match rest with
      | [] => t.loadCount
      | l :: _ => l.number - 1 }

/-- The words of a block load that have not landed. -/
def BlockLoad.rest (l : BlockLoad) : List Nat := (List.range (l.n / 8)).filter fun i => !l.done.contains i

/-- Words of a block load land in the staging store, and stand there (R140). -/
def State.landWords (s : State) (w : Who) (l : BlockLoad) (words : List Nat) : State :=
  let ctx := (s.gangOf w).elim 0 (·.ctx)
  let bs := s.globalRead ctx l.gva l.own
  let s := (s.repair ctx l.gva l.n).modTs w fun t =>
    { t with loads := t.loads.map fun (x : BlockLoad) => if x.id = l.id then { x with done := x.done ++ words } else x }
  words.foldl (fun s i => s.storeBytes w (l.dst + 8 * i) (bytesAt bs (8 * i) 8)) s

/-- A word of a block load that can land now, and by a free choice does (R140). -/
def State.wordLands (s : State) (w : Who) (l : BlockLoad) (i : Nat) : Bool :=
  let ctx := (s.gangOf w).elim 0 (·.ctx)
  let gva := l.gva + 8 * i
  let own := (l.own.drop (8 * i)).take 8
  !Config.seesOld s.tick (l.dst / 8 + i) && !s.accessWaits w ctx l.id gva own && !s.poisonAhead ctx gva own
    && !s.brokenAhead ctx gva own

/-- Words of the block loads of a task land before their load's number is reached, in any order (R140): each that an instruction
reads then is the old one or the loaded one, for good. -/
def State.landSome (s : State) (w : Who) : State :=
  if (s.gangOf w).all (·.err.isSome) then s
  else ((s.ts w).loads.filter fun l => !l.landed).foldl (fun s l => s.landWords w l (l.rest.filter (s.wordLands w l))) s

/-- BLOCK_LOAD_COMPLETE (R140): the words that have not landed do. -/
def execBlockLoadComplete (core : CoreId) (t number : Nat) (s : State) : Host.Outcome State Fault Refusal :=
  let w : Who := { core := core, t := Fin.ofNat 16 t }
  match (s.ts w).loads.find? fun l => l.number == number && !l.landed, s.gangOf w with
  | some l, some g =>
    let own := l.own.zipIdx.map fun e => if l.done.contains (e.2 / 8) then some (e.1.getD 0) else e.1
    if g.err.isSome then .next s
    else if s.brokenAhead g.ctx l.gva own then .next (s.unpinnedAt g.ctx g.q 6 (s.brokenAt g.ctx l.gva own) (coreWhere core))
    else if s.accessWaits w g.ctx l.id l.gva own then .next s
    else if s.poisonAhead g.ctx l.gva own then .next (s.consume w .poison none (s.poisonAt g.ctx l.gva own))
    else
      .next ((s.landWords w l l.rest).modTs w fun t =>
        { t with loads := t.loads.map fun (x : BlockLoad) =>
            if x.number = number then { x with landed := true } else x }.settleLoads)
  | _, _ => .next s

end Answers

section Pushes

/-- A field of a distributor pattern (R155). -/
def patField (p : BitVec 128) (lo w : Nat) : Nat := p.toNat / 2 ^ lo % 2 ^ w

/-- The first 32-bit word of a pattern record at fault (R155); the target rectangle lies in word 0. -/
def State.patternBad (s : State) (w : Who) (p : BitVec 128) : Option Nat :=
  let f := patField p
  let in0 := decide (1 ≤ f 16 8) && decide (f 16 8 ≤ 32) && decide (1 ≤ f 24 8) && decide (f 24 8 ≤ 32)
    && (s.coreNamed w (f 0 8) (f 8 8)).isSome && (s.coreNamed w (f 0 8 + f 16 8 - 1) (f 8 8 + f 24 8 - 1)).isSome
  if !in0 then some 0
  else if f 42 22 ≠ 0 then some 1
  else if f 82 14 ≠ 0 ∨ 0x30000 ≤ f 64 18 then some 2
  else if f 114 14 ≠ 0 then some 3
  else none

/-- The blocks of a dealt push (R156): gang column and row, address, offset and length. -/
def dealt (p : BitVec 128) (n : Nat) : List (Nat × Nat × Nat × Nat × Nat) :=
  let f := patField p
  let b := 8 * (f 33 9 + 1)
  let cells := f 16 8 * f 24 8
  (List.range ((n + b - 1) / b)).map fun i =>
    let j := i % cells
    let rnd := i / cells
    let c := if f 32 1 = 0 then (f 0 8 + j % f 16 8, f 8 8 + j / f 16 8) else (f 0 8 + j / f 24 8, f 8 8 + j % f 24 8)
    (c.1, c.2, 8 * f 64 18 + rnd * 8 * f 96 18, i * b, min b (n - i * b))

/-- A subscription is in effect for a push of a superstep (R70). At a core that the release of the superstep has reached,
an entry made in it is not yet in effect and one removed in it still is; at a core that is still in the one before, where
every thread set waits at the barrier that has completed, the entries that its release will leave are. -/
def Subscription.inEffect (u : Subscription) (core push : Word) : Bool :=
  if core = push then u.active else !u.leaving

/-- A core's subscriptions to a tag of a memory core that a test lets stand, each with the core's place and its base. -/
def State.subscribedAt (s : State) (c : CoreId) (holds : Subscription → Bool) (stack chan tag : Nat) : List (Nat × Nat × Nat) :=
  match c with
  | .compute x y =>
    ((s.core c).shared.subs.filter fun u =>
      holds u && u.tag == tag && u.stack == stack && u.chan == chan).map fun u => (x, y, u.base)
  | _ => []

/-- The subscribers of a multicast push of a superstep: the gang's subscriptions in effect (R70, R71), each core with its
base. A push of a task that has no gang is untagged and reaches those in effect as it leaves, of every core (R70, R153). No run
makes one: every task has a gang, whose tag its pushes carry (R38, R153; the untagged pushes of R53, R70 and R327 are read so,
DEDUCED, log entry 74). -/
def State.subscribers (s : State) (g : Option Gang) (step : Word) (stack chan tag : Nat) : List (Nat × Nat × Nat) :=
  match g with
  | some g => g.rect.flatMap fun c => s.subscribedAt c (·.inEffect (s.core c).sstep step) stack chan tag
  | none => s.compute.flatMap fun e => s.subscribedAt (.compute (e.1 % 32) (e.1 / 32)) (·.active) stack chan tag

/-- The packets of a push by form (R154, R327). -/
def State.pushPackets (s : State) (f : PushForm) (src : Nat) (bs : List Byte) (dst crd tag : Word) :
    Option (List Packet) :=
  let w := s.who
  let t := s.ts w
  let mk (x y a o n : Nat) (mc : Bool) : List Packet :=
    packetsTo (s.senderOf w) (t.sendCount + 1) t.sstep s.setIndex x y a (src + o) ((bs.drop o).take n) false .write .b64 mc
  match f with
  | .direct _ _ => (s.coreNamed w (crd.toNat % 256) (crd.toNat / 256 % 256)).map fun p =>
      mk p.1 p.2 dst.toNat 0 bs.length false
  | .deal => some ((dealt t.pattern bs.length).flatMap fun b =>
      match s.coreNamed w b.1 b.2.1 with
      | some p => mk p.1 p.2 b.2.2.1 b.2.2.2.1 b.2.2.2.2 false
      | none => [])
  | .mc _ =>
    match w.core with
    | .memory st ch =>
      let ps := (s.subscribers (s.gangOf w) t.sstep st ch tag.toNat).flatMap fun u => mk u.1 u.2.1 u.2.2 0 bs.length true
      some (ps.map fun p => { p with untagged := (s.gangOf w).isNone })
    | _ => some []

/-- The checks of a push by form (R327), with its operands: destination, coordinates, tag. -/
def State.pushOperands (s : State) (f : PushForm) (src : Int) : Except Stop (Word × Word × Word) := do
  let w := s.who
  let t := s.ts w
  match f with
  | .direct b c => do
    let dst ← t.readS b
    let crd ← t.readS c
    if src % 8 ≠ 0 then .error (protAt src)
    else if dst.toNat % 8 ≠ 0 then .error (.trap .prot dst)
    else if crd.toNat / 65536 ≠ 0 ∨ (s.coreNamed w (crd.toNat % 256) (crd.toNat / 256 % 256)).isNone then
      .error (.trap .prot crd)
    else .ok (dst, crd, 0)
  | .deal =>
    if src % 8 ≠ 0 then .error (protAt src)
    else if (s.patternBad w t.pattern).isSome then .error (.trap .prot 0)
    else .ok (0, 0, 0)
  | .mc b => do
    let tag ← t.readS b
    if src % 8 ≠ 0 then .error (protAt src)
    else if tag.toNat / 65536 ≠ 0 then .error (.trap .prot tag)
    else .ok (0, 0, tag)

def ThreadSet.killPush (t : ThreadSet) (h : Hdr) : PushForm → ThreadSet
  | .direct b c => (t.killS h.dmB b).killS h.dmC c
  | .deal => t
  | .mc b => t.killS h.dmB b

/-- PUSH (R153 to R156, R327). -/
def execPush (h : Hdr) (f : PushForm) (a : SPair) (imm : Imm) (n : BitVec 13) (s : State) :
    Host.Outcome State Fault Refusal :=
  s.run h fun s => do
    let w := s.who
    let t := s.ts w
    let x ← t.readP a
    let src := ea x imm 0
    let len := 8 * (n.toNat + 1)
    let o ← s.pushOperands f src
    s.access w [(src, len)]
    if t.sendsFull then .error (.wait 4)
    else
      let bs ← s.loadBytes w src.toNat len
      match s.pushPackets f src.toNat bs o.1 o.2.1 o.2.2 with
      | none => .error (.trap .prot o.2.1)
      | some ps =>
        .ok ((s.launch ps).modTs w fun t => (((t.openSend ps.length false).settleSends).killP h.dmA a).killPush h f, .seq)

/-- DPAT (R155, R328). -/
def execDpat (h : Hdr) (a : SPair) (imm : Imm) (s : State) : Host.Outcome State Fault Refusal :=
  s.run h fun s => do
    let w := s.who
    let x ← (s.ts w).readP a
    let p := ea x imm 0
    aligned 8 [p]
    s.access w [(p, 16)]
    let bs ← s.loadBytes w p.toNat 16
    let v : BitVec 128 := ofBytes 128 bs
    match s.patternBad w v with
    | some i => .error (protAt (p + 4 * i))
    | none => .ok (s.modTs w fun t => { t.killP h.dmA a with pattern := v }, .seq)

/-- A field of a binding (R329). -/
def refField (r : Option Ref) (f : GrefField) : Word :=
  match r with
  | none => 0
  | some r =>
    match f with
    | .desc => BitVec.ofNat 32 (r.fmt.code + (r.rank - 1) % 4 * 16 + (if r.r then 64 else 0) + (if r.w then 128 else 0))
    | .ext n => if n.val < r.rank then BitVec.ofNat 32 (r.ext.getD n.val 0) else 0
    | .szlo => BitVec.ofNat 32 r.size
    | .szhi => BitVec.ofNat 32 (r.size / 2 ^ 32)

/-- GREF (R329). -/
def execGref (h : Hdr) (f : GrefField) (d : SReg) (c : Fin 32) (s : State) : Host.Outcome State Fault Refusal :=
  s.run h fun s => do
    (s.ts s.who).freeS d
    .ok (s.modTs s.who fun t => t.putS d (refField (s.refOf s.who c.val) f), .seq)

end Pushes

end Sys2Proof.Machine
end

