-- ==== Sys2Proof/Machine/Engines.lean ====
section
/-! DEFINITION. Engine posts and the copy and overlay engines (R331 to R337, R388, R418, R426): the commands and their
checks, the completion of copies and overlay loads, and the network engine's reading of its source bytes. -/
namespace Sys2Proof.Machine

section Commands

/-- A 32-bit word of a command. -/
def cmdWord (bs : List Byte) (i : Nat) : Nat := fieldAt bs (4 * i) 4

/-- The first failing word of a command (R331). -/
def firstBad (bad : List Bool) : Option Nat := bad.findIdx? fun b => b

/-- A launch record of a context by its handle; nothing names one whose capsule's install is still withheld (R386). -/
def Context.launch (c : Context) (h : Nat) : Option Launch :=
  c.launches.find? fun l => l.handle == h && !(c.capsule l.capsule).any (·.withheld)

/-- LEN of a copy command. -/
def copyLen (bs : List Byte) : Nat := cmdWord bs 4 + 2 ^ 32 * (cmdWord bs 5 % 256)

/-- The first failing word of a copy command (R332). -/
def Context.copyBad (c : Context) (bs : List Byte) : Option Nat :=
  let w := cmdWord bs
  let sk := w 5 / 2 ^ 8 % 16
  let dk := w 5 / 2 ^ 12 % 16
  let dig := w 5 / 2 ^ 16 % 2 == 1
  let dep := w 5 / 2 ^ 17 % 2 == 1
  let pair := (sk == 0 && dk == 0) || (sk == 1 && dk == 0) || (sk == 0 && dk == 1) || (sk == 2 && dk == 0)
  firstBad
    [w 0 % 8 != 0, false, w 2 % 8 != 0, false, copyLen bs % 8 != 0 || copyLen bs == 0, w 5 / 2 ^ 18 != 0 || !pair,
     if dig then w 6 % 32 != 0 else w 6 != 0, !dig && w 7 != 0,
     if dep then (c.launch (w 8)).isNone else w 8 != 0, w 9 != 0]

/-- The lowest byte of a range in one of the ranges given. -/
def lowestIn (rs : List (Nat × Nat)) (a n : Nat) : Option Nat :=
  (rs.foldl (fun acc r => if a < r.1 + r.2 ∧ r.1 < a + n then minOpt acc (some (max a r.1 : Nat)) else acc) none).map
    Int.toNat

/-- The body ranges of a context, and its images (R387). -/
def Context.bodies (c : Context) : List (Nat × Nat) := c.capsules.map fun k => (k.bodyBase, k.bodyLen)
def Context.images (c : Context) : List (Nat × Nat) := c.capsules.map fun k => (k.base, k.imageLen)

/-- The lowest address at which a copy meets a sealed range (R388). -/
def Context.sealed (c : Context) (bs : List Byte) : Option Nat :=
  let sk := cmdWord bs 5 / 2 ^ 8 % 16
  let dk := cmdWord bs 5 / 2 ^ 12 % 16
  let n := copyLen bs
  let src := if sk = 0 then lowestIn c.bodies (fieldAt bs 0 8) n else none
  let dst := if dk = 0 then lowestIn (c.images ++ c.bodies) (fieldAt bs 8 8) n else none
  match src, dst with
  | some x, some y => some (min x y)
  | some x, none => some x
  | none, y => y

/-- The job of a copy command. -/
def copyJobOf (bs : List Byte) (id ctx q number : Nat) (gang : Option Nat) (record : Nat) (xpc : Word)
    (poster : Option (CoreId × Nat)) : CopyJob :=
  let w := cmdWord bs 5
  { id := id, ctx := ctx, q := q, number := number, gang := gang, record := record, xpc := xpc
    saddr := fieldAt bs 0 8, daddr := fieldAt bs 8 8, len := copyLen bs, sk := w / 2 ^ 8 % 16, dk := w / 2 ^ 12 % 16
    dig := w / 2 ^ 16 % 2 == 1, digaddr := fieldAt bs 24 8, dep := w / 2 ^ 17 % 2 == 1, deprec := fieldAt bs 32 4
    poster := poster, src := none, late := [], finished := false }

/-- What every post does first: the command's address, its alignment, access, its bytes (R331). -/
def State.command (s : State) (a : SPair) (imm : Imm) (size : Nat) : Except Stop (Nat × List Byte) := do
  let x ← (s.ts s.who).readP a
  let p := ea x imm 0
  aligned 8 [p]
  s.access s.who [(p, size)]
  let bs ← s.loadBytes s.who p.toNat size
  .ok (p.toNat, bs)

/-- The trap of a command whose word fails (R331). -/
def refused (cmd i : Nat) : Stop := .trap .prot (BitVec.ofNat 32 (cmd + 4 * i))

/-- The poster has 16 posts of an engine short of their timeline (R331). -/
def engineFull (n : Nat) : Except Stop Unit := if Config.heldSends ≤ n then .error (.wait 4) else .ok ()

end Commands

section Copies

/-- Where a copy writes global memory: address and length. -/
def CopyJob.writes (j : CopyJob) : List (Nat × Nat) :=
  (if j.dk = 0 then [(j.daddr, j.len)] else []) ++ if j.dig then [(j.digaddr, 32)] else []

/-- A copy takes its number on its queue's timeline (R157, R332); pages that migrate by then give it no right to write yet
(R442). -/
def State.startCopy (s : State) (j : CopyJob) : State :=
  let late := (s.ctx j.ctx).elim [] fun c => (j.writes.flatMap fun r => pageStarts r.1 r.2).filter c.migrating
  let s := { s with copies := s.copies ++ [{ j with late := late }], nextId := s.nextId + 1 }
  s.modQueue j.ctx j.q fun q => { q with copyCount := q.copyCount + 1 }

/-- CPYPOST (R332, R388). -/
def execCpypost (h : Hdr) (d a : SPair) (imm : Imm) (s : State) : Host.Outcome State Fault Refusal :=
  s.run h fun s => do
    let w := s.who
    (s.ts w).freeP d
    let (cmd, bs) ← s.command a imm 40
    match s.gangId w, s.gangOf w with
    | some gid, some g =>
      match s.ctx g.ctx with
      | none => .error (refused cmd 0)
      | some c =>
        match c.copyBad bs with
        | some i => .error (refused cmd i)
        | none =>
          match c.sealed bs with
          | some x => .error (.trap .bodysealed (BitVec.ofNat 32 x))
          | none =>
            engineFull (s.copies.filter fun j => j.gang == some gid && j.poster == some (w.core, w.t.val)).length
            let n := (s.queue g.ctx g.q).elim 0 (·.copyCount) + 1
            let j := copyJobOf bs s.nextId g.ctx g.q n (some gid) g.idx (s.ts w).pc (some (w.core, w.t.val))
            let s := s.startCopy { j with tour := g.tour }
            .ok (s.modTs w fun t => (t.killP h.dmA a).putP d (BitVec.ofNat 64 n), .seq)
    | _, _ => .error (refused cmd 0)

/-- A copy has finished, or has failed: its queue's timeline (R157, R332). -/
def State.settleCopy (s : State) (j : CopyJob) : State :=
  let s := s.modQueue j.ctx j.q fun q =>
    let done := q.copyDone ++ [j.number]
    let v := climb done.length q.copyTl done
    { q with copyTl := v, copyDone := done.filter (v < ·) }
  let tl := (s.queue j.ctx j.q).elim 0 (·.copyTl)
  let jobs := s.copies.map fun (x : CopyJob) => if x.id = j.id then { x with finished := true } else x
  { s with copies := jobs.filter fun x => !(x.ctx == j.ctx && x.q == j.q && decide (x.number ≤ tl)) }

/-- One page of a copy's range (R332, R387, R435): where it cannot be translated, the address, and whether the walk met a
malformed entry. A right that is lacking, a page that is away, and a sealed range all end the copy. -/
def Context.copyStop (c : Context) (gva n : Nat) (wr : Bool) : Option (Nat × Bool) :=
  let page := (pageStarts gva n).findSome? fun a =>
    match c.walk a with
    | .absent => some (a, false)
    | .broken => some (a, true)
    | .leaf _ p => if (wr && !pteW p) || (!wr && !pteR p) then some (a, false) else none
  let held := lowestIn (if wr then c.images ++ c.bodies else c.bodies) gva n
  match page, held with
  | some (a, b), some x => if x < a then some (x, false) else some (a, b)
  | none, some x => some (x, false)
  | p, none => p

/-- The earliest of the failures, by how far into the copy they lie. -/
def earliest : List (Option (Nat × Nat × Bool)) → Option (Nat × Nat × Bool)
  | [] => none
  | none :: r => earliest r
  | some x :: r =>
    match earliest r with
    | some y => if y.1 < x.1 then some y else some x
    | none => some x

/-- Where a copy stops: offset, address, and whether the walk is to blame (R332, R456). -/
def CopyJob.stop (j : CopyJob) (c : Context) (e : CopyEnd) : Option (Nat × Nat × Bool) :=
  let src := if j.sk = 0 ∧ j.src.isNone then (c.copyStop j.saddr j.len false).map fun x => (x.1 - j.saddr, x) else none
  let dst := if j.dk = 0 then (c.copyStop j.daddr j.len true).map fun x => (x.1 - j.daddr, x) else none
  let dig := if j.dig then (c.copyStop j.digaddr 32 true).map fun x => (j.len, x) else none
  let bus := match e with
    | .busError a _ => some ((if j.sk = 0 then a - j.daddr else a - j.saddr), a, false)
    | .done _ => none
  earliest [src, dst, bus, dig]

/-- The bytes that host or peer memory supplied. -/
def copyOutside : CopyEnd → List Byte
  | .done bs => bs
  | .busError _ bs => bs

/-- An end that the outside can give this copy: bytes where the source lies outside and has not been read, a bus error at an
address of a range that does (R456). -/
def CopyJob.endOk (j : CopyJob) (e : CopyEnd) : Bool :=
  let inside (lo a : Nat) : Bool := decide (lo ≤ a) && decide (a < lo + j.len)
  ((copyOutside e).length == if j.sk = 0 ∨ j.src.isSome then 0 else j.len)
    && match e with
      | .done _ => true
      | .busError a _ => (j.sk != 0 && j.src.isNone && inside j.saddr a) || (j.dk != 0 && inside j.daddr a)

/-- The bytes of a copy's source, as it reads them now. -/
def State.copySource (s : State) (j : CopyJob) (outside : List Byte) : List Byte :=
  if j.sk = 0 then (List.range j.len).map fun i => (s.globalByte j.ctx (j.saddr + i)).getD 0 else outside

/-- A copy reads its source before it writes (R41, R331): one that cannot be read yet, or at all, is left to its completion. -/
def State.readCopy (s : State) (j : CopyJob) (outside : List Byte) : State :=
  let stops := j.sk == 0 && ((s.ctx j.ctx).bind fun c => c.copyStop j.saddr j.len false).isSome
  let bad := j.sk == 0 && (s.undrained j.ctx j.saddr j.len || s.globalPoison j.ctx j.saddr j.len)
  if j.src.isSome || stops || bad || outside.length != (if j.sk = 0 then 0 else j.len) then s
  else { s with copies := s.copies.map fun (x : CopyJob) =>
      if x.id = j.id then { x with src := some (s.copySource j outside) } else x }

/-- What a copy that fails leaves of its destination: each 8-byte word that it could have carried may have arrived, or
not (the manual says neither). -/
def State.copyPart (s : State) (j : CopyJob) (bs : List Byte) : State :=
  match s.ctx j.ctx with
  | none => s
  | some c =>
    if j.dk ≠ 0 then s
    else (List.range (j.len / 8)).foldl (fun s i =>
      let o := 8 * i
      let ok := (j.sk != 0 || (c.copyStop (j.saddr + o) 8 false).isNone) && (c.copyStop (j.daddr + o) 8 true).isNone
      if ok && !Config.seesOld s.tick i then s.engineWrite j.ctx (j.daddr + o) (bytesAt bs o 8) else s) s

/-- A copy has failed (R332, R418, R465): its COPY record fails with error 13, or its gang ends with COPYFAIL, or, where
that gang's record has completed, its queue records error 15. A rival that a round holds is made faulted as a live one is (DESIGN
CHOICE, log entry 81: R168 faults live rivals, R332 speaks of a gang that runs); of one that has faulted or been wiped while its
tournament goes on nothing is recorded (DESIGN CHOICE, log entry 81). -/
def State.copyFailed (s : State) (j : CopyJob) (addr : Nat) : State :=
  let x := BitVec.ofNat 32 addr
  match j.gang with
  | none => s.modQueue j.ctx j.q fun q => q.fail j.record 13
  | some g =>
    match s.gang g with
    | some gg => if gg.rival = .faulted then s else s.programFault g .copyfail j.xpc x false
    | none =>
      if s.recordRuns none j.tour then s
      else s.modQueue j.ctx j.q fun q => { q with
        err := 15, errIdx := j.record, xcause := Cause.copyfail.code, xpc := j.xpc, xval := x }

/-- An error that a copy engine meets and no gang can be pinned for (R448): the copy ends, its queue's fault domain is
torn down. -/
def State.copyTorn (s : State) (j : CopyJob) (src addr : Nat) : State :=
  let s := s.settleCopy j
  let s := match j.gang with
    | none => s.modQueue j.ctx j.q fun q => q.fail j.record 13
    | some _ => s
  s.unpinned j.ctx j.q src addr

/-- The counter of a launch record (R426). -/
def State.addDep (s : State) (ctx rec : Nat) : State :=
  s.modCtx ctx fun c => { c with launches := c.launches.map fun (l : Launch) =>
    if l.handle = rec then { l with counter := min (l.counter + 1) (2 ^ 31 - 1) } else l }

/-- A copy completes (R332, R418, R426): its bytes, its digest, the dependence count, its record. -/
def State.copyDone (s : State) (j : CopyJob) (bs : List Byte) : State :=
  let s := if j.dk = 0 then s.engineWrite j.ctx j.daddr bs else s
  let s := if j.dig then s.engineWrite j.ctx j.digaddr (sha256 bs) else s
  let s := if j.dep then s.addDep j.ctx j.deprec else s
  let s := s.settleCopy j
  match j.gang with
  | none => s.modQueue j.ctx j.q fun q => q.complete j.record
  | some _ => s

/-- COPY_COMPLETE (R332): it waits for bytes that a completed barrier has still to drain (R143), and for pages that had
begun to migrate before it was accepted (R442). -/
def execCopyComplete (id : Nat) (e : CopyEnd) (s : State) : Host.Outcome State Fault Refusal :=
  match s.copies.find? fun j => j.id == id && !j.finished with
  | none => .next s
  | some j =>
    let waits := (j.sk == 0 && j.src.isNone && s.undrained j.ctx j.saddr j.len) || (j.dk == 0 && s.undrained j.ctx j.daddr j.len)
      || (j.dig && s.undrained j.ctx j.digaddr 32)
    match s.ctx j.ctx with
    | none => .next (s.settleCopy j)
    | some c =>
      if waits || j.late.any c.migrating || !j.endOk e then .next s
      else
        let bs := j.src.getD (s.copySource j (copyOutside e))
        match j.stop c e with
        | some (_, a, true) => .next ((s.copyPart j bs).copyTorn j 6 a)
        | some (_, a, false) => .next (((s.copyPart j bs).settleCopy j).copyFailed j a)
        | none =>
          if j.sk == 0 && j.src.isNone && s.globalPoison j.ctx j.saddr j.len then 
            .next ((s.copyPart j bs).copyTorn j 5 (s.poisonUnit j.ctx j.saddr j.len))
          else .next (s.copyDone j bs)

end Copies

section Overlays

/-- The first failing word of an overlay command (R333), and the core it names. -/
def State.overlayBad (s : State) (lines : Nat) (bs : List Byte) : Option Nat :=
  let w := cmdWord bs
  let start := w 0
  let n := w 1 % 65536
  firstBad
    [start % 64 != 0 || decide (lines ≤ start / 64), w 1 / 65536 != 0 || n == 0 || decide (2048 < n)
       || decide (lines < start / 64 + n),
     w 2 / 65536 != 0 || (s.coreNamed s.who (w 2 % 256) (w 2 / 256 % 256)).isNone, w 3 != 0]

/-- OVLPOST (R333). -/
def execOvlpost (h : Hdr) (d a : SPair) (imm : Imm) (s : State) : Host.Outcome State Fault Refusal :=
  s.run h fun s => do
    let w := s.who
    (s.ts w).freeP d
    let (cmd, bs) ← s.command a imm 16
    match s.overlayBad ((s.capsuleOf w).elim 0 (·.lines.length)) bs with
    | some i => .error (refused cmd i)
    | none =>
      match s.gangId w, s.coreNamed w (cmdWord bs 2 % 256) (cmdWord bs 2 / 256 % 256) with
      | some gid, some (x, y) =>
        let c : CoreId := .compute x y
        engineFull (s.overlays.filter fun o => o.gang == gid && o.poster == w.core && o.ts == w.t.val).length
        let n := (s.core c).overlayCount + 1
        let o : OverlayJob :=
          { id := s.nextId, gang := gid, x := x, y := y, number := n, line := cmdWord bs 0 / 64
            lines := cmdWord bs 1 % 65536, poster := w.core, ts := w.t.val, finished := false }
        let s := { s with overlays := s.overlays ++ [o], nextId := s.nextId + 1 }
        let s := s.modCore c fun k => { k with overlayCount := n }
        .ok (s.modTs w fun t => (t.killP h.dmA a).putP d (BitVec.ofNat 64 n), .seq)
      | _, _ => .error (refused cmd 2)

/-- OVERLAY_LOAD_COMPLETE (R333): the lines are in the scratchpad of the core, where its gang still holds it. A poisoned line
of the image, or of the body that the core runs, is consumed by the gang (R446, R448). -/
def execOverlayLoadComplete (id : Nat) (s : State) : Host.Outcome State Fault Refusal :=
  match s.overlays.find? fun o => o.id == id && !o.finished with
  | none => .next s
  | some o =>
    let c : CoreId := .compute o.x o.y
    if (s.core c).gang ≠ some o.gang then .next { s with overlays := s.overlays.filter fun p => p.id != id }
    else
      match (s.gang o.gang).bind fun g => s.capsule g.ctx g.capsule with
      | none => .next { s with overlays := s.overlays.filter fun p => p.id != id }
      | some k =>
        let build := k.runId (s.core c).ts[0].native
        match (s.gang o.gang).bind fun g => s.codePoison g.ctx k build o.line o.lines with
        | some a => .next (if s.liveGang o.gang then s.consume { core := c, t := 0 } .poison none a else s)
        | none =>
          let s := s.modCore c fun u =>
            ((List.range o.lines).foldl (fun u i => u.install (k.tagOf build (o.line + i) o.number)) u).settleOverlay o.number
          let tl := (s.core c).overlayTl
          .next { s with overlays :=
            (s.overlays.map fun (p : OverlayJob) => if p.id = id then { p with finished := true } else p).filter fun p =>
              !(p.x == o.x && p.y == o.y && decide (p.number ≤ tl)) }

end Overlays

section NetworkPosts

/-- The first failing word of a work request (R334). -/
def netBad (bs : List Byte) : Option Nat :=
  let w := cmdWord bs
  let opc := w 0 % 16
  let aop := w 0 / 16 % 16
  let el := w 0 / 256 % 8
  let atom := opc == 2
  let len := w 7 % 2 ^ 17
  firstBad
    [decide (2 < opc) || w 0 / 2048 != 0 || (if atom then !atomPairOk aop el || aop == 8 else aop != 0 || el != 0),
     w 1 / 65536 != 0, false, false,
     if opc == 1 then w 4 != 0 else w 4 % 8 != 0, opc == 1 && w 5 != 0,
     w 6 / 2 ^ 24 != 0 || (if atom then w 6 % 2 ^ 24 != 0 else w 6 % 8 != 0),
     w 7 / 2 ^ 17 != 0 || (if atom then len != (Elem.ofCode el).width / 8
       else len % 8 != 0 || len == 0 || decide (65536 < len)),
     !atom && w 8 != 0, !atom && w 9 != 0, w 10 / 65536 != 0, w 11 != 0]

/-- NWPOST (R334, R335): the engine reads the source bytes later, no packet leaves before the barrier. -/
def execNwpost (h : Hdr) (d a : SPair) (imm : Imm) (s : State) : Host.Outcome State Fault Refusal :=
  s.run h fun s => do
    let w := s.who
    (s.ts w).freeP d
    let (cmd, bs) ← s.command a imm 48
    match netBad bs with
    | some i => .error (refused cmd i)
    | none =>
      let f := cmdWord bs
      let atom := f 0 % 16 == 2
      let laddr : Nat := f 6 % 2 ^ 24
      let len : Nat := f 7 % 2 ^ 17
      if atom then .ok () else s.access w [((laddr : Int), len)]
      match s.gangId w, s.gangOf w with
      | some gid, some g =>
        let posts := (s.ctx g.ctx).elim [] (·.posts)
        engineFull (posts.filter fun p => p.gang == gid && p.poster == w.core && p.ts == w.t.val).length
        let n := (s.ctx g.ctx).elim 0 (·.netCount) + 1
        let p : Post :=
          { number := n, gang := gid, q := g.q, idx := g.idx, poster := w.core, ts := w.t.val
            step := if w.core.isMemory then (s.ts w).sstep else (s.core w.core).sstep
            opc := f 0 % 16, aop := f 0 / 16 % 16, elem := f 0 / 256 % 8, ccnt := f 1 % 65536, rcnt := f 10 % 65536
            tour := g.tour, peer := f 2, rkey := f 3, roff := fieldAt bs 16 8, laddr := laddr, len := len
            opnd := BitVec.ofNat 64 (fieldAt bs 32 8)
            src := if atom then [] else (s.core w.core).store.readN laddr len
            read := atom, released := false, ended := false, tries := [] }
        let s := s.modCtx g.ctx fun c => { c with netCount := n, posts := c.posts ++ [p] }
        .ok (s.modTs w fun t => (t.killP h.dmA a).putP d (BitVec.ofNat 64 n), .seq)
      | _, _ => .error (refused cmd 0)

/-- The network engine reads the source bytes of a post from the poster's store (R331, R335); a word written since
acceptance is seen old or new. Poison that it meets is no gang's (R448): the post fails and the queue's domain is torn
down. -/
def State.readPost (s : State) (ctx : Nat) (p : Post) : State :=
  let k := s.core p.poster
  let hit := (s.gang p.gang).bind fun g => (g.readInject s p.poster p.laddr p.len).map fun i => (i, g.injectWord i)
  if k.poisoned p.laddr p.len || hit.isSome then
    let s := hit.elim s fun i => s.modGang p.gang fun g => g.fired i.1
    let word := (wordsHit k.poison p.laddr p.len ++ (hit.map (·.2)).toList).foldl min (p.laddr + p.len)
    (s.failPost ctx p 6).unpinnedAt ctx p.q 5 word (coreWhere p.poster)
  else
    let bs := p.src.zipIdx.map fun e =>
      let a := p.laddr + e.2
      if Config.seesOld s.tick (a / 8) then e.1 else k.store.read a
    let p' := { p with src := bs, read := true }
    let s := s.modCtx ctx fun c => { c with posts := c.posts.map fun (x : Post) => if x.number = p.number then p' else x }
    s.depart ctx p'

/-- ENGINE_SOURCE_READ (R41, R331, R335). -/
def execEngineSourceRead (ctx : Nat) (p : PostRead) (s : State) : Host.Outcome State Fault Refusal :=
  match p with
  | .network number =>
    match (s.ctx ctx).bind fun c => c.posts.find? fun p => p.number == number && !p.read with
    | some p => .next (s.readPost ctx p)
    | none => .next s
  | .copy id outside =>
    match s.copies.find? fun j => j.id == id && j.ctx == ctx && !j.finished with
    | some j => .next (s.readCopy j outside)
    | none => .next s

end NetworkPosts

section QueuePosts

/-- The slots of a ring that accepted records still wait for, released or not (R336). -/
def State.promised (s : State) (ctx q : Nat) : Nat :=
  let mine (p : QPost) : Bool := p.ctx == ctx && p.q == q
  (s.qposts.filter mine).length + (s.deferred.filter fun d =>
    match d with
    | .record p => mine p
    | .finish _ _ _ _ _ | .tear _ _ _ _ => false).length

/-- Every slot of a ring is written or promised (R336, R414). -/
def State.ringFull (s : State) (ctx q : Nat) (x : Queue) : Bool :=
  let promised := s.promised ctx q
  decide (2 ^ x.log2n ≤ (x.tail + 2 ^ x.log2n - x.free) % 2 ^ x.log2n + promised + 1)

/-- The status of a QPOST (R336, R414). -/
def State.qpostStatus (s : State) (ctx q : Nat) : Nat :=
  match s.queue ctx q with
  | none => 3
  | some x =>
    if !x.prod then 3
    else if x.state = .halted ∨ x.state = .torn then 2
    else if s.ringFull ctx q x then 1
    else 0

/-- QPOST (R336): an accepted record is released with the superstep (R335). -/
def execQpost (h : Hdr) (d : SReg) (a : SPair) (b : SReg) (imm : Imm) (s : State) : Host.Outcome State Fault Refusal :=
  s.run h fun s => do
    let w := s.who
    let _ ← (s.ts w).readP a
    let q ← (s.ts w).readS b
    (s.ts w).freeS d
    let (cmd, bs) ← s.command a imm 64
    match s.gangId w, s.gangOf w with
    | some gid, some g =>
      let st := s.qpostStatus g.ctx q.toNat
      let s := if st = 0 then
          { s with
            qposts := s.qposts ++ [{ id := s.nextId, ctx := g.ctx, q := q.toNat, gang := gid, poster := w.core
                                     ts := w.t.val, record := bs }]
            nextId := s.nextId + 1 }
        else s
      .ok (s.modTs w fun t => ((t.killP h.dmA a).killS h.dmB b).putS d (BitVec.ofNat 32 st), .seq)
    | _, _ => .error (refused cmd 0)

end QueuePosts

end Sys2Proof.Machine
end

