-- ==== Sys2Proof/Machine/Tournament.lean ====
section
/-! DEFINITION. Tournament rounds: the bracket's layout (R160), exhausted allowances (R166, R167), and the round machine
(R168 to R172). -/
namespace Sys2Proof.Machine

section Bracket

/-- Column and row of a bracket index on the rival grid (R160). -/
def bracketX (i : Nat) : Nat := i % 2 + i / 4 % 2 * 2 + i / 16 % 2 * 4
def bracketY (i : Nat) : Nat := i / 2 % 2 + i / 8 % 2 * 2 + i / 32 % 2 * 4

/-- The lowest index of the group of round k that an index belongs to (R160). -/
def groupBase (k i : Nat) : Nat := i / 2 ^ k * 2 ^ k

/-- The rectangle of a group of round k: x, y, w, h. -/
def Tour.groupRect (t : Tour) (k i : Nat) : Nat × Nat × Nat × Nat :=
  let b := groupBase k i
  (t.ox + bracketX b * t.w0, t.oy + bracketY b * t.h0, t.w0 * 2 ^ ((k + 1) / 2), t.h0 * 2 ^ (k / 2))

end Bracket

section Allowance

/-- ALLOWANCE_EXHAUSTED (R166, R167). -/
def execAllowanceExhausted (gang : Nat) (s : State) : Host.Outcome State Fault Refusal :=
  match s.gang gang with
  | none => .next s
  | some g =>
    if g.rival = .running ∧ s.closes g then .next (s.modGang gang fun g => { g with rival := .closing }) else .next s

end Allowance

section Rounds

/-- The gang that stands for a group of round k, with its identifier: the one whose bracket index lies in the group and
that has not been wiped. -/
def State.standing (s : State) (t : Tour) (k base : Nat) : Option (Nat × Gang) :=
  (t.rivals.filterMap fun i => (s.gang i).map fun g => (i, g)).find? fun e => groupBase k e.2.bidx == base

/-- A rival that a comparison can win (R169, rule 1). -/
def Gang.contends (g : Gang) : Bool := g.rival == .held || g.rival == .heldRetired

/-- Why the first of two contenders wins, or the second: true for the first (R169, rules 2 to 4). -/
def beats (sa sb : Int) (na nb ia ib : Nat) : Bool × Nat :=
  if sa ≠ sb then (decide (sb < sa), 0) else if na ≠ nb then (decide (na < nb), 1) else (decide (ia < ib), 2)

/-- The outcome word (R171). -/
def outcomeWord (round why beat : Nat) : Word := BitVec.ofNat 32 (round % 256 * 256 + why % 4 * 64 + beat % 64)

/-- A core that loses a round (R170, step 1); what places it in the region stays, and so do its instruction scratchpad and
its overlay timeline, whose numbers go on (DESIGN CHOICE, log entry 64: R170 names neither). -/
def Core.wipe (k : Core) : Core :=
  { gang := k.gang, lastCtx := k.lastCtx, fenced := k.fenced, gpos := k.gpos, scratch := k.scratch
    overlayTl := k.overlayTl, overlayCount := k.overlayCount, overlayDone := k.overlayDone }

/-- The group of a loser is wiped: its cores, its tasks, its gang (R170, step 1). What its withheld sweep or its superstep
in progress has not committed is discarded: stores, queue records and network posts (DESIGN CHOICE, log entry 65: R170
speaks only of the memory tasks). -/
def State.wipeGroup (s : State) (tour : Nat) (t : Tour) (k base : Nat) : State :=
  let r := t.groupRect k base
  let cores := (List.range r.2.2.2).flatMap fun y => (List.range r.2.2.1).map fun x =>
    CoreId.compute (r.1 + x) (r.2.1 + y)
  let s := cores.foldl (fun s c => (s.closeSubs c).modCore c Core.wipe) s
  match s.standing t k base with
  | none => s
  | some (i, g) =>
    let s := ((s.killTasks g).dropCommits i).discardPosts g.ctx i
    let s := { s.dropOverlays i with qposts := s.qposts.filter fun p => p.gang != i }
    let s := match g.fault with
      | some f => { s with tours := match s.tours.find tour with
          | some u => s.tours.put tour { u with faults := u.faults ++ [(g.bidx, f)] }
          | none => s.tours }
      | none => s
    { s.dropPackets i with gangs := s.gangs.drop i }

/-- The winner takes the union rectangle, and its SCORE moves to the new origin core (R170, step 2). -/
def State.annex (s : State) (t : Tour) (k base i : Nat) (g : Gang) (word : Word) : State :=
  let v := (s.core g.corner).shared.score
  let r := t.groupRect (k + 1) base
  let g' := { g with ox := r.1, oy := r.2.1, w := r.2.2.1, h := r.2.2.2, word := word }
  let s := { s with gangs := s.gangs.put i g' }
  let s := g'.rect.foldl (fun s c => s.modCore c fun k => { k with gang := some i }) s
  s.modShared g'.corner fun q => { q with score := v }

/-- One comparison of round k (R169, R170): the union whose lower half begins at `base`. -/
def State.compareGroups (s : State) (tour : Nat) (t : Tour) (k base : Nat) : State :=
  let lo := base
  let hi := base + 2 ^ k
  let all (b : Nat) := s.standing t k b
  let good (b : Nat) := (all b).filter fun e => e.2.contends
  let index (b : Nat) : Nat := ((all b).map fun e => e.2.bidx).getD b
  let score (g : Gang) : Int := (s.core g.corner).shared.score.toInt
  let win (loser : Nat) (w : Nat × Gang) (why beat : Nat) : State :=
    (s.wipeGroup tour t k loser).annex t k base w.1 w.2 (outcomeWord k why beat)
  match good lo, good hi with
  | none, none => (s.wipeGroup tour t k lo).wipeGroup tour t k hi
  | some w, none => win hi w 3 (index hi)
  | none, some w => win lo w 3 (index lo)
  | some x, some y =>
    let r := beats (score x.2) (score y.2) x.2.count y.2.count x.2.bidx y.2.bidx
    if r.1 then win hi x r.2 y.2.bidx else win lo y r.2 x.2.bidx

/-- Every comparison of a round. -/
def State.playRound (s : State) (tour k : Nat) : State :=
  match s.tours.find tour with
  | none => s
  | some t => (List.range (2 ^ (t.m - k - 1))).foldl (fun s j => s.compareGroups tour t k (j * 2 ^ (k + 1))) s

/-- A thread set as it starts (R16, R48): at an entry, with its protection window. -/
def startedTs (entry : Word) (i sets : Nat) (lo hi attr : Word) : ThreadSet :=
  { pc := entry, tidx := BitVec.ofNat 32 ((sets - 1) * 256 + i), pwbase := lo, pwlim := hi, pwattr := attr }

/-- An annexed core is made ready for its start release (R170, steps 4 and 5). -/
def Core.prepareAnnexed (k : Core) (g : Gang) (t : Tour) (entry : Word) (like : Core) : Core :=
  { k with
    sstep := g.sstep
    ts := k.ts.zipIdx.map fun e =>
      if e.2 < g.sets then
        let l := like.ts.toList.getD e.2 { }
        startedTs entry e.2 g.sets l.pwbase l.pwlim l.pwattr
      else e.1
    shared := { k.shared with windows := t.annexWins.map fun w => { base := w.1, len := w.2, arm := g.sstep } } }

/-- A winner goes on (R170, steps 2, 4 and 5): its registers, the annexed cores, the release on its way. A retired one is
not released, and its annexed cores stay idle. -/
def State.resumeWinner (s : State) (t : Tour) (i : Nat) : State :=
  match s.gang i with
  | none => s
  | some g =>
    if g.rival = .heldRetired then
      let s := g.rect.foldl (fun s c => s.modCore c fun k =>
        { k with gdim := g.gdim, brect := g.brect, round := t.round g.bidx }) s
      let st : RivalState := if t.solo then .ordinary else .heldRetired
      s.modGang i fun g => { g with
        rival := st, shadowRival := if t.solo then .ordinary else g.shadowRival, final := false, shadowFinal := false }
    else
      let entry := ((s.capsule g.ctx g.capsule).map (·.annex)).getD 0
      let idle (c : CoreId) : Bool := (s.core c).ts[0].run == .idle
      let own := g.rect.filter fun c => !idle c
      let like := s.core (own.headD g.corner)
      let s := g.rect.foldl (fun s c => s.modCore c fun k =>
        let k := if k.ts[0].run = .idle then k.prepareAnnexed g t entry like else k
        { k with gdim := g.gdim, brect := g.brect, round := t.round g.bidx }) s
      let st : RivalState := if t.solo then .ordinary else .running
      s.modGang i fun g => { g with
        rival := st, shadowRival := st, count := 0, shadowCount := 0, final := false, shadowFinal := false
        rels := g.everyone }

/-- The fault that a tournament with no group left records, and the mark of a handler entry that failed: its lowest faulted rival's
(R172, R342, R425). -/
def lowestFault (fs : List (Nat × Cause × Word × Word × Bool)) : Cause × Word × Word × Bool :=
  match fs.foldl (fun acc f =>
      match acc with
      | none => some f
      | some g => if f.1 < g.1 then some f else some g) (none : Option (Nat × Cause × Word × Word × Bool)) with
  | some f => f.2
  | none => (.illegal, 0, 0, false)

/-- The round end (R169, R170). -/
def State.endRound (s : State) (tour : Nat) (t : Tour) : State :=
  let gs := t.rivals.filterMap s.gang
  let ends := gs.any fun g => g.contends && g.final
  let rounds := if ends then (List.range (t.m - t.k)).map (t.k + ·) else [t.k]
  let s := rounds.foldl (fun s k => s.playRound tour k) s
  let last := ends || t.k + 1 == t.m
  let t' := ((s.tours.find tour).getD t)
  let t' := { t' with k := if last then t.m else t.k + 1, solo := last }
  let left := t.rivals.filter fun i => (s.gang i).isSome
  if left.isEmpty then
    let f := lowestFault t'.faults
    s.killRecord t.ctx t.q t.idx 1 f.1.code f.2.1 f.2.2.1 f.2.2.2
  else
    let s := { s with tours := s.tours.put tour t' }
    left.foldl (fun s i => s.resumeWinner t' i) s

/-- An error of a gang waits for the ladder in spite of a round that holds the gang (R117): one of a superstep that is lost. -/
def Gang.erred (g : Gang) : Bool := g.err.isSome && g.lost

/-- ROUND_END (R169): a round ends when no rival is live. An error that a rival consumes while it is held waits for its release as
winner, and goes with it where it is wiped (DEDUCED, log entry 37: R168 gives an error of a held rival no row). -/
def execRoundEnd (tour : Nat) (s : State) : Host.Outcome State Fault Refusal :=
  match s.tours.find tour with
  | none => .next s
  | some t =>
    let gs := t.rivals.filterMap s.gang
    let still (g : Gang) : Bool := !g.erred && g.rels.isEmpty && (g.contends || g.rival == .faulted)
    if t.live && !t.solo && decide (t.k < t.m) && gs.all still then .next (s.endRound tour t) else .next s

end Rounds

end Sys2Proof.Machine
end

