-- ==== Sys2Proof/Machine/Queues.lean ====
section
/-! DEFINITION. Hardware queues (R411 to R433, R492, R494): doorbells, the record at the head and its form, the records
that launch nothing, placement of gangs (R428, R429), and which head the scheduler serves. -/
namespace Sys2Proof.Machine

section Ring

/-- Slots of a ring. -/
def Queue.size (q : Queue) : Nat := 2 ^ q.log2n

/-- Records from HEAD to TAIL - 1. -/
def Queue.pending (q : Queue) : Nat := (q.tail + q.size - q.head) % q.size

/-- A tail update (R414): a forward move that stays behind FREE. A torn-down queue completes what it adds with ERR 14
(R450). -/
def Queue.moveTail (q : Queue) (tail : Nat) : Queue :=
  let n := q.size
  let t := tail % 65536 % n
  if q.prod ∨ (q.free + n - 1 - q.tail % n) % n < (t + n - q.tail % n) % n then q
  else if q.state = .torn then { { q with tail := t }.flushAll with state := .torn }
  else { q with tail := t }

/-- The device takes doorbells (R457). -/
def State.rings (s : State) : Bool := s.devClass != .fatal

end Ring

section Head

/-- The record at the head of a ring; `none` while its page is away, or bytes of it have still to drain (R143). -/
def State.headRecord (s : State) (ctx : Nat) (x : Queue) : Option (List Byte) :=
  let a := x.ring + 64 * x.head
  let bs := (List.range 64).map fun i => s.globalByte ctx (a + i)
  if s.undrained ctx a 64 then none
  else if bs.all Option.isSome then some (bs.map fun b => b.getD 0) else none

/-- Bytes a to b - 1 of a record are zero. -/
def zeroBytes (bs : List Byte) (a b : Nat) : Bool := (bytesAt bs a (b - a)).all (· == 0)

/-- CMP of a COND or LOOP (R420): ten conditions, and "always", which names no word. -/
def cmpBad (bs : List Byte) : Bool :=
  let c := fieldAt bs 6 1
  decide (10 < c) || (c == 10 && fieldAt bs 8 8 != 0)

/-- A record at the head is malformed (R9, R416, R417, R492). -/
def Context.recordBad (c : Context) (x : Queue) (bs : List Byte) : Bool :=
  let f := fieldAt bs
  let kind := f 0 1
  let argv := f 1 1 / 2 % 2 == 1
  let form := kind == 0 || decide (6 < kind) || f 1 1 / 8 != 0 || f 2 2 != 0 || (argv && kind != 1)
  form || !(match kind with
    | 1 => zeroBytes bs 8 32 && (argv || zeroBytes bs 32 64)
    | 2 => zeroBytes bs 5 6 && zeroBytes bs 16 64
        && ((f 4 1 == 7 && f 6 2 == 0) || ((f 4 1 == 6 || f 4 1 == 8) && (c.queues.find (f 6 2)).isSome))
    | 3 => decide (f 4 1 ≤ 1) && zeroBytes bs 5 8 && f 16 8 % 8 == 0 && zeroBytes bs 32 64
    | 4 => zeroBytes bs 4 8 && zeroBytes bs 48 64 && (c.copyBad (bytesAt bs 8 40)).isNone
    | 5 => f 4 2 != 0 && zeroBytes bs 7 8 && zeroBytes bs 24 64 && !cmpBad bs
    | _ => f 4 2 != 0 && decide (f 4 2 < x.size) && zeroBytes bs 7 8 && zeroBytes bs 28 64 && !cmpBad bs)

/-- A record acts as fenced (R416). -/
def fenced (bs : List Byte) : Bool :=
  let k := fieldAt bs 0 1
  fieldAt bs 1 1 % 2 == 1 || k == 3 || k == 5 || k == 6

/-- HOLD (R415). -/
def holds (bs : List Byte) : Bool := fieldAt bs 1 1 / 4 % 2 == 1

/-- The record at the head leaves it. -/
def Queue.take (q : Queue) (kind : Nat) (hold : Bool) : Queue :=
  { q with
    slots := q.slots ++ [{ idx := q.head, kind := kind, done := false, hold := hold }]
    head := (q.head + 1) % q.size
    checked := false
    counted := false
    waitTl := none
    passes := 0
    turn64 := 0
    resv := none }

/-- The record at the head completes at once. -/
def Queue.pass (q : Queue) (bs : List Byte) : Queue := (q.take (fieldAt bs 0 1) (holds bs)).complete q.head

/-- The record at the head fails at once (R492); one with HOLD holds its slot all the same (R415, R421). -/
def Queue.refuse (q : Queue) (bs : List Byte) (err : Nat) : Queue := (q.take (fieldAt bs 0 1) (holds bs)).fail q.head err

/-- A malformed record at the head fails and has no effect, so its HOLD bit holds nothing (R492; DEDUCED, log entry 40). -/
def Queue.reject (q : Queue) (bs : List Byte) : Queue := (q.take (fieldAt bs 0 1) false).fail q.head 3

/-- A gang of this queue has a reservation and has not started: its LAUNCH is still at the head (R416). -/
def State.launching (s : State) (ctx q : Nat) : Bool :=
  s.gangs.any fun e => e.2.ctx == ctx && e.2.q == q && e.2.phase == .starting

/-- Every record before the head has completed. -/
def Queue.quiet (q : Queue) : Bool := q.slots.all (·.done)

end Head

section Naming

/-- How the dispatcher's translation of an address that a record names ends (R494). -/
def State.recordReach (s : State) (ctx gva : Nat) (wr : Bool) : Reach :=
  if gva < Config.gvaLow ∨ Config.gvaHigh < gva + 7 then .denied gva
  else
    match s.ctx ctx with
    | none => .denied gva
    | some c => (pageStarts gva 8).foldl (fun acc a =>
        match acc with
        | .ok =>
          match c.walk a with
          | .absent => .away [a]
          | .broken => .walkError a
          | .leaf _ p => if (wr && !pteW p) || (!wr && !pteR p) then .denied a else .ok
        | r => r) .ok

/-- The address that a record makes the dispatcher translate, and whether for a write. -/
def recordAddr (bs : List Byte) : Option (Nat × Bool) :=
  match fieldAt bs 0 1 with
  | 3 => if fieldAt bs 16 8 = 0 then none else some (fieldAt bs 16 8, true)
  | 5 | 6 => if fieldAt bs 6 1 = 10 then none else some (fieldAt bs 8 8, false)
  | _ => none

/-- A record waits for its word: the page is away (R494), a completed barrier has still to drain it (R143), or it
migrates (R442). -/
def State.recordWaits (s : State) (ctx : Nat) (bs : List Byte) : Bool :=
  match recordAddr bs with
  | none => false
  | some (a, wr) =>
    s.undrained ctx a 8 || (wr && s.rangeMigrating ctx a 8)
      || (match s.recordReach ctx a wr with
        | .away _ => true
        | _ => false)

end Naming

section Placement

/-- What a launch record asks of the mesh: package extents, the alignment of its columns, and a memory core for each
task. -/
structure Want where
  w : Nat
  h : Nat
  align : Nat
  mems : List (Nat × Nat)
  deriving DecidableEq, Repr

/-- A rectangle of cores. -/
structure Rect where
  ox : Nat
  oy : Nat
  w : Nat
  h : Nat
  deriving DecidableEq, Repr

def Rect.meets (a b : Rect) : Bool :=
  decide (a.ox < b.ox + b.w) && decide (b.ox < a.ox + a.w) && decide (a.oy < b.oy + b.h) && decide (b.oy < a.oy + a.h)

/-- The region a tournament holds (R160). -/
def Tour.region (t : Tour) : Rect where
  ox := t.ox
  oy := t.oy
  w := t.w0 * 2 ^ ((t.m + 1) / 2)
  h := t.h0 * 2 ^ (t.m / 2)

/-- The rectangles that gangs and tournaments hold, each with the context and queue behind it. -/
def State.taken (s : State) : List (Rect × Nat × Nat) :=
  ((s.gangs.filter fun e => e.2.tour.isNone).map fun e =>
    (({ ox := e.2.ox, oy := e.2.oy, w := e.2.stride * e.2.w, h := e.2.h } : Rect), e.2.ctx, e.2.q))
  ++ s.tours.map fun t => (t.2.region, t.2.ctx, t.2.q)

/-- The reservations that heads hold (R429), apart from one queue's own. -/
def State.reserved (s : State) (ctx q : Nat) : List Resv :=
  s.contexts.flatMap fun c => (c.2.queues.filter fun e => !(c.1 == ctx && e.1 == q)).filterMap fun e => e.2.resv

/-- The partition above a queue group (R412): its rectangle; without one, the mesh. -/
def State.partition (s : State) (group : Nat) : Rect :=
  match (s.chainOf group).find? fun r => r.kind == 1 with
  | some r =>
    let v := r.rect.toNat
    { ox := v % 256, oy := v / 256 % 256, w := v / 65536 % 256, h := v / 2 ^ 24 }
  | none => { ox := 0, oy := 0, w := 32, h := 32 }

/-- An origin meets every constraint of R428 but being free; a fenced core is never used (R484). -/
def State.originOk (s : State) (part : Rect) (v : Want) (x y : Nat) : Bool :=
  decide (x + v.w ≤ part.ox + part.w) && decide (y + v.h ≤ part.oy + part.h) && decide (x + v.w ≤ 32)
    && decide (y + v.h ≤ 32) && x % v.align == 0
    && (List.range v.h).all fun j => (List.range v.w).all fun i => !(s.core (.compute (x + i) (y + j))).fenced

/-- The origins of a partition in row-major order. -/
def Rect.origins (p : Rect) : List (Nat × Nat) :=
  (List.range p.h).flatMap fun j => (List.range p.w).map fun i => (p.ox + i, p.oy + j)

/-- Give each task the lowest slot of its memory core that a test allows. -/
def allotSlots (free : Nat → Nat → Nat → Bool) : List (Nat × Nat) → List (Nat × Nat × Nat) → Option (List (Nat × Nat × Nat))
  | [], acc => some acc
  | (st, ch) :: r, acc =>
    match (List.range 16).find? fun i => free st ch i && !acc.contains (st, ch, i) with
    | none => none
    | some i => allotSlots free r (acc ++ [(st, ch, i)])

/-- The memory cores that tasks name are not fenced. -/
def State.memsOk (s : State) (v : Want) : Bool := v.mems.all fun m => !(s.core (.memory m.1 m.2)).fenced

/-- A slot may be let: it is free, no reservation of another head covers it, and no gang may still be rolled back to a superstep in
which a task of it had the slot (R42, R449). -/
def State.slotFree (s : State) (rs : List Resv) (st ch i : Nat) : Bool :=
  ((s.core (.memory st ch)).tasks.toList.getD i { }).state == .free && !(rs.any fun r => r.slots.contains (st * 32 + ch, i))
    && !s.gangs.any fun e => e.2.shadowTasks.contains (st, ch, i)

/-- The first free placement for a head (R428), or the one that it has reserved, once idle (R429). -/
def State.placement (s : State) (ctx q : Nat) (x : Queue) (v : Want) : Option (Nat × Nat × List (Nat × Nat × Nat)) :=
  let rs := s.reserved ctx q
  let held := s.taken.map (·.1)
  let part := s.partition x.group
  let free (o : Nat × Nat) : Bool :=
    let r : Rect := { ox := o.1, oy := o.2, w := v.w, h := v.h }
    !(held.any fun t => t.meets r) && !rs.any fun t => r.meets { ox := t.ox, oy := t.oy, w := t.w, h := t.h }
  let os := match x.resv with
    | some r => [(r.ox, r.oy)]
    | none => part.origins
  let mine (st ch i : Nat) : Bool := match x.resv with
    | some r => r.slots.contains (st * 32 + ch, i)
    | none => true
  match os.find? fun o => s.originOk part v o.1 o.2 && free o,
    allotSlots (fun st ch i => mine st ch i && s.slotFree rs st ch i) v.mems [] with
  | some o, some ts => if s.memsOk v then some (o.1, o.2, ts) else none
  | _, _ => none

/-- Compute cores and task slots that gangs under a region node hold (R412). -/
def State.inUse (s : State) (node : Nat) : Nat × Nat :=
  let under (ctx q : Nat) : Bool :=
    (s.queue ctx q).any fun x => (s.chainOf x.group).any fun r => r.handle == node
  ((s.taken.filter fun t => under t.2.1 t.2.2).foldl (fun n t => n + t.1.w * t.1.h) 0,
   (s.gangs.filter fun e => under e.2.ctx e.2.q).foldl (fun n e => n + e.2.tasks.length) 0)

/-- Every budget above a queue has room for a gang (R412). -/
def State.budgetsHold (s : State) (group : Nat) (v : Want) : Bool :=
  (s.chainOf group).all fun r =>
    let u := s.inUse r.handle
    let cs := s.chainOf r.handle
    decide (u.1 + v.w * v.h ≤ effCores cs) && decide (u.2 + v.mems.length ≤ effSlots cs)

/-- The alignment of a placement (R428, R472): a lockstep gang starts at an even column, one of 2, 4 or 8 columns at a
multiple of twice that. -/
def alignOf (w : Nat) (lock : Bool) : Nat :=
  let pow := w == 2 || w == 4 || w == 8 || w == 16
  if lock then (if pow && w != 16 then 2 * w else if pow then 16 else 2) else if pow then w else 1

end Placement

section LaunchFields

/-- The entries of a kind (R422). -/
def Launch.ofKind (l : Launch) (k : Nat) : List (List Byte) := l.entries.filter fun e => fieldAt e 0 1 == k

def Launch.w (l : Launch) : Nat := fieldAt l.header 16 1
def Launch.h (l : Launch) : Nat := fieldAt l.header 17 1
def Launch.sets (l : Launch) : Nat := fieldAt l.header 18 1
def Launch.limit (l : Launch) : Nat := fieldAt l.header 8 8

/-- M, W0, H0 and ALLOW0 of a RIVALS entry. -/
def Launch.rivals (l : Launch) : Option (Nat × Nat × Nat × Nat) :=
  (l.ofKind 7).head?.map fun e => (fieldAt e 1 1, fieldAt e 2 1, fieldAt e 3 1, fieldAt e 4 4)

/-- Gangs that a record starts. -/
def Launch.gangs (l : Launch) : Nat := match l.rivals with
  | some r => 2 ^ r.1
  | none => 1

/-- What a record asks of the mesh: each rival of a tournament has its own tasks (R161). -/
def Launch.want (l : Launch) (lock : Bool) : Want where
  w := if lock then 2 * l.w else l.w
  h := l.h
  align := alignOf l.w lock
  mems := (List.range l.gangs).flatMap fun _ => (l.ofKind 5).map fun e => (fieldAt e 1 1, fieldAt e 2 1)

/-- The launch record that a LAUNCH names, and its capsule (R423). -/
def Context.launchOf (c : Context) (bs : List Byte) : Option (Launch × Capsule) :=
  (c.launch (fieldAt bs 4 4)).bind fun l => (c.capsule l.capsule).bind fun k => if k.withheld then none else some (l, k)

/-- A capsule may run (R390, R424). -/
def Capsule.runs (k : Capsule) : Bool := decide (3 ≤ k.level) || k.state == .native

end LaunchFields

section Serving

/-- A head waits for room alone (R424, R429): running, checked, its fence, dependence and body met. -/
def State.wantsRoom (s : State) (ctx q : Nat) (x : Queue) : Option (Launch × Capsule) :=
  if x.state ≠ .running ∨ x.pending = 0 ∨ x.skip ≠ 0 ∨ ¬ x.checked ∨ s.launching ctx q then none
  else
    match s.headRecord ctx x, s.ctx ctx with
    | some bs, some c =>
      match c.launchOf bs with
      | some (l, k) =>
        if fieldAt bs 0 1 = 1 ∧ (fenced bs → x.quiet) ∧ l.depn ≤ l.counter ∧ k.runs then some (l, k) else none
      | none => none
    | _, _ => none

/-- The placement that a head would take now, within its budgets. -/
def State.room (s : State) (ctx q : Nat) (x : Queue) : Option (Launch × Nat × Nat × List (Nat × Nat × Nat)) :=
  (s.wantsRoom ctx q x).bind fun r =>
    let v := r.1.want (effLock (s.chainOf x.group))
    if s.budgetsHold x.group v then (s.placement ctx q x v).map fun p => (r.1, p) else none

/-- A head can be dispatched now (R424, R428). -/
def State.dispatchable (s : State) (ctx q : Nat) (x : Queue) : Bool :=
  if x.state ≠ .running ∨ x.pending = 0 ∨ x.skip ≠ 0 ∨ s.launching ctx q ∨ x.waitTl.isSome then false
  else
    match s.headRecord ctx x, s.ctx ctx with
    | some bs, some c =>
      !c.recordBad x bs && (!fenced bs || x.quiet) && !s.recordWaits ctx bs
        && (fieldAt bs 0 1 != 1 || (s.room ctx q x).isSome)
    | _, _ => false

/-- The queues of the device in order of number, each with its priority. -/
def State.allQueues (s : State) : List (Nat × Nat × Queue × Nat) :=
  s.contexts.flatMap fun c => c.2.queues.map fun e => (c.1, e.1, e.2, effPrio (s.chainOf e.2.group))

/-- The scheduler serves this head next (R428): no head of a higher level can be dispatched, and none of its level stands
before it in the round. -/
def State.serves (s : State) (ctx q : Nat) : Bool :=
  let ready := s.allQueues.filter fun e => s.dispatchable e.1 e.2.1 e.2.2.1
  match ready.find? fun e => e.1 == ctx && e.2.1 == q with
  | none => false
  | some me =>
    let prio := me.2.2.2
    let last := (s.served.find prio).getD 0
    let place (k : Nat) : Nat := if last < k then k else k + 2 ^ 32
    ready.all fun e =>
      decide (e.2.2.2 < prio)
        || (e.2.2.2 == prio && decide (place (64 * ctx + q + 1) ≤ place (64 * e.1 + e.2.1 + 1)))

/-- A head is served. -/
def State.noteServed (s : State) (ctx q : Nat) : State :=
  match s.queue ctx q with
  | some x => { s with served := s.served.put (effPrio (s.chainOf x.group)) (64 * ctx + q + 1) }
  | none => s

/-- The reservation that a head takes (R429): the first origin that meets R428 apart from being free. -/
def State.reservation (s : State) (x : Queue) (l : Launch) : Option Resv :=
  let v := l.want (effLock (s.chainOf x.group))
  let part := s.partition x.group
  match part.origins.find? fun o => s.originOk part v o.1 o.2, allotSlots (fun _ _ _ => true) v.mems [] with
  | some o, some ts =>
    some { ox := o.1, oy := o.2, w := v.w, h := v.h, slots := ts.map fun t => (t.1 * 32 + t.2.1, t.2.2) }
  | _, _ => none

/-- The head that reached 64 passes first takes a partition's reservation, where none is held (R429). -/
def State.takeReservation (s : State) (part : Rect) : State :=
  let qs := s.allQueues.filter fun e => s.partition e.2.2.1.group == part
  if qs.any fun e => e.2.2.1.resv.isSome then s
  else
    let waiting := qs.filter fun e => e.2.2.1.turn64 != 0 && (s.wantsRoom e.1 e.2.1 e.2.2.1).isSome
    match waiting.find? fun e => waiting.all fun f => decide (e.2.2.1.turn64 ≤ f.2.2.1.turn64) with
    | none => s
    | some e =>
      match s.wantsRoom e.1 e.2.1 e.2.2.1 with
      | some (l, _) => s.modQueue e.1 e.2.1 fun x => { x with resv := s.reservation x l }
      | none => s

/-- A reservation that has been given up, in any partition, goes to the next head in turn (R429). -/
def State.takeReservations (s : State) : State :=
  ((s.allQueues.map fun e => s.partition e.2.2.1.group).eraseDups).foldl (fun s p => s.takeReservation p) s

end Serving

section Doorbells

/-- RESUME (R427). -/
def State.resumeQueue (s : State) (ctx q : Nat) : State :=
  (s.modQueue ctx q fun x => if x.state = .halted then { x with state := .running } else x).takeReservations

/-- FLUSH (R427, R430). -/
def State.flushQueue (s : State) (ctx q : Nat) : State :=
  if (s.queue ctx q).any fun x => x.state != .torn then
    ((s.dropStarting ctx q).modQueue ctx q fun x => { x.flushAll with state := .running }).takeReservations
  else s

/-- A gang at the head that has not started gives back what its launch record's counter lost (R426, R430). -/
def State.returnDep (s : State) (ctx q : Nat) : State :=
  let gs := s.gangs.filter fun e => e.2.ctx == ctx && e.2.q == q && e.2.phase == .starting
  match gs.head? with
  | none => s
  | some e => s.modCtx ctx fun c => { c with launches := c.launches.map fun (l : Launch) =>
      if l.handle = e.2.launch then { l with counter := min (l.counter + l.depn) (2 ^ 31 - 1) } else l }

/-- QUIESCE (R427, R430): the head stays, its reservation is released, and it is checked again; a halted queue stays
halted. -/
def State.quiesceQueue (s : State) (ctx q : Nat) : State :=
  if (s.queue ctx q).any fun x => x.state == .running || x.state == .halted then
    (((s.returnDep ctx q).dropStarting ctx q).modQueue ctx q fun x =>
      { x with state := if x.state = .running then .quiesced else x.state, resv := none, checked := false }).takeReservations
  else s

/-- UNQUIESCE (R427). -/
def State.unquiesceQueue (s : State) (ctx q : Nat) : State :=
  (s.modQueue ctx q fun x => if x.state = .quiesced then { x with state := .running } else x).takeReservations

/-- The queue whose doorbell lies at an offset of BAR 0 of a function (R453): its context and its number. -/
def State.doorbellAt (s : State) (fn off : Nat) : Option (Nat × Nat) :=
  let i := (off - 0x100000) / 0x1000
  let r := (off - 0x100000) % 0x1000
  if off < 0x100000 ∨ 16 ≤ i ∨ r % 8 ≠ 0 ∨ 64 ≤ r / 8 then none
  else (s.contexts.find? fun e => e.2.fn == fn && e.2.local_ == i).map fun e => (e.1, r / 8)

/-- DOORBELL_TAIL_UPDATE (R414, R453): a write to BAR 0 of a function. One that is no 64-bit write to a doorbell is ignored,
and so are the reserved bits and the commands from 5 on. -/
def execDoorbellTailUpdate (fn off : Nat) (d : BarWrite) (s : State) : Host.Outcome State Fault Refusal :=
  match s.doorbellAt fn off with
  | none => .next s
  | some (ctx, q) =>
    if !s.rings || d.width != 64 then .next s
    else
      match d.word.toNat / 65536 % 8 with
      | 0 => .next (s.modQueue ctx q fun x => x.moveTail d.word.toNat)
      | 1 => .next (s.resumeQueue ctx q)
      | 2 => .next (s.flushQueue ctx q)
      | 3 => .next (s.quiesceQueue ctx q)
      | 4 => .next (s.unquiesceQueue ctx q)
      | _ => .next s

/-- RESUME (R427). -/
def execResume (ctx q : Nat) (s : State) : Host.Outcome State Fault Refusal :=
  .next (if s.rings then s.resumeQueue ctx q else s)

/-- FLUSH (R427, R430). -/
def execFlush (ctx q : Nat) (s : State) : Host.Outcome State Fault Refusal :=
  .next (if s.rings then s.flushQueue ctx q else s)

/-- QUIESCE (R427, R430). -/
def execQuiesce (ctx q : Nat) (s : State) : Host.Outcome State Fault Refusal :=
  .next (if s.rings then s.quiesceQueue ctx q else s)

/-- UNQUIESCE (R427). -/
def execUnquiesce (ctx q : Nat) (s : State) : Host.Outcome State Fault Refusal :=
  .next (if s.rings then s.unquiesceQueue ctx q else s)

end Doorbells

section Records

/-- What every step of the dispatcher at a head begins with: a walk error for the record tears the queue down (R448), a skipped
record completes (R420), a malformed one fails (R492); a record of another kind, or a queue that dispatches nothing leaves all as it is. -/
def State.atHead (s : State) (ctx q kind : Nat) (go : Context → Queue → List Byte → State) :
    Host.Outcome State Fault Refusal :=
  match s.ctx ctx, s.queue ctx q with
  | some c, some x =>
    if x.state ≠ .running ∨ x.pending = 0 ∨ s.launching ctx q then .next s
    else
      match s.headRecord ctx x with
      | none =>
        let a := x.ring + 64 * x.head
        .next (if s.walkBroken ctx a then s.unpinned ctx q 6 a else s)
      | some bs =>
        if x.skip ≠ 0 then .next (s.modQueue ctx q fun x => { x.pass bs with skip := x.skip - 1 })
        else if s.globalPoison ctx (x.ring + 64 * x.head) 64 then
          .next (s.unpinned ctx q 5 (x.ring + 64 * x.head))
        else if c.recordBad x bs then .next (s.modQueue ctx q fun x => x.reject bs)
        else if fieldAt bs 0 1 ≠ kind then .next s
        else .next (go c x bs)
  | _, _ => .next s

/-- The dispatch of a head that the scheduler serves. -/
def State.dispatch (s : State) (ctx q kind : Nat) (go : State → Context → Queue → List Byte → State) :
    Host.Outcome State Fault Refusal :=
  s.atHead ctx q kind fun c x bs => if s.serves ctx q then go (s.noteServed ctx q) c x bs else s

/-- TLWAIT_RECORD (R418). -/
def execTlwaitRecord (ctx q : Nat) (s : State) : Host.Outcome State Fault Refusal :=
  s.dispatch ctx q 2 fun s _ _ bs =>
    s.modQueue ctx q fun x => { x with waitTl := some (fieldAt bs 4 1, fieldAt bs 6 2, fieldAt bs 8 8) }

/-- The timeline that a TLWAIT record names. -/
def Context.recordTl (c : Context) (sel qidx : Nat) : Nat :=
  match sel with
  | 6 => (c.queues.find qidx).elim 0 (·.copyTl)
  | 8 => (c.queues.find qidx).elim 0 (·.signalTl)
  | _ => c.netTl

/-- TLWAIT_RECORD_COMPLETE (R418). -/
def execTlwaitRecordComplete (ctx q : Nat) (s : State) : Host.Outcome State Fault Refusal :=
  s.atHead ctx q 2 fun c x bs =>
    match x.waitTl with
    | some (sel, qidx, v) => if v ≤ c.recordTl sel qidx then s.modQueue ctx q fun x => x.pass bs else s
    | none => s

/-- The word of a record is out of reach: error 3, or a walk error that no gang can be pinned for (R494); `none` where it
is reached. -/
def State.recordDenied (s : State) (ctx q : Nat) (bs : List Byte) : Option State :=
  match recordAddr bs with
  | none => none
  | some (a, wr) =>
    match s.recordReach ctx a wr with
    | .denied _ => some (s.modQueue ctx q fun x => x.refuse bs 3)
    | .walkError g => some (s.unpinned ctx q 6 g)
    | _ =>
      if !wr && s.globalPoison ctx a 8 then some (s.unpinned ctx q 5 (s.poisonUnit ctx a 8)) else none

/-- TLSIGNAL (R418). -/
def execTlsignal (ctx q : Nat) (s : State) : Host.Outcome State Fault Refusal :=
  s.dispatch ctx q 3 fun s _ x bs =>
    match s.recordDenied ctx q bs with
    | some s' => s'
    | none =>
      let v := fieldAt bs 8 8
      let wa := fieldAt bs 16 8
      if v ≤ x.signalTl then s.modQueue ctx q fun x => x.refuse bs 11
      else
        let s := s.modQueue ctx q fun x => { x with signalTl := v }
        let s := if wa = 0 then s else s.engineWrite ctx wa (bytesAt bs 24 8)
        let s := if fieldAt bs 4 1 = 1 then s.raiseQueue ctx q else s
        s.modQueue ctx q fun x => x.pass bs

/-- COPY_RECORD (R418, R388): a copy that meets a sealed range copies nothing, takes its number all the same, and fails. -/
def execCopyRecord (ctx q : Nat) (s : State) : Host.Outcome State Fault Refusal :=
  s.dispatch ctx q 4 fun s c x bs =>
    let cmd := bytesAt bs 8 40
    let j := copyJobOf cmd s.nextId ctx q (x.copyCount + 1) none x.head 0 none
    let s := s.modQueue ctx q fun x => x.take 4 (holds bs)
    let s := s.startCopy j
    match c.sealed cmd with
    | some _ => (s.settleCopy j).copyFailed j 0
    | none => s

/-- The test of a COND or LOOP (R420). -/
def State.testWord (s : State) (ctx : Nat) (bs : List Byte) : Bool :=
  let c := fieldAt bs 6 1
  if c = 10 then true
  else
    let a := fieldAt bs 8 8
    let w := leNat ((List.range 8).map fun i => (s.globalByte ctx (a + i)).getD 0)
    condHolds (Cond.ofCode c) (BitVec.ofNat 64 w) (BitVec.ofNat 64 (fieldAt bs 16 8))

/-- COND (R420). -/
def execCond (ctx q : Nat) (s : State) : Host.Outcome State Fault Refusal :=
  s.dispatch ctx q 5 fun s _ _ bs =>
    match s.recordDenied ctx q bs with
    | some s' => s'
    | none =>
      let skip := if s.testWord ctx bs then 0 else fieldAt bs 4 2
      s.modQueue ctx q fun x => { x.pass bs with skip := skip }

/-- A LOOP goes back to its target, which is dispatched again with what follows it; the LOOP itself completes (R420,
R421). -/
def Queue.goBack (q : Queue) (bs : List Byte) (target i : Nat) : Queue :=
  let me := q.head
  let p := q.pass bs
  let kept := p.slots.takeWhile fun s => s.idx != target
  { p with
    head := target
    slots := kept
    free := match kept with
      | [] => target
      | s :: _ => s.idx
    iters := p.iters.put me i }

/-- A LOOP falls through: its count starts anew and its target's hold ends (R415, R420). -/
def Queue.fallThrough (q : Queue) (bs : List Byte) (target : Nat) : Queue :=
  let p := { q with slots := q.slots.map fun (s : Slot) => if s.idx = target then { s with hold := false } else s }.pass bs
  { p with iters := p.iters.drop q.head }

/-- LOOP_RECORD (R420, R421). -/
def execLoopRecord (ctx q : Nat) (s : State) : Host.Outcome State Fault Refusal :=
  s.dispatch ctx q 6 fun s _ x bs =>
    let target := (x.head + x.size - fieldAt bs 4 2) % x.size
    if !(x.slots.any fun t => t.idx == target && t.hold) then s.modQueue ctx q fun x => x.refuse bs 12
    else
      match s.recordDenied ctx q bs with
      | some s' => s'
      | none =>
        let i := (x.iters.find x.head).getD 0
        let maxit := fieldAt bs 24 4
        if s.testWord ctx bs ∧ (maxit = 0 ∨ i + 1 < maxit) then s.modQueue ctx q fun x => x.goBack bs target (i + 1)
        else s.modQueue ctx q fun x => x.fallThrough bs target

/-- The page that the record at a head waits for (R494): of its own ring, or of the word it names where it is not skipped
(R420). -/
def State.recordPage (s : State) (ctx : Nat) (c : Context) (x : Queue) : Option Nat :=
  let a := x.ring + 64 * x.head
  match c.walk a, s.headRecord ctx x with
  | .absent, _ => some a
  | _, some bs =>
    match if x.skip = 0 then recordAddr bs else none with
    | some (g, wr) =>
      match s.recordReach ctx g wr with
      | .away ps => ps.head?
      | _ => none
    | none => none
  | _, _ => none

/-- A page that is away is supplied: the bytes are the backing store's where it keeps the page (R438, R443). -/
def State.supplyPage (s : State) (ctx gva frame : Nat) (bytes : List Byte) : State :=
  match s.ctx ctx with
  | none => s
  | some c =>
    if s.frameOk 0 frame && c.walk gva == .absent && decide (Config.gvaLow ≤ gva) && decide (gva ≤ Config.gvaHigh) then
      s.placePage ctx gva frame ((c.backing.find (gva / 2 ^ 16)).getD bytes)
    else s

/-- PAGE_SUPPLIED (R432, R438, R494); what engines have waited for goes on. -/
def execPageSupplied (waiter : PageWaiter) (frame : Nat) (bytes : List Byte) (s : State) :
    Host.Outcome State Fault Refusal :=
  match waiter with
  | .task stack chan slot =>
    .next (s.supplyTask { core := .memory stack chan, t := Fin.ofNat 16 slot } frame bytes).settleDeferred
  | .record ctx q =>
    match s.ctx ctx, s.queue ctx q with
    | some c, some x =>
      match if x.pending = 0 then none else s.recordPage ctx c x with
      | some a => .next (s.supplyPage ctx a frame bytes).settleDeferred
      | none => .next s
    | _, _ => .next s
  | .engine ctx gva => .next (s.supplyPage ctx gva frame bytes).settleDeferred

end Records

end Sys2Proof.Machine
end

