-- ==== Sys2Proof/Machine/Launch.lean ====
section
/-! DEFINITION. Launching (R15 to R30, R419 to R430): the checks of a LAUNCH at the head, reservation, and the start of a
gang or a tournament. -/
namespace Sys2Proof.Machine

section Form

/-- A launch record's header is well formed (R422). -/
def headerOk (h : List Byte) : Bool :=
  let f := fieldAt h
  let cores (n : Nat) : Bool := decide (1 ≤ n) && decide (n ≤ 32)
  f 8 8 != 0 && decide (f 8 8 < 2 ^ 63) && cores (f 16 1) && cores (f 17 1) && decide (1 ≤ f 18 1) && decide (f 18 1 ≤ 4)
    && f 19 1 == 0 && decide (f 20 2 ≤ 1023) && f 22 2 == 0 && decide (f 24 4 < 2 ^ 31) && zeroBytes h 28 64

/-- A protection window's limits as its registers hold them (R48, R422). -/
def protOk (base limit : Nat) : Bool :=
  base % 256 == 0 && limit % 256 == 0 && decide (base < limit) && decide (limit < 2 ^ 21)

/-- An entry is well formed (R422); ALLOW0 lies from 1 to 2^24 (R166). -/
def entryOk (e : List Byte) : Bool :=
  let f := fieldAt e
  match f 0 1 with
  | 1 => decide (f 1 1 ≤ 3) && decide (f 2 1 ≤ 1) && f 3 1 == 0 && protOk (f 4 4) (f 8 4) && zeroBytes e 12 16
  | 2 => decide (f 1 1 ≤ 3) && f 2 2 == 0 && (decide (2 ≤ f 1 1) || f 12 4 == 0)
  | 3 => zeroBytes e 1 4 && zeroBytes e 12 16
  | 4 => f 1 1 == 0 && decide (1 ≤ f 2 2) && decide (f 2 2 ≤ 2048) && f 4 4 % 64 == 0
  | 5 => decide (f 1 1 ≤ 7) && decide (f 2 1 ≤ 31) && decide (f 3 1 ≤ 3) && protOk (f 8 4) (f 12 4)
  | 6 => decide (f 1 1 ≤ 31) && f 2 2 == 0 && zeroBytes e 8 16
  | 7 => decide (1 ≤ f 4 4) && decide (f 4 4 ≤ 2 ^ 24) && zeroBytes e 8 16
  | _ => false

/-- Numbers that rise strictly. -/
def rising : List Nat → Bool
  | a :: b :: r => decide (a < b) && rising (b :: r)
  | _ => true

/-- Header and entries of a launch record are well formed (R422, R423: error 3). -/
def Launch.wellFormed (l : Launch) : Bool :=
  headerOk l.header && l.entries.all entryOk && l.entries.length == fieldAt l.header 20 2
    && (List.range l.sets).all (fun t => ((l.ofKind 1).filter fun e => fieldAt e 1 1 == t).length == 1)
    && decide ((l.ofKind 5).length ≤ 64) && decide ((l.ofKind 7).length ≤ 1)
    && rising ((l.ofKind 4).map fun e => fieldAt e 8 8)

end Form

section Checks

/-- Base and limit of a thread set's protection window, and whether it is shared. -/
def Launch.prot (l : Launch) (t : Nat) : Nat × Nat × Bool :=
  match (l.ofKind 1).find? fun e => fieldAt e 1 1 == t with
  | some e => (fieldAt e 4 4, fieldAt e 8 4, fieldAt e 2 1 == 1)
  | none => (0, 0, false)

/-- The initial landing windows and the annex windows: base and length. -/
def Launch.windows (l : Launch) : List (Nat × Nat) := (l.ofKind 2).map fun e => (fieldAt e 4 4, fieldAt e 8 4)
def Launch.annexes (l : Launch) : List (Nat × Nat) := (l.ofKind 3).map fun e => (fieldAt e 4 4, fieldAt e 8 4)

def apart (a b : Nat × Nat) : Bool := decide (a.1 + a.2 ≤ b.1) || decide (b.1 + b.2 ≤ a.1)

/-- Every two of a list stand in a relation. -/
def pairwise (r : α → α → Bool) : List α → Bool
  | [] => true
  | a :: t => t.all (r a) && pairwise r t

/-- Landing windows of one kind (R423, error 4). -/
def landingOk (top : Nat) (ws : List (Nat × Nat)) : Bool :=
  decide (ws.length ≤ Config.windowEntries)
    && ws.all (fun w => w.1 % 8 == 0 && w.2 % 8 == 0 && decide (8 ≤ w.2) && decide (w.1 + w.2 ≤ top))
    && pairwise apart ws

/-- The protection windows of thread sets and of memory tasks (R50, R136). -/
def Launch.protsOk (l : Launch) (plating : Bool) : Bool :=
  let ps := (List.range l.sets).map l.prot
  let private_ (p : Nat × Nat × Bool) (q : Nat × Nat × Bool) : Bool :=
    (p.2.2 && q.2.2) || apart (p.1, p.2.1 - p.1) (q.1, q.2.1 - q.1)
  let task (e : List Byte) := (fieldAt e 8 4, fieldAt e 12 4, decide (2 ≤ fieldAt e 3 1))
  let ts := l.ofKind 5
  let mate (a b : List Byte) : Bool :=
    fieldAt a 1 2 != fieldAt b 1 2 || ((task a).2.2 && (task b).2.2)
      || apart ((task a).1, (task a).2.1 - (task a).1) ((task b).1, (task b).2.1 - (task b).1)
  (!plating || ps.all fun p => decide (p.2.1 ≤ Config.plateBase)) && pairwise private_ ps
    && ts.all (fun e => decide ((task e).2.1 ≤ Config.stagingTop)) && pairwise mate ts

/-- The 32 argument bytes lie in the windows that receive them, clear of landing windows, initial and annex (R419, R423). -/
def Launch.argsOk (l : Launch) : Bool :=
  let p := l.prot 0
  decide (p.1 + 32 ≤ p.2.1) && (l.windows ++ l.annexes).all (apart (p.1, 32))
    && (l.ofKind 5).all fun e => decide (fieldAt e 8 4 + 32 ≤ fieldAt e 12 4)

/-- A power of two from 1 to 32. -/
def sidePow (n : Nat) : Bool := n == 1 || n == 2 || n == 4 || n == 8 || n == 16 || n == 32

/-- The tournament of a record (R160, R377, R474, R423). -/
def Launch.rivalsOk (l : Launch) (k : Capsule) (lock : Bool) : Bool :=
  match l.rivals with
  | none => true
  | some (m, w0, h0, _) =>
    decide (m ≤ 6) && sidePow w0 && sidePow h0 && l.w == w0 * 2 ^ ((m + 1) / 2) && l.h == h0 * 2 ^ (m / 2)
      && (m == 0 || k.annex != 0xFFFFFFFF) && !lock

/-- Error 4 of R423. -/
def Launch.layoutOk (l : Launch) (k : Capsule) (plating lock argv : Bool) : Bool :=
  let top := if plating then Config.plateBase else Config.lsTop
  let due (e : List Byte) : Bool :=
    let n := fieldAt e 12 4
    fieldAt e 1 1 < 2 || (n % 8 == 0 && decide (8 ≤ n) && decide (n ≤ Config.lsTop))
  l.protsOk plating && landingOk top l.windows && landingOk top l.annexes && (l.ofKind 2).all due
    && (!argv || l.argsOk)
    && (l.ofKind 4).all (fun e => decide (fieldAt e 4 4 / 64 + fieldAt e 2 2 ≤ k.lines.length))
    && l.rivalsOk k lock

/-- The buffer bound to a parameter (R393): of two entries that bind it the first counts, and an entry for an index at or above
NPARAM binds nothing (DESIGN CHOICE, log entry 77: R393 and R423 reject neither). -/
def Context.bound (c : Context) (l : Launch) (i : Nat) : Option Buffer :=
  ((l.ofKind 6).find? fun e => fieldAt e 1 1 == i).bind fun e => c.buffers.find? fun b => b.handle == fieldAt e 4 4

/-- Every declared parameter is bound, and every handle that the record binds is a registered buffer's (R393, R423). -/
def Context.bindsOk (c : Context) (l : Launch) (k : Capsule) : Bool :=
  (List.range k.params.length).all (fun i => (c.bound l i).isSome)
    && (l.ofKind 6).all fun e => c.buffers.any fun b => b.handle == fieldAt e 4 4

/-- The gang could be placed and budgeted on an idle device (R423, error 8). -/
def State.couldFit (s : State) (x : Queue) (l : Launch) : Bool :=
  let cs := s.chainOf x.group
  let v := l.want (effLock cs)
  let part := s.partition x.group
  decide (l.limit ≤ effLimit cs) && decide (v.w * v.h ≤ effCores cs) && decide (v.mems.length ≤ effSlots cs)
    && !(effLock cs && decide (16 < l.w)) && part.origins.any (fun o => s.originOk part v o.1 o.2) && s.memsOk v
    && (allotSlots (fun _ _ _ => true) v.mems []).isSome

/-- The first failing check of a LAUNCH, as its error (R423); 0 when it passes. -/
def State.launchError (s : State) (c : Context) (x : Queue) (bs : List Byte) : Nat :=
  let cs := s.chainOf x.group
  match c.launchOf bs with
  | none => 3
  | some (l, k) =>
    if !l.wellFormed then 3
    else if k.state = .retired then 6
    else if k.level < effBlmin cs then 7
    else if !c.bindsOk l k then 5
    else if !l.layoutOk k (!effNoplate cs) (effLock cs) (fieldAt bs 1 1 / 2 % 2 == 1) then 4
    else if !s.couldFit x l then 8
    else 0

/-- A head whose capsule has no body yet counts once in BODYWAIT (R390, R424). -/
def Queue.countBody (x : Queue) (k : Capsule) : Queue :=
  if k.runs || x.counted then x else { x with bodyWait := x.bodyWait + 1, counted := true }

/-- LAUNCH_RECORD (R423, R430): the check comes as the record reaches the head, whatever its fence waits for. -/
def execLaunchRecord (ctx q : Nat) (s : State) : Host.Outcome State Fault Refusal :=
  s.atHead ctx q 1 fun c x bs =>
    if x.checked then s
    else
      match s.launchError c x bs, c.launchOf bs with
      | 0, some (_, k) => (s.modQueue ctx q fun x => { x.countBody k with checked := true }).takeReservations
      | 0, none => s.modQueue ctx q fun x => x.refuse bs 3
      | e, _ => s.modQueue ctx q fun x => x.refuse bs e

end Checks

section Reserving

/-- The binding of a declared parameter (R393). -/
def Context.refFor (c : Context) (l : Launch) (k : Capsule) (i : Nat) : Option Ref :=
  match k.params[i]?, c.bound l i with
  | some p, some b =>
    some { base := b.base, fmt := b.fmt, rank := b.rank, ext := b.ext, r := b.r && p.acc % 2 == 1
           w := b.w && p.acc / 2 % 2 == 1, size := b.size }
  | _, _ => none

/-- A core is reserved for a gang: its store is zeroed if its last gang was another context's, lines of other capsules
and bodies leave its scratchpad (R17, R406). -/
def Core.reserve (k : Core) (gid : Nat) (ctx handle build : Nat) : Core :=
  let zero := k.lastCtx != some ctx
  { fenced := k.fenced
    gang := some gid
    lastCtx := some ctx
    store := if zero then [] else k.store
    poison := if zero then [] else k.poison
    scratch := k.scratch.filter fun l => l.capsule == handle && l.build == build }

/-- The leader of a lockstep pair takes note of where its shadow's store is not like its own (R473). -/
def Core.pairWith (k o : Core) : Core := { k with twin := some { bytes := k.store.differ o.store, poison := o.poison } }

/-- Reserve the cores and task slots of one gang. The scratchpad of a memory core keeps its lines of every capsule, since a slot is
reserved there and not the core, which other gangs use (DESIGN CHOICE, log entry 78: R17 and R406 speak of a reserved core). -/
def State.reserveGang (s : State) (gid : Nat) (g : Gang) (k : Capsule) : State :=
  let s := g.rect.foldl (fun s c =>
    let s := s.modCore c fun u => u.reserve gid g.ctx k.handle k.bodyId
    if g.lock then
      let o := { (s.core c.east).reserve gid g.ctx k.handle k.bodyId with gang := none }
      (s.setCore c.east o).modCore c fun u => u.pairWith o
    else s) s
  let s := g.tasks.foldl (fun s t => s.modCore (.memory t.1 t.2.1) fun u =>
    { u with tasks := u.tasks.set! t.2.2 { state := .resident, gang := gid } }) s
  { s with gangs := s.gangs.put gid g }

/-- The gangs of a launch: one, or a rival for each bracket index (R160, R161), with numbers from `base` on. -/
def State.newGangs (s : State) (ctx q : Nat) (x : Queue) (c : Context) (l : Launch) (k : Capsule) (ox oy : Nat)
    (slots : List (Nat × Nat × Nat)) (base : Nat) (tour : Option Nat) : List (Nat × Gang) :=
  let cs := s.chainOf x.group
  let per := (l.ofKind 5).length
  let one (i w h dx dy : Nat) (solo : Bool) : Nat × Gang :=
    let ts := (slots.drop (i * per)).take per
    (base + i,
     { ctx := ctx, q := q, idx := x.head, launch := l.handle, capsule := k.handle, ox := ox + dx, oy := oy + dy
       w := w, h := h, sets := l.sets, limit := l.limit, tasks := ts, shadowTasks := ts, phase := .starting
       noplate := effNoplate cs, lock := effLock cs, fdom := effFdom cs
       params := (List.range k.params.length).filterMap (c.refFor l k), tour := tour, bidx := i
       rival := if solo then .ordinary else .running, shadowRival := if solo then .ordinary else .running })
  match l.rivals with
  | none => [one 0 l.w l.h 0 0 true]
  | some (m, w0, h0, _) =>
    (List.range (2 ^ m)).map fun i => one i w0 h0 (bracketX i * w0) (bracketY i * h0) (m == 0)

/-- The node of the region tree that stands for a tournament while it lives, under the queue group of its queue, from which it takes
every field (R412). -/
def tourNode (handle group tour : Nat) : Region where
  handle := handle
  kind := 4
  ovr := 0
  prio := 0
  blmin := 0
  noplate := false
  lock := false
  fdom := 0
  parent := group
  cores := 0
  slots := 0
  limit := 0
  rect := 0
  ctx := 0
  qtab := 0
  tour := some tour

/-- GANG_RESERVE (R424, R426, R428, R430): a reservation whose turn has come is taken before (R429), and a buffer that has gone since
the check leaves its parameter unbound, which is error 5 (R393, R423). -/
def execGangReserve (ctx q : Nat) (s : State) : Host.Outcome State Fault Refusal :=
  let s := s.takeReservations
  match s.ctx ctx, s.queue ctx q with
  | some c, some x =>
    match s.room ctx q x, s.wantsRoom ctx q x with
    | some (l, ox, oy, slots), some (_, k) =>
      if !(s.serves ctx q || x.resv.isSome) then .next s
      else if !c.bindsOk l k then
        .next (s.modQueue ctx q fun x => x.refuse ((s.headRecord ctx x).getD []) 5).takeReservations
      else
        let s := s.noteServed ctx q
        let n := l.gangs
        let tour := s.nextId
        let gs := s.newGangs ctx q x c l k ox oy slots (s.nextId + 1) (if l.rivals.isSome then some tour else none)
        let node := tourNode (s.newHandle (1 + n)) x.group tour
        let s := { s with nextId := s.nextId + 2 + n }
        let s := match l.rivals with
          | none => s
          | some (m, w0, h0, allow) =>
            let t : Tour :=
              { ctx := ctx, q := q, idx := x.head, ox := ox, oy := oy, w0 := w0, h0 := h0, m := m, k := 0
                solo := m == 0, allow0 := allow, limit := l.limit, cycles := 0, rivals := gs.map fun (e : Nat × Gang) => e.1
                annexWins := l.annexes, faults := [], live := false }
            { s with tours := s.tours.put tour t, regions := s.regions ++ [node] }
        let s := gs.foldl (fun s e => s.reserveGang e.1 e.2 k) s
        let s := s.modQueue ctx q fun x => { x with resv := none }
        .next (s.modCtx ctx fun c => { c with launches := c.launches.map fun (r : Launch) =>
          if r.handle = l.handle then { r with counter := r.counter - r.depn } else r }).takeReservations
    | none, _ =>
      -- a head without its body waits, and says so once (R424)
      match s.headRecord ctx x with
      | some bs =>
        match c.launchOf bs with
        | some (_, k) => if x.checked then .next (s.modQueue ctx q fun x => x.countBody k) else .next s
        | none => .next s
      | none => .next s
    | _, none => .next s
  | _, _ => .next s

end Reserving

section Starting

/-- The landing windows that a gang's cores begin with, armed 0 (R51, R55). -/
def Launch.openWindows (l : Launch) : List Window :=
  (l.ofKind 2).map fun e =>
    let due := decide (2 ≤ fieldAt e 1 1)
    { base := fieldAt e 4 4, len := fieldAt e 8 4, log := fieldAt e 1 1 % 2 == 1
      expect := if due then some (fieldAt e 12 4) else none, state := if due then .due else .accepting }

/-- The lines that the overlays of a record load, and the overlay timeline after them (R28, R422). -/
def Launch.overlays (l : Launch) : List (Nat × Nat) := (l.ofKind 4).map fun e => (fieldAt e 4 4 / 64, fieldAt e 2 2)
def Launch.overlayValue (l : Launch) : Nat := ((l.ofKind 4).map fun e => fieldAt e 8 8).getLastD 0

/-- A compute core is made ready for the start release (R15, R16, R28, R48, R419). -/
def Core.prepare (u : Core) (g : Gang) (l : Launch) (k : Capsule) (gpos round : Word) (args : Option (List Byte)) : Core :=
  let u := l.overlays.foldl (fun u o => (List.range o.2).foldl (fun u i => u.install (k.tagOf k.bodyId (o.1 + i) 0)) u) u
  let u := args.elim u fun bs => u.putBytes (l.prot 0).1 bs
  { u with
    gpos := gpos
    gdim := g.gdim
    brect := g.brect
    round := round
    overlayTl := l.overlayValue
    overlayCount := l.overlayValue
    ts := u.ts.zipIdx.map fun e =>
      if e.2 < l.sets then
        let p := l.prot e.2
        startedTs k.entry e.2 l.sets (BitVec.ofNat 32 p.1) (BitVec.ofNat 32 p.2.1) (if p.2.2 then 1 else 0)
      else e.1
    shared := { windows := l.openWindows } }

/-- A memory task is made resident (R28, R137, R419); the counts and FREEZE words of its core are zero as its gang starts
(R370; on a core that tasks of other gangs share, DESIGN CHOICE, log entry 56). -/
def State.prepareTask (s : State) (gid : Nat) (l : Launch) (t : Nat × Nat × Nat) (e : List Byte)
    (args : Option (List Byte)) : State :=
  s.modCore (.memory t.1 t.2.1) fun u =>
    let base := fieldAt e 8 4
    let ts := startedTs (BitVec.ofNat 32 (fieldAt e 4 4)) 0 l.sets (BitVec.ofNat 32 base)
      (BitVec.ofNat 32 (fieldAt e 12 4)) (if 2 ≤ fieldAt e 3 1 then 1 else 0)
    let u := { u with
      ts := u.ts.set! t.2.2 ts
      tasks := u.tasks.set! t.2.2 { state := .resident, gang := gid, set := fieldAt e 3 1 % 2 }
      counters := Vector.replicate 4 (Vector.replicate 16 0)
      freeze := Vector.replicate 4 false }
    match args with
    | some bs => u.putBytes base bs
    | none => u

/-- The injected errors that a gang takes with it (R452): those armed for its record; in a tournament each goes to the
rival that holds its core, the rest to the first. -/
def Context.injectsFor (c : Context) (g : Gang) (ox oy : Nat) : List Inject :=
  ((c.injects.filter fun e => e.1 == g.launch).map (·.2)).filter fun i =>
    g.tour.isNone || (if i.tgt = 0 ∧ i.kind ≠ 3 ∧ i.kind ≠ 6 then g.holds (ox + i.col) (oy + i.row) else g.bidx == 0)

/-- One gang starts: its cores and tasks are ready, its release leaves (R28, R419). -/
def State.startGang (s : State) (gid : Nat) (g : Gang) (l : Launch) (k : Capsule) (args : Option (List Byte)) : State :=
  let o := s.gangOrigin g
  let round := (g.tour.bind s.tours.find).elim 0 fun t => t.round g.bidx
  let s := g.rect.foldl (fun s c =>
    match c with
    | .compute x y =>
      let pos := BitVec.ofNat 32 ((x - o.1) / g.stride + 256 * (y - o.2))
      s.modCore c fun u => u.prepare g l k pos round args
    | _ => s) s
  let s := (g.tasks.zip (l.ofKind 5)).foldl (fun s e => s.prepareTask gid l e.1 e.2 args) s
  let injects := (s.ctx g.ctx).elim [] fun c => c.injectsFor g o.1 o.2
  let s := s.modGang gid fun g => { g with phase := .running, rels := g.everyone, injects := injects }
  s.injectMemory gid

/-- Another gang has started in a partition: heads that wait only for room gain a pass, and one that reaches 64 takes its
turn (R429). -/
def State.passHeads (s : State) (ctx q : Nat) (part : Rect) : State :=
  s.allQueues.foldl (fun s e =>
    if (e.1 == ctx && e.2.1 == q) || s.partition e.2.2.1.group != part then s
    else if (s.wantsRoom e.1 e.2.1 e.2.2.1).isSome && (s.room e.1 e.2.1 e.2.2.1).isNone then
      ({ s with nextId := s.nextId + 1 } : State).modQueue e.1 e.2.1 fun x =>
        { x with passes := x.passes + 1, turn64 := if x.passes + 1 = 64 then s.nextId + 1 else x.turn64 }
    else s) s

/-- GANG_START (R28, R416, R430): every gang of the launch starts together, and its record is dispatched; or a start step
has met an uncorrectable error, and nothing of it becomes visible. A queue that has halted or been quiesced dispatches
nothing (R424, R492). -/
def execGangStart (gang : Nat) (ok : Bool) (s : State) : Host.Outcome State Fault Refusal :=
  match s.gang gang with
  | none => .next s
  | some g =>
    match s.ctx g.ctx, s.queue g.ctx g.q with
    | some c, some x =>
      match s.headRecord g.ctx x, c.launch g.launch, c.capsule g.capsule with
      | some bs, some l, some k =>
        if g.phase ≠ .starting ∨ x.state ≠ .running then .next s
        else if !ok then
          .next ((s.dropStarting g.ctx g.q).modQueue g.ctx g.q fun x => x.refuse bs 9)
        else
          let args := if fieldAt bs 1 1 / 2 % 2 = 1 then some (bytesAt bs 32 32) else none
          let part := s.partition x.group
          let s := s.modQueue g.ctx g.q fun x => x.take 1 (holds bs)
          let gs := s.gangs.filter fun e => e.2.ctx == g.ctx && e.2.q == g.q && e.2.phase == .starting
          let s := match g.tour.bind s.tours.find, g.tour with
            | some t, some i => { s with tours := s.tours.put i { t with live := true } }
            | _, _ => s
          let s := gs.foldl (fun s e => s.startGang e.1 e.2 l k args) s
          let s := s.modCtx g.ctx fun c => { c with injects := c.injects.filter fun e => e.1 != g.launch }
          .next (s.passHeads g.ctx g.q part).takeReservations
      | _, _, _ => .next s
    | _, _ => .next s

end Starting

end Sys2Proof.Machine
end

