-- ==== Sys2Proof/Machine/Network.lean ====
section
/-! DEFINITION. The network engine (R458 to R469): packets placed at their target, acknowledgements, retransmission and
failure, and the completion counters. -/
namespace Sys2Proof

/-- The bytes that a packet writes at its offset. -/
def NetPacketIn.span (p : NetPacketIn) : Nat := if p.opc = 2 then (Elem.ofCode p.elem).width / 8 else p.bytes.length

/-- The offset at which a message begins. -/
def NetPacketIn.start (p : NetPacketIn) : Nat := p.roff - 4096 * p.seq

namespace Machine

section Target

/-- A context is torn down: it has queues and every one of them is (R450, R466). -/
def Context.torn (c : Context) : Bool := !c.queues.isEmpty && c.queues.all fun q => q.2.state == .torn

/-- A packet that this device sent to one of its own contexts (R469), as the target sees it. -/
def State.ownPacket (s : State) (src target message seq : Nat) : Option NetPacketIn :=
  let ps := s.wire.filter fun w => w.ctx == src && w.number == message
  match ps.find? fun w => w.seq == seq with
  | none => none
  | some w =>
    match (s.ctx src).bind fun c => c.peers.find w.peer with
    | some p =>
      if p.own ∧ p.target = target then
        some { origin := .own src, message := message, lastSeq := ps.length - 1, seq := seq, opc := w.opc, aop := w.aop
               elem := w.elem, rkey := w.rkey, roff := w.roff, bytes := w.bytes, operand := w.opnd, rcnt := w.rcnt
               total := w.total }
      else none
    | none => none

/-- A window-key packet as one arrival. -/
def netArrival (p : NetPacketIn) (x y base : Nat) : Arriving :=
  { tag := none, addr := base + p.roff, bytes := p.bytes, sendop := false, op := .write, el := .b64, kind := 2, ts := 0
    sx := 2 * (y / 16) + x / 16, sy := 0 }

/-- The pieces of at most 256 bytes that a window-key packet lands in (R57, R459). -/
def pieces : Nat → Nat → List Byte → List (Nat × List Byte)
  | 0, _, _ => []
  | n + 1, a, bs => if bs.isEmpty then [] else (a, bs.take 256) :: pieces n (a + 256) (bs.drop 256)

/-- A window-key packet as arrivals at a core's port (R67, R459). -/
def netArrivals (p : NetPacketIn) (x y base : Nat) : List Arriving :=
  (pieces 17 (base + p.roff) p.bytes).map fun e => { netArrival p x y base with addr := e.1, bytes := e.2 }

/-- The ranges of global memory that a packet touches now: a PUT or ATOMIC at its offset; the ring slot of a SEND that
this packet completes. -/
def netTargets (p : NetPacketIn) (r : Remote) (last : Bool) : List (Nat × Nat) :=
  match r.kind with
  | .global gva _ _ => [(gva + p.roff, p.span)]
  | .ring gva slot slots => if last && decide (r.used < slots) then [(gva + r.used * slot, p.total)] else []
  | .window _ _ _ _ => []

/-- Why a packet is refused (R459, R462, R466); `last` says that it completes its message. -/
def State.netRefusal (s : State) (c : Context) (p : NetPacketIn) (last : Bool) : Option Nat :=
  if c.torn then some 5
  else
    match c.remotes.find? fun r => r.rkey == p.rkey with
    | none => some 2
    | some r =>
      match p.opc, r.kind with
      | 0, .global _ size w | 2, .global _ size w =>
        if !w then some 2 else if size < p.start + p.total then some 3 else none
      | 0, .window x y base len =>
        if len < p.start + p.total then some 3
        else if ((s.core (.compute x y)).accepts (netArrival p x y base)).isSome then none else some 7
      | 1, .ring _ slot slots => if slot < p.total then some 3 else if last && slots ≤ r.used then some 4 else none
      | _, _ => some 2

/-- How the receiving engine's translation of a packet ends (R436, R438). -/
def Context.netReach (c : Context) (ts : List (Nat × Nat)) : Reach :=
  (ts.flatMap fun t => pageStarts t.1 t.2).foldl (fun acc a =>
    match acc with
    | .ok =>
      match c.walk a with
      | .absent => .away [a]
      | .broken => .walkError a
      | .leaf _ p => if pteW p then .ok else .denied a
    | r => r) .ok

end Target

section Placing

/-- A message of a context. -/
def Context.inboundOf (c : Context) (o : NetOrigin) (m : Nat) : Inbound :=
  (c.inbound.find? fun i => i.origin == o && i.message == m).getD
    { origin := o, message := m, placed := [], held := [], complete := false, err := 0 }

def Context.setInbound (c : Context) (i : Inbound) : Context :=
  { c with inbound := i :: c.inbound.filter fun j => !(j.origin == i.origin && j.message == i.message) }

/-- Every packet of a message has been placed. -/
def Inbound.whole (i : Inbound) (lastSeq : Nat) : Bool := (List.range (lastSeq + 1)).all i.placed.contains

/-- A packet is placed at its own offset (R460). -/
def State.placePacket (s : State) (ctx : Nat) (p : NetPacketIn) (r : Remote) : State :=
  match r.kind with
  | .global gva _ _ =>
    let a := gva + p.roff
    if p.opc = 2 then
      let n := p.span
      let old := leNat ((List.range n).map fun i => (s.globalByte ctx (a + i)).getD 0)
      s.engineWrite ctx a (leBytes n (bankResult (.ofCode p.aop) (.ofCode p.elem) old p.operand.toNat))
    else s.engineWrite ctx a p.bytes
  | .window x y base _ =>
    (netArrivals p x y base).foldl (fun s a =>
      match (s.core (.compute x y)).accepts a with
      | some w => s.land (.compute x y) a w
      | none => s) s
  | .ring _ _ _ => s

/-- A complete message: a SEND takes the next free slot of its ring, and SUCC of RCNT rises (R459, R460). -/
def State.finishMessage (s : State) (ctx : Nat) (p : NetPacketIn) (i : Inbound) (r : Remote) : State :=
  let s := match r.kind with
    | .ring gva slot _ =>
      let s := i.held.foldl (fun (s : State) (e : Nat × List Byte) => s.engineWrite ctx (gva + r.used * slot + 4096 * e.1) e.2) s
      s.modCtx ctx fun c => { c with remotes := c.remotes.map fun (x : Remote) =>
        if x.rkey = r.rkey then { x with used := x.used + 1 } else x }
    | _ => s
  s.bumpCounter ctx p.rcnt true 0

/-- A packet that passes is placed, and may complete its message. -/
def State.takePacket (s : State) (ctx : Nat) (p : NetPacketIn) (r : Remote) (i : Inbound) : State :=
  let s := s.placePacket ctx p r
  let i := { i with placed := p.seq :: i.placed, held := if p.opc = 1 then i.held ++ [(p.seq, p.bytes)] else i.held }
  let s := if i.whole p.lastSeq then s.finishMessage ctx p i r else s
  s.modCtx ctx fun c => c.setInbound { i with complete := i.whole p.lastSeq, held := if i.whole p.lastSeq then [] else i.held }

end Placing

section Failing

/-- A post that has left the device and has not ended. -/
def State.flying (s : State) (ctx number : Nat) : Option Post :=
  (s.ctx ctx).bind fun c => c.posts.find? fun p => p.number == number && p.released && p.read && !p.ended

/-- What became of a post to one of this device's own contexts: its message there (R469); `none` for a peer elsewhere. -/
def State.ownOutcome (s : State) (ctx : Nat) (p : Post) : Option Inbound :=
  match (s.ctx ctx).bind fun c => c.peers.find p.peer with
  | some e => if e.own then (s.ctx e.target).map fun c => c.inboundOf (.own ctx) p.number else none
  | none => none

/-- One packet of a post is sent again; after seven retries the post fails (R461). -/
def State.retry (s : State) (ctx number seq : Nat) : State :=
  match s.flying ctx number with
  | none => s
  | some p =>
    if !(s.wire.any fun w => w.ctx == ctx && w.number == number && w.seq == seq) then s
    else
      let n := (p.tries.find seq).getD 0
      if 7 ≤ n then s.failPost ctx p 1
      else s.modCtx ctx fun c => { c with posts := c.posts.map fun (x : Post) =>
        if x.number = number then { x with tries := x.tries.put seq (n + 1) } else x }

/-- The queue behind a message of this device, for an error that no gang can be pinned for (R448); a message of a peer has none
here, and poison that it meets is counted (R476). -/
def State.netTorn (s : State) (p : NetPacketIn) (src addr : Nat) : State :=
  match p.origin with
  | .own o =>
    match s.flying o p.message with
    | some post => s.unpinned o post.q src addr
    | none => s
  | .peer _ => if src = 5 then { s with devCounters := { s.devCounters with poisoncons := sat64 s.devCounters.poisoncons } } else s

end Failing

section Events

/-- A packet is dealt with at its target context: discarded, refused, held back, or placed (R460); one that completes its message
waits until the counter can count (R438, R442, R462), and is refused where the engine meets an error there (R448). -/
def State.netPacket (s : State) (ctx : Nat) (c : Context) (p : NetPacketIn) : State :=
  let i := c.inboundOf p.origin p.message
  if i.err ≠ 0 ∨ i.complete ∨ i.placed.contains p.seq then s
  else
    let last := { i with placed := p.seq :: i.placed }.whole p.lastSeq
    let refuse (s : State) (e : Nat) : State := s.modCtx ctx fun c => c.setInbound { i with err := e }
    match s.netRefusal c p last, c.remotes.find? fun r => r.rkey == p.rkey with
    | some e, some r =>
      let s := match r.kind, e with
        | .window x y _ _, 7 => s.modCore (.compute x y) Core.numberPacket
        | _, _ => s
      refuse s e
    | some e, none => refuse s e
    | none, none => refuse s 2
    | none, some r =>
      let ts := netTargets p r last
      match c.netReach ts with
      | .away _ => s
      | .denied _ => refuse s 2
      | .walkError a => (refuse s 5).netTorn p 6 a
      | .ok =>
        if (ts.any fun t => s.undrained ctx t.1 t.2 || s.rangeMigrating ctx t.1 t.2) || (last && !s.counterReady ctx p.rcnt) then s
        else if p.opc == 2 && ts.any (fun t => s.globalPoison ctx t.1 t.2) then
          (refuse s 5).netTorn p 5 (s.poisonUnit ctx (ts.headD (0, 0)).1 p.span)
        else
          match if last then s.counterError ctx p.rcnt else none with
          | some (src, a) => (refuse s 5).netTorn p src a
          | none => s.takePacket ctx p r i

/-- NETWORK_PACKET_ARRIVAL (R459, R460, R466). -/
def execNetworkPacketArrival (ctx : Nat) (p : NetPacketIn) (s : State) : Host.Outcome State Fault Refusal :=
  if s.devClass = .fatal then .next s
  else
    match p.origin with
    | .peer _ =>
      match s.ctx ctx with
      | some c => .next (s.netPacket ctx c p)
      | none => .next s
    | .own src =>
      match s.ownPacket src ctx p.message p.seq with
      | none => .next s
      | some q =>
        match s.ctx ctx with
        | some c => .next (s.netPacket ctx c q)
        | none =>
          match s.flying src p.message with
          | some post => .next (s.failPost src post 5)
          | none => .next s

/-- NETWORK_ACK (R460, R463): the target has acknowledged the whole message. -/
def execNetworkAck (ctx number : Nat) (s : State) : Host.Outcome State Fault Refusal :=
  match s.flying ctx number with
  | none => .next s
  | some p =>
    let ok := match s.ownOutcome ctx p with
      | some i => i.complete
      | none => true
    if ok then
      let s := s.endPost ctx p true 0
      .next { s with wire := s.wire.filter fun w => !(w.ctx == ctx && w.number == number) }
    else .next s

/-- SACK_RECEIVED (R461): the packets it reports missing are sent again. -/
def execSackReceived (ctx number : Nat) (missing : List Nat) (s : State) : Host.Outcome State Fault Refusal :=
  .next (missing.foldl (fun s q => s.retry ctx number q) s)

/-- NEGATIVE_ACK (R461, R462, R466): the post fails with the target's reason. -/
def execNegativeAck (ctx number err : Nat) (s : State) : Host.Outcome State Fault Refusal :=
  match s.flying ctx number with
  | none => .next s
  | some p =>
    let ok := match s.ownOutcome ctx p with
      | some i => i.err == err && err != 0
      | none => decide (2 ≤ err) && decide (err ≤ 7) && err != 6
    if ok then .next (s.failPost ctx p err) else .next s

/-- RETRANSMIT_TIMEOUT (R461). -/
def execRetransmitTimeout (ctx number seq : Nat) (s : State) : Host.Outcome State Fault Refusal :=
  .next (s.retry ctx number seq)

end Events

end Machine
end Sys2Proof
end

