-- ==== Sys2Proof/Machine/Capsules.lean ====
section
/-! DEFINITION. Object files and capsules (R379 to R394): the form of a .pob file, the checks of install, relocation, where
firmware puts an image, its buffers and its body, builds, and uninstall. -/
namespace Sys2Proof.Machine

section Requests

/-- Firmware serves requests (R482): the device is ready, or runs from the fallback slot. -/
def State.serving (s : State) : Bool := s.devClass == .ready || s.devClass == .fallback

/-- Firmware answers on the mailbox of a function (R453, R454, R481). -/
def State.answer (s : State) (fn : Nat) (f : Nat → Answer) : State :=
  { s with answers := s.answers ++ [f s.nextId], nextId := s.nextId + 1 }.raise fn 0

/-- The function that a context belongs to; requests for a context that does not exist are answered on function 0. -/
def State.fnOf (s : State) (ctx : Nat) : Nat := (s.ctx ctx).elim 0 (·.fn)

/-- A request that changes the device, or is refused with a status (0: done). -/
def State.request (s : State) (ctx : Nat) (r : Except Nat State) : Host.Outcome State Fault Refusal :=
  if !s.serving then .next s
  else
    let fn := s.fnOf ctx
    match r with
    | .ok t => .next (t.answer fn fun n => .status n 0)
    | .error e => .next (s.answer fn fun n => .status n e)

end Requests

section Form

/-- A section of an object (R381). -/
structure ObjSection where
  kind : Nat
  fmt : Fmt
  rank : Nat
  ext : List Nat
  content : List Byte
  deriving DecidableEq, Repr

/-- A symbol (R382). -/
structure ObjSymbol where
  sect : Nat
  kind : Nat
  value : Nat
  deriving DecidableEq, Repr

/-- A relocation (R383). -/
structure ObjReloc where
  pos : Nat
  sect : Nat
  kind : Nat
  target : Nat
  deriving DecidableEq, Repr

/-- A well-formed object file. -/
structure Obj where
  level : Nat
  raw : Bool
  entry : Nat
  annex : Nat
  sections : List ObjSection
  symbols : List ObjSymbol
  relocs : List ObjReloc
  params : List Param
  traps : List Nat
  deriving DecidableEq, Repr

/-- Entry i of a table of entries of n bytes. -/
def row (bs : List Byte) (off n i : Nat) : List Byte := bytesAt bs (off + n * i) n

/-- A string is UTF-8 (R380): `need` bytes of a character are still to come, the next one from lo to hi. -/
def utf8Ok : Nat → Nat → Nat → List Byte → Bool
  | need, _, _, [] => need == 0
  | 0, _, _, b :: r =>
    let v := b.toNat
    if v < 0x80 then utf8Ok 0 0x80 0xBF r
    else if v < 0xC2 then false
    else if v < 0xE0 then utf8Ok 1 0x80 0xBF r
    else if v < 0xF0 then utf8Ok 2 (if v = 0xE0 then 0xA0 else 0x80) (if v = 0xED then 0x9F else 0xBF) r
    else if v < 0xF5 then utf8Ok 3 (if v = 0xF0 then 0x90 else 0x80) (if v = 0xF4 then 0x8F else 0xBF) r
    else false
  | n + 1, lo, hi, b :: r => decide (lo ≤ b.toNat) && decide (b.toNat ≤ hi) && utf8Ok n 0x80 0xBF r

/-- A string of the table is UTF-8 and ends in a zero byte within the file (R380). -/
def stringOk (bs : List Byte) (stroff off : Nat) : Bool :=
  let t := bs.drop (stroff + off)
  t.contains 0 && utf8Ok 0 0x80 0xBF (t.takeWhile (· != 0))

/-- The size of a buffer (R394). -/
def bufferSize (fmt : Fmt) (ext : List Nat) : Nat :=
  let e := ext.foldl (· * ·) 1
  match fmt with
  | .t6 => 3 * ((e + 3) / 4)
  | .s4 | .z4 => (e + 1) / 2
  | f => e * f.width / 8

/-- The header of a file is well formed, and its tables lie in the file (R379, R380). -/
def headerForm (bs : List Byte) : Bool :=
  let f := fieldAt bs
  let tables := f 40 8 + 48 * f 24 4 + 16 * (f 28 4 + f 32 4 + f 36 2) + 128
  decide (64 ≤ bs.length) && f 0 4 == 0x31424F50 && f 4 2 == 1 && decide (f 7 1 ≤ 1) && f 20 4 % 64 == 0
    && decide (f 36 2 ≤ 32) && f 38 2 == 0 && f 40 8 % 8 == 0 && f 56 8 == 0 && f 24 4 != 0
    && decide (tables ≤ bs.length) && (bytesAt bs (f 48 8) 1).head? == some 0 && decide (f 48 8 < bs.length)
    && stringOk bs (f 48 8) (f 16 4)

/-- Extents of a data section (R381, R394). -/
def extentsOk (rank : Nat) (ext : List Nat) : Bool :=
  (ext.take rank).all (· != 0) && (ext.drop rank).all (· == 0)

/-- A section entry (R381); `none` where it is malformed. -/
def sectionOf (bs : List Byte) (stroff textlen i : Nat) (e : List Byte) : Option ObjSection :=
  let f := fieldAt e
  let kind := f 4 1
  let rank := f 6 1
  let ext := (List.range 4).map fun j => f (24 + 4 * j) 4
  let fmt := Fmt.ofCode (f 5 1)
  let size := f 16 8
  let place := f 8 8 % 64 == 0 && decide (f 8 8 + size ≤ bs.length)
  let own := match kind with
    | 0 => i == 0 && f 5 2 == 0 && size == textlen && ext.all (· == 0)
    | 1 => i != 0 && decide (f 5 1 ≤ 15) && decide (1 ≤ rank) && decide (rank ≤ 4) && extentsOk rank ext
        && size == bufferSize fmt (ext.take rank) && decide (size ≤ 2 ^ 48)
    | 2 => i != 0 && f 5 2 == 0 && ext.all (· == 0)
    | _ => false
  if own && place && stringOk bs stroff (f 0 4) && f 7 1 == 0 && f 40 8 == 0 then
    some { kind := kind, fmt := fmt, rank := rank, ext := ext.take rank, content := bytesAt bs (f 8 8) size }
  else none

/-- A symbol entry (R382). A code symbol names the position of a slot: one for a label inside a literal block (R209), whose position
need be none, is refused, and so is a data symbol whose section is the text (DESIGN CHOICE, log entry 76: R382 does not say which
kind such a label has). -/
def symbolOf (bs : List Byte) (stroff textlen : Nat) (ss : List ObjSection) (e : List Byte) : Option ObjSymbol :=
  let f := fieldAt e
  match ss[f 4 2]? with
  | none => none
  | some x =>
    let v := f 8 8
    let own := match f 6 1 with
      | 0 => x.kind == 0 && posOk v && decide (v ≤ textlen)
      | 1 => x.kind == 1 && decide (v ≤ x.content.length)
      | 2 => x.kind == 2 && decide (v ≤ x.content.length)
      | 3 => x.kind == 1 && v == 0
      | _ => false
    if own && stringOk bs stroff (f 0 4) && f 7 1 == 0 then some { sect := f 4 2, kind := f 6 1, value := v } else none

/-- Bytes of a launch record (R422). -/
def launchSize (h : List Byte) : Nat := 64 + 16 * fieldAt h 20 2

/-- The records of a section (R381): offset, and whether it is a launch record; a queue record begins with its kind, a
launch record with a handle of zero. Each begins at the next multiple of 64, and the last ends within the section. -/
def recordsOf : Nat → Nat → List Byte → Option (List (Nat × Bool))
  | 0, _, bs => if bs.isEmpty then some [] else none
  | fuel + 1, off, bs =>
    if bs.isEmpty then some []
    else
      let k := fieldAt bs 0 1
      if bs.length < 64 then none
      else if 1 ≤ k ∧ k ≤ 6 then (recordsOf fuel (off + 64) (bs.drop 64)).map ((off, false) :: ·)
      else
        let n := (launchSize bs + 63) / 64 * 64
        if fieldAt bs 0 4 = 0 ∧ launchSize bs ≤ bs.length then (recordsOf fuel (off + n) (bs.drop n)).map ((off, true) :: ·)
        else none

def ObjSection.records (x : ObjSection) : Option (List (Nat × Bool)) := recordsOf (x.content.length / 64 + 1) 0 x.content

/-- A relocation entry (R383). -/
def relocOf (ss : List ObjSection) (ys : List ObjSymbol) (e : List Byte) : Option ObjReloc :=
  let f := fieldAt e
  let r : ObjReloc := { pos := f 0 8, sect := f 8 2, kind := f 10 1, target := f 12 4 }
  match ss[r.sect]? with
  | none => none
  | some x =>
    let width := if r.kind = 1 then 8 else 4
    let zero := fieldAt x.content r.pos 4 == 0
    let own := match r.kind, ys[r.target]? with
      | 1, some y => y.kind == 3
      | 2, some y => y.kind == 3 && zero
      | 3, _ => r.target == 0 && zero
      | 4, some y => y.kind == 0
      | 5, some y => y.kind == 2 && zero
          && ((ss[y.sect]?).bind ObjSection.records).any fun rs => rs.contains (y.value, true)
      | _, _ => false
    if own && x.kind != 0 && decide (r.pos + width ≤ x.content.length) && f 11 1 == 0 then some r else none

/-- A parameter entry (R384). -/
def paramOf (bs : List Byte) (stroff : Nat) (e : List Byte) : Option Param :=
  let f := fieldAt e
  if stringOk bs stroff (f 0 4) && decide (1 ≤ f 4 1) && decide (f 4 1 ≤ 15) && decide (1 ≤ f 5 1) && decide (f 5 1 ≤ 4)
      && decide (1 ≤ f 6 1) && decide (f 6 1 ≤ 3) && zeroBytes e 7 16 then
    some { name := f 0 4, fmt := Fmt.ofCode (f 4 1), rank := f 5 1, acc := f 6 1 }
  else none

/-- The causes whose trap-table entries must be none (R385). -/
def noHandler (c : Nat) : Bool := c == 0x0E || c == 0x0F || decide (0x12 ≤ c)

/-- Check 1 of R386: the object of a well-formed file. -/
def parseObject (bs : List Byte) : Option Obj :=
  if !headerForm bs then none
  else
    let f := fieldAt bs
    let off0 := f 40 8
    let off1 := off0 + 48 * f 24 4
    let off2 := off1 + 16 * f 28 4
    let off3 := off2 + 16 * f 32 4
    let off4 := off3 + 16 * f 36 2
    let str := f 48 8
    let text := f 20 4
    let traps := (List.range 32).map fun c => fieldAt bs (off4 + 4 * c) 4
    match (List.range (f 24 4)).mapM fun i => sectionOf bs str text i (row bs off0 48 i) with
    | none => none
    | some ss =>
      match (List.range (f 28 4)).mapM fun i => symbolOf bs str text ss (row bs off1 16 i) with
      | none => none
      | some ys =>
        match (List.range (f 32 4)).mapM fun i => relocOf ss ys (row bs off2 16 i),
          (List.range (f 36 2)).mapM fun i => paramOf bs str (row bs off3 16 i) with
        | some rs, some ps =>
          let recs := (ss.filter fun x => x.kind == 2).all fun x => x.records.isSome
          let none_ := traps.zipIdx.all fun e => !noHandler e.2 || e.1 == 0xFFFFFFFF
          if recs && none_ && (ss.head?.map (·.kind)) == some 0 then
            some { level := f 6 1, raw := f 7 1 == 1, entry := f 8 4, annex := f 12 4, sections := ss, symbols := ys
                   relocs := rs, params := ps, traps := traps }
          else none
        | _, _ => none

end Form

section Relocation

/-- What the relocations of an object are given: where its buffers lie and their handles, by section; the capsule's
handle; the handles of its launch records, by section and offset. -/
structure Placed where
  bufAddr : List (Nat × Nat)
  bufHandle : List (Nat × Nat)
  capsule : Nat
  launch : List ((Nat × Nat) × Nat)
  deriving DecidableEq, Repr

/-- The value that a relocation writes (R383). -/
def Obj.relocValue (o : Obj) (p : Placed) (r : ObjReloc) (addend : Nat) : Nat :=
  match r.kind, o.symbols[r.target]? with
  | 1, some y => ((p.bufAddr.find? fun e => e.1 == y.sect).map (·.2)).getD 0 + addend
  | 2, some y => ((p.bufHandle.find? fun e => e.1 == y.sect).map (·.2)).getD 0
  | 3, _ => p.capsule
  | 4, some y => y.value + addend
  | 5, some y => ((p.launch.find? fun e => e.1 == (y.sect, y.value)).map (·.2)).getD 0
  | _, _ => addend

/-- Replace n bytes of a list. -/
def patch (bs : List Byte) (a : Nat) (v : List Byte) : List Byte := bs.take a ++ v ++ bs.drop (a + v.length)

/-- The contents of a section with its relocations applied (R383), each to the addend that the file stores. -/
def Obj.relocated (o : Obj) (p : Placed) (i : Nat) : List Byte :=
  let raw := (o.sections[i]?).elim [] (·.content)
  (o.relocs.filter fun r => r.sect == i).foldl (fun bs r =>
    let n := if r.kind = 1 then 8 else 4
    patch bs r.pos (leBytes n (o.relocValue p r (fieldAt raw r.pos n)))) raw

/-- The launch records of an object with their relocations: section, offset, header and entries (R422). -/
def Obj.launches (o : Obj) (p : Placed) : List ((Nat × Nat) × List Byte × List (List Byte)) :=
  o.sections.zipIdx.flatMap fun x =>
    if x.1.kind ≠ 2 then []
    else
      let bs := o.relocated p x.2
      ((x.1.records.getD []).filter fun (e : Nat × Bool) => e.2).map fun (e : Nat × Bool) =>
        let h := bytesAt bs e.1 64
        ((x.2, e.1), h, (List.range (fieldAt h 20 2)).map fun j => bytesAt bs (e.1 + 64 + 16 * j) 16)

/-- Where no buffer, capsule or record has been placed yet. -/
def Placed.none : Placed where
  bufAddr := []
  bufHandle := []
  capsule := 0
  launch := []

end Relocation

section Checks

/-- A firmware slot (R485). -/
def State.fwSlot (s : State) (slot : Nat) : FwSlot := if slot = 0 then s.fwA else s.fwB

/-- The lowest behaviour level that the running firmware supports (R386, R389): in the window of R391, from level 1 on. -/
def State.lowestLevel (s : State) : Nat :=
  let f := s.fwSlot s.fwActive
  if f.image.isEmpty then Config.lowestLevel else max Config.lowestLevel (Config.fwLowest f.image)

/-- The portable form of an object. -/
def Obj.lines (o : Obj) : List Line :=
  let bs := (o.sections.head?).elim [] (·.content)
  (List.range (bs.length / 64)).map fun i => BitVec.ofNat 512 (fieldAt bs (64 * i) 64)

/-- A position at which a capsule can be entered (R188, R386). -/
def Obj.entryOk (o : Obj) (p : Nat) : Bool :=
  posOk p && match o.lines[p / 64]? with
    | some l => lineKind l == 0 && lineTarget l (posSlot p)
    | none => false

/-- Check 8 of R386. -/
def Obj.entriesOk (o : Obj) : Bool :=
  let opt (p : Nat) : Bool := p == 0xFFFFFFFF || o.entryOk p
  o.entryOk o.entry && opt o.annex && o.traps.all opt
    && (o.launches Placed.none).all fun l => l.2.2.all fun e => fieldAt e 0 1 != 5 || o.entryOk (fieldAt e 4 4)

/-- The first failing check of 2 to 8 (R386), as its status; 0 when they pass. -/
def State.objectError (s : State) (o : Obj) (test : Bool) : Nat :=
  if 3 < o.level then 5
  else if o.level < s.lowestLevel then 4
  else if o.raw && !test then 6
  else if test && o.level != 3 then 8
  else if !test && !o.lines.all lineParityOk then 2
  else if !test && !o.lines.all (fun l => (lineBadWord l).isNone) then 3
  else if !o.entriesOk then 7
  else 0

end Checks

section Space

/-- Round up to whole pages of 64 KiB. -/
def pageUp (n : Nat) : Nat := (n + 65535) / 65536 * 65536

/-- The addresses of a context that are in use, as ranges of a base and a length: mapped or once mapped, an image, a body, a
buffer, a ring, the counters, the queue table. -/
def State.spans (s : State) (ctx : Nat) (c : Context) : List (Nat × Nat) :=
  ((c.pt.filter fun e => pteLeaf e.2).map fun e => (e.1.2 * 2 ^ levelShift e.1.1, 2 ^ levelShift e.1.1))
    ++ (c.capsules.flatMap fun k => [(k.base, k.imageLen), (k.bodyBase, k.bodyLen)])
    ++ (c.buffers.map fun b => (b.base, b.size))
    ++ (c.backing.map fun (b : Nat × List Byte) => (b.1 * 65536, 65536))
    ++ (c.queues.map fun (x : Nat × Queue) => (x.2.ring, 64 * 2 ^ x.2.log2n))
    ++ (c.counters, 16 * 65536)
    :: (s.regions.filter fun r => r.kind == 2 && r.ctx == ctx && r.qtab != 0).map fun r => (r.qtab, 4096)

/-- The lowest n bytes of addresses, from a page on, that meet no range in use and lie in those that can be mapped (R434; DESIGN
CHOICE, log entry 45). -/
def holeIn (used : List (Nat × Nat)) (n : Nat) : Option Nat :=
  let fits (a : Nat) : Bool := decide (Config.gvaLow ≤ a) && decide (a + n ≤ Config.gvaHigh + 1)
    && !used.any fun u => meets a n u.1 u.2
  ((Config.gvaLow :: used.map fun u => pageUp (u.1 + u.2)).filter fits).foldl (fun m a => some (m.elim a (min a))) none

/-- The next frame of a stack, or the first of the next stack (R435). -/
def nextFrame (f : Nat) : Nat := if f % 2 ^ 20 + 1 < Config.stackFrames then f + 1 else (f / 2 ^ 20 + 1) * 2 ^ 20

/-- The lowest n free frames, in order. Each turn takes a frame, or passes one range in use. -/
def freeFrames (used : List (Nat × Nat)) : Nat → Nat → Nat → Option (List Nat)
  | _, _, 0 => some []
  | 0, _, _ + 1 => none
  | fuel + 1, f, n + 1 =>
    if !paOk (f * 65536) then none
    else
      match used.find? fun u => decide (u.1 < f * 65536 + 65536) && decide (f * 65536 < u.1 + u.2) with
      | none => (freeFrames used fuel (nextFrame f) n).map (f * 65536 :: ·)
      | some u =>
        let e := (u.1 + u.2 + 65535) / 65536
        let e := if e % 2 ^ 20 < Config.stackFrames then e else (e / 2 ^ 20 + 1) * 2 ^ 20
        freeFrames used fuel (max e (f + 1)) (n + 1)

/-- n frames that nothing uses, or none (R386, check 9). -/
def State.takeFrames (s : State) (n : Nat) : Option (List Nat) :=
  if 8 * Config.stackFrames < n then none
  else
    let used := s.usedFrames
    freeFrames used (n + used.length + 8) 0 n

/-- Map pages of 64 KiB, one frame each, with the rights given. -/
def Context.mapPages (c : Context) (gva rights : Nat) (frames : List Nat) : Context :=
  frames.zipIdx.foldl (fun c e =>
    let a := gva + 65536 * e.2
    (c.withTables 0 a).setPte 0 a (BitVec.ofNat 64 (e.1 + rights + 3))) c

/-- A page of 64 KiB is unmapped. -/
def Context.unmapPages (c : Context) (gva n : Nat) : Context :=
  (List.range (pageUp n / 65536)).foldl (fun c i =>
    { c.setPte 0 (gva + 65536 * i) 0 with backing := c.backing.drop (gva / 65536 + i) }) c

end Space

section Installing

/-- Where everything of an object goes: the image, the buffers of its data sections in order, the body; page by page. -/
def Obj.layout (o : Obj) (base imageLen : Nat) : List (Nat × Nat × Nat) × Nat :=
  let data := (o.sections.zipIdx.filter fun x => x.1.kind == 1).map fun x => (x.2, x.1.content.length)
  data.foldl (fun acc d => (acc.1 ++ [(d.1, acc.2, d.2)], acc.2 + pageUp d.2)) ([], base + pageUp imageLen)

/-- The launch records of a context after an install. -/
def Obj.newLaunches (o : Obj) (p : Placed) : List Launch :=
  (o.launches p).map fun (l : (Nat × Nat) × List Byte × List (List Byte)) =>
    let h := ((p.launch.find? fun e => e.1 == l.1).map (·.2)).getD 0
    let head := patch l.2.1 0 (leBytes 4 h)
    { handle := h, capsule := fieldAt head 4 4, header := head, entries := l.2.2, depn := fieldAt head 24 4, counter := 0 }

/-- A slot of a code line holds a deprecated instruction (R191, R392). -/
def lineDeprecated (l : Line) : Bool :=
  lineKind l == 0 && (List.range 5).any fun i =>
    match decode .compute (lineSlot l i) with
    | .ok (.aadds _ _ _ _ _ _) => true
    | _ => false

/-- The capsule that an object becomes (R386, R387, R389). -/
def Obj.capsule (o : Obj) (handle base bodyBase bodyLen : Nat) (test : Bool) : Capsule :=
  let slow := decide (o.level < 3)
  { handle := handle, level := o.level, state := if slow then .rebuilding else .portable
    depuse := o.lines.any lineDeprecated, test := test, lines := o.lines, entry := BitVec.ofNat 32 o.entry
    annex := BitVec.ofNat 32 o.annex, params := o.params, traps := o.traps.map (BitVec.ofNat 32 ·)
    base := base, bodyBase := bodyBase, bodyLen := bodyLen, buildId := 0, queued := !test, withheld := slow }

/-- Bytes of an image (R387). -/
def Obj.imageLen (o : Obj) : Nat := 256 + 64 * o.lines.length + 16 * o.params.length + 4 * 32

/-- Install an object whose checks have passed, as far as memory and addresses allow (R386, R387): `none` where they do not. -/
def State.place (s : State) (ctx : Nat) (c : Context) (o : Obj) (test : Bool) : Option (State × Nat) :=
  let bodyLen := pageUp (8 * 64 * o.lines.length)
  let bytes := (o.layout 0 o.imageLen).2 + bodyLen
  let pages := bytes / 65536
  match holeIn (s.spans ctx c) bytes with
  | none => none
  | some base =>
    let lay := o.layout base o.imageLen
    let bodyBase := lay.2
    match s.takeFrames pages with
    | none => none
    | some fs =>
      let handle := s.newHandle 0
      let recs := o.launches Placed.none
      let p : Placed :=
        { bufAddr := lay.1.map fun (b : Nat × Nat × Nat) => (b.1, b.2.1)
          bufHandle := lay.1.zipIdx.map fun (b : (Nat × Nat × Nat) × Nat) => (b.1.1, s.newHandle (1 + b.2))
          capsule := handle
          launch := recs.zipIdx.map fun (e : ((Nat × Nat) × List Byte × List (List Byte)) × Nat) =>
            (e.1.1, s.newHandle (1 + lay.1.length + e.2)) }
      let imagePages := pageUp o.imageLen / 65536
      let bodyPages := bodyLen / 65536
      let c := c.mapPages base 0x10 (fs.take imagePages)
      let c := c.mapPages (base + 65536 * imagePages) 0x30 ((fs.drop imagePages).take (pages - imagePages - bodyPages))
      let c := c.mapPages bodyBase 0 (fs.drop (pages - bodyPages))
      let bufs := lay.1.zipIdx.filterMap fun (b : (Nat × Nat × Nat) × Nat) => (o.sections[b.1.1]?).map fun (x : ObjSection) =>
        ({ handle := s.newHandle (1 + b.2), base := b.1.2.1, fmt := x.fmt, rank := x.rank, ext := x.ext, size := b.1.2.2
           r := true, w := true, capsule := handle } : Buffer)
      let secs := (o.sections.zipIdx.filter fun x => x.1.kind == 2).map fun x => (handle, o.relocated p x.2)
      let c := { c with
        capsules := c.capsules ++ [o.capsule handle base bodyBase bodyLen test]
        buffers := c.buffers ++ bufs
        launches := c.launches ++ o.newLaunches p
        records := c.records ++ secs }
      let zero := fs.foldl (fun m f => m.filter fun (e : Nat × Byte) => !(decide (f ≤ e.1) && decide (e.1 < f + 65536))) s.hbm
      let s := { s with
        contexts := s.contexts.put ctx c
        hbm := zero
        hbmPoison := s.hbmPoison.filter fun l => !fs.contains (l * 64 / 65536 * 65536)
        nextId := s.nextId + 2 + lay.1.length + recs.length }
      let s := lay.1.foldl (fun (s : State) (b : Nat × Nat × Nat) => s.globalWrite ctx b.2.1 (o.relocated p b.1)) s
      some (s, handle)

/-- INSTALL (R386). -/
def execInstall (ctx : Nat) (object : List Byte) (test : Bool) (s : State) : Host.Outcome State Fault Refusal :=
  if !s.serving then .next s
  else
    let fn := s.fnOf ctx
    let refuse (e : Nat) : State := s.answer fn fun n => .status n e
    match s.ctx ctx, parseObject object with
    | _, none | none, _ => .next (refuse 1)
    | some c, some o =>
      match s.objectError o test with
      | 0 =>
        match s.place ctx c o test with
        | none => .next (refuse 9)
        | some (t, h) =>
          if o.level < 3 then
            .next ({ t with nextId := t.nextId + 1 }.modCtx ctx fun c => { c with installs := c.installs ++ [(t.nextId, h)] })
          else .next (t.answer fn fun n => .handle n 0 h)
      | e => .next (refuse e)

end Installing

section Removing

/-- What a capsule brought into its context is freed: its image, its buffers, its body, its records (R389). -/
def Context.removeCapsule (c : Context) (h : Nat) : Context :=
  match c.capsule h with
  | none => c
  | some k =>
    let bufs := c.buffers.filter fun b => b.capsule == h
    let c := (c.unmapPages k.base k.imageLen).unmapPages k.bodyBase k.bodyLen
    let c := bufs.foldl (fun (c : Context) (b : Buffer) => c.unmapPages b.base b.size) c
    { c with
      capsules := c.capsules.filter fun (x : Capsule) => x.handle != h
      buffers := c.buffers.filter fun (b : Buffer) => b.capsule != h
      launches := c.launches.filter fun (l : Launch) => l.capsule != h
      records := c.records.filter fun (e : Nat × List Byte) => e.1 != h
      installs := c.installs.filter fun (e : Nat × Nat) => e.2 != h }

/-- The indices of records that a queue may still dispatch: from HEAD, and from the first held slot on (R415, R421). -/
def Queue.toCome (q : Queue) : List Nat :=
  ((q.slots.dropWhile fun (x : Slot) => !x.hold).map fun (x : Slot) => x.idx) ++ ringIdx q q.head q.pending

/-- A launch record naming a capsule is queued, or its gang runs (R389). A record whose page is away is taken to name it. -/
def State.capsuleBusy (s : State) (ctx : Nat) (c : Context) (h : Nat) : Bool :=
  (s.gangs.any fun e => e.2.ctx == ctx && e.2.capsule == h)
    || c.queues.any fun e => e.2.toCome.any fun i =>
        match s.headRecord ctx { e.2 with head := i } with
        | none => true
        | some bs => fieldAt bs 0 1 == 1 && (c.launch (fieldAt bs 4 4)).any fun l => l.capsule == h

/-- UNINSTALL (R389). -/
def execUninstall (ctx handle : Nat) (s : State) : Host.Outcome State Fault Refusal :=
  s.request ctx <|
    match s.ctx ctx with
    | none => .error 3
    | some c =>
      match c.capsule handle with
      | none => .error 3
      | some k =>
        if k.withheld then .error 3
        else if s.capsuleBusy ctx c handle then .error 1
        else .ok (s.modCtx ctx fun c => c.removeCapsule handle)

end Removing

section Builds

/-- REBUILD_REQUEST (R389): the loader asks what CAPBUILD asks. -/
def execRebuildRequest (ctx handle : Nat) (s : State) : Host.Outcome State Fault Refusal :=
  if !s.serving then .next s
  else
    let r := s.requestBuild ctx handle
    .next (r.2.answer (s.fnOf ctx) fun n => .status n r.1)

/-- BUILD_START (R389): the collimator starts a queued build. -/
def execBuildStart (ctx handle : Nat) (s : State) : Host.Outcome State Fault Refusal :=
  if !s.serving then .next s
  else .next (s.modCapsule ctx handle fun (k : Capsule) =>
    if k.queued && (k.state == .portable || k.state == .rebuilding) then { k with state := .rebuilding, queued := false }
    else k)

/-- The identity of a body: of the part's stepping and the running firmware, and not zero (R387, R389). -/
def State.buildIdentity (s : State) : Nat :=
  (1 + Config.stepping.toNat + 2 ^ 16 * (s.fwSlot s.fwActive).leaf) % 2 ^ 64

/-- A build ends in failure (R389): a capsule whose install is withheld goes, with status 10; another is voided. -/
def State.failBuild (s : State) (ctx : Nat) (k : Capsule) : State :=
  if k.withheld then
    let req := ((s.ctx ctx).bind fun c => c.installs.find? fun e => e.2 == k.handle).elim 0 (·.1)
    let fn := s.fnOf ctx
    { s.modCtx ctx fun c => c.removeCapsule k.handle with answers := s.answers ++ [Answer.status req 10] }.raise fn 0
  else s.modCapsule ctx k.handle fun (x : Capsule) => { x with state := .voided, buildId := 0, queued := false }

/-- A build ends in success (R389). -/
def State.finishBuild (s : State) (ctx : Nat) (k : Capsule) : State :=
  let s := s.modCapsule ctx k.handle fun (x : Capsule) =>
    { x with state := .native, buildId := s.buildIdentity, withheld := false }
  if k.withheld then
    let req := ((s.ctx ctx).bind fun c => c.installs.find? fun e => e.2 == k.handle).elim 0 (·.1)
    let fn := s.fnOf ctx
    { s.modCtx ctx fun (c : Context) => { c with installs := c.installs.filter fun (e : Nat × Nat) => e.2 != k.handle } with
      answers := s.answers ++ [Answer.handle req 0 k.handle] }.raise fn 0
  else s

/-- BUILD_COMPLETE (R389): a body that does not fit its range fails the build. -/
def execBuildComplete (ctx handle bodyLen : Nat) (s : State) : Host.Outcome State Fault Refusal :=
  match s.capsule ctx handle with
  | none => .next s
  | some k =>
    if !s.serving || k.state != .rebuilding || k.queued then .next s
    else if bodyLen ≤ k.bodyLen then .next (s.finishBuild ctx k)
    else .next (s.failBuild ctx k)

end Builds

end Sys2Proof.Machine
end

