-- ==== Sys2Proof/Machine/Control.lean ====
section
/-! DEFINITION. Transfers, hardware loops, HALT and YIELD (R229 to R239). -/
namespace Sys2Proof.Machine

/-- A transfer: the target checked under R188, then control passes (R229); for the cycles of R231 the thread set is not
ready. -/
def State.transfer (s : State) (t : Int) (leaves reg : Bool) : Except Stop (State × Next) :=
  if s.refusesTarget s.who t then .error (.trap .target (BitVec.ofInt 32 t))
  else .ok (s.modTs s.who fun x => x.delay 9 (if reg || !x.native then 2 else 0), .jump t.toNat leaves)

/-- The position of the instruction that issues (R214). -/
def State.pos (s : State) : Nat := (s.ts s.who).pc.toNat

/-- BR (R229). -/
def execBr (h : Hdr) (t : RelTarget) (s : State) : Host.Outcome State Fault Refusal :=
  s.run h fun s => s.transfer (relPos s.pos t) true false

/-- A transfer to the position a register holds: JMP and RET (R229, R230). -/
def State.jumpReg (s : State) (h : Hdr) (a : SReg) : Except Stop (State × Next) := do
  let x ← (s.ts s.who).readS a
  let r ← s.transfer x.toNat true true
  .ok (r.1.modTs s.who fun t => t.killS h.dmA a, r.2)

/-- JMP (R229). -/
def execJmp (h : Hdr) (a : SReg) (s : State) : Host.Outcome State Fault Refusal := s.run h fun s => s.jumpReg h a

/-- RET: the effect of JMP (R230). -/
def execRet (h : Hdr) (a : SReg) (s : State) : Host.Outcome State Fault Refusal := s.run h fun s => s.jumpReg h a

/-- CALL with a relative target: the link is written once the target is allowed (R229); it never ends a loop level
(R236). -/
def execCall (h : Hdr) (d : SReg) (t : RelTarget) (s : State) : Host.Outcome State Fault Refusal :=
  s.run h fun s => do
    (s.ts s.who).freeS d
    let r ← s.transfer (relPos s.pos t) false false
    .ok (r.1.modTs s.who fun x => x.putS d (BitVec.ofNat 32 (nextPos s.pos)), r.2)

/-- CALL.ind (R229). -/
def execCallInd (h : Hdr) (d a : SReg) (s : State) : Host.Outcome State Fault Refusal :=
  s.run h fun s => do
    let x ← (s.ts s.who).readS a
    (s.ts s.who).freeS d
    let r ← s.transfer x.toNat false true
    .ok (r.1.modTs s.who fun t => (t.killS h.dmA a).putS d (BitVec.ofNat 32 (nextPos s.pos)), r.2)

section Loops

/-- The checks of R235 in the order of their codes. A word with an OP of BR to LOOPI counts for code 4 whether or not its other
fields are valid (DESIGN CHOICE, log entry 67). -/
def Capsule.loopForm (c : Capsule) (levels : List LoopLevel) (b : Nat) (e : Int) : Option Nat :=
  if 2 ≤ levels.length then some 1
  else if e < b ∨ (64 * c.lines.length : Nat) ≤ e ∨ ¬ posOk e.toNat then some 2
  else
    let outer := levels.any fun l => decide (b < l.first.toNat) || decide ((l.last.toNat : Int) < e)
    if outer then some 3
    else
      match c.lineAt e.toNat with
      | none => some 2
      | some l =>
        let i := posSlot e.toNat
        let op := slotOp (lineSlot l i)
        if [0x20, 0x21, 0x22, 0x23, 0x24, 0x25].contains op then some 4
        else if (linePairs l).contains i then some 5
        else if (lineBadEntry l).isSome then some 6
        else none

/-- LOOP and LOOPI with n iterations (R233). -/
def State.startLoop (s : State) (e : RelTarget) (n : Word) : Except Stop (State × Next) :=
  let t := s.ts s.who
  if t.inh then .error (.trap .illegal 5)
  else
    let b := nextPos s.pos
    let last := relPos s.pos e
    let bad := match s.capsuleOf s.who with
      | some c => c.loopForm t.loops b last
      | none => some 2
    match bad with
    | some k => .error (.trap .loopform (BitVec.ofNat 32 k))
    | none =>
      if n = 0 then .ok (s, .jump (nextPos last.toNat) false)
      else
        let l : LoopLevel := { count := n, first := BitVec.ofNat 32 b, last := BitVec.ofInt 32 last }
        .ok (s.modTs s.who fun t => { t with loops := l :: t.loops }, .jump b false)

/-- LOOP (R233). -/
def execLoop (h : Hdr) (a : SReg) (e : RelTarget) (s : State) : Host.Outcome State Fault Refusal :=
  s.run h fun s => do
    let n ← (s.ts s.who).readS a
    let r ← s.startLoop e n
    .ok (r.1.modTs s.who fun t => t.killS h.dmA a, r.2)

/-- LOOPI (R233). -/
def execLoopi (h : Hdr) (e : RelTarget) (count : BitVec 20) (s : State) : Host.Outcome State Fault Refusal :=
  s.run h fun s => s.startLoop e (count.setWidth 32)

end Loops

/-- The task has no load or returning atomic under way. -/
def ThreadSet.drained (t : ThreadSet) : Except Stop Unit :=
  if !t.answers.isEmpty || t.loads.any (fun l => !l.landed) then .error (.wait 2) else .ok ()

/-- A halted task frees its frame and slot; its thread set waits for TASK_FRAME_LOAD. What a rollback of the superstep
needs of it stays, and no other task is given the slot before the superstep has been committed (R42, R444; DEDUCED, log entry 15). -/
def Core.haltTask (k : Core) (slot : Nat) : Core :=
  { k.endPair slot with
    tasks := k.tasks.set! slot { }
    ts := k.ts.set! slot { }
    running := k.running.map fun r => if r = some slot then none else r }

/-- HALT retires the thread set (R40, R238); on a memory core it frees the task's frame and slot (R137), once the
loads and returning atomics of the task have been performed (log entry 27). A trap that is held for a handler which halts is
raised nowhere (DESIGN CHOICE, log entry 68). -/
def execHalt (h : Hdr) (s : State) : Host.Outcome State Fault Refusal :=
  s.run h fun s => do
    let w := s.who
    (s.ts w).drained
    let s := s.modTs w fun t => { t with run := .retired, loops := [] }
    if w.core.isMemory then
      match s.gangId w with
      | none => .ok (s, .stay)
      | some g =>
        let late := (s.ts w).sends.map fun o => (w.core, w.t.val, o)
        let s := s.modCore w.core fun k => k.haltTask w.t.val
        .ok (s.modGang g fun x => { x with
          lateSends := x.lateSends ++ late
          tasks := x.tasks.filter fun t => !(CoreId.memory t.1 t.2.1 == w.core && t.2.2 == w.t.val) }, .stay)
    else .ok (s, .stay)

/-- YIELD (R239): the run count goes to 64; on a memory core the thread set passes to the oldest ready task of the
gang. -/
def execYield (h : Hdr) (s : State) : Host.Outcome State Fault Refusal :=
  if (s.ts s.who).guard h then
    let w := s.who
    .next
      (let s := s.retire .seq
       let k := s.core w.core
       let k := { k with schedRun := 64 }
       if w.core.isMemory then
         let me := k.tasks[w.t]
         let mate := k.tasks.toList.any fun x => x.state == .ready && x.gang == me.gang
         match mate, k.setOf w.t.val with
         | true, some set =>
           let n := k.oldestReady.getD w.t.val
           let k := { k with tasks := k.tasks.set! w.t.val { me with state := .ready, since := s.now } }
           s.setCore w.core (k.giveSet set n)
         | _, _ => s.setCore w.core k
       else s.setCore w.core k)
  else .next (s.retire .seq)

end Sys2Proof.Machine
end

