-- ==== Sys2Proof/Machine/Vector.lean ====
section
/-! DEFINITION. The vector instructions: lane arithmetic, the approximate functions, comparison, shifts, lane movement,
reductions, dot products, conversion, block quantisation and tags (R266 to R294). -/
namespace Sys2Proof.Machine

section Shapes

/-- The flags of all lanes together (R90). -/
def lanesFlags (cs : List Coded) : Word := cs.foldl (fun f c => f ||| c.2) 0

/-- One vector source, each lane to a lane. -/
def vec1 (h : Hdr) (fmt : Fmt) (d a : VReg) (f : ThreadSet → Nat → Coded) (s : State) :
    Host.Outcome State Fault Refusal :=
  s.runT h fun t => do
    let x ← t.readV a (some fmt)
    t.freeV d
    let cs := (vecLanes fmt x).map (f t)
    .ok (((t.killV h.dmA a).putV d (vecOf fmt (cs.map (·.1))) fmt).flag (lanesFlags cs))

/-- Two vector sources. -/
def vec2 (h : Hdr) (fmt : Fmt) (d a b : VReg) (f : ThreadSet → Nat → Nat → Coded) (s : State) :
    Host.Outcome State Fault Refusal :=
  s.runT h fun t => do
    let x ← t.readV a (some fmt)
    let y ← t.readV b (some fmt)
    t.freeV d
    let cs := List.zipWith (f t) (vecLanes fmt x) (vecLanes fmt y)
    .ok ((((t.killV h.dmA a).killV h.dmB b).putV d (vecOf fmt (cs.map (·.1))) fmt).flag (lanesFlags cs))

/-- Three vector sources. -/
def vec3 (h : Hdr) (fmt : Fmt) (d a b c : VReg) (f : ThreadSet → Nat → Nat → Nat → Coded) (s : State) :
    Host.Outcome State Fault Refusal :=
  s.runT h fun t => do
    let x ← t.readV a (some fmt)
    let y ← t.readV b (some fmt)
    let z ← t.readV c (some fmt)
    t.freeV d
    let cs := List.zipWith (fun p z => f t p.1 p.2 z) ((vecLanes fmt x).zip (vecLanes fmt y)) (vecLanes fmt z)
    .ok (((((t.killV h.dmA a).killV h.dmB b).killV h.dmC c).putV d (vecOf fmt (cs.map (·.1))) fmt).flag (lanesFlags cs))

/-- Round an exact result with the flags it came with (R268). -/
def rndWith (f : Fmt) (mode : RmCode) (sat : Bool) (r : Num × Word) : Coded :=
  let c := rnd f mode sat r.1
  (c.1, c.2 ||| r.2)

/-- A lane operation: exact on integers, rounded once on floats (R271). -/
def lane2 (f : Fmt) (mode : RmCode) (sat : Bool) (opI : Int → Int → Int) (opF : Num → Num → Num × Word) (a b : Nat) :
    Coded :=
  if f.isInt then fixInt f sat (opI (intVal f a) (intVal f b))
  else rndWith f mode sat (opF (codeVal f a) (codeVal f b))

def lane1 (f : Fmt) (mode : RmCode) (sat : Bool) (opI : Int → Int) (opF : Num → Num × Word) (a : Nat) : Coded :=
  if f.isInt then fixInt f sat (opI (intVal f a)) else rndWith f mode sat (opF (codeVal f a))

/-- Significant bits that a correctly rounded quotient or root needs (R273). -/
def wideBits : Nat := 64

def subNum (mode : RmCode) (a b : Num) : Num × Word := addNum mode a b.negate

/-- MIN and MAX of R272: INV for a signalling NaN. -/
def minMaxFlag (wantMax : Bool) (a b : Num) : Num × Word := (minMaxNum wantMax a b, snanFlag [a, b])

/-- VABS and VNEG (R272). -/
def signOp (f : Num → Num) (a : Num) : Num × Word := (f a, snanFlag [a])

end Shapes

section Arithmetic

/-- VADD (R271). -/
def execVadd (h : Hdr) (fmt : Fmt) (rm : RmCode) (sat : Bool) (d a b : VReg) (s : State) :
    Host.Outcome State Fault Refusal :=
  vec2 h fmt d a b (fun t => lane2 fmt (t.mode rm) sat (· + ·) (addNum (t.mode rm))) s

/-- VSUB (R271). -/
def execVsub (h : Hdr) (fmt : Fmt) (rm : RmCode) (sat : Bool) (d a b : VReg) (s : State) :
    Host.Outcome State Fault Refusal :=
  vec2 h fmt d a b (fun t => lane2 fmt (t.mode rm) sat (· - ·) (subNum (t.mode rm))) s

/-- VMUL (R271). -/
def execVmul (h : Hdr) (fmt : Fmt) (rm : RmCode) (sat : Bool) (d a b : VReg) (s : State) :
    Host.Outcome State Fault Refusal :=
  vec2 h fmt d a b (fun t => lane2 fmt (t.mode rm) sat (· * ·) mulNum) s

/-- VFMA (R271). -/
def execVfma (h : Hdr) (fmt : Fmt) (rm : RmCode) (sat : Bool) (d a b c : VReg) (s : State) :
    Host.Outcome State Fault Refusal :=
  vec3 h fmt d a b c (fun t x y z =>
    rndWith fmt (t.mode rm) sat (fmaNum (t.mode rm) (codeVal fmt x) (codeVal fmt y) (codeVal fmt z))) s

/-- VFMS (R271). -/
def execVfms (h : Hdr) (fmt : Fmt) (rm : RmCode) (sat : Bool) (d a b c : VReg) (s : State) :
    Host.Outcome State Fault Refusal :=
  vec3 h fmt d a b c (fun t x y z =>
    rndWith fmt (t.mode rm) sat (fmaNum (t.mode rm) (codeVal fmt x) (codeVal fmt y) (codeVal fmt z).negate)) s

/-- VMIN (R271, R272). -/
def execVmin (h : Hdr) (fmt : Fmt) (rm : RmCode) (sat : Bool) (d a b : VReg) (s : State) :
    Host.Outcome State Fault Refusal :=
  vec2 h fmt d a b (fun t => lane2 fmt (t.mode rm) sat min (minMaxFlag false)) s

/-- VMAX (R271, R272). -/
def execVmax (h : Hdr) (fmt : Fmt) (rm : RmCode) (sat : Bool) (d a b : VReg) (s : State) :
    Host.Outcome State Fault Refusal :=
  vec2 h fmt d a b (fun t => lane2 fmt (t.mode rm) sat max (minMaxFlag true)) s

/-- VABS (R271, R272). -/
def execVabs (h : Hdr) (fmt : Fmt) (rm : RmCode) (sat : Bool) (d a : VReg) (s : State) :
    Host.Outcome State Fault Refusal :=
  vec1 h fmt d a (fun t => lane1 fmt (t.mode rm) sat (fun x => (x.natAbs : Int)) (signOp Num.abs)) s

/-- VNEG (R271, R272). -/
def execVneg (h : Hdr) (fmt : Fmt) (rm : RmCode) (sat : Bool) (d a : VReg) (s : State) :
    Host.Outcome State Fault Refusal :=
  vec1 h fmt d a (fun t => lane1 fmt (t.mode rm) sat (fun x => -x) (signOp Num.negate)) s

/-- VDIV (R272, R273). -/
def execVdiv (h : Hdr) (fmt : Fmt) (rm : RmCode) (sat : Bool) (d a b : VReg) (s : State) :
    Host.Outcome State Fault Refusal :=
  vec2 h fmt d a b (fun t x y => rndWith fmt (t.mode rm) sat (divNum wideBits (codeVal fmt x) (codeVal fmt y))) s

/-- VSQRT (R272, R273). -/
def execVsqrt (h : Hdr) (fmt : Fmt) (rm : RmCode) (sat : Bool) (d a : VReg) (s : State) :
    Host.Outcome State Fault Refusal :=
  vec1 h fmt d a (fun t x => rndWith fmt (t.mode rm) sat (sqrtNum wideBits (codeVal fmt x))) s

end Arithmetic

section Approximate

/-- Working precision of the functions of R274. -/
def fnBits : Nat := 200

/-- The natural logarithm of 2 as a multiple of 2^-200: the sum of 1 / (k 2^k). -/
def ln2 : Nat := (List.range fnBits).foldl (fun acc k => acc + 2 ^ fnBits / ((k + 1) * 2 ^ (k + 1))) 0

/-- e^y of y / 2^200 by its series, a multiple of 2^-200. -/
def expSeries (y : Nat) : Nat :=
  ((List.range 60).foldl (fun (acc : Nat × Nat) k =>
    let t := acc.1 * y / (2 ^ fnBits * (k + 1))
    (t, acc.2 + t)) (2 ^ fnBits, 2 ^ fnBits)).2

/-- 1 / sqrt(m x 2^e), m nonzero. -/
def rsqrtMag (m : Nat) (e : Int) : Nat × Int :=
  let m' := if e % 2 = 0 then m else 2 * m
  let e' := if e % 2 = 0 then e else e - 1
  let k := wideBits + bitLen m'
  let r := isqrt (2 ^ (2 * k) / m')
  jam r (r * r * m' == 2 ^ (2 * k)) (-(k : Int) - e' / 2)

/-- 2^a for a = (-1)^neg x m x 2^e, m nonzero. -/
def exp2Mag (neg : Bool) (m : Nat) (e : Int) : Nat × Int :=
  if 12 < (bitLen m : Int) + e then (1, if neg then -5000 else 5000)
  else if 0 ≤ e then
    let v : Int := m * 2 ^ e.toNat
    (1, if neg then -v else v)
  else if (bitLen m : Int) + e < -100 then (if neg then 2 ^ 101 - 1 else 2 ^ 101 + 1, -101)
  else
    let k := (-e).toNat
    let n : Int := if neg then -(m : Int) else m
    let i := n / (2 ^ k : Nat)
    let f := (n % (2 ^ k : Nat)).toNat
    if f = 0 then (1, i)
    else
      let x := f * 2 ^ fnBits / 2 ^ k
      (2 * expSeries (x * ln2 / 2 ^ fnBits) + 1, i - fnBits - 1)

/-- The binary digits of the logarithm of y / 2^200 in [1, 2), n of them. -/
def log2Digits : Nat → Nat → Nat → Nat
  | 0, _, acc => acc
  | n + 1, y, acc =>
    let y := y * y / 2 ^ fnBits
    if 2 ^ (fnBits + 1) ≤ y then log2Digits n (y / 2) (2 * acc + 1) else log2Digits n y (2 * acc)

/-- log2 of m x 2^e, m nonzero. -/
def log2Num (m : Nat) (e : Int) : Num :=
  let l := bitLen m - 1
  let k : Int := e + l
  if m = 2 ^ l then Num.ofIntAt k 0
  else
    let f := log2Digits 72 (m * 2 ^ fnBits / 2 ^ l) 0
    let n := k * 2 ^ 72 + f
    if 0 ≤ n then .fin false (2 * n.toNat + 1) (-73) else .fin true (2 * n.natAbs - 1) (-73)

/-- The function of R274 before rounding, with the special operands of R275: op 0 VRSQ, 1 VEXP2, 2 VLOG2. -/
def fnNum (op : Nat) (a : Num) : Num × Word :=
  match op, a with
  | _, .nan sn => (.nan false, if sn then fINV else 0)
  | _, .nav => (.nan false, fNAV)
  | 0, .inf neg => if neg then (.nan false, fINV) else (.fin false 0 0, 0)
  | 0, .fin neg m e =>
    if m = 0 then (.inf neg, fDZ)
    else if neg then (.nan false, fINV)
    else
      let r := rsqrtMag m e
      (.fin false r.1 r.2, 0)
  | 1, .inf neg => if neg then (.fin false 0 0, 0) else (.inf false, 0)
  | 1, .fin neg m e =>
    if m = 0 then (.fin false 1 0, 0)
    else
      let r := exp2Mag neg m e
      (.fin false r.1 r.2, 0)
  | _, .inf neg => if neg then (.nan false, fINV) else (.inf false, 0)
  | _, .fin neg m e =>
    if m = 0 then (.inf true, fDZ)
    else if neg then (.nan false, fINV)
    else (log2Num m e, 0)

/-- FP32 codes in the order of their values, and back. -/
def fp32Ord (c : Nat) : Int := if c < 2 ^ 31 then c else -((c - 2 ^ 31 : Nat) : Int) - 1
def fp32OfOrd (i : Int) : Nat := if 0 ≤ i then i.toNat else 2 ^ 31 + (-i - 1).toNat

/-- The bound of R274 on an FP32 result x: an exact distance. -/
def fnBound (op : Nat) (arg x : Num) : Num :=
  match arg, x with
  | .fin _ am ae, .fin _ m e =>
    let q := max (e + bitLen m - 24) (-149)
    if op = 2 ∧ cmpMag am ae 1 (-1) ≠ .lt ∧ cmpMag am ae 2 0 = .lt then .fin false 1 (-22)
    else .fin false (if op = 0 then 1 else 2) q
  | _, _ => .fin false 0 0

/-- An FP32 function: exact where the result is representable, else one of the codes within the bound, which one a free
value says (R274, log entry 5). -/
def fnFp32 (op : Nat) (sat : Bool) (a : Nat) : Coded :=
  let arg := codeVal .fp32 a
  let x := fnNum op arg
  let c := rnd .fp32 .rne sat x.1
  if c.2 &&& fINX = 0 ∨ c.2 &&& fOFL ≠ 0 then (c.1, c.2 ||| x.2)
  else
    let w := fnBound op arg x.1
    let lo := fp32Ord (rnd .fp32 .rup false (subNum .rne x.1 w).1).1
    let hi := fp32Ord (rnd .fp32 .rdn false (addNum .rne x.1 w).1).1
    let r := fp32OfOrd (lo + (Config.approxPick op (BitVec.ofNat 32 a) % ((hi - lo).toNat + 1) : Nat))
    (r, fINX ||| (if r % 2 ^ 31 < 2 ^ 23 then fUFL else 0))

/-- A lane of VRSQ, VEXP2 or VLOG2 (R274). -/
def fnLane (op : Nat) (fmt : Fmt) (mode : RmCode) (sat : Bool) (a : Nat) : Coded :=
  match fmt with
  | .fp32 => fnFp32 op sat a
  | f => rndWith f mode sat (fnNum op (codeVal f a))

/-- VRSQ (R274, R275). -/
def execVrsq (h : Hdr) (fmt : Fmt) (rm : RmCode) (sat : Bool) (d a : VReg) (s : State) :
    Host.Outcome State Fault Refusal :=
  vec1 h fmt d a (fun t => fnLane 0 fmt (t.mode rm) sat) s

/-- VEXP2 (R274, R275). -/
def execVexp2 (h : Hdr) (fmt : Fmt) (rm : RmCode) (sat : Bool) (d a : VReg) (s : State) :
    Host.Outcome State Fault Refusal :=
  vec1 h fmt d a (fun t => fnLane 1 fmt (t.mode rm) sat) s

/-- VLOG2 (R274, R275). -/
def execVlog2 (h : Hdr) (fmt : Fmt) (rm : RmCode) (sat : Bool) (d a : VReg) (s : State) :
    Host.Outcome State Fault Refusal :=
  vec1 h fmt d a (fun t => fnLane 2 fmt (t.mode rm) sat) s

end Approximate

section Selection

/-- One lane of VCMP (R276): integers have no NaN. -/
def cmpLane (f : Fmt) (c : FCond) (a b : Nat) : Bool × Word := fcondHolds c (codeVal f a) (codeVal f b)

/-- VCMP (R276). -/
def execVcmp (h : Hdr) (fmt : Fmt) (c : FCond) (d : SReg) (a b : VReg) (s : State) : Host.Outcome State Fault Refusal :=
  s.runT h fun t => do
    let x ← t.readV a (some fmt)
    let y ← t.readV b (some fmt)
    t.freeS d
    let rs := List.zipWith (cmpLane fmt c) (vecLanes fmt x) (vecLanes fmt y)
    let mask := rs.foldr (fun r acc => (if r.1 then 1 else 0) + 2 * acc) 0
    .ok ((((t.killV h.dmA a).killV h.dmB b).putS d (BitVec.ofNat 32 mask)).flag (rs.foldl (fun f r => f ||| r.2) 0))

/-- VSEL (R277). -/
def execVsel (h : Hdr) (fmt : Fmt) (d a b : VReg) (c : SReg) (s : State) : Host.Outcome State Fault Refusal :=
  s.runT h fun t => do
    let x ← t.readV a (some fmt)
    let y ← t.readV b (some fmt)
    let m ← t.readS c
    t.freeV d
    let ls := ((vecLanes fmt x).zip (vecLanes fmt y)).zipIdx.map fun e => if m.getLsbD e.2 then e.1.1 else e.1.2
    .ok ((((t.killV h.dmA a).killV h.dmB b).killS h.dmC c).putV d (vecOf fmt ls) fmt)

/-- A bitwise operation on whole registers; the tag is that of A (R278), 0 where A is dead and reads as zero (log entry
60). -/
def vecBits (h : Hdr) (d a b : VReg) (f : VWord → VWord → VWord) (s : State) : Host.Outcome State Fault Refusal :=
  s.runT h fun t => do
    let x ← t.readV a none
    let y ← t.readV b none
    t.freeV d
    let tag := t.tagV a
    .ok (((t.killV h.dmA a).killV h.dmB b).putV d (maskTag tag (f x y)) tag)

/-- VAND (R278). -/
def execVand (h : Hdr) (d a b : VReg) (s : State) : Host.Outcome State Fault Refusal := vecBits h d a b (· &&& ·) s

/-- VOR (R278). -/
def execVor (h : Hdr) (d a b : VReg) (s : State) : Host.Outcome State Fault Refusal := vecBits h d a b (· ||| ·) s

/-- VXOR (R278). -/
def execVxor (h : Hdr) (d a b : VReg) (s : State) : Host.Outcome State Fault Refusal := vecBits h d a b (· ^^^ ·) s

/-- A vector shift (R279): each lane by its amount. -/
def vecShift (h : Hdr) (fmt : Fmt) (d a : VReg) (n : VShiftAmt) (f : Nat → Nat → Nat) (s : State) :
    Host.Outcome State Fault Refusal :=
  match n with
  | .reg b => vec2 h fmt d a b (fun _ x k => (f x k, 0)) s
  | .imm k => vec1 h fmt d a (fun _ x => (f x k.val, 0)) s

/-- VSHL (R279). -/
def execVshl (h : Hdr) (fmt : Fmt) (d a : VReg) (n : VShiftAmt) (s : State) : Host.Outcome State Fault Refusal :=
  vecShift h fmt d a n (fun x k => if fmt.width ≤ k then 0 else x * 2 ^ k % 2 ^ fmt.width) s

/-- VSHR (R279). -/
def execVshr (h : Hdr) (fmt : Fmt) (d a : VReg) (n : VShiftAmt) (s : State) : Host.Outcome State Fault Refusal :=
  vecShift h fmt d a n (fun x k => if fmt.width ≤ k then 0 else x / 2 ^ k) s

/-- VSHRA (R279). -/
def execVshra (h : Hdr) (fmt : Fmt) (d a : VReg) (n : VShiftAmt) (s : State) : Host.Outcome State Fault Refusal :=
  vecShift h fmt d a n (fun x k => ofInt fmt.width (toSigned fmt.width x / 2 ^ min k fmt.width)) s

end Selection

section Movement

/-- VPERM (R280): byte i of B picks a lane of A then C, or zero. -/
def execVperm (h : Hdr) (fmt : Fmt) (d a b c : VReg) (s : State) : Host.Outcome State Fault Refusal :=
  s.runT h fun t => do
    let x ← t.readV a none
    let y ← t.readV b none
    let z ← t.readV c none
    t.freeV d
    let ls := vecLanes fmt x ++ vecLanes fmt z
    let out := (lanesOf y 8 fmt.lanes).map fun i => if 128 ≤ i then 0 else ls.getD (i % (2 * fmt.lanes)) 0
    .ok ((((t.killV h.dmA a).killV h.dmB b).killV h.dmC c).putV d (vecOf fmt out) fmt)

/-- The scalar, or the pair for FP64, that a lane is taken from (R281, R283). -/
def ThreadSet.readLane (t : ThreadSet) (fmt : Fmt) (a : SReg) : Except Stop Nat :=
  if fmt = .fp64 then do
    let v ← t.readP (SReg.pair a)
    .ok v.toNat
  else do
    let v ← t.readS a
    .ok v.toNat

def ThreadSet.killLane (t : ThreadSet) (mark : Bool) (fmt : Fmt) (a : SReg) : ThreadSet :=
  if fmt = .fp64 then t.killP mark (SReg.pair a) else t.killS mark a

/-- VBCAST (R281). -/
def execVbcast (h : Hdr) (fmt : Fmt) (d : VReg) (a : SReg) (s : State) : Host.Outcome State Fault Refusal :=
  s.runT h fun t => do
    let x ← t.readLane fmt a
    t.freeV d
    .ok ((t.killLane h.dmA fmt a).putV d (vecOf fmt (List.replicate fmt.lanes x)) fmt)

/-- The lanes of a pattern of VSHUF over its sources (R282). -/
def shufLanes (n : Nat) (a b : List Nat) : ShufPat → List Nat
  | .ilo _ => (List.range n).map fun i => if i % 2 = 0 then a.getD (i / 2) 0 else b.getD (i / 2) 0
  | .ihi _ => (List.range n).map fun i => if i % 2 = 0 then a.getD (n / 2 + i / 2) 0 else b.getD (n / 2 + i / 2) 0
  | .even _ => (List.range n).map fun i => if i < n / 2 then a.getD (2 * i) 0 else b.getD (2 * (i - n / 2)) 0
  | .odd _ => (List.range n).map fun i => if i < n / 2 then a.getD (2 * i + 1) 0 else b.getD (2 * (i - n / 2) + 1) 0
  | .rev => a.reverse
  | .rot k => (List.range n).map fun i => a.getD ((i + k.val) % n) 0

/-- The second source of a pattern. -/
def shufSecond : ShufPat → Option VReg
  | .ilo b | .ihi b | .even b | .odd b => some b
  | _ => none

/-- VSHUF (R282). -/
def execVshuf (h : Hdr) (fmt : Fmt) (pat : ShufPat) (d a : VReg) (s : State) : Host.Outcome State Fault Refusal :=
  s.runT h fun t => do
    let x ← t.readV a none
    let y ← match shufSecond pat with
      | some b => t.readV b none
      | none => .ok 0
    t.freeV d
    let ls := shufLanes fmt.lanes (vecLanes fmt x) (vecLanes fmt y) pat
    let t := t.killV h.dmA a
    let t := match shufSecond pat with
      | some b => t.killV h.dmB b
      | none => t
    .ok (t.putV d (vecOf fmt ls) fmt)

/-- VMOVS keeps the other lanes of its destination, which it reads (R283). -/
def execVmovs (h : Hdr) (fmt : Fmt) (d : VReg) (a : SReg) (lane : Fin 32) (s : State) :
    Host.Outcome State Fault Refusal :=
  s.runT h fun t => do
    let x ← t.readLane fmt a
    let old ← t.readV d none
    let ls := (vecLanes fmt old).set lane.val x
    .ok ((t.killLane h.dmA fmt a).putV d (vecOf fmt ls) fmt)

/-- A scalar destination that a 64-bit format fills as a pair. -/
def ThreadSet.freeWide (t : ThreadSet) (wide : Bool) (d : SReg) : Except Stop Unit :=
  if wide then t.freeP (SReg.pair d) else t.freeS d

def ThreadSet.putWide (t : ThreadSet) (wide : Bool) (d : SReg) (v : Nat) : ThreadSet :=
  if wide then t.putP (SReg.pair d) (BitVec.ofNat 64 v) else t.putS d (BitVec.ofNat 32 v)

/-- VEXTS (R283). -/
def execVexts (h : Hdr) (fmt : Fmt) (d : SReg) (a : VReg) (lane : Fin 32) (s : State) :
    Host.Outcome State Fault Refusal :=
  s.runT h fun t => do
    let x ← t.readV a (some fmt)
    t.freeWide (fmt == .fp64) d
    let code := laneAt x fmt.width lane.val
    let v := match fmt with
      | .t6 => code % 64
      | .s8 | .s16 | .s32 => ofInt 32 (toSigned fmt.width code)
      | _ => code
    .ok ((t.killV h.dmA a).putWide (fmt == .fp64) d v)

/-- VIOTA (R284). -/
def execViota (h : Hdr) (fmt : Fmt) (sat : Bool) (d : VReg) (a : SReg) (imm : Imm) (s : State) :
    Host.Outcome State Fault Refusal :=
  s.runT h fun t => do
    let x ← t.readS a
    t.freeV d
    let cs := (List.range fmt.lanes).map fun (i : Nat) => fixInt fmt sat (x.toInt + (i : Int) * imm.toInt)
    .ok (((t.killS h.dmA a).putV d (vecOf fmt (cs.map (·.1))) fmt).flag (lanesFlags cs))

end Movement

section Reductions

/-- One level of the pairwise tree of R285. -/
def treeLevel (op : Nat → Nat → Coded) : List Nat → List Nat × Word
  | a :: b :: r =>
    let c := op a b
    let rest := treeLevel op r
    (c.1 :: rest.1, c.2 ||| rest.2)
  | l => (l, 0)

/-- The whole tree: as many levels as the lanes need. -/
def treeReduce (op : Nat → Nat → Coded) : Nat → List Nat → List Nat × Word
  | 0, l => (l, 0)
  | n + 1, l =>
    let r := treeLevel op l
    let q := treeReduce op n r.1
    (q.1, r.2 ||| q.2)

/-- A reduction to a scalar (R285). -/
def vecReduce (h : Hdr) (fmt : Fmt) (d : SReg) (a : VReg) (ints : List Int → Coded)
    (node : ThreadSet → Nat → Nat → Coded) (s : State) : Host.Outcome State Fault Refusal :=
  s.runT h fun t => do
    let x ← t.readV a (some fmt)
    t.freeWide (fmt == .fp64) d
    let ls := vecLanes fmt x
    let r : Coded :=
      if fmt.isInt then ints (ls.map (intVal fmt))
      else
        let q := treeReduce (node t) 4 ls
        (q.1.headD 0, q.2)
    .ok (((t.killV h.dmA a).putWide (fmt == .fp64) d r.1).flag r.2)

/-- The 32-bit format a reduction of a format gives. -/
def redFmt (f : Fmt) : Fmt := if f.isSigned then .s32 else .z32

/-- VREDADD (R285). -/
def execVredadd (h : Hdr) (fmt : Fmt) (rm : RmCode) (sat : Bool) (d : SReg) (a : VReg) (s : State) :
    Host.Outcome State Fault Refusal :=
  vecReduce h fmt d a (fun xs => fixInt (redFmt fmt) sat (xs.foldl (· + ·) 0))
    (fun t => lane2 fmt (t.mode rm) sat (· + ·) (addNum (t.mode rm))) s

/-- VREDMAX (R285). -/
def execVredmax (h : Hdr) (fmt : Fmt) (rm : RmCode) (d : SReg) (a : VReg) (s : State) :
    Host.Outcome State Fault Refusal :=
  vecReduce h fmt d a (fun xs => (ofInt 32 (xs.foldl max (xs.headD 0)), 0))
    (fun t => lane2 fmt (t.mode rm) false max (minMaxFlag true)) s

/-- VREDMIN (R285). -/
def execVredmin (h : Hdr) (fmt : Fmt) (rm : RmCode) (d : SReg) (a : VReg) (s : State) :
    Host.Outcome State Fault Refusal :=
  vecReduce h fmt d a (fun xs => (ofInt 32 (xs.foldl min (xs.headD 0)), 0))
    (fun t => lane2 fmt (t.mode rm) false min (minMaxFlag false)) s

/-- The exact sum of products and an addend, with the special cases of one fused operation (R286). -/
def dotNum (mode : RmCode) (ps : List (Num × Num)) (c : Num) : Num × Word :=
  let all := ps.map (·.1) ++ ps.map (·.2) ++ [c]
  if all.any Num.isNan then (.nan false, snanFlag all)
  else
    ps.foldl (fun (acc : Num × Word) p =>
      let m := mulNum p.1 p.2
      let r := addNum mode acc.1 m.1
      (r.1, acc.2 ||| m.2 ||| r.2)) (c, 0)

/-- The accumulator format of VDOT (R286). -/
def dotAcc : Fmt → Fmt
  | .z8 => .z32
  | .s8 | .s16 => .s32
  | _ => .fp32

/-- One 32-bit lane of VDOT from its group of source lanes. -/
def dotLane (fmt : Fmt) (mode : RmCode) (sat : Bool) (xs ys : List Nat) (c : Nat) : Coded :=
  if fmt.isInt then
    fixInt (dotAcc fmt) sat ((List.zipWith (fun x y => intVal fmt x * intVal fmt y) xs ys).foldl (· + ·)
      (intVal (dotAcc fmt) c))
  else
    rndWith .fp32 mode sat (dotNum mode ((xs.map (codeVal fmt)).zip (ys.map (codeVal fmt))) (codeVal .fp32 c))

/-- VDOT (R286). -/
def execVdot (h : Hdr) (fmt : Fmt) (rm : RmCode) (sat : Bool) (d a b c : VReg) (s : State) :
    Host.Outcome State Fault Refusal :=
  s.runT h fun t => do
    let x ← t.readV a (some fmt)
    let y ← t.readV b (some fmt)
    let z ← t.readV c (some (dotAcc fmt))
    t.freeV d
    let g := 32 / fmt.width
    let xs := vecLanes fmt x
    let ys := vecLanes fmt y
    let cs := (List.range 8).map fun j =>
      dotLane fmt (t.mode rm) sat ((xs.drop (g * j)).take g) ((ys.drop (g * j)).take g) (laneAt z 32 j)
    .ok (((((t.killV h.dmA a).killV h.dmB b).killV h.dmC c).putV d (vecOf (dotAcc fmt) (cs.map (·.1)))
      (dotAcc fmt)).flag (lanesFlags cs))

end Reductions

section Conversions

/-- VCVT (R287, R288). -/
def execVcvt (h : Hdr) (dst src : Fmt) (rm : RmCode) (sat : Bool) (part : Fin 8) (d a : VReg) (s : State) :
    Host.Outcome State Fault Refusal :=
  s.runT h fun t => do
    let x ← t.readV a (some src)
    t.freeV d
    let ns := src.lanes
    let nd := dst.lanes
    let k := min ns nd
    let p := part.val
    let conv (code : Nat) : Coded := convert dst src (t.mode rm) sat code
    let first := if ns ≤ nd then 0 else p * k
    let place := if ns ≤ nd then p * k else 0
    let cs := (List.range k).map fun i => conv (laneAt x src.width (first + i))
    let out := (List.range nd).map fun i => if place ≤ i then (cs.map (·.1)).getD (i - place) 0 else 0
    .ok (((t.killV h.dmA a).putV d (vecOf dst out) dst).flag (lanesFlags cs))

/-- The registers of a group (R268). -/
def groupRegs (r : VReg) (n : Nat) : List VReg := (List.range n).map fun i => Fin.ofNat 32 (r.val + i)

/-- Read a group, in ascending number (R193, R269). -/
def ThreadSet.readGroup (t : ThreadSet) (f : Fmt) : List VReg → Except Stop (List VWord)
  | [] => .ok []
  | r :: rs => do
    let v ← t.readV r (some f)
    let vs ← t.readGroup f rs
    .ok (v :: vs)

/-- The block in a quantised register: 32 lanes of 8 bits, or 16 bytes of 4-bit elements (R290, R292). -/
def blockLanes (qf : Fmt) (v : VWord) : List Nat := lanesOf v qf.width 32

def blockVec (qf : Fmt) (codes : List Nat) : VWord := ofLanes 256 qf.width codes

/-- VQUANT (R290). -/
def execVquant (h : Hdr) (qf : Fmt) (wf : WideFmt) (d a : VReg) (b : SReg) (s : State) :
    Host.Outcome State Fault Refusal :=
  s.runT h fun t => do
    let regs := groupRegs a wf.group
    let vs ← t.readGroup wf.fmt regs
    t.freeV d
    t.freeS b
    let q := quantBlock qf ((groupLanes vs wf.fmt.width).map (codeVal wf.fmt))
    let t := regs.foldl (fun t r => t.killV h.dmA r) t
    .ok (((t.putV d (blockVec qf q.2.1) qf).putS b (BitVec.ofNat 32 q.1)).flag q.2.2)

/-- VSCALE (R291). -/
def execVscale (h : Hdr) (qf : Fmt) (wf : WideFmt) (d a : VReg) (b : SReg) (s : State) :
    Host.Outcome State Fault Refusal :=
  s.runT h fun t => do
    let regs := groupRegs a wf.group
    let vs ← t.readGroup wf.fmt regs
    let c ← t.readS b
    t.freeV d
    let cs := (groupLanes vs wf.fmt.width).map fun x => quantAgainst qf (c.toNat % 256) (codeVal wf.fmt x)
    let t := (regs.foldl (fun t r => t.killV h.dmA r) t).killS h.dmB b
    .ok ((t.putV d (blockVec qf (cs.map (·.1))) qf).flag (lanesFlags cs))

/-- VDEQ (R292). -/
def execVdeq (h : Hdr) (qf : Fmt) (wf : WideFmt) (rm : RmCode) (sat : Bool) (d a : VReg) (b : SReg) (s : State) :
    Host.Outcome State Fault Refusal :=
  s.runT h fun t => do
    let x ← t.readV a (some qf)
    let c ← t.readS b
    let n := 256 / wf.fmt.width
    let regs := groupRegs d wf.group
    regs.forM fun r => t.freeV r
    let cs := (blockLanes qf x).map fun q => rnd wf.fmt (t.mode rm) sat (scaled qf q (c.toNat % 256))
    let t := (t.killV h.dmA a).killS h.dmB b
    let t := regs.zipIdx.foldl (fun (t : ThreadSet) e =>
      t.putV e.1 (vecOf wf.fmt (((cs.map (·.1)).drop (n * e.2)).take n)) wf.fmt) t
    .ok (t.flag (lanesFlags cs))

end Conversions

section Tags

/-- VTAG (R293). -/
def execVtag (h : Hdr) (tag : Fmt) (d a : VReg) (s : State) : Host.Outcome State Fault Refusal :=
  s.runT h fun t => do
    let x ← t.readV a none
    t.freeV d
    .ok ((t.killV h.dmA a).putV d x tag)

/-- The tag code that VTAGQ gives (R294). -/
def State.tagOf (s : State) : TagSrc → Except Stop Nat
  | .vec a =>
    let t := s.ts s.who
    if t.awaitsV a then .error (.wait 2)
    else if t.vDead[a] then
      if t.deadZero then .ok 0 else .error (.trap .deadread (BitVec.ofNat 32 (64 + a.val)))
    else .ok t.vTag[a].code
  | .tile a => do
    let k := s.core s.who.core
    k.tileFree a
    .ok k.shared.tiles[a].tag.code
  | .acc a => do
    let k := s.core s.who.core
    k.accFree a
    .ok k.shared.accs[a].tag.code

/-- VTAGQ (R294). -/
def execVtagq (h : Hdr) (d : SReg) (src : TagSrc) (s : State) : Host.Outcome State Fault Refusal :=
  s.run h fun s => do
    let c ← s.tagOf src
    (s.ts s.who).freeS d
    .ok (s.modTs s.who fun t => t.putS d (BitVec.ofNat 32 c), .seq)

end Tags

end Sys2Proof.Machine
end

