-- ==== Sys2Proof/Machine/Flinum.lean ====
section
/-! DEFINITION. Flinum variable-length arithmetic: the value and its record, rounding to PREC and exact mode, the window
with spill and refill, and the Flinum instructions (R96 to R112, R249, R250, R296 to R308). -/
namespace Sys2Proof.Machine

section Value

/-- The exponent bias of a Flinum, and its greatest unbiased exponent (R96). -/
def flBias : Nat := 0x800000
def flMaxExp : Int := 8388607

/-- The exact value of a Flinum (R96). -/
def flNum (v : Flinum) : Num :=
  match v.cls with
  | .zero => .fin v.neg 0 0
  | .inf => .inf v.neg
  | .qnan => .nan false
  | .snan => .nan true
  | .normal => .fin v.neg v.sig ((v.exp.toNat : Int) - flBias - (32 * v.limbs - 1))

def FClass.code : FClass → Nat
  | .zero => 0 | .normal => 1 | .inf => 2 | .qnan => 3 | .snan => 4

def FClass.ofCode : Nat → Option FClass
  | 0 => some .zero | 1 => some .normal | 2 => some .inf | 3 => some .qnan | 4 => some .snan | _ => none

/-- A value that is not normal, at a length (R97). -/
def flSpecial (neg : Bool) (c : FClass) (limbs : Nat) : Flinum := { neg := neg, cls := c, exp := 0, limbs := limbs, sig := 0 }

/-- The limbs of a precision (R97). -/
def flLimbs (p : Nat) : Nat := (p + 31) / 32

/-- A normal value at precision p from a significand whose leading 1 has exponent e: at most p bits, or 2^p where a
rounding has carried out of the leading bit (R99). -/
def flNormal (neg : Bool) (p n : Nat) (e : Int) : Flinum :=
  { neg := neg, cls := .normal, exp := BitVec.ofInt 24 (e + flBias), limbs := flLimbs p
    sig := n * 2 ^ (32 * flLimbs p) / 2 ^ bitLen n }

/-- Trailing zeros of a number that has a bit set, looked for in n bits. -/
def trailing (m : Nat) : Nat → Nat
  | 0 => 0
  | n + 1 => if m % 2 = 1 then 0 else trailing (m / 2) n + 1

/-- Bits from the leading 1 to the lowest set bit (R102, R307). -/
def sigBits (m : Nat) : Nat := if m = 0 then 0 else bitLen m - trailing m (bitLen m)

/-- The exponent of the leading 1 of m x 2^e. -/
def leadExp (m : Nat) (e : Int) : Int := e + bitLen m - 1

/-- What an operation gives before rounding: the value, the flags of its operands, whether the value is exact as it
stands, and whether an operand was infinite. -/
structure Exact where
  x : Num
  flags : Word
  exact : Bool := true
  inf : Bool := false
  deriving DecidableEq, Repr

/-- The overflow row of R86: does the magnitude become infinite? -/
def overInf (mode : RmCode) (neg : Bool) : Bool :=
  match mode with
  | .rtz | .rto => false
  | .rdn => neg
  | .rup => !neg
  | _ => true

/-- The largest p-bit value (R99). -/
def flMax (neg : Bool) (p : Nat) : Flinum := flNormal neg p (2 ^ p - 1) flMaxExp

/-- A magnitude below the smallest normal value: is the smallest normal taken (R99)? -/
def tinyUp (mode : RmCode) (neg : Bool) (m : Nat) (e : Int) : Bool :=
  let l := leadExp m e
  match mode with
  | .rtz => false
  | .rto => true
  | .rdn => neg
  | .rup => !neg
  | .rmm => decide (-8388608 ≤ l)
  | _ => decide (-8388608 ≤ l) && !(decide (l = -8388608) && m == 2 ^ (bitLen m - 1))

/-- round(x, p, mode) with the range of R99 for a finite nonzero value: the result, the flags, and whether the
value lies outside the exponent range. -/
def flRound (p : Nat) (mode : RmCode) (sat neg : Bool) (m : Nat) (e : Int) : Flinum × Word × Bool :=
  if leadExp m e < -flMaxExp then
    (if tinyUp mode neg m e then flNormal neg p 1 (-flMaxExp) else flSpecial neg .zero (flLimbs p), fUFL ||| fINX, true)
  else
    let q := e + bitLen m - p
    let r := roundQuantum mode neg m e q
    let l := leadExp r.1 q
    if flMaxExp < l then
      let out := decide (flMaxExp < leadExp m e)
      if overInf mode neg then
        if sat then (flMax neg p, fOFL ||| fINX ||| fSAT, out)
        else (flSpecial neg .inf (flLimbs p), fOFL ||| fINX, out)
      else (flMax neg p, fOFL ||| fINX, out)
    else (flNormal neg p r.1 l, inexact r.2, false)

/-- A result written to f[D] (R297): its value and flags, or PXH. -/
def flFinish (p : Nat) (mode : RmCode) (exactMode sat : Bool) (r : Exact) : Except Stop (Flinum × Word) :=
  match r.x with
  | .nan _ | .nav => .ok (flSpecial false .qnan (flLimbs p), r.flags)
  | .inf neg =>
    if sat && r.inf then .ok (flMax neg p, r.flags ||| fSAT) else .ok (flSpecial neg .inf (flLimbs p), r.flags)
  | .fin neg m e =>
    if m = 0 then .ok (flSpecial neg .zero (flLimbs p), r.flags)
    else
      let y := flRound p mode sat neg m e
      if exactMode && (y.2.1 &&& fINX != 0) then
        .error (.pxh (if r.exact && !y.2.2 then BitVec.ofNat 32 (sigBits m) else 0))
      else .ok (y.1, r.flags ||| y.2.1)

end Value

section Records

/-- The bytes of a record (R108). -/
def flRecord (v : Flinum) : List Byte :=
  let head := v.exp.toNat + (v.limbs - 1) % 16 * 2 ^ 24 + v.cls.code * 2 ^ 28 + (if v.neg then 2 ^ 31 else 0)
  leBytes 4 head ++ (List.range v.limbs).flatMap fun i => leBytes 4 (v.sig / 2 ^ (32 * (v.limbs - 1 - i)) % 2 ^ 32)

/-- The limbs that a header announces. -/
def headLimbs (bs : List Byte) : Nat := fieldAt bs 3 1 % 16 + 1

/-- A record read back, or the CLASS field of a malformed one (R109). A quiet NaN has sign 0 (R96). -/
def parseRecord (bs : List Byte) : Except Nat Flinum :=
  let head := fieldAt bs 0 4
  let l := headLimbs bs
  let neg := head.testBit 31
  let code := head / 2 ^ 28 % 8
  let ex := head % 2 ^ 24
  let sig := (List.range l).foldl (fun acc i => acc * 2 ^ 32 + fieldAt bs (4 + 4 * i) 4) 0
  match FClass.ofCode code with
  | none => .error code
  | some .normal =>
    if ex = 0 ∨ sig < 2 ^ (32 * l - 1) then .error code
    else .ok { neg := neg, cls := .normal, exp := BitVec.ofNat 24 ex, limbs := l, sig := sig }
  | some c => if ex ≠ 0 ∨ sig ≠ 0 then .error code else .ok (flSpecial (neg && c != .qnan) c l)

/-- FORMAT of a malformed record (R109). -/
def badRecord (r : FReg) (code : Nat) : Stop := .trap .format (formatVal 3 r.val code 0)

end Records

section Window

/-- The runs of the resident registers (R103). -/
def ThreadSet.runs (t : ThreadSet) : List (Nat × Nat) :=
  t.f.toList.filterMap fun x =>
    match x with
    | .resident b v => some (b, v.limbs)
    | _ => none

/-- The lowest run of n free limbs (R103, step 3). -/
def ThreadSet.firstFit (t : ThreadSet) (n : Nat) : Option Nat :=
  let rs := t.runs
  (List.range (Config.flinumLimbs + 1 - n)).find? fun i => rs.all fun r => decide (i + n ≤ r.1) || decide (r.1 + r.2 ≤ i)

/-- The slot of a register (R105). -/
def ThreadSet.slotOf (t : ThreadSet) (r : FReg) : Nat := t.fwspill.toNat + 68 * r.val

/-- Spill a resident register into its slot (R106), in the port cycles that its record takes (R46, R107). -/
def State.spill (s : State) (w : Who) (r : FReg) : Except Stop State :=
  let t := s.ts w
  match t.f[r] with
  | .resident _ v => do
    let bs := flRecord v
    let a := t.slotOf r
    s.access w [((a : Int), bs.length)]
    let bits := match v.cls with
      | .normal => sigBits v.sig
      | _ => 0
    .ok ((s.storeBytes w a bs).modTs w fun t =>
      { t with f := t.f.set r (.spilled v.limbs bits) }.delay 8 (bankCycles [((a : Int), bs.length)]))
  | _ => .ok s

/-- First-fit, then victims one at a time in ascending register number (R103, step 4). -/
def State.allocate (s : State) (w : Who) (skip : List FReg) (n : Nat) : List FReg → Except Stop (State × Nat)
  | [] => .ok (s, ((s.ts w).firstFit n).getD 0)
  | r :: rs =>
    match (s.ts w).firstFit n with
    | some i => .ok (s, i)
    | none =>
      if skip.contains r then s.allocate w skip n rs
      else do
        let s ← s.spill w r
        s.allocate w skip n rs

def allF : List FReg := (List.range 32).map (Fin.ofNat 32)

/-- Refill the spilled sources in order (R107). -/
def State.refill (s : State) (w : Who) (skip : List FReg) : List FReg → Except Stop State
  | [] => .ok s
  | r :: rs =>
    match (s.ts w).f[r] with
    | .spilled _ _ => do
      let a := (s.ts w).slotOf r
      s.access w [((a : Int), 4)]
      let hd ← s.loadBytes w a 4
      let n := 4 + 4 * headLimbs hd
      s.access w [((a : Int), n)]
      let bs ← s.loadBytes w a n
      match parseRecord bs with
      | .error code => .error (badRecord r code)
      | .ok v => do
        let q ← s.allocate w skip v.limbs allF
        (q.1.modTs w fun t =>
          { t with f := t.f.set r (.resident q.2 v) }.delay 8 (bankCycles [((a : Int), n)])).refill w skip rs
    | _ => s.refill w skip rs

/-- A dead Flinum source (R104, R180). -/
def ThreadSet.checkF (t : ThreadSet) (r : FReg) : Except Stop Unit :=
  match t.f[r] with
  | .dead => if t.deadZero then .ok () else .error (.trap .deadread (BitVec.ofNat 32 r.val))
  | _ => .ok ()

/-- The value of a source after its refill; a dead one reads as +0 (R104). -/
def ThreadSet.valF (t : ThreadSet) (r : FReg) : Flinum :=
  match t.f[r] with
  | .resident _ v => v
  | _ => flSpecial false .zero (flLimbs t.prec.toNat)

/-- Release the destination and the sources marked dead (R103, step 2). -/
def ThreadSet.release (t : ThreadSet) (d : Option FReg) (srcs : List (FReg × Bool)) : ThreadSet :=
  let t := match d with
    | some r => { t with f := t.f.set r .dead }
    | none => t
  srcs.foldl (fun (t : ThreadSet) e => if e.2 && d != some e.1 then { t with f := t.f.set e.1 .dead } else t) t

/-- Write f[D] (R103, steps 2 to 4). -/
def State.writeF (s : State) (w : Who) (d : FReg) (srcs : List (FReg × Bool)) (y : Flinum) : Except Stop State := do
  let s := s.modTs w fun t => t.release (some d) srcs
  let q ← s.allocate w (d :: srcs.map (·.1)) y.limbs allF
  .ok (q.1.modTs w fun t => { t with f := t.f.set d (.resident q.2 y) })

end Window

section Shapes

/-- An instruction with Flinum sources that writes f[D] (R297, R298): its other operands are checked with `extra` and
released with `kill`. -/
def flWrite (h : Hdr) (rm : RmCode) (x sat : Bool) (d : FReg) (srcs : List (FReg × Bool))
    (extra : ThreadSet → Except Stop Unit) (kill : ThreadSet → ThreadSet)
    (form : ThreadSet → RmCode → List Num → Exact) (s : State) : Host.Outcome State Fault Refusal :=
  s.run h fun s => do
    let t := s.ts s.who
    srcs.forM fun e => t.checkF e.1
    extra t
    let s ← s.refill s.who (d :: srcs.map (·.1)) (srcs.map (·.1))
    let t := s.ts s.who
    let r := form t (t.mode rm) (srcs.map fun e => flNum (t.valF e.1))
    let y ← flFinish t.prec.toNat (t.mode rm) x sat { r with inf := r.inf || srcs.any fun e => (flNum (t.valF e.1)).isInf }
    let s ← s.writeF s.who d srcs y.1
    .ok (s.modTs s.who fun t => (kill t).flag y.2, .seq)

/-- An instruction with Flinum sources and no Flinum destination (R103, steps 1 and 2). -/
def flRead (h : Hdr) (srcs : List (FReg × Bool)) (extra : ThreadSet → Except Stop Unit)
    (put : ThreadSet → List Flinum → Except Stop ThreadSet) (s : State) : Host.Outcome State Fault Refusal :=
  s.run h fun s => do
    let t := s.ts s.who
    srcs.forM fun e => t.checkF e.1
    extra t
    let s ← s.refill s.who (srcs.map (·.1)) (srcs.map (·.1))
    let t := s.ts s.who
    let t ← put t (srcs.map fun e => t.valF e.1)
    .ok (s.setTs s.who (t.release none srcs), .seq)

def noExtra (_ : ThreadSet) : Except Stop Unit := .ok ()

/-- Two Flinum operands. -/
def fl2 (h : Hdr) (rm : RmCode) (x sat : Bool) (d a b : FReg) (op : RmCode → Num → Num → Exact) (s : State) :
    Host.Outcome State Fault Refusal :=
  flWrite h rm x sat d [(a, h.dmA), (b, h.dmB)] noExtra id
    (fun _ mode vs => op mode (vs.getD 0 .nav) (vs.getD 1 .nav)) s

/-- One Flinum operand. -/
def fl1 (h : Hdr) (rm : RmCode) (x sat : Bool) (d a : FReg) (op : RmCode → Num → Exact) (s : State) :
    Host.Outcome State Fault Refusal :=
  flWrite h rm x sat d [(a, h.dmA)] noExtra id (fun _ mode vs => op mode (vs.getD 0 .nav)) s

def Exact.of (r : Num × Word) : Exact := { x := r.1, flags := r.2 }

/-- Bits at which a Flinum quotient or root is formed: beyond every length, so that a result that has a finite
significand is exact (R101). -/
def flWide : Nat := 1100

end Shapes

section Arithmetic

/-- FADD (R299). -/
def execFadd (h : Hdr) (rm : RmCode) (x sat : Bool) (d a b : FReg) (s : State) : Host.Outcome State Fault Refusal :=
  fl2 h rm x sat d a b (fun mode u v => Exact.of (addNum mode u v)) s

/-- FSUB (R299). -/
def execFsub (h : Hdr) (rm : RmCode) (x sat : Bool) (d a b : FReg) (s : State) : Host.Outcome State Fault Refusal :=
  fl2 h rm x sat d a b (fun mode u v => Exact.of (subNum mode u v)) s

/-- FMUL (R299). -/
def execFmul (h : Hdr) (rm : RmCode) (x sat : Bool) (d a b : FReg) (s : State) : Host.Outcome State Fault Refusal :=
  fl2 h rm x sat d a b (fun _ u v => Exact.of (mulNum u v)) s

/-- FFMA (R299). -/
def execFfma (h : Hdr) (rm : RmCode) (x sat : Bool) (d a b c : FReg) (s : State) : Host.Outcome State Fault Refusal :=
  flWrite h rm x sat d [(a, h.dmA), (b, h.dmB), (c, h.dmC)] noExtra id
    (fun _ mode vs => Exact.of (fmaNum mode (vs.getD 0 .nav) (vs.getD 1 .nav) (vs.getD 2 .nav))) s

/-- The quotient, and whether it is exact as it stands. -/
def flDiv (u v : Num) : Exact :=
  let r := divNum flWide u v
  match u, v with
  | .fin _ mu _, .fin _ mv _ =>
    { x := r.1, flags := r.2, exact := mv = 0 || mu * 2 ^ (flWide + 2 + bitLen mv - bitLen mu) % mv == 0 }
  | _, _ => Exact.of r

/-- FDIV (R299). -/
def execFdiv (h : Hdr) (rm : RmCode) (x sat : Bool) (d a b : FReg) (s : State) : Host.Outcome State Fault Refusal :=
  fl2 h rm x sat d a b (fun _ u v => flDiv u v) s

/-- The root, and whether it is exact: its square is the operand. -/
def flSqrt (u : Num) : Exact :=
  let r := sqrtNum flWide u
  match u, r.1 with
  | .fin false m e, .fin _ n q => { x := r.1, flags := r.2, exact := cmpMag (n * n) (2 * q) m e == .eq }
  | _, _ => Exact.of r

/-- FSQRT (R299, R300). -/
def execFsqrt (h : Hdr) (rm : RmCode) (x sat : Bool) (d a : FReg) (s : State) : Host.Outcome State Fault Refusal :=
  fl1 h rm x sat d a (fun _ u => flSqrt u) s

/-- FABS (R300). -/
def execFabs (h : Hdr) (rm : RmCode) (x sat : Bool) (d a : FReg) (s : State) : Host.Outcome State Fault Refusal :=
  fl1 h rm x sat d a (fun _ u => Exact.of (signOp Num.abs u)) s

/-- FNEG (R300). -/
def execFneg (h : Hdr) (rm : RmCode) (x sat : Bool) (d a : FReg) (s : State) : Host.Outcome State Fault Refusal :=
  fl1 h rm x sat d a (fun _ u => Exact.of (signOp Num.negate u)) s

/-- FMOV (R300). -/
def execFmov (h : Hdr) (rm : RmCode) (x sat : Bool) (d a : FReg) (s : State) : Host.Outcome State Fault Refusal :=
  fl1 h rm x sat d a (fun _ u => Exact.of (signOp id u)) s

/-- A value rounded to an integer, no flag raised (R300). -/
def roundToInt (mode : RmCode) : Num → Num
  | .fin neg m e => if 0 ≤ e then .fin neg m e else .fin neg (roundQuantum mode neg m e 0).1 0
  | x => x

/-- FROUND (R300). -/
def execFround (h : Hdr) (rm : RmCode) (x sat : Bool) (d a : FReg) (s : State) : Host.Outcome State Fault Refusal :=
  fl1 h rm x sat d a (fun mode u => Exact.of (signOp (roundToInt mode) u)) s

/-- A value with its exponent raised (R300). -/
def scaleNum (k : Int) : Num → Num
  | .fin neg m e => if m = 0 then .fin neg 0 0 else .fin neg m (e + k)
  | x => x

/-- FSCALB (R300). -/
def execFscalb (h : Hdr) (rm : RmCode) (x sat : Bool) (d a : FReg) (b : SReg) (s : State) :
    Host.Outcome State Fault Refusal :=
  flWrite h rm x sat d [(a, h.dmA)]
    (fun t => do
      let _ ← t.readS b
      .ok ())
    (fun t => t.killS h.dmB b)
    (fun t _ vs => Exact.of (signOp (scaleNum ((t.readS b).toOption.getD 0).toInt) (vs.getD 0 .nav))) s

/-- FCMP (R301). -/
def execFcmp (h : Hdr) (c : FCond) (d : PReg) (a b : FReg) (s : State) : Host.Outcome State Fault Refusal :=
  flRead h [(a, h.dmA), (b, h.dmB)] noExtra (fun t vs =>
    match vs with
    | [u, v] =>
      let r := fcondHolds c (flNum u) (flNum v)
      .ok ((t.putPred d r.1).flag r.2)
    | _ => .ok t) s

end Arithmetic

section Conversions

/-- FCVTD (R302). -/
def execFcvtd (h : Hdr) (rm : RmCode) (x sat : Bool) (d : FReg) (a : SPair) (s : State) :
    Host.Outcome State Fault Refusal :=
  flWrite h rm x sat d []
    (fun t => do
      let _ ← t.readP a
      .ok ())
    (fun t => t.killP h.dmA a)
    (fun t _ _ =>
      let v := codeVal .fp64 ((t.readP a).toOption.getD 0).toNat
      { x := v, flags := snanFlag [v], inf := v.isInf }) s

/-- The integer operand of FCVTS (R302). -/
def ThreadSet.readInt (t : ThreadSet) : IntReg → Except Stop Int
  | .w32 a => do
    let v ← t.readS a
    .ok v.toInt
  | .w64 a => do
    let v ← t.readP a
    .ok v.toInt

def ThreadSet.killInt (t : ThreadSet) (mark : Bool) : IntReg → ThreadSet
  | .w32 a => t.killS mark a
  | .w64 a => t.killP mark a

/-- FCVTS (R302). -/
def execFcvts (h : Hdr) (rm : RmCode) (x sat : Bool) (d : FReg) (a : IntReg) (s : State) :
    Host.Outcome State Fault Refusal :=
  flWrite h rm x sat d []
    (fun t => do
      let _ ← t.readInt a
      .ok ())
    (fun t => t.killInt h.dmA a)
    (fun t _ _ => { x := Num.ofIntAt ((t.readInt a).toOption.getD 0) 0, flags := 0 }) s

/-- FTOD (R302). -/
def execFtod (h : Hdr) (rm : RmCode) (x sat : Bool) (d : SPair) (a : FReg) (s : State) :
    Host.Outcome State Fault Refusal :=
  flRead h [(a, h.dmA)] (fun t => t.freeP d) (fun t vs =>
    let v := flNum (vs.headD (flSpecial false .zero 1))
    let r := rnd .fp64 (t.mode rm) sat v
    if x && (r.2 &&& fINX != 0) then .error (.pxh 0)
    else .ok ((t.putP d (BitVec.ofNat 64 r.1)).flag (r.2 ||| snanFlag [v]))) s

/-- FTOS (R302). -/
def execFtos (h : Hdr) (rm : RmCode) (x : Bool) (d : IntReg) (a : FReg) (s : State) :
    Host.Outcome State Fault Refusal :=
  flRead h [(a, h.dmA)]
    (fun t =>
      match d with
      | .w32 r => t.freeS r
      | .w64 r => t.freeP r)
    (fun t vs =>
      let v := flNum (vs.headD (flSpecial false .zero 1))
      let w := match d with
        | .w32 _ => 32
        | .w64 _ => 64
      let r := rndIntW true w (t.mode rm) v
      if x && (r.2 != 0) then .error (.pxh 0)
      else
        .ok ((match d with
          | .w32 q => t.putS q (BitVec.ofNat 32 r.1)
          | .w64 q => t.putP q (BitVec.ofNat 64 r.1)).flag r.2)) s

/-- FACCV: the exact sum of a Flinum and four FP64 lanes, rounded once (R302). -/
def execFaccv (h : Hdr) (rm : RmCode) (x sat : Bool) (d a : FReg) (b : VReg) (s : State) :
    Host.Outcome State Fault Refusal :=
  flWrite h rm x sat d [(a, h.dmA)]
    (fun t => do
      let _ ← t.readV b (some .fp64)
      .ok ())
    (fun t => t.killV h.dmB b)
    (fun t mode vs =>
      let lanes := (vecLanes .fp64 ((t.readV b (some .fp64)).toOption.getD 0)).map (codeVal .fp64)
      let all := vs ++ lanes
      let nan := all.any Num.isNan
      let r := (all.drop 1).foldl (fun (acc : Num × Word) v =>
        let q := addNum mode acc.1 v
        (q.1, acc.2 ||| q.2)) (all.headD .nav, 0)
      let both := all.contains (.inf false) && all.contains (.inf true)
      if nan then { x := .nan false, flags := snanFlag all ||| (if lanes.any Num.isNan || both then fINV else 0) }
      else { x := r.1, flags := r.2, inf := all.any Num.isInf }) s

end Conversions

section Constants

/-- A value written to PREC (R98). -/
def precOk (p : Nat) : Bool := decide (8 ≤ p) && decide (p ≤ 512)

/-- FPREC (R304). -/
def execFprec (h : Hdr) (p : PrecSrc) (s : State) : Host.Outcome State Fault Refusal :=
  s.runT h fun t =>
    match p with
    | .imm n => .ok { t with prec := BitVec.ofNat 32 n.val }
    | .reg a => do
      let v ← t.readS a
      if precOk v.toNat then .ok { t.killS h.dmA a with prec := v } else .error (.trap .illegal v)

/-- A line that FLDC reads (R184, R305). One before line 0 raises PROT as one beyond the end does (DESIGN CHOICE, log entry 72). -/
def litLine (c : Capsule) (n : Int) : Except Stop Line :=
  if n < 0 then .error (.trap .prot (BitVec.ofInt 32 (64 * n)))
  else
    match c.lines[n.toNat]? with
    | none => .error (.trap .prot (BitVec.ofInt 32 (64 * n)))
    | some l =>
      if !lineParityOk l then .error (.check .parity none (64 * n.toNat))
      else if lineKind l ≠ 1 ∨ (lineWord l).toNat / 2 ^ 5 % 32 ≠ 0 ∨ (lineWord l).toNat % 32 ≠ 0 then
        .error (.trap .lineform 1)
      else .ok l

/-- The 60 bytes of a literal line. -/
def litBytes (l : Line) : List Byte := leBytes 60 (l.toNat % 2 ^ 480)

/-- Bytes from a literal line on, continuing at byte 0 of the next (R305). -/
def litRead (c : Capsule) : Nat → Int → Nat → Except Stop (List Byte)
  | 0, _, _ => .ok []
  | fuel + 1, n, want =>
    if want = 0 then .ok []
    else do
      let l ← litLine c n
      let bs := litBytes l
      let rest ← litRead c fuel (n + 1) (want - 60)
      .ok (bs ++ rest)

/-- The record of a literal (R305). -/
def litRecord (c : Capsule) (n : Int) (off : Nat) : Except Stop (List Byte) := do
  let l ← litLine c n
  let need := 4 + 4 * headLimbs ((litBytes l).drop off)
  let bs ← litRead c 3 n (off + need)
  .ok ((bs.drop off).take need)

/-- Write a loaded record to f[D], rounded to PREC (R297): LDF gives every class as it is (R249, `keep`), so that a
signalling NaN stays one, positive as every NaN result; FLDC rounds under R297, which gives the quiet NaN and INV (R100,
R305). -/
def State.putRecord (s : State) (d : FReg) (rm : RmCode) (x sat keep : Bool) (v : Flinum) : Except Stop State := do
  let t := s.ts s.who
  let p := t.prec.toNat
  let y ←
    if keep && v.cls == .snan then .ok (flSpecial false .snan (flLimbs p), 0)
    else flFinish p (t.mode rm) x sat { x := flNum v, flags := snanFlag [flNum v], inf := v.cls == .inf }
  let s ← s.writeF s.who d [] y.1
  .ok (s.modTs s.who fun t => t.flag y.2)

/-- FLDC (R305). -/
def execFldc (h : Hdr) (rm : RmCode) (x sat : Bool) (d : FReg) (src : LdcSrc) (s : State) :
    Host.Outcome State Fault Refusal :=
  match src with
  | .imm v => flWrite h rm x sat d [] noExtra id (fun _ _ _ => { x := Num.ofIntAt v.toInt 0, flags := 0 }) s
  | .literal lines off =>
    s.run h fun s =>
      match s.capsuleOf s.who with
      | none => .error (.trap .prot 0)
      | some c => do
        let bs ← litRecord c ((((s.ts s.who).pc.toNat / 64 : Nat) : Int) + lines.toInt) off.val
        match parseRecord bs with
        | .error code => .error (badRecord d code)
        | .ok v => do
          let s ← s.putRecord d rm x sat false v
          .ok (s, .seq)

/-- FREL (R306). -/
def execFrel (h : Hdr) (d : FReg) (upto : Option FReg) (s : State) : Host.Outcome State Fault Refusal :=
  s.runT h fun t =>
    let last := match upto with
      | some a => a.val
      | none => d.val
    .ok { t with f := t.f.mapFinIdx fun i x _ => if d.val ≤ i ∧ i ≤ last then .dead else x }

/-- The word of FLEN (R307). -/
def flenWord : FSlot → Word
  | .dead => 0
  | .resident _ v =>
    BitVec.ofNat 32 (2 ^ 30 + v.limbs * 2 ^ 16 + (match v.cls with
      | .normal => sigBits v.sig
      | _ => 0))
  | .spilled l n => BitVec.ofNat 32 (2 * 2 ^ 30 + l * 2 ^ 16 + n)

/-- FLEN (R307). -/
def execFlen (h : Hdr) (d : SReg) (a : FReg) (s : State) : Host.Outcome State Fault Refusal :=
  s.runT h fun t => do
    t.freeS d
    .ok (t.putS d (flenWord t.f[a]))

/-- FEXP (R308). -/
def execFexp (h : Hdr) (d : SReg) (a : FReg) (s : State) : Host.Outcome State Fault Refusal :=
  flRead h [(a, h.dmA)] (fun t => t.freeS d) (fun t vs =>
    let v := vs.headD (flSpecial false .zero 1)
    .ok (t.putS d (match v.cls with
      | .normal => BitVec.ofInt 32 ((v.exp.toNat : Int) - flBias)
      | _ => 0x80000000))) s

end Constants

section Memory

/-- LDF (R249). -/
def execLdf (h : Hdr) (rm : RmCode) (x : Bool) (d : FReg) (a : SPair) (imm : Imm) (s : State) :
    Host.Outcome State Fault Refusal :=
  s.run h fun s => do
    let base ← (s.ts s.who).readP a
    let p := ea base imm 0
    aligned 4 [p]
    s.access s.who [(p, 4)]
    let hd ← s.loadBytes s.who p.toNat 4
    let n := 4 + 4 * headLimbs hd
    s.access s.who [(p, n)]
    let bs ← s.loadBytes s.who p.toNat n
    match parseRecord bs with
    | .error code => .error (badRecord d code)
    | .ok v => do
      let s ← s.putRecord d rm x false true v
      .ok (s.modTs s.who fun t => t.killP h.dmA a, .seq)

/-- STF (R250). -/
def execStf (h : Hdr) (b : FReg) (a : SPair) (imm : Imm) (s : State) : Host.Outcome State Fault Refusal :=
  s.run h fun s => do
    let base ← (s.ts s.who).readP a
    (s.ts s.who).checkF b
    let s ← s.refill s.who [b] [b]
    let bs := flRecord ((s.ts s.who).valF b)
    let p := ea base imm 0
    aligned 4 [p]
    s.access s.who [(p, bs.length)]
    let s := s.storeBytes s.who p.toNat bs
    .ok (s.modTs s.who fun t => (t.killP h.dmA a).release none [(b, h.dmB)], .seq)

end Memory

end Sys2Proof.Machine
end

