-- ==== Sys2Proof/Machine/Firmware.lean ====
section
/-! DEFINITION. Firmware requests and the host link: contexts, region nodes, queues, mappings, migration and eviction
(R411 to R413, R434 to R443, R453, R459, R462), the aperture and configuration space (R453 to R457), error injection
(R452), and what a debugger sees (R395, R396). -/
namespace Sys2Proof.Machine

section Contexts

/-- CREATE_CONTEXT (R434, R453, R462): a function holds at most 16 contexts; the lowest free local index goes to it. The root
of its page table is set, an empty table. -/
def execCreateContext (ctx fn counters : Nat) (injection : Bool) (s : State) : Host.Outcome State Fault Refusal :=
  if !s.serving then .next s
  else
    let held := (s.contexts.filter fun e => e.2.fn == fn).map fun e => e.2.local_
    match (List.range 16).find? fun i => !held.contains i with
    | some i =>
      if 0xFFFF ≤ ctx ∨ 32 ≤ fn ∨ (s.ctx ctx).isSome then .next (s.answer (fn % 32) fun n => .status n 1)
      else
        let root := Config.tableRoot fn i
        let c : Context :=
          { fn := fn, local_ := i, counters := counters, injection := injection, root := root, tables := [((4, 0), root)] }
        .next ({ s with contexts := s.contexts.put ctx c }.answer fn fun n => .handle n 0 i)
    | none => .next (s.answer (fn % 32) fun n => .status n 1)

/-- A node of the region tree as its 64 bytes give it (R411). -/
def regionOf (handle : Nat) (b : List Byte) : Region :=
  let f := fieldAt b
  { handle := handle, kind := f 0 1, ovr := BitVec.ofNat 8 (f 1 1), prio := f 2 1 % 16, blmin := f 3 1 / 16 % 4
    noplate := f 3 1 / 8 % 2 == 1, lock := f 3 1 / 4 % 2 == 1, fdom := f 3 1 % 4, parent := f 4 4, cores := f 8 4
    slots := f 12 4, limit := f 16 8, rect := BitVec.ofNat 32 (f 24 4), ctx := f 28 4, qtab := f 32 8 }

/-- The rectangle of a partition (R411). -/
def Region.area (r : Region) : Rect :=
  let v := r.rect.toNat
  { ox := v % 256, oy := v / 256 % 256, w := v / 65536 % 256, h := v / 2 ^ 24 }

/-- A node's own fields are in their limits, reserved bits zero (R9, R411). -/
def regionForm (b : List Byte) (r : Region) : Bool :=
  let sets (i : Nat) : Bool := r.ovr.getLsbD i
  let a := r.area
  b.length == 64 && decide (r.kind ≤ 4) && decide (fieldAt b 2 1 ≤ 15) && decide (fieldAt b 3 1 ≤ 63) && zeroBytes b 40 64
    && (!sets 1 || decide (r.fdom ≤ 2)) && (!sets 3 || decide (1 ≤ r.blmin))
    && (!sets 5 || (decide (1 ≤ r.cores) && decide (r.cores ≤ 1024)))
    && (!sets 6 || (decide (1 ≤ r.slots) && decide (r.slots ≤ 4096)))
    && (if r.kind = 1 then decide (1 ≤ a.w) && decide (1 ≤ a.h) && decide (a.ox + a.w ≤ 32) && decide (a.oy + a.h ≤ 32)
        else r.rect == 0)
    && (if r.kind = 2 then decide (r.ctx < 0xFFFF) else r.ctx == 0 && r.qtab == 0)
    && (if r.kind = 0 then r.parent == 0 && r.ovr == 0xFF else true)

/-- A node stands in the tree as R412 asks: its parent's kind, partitions apart, one node for a context. -/
def State.regionPlaced (s : State) (r : Region) : Bool :=
  let others := s.regions.filter fun x => x.handle != r.handle
  (r.kind == 0 || (s.region r.parent).any fun p => p.kind + 1 == r.kind && p.handle != r.handle)
    && (r.kind != 1 || (others.filter fun x => x.kind == 1 && x.parent == r.parent).all fun x => !(x.area.meets r.area))
    && (r.kind != 2 || ((s.ctx r.ctx).isSome && !others.any fun x => x.kind == 2 && x.ctx == r.ctx))

/-- A tournament node stands under an effective LOCK of 1 (R474). -/
def State.lockedTournament (s : State) : Bool := s.regions.any fun r => r.kind == 4 && effLock (s.chainOf r.handle)

/-- The nodes above a gang: its tournament's node and those above it, or its queue group's (R412). -/
def State.gangChain (s : State) (g : Gang) : List Region :=
  match g.tour.bind fun i => s.regions.find? fun r => r.tour == some i with
  | some r => s.chainOf r.handle
  | none => s.chainOf ((s.queue g.ctx g.q).elim 0 (·.group))

/-- A gang has the plating and the fault domain that the region tree gives it (R412). A superstep that has run without plating cannot
be rolled back once plating is enabled, and cores once placed stay single or paired (DESIGN CHOICE, log entry 79: R412 does not say
when an edit reaches a gang). -/
def State.regionGang (s : State) (e : Nat × Gang) : State :=
  let cs := s.gangChain e.2
  let s := if e.2.noplate && !effNoplate cs then s.makeNonroll e.1 else s
  s.modGang e.1 fun g => { g with noplate := effNoplate cs, fdom := effFdom cs }

/-- An edit of the region tree reaches every gang. -/
def State.regionGangs (s : State) : State := s.gangs.foldl State.regionGang s

/-- REGION_EDIT (R411, R412): handle 0 creates a node; a node keeps its kind. One that puts a tournament node under lockstep
is refused with status 4 (R474). -/
def execRegionEdit (handle : Nat) (node : List Byte) (s : State) : Host.Outcome State Fault Refusal :=
  if !s.serving then .next s
  else
    let h := if handle = 0 then s.newHandle 0 else handle
    let r := { regionOf h node with tour := (s.region h).bind (·.tour) }
    let known := if handle = 0 then true else (s.region handle).any fun x => x.kind == r.kind
    if known && regionForm node r && s.regionPlaced r then
      let rest := s.regions.filter fun x => x.handle != h
      let t := { s with regions := rest ++ [r], nextId := if handle = 0 then s.nextId + 2 else s.nextId }
      if t.lockedTournament then .next (s.answer 0 fun n => .status n 4) else .next (t.regionGangs.answer 0 fun n => .handle n 0 h)
    else .next (s.answer 0 fun n => .status n 1)

/-- The queues of the device. -/
def State.queueCount (s : State) : Nat := s.contexts.foldl (fun n c => n + c.2.queues.length) 0

/-- A queue's group is one of its context (R412, R413). -/
def State.groupOf (s : State) (ctx group : Nat) : Bool :=
  (s.region group).any fun g => g.kind == 3 && (s.chainOf group).any fun r => r.kind == 2 && r.ctx == ctx

/-- A torn-down queue that the driver re-creates (R450). -/
def Queue.recreate (q : Queue) (ring log2n group : Nat) (prod : Bool) : Queue :=
  let i := q.tail % 2 ^ log2n
  { q with
    ring := ring, log2n := log2n, prod := prod, group := group, head := i, free := i, tail := i, state := .running
    slots := [], iters := [], skip := 0, checked := false, counted := false, waitTl := none, passes := 0, turn64 := 0
    resv := none }

/-- A range touches an image or a body, whose mapping firmware alone decides (R387). -/
def Context.sealedRange (c : Context) (a n : Nat) : Bool := (c.images ++ c.bodies).any fun r => meets a n r.1 r.2

/-- QUEUE_CREATE (R413, R450); no ring lies in an image or a body (R387). -/
def execQueueCreate (ctx q ring log2n : Nat) (prod : Bool) (group : Nat) (s : State) : Host.Outcome State Fault Refusal :=
  s.request ctx <|
    match s.ctx ctx with
    | none => .error 1
    | some c =>
      let form := decide (q < 64) && decide (6 ≤ log2n) && decide (log2n ≤ 16) && ring % 65536 == 0
        && decide (Config.gvaLow ≤ ring) && decide (ring + 64 * 2 ^ log2n ≤ Config.gvaHigh + 1) && s.groupOf ctx group
        && !c.sealedRange ring (64 * 2 ^ log2n)
      if !form then .error 1
      else
        match c.queues.find q with
        | some x =>
          if x.state = .torn then .ok (s.modQueue ctx q fun x => x.recreate ring log2n group prod) else .error 1
        | none =>
          if 1024 ≤ s.queueCount then .error 1
          else
            let x : Queue := { ring := ring, log2n := log2n, prod := prod, group := group }
            .ok (s.modCtx ctx fun c => { c with queues := c.queues.put q x })

/-- PEER_TABLE_SET (R459, R469). -/
def execPeerTableSet (ctx index addr port target : Nat) (own : Bool) (s : State) : Host.Outcome State Fault Refusal :=
  s.request ctx <|
    if (s.ctx ctx).isNone ∨ 2 ^ 32 ≤ index then .error 1
    else
      let p : Peer := { addr := addr, port := port, target := target, own := own }
      .ok (s.modCtx ctx fun c => { c with peers := c.peers.put index p })

/-- A buffer that can be registered for remote access (R459): whole 8-byte words, in the range it names. -/
def remoteOk : RemoteKind → Bool
  | .global gva size _ =>
    gva % 8 == 0 && size % 8 == 0 && decide (Config.gvaLow ≤ gva) && decide (gva + size ≤ Config.gvaHigh + 1)
  | .window x y base len =>
    decide (x < 32) && decide (y < 32) && base % 8 == 0 && len % 8 == 0 && decide (base + len ≤ Config.lsTop)
  | .ring gva slotSize slots =>
    gva % 8 == 0 && slotSize % 8 == 0 && slotSize != 0 && decide (Config.gvaLow ≤ gva)
      && decide (gva + slotSize * slots ≤ Config.gvaHigh + 1)

/-- REMOTE_BUFFER_REGISTER (R459): registering a key again frees the slots of its ring. -/
def execRemoteBufferRegister (ctx rkey : Nat) (k : RemoteKind) (s : State) : Host.Outcome State Fault Refusal :=
  s.request ctx <|
    if (s.ctx ctx).isNone ∨ 2 ^ 32 ≤ rkey ∨ ¬ remoteOk k then .error 1
    else .ok (s.modCtx ctx fun c => { c with
      remotes := (c.remotes.filter fun (r : Remote) => r.rkey != rkey) ++ [{ rkey := rkey, kind := k, used := 0 }] })

end Contexts

section Mapping

/-- Pages of a context, mapped or kept away: base and length. -/
def Context.pages (c : Context) : List (Nat × Nat) :=
  (c.pt.filter fun e => pteLeaf e.2 || e.1.1 == 0).map fun e => (e.1.2 * pageBytes e.1.1, pageBytes e.1.1)

/-- A page of a level fits a stack, at an address of its alignment, on frames that are not retired nor kept
for page tables (R434, R435, R447). -/
def State.framesOk (s : State) (level pa : Nat) : Bool :=
  let n := pageBytes level
  pa % n == 0 && paOk pa && paOk (pa + n - 1) && !(s.retired.any fun f => meets pa n (f * 65536) 65536)
    && !meets (pa % 2 ^ 36) n Config.tableStart (Config.stackBytes - Config.tableStart)

/-- RMASK as the driver names it: the home stack's bit is always set; zero for a plain page (R435). -/
def homeMask (kind rmask pa : Nat) : Nat := if kind = 0 then 0 else rmask % 256 ||| 2 ^ paStack pa

/-- A page can be mapped at an address (R434, R435). -/
def State.mapOk (s : State) (c : Context) (gva level pa kind rmask : Nat) : Bool :=
  let n := pageBytes level
  decide (level ≤ 2) && gva % n == 0 && decide (Config.gvaLow ≤ gva) && decide (gva + n ≤ Config.gvaHigh + 1)
    && s.framesOk level pa && decide (kind ≤ 2) && decide (rmask < 256) && (kind != 0 || rmask == 0)
    && !(c.pages.any fun p => meets gva n p.1 p.2) && !(s.ckGroups.any fun g => meets pa n g.area g.areaLen)

/-- MAP (R434, R435): replicas are made of the memory as it stands (R440); what engines have waited for goes on. -/
def execMap (ctx gva level pa kind rmask : Nat) (r w : Bool) (s : State) : Host.Outcome State Fault Refusal :=
  s.request ctx <|
    match s.ctx ctx with
    | none => .error 1
    | some c =>
      if !s.mapOk c gva level pa kind rmask then .error 1
      else
        let rights := (if r then 16 else 0) + (if w then 32 else 0)
        let p := pteWith (BitVec.ofNat 64 (pa + rights + 3)) kind (homeMask kind rmask pa)
        .ok ((s.loseLines pa (pageBytes level)).modCtx ctx fun c => (c.withTables level gva).setPte level gva p).settleDeferred

/-- UNMAP (R434): an image or a body is never unmapped by the driver (R387). -/
def execUnmap (ctx gva level : Nat) (s : State) : Host.Outcome State Fault Refusal :=
  s.request ctx <|
    match s.ctx ctx with
    | none => .error 1
    | some c =>
      let p := c.pte level gva
      if 2 < level ∨ gva % pageBytes level ≠ 0 ∨ p = 0 ∨ ¬ (pteLeaf p ∨ level = 0) ∨ c.sealedRange gva (pageBytes level) then .error 1
      else .ok (s.modCtx ctx fun c => { c.setPte level gva 0 with backing := c.backing.drop (gva / 65536) })

/-- SET_KIND (R434, R435, R439); what the replicas alone still hold is put right at home first (R440). -/
def execSetKind (ctx gva kind rmask : Nat) (s : State) : Host.Outcome State Fault Refusal :=
  s.request ctx <|
    match s.ctx ctx with
    | none => .error 1
    | some c =>
      match c.walk gva with
      | .leaf l p =>
        if 2 < kind ∨ 256 ≤ rmask ∨ (kind = 0 ∧ rmask ≠ 0) ∨ c.sealedRange gva 1 then .error 1
        else
          .ok ((s.copyPage ctx gva).modCtx ctx fun c => c.setPte l gva (pteWith p kind (homeMask kind rmask (pteAddr p))))
      | _ => .error 1

end Mapping

section Moving

/-- Block loads of a task that the load timeline has not reached pin their source (R441). -/
def ThreadSet.pins (t : ThreadSet) (lo n : Nat) : Bool := t.loads.any fun l => meets lo n l.gva l.n

/-- A copy touches a page; one that waits for that page's migration does not hold the migration up (R441, R442). -/
def CopyJob.pins (j : CopyJob) (lo n : Nat) : Bool :=
  ((j.sk == 0 && meets lo n j.saddr j.len) || j.writes.any fun r => meets lo n r.1 r.2)
    && !(j.late.any fun a => decide (lo ≤ a) && decide (a < lo + n))

/-- A page of a context is pinned (R441). A migration waits for entries that a barrier has still to complete, and the
drains wait for it (R442); an eviction waits for every entry. -/
def State.pinned (s : State) (ctx lo n : Nat) (evict : Bool) : Bool :=
  (s.copies.any fun j => j.ctx == ctx && j.pins lo n)
    || s.memory.any fun (m : Nat × Core) =>
        (m.2.commit.any fun e => e.ctx == ctx && !e.mask.isEmpty && meets lo n e.line 64 && (evict || !e.draining))
          || m.2.tasks.toList.zipIdx.any fun x =>
              x.1.state != .free && (s.gang x.1.gang).any (fun g => g.ctx == ctx)
                && (m.2.ts.toList.getD x.2 { }).pins lo n

/-- MIGRATE (R441, R442): MIG is set; the answer comes when the page has moved. -/
def execMigrate (ctx gva : Nat) (s : State) : Host.Outcome State Fault Refusal :=
  if !s.serving then .next s
  else
    match (s.ctx ctx).bind fun c => c.page gva with
    | none => .next (s.answer (s.fnOf ctx) fun n => .status n 1)
    | some (l, p, lo) =>
      if pteMig p then .next (s.answer (s.fnOf ctx) fun n => .status n 1)
      else
        .next ({ s with nextId := s.nextId + 1 }.modCtx ctx fun c =>
          { c.setPte l gva (p ||| 0x100#64) with migrates := c.migrates ++ [(s.nextId, lo)] })

/-- Bytes of memory move from one place to another, with the poison of their lines (R442, R446). -/
def State.moveBytes (s : State) (src dst n : Nat) : State :=
  let inSrc (a : Nat) : Bool := decide (src ≤ a) && decide (a < src + n)
  let inDst (a : Nat) : Bool := decide (dst ≤ a) && decide (a < dst + n)
  let moved := (s.hbm.filter fun (e : Nat × Byte) => inSrc e.1).map fun (e : Nat × Byte) => (dst + (e.1 - src), e.2)
  let bad := (s.hbmPoison.filter fun l => inSrc (64 * l)).map fun l => (l, (dst + (64 * l - src)) / 64)
  bad.foldl (fun (t : State) e =>
    let t := t.poisonLine e.2
    { t with hbmLost := if s.hbmLost.contains e.1 then listed t.hbmLost e.2 else t.hbmLost }) { s with
      hbm := moved.foldl (fun m e => m.write e.1 e.2) (s.hbm.filter fun (e : Nat × Byte) => !inDst e.1)
      hbmPoison := s.hbmPoison.filter fun l => !inDst (64 * l) }

/-- Copies that waited for the migration of a page pin it as any other from its end (R441). -/
def State.copiesBack (s : State) (ctx lo n : Nat) : State :=
  { s with copies := s.copies.map fun (j : CopyJob) =>
      if j.ctx = ctx then { j with late := j.late.filter fun a => !(decide (lo ≤ a) && decide (a < lo + n)) } else j }

/-- MIGRATION_SWITCH (R442, steps 2 to 5): an unpinned page is copied and its leaf rewritten; waiting writes go on. What replicas
still hold is put right first, since the home copy may move onto the last of them (R440). -/
def execMigrationSwitch (ctx gva pa : Nat) (s : State) : Host.Outcome State Fault Refusal :=
  match (s.ctx ctx).bind fun c => c.page gva with
  | none => .next s
  | some (l, p, lo) =>
    let n := pageBytes l
    if !pteMig p || s.pinned ctx lo n false || !s.frameOk l pa then .next s
    else
      let old := pteAddr p
      let mask := if pteKind p = 0 then 0 else (pteRmask p &&& (255 - 2 ^ paStack old)) ||| 2 ^ paStack pa
      let p' := pteWith (BitVec.ofNat 64 (pa + p.toNat % 64)) (pteKind p) mask
      let s := (s.repairPage ctx gva).moveBytes old pa n
      let req := ((s.ctx ctx).bind fun c => c.migrates.find? fun e => e.2 == lo).map (·.1)
      let s := s.modCtx ctx fun c =>
        { c.setPte l gva p' with migrates := c.migrates.filter fun (e : Nat × Nat) => e.2 != lo }
      let s := (s.copiesBack ctx lo n).settleDeferred
      match req with
      | some r => .next ({ s with answers := s.answers ++ [Answer.status r 0] }.raise (s.fnOf ctx) 0)
      | none => .next s

/-- A page leaves for the backing store, in pieces of 64 KiB, each with the rights it had (R443). -/
def Context.evict (c : Context) (l : Nat) (p : DWord) (lo : Nat) (read : Nat → Byte) : Context :=
  let c := if l = 0 then c else c.setPte l lo 0
  (List.range (pageBytes l / 65536)).foldl (fun c i =>
    let a := lo + 65536 * i
    { (c.withTables 0 a).setPte 0 a (BitVec.ofNat 64 (p.toNat % 64 / 16 * 16 + 2)) with
      backing := c.backing.put (a / 65536) ((List.range 65536).map fun j => read (pteAddr p + 65536 * i + j)) }) c

/-- A page that firmware may evict: an image or a body never goes (R443), nor a page that migrates or that holds poison. -/
def State.evictable (s : State) (c : Context) (l : Nat) (p : DWord) (lo : Nat) : Bool :=
  !(c.sealedRange lo (pageBytes l) || pteMig p || s.hbmPoison.any fun x => meets (pteAddr p) (pageBytes l) (64 * x) 64)

/-- PAGE_EVICTION (R441, R443): of the pages that are candidates the first that is not pinned goes; where every one is
pinned, the eviction waits. -/
def execPageEviction (ctx : Nat) (gvas : List Nat) (s : State) : Host.Outcome State Fault Refusal :=
  match s.ctx ctx with
  | none => .next s
  | some c =>
    let pages := (gvas.filterMap c.page).filter fun e => s.evictable c e.1 e.2.1 e.2.2
    match pages.find? fun e => !s.pinned ctx e.2.2 (pageBytes e.1) true with
    | some (l, p, lo) => .next (s.modCtx ctx fun c => c.evict l p lo s.hbm.read)
    | none =>
      if pages.isEmpty then .next s
      else .next { s with devCounters := { s.devCounters with evpinwait := sat64 s.devCounters.evpinwait } }

end Moving

section HostLink

/-- APERTURE_MAP (R453): windows of a function's BAR 2 do not overlap, and show its own contexts. -/
def execApertureMap (fn off ctx gva len : Nat) (s : State) : Host.Outcome State Fault Refusal :=
  if !s.serving then .next s
  else
    let ok := (s.ctx ctx).any (fun c => c.fn == fn) && len != 0 && decide (off + len ≤ 2 ^ 36)
      && decide (gva + len ≤ Config.gvaHigh + 1) && !(s.apertures.any fun a => a.fn == fn && meets off len a.off a.len)
    if ok then
      let a : Aperture := { fn := fn, off := off, ctx := ctx, gva := gva, len := len }
      .next ({ s with apertures := s.apertures ++ [a] }.answer fn fun n => .status n 0)
    else .next (s.answer (fn % 32) fun n => .status n 1)

/-- What a host access gets: it needs no mailbox, and raises nothing. -/
def State.reply (s : State) (f : Nat → Answer) : State :=
  { s with answers := s.answers ++ [f s.nextId], nextId := s.nextId + 1 }

/-- A page of a range is not there, or lacks the right (R438). -/
def Context.lacks (c : Context) (gva len : Nat) (wr : Bool) : Bool :=
  (pageStarts gva len).any fun a =>
    match c.walk a with
    | .leaf _ p => (wr && !pteW p) || (!wr && !pteR p)
    | _ => true

/-- An aperture access fails translation, or meets a sealed range (R387, R455). -/
def Context.apertureDenied (c : Context) (gva len : Nat) (wr : Bool) : Bool :=
  c.lacks gva len wr || c.bodies.any (fun r => meets gva len r.1 r.2)
    || (wr && c.images.any fun r => meets gva len r.1 r.2)

/-- The bytes that an aperture read returns, after the repair of R440; those of a poisoned line are a free value. -/
def State.apertureBytes (s : State) (ctx : Nat) (c : Context) (gva len : Nat) : List Byte :=
  (List.range len).map fun i =>
    if (c.linesOf (gva + i) 1).any (fun l => s.hbmPoison.contains l) then Config.poisonByte s.tick (gva + i)
    else (s.globalByte ctx (gva + i)).getD 0

/-- The window that covers an access (R453). -/
def State.apertureFor (s : State) (fn addr len : Nat) : Option Aperture :=
  s.apertures.find? fun a => a.fn == fn && decide (a.off ≤ addr) && decide (addr + len ≤ a.off + a.len)

/-- APERTURE_ACCESS (R455, R457): a write where data come with it. It waits for a drain of its bytes (R143), and a write
for a migration of its page (R442). -/
def execApertureAccess (fn addr len : Nat) (data : Option (List Byte)) (s : State) : Host.Outcome State Fault Refusal :=
  if s.devClass = .fatal then
    match data with
    | none => .next (s.reply fun n => .data n (List.replicate len 0xFF))
    | some _ => .next s
  else
    match s.apertureFor fn addr len with
    | none => .next (s.reply .unsupported)
    | some a =>
      match s.ctx a.ctx with
      | none => .next (s.reply .unsupported)
      | some c =>
        let gva := a.gva + (addr - a.off)
        let wr := data.isSome
        if len = 0 ∨ (data.any fun d => d.length != len) then .next (s.reply .unsupported)
        else if c.apertureDenied gva len wr then
          .next ((s.modCtx a.ctx fun c => { c with denied := c.denied ++ [(gva, wr)] }).reply .unsupported)
        else if s.undrained a.ctx gva len || (wr && s.rangeMigrating a.ctx gva len) then .next s
        else
          match data with
          | some d => .next (s.engineWrite a.ctx gva d)
          | none =>
            let s := s.repair a.ctx gva len
            .next (s.reply fun n => .data n (s.apertureBytes a.ctx c gva len))

/-- CLASS of the STATUS word (R482). -/
def DevClass.code : DevClass → Nat
  | .starting => 1
  | .ready => 2
  | .failed => 3
  | .fallback => 4
  | .fatal => 0xDEAD

/-- The mailbox STATUS word (R482). -/
def State.statusWord (s : State) : Nat := s.devClass.code * 65536 + s.devDetail % 65536

/-- The device counters in the order of their offsets (R476). -/
def DevCounters.list (c : DevCounters) : List Nat :=
  [c.l1retry, c.l2rollback, c.l3teardown, c.l4fatal, c.poisoncons, c.lockmiss, c.repldrop, c.ctlrepair, c.frameret, c.evpinwait,
   c.nonroll, c.ckfail]

/-- What the n-th sensor reads now (R488): what the agenda has set it to, else a free value (log entry 56). -/
def State.reading (s : State) (n : Nat) : Word := (s.sensed.find n).getD (Config.reading s.tick n)

/-- The bytes of a read of BAR 0 (R453, R457, R476, R482, R488): the STATUS word in every class, the counters and the sensors'
readings of function 0. -/
def State.bar0Bytes (s : State) (fn off len : Nat) : List Byte :=
  if fn = 0 ∧ off = 0xFF8 ∧ len = 4 then leBytes 4 s.statusWord
  else if s.devClass = .fatal then List.replicate len 0xFF
  else
    match if fn = 0 ∧ 0x2000 ≤ off ∧ off % 8 = 0 ∧ len = 8 then s.devCounters.list[(off - 0x2000) / 8]? else none with
    | some v => leBytes 8 v
    | none =>
      if fn = 0 ∧ 0x3000 ≤ off ∧ off % 4 = 0 ∧ len = 4 ∧ off < 0x3000 + 4 * Config.readings then
        leBytes 4 (s.reading ((off - 0x3000) / 4)).toNat
      else (List.range len).map fun i => Config.barByte fn (off + i)

/-- CONFIG_ACCESS (R453, R457): configuration space answers in every class. -/
def execConfigAccess (fn : Nat) (r : HostRead) (s : State) : Host.Outcome State Fault Refusal :=
  match r with
  | .config off => .next (s.reply fun n => .data n (leBytes 4 (Config.configWord fn off).toNat))
  | .bar0 off len => .next (s.reply fun n => .data n (s.bar0Bytes fn off len))

end HostLink

section Injection

/-- The record of an injection request is in its limits (R452). -/
def injectOk (b : List Byte) : Bool :=
  let f := fieldAt b
  let kind := f 0 1
  let tgt := f 2 1
  b.length == 32 && decide (1 ≤ kind) && decide (kind ≤ 6) && decide (1 ≤ f 1 1) && decide (f 1 1 ≤ 3) && decide (tgt ≤ 1)
    && f 3 1 == 0 && f 14 2 == 0 && f 24 8 == 0 && (kind == 1 || kind == 2 || kind == 4 || tgt == 0)
    && ((kind != 3 && kind != 6) || f 12 2 == 0)

/-- ERROR_INJECT (R452): the error arms in the next gang started from the record. -/
def execErrorInject (ctx : Nat) (record : List Byte) (s : State) : Host.Outcome State Fault Refusal :=
  s.request ctx <|
    match s.ctx ctx with
    | none => .error 1
    | some c =>
      let f := fieldAt record
      if !(c.injection && injectOk record && (c.launch (f 4 4)).isSome) then .error 1
      else
        let i : Inject :=
          { kind := f 0 1, left := f 1 1, step := BitVec.ofNat 32 (f 8 4), tgt := f 2 1, col := f 12 1, row := f 13 1
            addr := f 16 8 }
        .ok (s.modCtx ctx fun c => { c with injects := c.injects ++ [(f 4 4, i)] })

end Injection

section Debugging

/-- The thread set or task that a debugger names: on a memory core thread set t holds the task it runs (R396); of a
lockstep pair it names the leader. -/
def State.debugWho (s : State) (core : CoreId) (t : Nat) : Who :=
  let core := s.leaderOf core
  if core.isMemory then
    match (s.core core).running.toList.getD t none with
    | some slot => { core := core, t := Fin.ofNat 16 slot }
    | none => { core := core, t := Fin.ofNat 16 t }
  else { core := core, t := Fin.ofNat 16 t }

/-- A thread set is stopped, or a task's context is saved (R395). -/
def State.visible (s : State) (w : Who) : Bool :=
  match (s.ts w).run with
  | .stopped => true
  | .parked => true
  | _ => w.core.isMemory && ((s.core w.core).setOf w.t.val).isNone

/-- A Flinum register as a record, resident or spilled (R112): a spilled one lies in its slot. Where another writer has changed the
slot, the bytes that lie there are given, as many as the length that the register has kept asks for (DESIGN CHOICE, log entry 80:
R112 does not say what is given then). -/
def State.flinumBytes (s : State) (w : Who) (r : FReg) : List Byte :=
  let t := s.ts w
  match t.f[r] with
  | .dead => []
  | .resident _ v => flRecord v
  | .spilled l _ => (s.core w.core).store.readN (t.slotOf r) (4 * (1 + l))

/-- What a debugger reads of a thread set: live registers and the dead marks (R179), tags (R95), loop state. -/
def State.debugSet (s : State) (w : Who) : DebugItem → Option (List Byte)
  | .scalar _ _ r =>
    let t := s.ts w
    let i : SReg := Fin.ofNat 32 r
    some ((if t.sDead[i] then 1 else 0) :: leBytes 4 t.s[i].toNat)
  | .vector _ _ r =>
    let t := s.ts w
    let i : VReg := Fin.ofNat 32 r
    some ((if t.vDead[i] then 1 else 0) :: BitVec.ofNat 8 t.vTag[i].code :: leBytes 32 t.v[i].toNat)
  | .predicate _ _ r => some [if (s.ts w).pred (Fin.ofNat 8 r) then 1 else 0]
  | .flinum _ _ r => some (s.flinumBytes w (Fin.ofNat 32 r))
  | .loopLevel _ _ k =>
    let l := (s.ts w).level k
    some (leBytes 4 l.count.toNat ++ leBytes 4 l.first.toNat ++ leBytes 4 l.last.toNat)
  | .control _ _ reg => some (leBytes 8 ({ s with who := w }.readReg reg).toNat)
  | .position _ _ => some (leBytes 4 (s.ts w).pc.toNat)
  | _ => none

/-- The core of a debugger's item as it stands: of a lockstep pair, the leader, beside whose store the shadow keeps what its own
holds otherwise (R473). -/
def State.debugged (s : State) (c : CoreId) : Core := s.core (s.leaderOf c)

/-- The numbers that a debugger is given for the states of a window (R55; DESIGN CHOICE, log entry 80). -/
def WinState.code : WinState → Nat
  | .accepting => 0
  | .due => 1
  | .complete => 2
  | .closing => 3
  | .readable => 4

/-- The fields of a window-table entry (R51). -/
def Window.bytes (w : Window) : List Byte :=
  leBytes 8 w.base ++ leBytes 8 w.len ++ leBytes 4 w.arm.toNat ++ leBytes 8 w.count ++ leBytes 8 (w.expect.getD 0)
    ++ leBytes 1 (if w.log then 1 else 0) ++ leBytes 1 w.state.code

/-- What a debugger reads of a core, whether or not its sets are stopped (R395); an image that no request may name yet is not
there (R386). -/
def State.debugCore (s : State) : DebugItem → Option (List Byte)
  | .tileRow c r row =>
    some (leBytes 64 (((s.debugged c).shared.tiles.toList.getD r { }).bits.toNat / 2 ^ (512 * row) % 2 ^ 512))
  | .tileTag c r => some [BitVec.ofNat 8 ((s.debugged c).shared.tiles.toList.getD r { }).tag.code]
  | .accRow c r row =>
    some (leBytes 64 (((s.debugged c).shared.accs.toList.getD r { }).bits.toNat / 2 ^ (512 * row) % 2 ^ 512))
  | .accTag c r => some [BitVec.ofNat 8 ((s.debugged c).shared.accs.toList.getD r { }).tag.code]
  | .storeByte c a =>
    let k := s.debugged c
    some (if s.leaderOf c = c then [k.store.read a] else k.twinBytes a 1)
  | .plateByte c a =>
    let k := s.debugged c
    let own := if s.leaderOf c = c then none else k.twin.bind fun (t : Twin) => t.shadow.find a
    (k.plate.find? fun e => e.1 % 4096 == a / 256).map fun e =>
      [own.getD (BitVec.ofNat 8 (e.2.toNat / 2 ^ (8 * (a % 256)) % 256))]
  | .window c i => ((s.debugged c).shared.windows[i]?).map Window.bytes
  | .subscription c i => ((s.debugged c).shared.subs[i]?).map fun u =>
    leBytes 2 u.tag ++ leBytes 1 u.stack ++ leBytes 1 u.chan ++ leBytes 4 u.base
  | .chronEntry c i => ((s.debugged c).shared.chron.ring.find i).map fun e => leBytes 16 e.toNat
  | .chronState c =>
    let r := (s.debugged c).shared.chron
    some (leBytes 4 r.head ++ leBytes 4 r.lost)
  | .imageByte ctx h off =>
    ((s.capsule ctx h).filter fun k => !k.withheld).bind fun k => (k.image[off]?).map fun b => [b]
  | .counter c t ev =>
    let v := ((s.debugged c).counters.toList.getD t (Vector.replicate 16 0)).toList.getD ev 0
    some (leBytes 8 v)
  | _ => none

/-- The thread set whose registers an item names. -/
def itemSet : DebugItem → Option (CoreId × Nat)
  | .scalar c t _ | .vector c t _ | .predicate c t _ | .flinum c t _ | .loopLevel c t _ | .control c t _ | .position c t =>
    some (c, t)
  | _ => none

/-- DEBUG_READ (R395): a thread set's registers only where it is stopped or saved; no request reaches a body. -/
def execDebugRead (item : DebugItem) (s : State) : Host.Outcome State Fault Refusal :=
  if !s.serving then .next s
  else
    let r := match itemSet item with
      | some (c, t) => if s.visible (s.debugWho c t) then s.debugSet (s.debugWho c t) item else none
      | none => s.debugCore item
    match r with
    | some bs => .next (s.answer 0 fun n => .data n bs)
    | none => .next (s.answer 0 fun n => .status n 1)

/-- DEBUG_RESUME (R396): a stopped thread set goes on, at the BRK that stopped it. -/
def execDebugResume (core : CoreId) (t : Nat) (s : State) : Host.Outcome State Fault Refusal :=
  let w := s.debugWho core t
  if (s.ts w).run = .stopped then .next ({ s with who := w }.retire .seq) else .next s

end Debugging

end Sys2Proof.Machine
end

