-- ==== Sys2Proof/Machine/Matrix.lean ====
section
/-! DEFINITION. The joint matrix array: MGANG, the join and what a joint operation computes (R113 to R133), and the
instructions on descriptors, scales, metadata, accumulators and the tile ports (R312 to R318). -/
namespace Sys2Proof.Machine

section Descriptor

/-- A field of a descriptor (R122). -/
def descField (d : BitVec 256) (lo w : Nat) : Nat := d.toNat / 2 ^ lo % 2 ^ w

/-- Each field of a descriptor with its lowest bit, its width and its limits (R122); a reserved field is 0. -/
def descLimits : List (Nat × Nat × Nat × Nat) :=
  [(0, 21, 0, 0x17FFFF), (25, 7, 0, 0), (32, 12, 1, 4095), (44, 12, 1, 4095), (56, 8, 0, 0), (64, 16, 1, 65535),
   (80, 4, 1, 15), (84, 4, 1, 15), (88, 4, 1, 15), (92, 4, 1, 15), (96, 4, 1, 15), (100, 4, 1, 15), (104, 4, 0, 15),
   (108, 4, 0, 15), (112, 16, 0, 0), (128, 12, 1, 4095), (140, 12, 1, 4095), (152, 8, 0, 0), (160, 22, 0, 4194303),
   (182, 10, 0, 0), (192, 22, 0, 4194303), (214, 10, 0, 0), (224, 22, 0, 4194303), (246, 10, 0, 0)]

/-- The formats a joint operation takes (R118). -/
def jointFmts : List Fmt := [.fp64, .fp16, .bf16, .t8, .t6, .s8, .s4]

/-- The format that a descriptor names. -/
def descFmt (d : BitVec 256) : Option Fmt := jointFmts.find? fun f => f.code == descField d 21 4

/-- The first 32-bit word of a record at fault (R122). -/
def descBad (d : BitVec 256) : Option Nat :=
  (List.range 8).find? fun i =>
    (descLimits.any fun f =>
      f.1 / 32 == i && (decide (descField d f.1 f.2.1 < f.2.2.1) || decide (f.2.2.2 < descField d f.1 f.2.1)))
      || (i == 0 && (descFmt d).isNone)

/-- The element that A[m][k] reads, counted from BASE; `none` is +0 (R123). -/
def unfold (d : BitVec 256) (row0 k0 m k : Nat) : Option Nat :=
  let f := descField d
  let q := row0 + m
  let kk := k0 + k
  if f 128 12 * f 140 12 ≤ q ∨ f 80 4 * f 84 4 * f 64 16 ≤ kk then none
  else
    let oy := q / f 140 12
    let ox := q % f 140 12
    let c := kk % f 64 16
    let u := kk / f 64 16
    let kx := u % f 84 4
    let ky := u / f 84 4
    let iy : Int := (oy * f 88 4 + ky * f 96 4 : Nat) - (f 104 4 : Nat)
    let ix : Int := (ox * f 92 4 + kx * f 100 4 : Nat) - (f 108 4 : Nat)
    if iy < 0 ∨ (f 32 12 : Nat) ≤ iy ∨ ix < 0 ∨ (f 44 12 : Nat) ≤ ix then none
    else some (iy.toNat * f 160 22 + ix.toNat * f 192 22 + c * f 224 22)

/-- Bits of an element of A in memory (R75, R81). -/
def feedBits (f : Fmt) : Nat := if f = .t6 then 6 else f.width

/-- First byte and count of the bytes that an element lies in. -/
def feedSpan (f : Fmt) (base e : Nat) : Nat × Nat :=
  let lo := e * feedBits f
  (base + lo / 8, (lo + feedBits f - 1) / 8 - lo / 8 + 1)

/-- The elements of an operation's A in order, row by row. -/
def JointOp.elements (j : JointOp) : List (Option Nat) :=
  let n := (j.shape.ks.val + 1) * kStep j.shape.fmt j.shape.sp
  (List.range 16).flatMap fun m => (List.range n).map fun k => unfold j.desc j.row0 j.k0 m k

/-- The format in which A is read: the descriptor's FMT (R123); the join compares it with the MGANG's (R115). -/
def JointOp.feedFmt (j : JointOp) : Fmt := (descFmt j.desc).getD j.shape.fmt

/-- The bytes of each element of A. -/
def JointOp.spans (j : JointOp) : List (Option (Nat × Nat)) :=
  j.elements.map fun e => e.map (feedSpan j.feedFmt (descField j.desc 0 21))

/-- The code of an element from a store. -/
def feedCode (m : Mem) (f : Fmt) (base e : Nat) : Nat :=
  let p := feedSpan f base e
  leNat (m.readN p.1 p.2) / 2 ^ (e * feedBits f % 8) % 2 ^ feedBits f

/-- A as a store gives it. -/
def JointOp.readA (j : JointOp) (m : Mem) : List Nat :=
  j.elements.map fun e =>
    match e with
    | none => 0
    | some e => feedCode m j.feedFmt (descField j.desc 0 21) e

/-- The byte range from the lowest to the highest byte of A that is read from memory (R124). -/
def JointOp.footprint (j : JointOp) : Option (Nat × Nat) :=
  j.spans.foldl (fun acc e =>
    match e, acc with
    | none, a => a
    | some (p, n), none => some (p, p + n - 1)
    | some (p, n), some (lo, hi) => some (min lo p, max hi (p + n - 1))) none

/-- The footprint check of R124: the lowest offending address. -/
def State.footprintCheck (s : State) (w : Who) (j : JointOp) : Except Stop Unit :=
  match j.footprint with
  | none => .ok ()
  | some (lo, hi) =>
    let t := s.ts w
    let plated := (s.gangOf w).elim true fun g => !g.noplate
    let top : Int := if plated then Config.plateBase else storeTop w.core
    let bad := minOpt (outside 0 top lo hi)
      (minOpt (outside t.pwbase.toNat t.pwlim.toNat lo hi) (inWindow (s.core w.core).shared.windows lo hi))
    match bad with
    | some a => .error (protAt a)
    | none => .ok ()

end Descriptor

section Issue

/-- The accumulator tag of an operation (R118). -/
def accTag (f : Fmt) : Fmt := if f = .fp64 then .fp64 else .fp32

/-- The feed core's package column of a segment of n cores (R113, R313); in lockstep each core is a pair (R474). -/
def Gang.segFirst (g : Gang) (x n : Nat) : Nat := x - x % 16 % (g.stride * n)

/-- A core of a segment lies outside the gang or the rival. -/
def Gang.segOutside (g : Gang) (first n y : Nat) : Bool := !(List.range n).all fun i => g.holds (first + g.stride * i) y

/-- MGANG (R312, R313). Its entry stays in the joint queue until its operation has finished or has been dropped or
cancelled, joined and running or not (DESIGN CHOICE, log entry 61: R114 says only that an entry frees). -/
def execMgang (h : Hdr) (shape : GangShape) (d : CReg) (a : MReg) (b c : SReg) (s : State) :
    Host.Outcome State Fault Refusal :=
  s.run h fun s => do
    let w := s.who
    let t := s.ts w
    let k := s.core w.core
    let _ ← k.readTile a (some shape.fmt)
    let r ← t.readS b
    let k0 ← t.readS c
    let _ ← k.readAcc d (some (accTag shape.fmt))
    if t.inh then .error (.trap .illegal 5)
    else
      match w.core, s.gangOf w with
      | .compute x y, some g =>
        let n := 2 ^ shape.nlog.val
        let first := g.segFirst x n
        if g.lock ∧ n = 16 then .error (.trap .illegal 8)
        else if g.segOutside first n y then
          .error (.trap .prot (BitVec.ofInt 32 ((k.gpos.toNat % 256 : Nat) - ((x - first) / g.stride : Nat) : Int)))
        else if k0.toNat % kStep shape.fmt shape.sp ≠ 0 then .error (.trap .illegal 3)
        else if shape.scl ∧ k0.toNat % 32 ≠ 0 then .error (.trap .illegal 4)
        else
          let j : JointOp :=
            { number := k.shared.matrixCount + 1, ts := w.t.val, xpc := t.pc, shape := shape, acc := d, tile := a
              first := first, row0 := r.toNat, k0 := k0.toNat, desc := k.shared.desc, aScale := k.shared.aScale
              bScale := k.shared.bScale, smeta := k.shared.smeta, step := k.sstep, joined := false, feed := none
              fed := false }
          if first = x then
            if (descBad j.desc).isSome then .error (.trap .prot 0) else s.footprintCheck w j
          else .ok ()
          if Config.jointEntries ≤ k.shared.joint.length then .error (.wait 7)
          else
            let j := if first = x then { j with feed := some (j.readA k.store) } else j
            let s := s.modShared w.core fun q => { q with joint := q.joint ++ [j], matrixCount := q.matrixCount + 1 }
            .ok (s.modTs w fun t => (t.killS h.dmB b).killS h.dmC c, .seq)
      | _, _ => .error (.trap .prot 0)

end Issue

section Joining

/-- The cores of a segment. -/
def segCores (stride x y n : Nat) : List CoreId := (List.range n).map fun i => .compute (x + stride * i) y

/-- The stride of the gang that a core works for. -/
def State.strideAt (s : State) (c : CoreId) : Nat := ((s.core c).gang.bind s.gang).elim 1 Gang.stride

/-- The head of a joint queue: its first entry that has not joined (R115). -/
def Shared.jointHead (k : Shared) : Option JointOp := k.joint.find? fun j => !j.joined

/-- The head of a core names the segment (R115). -/
def State.headFor (s : State) (c : CoreId) (x nlog : Nat) : Option JointOp :=
  (s.core c).shared.jointHead.bind fun j => if j.first == x && j.shape.nlog.val == nlog then some j else none

/-- The heads of a segment that can join: every core has one, and all of one superstep (R115, R116). -/
def joinable (heads : List (CoreId × Option JointOp)) (step : Word) : Bool :=
  heads.all fun e => e.2.any fun j => j.step == step

/-- The joined heads agree, and the feed core's descriptor names their format (R115). -/
def headsAgree (feed : JointOp) (js : List JointOp) : Bool :=
  descFmt feed.desc == some feed.shape.fmt && js.all fun j =>
    j.shape.fmt == feed.shape.fmt && j.shape.ks == feed.shape.ks && j.shape.col == feed.shape.col
      && j.shape.sp == feed.shape.sp && j.shape.scl == feed.shape.scl

/-- A gang's units work on: nothing waits for the ladder. -/
def State.gangLive (s : State) (g : Nat) : Bool := (s.gang g).elim false fun x => x.err.isNone && x.rival != .faulted

/-- A joint operation of a core is dropped: its MGANG raises ILLEGAL with a reason (R115, R116). -/
def State.dropJoint (s : State) (c : CoreId) (j : JointOp) (reason : Word) : State :=
  (s.modShared c fun q => q.finishJoint j.number).asyncTrap { core := c, t := Fin.ofNat 16 j.ts }
    { cause := .illegal, xpc := j.xpc, xval := reason }

/-- JOINT_JOIN: the heads of a segment join over the row barrier (R115). -/
def execJointJoin (x y nlog : Nat) (s : State) : Host.Outcome State Fault Refusal :=
  let cores := segCores (s.strideAt (.compute x y)) x y (2 ^ nlog)
  let heads := cores.map fun c => (c, s.headFor c x nlog)
  let live := ((s.core (.compute x y)).gang).elim false s.gangLive
  match s.headFor (.compute x y) x nlog with
  | none => .next s
  | some f =>
    if nlog ≤ 4 ∧ live ∧ joinable heads f.step then
      let js := heads.filterMap fun e => e.2.map fun j => (e.1, j)
      if headsAgree f (js.map (·.2)) then
        let id := s.nextId
        .next (js.foldl (fun s e => s.modShared e.1 fun q =>
          { q with joint := q.joint.map fun j =>
              if j.number = e.2.number then { j with joined := true, join := id } else j })
          { s with nextId := id + 1 })
      else .next (js.foldl (fun s e => s.dropJoint e.1 e.2 1) s)
    else .next s

end Joining

section Computing

/-- Element (k, j) of B, before sparse expansion (R120). -/
def tileB (t : Tile) (sh : GangShape) (k j : Nat) : Nat :=
  let w := sh.fmt.width
  let n := if sh.fmt = .fp64 then 8 else 16
  if sh.col then laneAt (t.row k) w (sh.g.val * n + j) else laneAt (t.row (n * sh.g.val + j)) w k

/-- The nibble of metadata for column j and group g (R129). -/
def metaNibble (m : BitVec 2048) (g j : Nat) : Nat := laneAt m 4 (16 * g + j)

/-- Element (k, j) of B as the operation uses it; a missing element is +0 (R130). Where both positions of a group are the
same, which metadata that no MMETA has loaded can hold, the first kept element stands there (DESIGN CHOICE, log entry
62: R129 gives no result for it). -/
def JointOp.bCode (o : JointOp) (t : Tile) (k j : Nat) : Nat :=
  if o.shape.sp then
    let g := k / 4
    let nb := metaNibble o.smeta g j
    if k % 4 = nb % 4 then tileB t o.shape (2 * g) j
    else if k % 4 = nb / 4 then tileB t o.shape (2 * g + 1) j
    else 0
  else tileB t o.shape k j

/-- A product with its block scales (R127, R128): exact, or no number. -/
def JointOp.product (o : JointOp) (m j k a b : Nat) : Num :=
  let p := (mulNum (codeVal o.shape.fmt a) (codeVal o.shape.fmt b)).1
  if o.shape.scl then
    let sa := laneAt o.aScale 8 (4 * m + k / 32)
    let sb := laneAt o.bScale 8 (4 * j + k / 32)
    if sa = 255 ∨ sb = 255 then .nan false
    else
      match p with
      | .fin n x e => .fin n x (e + sa + sb - 254)
      | q => q
  else p

/-- Special operands of a group (R127): the accumulator they decide. -/
def groupSpecial (acc : Num) (ps : List Num) : Option Num :=
  let xs := acc :: ps
  if xs.any fun x => x.isNan || x == .nav then some (.nan false)
  else if xs.any fun x => x == .inf true then
    (if xs.any fun x => x == .inf false then some (.nan false) else some (.inf true))
  else if xs.any fun x => x == .inf false then some (.inf false)
  else none

/-- The weight of the highest set bit over the products (R126). -/
def groupEmax (ps : List Num) : Option Int :=
  ps.foldl (fun acc p =>
    match p with
    | .fin _ m e => if m = 0 then acc else
      let w : Int := e + bitLen m - 1
      match acc with
      | none => some w
      | some v => some (max v w)
    | _ => acc) none

/-- A finite value in units of 2^q, truncated toward zero, and whether bits were lost. -/
def inUnits (q : Int) : Num → Int × Bool
  | .fin neg m e =>
    let r : Nat × Bool := if q ≤ e then (m * 2 ^ (e - q).toNat, false)
      else (m / 2 ^ (q - e).toNat, m % 2 ^ (q - e).toNat ≠ 0)
    (if neg then -(r.1 : Int) else r.1, r.2)
  | _ => (0, false)

/-- One group of an FP32 accumulator (R126): the window of 48 bits, the sticky correction, one rounding. -/
def groupWindow (acc : Num) (ps : List Num) : Num :=
  match groupEmax ps with
  | none => acc
  | some emax =>
    let ts := ps.map (inUnits (emax - 47))
    let sticky := ts.any (·.2)
    let sum := ts.foldl (fun v t => v + t.1) 0
    match acc with
    | .fin na ma ea =>
      let k := min ea (emax - 49)
      let v : Int := (if na then -1 else 1) * (ma * 2 ^ (ea - k).toNat : Nat) + sum * 2 ^ (emax - 47 - k).toNat
      let c : Int := if sticky then v.sign * 2 ^ (emax - 49 - k).toNat else 0
      Num.ofIntAt (v + c) k
    | x => x

/-- One group: the new accumulator code (R126, R127). -/
def groupStep (f : Fmt) (acc : Nat) (ps : List Num) : Nat :=
  let eb := if f = .fp64 then 11 else 8
  let fb := if f = .fp64 then 52 else 23
  let a := ieeeVal eb fb acc
  match groupSpecial a ps with
  | some x => (rndIeee eb fb .rne false x).1
  | none =>
    let v := if f = .fp64 then ps.foldl (fun v p => (addNum .rne v p).1) a else groupWindow a ps
    if v.isZero then 0 else (rndIeee eb fb .rne false v).1

/-- The logical K of an operation (R118). -/
def JointOp.depth (o : JointOp) : Nat := (o.shape.ks.val + 1) * kStep o.shape.fmt o.shape.sp

/-- Element (i, j) of C after the operation (R118, R126). A sparse operation gives the bits of the dense one, so its
groups are dense K-steps too (R130). -/
def JointOp.element (o : JointOp) (a : List Nat) (t : Tile) (acc i j : Nat) : Nat :=
  let step := kStep o.shape.fmt false
  let n := o.depth
  (List.range (n / step)).foldl (fun acc g =>
    groupStep o.shape.fmt acc ((List.range step).map fun d =>
      let k := g * step + d
      o.product i j k (a.getD (i * n + k) 0) (o.bCode t k j))) acc

/-- The accumulator tile after the operation (R121). -/
def JointOp.result (o : JointOp) (a : List Nat) (t : Tile) (c : Acc) : Acc :=
  let w := if o.shape.fmt = .fp64 then 64 else 32
  (List.range 16).foldl (fun c i =>
    c.setRow i (ofLanes 512 w ((lanesOf (c.row i) w (512 / w)).zipIdx.map fun e => o.element a t e.1 i e.2))) c

/-- The unit has read A (R123), of a pair the leader's (R474): each element as it stood at issue or as it stands now (R133). Poison
in it, or an injected poisoned read, is consumed (R446, R452). -/
def State.feedRead (s : State) (w : Who) (j : JointOp) (a0 : List Nat) : Except Stop (List Nat) := do
  let _ ← (j.spans.filterMap id).mapM fun e => s.readBytes w e.1 e.2
  let now := j.readA (s.core w.core).store
  .ok (((a0.zip now).zipIdx).map fun e => if Config.seesOld s.tick e.2 then e.1.1 else e.1.2)

/-- Every core of a segment has the A that was read, and the feed core's A-scale set (R118, R128). -/
def State.giveA (s : State) (x y : Nat) (f : JointOp) (a : List Nat) : State :=
  (segCores (s.strideAt (.compute x y)) x y (2 ^ f.shape.nlog.val)).foldl (fun s c => s.modShared c fun q =>
    { q with joint := q.joint.map fun j =>
        if j.joined ∧ j.join = f.join then { j with feed := some a, aScale := f.aScale, fed := true } else j }) s

/-- A residue retry charges the thread set that issued the MGANG four cycles of event 0x0B (R131, R365). -/
def Core.chargeRetry (k : Core) (t : Nat) : Core :=
  if k.freeze.toList.getD t false then k
  else
    let v := k.counters.toList.getD t (Vector.replicate 16 0)
    { k with counters := k.counters.set! t (v.set! 0x0B (min (v.toList.getD 0x0B 0 + 4) (2 ^ 64 - 1))) }

/-- An injected residue mismatch strikes this operation (R131, R452 kind 5): one is retried, four cycles on event 0x0B;
two are an error that the gang consumes. -/
def State.residue (s : State) (c : CoreId) (g : Nat) (j : JointOp) : State × Bool :=
  let hit (i : Inject) : Bool :=
    i.kind == 5 && decide (0 < i.left) && i.step == j.step && i.row * 256 + i.col == (s.core c).gpos.toNat
  match (s.gang g).bind fun x => (x.injects.findIdx? hit).map fun i => (x, i) with
  | none => (s, false)
  | some (x, i) =>
    let left := (x.injects.map (·.left)).getD i 0
    let s := { s with devCounters := { s.devCounters with l1retry := sat64 s.devCounters.l1retry } }
    let s := s.modCore c fun k => k.chargeRetry j.ts
    let s := s.modGang g fun y => { y with
      injects := y.injects.modify i fun n => { n with left := n.left - min left 2 } }
    if 2 ≤ left then (s.modGang g fun y => { y with err := some .residue, errWhere := coreWhere c, errAddr := 0 }, true) else (s, false)

/-- An operation of a superstep that has been committed, which a release still waits for (R117), has met an error: no rollback can
repeat that superstep (DESIGN CHOICE, log entry 28). -/
def State.lose (s : State) (g : Nat) (step : Word) : State :=
  s.modGang g fun x => { x with lost := x.lost || step != x.sstep }

/-- The joint operations of a gang go on: no error waits for the ladder, or none of their superstep, which came before the one that
has erred; those of a rival that has faulted have stopped with its cores (R168). -/
def State.opLive (s : State) (g : Nat) (step : Word) : Bool :=
  (s.gang g).elim false fun x => x.rival != .faulted && (x.err.isNone || (step != x.sstep && !x.lost))

/-- The operation writes its accumulator tile and the timeline moves (R132). -/
def State.finishOp (s : State) (c : CoreId) (g : Nat) (j : JointOp) (a : List Nat) : State :=
  let r := s.residue c g j
  if r.2 then r.1.lose g j.step
  else
    r.1.modShared c fun q =>
      { q with accs := q.accs.set j.acc (j.result a q.tiles[j.tile] q.accs[j.acc]) }.finishJoint j.number

/-- JOINT_OP_COMPLETE: the oldest operation of a core, once joined, completes there (R118 to R132). -/
def execJointOpComplete (x y : Nat) (s : State) : Host.Outcome State Fault Refusal :=
  let c : CoreId := .compute x y
  let k := s.core c
  match k.gang, k.shared.joint.head? with
  | some g, some j =>
    if j.joined ∧ s.opLive g j.step then
      match j.fed, j.feed with
      | true, some a => .next (s.finishOp c g j a)
      | _, _ =>
        let feed : CoreId := .compute j.first y
        match (s.core feed).shared.joint.find? fun f => f.joined && f.join == j.join with
        | none => .next s
        | some f =>
          let w : Who := { core := feed, t := Fin.ofNat 16 f.ts }
          match s.feedRead w f (f.feed.getD []) with
          | .error (.check src i a) => .next ((s.consume w src i a).lose g f.step)
          | .error _ => .next s
          | .ok a =>
            let s := s.giveA j.first y f a
            match (s.core c).shared.joint.head? with
            | some j => .next (s.finishOp c g j a)
            | none => .next s
    else .next s
  | _, _ => .next s

end Computing

section JointState

/-- MDESC (R122, R314). -/
def execMdesc (h : Hdr) (a : SPair) (imm : Imm) (s : State) : Host.Outcome State Fault Refusal :=
  s.run h fun s => do
    let x ← (s.ts s.who).readP a
    let p := ea x imm 0
    aligned 8 [p]
    s.access s.who [(p, 32)]
    let bs ← s.loadBytes s.who p.toNat 32
    let d : BitVec 256 := ofBytes 256 bs
    match descBad d with
    | some i => .error (protAt (p + 4 * i))
    | none => .ok ((s.modShared s.who.core fun q => { q with desc := d }).modTs s.who fun t => t.killP h.dmA a, .seq)

/-- The byte of a metadata buffer that holds a nibble whose first position is not below its second (R129). -/
def metaBad (m : BitVec 2048) : Option Nat :=
  ((List.range 512).find? fun i => decide (laneAt m 4 i / 4 ≤ laneAt m 4 i % 4)).map (· / 2)

/-- MMETA (R129, R314). -/
def execMmeta (h : Hdr) (a : SPair) (imm : Imm) (s : State) : Host.Outcome State Fault Refusal :=
  s.run h fun s => do
    let x ← (s.ts s.who).readP a
    let p := ea x imm 0
    aligned 8 [p]
    s.access s.who [(p, 256)]
    let bs ← s.loadBytes s.who p.toNat 256
    let m : BitVec 2048 := ofBytes 2048 bs
    match metaBad m with
    | some i => .error (.trap .illegal (BitVec.ofNat 32 i))
    | none => .ok ((s.modShared s.who.core fun q => { q with smeta := m }).modTs s.who fun t => t.killP h.dmA a, .seq)

/-- MSCL (R128, R314). -/
def execMscl (h : Hdr) (bset : Bool) (a : SPair) (imm : Imm) (s : State) : Host.Outcome State Fault Refusal :=
  s.run h fun s => do
    let x ← (s.ts s.who).readP a
    let p := ea x imm 0
    aligned 8 [p]
    s.access s.who [(p, 64)]
    let bs ← s.loadBytes s.who p.toNat 64
    let v : BitVec 512 := ofBytes 512 bs
    let s := s.modShared s.who.core fun q => if bset then { q with bScale := v } else { q with aScale := v }
    .ok (s.modTs s.who fun t => t.killP h.dmA a, .seq)

/-- MZERO (R315). -/
def execMzero (h : Hdr) (fp64 : Bool) (d : CReg) (s : State) : Host.Outcome State Fault Refusal :=
  s.run h fun s => do
    (s.core s.who.core).accFree d
    .ok (s.modShared s.who.core fun q =>
      { q with accs := q.accs.set d { bits := 0, tag := if fp64 then .fp64 else .fp32 } }, .seq)

/-- The tag that MDRAIN wants for a destination, given the tag it finds (R316). -/
def drainTag (found dst : Fmt) : Fmt :=
  match found, dst with
  | .fp64, .fp32 => .fp64
  | _, .fp64 => .fp64
  | _, _ => .fp32

/-- A row of an accumulator tile converted (R316): its bytes and flags. -/
def drainRow (tag dst : Fmt) (mode : RmCode) (sat : Bool) (r : BitVec 512) : List Byte × Word :=
  let w := tag.width
  let cs := (lanesOf r w (512 / w)).map fun c => if tag = dst then (c, 0) else convert dst tag mode sat c
  (cs.flatMap fun c => leBytes (dst.width / 8) c.1, cs.foldl (fun f c => f ||| c.2) 0)

/-- MDRAIN (R316). -/
def execMdrain (h : Hdr) (rm : RmCode) (sat : Bool) (shape : DrainShape) (a : SPair) (b : SReg) (c : CReg) (imm : Imm)
    (s : State) : Host.Outcome State Fault Refusal :=
  s.run h fun s => do
    let t := s.ts s.who
    let k := s.core s.who.core
    k.accFree c
    let x ← t.readP a
    let pitch ← t.readS b
    let acc ← k.readAcc c (some (drainTag k.shared.accs[c].tag shape.dst))
    pitchOk pitch
    let n := shape.cnt.val + 1
    let ps := rowAddrs x imm pitch n
    let rows := ps.zipIdx.map fun e =>
      (e.1, drainRow acc.tag shape.dst (t.mode rm) sat (acc.row (shape.row.val + e.2)))
    aligned 8 ps
    s.access s.who (rows.map fun e => (e.1, e.2.1.length))
    let s := s.storeAll s.who (rows.map fun e => (e.1, e.2.1))
    let s := if shape.z then s.modShared s.who.core fun q =>
        { q with accs := q.accs.set c ((List.range n).foldl (fun (m : Acc) j => m.setRow (shape.row.val + j) 0) acc) }
      else s
    .ok (s.modTs s.who fun t =>
      ((t.flag (rows.foldl (fun f e => f ||| e.2.2) 0)).killP h.dmA a).killS h.dmB b, .seq)

end JointState

section TilePorts

/-- MROWRD (R317). -/
def execMrowrd (h : Hdr) (half : Bool) (d : VReg) (a : MReg) (row : Fin 32) (s : State) :
    Host.Outcome State Fault Refusal :=
  s.run h fun s => do
    (s.ts s.who).freeV d
    let m := (s.core s.who.core).shared.tiles[a]
    let v : VWord := (m.row row.val).extractLsb' (if half then 256 else 0) 256
    .ok (s.modTs s.who fun t => t.putV d (maskTag m.tag v) m.tag, .seq)

/-- MROWWR (R317). -/
def execMrowwr (h : Hdr) (half : Bool) (d : MReg) (a : VReg) (row : Fin 32) (s : State) :
    Host.Outcome State Fault Refusal :=
  s.run h fun s => do
    let t := s.ts s.who
    let v ← t.readV a none
    (s.core s.who.core).tileFree d
    let s := s.modShared s.who.core fun q =>
      let m := q.tiles[d]
      let v := maskTag (t.tagV a) v
      let m := m.setRow row.val (setBits (m.row row.val) (if half then 256 else 0) 256 v.toNat)
      { q with tiles := q.tiles.set d { m with tag := t.tagV a } }
    .ok (s.modTs s.who fun t => t.killV h.dmA a, .seq)

def colBits : ColWidth → Nat
  | .b4 => 4
  | .b8 => 8
  | .b16 => 16
  | .b32 => 32
  | .b64 => 64

/-- Rows in a group of the column port (R318). -/
def colRows : ColWidth → Nat
  | .b4 | .b8 => 32
  | .b16 => 16
  | .b32 => 8
  | .b64 => 4

/-- MCOLRD (R318). -/
def execMcolrd (h : Hdr) (w : ColWidth) (d : VReg) (a : MReg) (j : Fin 128) (q : Fin 8) (s : State) :
    Host.Outcome State Fault Refusal :=
  s.run h fun s => do
    (s.ts s.who).freeV d
    let m := (s.core s.who.core).shared.tiles[a]
    let ls := (List.range (colRows w)).map fun i => laneAt (m.row (q.val * colRows w + i)) (colBits w) j.val
    .ok (s.modTs s.who fun t => t.putV d (maskTag m.tag (ofLanes 256 (colBits w) ls)) m.tag, .seq)

/-- MCOLWR (R318). -/
def execMcolwr (h : Hdr) (w : ColWidth) (d : MReg) (a : VReg) (j : Fin 128) (q : Fin 8) (s : State) :
    Host.Outcome State Fault Refusal :=
  s.run h fun s => do
    let t := s.ts s.who
    let v ← t.readV a none
    (s.core s.who.core).tileFree d
    let b := colBits w
    let s := s.modShared s.who.core fun k =>
      let m := (List.range (colRows w)).foldl (fun (m : Tile) i =>
        let r := q.val * colRows w + i
        m.setRow r (setBits (m.row r) (b * j.val) b (maskLane (t.tagV a) b j.val (laneAt v b i)))) k.tiles[d]
      { k with tiles := k.tiles.set d { m with tag := t.tagV a } }
    .ok (s.modTs s.who fun t => t.killV h.dmA a, .seq)

end TilePorts

end Sys2Proof.Machine
end

