-- ==== Sys2Proof/Machine/Operations.lean ====
section
/-! DEFINITION. Reliability and operations: checkpoint groups (R477 to R481), cold and warm starts (R482 to R484), firmware
and attestation (R485 to R487), power, clock and thermal limits (R488, R489), and uncorrectable ECC errors (R440, R446,
R447). -/
namespace Sys2Proof.Machine

section Quiescence

/-- Every queue of a context is quiesced, and no gang of it is resident (R479, R485). -/
def State.quiesced (s : State) (ctx : Nat) (c : Context) : Bool :=
  c.queues.all (fun e => e.2.state == .quiesced) && !s.gangs.any fun e => e.2.ctx == ctx

end Quiescence

section Slots

/-- The head of a manifest (R478). -/
def ckHead (group devices step z : Nat) : List Byte :=
  leBytes 8 step ++ leBytes 4 group ++ leBytes 4 devices ++ leBytes 8 z ++ leBytes 40 0

/-- The word that ends a commit record (R478). -/
def ckWord : Nat := 0x54434B43

/-- The commit record of a step (R478). -/
def ckCommit (step : Nat) (manifest : List Byte) : List Byte :=
  leBytes 8 step ++ sha256 manifest ++ leBytes 4 ckWord ++ leBytes 20 0

/-- Bytes of a checkpoint area (R478). -/
def ckAreaLen (devices z : Nat) : Nat := 2 * (16384 + devices * (64 + z))

/-- Where a slot of an area begins: slot A at its base, slot B in its upper half (R478; DESIGN CHOICE, log entry 50). -/
def CkGroup.slot (g : CkGroup) (second : Bool) : Nat := g.area + (if second then g.areaLen / 2 / 64 * 64 else 0)

/-- Bytes of the entries of a manifest. -/
def CkGroup.entriesLen (g : CkGroup) : Nat := 48 * g.devices * g.devices

/-- Bytes of a checkpoint area as they can be read: a poisoned line gives none (R446). -/
def State.ckRead (s : State) (a n : Nat) : Option (List Byte) :=
  if s.hbmPoison.any fun l => meets a n (64 * l) 64 then none else some (s.hbm.readN a n)

/-- Lines of a checkpoint area are written whole (R446). -/
def State.ckWriteLines (s : State) (a : Nat) (bs : List Byte) : State :=
  { s with
    hbm := s.hbm.writeN a bs
    hbmPoison := s.hbmPoison.filter fun l => !(decide (a ≤ 64 * l) && decide (64 * l + 64 ≤ a + bs.length)) }

/-- What a slot has committed: step, Z and entries, where its commit record is that of its manifest (R478, R480). -/
def State.ckSlot (s : State) (g : CkGroup) (second : Bool) : Option (Nat × Nat × List Byte) :=
  let a := g.slot second
  match s.ckRead a (64 + g.entriesLen + 64) with
  | none => none
  | some bs =>
    let step := fieldAt bs 0 8
    let z := fieldAt bs 16 8
    let entries := bytesAt bs 64 g.entriesLen
    let head := ckHead g.group g.devices step z
    if bytesAt bs 0 64 = head ∧ bytesAt bs (64 + g.entriesLen) 64 = ckCommit step (head ++ entries) then
      some (step, z, entries)
    else none

/-- The steps that this device has committed (R480). -/
def State.ckSteps (s : State) (g : CkGroup) : List Nat :=
  [false, true].filterMap fun b => (s.ckSlot g b).map (·.1)

/-- The slot that does not hold the highest committed step takes the next checkpoint (R479): the second one? -/
def State.ckTarget (s : State) (g : CkGroup) : Bool :=
  match s.ckSlot g false, s.ckSlot g true with
  | some x, some y => decide (y.1 ≤ x.1)
  | some _, none => true
  | none, _ => false

/-- The slot that holds a committed step. -/
def State.ckAt (s : State) (g : CkGroup) (n : Nat) : Option Bool :=
  [false, true].find? fun b => (s.ckSlot g b).map (·.1) == some n

/-- Where the shard of a stripe lies in a slot (R478). -/
def CkGroup.shardAt (g : CkGroup) (second : Bool) (z stripe : Nat) : Nat := g.slot second + 16384 + stripe * (64 + z)

/-- A shard with its header (R478). -/
def shardBytes (group step stripe dev : Nat) (payload : List Byte) : List Byte :=
  leBytes 8 step ++ leBytes 4 group ++ leBytes 1 stripe ++ leBytes 1 dev ++ leBytes 1 (if stripe = dev then 1 else 0)
    ++ leBytes 1 0 ++ leBytes 8 payload.length ++ leBytes 8 0 ++ sha256 payload ++ payload

end Slots

section Checkpoints

def State.ckGroup (s : State) (group : Nat) : Option CkGroup := s.ckGroups.find? fun g => g.group == group

/-- A checkpoint request is answered on function 0 (R481); one that ends with another status than 0 counts (R476). -/
def State.ckAnswer (s : State) (code : Nat) : State :=
  let s := if code = 0 then s else { s with devCounters := { s.devCounters with ckfail := sat64 s.devCounters.ckfail } }
  s.answer 0 fun n => .status n code

/-- A status with what follows it, for the same request: digests, or the bad shards (R479, R481). -/
def State.ckAnswerWith (s : State) (code : Nat) (bs : List Byte) : State :=
  let t := s.ckAnswer code
  { t with answers := t.answers ++ [.data s.nextId bs] }

/-- Buffers that firmware can read, and write: no byte of them waits for a drain (R143), and none of their pages migrates where it
writes (R442). -/
def State.buffersReady (s : State) (ctx : Nat) (buffers : List (Nat × Nat)) (wr : Bool) : Bool :=
  buffers.all fun b => !s.undrained ctx b.1 b.2 && !(wr && s.rangeMigrating ctx b.1 b.2)

/-- CHECKPOINT_GROUP_CREATE (R477): 3 to 16 devices, and an area of memory that nothing else uses. -/
def execCheckpointGroupCreate (group devices self ctx area areaLen : Nat) (s : State) : Host.Outcome State Fault Refusal :=
  if !s.serving then .next s
  else
    let ok := (s.ckGroup group).isNone && decide (3 ≤ devices) && decide (devices ≤ 16) && decide (self < devices)
      && (s.ctx ctx).isSome && area % 64 == 0 && areaLen != 0 && paOk area && paOk (area + areaLen - 1)
      && area / 2 ^ 36 == (area + areaLen - 1) / 2 ^ 36 && s.frameFree area areaLen
    if ok then
      let g : CkGroup := { group := group, devices := devices, self := self, ctx := ctx, area := area, areaLen := areaLen }
      .next ({ s with ckGroups := s.ckGroups ++ [g] }.answer 0 fun n => .status n 0)
    else .next (s.answer 0 fun n => .status n 4)

/-- A byte of a context's memory, wherever its page lies: firmware brings back what it has put away (R443). What a poisoned
line gives that no replica holds is open (log entry 25). -/
def State.keptByte (s : State) (ctx gva : Nat) : Byte :=
  if s.globalPoison ctx gva 1 then
    Config.poisonByte s.tick gva
  else
    match s.globalByte ctx gva with
    | some b => b
    | none => ((s.ctx ctx).bind fun c => c.backing.find (gva / 65536)).elim 0 fun bs => bs.getD (gva % 65536) 0

/-- The image of a context: its buffers, one after the other (R477). -/
def State.ckImage (s : State) (ctx : Nat) (buffers : List (Nat × Nat)) : List Byte :=
  buffers.flatMap fun b => (List.range b.2).map fun i => s.keptByte ctx (b.1 + i)

/-- A list names what is no buffer: a range that meets an image or a body (R387). -/
def Context.ckSealed (c : Context) (buffers : List (Nat × Nat)) : Bool := buffers.any fun b => c.sealedRange b.1 b.2

/-- Z for the largest image of a group (R477). -/
def ckZ (devices longest : Nat) : Nat := ((longest + devices - 2) / (devices - 1) + 63) / 64 * 64

/-- XOR of equal lengths of bytes. -/
def xorBytes (z : Nat) (xs : List (List Byte)) : List Byte :=
  (List.range z).map fun i => xs.foldl (fun b x => b ^^^ x.getD i 0) 0

/-- The segment that device d holds in stripe s (R477). -/
def segmentOf (devices s d : Nat) : Nat := (s + devices - d - 1) % devices

/-- The segment of an image that a device keeps in a stripe (R477). -/
def CkGroup.segment (g : CkGroup) (z : Nat) (image : List Byte) (stripe : Nat) : List Byte :=
  bytesAt image (segmentOf g.devices stripe g.self * z) z

/-- The payloads of the shards that a device writes (R477): its segments, and the parity of the stripe that is its own. -/
def CkGroup.payloads (g : CkGroup) (z : Nat) (image : List Byte) (fromPeers : List (List Byte)) : List (List Byte) :=
  (List.range g.devices).map fun s => if s = g.self then xorBytes z fromPeers else g.segment z image s

/-- The data shards that leave for the devices that keep their stripes' parity (R477). -/
def CkGroup.puts (g : CkGroup) (step z : Nat) (image : List Byte) : List CkPut :=
  ((List.range g.devices).filter fun s => s != g.self).map fun s =>
    { group := g.group, dev := s, stripe := s, bytes := shardBytes g.group step s g.self (g.segment z image s) }

/-- The shards go into a slot, one for each stripe (R478, R479). -/
def State.writeShards (s : State) (g : CkGroup) (second : Bool) (step z : Nat) (payloads : List (List Byte)) : State :=
  payloads.zipIdx.foldl (fun (s : State) (e : List Byte × Nat) =>
    s.ckWriteLines (g.shardAt second z e.2) (shardBytes g.group step e.2 g.self e.1)) s

/-- CHECKPOINT_WRITE (R477 to R479, R481): the data shards leave for their parity holders; with those that the peers have sent,
the shards go into the slot that does not hold the highest committed step, and their digests to the driver. `longest` is the
largest image of the group; where a post of a member has failed nothing is written, and the status is 3. It waits for drains of
its buffers, and for the shards of every peer. -/
def execCheckpointWrite (group step : Nat) (buffers : List (Nat × Nat)) (longest : Nat) (peers : PeerShards) (s : State) :
    Host.Outcome State Fault Refusal :=
  if !s.serving then .next s
  else
    match s.ckGroup group with
    | none => .next (s.ckAnswer 4)
    | some g =>
      match s.ctx g.ctx with
      | none => .next (s.ckAnswer 1)
      | some c =>
        let len := buffers.foldl (fun n b => n + b.2) 0
        let z := ckZ g.devices (max longest len)
        if !s.quiesced g.ctx c then .next (s.ckAnswer 1)
        else if c.ckSealed buffers then .next (s.ckAnswer 4)
        else if g.areaLen < ckAreaLen g.devices z then .next (s.ckAnswer 2)
        else if !s.buffersReady g.ctx buffers false then .next s
        else if peers.failed.isEmpty && (peers.shards.length + 1 != g.devices || peers.shards.any fun p => p.length != z) then
          .next s
        else
          let image := s.ckImage g.ctx buffers
          let s := { s with ckOut := s.ckOut ++ g.puts step z image }
          if !peers.failed.isEmpty then .next (s.ckAnswer 3)
          else
            let ps := g.payloads z image peers.shards
            .next ((s.writeShards g (s.ckTarget g) step z ps).ckAnswerWith 0 (ps.flatMap sha256))

/-- CHECKPOINT_MANIFEST (R478, R479): head and entries, then the commit record, for the shards that the slot holds. -/
def execCheckpointManifest (group step : Nat) (entries : List Byte) (s : State) : Host.Outcome State Fault Refusal :=
  if !s.serving then .next s
  else
    match s.ckGroup group with
    | none => .next (s.ckAnswer 4)
    | some g =>
      let second := s.ckTarget g
      match s.ckRead (g.shardAt second 0 0) 64 with
      | none => .next (s.ckAnswer 4)
      | some h =>
        let z := fieldAt h 16 8
        if bytesAt h 0 14 ≠ leBytes 8 step ++ leBytes 4 group ++ leBytes 1 0 ++ leBytes 1 g.self
            ∨ entries.length ≠ g.entriesLen ∨ g.areaLen < ckAreaLen g.devices z then
          .next (s.ckAnswer 4)
        else
          let m := ckHead group g.devices step z ++ entries
          .next ((s.ckWriteLines (g.slot second) (m ++ ckCommit step m)).ckAnswer 0)

/-- An entry of a manifest for a shard: its digest, where the entry is of the step and of the shard's kind (R478). -/
def manifestEntry (entries : List Byte) (step s d : Nat) : Option (List Byte) :=
  ((List.range (entries.length / 48)).map fun i => bytesAt entries (48 * i) 48).findSome? fun e =>
    if fieldAt e 0 8 = step ∧ fieldAt e 8 1 = s ∧ fieldAt e 9 1 = d ∧ fieldAt e 10 1 = (if s = d then 1 else 0) then
      some (bytesAt e 16 32)
    else none

/-- A shard as a restore sees it: step and payload, where its header names its place (R478, R480). -/
structure SeenShard where
  stripe : Nat
  dev : Nat
  step : Nat
  bytes : List Byte
  deriving DecidableEq, Repr

/-- A shard as its 64 bytes of header and its payload give it (R478): `none` where the header names another place, has a
reserved bit set (R9), or carries another digest than its payload's. -/
def seenShard (group stripe dev : Nat) (bs : List Byte) : Option SeenShard :=
  let p := bs.drop 64
  let n := fieldAt bs 0 8
  if bs.take 64 = (shardBytes group n stripe dev p).take 64 then
    some { stripe := stripe, dev := dev, step := n, bytes := p }
  else none

/-- The shards that this device finds in a slot (R480). -/
def State.ownShards (s : State) (g : CkGroup) (second : Bool) (z : Nat) : List SeenShard :=
  (List.range g.devices).filterMap fun i =>
    (s.ckRead (g.shardAt second z i) (64 + z)).bind (seenShard g.group i g.self)

/-- What a restore needs of a group: the step, the manifest, the shards seen. -/
structure Restore where
  devices : Nat
  step : Nat
  z : Nat
  entries : List Byte
  shards : List SeenShard
  deriving DecidableEq, Repr

def Restore.shard (r : Restore) (s d : Nat) : Option SeenShard := r.shards.find? fun x => x.stripe == s && x.dev == d

/-- A shard is bad (R480, step 3). -/
def Restore.bad (r : Restore) (s d : Nat) : Bool :=
  match r.shard s d, manifestEntry r.entries r.step s d with
  | some x, some e => x.step != r.step || x.bytes.length != r.z || sha256 x.bytes != e
  | _, _ => true

/-- The bad shards, by stripe and device. -/
def Restore.bads (r : Restore) : List (Nat × Nat) :=
  (List.range r.devices).flatMap fun s => ((List.range r.devices).filter fun d => r.bad s d).map fun d => (s, d)

/-- The payload of a shard, rebuilt from the rest of its stripe where it is bad (R480, step 4). -/
def Restore.payload (r : Restore) (s d : Nat) : List Byte :=
  if r.bad s d then
    xorBytes r.z (((List.range r.devices).filter fun e => e != d).map fun e => (r.shard s e).elim [] (·.bytes))
  else (r.shard s d).elim [] (·.bytes)

/-- Every stripe can be made whole: at most one bad shard, and a rebuilt data shard agrees with its entry (R480). -/
def Restore.possible (r : Restore) : Bool :=
  (List.range r.devices).all fun s =>
    let b := (List.range r.devices).filter fun d => r.bad s d
    decide (b.length ≤ 1) && b.all fun d => d == s || manifestEntry r.entries r.step s d == some (sha256 (r.payload s d))

/-- The image of a device, its segments in order (R477). -/
def Restore.image (r : Restore) (self : Nat) : List Byte :=
  (List.range (r.devices - 1)).flatMap fun k => r.payload ((k + self + 1) % r.devices) self

/-- Devices that hold a shard of a step. -/
def Restore.holders (r : Restore) (n : Nat) : Nat :=
  ((r.shards.filter fun x => x.step == n).map fun x => x.dev).eraseDups.length

/-- The shards that a refused restore reports (R480, step 5). -/
def Restore.blamed (r : Restore) : List (Nat × Nat) :=
  let others := (r.bads.filterMap fun b => (r.shard b.1 b.2).map fun x => x.step).filter fun n => n != r.step
  if others.any fun n => decide (r.holders r.step < r.holders n) then
    (r.shards.filter fun x => x.step == r.step).map fun x => (x.stripe, x.dev)
  else r.bads

/-- The highest of numbers. -/
def highest : List Nat → Option Nat
  | [] => none
  | n :: r => some (r.foldl max n)

/-- The restore step: the highest one valid on every device that answers with a valid slot; at least G - 1 must (R480). -/
def restoreStep (devices : Nat) (own : List Nat) (answering : List (List Nat)) : Option Nat :=
  let all := (own :: answering).filter fun l => !l.isEmpty
  if all.length + 1 < devices then none
  else highest ((all.headD []).filter fun n => all.all fun l => l.contains n)

/-- The bad shards of this device are put right in the slot that holds the step: a data shard as rebuilt, the parity shard
recomputed (R480, step 4). -/
def State.mendSlot (s : State) (g : CkGroup) (r : Restore) : State :=
  match s.ckAt g r.step with
  | none => s
  | some second => ((List.range g.devices).filter fun i => r.bad i g.self).foldl (fun s i =>
      s.ckWriteLines (g.shardAt second r.z i) (shardBytes g.group r.step i g.self (r.payload i g.self))) s

/-- Bytes of one page go back to a buffer: mapped, or put away; firmware keeps the page away where there was none (R443). -/
def State.putPiece (s : State) (ctx a : Nat) (bs : List Byte) : State :=
  match (s.ctx ctx).bind fun c => c.pa a with
  | some _ => s.engineWrite ctx a bs
  | none => s.modCtx ctx fun c =>
    let pg := (c.backing.find (a / 65536)).getD (List.replicate 65536 0)
    { c with backing := c.backing.put (a / 65536) (patch pg (a % 65536) bs) }

/-- Bytes go back to a buffer, page by page. -/
def State.putBack (s : State) (ctx gva : Nat) (bs : List Byte) : State :=
  if bs.isEmpty then s
  else (pageStarts gva bs.length).foldl (fun s a =>
    let n := min (gva + bs.length) ((a / 65536 + 1) * 65536) - a
    s.putPiece ctx a (bytesAt bs (a - gva) n)) s

/-- The image of a context goes back to its buffers. -/
def State.restoreBuffers (s : State) (ctx : Nat) (image : List Byte) (buffers : List (Nat × Nat)) : State :=
  (buffers.foldl (fun (acc : State × Nat) b =>
    (acc.1.putBack ctx b.1 (bytesAt image acc.2 b.2), acc.2 + b.2)) (s, 0)).1

/-- Bodies built on another stepping are discarded with a restored image (R389). -/
def State.checkStepping (s : State) (ctx : Nat) : State :=
  s.modCtx ctx fun c => { c with capsules := c.capsules.map fun (k : Capsule) =>
    if k.state = .native ∧ k.buildId % 65536 ≠ (1 + Config.stepping.toNat) % 65536 then
      { k with state := .voided, buildId := 0 }
    else k }

/-- Z and the entries of a manifest that the driver sends, head and entries, where its head is that of a group and a step
(R478). -/
def CkGroup.manifestOf (g : CkGroup) (n : Nat) (m : List Byte) : Option (Nat × List Byte) :=
  let z := fieldAt m 16 8
  if m.take 64 = ckHead g.group g.devices n z ∧ m.length = 64 + g.entriesLen then some (z, m.drop 64) else none

/-- CHECKPOINT_RESTORE (R480, R481). The request names the step and the buffers; the manifest is this device's own, or
that of a device that answers; with neither, every shard is bad. It waits for drains and migrations of its buffers. -/
def execCheckpointRestore (group step : Nat) (answering : List (List Nat)) (manifest : List Byte)
    (buffers : List (Nat × Nat)) (peerShards : List (Nat × Nat × List Byte)) (s : State) : Host.Outcome State Fault Refusal :=
  if !s.serving then .next s
  else
    match s.ckGroup group with
    | none => .next (s.ckAnswer 4)
    | some g =>
      match s.ctx g.ctx with
      | none => .next (s.ckAnswer 1)
      | some c =>
        if !s.quiesced g.ctx c then .next (s.ckAnswer 1)
        else if c.ckSealed buffers then .next (s.ckAnswer 4)
        else
          match restoreStep g.devices (s.ckSteps g) answering with
          | none => .next (s.ckAnswer 5)
          | some n =>
            let own := (s.ckAt g n).bind fun b => (s.ckSlot g b).map fun k => (b, k)
            let peers := (peerShards.filter fun p => p.2.1 != g.self).filterMap fun p => seenShard group p.1 p.2.1 p.2.2
            let man := (own.map fun k => k.2.2) <|> g.manifestOf n manifest
            let z := (man.map (·.1)).getD 0
            let r : Restore :=
              { devices := g.devices, step := n, z := z, entries := (man.map (·.2)).getD []
                shards := (own.elim [] fun k => s.ownShards g k.1 z) ++ peers }
            let len := buffers.foldl (fun m b => m + b.2) 0
            if step ≠ n ∨ ¬ r.possible then
              .next (s.ckAnswerWith 4 (r.blamed.flatMap fun b => leBytes 1 b.1 ++ leBytes 1 b.2))
            else if (g.devices - 1) * z < len then .next (s.ckAnswer 2)
            else if !s.buffersReady g.ctx buffers true then .next s
            else
              .next ((((s.mendSlot g r).restoreBuffers g.ctx (r.image g.self) buffers).checkStepping g.ctx).ckAnswer 0)

end Checkpoints

section Starting

/-- The firmware image of a slot: the factory's until one is staged (R485). -/
def State.firmware (s : State) (slot : Nat) : List Byte :=
  let f := s.fwSlot slot
  if f.image.isEmpty then Config.factoryImage slot else f.image

/-- The boot ROM accepts a slot (R486): the signature, the stepping, the leaf recorded for the slot. The module leaves the
factory with images that it accepts. -/
def State.bootable (s : State) (slot : Nat) : Bool :=
  let f := s.fwSlot slot
  f.image.isEmpty || (Config.lmsHolds f.image && Config.fwSteppingOk f.image && Config.fwLeafOf f.image == f.leaf)

/-- What moves of a context ends with a start; its mappings stand until step 8 discards them (R483). -/
def Context.still (c : Context) : Context := { c with queues := [], remotes := [], inbound := [], posts := [], migrates := [] }

/-- What runs ends with the start: gangs, packets, engines, posts (R483). -/
def State.still (s : State) : State :=
  { s with
    gangs := [], tours := [], packets := [], refusals := [], scores := [], joins := [], routers := [], copies := []
    overlays := [], qposts := [], deferred := [], wire := [], ckOut := [], kctx := 0
    contexts := s.contexts.map fun (e : Nat × Context) => (e.1, e.2.still) }

/-- The steps that a start takes (R483). -/
def startSteps (warm : Bool) : List Nat := if warm then [2, 4, 5, 8] else [1, 2, 3, 4, 5, 6, 7, 8]

/-- A fenced core, and its report (R475, R484). -/
def State.fence (s : State) (c : CoreId) : State :=
  (s.modCore c fun k => { k with fenced := true }).report
    { level := 0, src := 12, ctx := 0xFFFF, queue := 0xFFFF, whereIs := coreWhere c, sstep := 0, retry := 0, addr := 0, time := 0 }

/-- What one step of a start does (R483). Step 4 loads remaps and retired frames from the module's flash, in copies that agree; of the
poison records that a warm start keeps, one whose copies all differ is gone (DEDUCED, log entry 51). -/
def State.startStep (s : State) (warm : Bool) (fenced : List CoreId) (n : Nat) : State :=
  match n with
  | 1 => { s with now := 0, picos := 0, railsOff := false, clockMhz := 2000, powerCap := 1800 }
  | 3 => { s with hbm := [] }
  | 4 =>
    let s := { s with remaps := s.flashRemaps.map Copies.of, retiredFrames := s.flashRetired.map Copies.of }
    if warm then { s with poisonRecords := s.poisonRecords.filter fun (e : Copies PoisonUnit) => e.value.isSome }
    else { s with hbmPoison := [], hbmLost := [], poisonRecords := [], eccSeen := [] }
  | 5 => (fenced.filter fun c => c.exists && c.kind != .control).foldl State.fence { s with compute := [], memory := [], control := [] }
  | 7 => { s with devCounters := { } }
  | 8 =>
    { s with
      contexts := [], regions := [], apertures := [], served := []
      ckGroups := if warm then s.ckGroups else [] }
  | _ => s

/-- A start begins (R482 to R484): STATUS names its first step. It fails at step 2 where the image of the slot that it boots is
not accepted. -/
def State.start (s : State) (warm : Bool) (failStep : Nat) (fenced : List CoreId) : State :=
  let other := !warm && decide (3 ≤ s.failedStarts)
  let slot := if other then 1 - s.fwActive else s.fwActive
  let fail := if !s.bootable slot && (failStep == 0 || decide (2 < failStep)) then 2 else failStep
  { s.still with
    devClass := .starting
    devDetail := if warm then 2 else 1
    starting := some
      { warm := warm, fail := fail, fenced := fenced, slot := slot, other := other, todo := startSteps warm } }

/-- A start request while a start runs is answered BUSY and changes nothing (R484); one that is not accepted is answered the same
(DESIGN CHOICE, log entry 82). -/
def State.startRequest (s : State) (ok warm : Bool) (failStep : Nat) (fenced : List CoreId) :
    Host.Outcome State Fault Refusal :=
  if !(startSteps warm).contains failStep && failStep != 0 then .next s
  else if s.starting.isSome || !ok then .next (s.answer 0 fun n => .status n 1)
  else .next (s.start warm failStep fenced)

/-- COLDSTART (R483, R484). -/
def execColdstart (failStep : Nat) (fenced : List CoreId) (s : State) : Host.Outcome State Fault Refusal :=
  s.startRequest true false failStep fenced

/-- WARMSTART (R483, R488): in the ready, start-failed or fatal class, while the rails are on. -/
def execWarmstart (failStep : Nat) (fenced : List CoreId) (s : State) : Host.Outcome State Fault Refusal :=
  s.startRequest ((s.devClass == .ready || s.devClass == .failed || s.devClass == .fatal) && !s.railsOff) true failStep fenced

/-- A start has ended well: the slot that it booted is the active one (DESIGN CHOICE, log entry 82), and vector 0 is raised
(R483, R484). -/
def State.startDone (s : State) (r : StartRun) : State :=
  { s with
    starting := none
    devClass := if r.other then .fallback else .ready
    devDetail := r.slot
    fwActive := r.slot
    failedStarts := 0 }.raise 0 0

/-- The next step of a start that runs: it fails, or does what it does, and STATUS names the one after it (R483, R484; that a step
takes one cycle of the clock is log entry 51). -/
def State.startTick (s : State) : State :=
  match s.starting with
  | none => s
  | some r =>
    match r.todo with
    | [] => s.startDone r
    | n :: rest =>
      if r.fail = n then
        { s with starting := none, devClass := .failed, devDetail := n, failedStarts := s.failedStarts + 1 }
      else
        let t := s.startStep r.warm r.fenced n
        match rest with
        | [] => t.startDone r
        | m :: _ => { t with starting := some { r with todo := rest }, devDetail := m }

end Starting

section FirmwareSlots

/-- FWSTAGE (R485, R486): the image goes into the slot that is not active. -/
def execFwstage (image : List Byte) (s : State) : Host.Outcome State Fault Refusal :=
  if !s.serving then .next s
  else
    let q := Config.fwLeafOf image
    if image.isEmpty || !Config.lmsHolds image || decide (q ≤ s.fwLeaf) || !Config.fwSteppingOk image then
      .next (s.answer 0 fun n => .status n 1)
    else
      let f : FwSlot := { image := image, leaf := q }
      let s := if s.fwActive = 0 then { s with fwB := f } else { s with fwA := f }
      .next ({ s with fwLeaf := q }.answer 0 fun n => .status n 0)

/-- A capsule when the firmware changes (R389): a build that is queued or under way fails, a body is discarded, and a
level outside the window retires what is left. -/
def State.changeCapsule (s : State) (ctx low : Nat) (k : Capsule) : State :=
  let s := if k.queued || k.state == .rebuilding then s.failBuild ctx k
    else s.modCapsule ctx k.handle fun (x : Capsule) =>
      if x.state = .native then { x with state := .voided, buildId := 0 } else x
  s.modCapsule ctx k.handle fun (x : Capsule) => if x.level < low then { x with state := .retired } else x

/-- ACTIVATE (R389, R485). -/
def execActivate (s : State) : Host.Outcome State Fault Refusal :=
  if !s.serving then .next s
  else if !(s.contexts.all fun e => s.quiesced e.1 e.2) then .next (s.answer 0 fun n => .status n 1)
  else
    let slot := 1 - s.fwActive
    let s := { s with fwActive := slot, devDetail := slot }
    let ks := s.contexts.flatMap fun e => e.2.capsules.map fun k => (e.1, k)
    .next ((ks.foldl (fun (s : State) (e : Nat × Capsule) => s.changeCapsule e.1 s.lowestLevel e.2) s).answer 0 fun n =>
      .status n 0)

/-- Cores that are fenced (R484). -/
def State.fencedCount (s : State) : Nat :=
  ((s.compute ++ s.memory).filter fun e => e.2.fenced).length

/-- The report that ATTEST signs (R487); its index is the one recorded for the active slot (DEDUCED, log entry 52). -/
def State.attestation (s : State) (nonce : List Byte) : List Byte :=
  nonce ++ sha256 (s.firmware s.fwActive) ++ sha256 (s.firmware (1 - s.fwActive)) ++ leBytes 2 Config.stepping.toNat
    ++ leBytes 1 s.lowestLevel ++ leBytes 1 Config.nativeLevel ++ leBytes 8 (s.fwSlot s.fwActive).leaf ++ leBytes 4 s.fencedCount ++ leBytes 16 0

/-- ATTEST (R487): each one-time index signs once; after 1,048,576 the request is refused. -/
def execAttest (nonce : List Byte) (s : State) : Host.Outcome State Fault Refusal :=
  if !s.serving then .next s
  else if nonce.length ≠ 32 ∨ 2 ^ 20 ≤ s.attestIndex then .next (s.answer 0 fun n => .status n 4)
  else
    let r := s.attestation nonce
    .next ({ s with attestIndex := s.attestIndex + 1 }.answer 0 fun n => .data n (r ++ Config.hssSign s.attestIndex r))

end FirmwareSlots

section Limits

/-- POWERCAP (R489). -/
def execPowercap (watts : Nat) (s : State) : Host.Outcome State Fault Refusal :=
  if !s.serving then .next s
  else if 900 ≤ watts ∧ watts ≤ 1800 then .next ({ s with powerCap := watts }.answer 0 fun n => .status n 0)
  else .next (s.answer 0 fun n => .status n 1)

/-- One of n sensors from a number on reads a value that a test strikes. -/
def State.someReading (s : State) (first n : Nat) (bad : Int → Bool) : Bool :=
  (List.range n).any fun i => bad (s.reading (first + i)).toInt

/-- A reading is past its throttle value (R488), in units of 0.01 °C, 0.1 mV and 0.1 W: a die at 95 °C, a stack at 88 °C, a rail below
0.57 V, the package above its cap. -/
def State.mustThrottle (s : State) : Bool :=
  s.someReading 0 Config.stackTemps (fun v => decide (9500 ≤ v)) || s.someReading Config.stackTemps 8 (fun v => decide (8800 ≤ v))
    || s.someReading Config.railVolts 32 (fun v => decide (v < 5700))
    || s.someReading Config.packagePower 1 (fun v => decide (10 * (s.powerCap : Int) < v))

/-- A reading is past its trip value (R488): a die at 105 °C, a stack at 95 °C, a rail below 0.54 V or above 0.66 V. -/
def State.mustTrip (s : State) : Bool :=
  s.someReading 0 Config.stackTemps (fun v => decide (10500 ≤ v)) || s.someReading Config.stackTemps 8 (fun v => decide (9500 ≤ v))
    || s.someReading Config.railVolts 32 (fun v => decide (v < 5400) || decide (6600 < v))

/-- THROTTLE_STEP (R475, R488): 100 MHz less, down to 1.0 GHz, while a reading asks for it. -/
def execThrottleStep (s : State) : Host.Outcome State Fault Refusal :=
  if s.clockMhz ≤ 1000 || !s.mustThrottle then .next s
  else
    let f := s.clockMhz - 100
    .next ({ s with clockMhz := f }.report
      { level := 0, src := 11, ctx := 0xFFFF, queue := 0xFFFF, whereIs := 0xFFFF, sstep := 0, retry := 0, addr := f, time := 0 })

/-- THERMAL_TRIP (R451, R488): while a reading asks for it and the rails are on, device fatal, then the rails go off. -/
def execThermalTrip (s : State) : Host.Outcome State Fault Refusal :=
  if s.railsOff || !s.mustTrip then .next s else .next { s.fatal Config.tripSource 2 0 with railsOff := true }

end Limits

section Errors

/-- 24 hours (R447). -/
def dayPicos : Nat := 24 * 3600 * 10 ^ 12

/-- An entry whose page lies on a frame has MIG set (R442, R447). -/
def markFrame (frame : Nat) (x : (Nat × Nat) × DWord) : (Nat × Nat) × DWord :=
  if pteV x.2 && pteLeaf x.2 && meets (pteAddr x.2) (pageBytes x.1.1) (frame * 65536) 65536 then (x.1, x.2 ||| 0x100#64)
  else x

/-- Every page that lies on a frame is to migrate (R442, R447). -/
def State.migrateFrame (s : State) (frame : Nat) : State :=
  { s with contexts := s.contexts.map fun (e : Nat × Context) => (e.1, { e.2 with pt := e.2.pt.map (markFrame frame) }) }

/-- An error in a line of memory (R446, R447): the line is poisoned; a second one in its frame within 24 hours retires the
frame, also in the module's flash (R483). -/
def State.hbmError (s : State) (pa : Nat) : State :=
  let l := pa / 64
  let frame := pa / 65536
  let s := s.poisonLine l
  let second := (s.eccSeen.find frame).any fun t => decide (s.picos - t ≤ dayPicos)
  let s := { s with eccSeen := s.eccSeen.put frame s.picos }
  let here := (s.retired.filter fun f => paStack (f * 65536) == paStack pa).length
  if second && !s.retired.contains frame && decide (here < 8192) then
    let s := { s with
      retiredFrames := s.retiredFrames ++ [Copies.of frame]
      flashRetired := s.flashRetired ++ [frame]
      devCounters := { s.devCounters with frameret := sat64 s.devCounters.frameret } }
    (s.migrateFrame frame).report
      { level := 0, src := 9, ctx := 0xFFFF, queue := 0xFFFF, whereIs := 0xFFFF, sstep := 0, retry := 0, addr := pa, time := 0 }
  else s

/-- A replica's line fails while it is updated (R440): its stack leaves RMASK; other lines of its page that it alone still held
have been put right at home before. -/
def State.dropReplica (s : State) (ctx gva stack : Nat) : State :=
  match (s.ctx ctx).bind fun c => c.page gva with
  | some (l, p, _) =>
    if pteKind p = 2 ∧ (pteRmask p).testBit stack ∧ stack ≠ paStack (pteAddr p) then
      let m := pteRmask p &&& (255 - 2 ^ stack)
      let s := if m = 2 ^ paStack (pteAddr p) then s.repairPage ctx gva else s
      let s := s.modCtx ctx fun c => c.setPte l gva (pteWith p 2 m)
      { s with devCounters := { s.devCounters with repldrop := sat64 s.devCounters.repldrop } }.report
        { level := 0, src := 8, ctx := ctx, queue := 0xFFFF, whereIs := 0xFFFF, sstep := 0, retry := 0
          addr := Config.replicaPa ctx gva stack, time := 0 }
    else s
  | none => s

/-- UNCORRECTABLE_ECC_ERROR (R440, R446, R447). -/
def execUncorrectableEccError (u : EccUnit) (s : State) : Host.Outcome State Fault Refusal :=
  match u with
  | .store c a =>
    if c.exists && c.kind != .control && decide (a < storeTop c) then
      .next (s.poisonWord c (a / 8 * 8))
    else .next s
  | .hbm pa => if paOk pa then .next (s.hbmError pa) else .next s
  | .replica ctx gva stack => .next (s.dropReplica ctx gva stack)

end Errors

end Sys2Proof.Machine
end

