-- ==== Sys2Proof/Machine/Dispatch.lean ====
section
/-! DEFINITION. The one dispatch of the machine: each row of the opcode table to its meaning. -/
namespace Sys2Proof.Machine

/-- What an instruction, or an event, does to the device. -/
def exec (i : Instr) (s : State) : Host.Outcome State Fault Refusal :=
  match i with
  | .nop h => Sys2Proof.Machine.execNop h s
  | .iadd h d a b sat => Sys2Proof.Machine.execIadd h d a b sat s
  | .isub h d a b sat => Sys2Proof.Machine.execIsub h d a b sat s
  | .imul h d a b => Sys2Proof.Machine.execImul h d a b s
  | .imulh h d a b => Sys2Proof.Machine.execImulh h d a b s
  | .imulhz h d a b => Sys2Proof.Machine.execImulhz h d a b s
  | .idiv h d a b => Sys2Proof.Machine.execIdiv h d a b s
  | .idivz h d a b => Sys2Proof.Machine.execIdivz h d a b s
  | .irem h d a b => Sys2Proof.Machine.execIrem h d a b s
  | .iremz h d a b => Sys2Proof.Machine.execIremz h d a b s
  | .iand h d a b => Sys2Proof.Machine.execIand h d a b s
  | .ior h d a b => Sys2Proof.Machine.execIor h d a b s
  | .ixor h d a b => Sys2Proof.Machine.execIxor h d a b s
  | .iandn h d a b => Sys2Proof.Machine.execIandn h d a b s
  | .ishl h d a n => Sys2Proof.Machine.execIshl h d a n s
  | .ishrl h d a n => Sys2Proof.Machine.execIshrl h d a n s
  | .ishra h d a n => Sys2Proof.Machine.execIshra h d a n s
  | .irotl h d a n => Sys2Proof.Machine.execIrotl h d a n s
  | .imin h d a b => Sys2Proof.Machine.execImin h d a b s
  | .imax h d a b => Sys2Proof.Machine.execImax h d a b s
  | .iminz h d a b => Sys2Proof.Machine.execIminz h d a b s
  | .imaxz h d a b => Sys2Proof.Machine.execImaxz h d a b s
  | .iclz h d a => Sys2Proof.Machine.execIclz h d a s
  | .ipop h d a => Sys2Proof.Machine.execIpop h d a s
  | .isel h d a b pc => Sys2Proof.Machine.execIsel h d a b pc s
  | .iaddi h f imm => Sys2Proof.Machine.execIaddi h f imm s
  | .imovi h d imm => Sys2Proof.Machine.execImovi h d imm s
  | .imovhi h d imm => Sys2Proof.Machine.execImovhi h d imm s
  | .icmp h c d a b => Sys2Proof.Machine.execIcmp h c d a b s
  | .padd h d a b => Sys2Proof.Machine.execPadd h d a b s
  | .psub h d a b => Sys2Proof.Machine.execPsub h d a b s
  | .aadd h d a b k sat imm => Sys2Proof.Machine.execAadd h d a b k sat imm s
  | .aadds h d a b k imm => Sys2Proof.Machine.execAadds h d a b k imm s
  | .pset h d src => Sys2Proof.Machine.execPset h d src s
  | .pand h d a b => Sys2Proof.Machine.execPand h d a b s
  | .por h d a b => Sys2Proof.Machine.execPor h d a b s
  | .pxor h d a b => Sys2Proof.Machine.execPxor h d a b s
  | .pnot h d a => Sys2Proof.Machine.execPnot h d a s
  | .br h t => Sys2Proof.Machine.execBr h t s
  | .jmp h a => Sys2Proof.Machine.execJmp h a s
  | .call h d t => Sys2Proof.Machine.execCall h d t s
  | .callInd h d a => Sys2Proof.Machine.execCallInd h d a s
  | .ret h a => Sys2Proof.Machine.execRet h a s
  | .loop h a e => Sys2Proof.Machine.execLoop h a e s
  | .loopi h e count => Sys2Proof.Machine.execLoopi h e count s
  | .halt h => Sys2Proof.Machine.execHalt h s
  | .yield h => Sys2Proof.Machine.execYield h s
  | .crd h d reg => Sys2Proof.Machine.execCrd h d reg s
  | .cwr h a reg => Sys2Proof.Machine.execCwr h a reg s
  | .counterZero h a t => Sys2Proof.Machine.execCounterZero h a t s
  | .trap h imm => Sys2Proof.Machine.execTrap h imm s
  | .xret h next => Sys2Proof.Machine.execXret h next s
  | .ifence h => Sys2Proof.Machine.execIfence h s
  | .brk h imm => Sys2Proof.Machine.execBrk h imm s
  | .wait h d a b imm bound => Sys2Proof.Machine.execWait h d a b imm bound s
  | .waitBoundExpiry core t => Sys2Proof.Machine.execWaitBoundExpiry core t s
  | .capbuild h d a => Sys2Proof.Machine.execCapbuild h d a s
  | .ld h w d a imm => Sys2Proof.Machine.execLd h w d a imm s
  | .st h w b a imm => Sys2Proof.Machine.execSt h w b a imm s
  | .ldv h fmt d a imm => Sys2Proof.Machine.execLdv h fmt d a imm s
  | .stv h t6 b a imm => Sys2Proof.Machine.execStv h t6 b a imm s
  | .ldvs h fmt d a b imm => Sys2Proof.Machine.execLdvs h fmt d a b imm s
  | .stvs h fmt b a c imm => Sys2Proof.Machine.execStvs h fmt b a c imm s
  | .ldvx h fmt k d a b imm => Sys2Proof.Machine.execLdvx h fmt k d a b imm s
  | .stvx h fmt k b a c imm => Sys2Proof.Machine.execStvx h fmt k b a c imm s
  | .ldt h fmt d a b imm rows => Sys2Proof.Machine.execLdt h fmt d a b imm rows s
  | .stt h t6 b a c imm rows => Sys2Proof.Machine.execStt h t6 b a c imm rows s
  | .ldf h rm x d a imm => Sys2Proof.Machine.execLdf h rm x d a imm s
  | .stf h b a imm => Sys2Proof.Machine.execStf h b a imm s
  | .lamo h op el d a b imm => Sys2Proof.Machine.execLamo h op el d a b imm s
  | .lfence h => Sys2Proof.Machine.execLfence h s
  | .lwopen h now log a b imm => Sys2Proof.Machine.execLwopen h now log a b imm s
  | .lwclose h a imm => Sys2Proof.Machine.execLwclose h a imm s
  | .lwdue h a b imm => Sys2Proof.Machine.execLwdue h a b imm s
  | .send h len a b c imm => Sys2Proof.Machine.execSend h len a b c imm s
  | .sendop h op el len a b c imm => Sys2Proof.Machine.execSendop h op el len a b c imm s
  | .subscribe h a b => Sys2Proof.Machine.execSubscribe h a b s
  | .unsubscribe h a => Sys2Proof.Machine.execUnsubscribe h a s
  | .bar h => Sys2Proof.Machine.execBar h s
  | .barq h d => Sys2Proof.Machine.execBarq h d s
  | .chron h d a => Sys2Proof.Machine.execChron h d a s
  | .tlwait h sel a => Sys2Proof.Machine.execTlwait h sel a s
  | .tlread h sel d => Sys2Proof.Machine.execTlread h sel d s
  | .vadd h fmt rm sat d a b => Sys2Proof.Machine.execVadd h fmt rm sat d a b s
  | .vsub h fmt rm sat d a b => Sys2Proof.Machine.execVsub h fmt rm sat d a b s
  | .vmul h fmt rm sat d a b => Sys2Proof.Machine.execVmul h fmt rm sat d a b s
  | .vfma h fmt rm sat d a b c => Sys2Proof.Machine.execVfma h fmt rm sat d a b c s
  | .vfms h fmt rm sat d a b c => Sys2Proof.Machine.execVfms h fmt rm sat d a b c s
  | .vmin h fmt rm sat d a b => Sys2Proof.Machine.execVmin h fmt rm sat d a b s
  | .vmax h fmt rm sat d a b => Sys2Proof.Machine.execVmax h fmt rm sat d a b s
  | .vabs h fmt rm sat d a => Sys2Proof.Machine.execVabs h fmt rm sat d a s
  | .vneg h fmt rm sat d a => Sys2Proof.Machine.execVneg h fmt rm sat d a s
  | .vdiv h fmt rm sat d a b => Sys2Proof.Machine.execVdiv h fmt rm sat d a b s
  | .vsqrt h fmt rm sat d a => Sys2Proof.Machine.execVsqrt h fmt rm sat d a s
  | .vrsq h fmt rm sat d a => Sys2Proof.Machine.execVrsq h fmt rm sat d a s
  | .vexp2 h fmt rm sat d a => Sys2Proof.Machine.execVexp2 h fmt rm sat d a s
  | .vlog2 h fmt rm sat d a => Sys2Proof.Machine.execVlog2 h fmt rm sat d a s
  | .vcmp h fmt c d a b => Sys2Proof.Machine.execVcmp h fmt c d a b s
  | .vsel h fmt d a b c => Sys2Proof.Machine.execVsel h fmt d a b c s
  | .vand h d a b => Sys2Proof.Machine.execVand h d a b s
  | .vor h d a b => Sys2Proof.Machine.execVor h d a b s
  | .vxor h d a b => Sys2Proof.Machine.execVxor h d a b s
  | .vshl h fmt d a n => Sys2Proof.Machine.execVshl h fmt d a n s
  | .vshr h fmt d a n => Sys2Proof.Machine.execVshr h fmt d a n s
  | .vshra h fmt d a n => Sys2Proof.Machine.execVshra h fmt d a n s
  | .vperm h fmt d a b c => Sys2Proof.Machine.execVperm h fmt d a b c s
  | .vbcast h fmt d a => Sys2Proof.Machine.execVbcast h fmt d a s
  | .vshuf h fmt pat d a => Sys2Proof.Machine.execVshuf h fmt pat d a s
  | .vredadd h fmt rm sat d a => Sys2Proof.Machine.execVredadd h fmt rm sat d a s
  | .vredmax h fmt rm d a => Sys2Proof.Machine.execVredmax h fmt rm d a s
  | .vredmin h fmt rm d a => Sys2Proof.Machine.execVredmin h fmt rm d a s
  | .vdot h fmt rm sat d a b c => Sys2Proof.Machine.execVdot h fmt rm sat d a b c s
  | .vmovs h fmt d a lane => Sys2Proof.Machine.execVmovs h fmt d a lane s
  | .vexts h fmt d a lane => Sys2Proof.Machine.execVexts h fmt d a lane s
  | .viota h fmt sat d a imm => Sys2Proof.Machine.execViota h fmt sat d a imm s
  | .vcvt h dst src rm sat part d a => Sys2Proof.Machine.execVcvt h dst src rm sat part d a s
  | .vquant h qf wf d a b => Sys2Proof.Machine.execVquant h qf wf d a b s
  | .vdeq h qf wf rm sat d a b => Sys2Proof.Machine.execVdeq h qf wf rm sat d a b s
  | .vscale h qf wf d a b => Sys2Proof.Machine.execVscale h qf wf d a b s
  | .vtag h t d a => Sys2Proof.Machine.execVtag h t d a s
  | .vtagq h d src => Sys2Proof.Machine.execVtagq h d src s
  | .fadd h rm x sat d a b => Sys2Proof.Machine.execFadd h rm x sat d a b s
  | .fsub h rm x sat d a b => Sys2Proof.Machine.execFsub h rm x sat d a b s
  | .fmul h rm x sat d a b => Sys2Proof.Machine.execFmul h rm x sat d a b s
  | .ffma h rm x sat d a b c => Sys2Proof.Machine.execFfma h rm x sat d a b c s
  | .fdiv h rm x sat d a b => Sys2Proof.Machine.execFdiv h rm x sat d a b s
  | .fsqrt h rm x sat d a => Sys2Proof.Machine.execFsqrt h rm x sat d a s
  | .fabs h rm x sat d a => Sys2Proof.Machine.execFabs h rm x sat d a s
  | .fneg h rm x sat d a => Sys2Proof.Machine.execFneg h rm x sat d a s
  | .fmov h rm x sat d a => Sys2Proof.Machine.execFmov h rm x sat d a s
  | .fround h rm x sat d a => Sys2Proof.Machine.execFround h rm x sat d a s
  | .fscalb h rm x sat d a b => Sys2Proof.Machine.execFscalb h rm x sat d a b s
  | .fcmp h c d a b => Sys2Proof.Machine.execFcmp h c d a b s
  | .fcvtd h rm x sat d a => Sys2Proof.Machine.execFcvtd h rm x sat d a s
  | .fcvts h rm x sat d a => Sys2Proof.Machine.execFcvts h rm x sat d a s
  | .ftod h rm x sat d a => Sys2Proof.Machine.execFtod h rm x sat d a s
  | .ftos h rm x d a => Sys2Proof.Machine.execFtos h rm x d a s
  | .faccv h rm x sat d a b => Sys2Proof.Machine.execFaccv h rm x sat d a b s
  | .fprec h p => Sys2Proof.Machine.execFprec h p s
  | .fldc h rm x sat d src => Sys2Proof.Machine.execFldc h rm x sat d src s
  | .frel h d upto => Sys2Proof.Machine.execFrel h d upto s
  | .flen h d a => Sys2Proof.Machine.execFlen h d a s
  | .fexp h d a => Sys2Proof.Machine.execFexp h d a s
  | .mgang h shape d a b c => Sys2Proof.Machine.execMgang h shape d a b c s
  | .mdesc h a imm => Sys2Proof.Machine.execMdesc h a imm s
  | .mzero h fp64 d => Sys2Proof.Machine.execMzero h fp64 d s
  | .mdrain h rm sat shape a b c imm => Sys2Proof.Machine.execMdrain h rm sat shape a b c imm s
  | .mmeta h a imm => Sys2Proof.Machine.execMmeta h a imm s
  | .mscl h bset a imm => Sys2Proof.Machine.execMscl h bset a imm s
  | .mrowrd h half d a row => Sys2Proof.Machine.execMrowrd h half d a row s
  | .mrowwr h half d a row => Sys2Proof.Machine.execMrowwr h half d a row s
  | .mcolrd h w d a j q => Sys2Proof.Machine.execMcolrd h w d a j q s
  | .mcolwr h w d a j q => Sys2Proof.Machine.execMcolwr h w d a j q s
  | .jointJoin x y nlog => Sys2Proof.Machine.execJointJoin x y nlog s
  | .jointOpComplete x y => Sys2Proof.Machine.execJointOpComplete x y s
  | .gld h fmt dst a c imm => Sys2Proof.Machine.execGld h fmt dst a c imm s
  | .gst h fmt src a c imm => Sys2Proof.Machine.execGst h fmt src a c imm s
  | .gatom h op el d a b c imm => Sys2Proof.Machine.execGatom h op el d a b c imm s
  | .gfence h sc => Sys2Proof.Machine.execGfence h sc s
  | .gacq h wide sc fmt d a c imm => Sys2Proof.Machine.execGacq h wide sc fmt d a c imm s
  | .grel h wide sc fmt a b c imm => Sys2Proof.Machine.execGrel h wide sc fmt a b c imm s
  | .push h f a imm n => Sys2Proof.Machine.execPush h f a imm n s
  | .dpat h a imm => Sys2Proof.Machine.execDpat h a imm s
  | .gref h f d c => Sys2Proof.Machine.execGref h f d c s
  | .globalResponse core t id => Sys2Proof.Machine.execGlobalResponse core t id s
  | .blockLoadComplete core t number => Sys2Proof.Machine.execBlockLoadComplete core t number s
  | .cpypost h d a imm => Sys2Proof.Machine.execCpypost h d a imm s
  | .ovlpost h d a imm => Sys2Proof.Machine.execOvlpost h d a imm s
  | .nwpost h d a imm => Sys2Proof.Machine.execNwpost h d a imm s
  | .qpost h d a b imm => Sys2Proof.Machine.execQpost h d a b imm s
  | .tscore h a => Sys2Proof.Machine.execTscore h a s
  | .tdone h final => Sys2Proof.Machine.execTdone h final s
  | .tround h d => Sys2Proof.Machine.execTround h d s
  | .packetArrival id => Sys2Proof.Machine.execPacketArrival id s
  | .refusalReturn id => Sys2Proof.Machine.execRefusalReturn id s
  | .scoreArrival id => Sys2Proof.Machine.execScoreArrival id s
  | .joinPacket id => Sys2Proof.Machine.execJoinPacket id s
  | .coreArrival x y => Sys2Proof.Machine.execCoreArrival x y s
  | .barrierToken gang x y column => Sys2Proof.Machine.execBarrierToken gang x y column s
  | .memoryTaskArrival stack chan slot => Sys2Proof.Machine.execMemoryTaskArrival stack chan slot s
  | .barrierComplete gang => Sys2Proof.Machine.execBarrierComplete gang s
  | .barrierRelease gang core slot => Sys2Proof.Machine.execBarrierRelease gang core slot s
  | .commitEntryDrain stack chan id => Sys2Proof.Machine.execCommitEntryDrain stack chan id s
  | .retirementSweep gang => Sys2Proof.Machine.execRetirementSweep gang s
  | .taskFrameLoad stack chan slot t => Sys2Proof.Machine.execTaskFrameLoad stack chan slot t s
  | .pageSupplied waiter frame bytes => Sys2Proof.Machine.execPageSupplied waiter frame bytes s
  | .demandFetch core line => Sys2Proof.Machine.execDemandFetch core line s
  | .superstepRollback gang => Sys2Proof.Machine.execSuperstepRollback gang s
  | .watchdog gang => Sys2Proof.Machine.execWatchdog gang s
  | .allowanceExhausted gang => Sys2Proof.Machine.execAllowanceExhausted gang s
  | .roundEnd tour => Sys2Proof.Machine.execRoundEnd tour s
  | .doorbellTailUpdate fn off d => Sys2Proof.Machine.execDoorbellTailUpdate fn off d s
  | .resume ctx q => Sys2Proof.Machine.execResume ctx q s
  | .flush ctx q => Sys2Proof.Machine.execFlush ctx q s
  | .quiesce ctx q => Sys2Proof.Machine.execQuiesce ctx q s
  | .unquiesce ctx q => Sys2Proof.Machine.execUnquiesce ctx q s
  | .launchRecord ctx q => Sys2Proof.Machine.execLaunchRecord ctx q s
  | .gangReserve ctx q => Sys2Proof.Machine.execGangReserve ctx q s
  | .gangStart gang ok => Sys2Proof.Machine.execGangStart gang ok s
  | .tlwaitRecord ctx q => Sys2Proof.Machine.execTlwaitRecord ctx q s
  | .tlwaitRecordComplete ctx q => Sys2Proof.Machine.execTlwaitRecordComplete ctx q s
  | .tlsignal ctx q => Sys2Proof.Machine.execTlsignal ctx q s
  | .copyRecord ctx q => Sys2Proof.Machine.execCopyRecord ctx q s
  | .cond ctx q => Sys2Proof.Machine.execCond ctx q s
  | .loopRecord ctx q => Sys2Proof.Machine.execLoopRecord ctx q s
  | .copyComplete id e => Sys2Proof.Machine.execCopyComplete id e s
  | .overlayLoadComplete id => Sys2Proof.Machine.execOverlayLoadComplete id s
  | .networkPacketArrival ctx p => Sys2Proof.Machine.execNetworkPacketArrival ctx p s
  | .networkAck ctx number => Sys2Proof.Machine.execNetworkAck ctx number s
  | .sackReceived ctx number missing => Sys2Proof.Machine.execSackReceived ctx number missing s
  | .negativeAck ctx number err => Sys2Proof.Machine.execNegativeAck ctx number err s
  | .retransmitTimeout ctx number seq => Sys2Proof.Machine.execRetransmitTimeout ctx number seq s
  | .apertureAccess fn addr len data => Sys2Proof.Machine.execApertureAccess fn addr len data s
  | .configAccess fn r => Sys2Proof.Machine.execConfigAccess fn r s
  | .install ctx object test => Sys2Proof.Machine.execInstall ctx object test s
  | .uninstall ctx handle => Sys2Proof.Machine.execUninstall ctx handle s
  | .rebuildRequest ctx handle => Sys2Proof.Machine.execRebuildRequest ctx handle s
  | .buildStart ctx handle => Sys2Proof.Machine.execBuildStart ctx handle s
  | .buildComplete ctx handle bodyLen => Sys2Proof.Machine.execBuildComplete ctx handle bodyLen s
  | .createContext ctx fn counters injection => Sys2Proof.Machine.execCreateContext ctx fn counters injection s
  | .regionEdit handle node => Sys2Proof.Machine.execRegionEdit handle node s
  | .queueCreate ctx q ring log2n prod group => Sys2Proof.Machine.execQueueCreate ctx q ring log2n prod group s
  | .map ctx gva level pa kind rmask r w => Sys2Proof.Machine.execMap ctx gva level pa kind rmask r w s
  | .unmap ctx gva level => Sys2Proof.Machine.execUnmap ctx gva level s
  | .setKind ctx gva kind rmask => Sys2Proof.Machine.execSetKind ctx gva kind rmask s
  | .migrate ctx gva => Sys2Proof.Machine.execMigrate ctx gva s
  | .migrationSwitch ctx gva pa => Sys2Proof.Machine.execMigrationSwitch ctx gva pa s
  | .pageEviction ctx gvas => Sys2Proof.Machine.execPageEviction ctx gvas s
  | .peerTableSet ctx index addr port target own => Sys2Proof.Machine.execPeerTableSet ctx index addr port target own s
  | .remoteBufferRegister ctx rkey k => Sys2Proof.Machine.execRemoteBufferRegister ctx rkey k s
  | .apertureMap fn off ctx gva len => Sys2Proof.Machine.execApertureMap fn off ctx gva len s
  | .errorInject ctx record => Sys2Proof.Machine.execErrorInject ctx record s
  | .debugRead item => Sys2Proof.Machine.execDebugRead item s
  | .debugResume core t => Sys2Proof.Machine.execDebugResume core t s
  | .checkpointGroupCreate group devices self ctx area areaLen => Sys2Proof.Machine.execCheckpointGroupCreate group devices self ctx area areaLen s
  | .checkpointWrite group step buffers longest peers => Sys2Proof.Machine.execCheckpointWrite group step buffers longest peers s
  | .checkpointManifest group step entries => Sys2Proof.Machine.execCheckpointManifest group step entries s
  | .checkpointRestore group step answering manifest buffers peerShards => Sys2Proof.Machine.execCheckpointRestore group step answering manifest buffers peerShards s
  | .coldstart failStep fenced => Sys2Proof.Machine.execColdstart failStep fenced s
  | .warmstart failStep fenced => Sys2Proof.Machine.execWarmstart failStep fenced s
  | .fwstage image => Sys2Proof.Machine.execFwstage image s
  | .activate => Sys2Proof.Machine.execActivate s
  | .attest nonce => Sys2Proof.Machine.execAttest nonce s
  | .powercap watts => Sys2Proof.Machine.execPowercap watts s
  | .throttleStep => Sys2Proof.Machine.execThrottleStep s
  | .thermalTrip => Sys2Proof.Machine.execThermalTrip s
  | .uncorrectableEccError u => Sys2Proof.Machine.execUncorrectableEccError u s
  | .engineSourceRead ctx p => Sys2Proof.Machine.execEngineSourceRead ctx p s

end Sys2Proof.Machine
end

