-- ==== Sys2Proof/Machine/Timing.lean ====
section
/-! DEFINITION. The cycles of issue (R46, R216, R243, R273, R295, R309, R319, R360 to R364): which registers a group reads
and writes, latencies, the shared units of a core and its port, and the pairs that a native body fuses. Nothing but stall
counters and the clock depends on it (R4). -/
namespace Sys2Proof.Machine

section Registers

/-- A register by class and number. -/
def regName (cls r : Nat) : Nat := 32 * cls + r

/-- The registers that a field of a word names; p0 is none. -/
def useRegs (u : Use) (r : Nat) : List Nat :=
  match u with
  | .none | .par | .sOut => []
  | .s => [regName 0 r]
  | .sp => [regName 0 r, regName 0 (r + 1)]
  | .cas 4 => [regName 0 r, regName 0 (r + 1)]
  | .cas _ => [regName 0 r, regName 0 (r + 1), regName 0 (r + 2), regName 0 (r + 3)]
  | .v => [regName 1 r]
  | .vg n => (List.range n).map fun i => regName 1 (r + i)
  | .f => [regName 2 r]
  | .p => if r = 0 then [] else [regName 3 r]
  | .m => [regName 4 r]
  | .c => [regName 5 r]

/-- What a word reads beside the sources of its form: the register that D names for IMOVHI, VMOVS, SEND and SENDOP with a
length register, MGANG and a block GLD (R222, R256, R283, R312, R324), the vector whose tag VTAGQ takes (R294), and the
Flinum register whose length FLEN gives (R307). -/
def moreReads (f : Fields) (g : Form) : List Nat :=
  let op := f.op.toNat
  let fn := f.fn.toNat
  let lo := f.lo.toNat
  if op = 0x06 ∨ op = 0x7D ∨ op = 0xA0 ∨ ((op = 0x53 ∨ op = 0x54) ∧ lo = 1) ∨ (op = 0xB0 ∧ lo = 7) then
    useRegs g.d f.d.toNat
  else if op = 0x85 ∧ f.x = 0 then [regName 1 f.a.toNat]
  else if op = 0x93 ∧ fn = 3 then [regName 2 f.a.toNat]
  else []

/-- The registers that the group in a word reads, its guard apart. -/
def wordReads (k : CoreKind) (w : IWord) : List Nat :=
  let f := Fields.ofWord w
  match form k f { } with
  | none => []
  | some g =>
    useRegs g.a f.a.toNat ++ useRegs g.b f.b.toNat ++ useRegs g.c f.c.toNat ++ moreReads f g

/-- The predicate that guards the group in a word; p0 is none (R176). -/
def wordGuard (w : IWord) : List Nat := useRegs .p (Fields.ofWord w).pg.toNat

/-- The guard of the group in a word holds. -/
def ThreadSet.guarded (t : ThreadSet) (w : IWord) : Bool :=
  let f := Fields.ofWord w
  t.guard { pg := f.pg.toFin, pn := f.pn == 1 }

/-- D is a source alone: the length of a SEND or SENDOP, the staging address of a block GLD (R256, R324). -/
def sourceD (f : Fields) : Bool := ((f.op == 0x53 || f.op == 0x54) && f.lo == 1) || (f.op == 0xB0 && f.lo == 7)

/-- The registers that the group in a word writes; VQUANT has two destinations (R295). -/
def wordWrites (k : CoreKind) (w : IWord) : List Nat :=
  let f := Fields.ofWord w
  (form k f { }).elim [] fun g =>
    (if sourceD f then [] else useRegs g.d f.d.toNat) ++ (if g.b == .sOut then [regName 0 f.b.toNat] else [])

end Registers

section Latencies

/-- Limbs of a Flinum register at a precision of `ld` limbs; a dead one is read as a zero of that length (R104). -/
def FSlot.limbs (ld : Nat) : FSlot → Nat
  | .dead => ld
  | .resident _ v => v.limbs
  | .spilled l _ => l

def floatFmt : Fmt → Bool
  | .fp64 | .fp32 | .fp16 | .bf16 => true
  | _ => false

/-- A floating-point reduction (R295). -/
def redLatency : Fmt → Nat
  | .fp64 => 7
  | .fp32 => 10
  | .fp16 | .bf16 => 13
  | _ => 4

/-- The Flinum unit's occupancy, spill and refill apart (R309); `lit` is the length of the literal record that FLDC reads;
none for what is no instruction of the unit. -/
def flCycles (t : ThreadSet) (lit : Nat) (i : Instr) : Option Nat :=
  let ld := flLimbs t.prec.toNat
  let l (r : FReg) : Nat := t.f[r].limbs ld
  match i with
  | .fadd _ _ _ _ _ a b | .fsub _ _ _ _ _ a b => some (max (max (l a) (l b)) ld)
  | .fcmp _ _ _ a b => some (max (max (l a) (l b)) ld)
  | .fmov _ _ _ _ _ a | .fabs _ _ _ _ _ a | .fneg _ _ _ _ _ a | .fround _ _ _ _ _ a => some (max (l a) ld)
  | .fscalb _ _ _ _ _ a _ => some (max (l a) ld)
  | .fmul _ _ _ _ _ a b => some ((l a * l b + 1) / 2 + 1)
  | .ffma _ _ _ _ _ a b c => some ((l a * l b + 1) / 2 + 1 + max (l c) ld)
  | .fdiv _ _ _ _ _ _ _ | .fsqrt _ _ _ _ _ _ => some (4 * ld + (ld * ld + 1) / 2)
  | .fcvtd _ _ _ _ _ _ => some (max 2 ld)
  | .fcvts _ _ _ _ _ (.w32 _) => some (max 1 ld)
  | .fcvts _ _ _ _ _ (.w64 _) => some (max 2 ld)
  | .ftod _ _ _ _ _ a => some (max (l a) ld)
  | .ftos _ _ _ _ a => some (max (l a) ld)
  | .fexp _ _ a => some (max (l a) ld)
  | .faccv _ _ _ _ _ a _ => some (max (l a) ld + 2)
  | .fldc _ _ _ _ _ (.imm _) => some 1
  | .fldc _ _ _ _ _ (.literal _ _) => some (2 + lit)
  | _ => none

/-- The latency of an instruction (R216, R243, R295, R309, R319, R330, R359); 1 for those that the manual gives none. -/
def latency (t : ThreadSet) (lit : Nat) (i : Instr) : Nat :=
  let byFmt (f : Fmt) (n m : Nat) : Nat := if floatFmt f then n else m
  match i with
  | .iaddi _ (.w64 _ _) _ | .padd _ _ _ _ | .psub _ _ _ _ | .aadd _ _ _ _ _ _ _ | .aadds _ _ _ _ _ _ => 2
  | .imul _ _ _ _ | .imulh _ _ _ _ | .imulhz _ _ _ _ => 3
  | .idiv _ _ _ _ | .idivz _ _ _ _ | .irem _ _ _ _ | .iremz _ _ _ _ => 18
  | .crd _ _ _ | .tround _ _ | .gref _ _ _ _ | .tlread _ _ _ => 2
  | .ld _ _ _ _ _ => 3
  | .ldv _ _ _ _ _ | .ldvs _ _ _ _ _ _ | .ldt _ _ _ _ _ _ _ => 4
  | .ldvx _ _ _ _ _ _ _ => 5
  | .ldf _ _ _ _ _ _ => 5
  | .lamo _ _ _ _ _ _ _ => 6
  | .chron _ _ _ => 3
  | .vand _ _ _ _ | .vor _ _ _ _ | .vxor _ _ _ _ | .vshl _ _ _ _ _ | .vshr _ _ _ _ _ | .vshra _ _ _ _ _ => 2
  | .vperm _ _ _ _ _ _ | .vbcast _ _ _ _ | .vshuf _ _ _ _ _ | .vsel _ _ _ _ _ _ | .vmovs _ _ _ _ _ | .vexts _ _ _ _ _ => 2
  | .viota _ _ _ _ _ _ | .vtag _ _ _ _ | .vtagq _ _ _ => 2
  | .vadd _ f _ _ _ _ _ | .vsub _ f _ _ _ _ _ | .vmin _ f _ _ _ _ _ | .vmax _ f _ _ _ _ _ => byFmt f 4 2
  | .vabs _ f _ _ _ _ | .vneg _ f _ _ _ _ => byFmt f 4 2
  | .vcmp _ f _ _ _ _ => byFmt f 4 2
  | .vmul _ _ _ _ _ _ _ | .vcvt _ _ _ _ _ _ _ _ | .vdeq _ _ _ _ _ _ _ _ => 4
  | .vfma _ f _ _ _ _ _ _ | .vfms _ f _ _ _ _ _ _ => if f = .fp64 then 5 else 4
  | .vdot _ f _ _ _ _ _ _ => byFmt f 6 4
  | .vscale _ _ _ _ _ _ => 6
  | .vquant _ _ _ _ _ _ | .vrsq _ _ _ _ _ _ | .vexp2 _ _ _ _ _ _ | .vlog2 _ _ _ _ _ _ => 8
  | .vredadd _ f _ _ _ _ | .vredmax _ f _ _ _ | .vredmin _ f _ _ _ => redLatency f
  | .vdiv _ f _ _ _ _ _ | .vsqrt _ f _ _ _ _ => if f = .fp64 then 24 else if f = .fp32 then 14 else 10
  | .mzero _ _ _ | .mrowwr _ _ _ _ _ | .mcolwr _ _ _ _ _ _ => 2
  | .mrowrd _ _ _ _ _ => 3
  | .mcolrd _ _ _ _ _ _ => 4
  | i => (flCycles t lit i).elim 1 (· + 3)

/-- The shared unit that an instruction holds, and for how long: 0 the divider (R216), 1 the vector divide and root unit
(R273), 2 the Flinum unit (R309). The port stands beside them as one number for each thread set or task, from 3 on. -/
def unitUse (t : ThreadSet) (lit : Nat) (i : Instr) : Option (Nat × Nat) :=
  match i with
  | .idiv _ _ _ _ | .idivz _ _ _ _ | .irem _ _ _ _ | .iremz _ _ _ _ => some (0, 18)
  | .vdiv _ f _ _ _ _ _ | .vsqrt _ f _ _ _ _ => some (1, if f = .fp64 then 16 else if f = .fp32 then 8 else 4)
  | i => (flCycles t lit i).map fun n => (2, n)

end Latencies

section Port

def ThreadSet.pairOr0 (t : ThreadSet) (p : SPair) : DWord :=
  match t.readP p with
  | .ok v => v
  | .error _ => 0

def ThreadSet.scalarOr0 (t : ThreadSet) (r : SReg) : Word :=
  match t.readS r with
  | .ok v => v
  | .error _ => 0

def ThreadSet.vectorOr0 (t : ThreadSet) (r : VReg) : VWord :=
  match t.readV r none with
  | .ok v => v
  | .error _ => 0

/-- The ranges that an instruction reaches through the core port, one for each lane, row or record (R46). A post's read of its
command bytes takes no bank cycles there (DEDUCED, log entry 8: R337 speaks of bank conflicts on them, and no rule gives them
cycles of the core port). -/
def State.portRanges (s : State) (w : Who) (i : Instr) : List (Int × Nat) :=
  let t := s.ts w
  let at_ (a : SPair) (imm : Imm) : Int := ea (t.pairOr0 a) imm 0
  let lanes (ps : List Int) (n : Nat) : List (Int × Nat) := ps.map fun p => (p, n)
  match i with
  | .ld _ wd _ a imm => [(at_ a imm, wd.bytes)]
  | .st _ wd _ a imm => [(at_ a imm, wd.bytes)]
  | .ldv _ f _ a imm => [(at_ a imm, if f = .t6 then 24 else 32)]
  | .stv _ t6 _ a imm => [(at_ a imm, if t6 then 24 else 32)]
  | .ldvs _ f _ a b imm | .stvs _ f _ a b imm =>
    lanes (strideAddrs (t.pairOr0 a) imm (t.scalarOr0 b) (32 / (f.width / 8))) (f.width / 8)
  | .ldvx _ f k _ a b imm | .stvx _ f k _ a b imm =>
    lanes (indexAddrs (t.pairOr0 a) imm (t.vectorOr0 b) k.val (32 / (f.width / 8))) (f.width / 8)
  | .ldt _ f _ a b imm r => lanes (rowAddrs (t.pairOr0 a) imm (t.scalarOr0 b) (r.cnt.val + 1)) (if f = .t6 then 48 else 64)
  | .stt _ t6 _ a c imm r => lanes (rowAddrs (t.pairOr0 a) imm (t.scalarOr0 c) (r.cnt.val + 1)) (if t6 then 48 else 64)
  | .ldf _ _ _ _ a imm =>
    let p := at_ a imm
    [(p, 4 + 4 * headLimbs ((s.core w.core).store.readN p.toNat 4))]
  | .stf _ b a imm => [(at_ a imm, 4 + 4 * t.f[b].limbs (flLimbs t.prec.toNat))]
  | .lamo _ _ el _ a _ imm => [(at_ a imm, el.width / 8)]
  | .mdesc _ a imm => [(at_ a imm, 32)]
  | .mmeta _ a imm => [(at_ a imm, 256)]
  | .mscl _ _ a imm => [(at_ a imm, 64)]
  | .mdrain _ _ _ sh a b c imm =>
    lanes (rowAddrs (t.pairOr0 a) imm (t.scalarOr0 b) (sh.cnt.val + 1))
      (512 / (drainTag ((s.core w.core).shared.accs[c]).tag sh.dst).width * sh.dst.width / 8)
  | .wait _ _ a _ imm _ => [(at_ a imm, 8)]
  | .dpat _ a imm => [(at_ a imm, 16)]
  | .gld _ _ (.blk d n) _ _ _ => [((t.scalarOr0 d).toNat, 8 * (n.toNat + 1))]
  | .gst _ _ (.blk b n) _ _ _ => [((t.scalarOr0 b).toNat, 8 * (n.toNat + 1))]
  | .push _ _ a imm n => [(at_ a imm, 8 * (n.toNat + 1))]
  | _ => []

/-- The port cycles that an instruction takes (R46, R319). -/
def State.portCycles (s : State) (w : Who) (i : Instr) : Nat :=
  let rs := s.portRanges w i
  if rs.isEmpty then 0
  else
    let n := bankCycles rs
    match i with
    | .mdesc _ _ _ | .mscl _ _ _ _ => n + 1
    | .mmeta _ _ _ => n + 3
    | .mdrain _ _ _ sh _ _ _ _ => n + 4 + sh.cnt.val
    | _ => n

end Port

section Waiting

/-- The word that a thread set issues next. -/
def State.wordAt (s : State) (w : Who) : Option IWord :=
  let pos := (s.ts w).pc.toNat
  ((s.capsuleOf w).bind fun c => c.lineAt pos).map fun l => lineSlot l (posSlot pos)

/-- The length of the literal record that an instruction reads (R305, R309). -/
def State.litLimbs (s : State) (w : Who) (i : Instr) : Nat :=
  match i, s.capsuleOf w with
  | .fldc _ _ _ _ _ (.literal lines off), some c =>
    match litLine c ((((s.ts w).pc.toNat / 64 : Nat) : Int) + lines.toInt) with
    | .ok l => headLimbs ((litBytes l).drop off.val)
    | .error _ => 1
  | _, _ => 1

/-- The core port is in the bank cycles of an access (R46, R243). -/
def Core.portBusy (k : Core) : Bool := k.units.any fun u => decide (3 ≤ u.1)

/-- The cycles, this one among them, for which accesses of a thread set or task still hold the port (R252). -/
def Core.portLeft (k : Core) (t : Nat) : Nat := (k.units.filter fun u => u.1 == 3 + t).foldl (fun m u => max m u.2) 0

/-- The event for which an instruction waits: the port, a shared unit, or an operand whose result is not there (R216, R243,
R364). The upper slot of a fused pair takes what the lower one has just written, `fwd` (R361); an instruction that its guard
turns off waits for the guard alone (R178). -/
def State.busyFor (s : State) (w : Who) (i : Instr) (fwd : List Nat) : Option Nat :=
  let k := s.core w.core
  let t := s.ts w
  let late (rs : List Nat) : Bool := rs.any fun r => !fwd.contains r && t.waits.any fun e => e.1 == r
  match s.wordAt w with
  | none => none
  | some x =>
    if late (wordGuard x) then some 2
    else if !t.guarded x then none
    else if k.portBusy && !(s.portRanges w i).isEmpty then some 3
    else if (unitUse t (s.litLimbs w i) i).any fun u => k.units.any fun v => v.1 == u.1 then some 2
    else if late (wordReads w.core.kind x) then some 2
    else none

/-- The event for which an instruction does not issue now, in the order of R364: a full send queue or a busy joint array,
which its execution `t` finds, then the port, which its spills and refills want too, then what it reads. -/
def State.heldBy (s t : State) (w : Who) (i : Instr) (fwd : List Nat) : Option Nat :=
  if t.evt = 4 ∨ t.evt = 7 then some t.evt
  else
    match s.busyFor w i fwd with
    | some e => some e
    | none => if (s.core w.core).portBusy && (t.ts w).bubbles.contains 8 then some 3 else none

/-- The second cycle of a voted group comes before any other cycle that its thread set waits (R362). -/
def ThreadSet.voteCycle (t : ThreadSet) : ThreadSet := { t with bubbles := 0x0A :: t.bubbles }

/-- An instruction has issued: its results are there after its latency, and it holds its unit and the port; cycles of spill
and refill are added to each (R46, R216, R243, R309, R362). After LFENCE the thread set waits until its accesses have been
performed (R252). `late` cycles pass before it starts. An instruction that its guard turns off costs its cycles of issue
alone (R178). The port is recorded as busy only where cycles of it remain, so both accesses of a native pair of L and M issue in
one cycle where the lower one takes a single bank cycle (DEDUCED, log entry 8: R45, R243 and R360 do not say that they meet). -/
def State.noteIssue (s before : State) (w : Who) (i : Instr) (late : Nat) : State :=
  let t := before.ts w
  let word := before.wordAt w
  let vote := word.any slotVote
  let s := if vote then s.modTs w ThreadSet.voteCycle else s
  if !word.any t.guarded then s
  else
    let lit := before.litLimbs w i
    let spill := (s.ts w).bubbles.count 8
    let port := before.portCycles w i
    let extra := port - 1 + spill
    let l := latency t lit i + late + extra + (if vote then 2 else 0)
    let rs := word.elim [] (wordWrites w.core.kind)
    let left := match i with
      | .lfence _ => (before.core w.core).portLeft w.t - 1
      | _ => 0
    let s := s.modTs w fun x => { x.delay 3 left with
      waits := (x.waits.filter fun e => !rs.contains e.1) ++ rs.map fun r => (r, l) }
    s.modCore w.core fun k => { k with
      units := k.units ++ (match unitUse t lit i with
        | some u => [(u.1, u.2 + spill)]
        | none => []) ++ (if extra = 0 then [] else [(3 + w.t.val, extra + 1)]) }

/-- A cycle passes for what a list of times counts. -/
def passTimes (xs : List (Nat × Nat)) : List (Nat × Nat) := (xs.filter fun e => decide (1 < e.2)).map fun e => (e.1, e.2 - 1)

end Waiting

section Pairs

/-- A pair that a native body issues in one cycle although its upper slot reads what the lower writes (R361); of the third
kind the upper waits four cycles inside the pipe. -/
def fusedPair (lo hi : Instr) : Option Nat :=
  let guarded (d : PReg) (h : Hdr) : Option Nat := if d ≠ 0 ∧ h.pg = d then some 0 else none
  let addressed (d a : SPair) : Option Nat := if d = a then some 0 else none
  match lo, hi with
  | .pset _ d _, .br h _ | .pset _ d _, .jmp h _ | .pset _ d _, .call h _ _ | .pset _ d _, .callInd h _ _
  | .pset _ d _, .ret h _ => guarded d h
  | .iaddi _ (.w64 d _) _, .ld _ _ _ a _ | .iaddi _ (.w64 d _) _, .st _ _ _ a _ | .iaddi _ (.w64 d _) _, .ldv _ _ _ a _
  | .iaddi _ (.w64 d _) _, .stv _ _ _ a _ => addressed d a
  | .aadd _ d _ _ _ _ _, .ld _ _ _ a _ | .aadd _ d _ _ _ _ _, .st _ _ _ a _ | .aadd _ d _ _ _ _ _, .ldv _ _ _ a _
  | .aadd _ d _ _ _ _ _, .stv _ _ _ a _ => addressed d a
  | _, _ => none

/-- A load and a vector instruction that reads what it loads (R361). -/
def loadAndOperate (kind : CoreKind) (lo : Instr) (hi : IWord) : Bool :=
  match lo with
  | .ldv _ _ d _ _ => opClass (slotOp hi) == some .v && (wordReads kind hi).contains (regName 1 d.val)
  | _ => false

end Pairs

end Sys2Proof.Machine
end

