-- ==== Sys2Proof/Machine/Fetch.lean ====
section
/-! DEFINITION. One issue cycle of a core: the scheduler of R19, fetching and checking a line (R182, R194), decoding in
the order of R193, and the charges of R364; and one cycle of the clock. -/
namespace Sys2Proof.Machine

/-- A gang issues: it runs, no error waits for the ladder, it is not held by a round (R167, R448). -/
def Gang.issues (g : Gang) : Bool :=
  g.phase == .running && g.err.isNone &&
    (match g.rival with
      | .ordinary | .running | .closing => true
      | _ => false)

/-- The release that repeats a superstep has still to reach a thread set or task (R449). -/
def Gang.unrestarted (g : Gang) (w : Who) : Bool :=
  g.restart && g.rels.contains (w.core, if w.core.isMemory then w.t.val else 0)

/-- A thread set may take an issue slot, its operands apart (R18). -/
def State.mayIssue (s : State) (w : Who) : Bool :=
  (match s.gangOf w with
    | some g => g.issues && !g.unrestarted w
    | none => false) && s.awake w

/-- The line at a position as it is entered: the trap of R194 or R188, or the error of R183. -/
def entryStop (c : Capsule) (pos : Nat) : Option Stop :=
  if !posOk pos then some (.trap .target (BitVec.ofNat 32 pos))
  else
    match c.lineAt pos with
    | none => some (.trap .target (BitVec.ofNat 32 pos))
    | some l =>
      if !lineParityOk l then some (.check .parity none pos)
      else (lineBadEntry l).map fun r => .trap .lineform (BitVec.ofNat 32 r)

/-- The instruction at a thread set's position, or what its fetch raises (R193). -/
def State.fetch (s : State) (w : Who) : Except Stop Instr :=
  match s.capsuleOf w with
  | none => .error (.trap .target (s.ts w).pc)
  | some c =>
    let pos := (s.ts w).pc.toNat
    match (if (s.ts w).enter then entryStop c pos else none) with
    | some e => .error e
    | none =>
      match c.lineAt pos with
      | none => .error (.trap .target (s.ts w).pc)
      | some l =>
        match decode w.core.kind (lineSlot l (posSlot pos)) with
        | .ok i => .ok i
        | .error (.illegal r) => .error (.trap .illegal r)
        | .error (.privilege x) => .error (.trap .privilege x)

/-- The cycles of a re-execution (R363). -/
def State.retryCycles (s : State) (w : Who) (i : Instr) : Nat := latency (s.ts w) (s.litLimbs w i) i + 3

/-- What the checker stage and the timing of R360 to R363 make of an instruction that has issued, from the state before it.
An injected mismatch (R452, kind 4) holds a retiring instruction for its re-execution, after which its latency begins anew; a second one in a row blocks the
commit, and the gang consumes the error. -/
def State.issued (s before : State) (w : Who) (i : Instr) (late : Nat) : State :=
  if s.evt ≠ 1 then s
  else
    match before.checkerHit w with
    | none => if (s.ts w).run = .ready then s.noteIssue before w i late else s
    | some (g, j, left) =>
      let fired (s : State) (n : Nat) : State :=
        { s.modGang g fun y => { y with injects := y.injects.modify j fun (x : Inject) => { x with left := x.left - n } } with
          devCounters := { s.devCounters with l1retry := sat64 s.devCounters.l1retry } }
      if 2 ≤ left then
        { (fired before 2).modGang g fun y =>
            { y with err := some .checker, errWhere := coreWhere w.core, errAddr := 0 } with evt := 0x0B }
      else
        ((fired s 1).noteIssue before w i (late + before.retryCycles w i)).modTs w fun t => t.delay 0x0B (before.retryCycles w i)

/-- An access has still to read a byte of a line whose replicas are locked (R151). -/
def State.atLock (s : State) (ctx : Nat) (a : PendGlobal) : Bool :=
  match s.ctx ctx with
  | none => false
  | some c => s.memory.any fun m => m.2.commit.any fun e => e.locked && a.own.zipIdx.any fun o =>
      o.1.isNone && (match c.pa (a.gva + o.2) with
        | some p => (s.entryBytes e).contains p
        | none => false)

/-- The operand that a thread set waits for is a global load that waits at a locked line (R151, R364). -/
def State.lockWait (s : State) (w : Who) : Bool :=
  let rs := (s.wordAt w).elim [] fun x => wordReads w.core.kind x ++ wordWrites w.core.kind x
  (s.gangOf w).any fun g => (s.ts w).answers.any fun a => s.atLock g.ctx a && rs.any fun r =>
    if r < 32 then a.reg.holdsS r else decide (r < 64) && a.reg.holdsV (r - 32)

/-- The next instruction of a thread set: its line is fetched on demand first, event 0x09 (R406); then it is decoded, and
waits for its operands and units (R18, R193). -/
def State.issueNext (s : State) (w : Who) : Host.Outcome State Fault Refusal :=
  match s.lineAbsent w with
  | some l =>
    match s.fetchPoison w l with
    | some a => .next (s.stopped (.check .poison none a))
    | none => .next { s.demandLine w l with evt := 9 }
  | none =>
    match s.fetch w with
    | .error e => .next (s.stopped e)
    | .ok i =>
      match exec i (s.modTs w fun t => { t with enter := false, lineHeld := none }) with
      | .next t =>
        let u := match s.heldBy t w i [] with
          | some e => { s with evt := e }
          | none => t.issued s w i 0
        .next (if u.evt = 2 ∧ s.lockWait w then { u with evt := 0x0C } else u)
      | o => o

/-- One attempt of a thread set to issue: a pending asynchronous trap first (R193, R343), then its next instruction. -/
def State.attempt (s : State) (w : Who) : Host.Outcome State Fault Refusal :=
  let s := { s with who := w }
  let t := s.ts w
  match t.traps with
  | p :: r =>
    if t.inh then s.issueNext w
    else
      let u := (s.setTs w { t with traps := r }).takeTrap w p.cause p.xpc p.xval t.pc
      .next { u.modCore w.core fun k => { k with pairHold := false } with evt := 9 }
  | [] => s.issueNext w

/-- The candidates of a core in the order of R19: the current thread set first while its run count allows it, or while
it is inside a pair (R187). -/
def Core.order (k : Core) (n : Nat) : List Nat :=
  let others := (List.range (n - 1)).map fun i => (k.sched + 1 + i) % n
  if k.schedRun < 64 || k.pairHold then k.sched :: others else others ++ [k.sched]

/-- The task or thread set that stands at index i of a core. -/
def Core.whoAt (k : Core) (c : CoreId) (i : Nat) : Option Who :=
  if c.isMemory then (k.running.toList.getD i none).map fun slot => { core := c, t := Fin.ofNat 16 slot }
  else some { core := c, t := Fin.ofNat 16 i }

/-- An attempt took the issue slot. -/
def tookSlot (s : State) : Bool := s.evt == 1 || s.evt == 0x11 || s.evt == 0x0B

/-- The pairs of the line at a thread set's position (R186). -/
def State.pairsAt (s : State) (w : Who) : List Nat :=
  ((s.capsuleOf w).bind fun c => c.lineAt (s.ts w).pc.toNat).elim [] linePairs

/-- The instruction at a position is the lower slot of a pair, or the upper one. -/
def State.atLower (s : State) (w : Who) : Bool := (s.pairsAt w).contains (posSlot (s.ts w).pc.toNat)
def State.atUpper (s : State) (w : Who) : Bool := (s.pairsAt w).any fun i => i + 1 == posSlot (s.ts w).pc.toNat

/-- The cost of the slot at a position: 2 where its V bit is set (R19, R181). Each slot of a pair that does not issue in one
cycle costs 1 (R360). -/
def State.cost (s : State) (w : Who) : Nat := if (s.wordAt w).any slotVote then 2 else 1

/-- A native body issues the upper slot of a pair with the lower one, where its operands and units are there or the pair is
fused (R187, R360, R361); else it stays for a later cycle. `s` is the state after the lower slot. -/
def State.withUpper (s before : State) (w : Who) : State :=
  let t := before.ts w
  let next : Bool := (s.ts w).pc.toNat == nextPos t.pc.toNat && (s.ts w).run == .ready && !(s.ts w).enter
  if s.evt = 1 ∧ t.native ∧ before.atLower w ∧ next ∧ (s.ts w).bubbles = [] then
    match before.fetch w, s.fetch w with
    | .ok lo, .ok hi =>
      let load := (s.wordAt w).any (loadAndOperate w.core.kind lo)
      let fwd := if load || (fusedPair lo hi).isSome then (before.wordAt w).elim [] (wordWrites w.core.kind) else []
      match exec hi s with
      | .next u =>
        match s.heldBy u w hi fwd with
        | some _ => s
        | none =>
          let u := u.issued s w hi (if load then 4 else 0)
          if tookSlot u then u else s
      | _ => s
    | .ok _, .error e => s.stopped e
    | _, _ => s
  else s

/-- The event of a cycle in which a thread set has issued (R360, R363, R364): the upper slot of a pair that a native body has
split counts as the second cycle of the pair, a re-execution as one, any other as an issue. An upper slot that traps in that cycle
is charged 0x01 (DEDUCED, log entry 8: R19 calls it a group of its own, and R364 gives 0x02 to a second cycle that issues). -/
def State.issueEvent (t before : State) (w : Who) : Nat :=
  if t.evt = 1 ∧ (before.ts w).native ∧ before.atUpper w then 2 else if t.evt = 0x0B then 0x0B else 1

/-- A thread set keeps the turn for the upper slot of its pair, which direct decode issues in the next cycle (R187, R360): the
lower slot has completed, and the set stands at the upper. -/
def State.holdsPair (s before : State) (w : Who) : Bool :=
  let t := before.ts w
  s.evt == 1 && !t.native && before.atLower w && (s.ts w).pc.toNat == nextPos t.pc.toNat

/-- What the turn of a thread set that has taken the issue slot comes to: the upper slot that issues with it, or the turn that
it keeps for it. -/
def State.turnTaken (s before : State) (w : Who) : State :=
  let hold := s.holdsPair before w
  (s.withUpper before w).modCore w.core fun k => { k with pairHold := hold }

/-- The first candidate that can issue does so; the waits met on the way are kept for their charges. -/
def State.choose (s : State) (c : CoreId) : List Nat → List (Nat × Nat) → Host.Outcome State Fault Refusal × List (Nat × Nat)
  | [], waits => (.next s, waits)
  | i :: r, waits =>
    let k := s.core c
    match k.whoAt c i with
    | none => s.choose c r waits
    | some w =>
      if s.mayIssue w then
        match (s.ts w).bubbles with
        | e :: _ => s.choose c r ((i, e) :: waits)
        | [] =>
          let n := if k.sched = i then k.schedRun else 0
          let s' := s.setCore c { k with sched := i, schedRun := n + s.cost w }
          match s'.attempt w with
          | .next t =>
            if tookSlot t then
              (.next (t.turnTaken s' w), (i, t.issueEvent s w) :: waits)
            else
              (t.modCore c fun x => { x with sched := k.sched, schedRun := k.schedRun }).choose c r
                ((i, t.evt) :: waits)
          | o => (o, waits)
      else s.choose c r waits

/-- What a thread set that could be chosen waits for, had it been: the event of its wait, else 0x0D (R364). -/
def State.waitingFor (s : State) (w : Who) : Nat :=
  match (s.ts w).bubbles with
  | e :: _ => e
  | [] =>
    if !(s.ts w).traps.isEmpty && !(s.ts w).inh then 0x0D
    else
      match { s with who := w }.issueNext w with
      | .next t => if tookSlot t || t.evt == 0x0F then 0x0D else t.evt
      | _ => 0x0D

/-- The thread sets of a memory core have started: a gang's release has reached a task there (R365). -/
def Core.started (k : Core) : Bool := k.tasks.toList.any fun x => x.state != .free && x.state != .resident

/-- The event a thread set that did not try to issue is charged (R364). While the port is in its extra bank cycles, 0x03 comes
before the operand waits. A set whose gang waits for the containment ladder, or for the release that repeats a superstep, is
charged 0x0B (DEDUCED, log entry 8). -/
def State.eventOf (s : State) (c : CoreId) (i : Nat) : Nat :=
  match (s.core c).whoAt c i with
  | none => if (s.core c).started then 0x0F else 0
  | some w =>
    match s.gangOf w with
    | none => 0
    | some g =>
      match (s.ts w).run with
      | .idle | .retired => 0
      | .stopped => 0x0F
      | r =>
        if g.rival = .held ∨ g.rival = .heldRetired then 0x0E
        else
          match r with
          | .atBar => 5
          | .atTlwait _ _ => if s.awake w then 0x0D else 6
          | .atWait _ => if s.awake w then 0x0D else 6
          | .parked => 0x0F
          | _ => if g.err.isSome || g.unrestarted w then 0x0B else s.waitingFor w

/-- Charge every thread set of a core for this cycle, from what they stood at before it. -/
def State.chargeAll (s before : State) (c : CoreId) (tried : List (Nat × Nat)) : State :=
  let n := if c.isMemory then 2 else 4
  let port := (before.core c).portBusy
  let event (e : Nat) : Nat := if port && (e == 2 || e == 0x0C || e == 0x0A || e == 0x0D) then 3 else e
  s.modCore c fun k => (List.range n).foldl (fun k i =>
    match tried.find? fun p => p.1 == i with
    | some p => k.charge i (event p.2)
    | none => k.charge i (event (before.eventOf c i))) { k with cycled := true }

/-- A waiting task whose condition is met becomes ready, or runs again where it kept its thread set (R137). -/
def State.wakeTasks (s : State) (c : CoreId) : State :=
  if c.isMemory then
    (List.range 16).foldl (fun s i =>
      let k := s.core c
      let x := k.tasks.toList.getD i { }
      let w : Who := { core := c, t := Fin.ofNat 16 i }
      if (x.state == .waiting || x.state == .bound) && s.awake w then
        let st : TaskState := if x.state = .bound then .running else .ready
        s.setCore c { k with tasks := k.tasks.set! i { x with state := st, since := s.now } }
      else s) s
  else s

/-- An issue cycle begins: words of block loads land at a memory core before its tasks read them (R140), and tasks wake. -/
def State.beginCycle (s : State) (c : CoreId) : State :=
  (if c.isMemory then (List.range 16).foldl (fun (s : State) i => s.landSome { core := c, t := Fin.ofNat 16 i }) s else s).wakeTasks c

/-- A cycle passes for the sets of a core: waits that they had before it, results on their way, busy units (R216, R231). -/
def State.passCycle (s before : State) (c : CoreId) : State :=
  s.modCore c fun k => { k with
    units := passTimes k.units
    ts := k.ts.zipIdx.map fun e =>
      { e.1 with
        waits := passTimes e.1.waits
        bubbles := if ((before.core c).ts.toList.getD e.2 { }).bubbles.isEmpty then e.1.bubbles else e.1.bubbles.drop 1 } }

/-- The issue slot is taken by the second cycle of a voted group (R181, R362). -/
def Core.voting (k : Core) (c : CoreId) : Bool :=
  (k.whoAt c k.sched).any fun w => k.ts[w.t].bubbles.head? == some 0x0A

/-- One issue cycle of a core, at most one in each cycle of the clock. -/
def State.issueCycle (s : State) (c : CoreId) : Host.Outcome State Fault Refusal :=
  if (s.core c).cycled then .next s
  else
    let s := s.beginCycle c
    let k := s.core c
    let order := if k.voting c then [] else k.order (if c.isMemory then 2 else 4)
    match s.choose c order [] with
    | (.next t, tried) => .next ((t.chargeAll s c tried).passCycle s c)
    | (o, _) => o

/-- A cycle is outside a gang's limit while at least one task is parked and every task that has not retired is
(R138, R431). -/
def State.excluded (s : State) (g : Gang) : Bool :=
  !g.tasks.isEmpty && g.taskWhos.all fun w => (s.core w.core).tasks[w.t].state == .parked

/-- The same over the live rivals of a tournament (R172). -/
def State.tourExcluded (s : State) (t : Tour) : Bool :=
  let gs := (t.rivals.filterMap s.gang).filter fun g => g.rival == .running || g.rival == .closing || g.rival == .ordinary
  let ws := gs.flatMap Gang.taskWhos
  !ws.isEmpty && ws.all fun w => (s.core w.core).tasks[w.t].state == .parked

/-- The cores of the package that hold state. -/
def State.coreIds (s : State) : List CoreId :=
  (s.compute.map fun e => CoreId.compute (e.1 % 32) (e.1 / 32)) ++ (s.memory.map fun e => CoreId.memory (e.1 / 32) (e.1 % 32))
    ++ s.control.map fun e => CoreId.control e.1

/-- A core that has had no issue cycle in this cycle of the clock: its sets are charged what they stand at (R365). -/
def State.idleCycle (s : State) (c : CoreId) : State :=
  if (s.core c).cycled then s else (s.chargeAll s c []).passCycle s c

/-- A structure that holds containment state is read (R447): where two copies agree the third is rewritten from them; where
no two do, the read fails. The entries, the repairs, and the first entry that failed. -/
def scrubCopies [DecidableEq α] (xs : List (Copies α)) : List (Copies α) × Nat × Option (Copies α) :=
  (xs.filterMap fun x => x.value.map Copies.of,
   (xs.filter fun x => x.value.isSome && !(x.a == x.b && x.b == x.c)).length,
   xs.find? fun x => x.value.isNone)

/-- The physical address of what a failed entry stands for, from a copy that still holds it, else 0 (R475; DESIGN CHOICE, log
entry 58). -/
def Copies.place (x : Copies α) (addr : α → Nat) : Nat := ((x.a <|> x.b <|> x.c).map addr).getD 0

/-- The address of a poisoned unit. -/
def PoisonUnit.addr : PoisonUnit → Nat
  | .line l => 64 * l
  | .word _ a => a

/-- The structures of R447 are read: repairs count, and three copies that disagree are fatal (R448; that they are read in
every cycle of the clock in which the device serves is a DESIGN CHOICE, log entry 58: a start loads them anew, R483). -/
def State.scrub (s : State) : State :=
  if !s.serving then s
  else
    let p := scrubCopies s.poisonRecords
    let m := scrubCopies s.remaps
    let f := scrubCopies s.retiredFrames
    let failed := p.2.2.map (·.place PoisonUnit.addr) <|> m.2.2.map (·.place (·.1)) <|> f.2.2.map (·.place (· * 65536))
    match failed with
    | some a => s.fatal 7 1 a
    | none =>
      { s with
        poisonRecords := p.1, remaps := m.1, retiredFrames := f.1
        devCounters := { s.devCounters with
          ctlrepair := min (s.devCounters.ctlrepair + (p.2.1 + m.2.1 + f.2.1)) (2 ^ 64 - 1) } }

/-- Copies of an entry are lost, those whose bit of a mask is set (R447). -/
def Copies.spoil (x : Copies α) (mask : Nat) : Copies α :=
  { a := if mask.testBit 0 then none else x.a
    b := if mask.testBit 1 then none else x.b
    c := if mask.testBit 2 then none else x.c }

/-- Copies of an entry of a containment structure go wrong; the next read of it finds out (R447). -/
def State.corrupt (s : State) (which : CopySet) (i mask : Nat) : State :=
  match which with
  | .records => { s with poisonRecords := s.poisonRecords.modify i (·.spoil mask) }
  | .remaps => { s with remaps := s.remaps.modify i (·.spoil mask) }
  | .retired => { s with retiredFrames := s.retiredFrames.modify i (·.spoil mask) }

/-- The cycle counts of gangs and tournaments rise (R431), time passes, and a new cycle begins for every core. -/
def State.countCycle (s : State) : State :=
  let fresh (e : Nat × Core) : Nat × Core := (e.1, { e.2 with cycled := false })
  { s with
    now := s.now + 1
    picos := s.picos + 1000000 / s.clockMhz
    compute := s.compute.map fresh
    memory := s.memory.map fresh
    control := s.control.map fresh
    gangs := s.gangs.map fun e =>
      if (e.2.phase = .running ∨ e.2.phase = .retiring) ∧ e.2.tour = none ∧ ¬ s.excluded e.2 then
        (e.1, { e.2 with cycles := e.2.cycles + 1 }) else e
    tours := s.tours.map fun e =>
      if e.2.live ∧ ¬ s.tourExcluded e.2 then (e.1, { e.2 with cycles := e.2.cycles + 1 }) else e }

/-- One cycle of the clock: every thread set that has not been charged for it is (R365), the structures of R447 are read, the
counts rise, engines do what they have still to do, and a start that runs takes its next step (R483). -/
def State.tickClock (s : State) : State :=
  (s.coreIds.foldl (fun s c => s.idleCycle c) s).scrub.countCycle.settleDeferred.startTick

/-- The literal lines that the instruction of a slot reads (R305). -/
def State.literalLines (s : State) (w : Who) (c : Capsule) (pos : Nat) : List Nat :=
  match (c.lineAt pos).map fun l => lineSlot l (posSlot pos) with
  | none => []
  | some x =>
    match decode w.core.kind x with
    | .ok (.fldc _ _ _ _ _ (.literal lines off)) =>
      let n : Int := ((pos / 64 : Nat) : Int) + lines.toInt
      if n < 0 ∨ !(s.ts w).guarded x then []
      else
        match c.lines[n.toNat]? with
        | none => []
        | some l =>
          (List.range ((off.val + 63 + 4 * headLimbs ((litBytes l).drop off.val)) / 60)).map (n.toNat + ·)
    | _ => []

/-- The lines whose parity a thread set's next step checks (R183): the one it enters, and the literal lines that its
instruction reads, or in a body also the upper slot of its pair (R305, R360). -/
def State.checkedLines (s : State) (w : Who) : List Nat :=
  let t := s.ts w
  let pos := t.pc.toNat
  match s.capsuleOf w with
  | none => []
  | some c =>
    (if t.enter then [pos / 64] else []) ++ s.literalLines w c pos
      ++ (if t.native ∧ s.atLower w then s.literalLines w c (nextPos pos) else [])

/-- The line that a parity error strikes: the one at `addr` where it is checked, else the first that is. -/
def State.struckLine (s : State) (w : Who) (addr : Nat) : Option Nat :=
  let ls := s.checkedLines w
  if ls.contains (addr / 64) then some (addr / 64) else ls.head?

/-- The joined operation that a residue error of a thread set strikes, of a gang whose operations go on (R131). -/
def State.struckOp (s : State) (w : Who) : Option (Nat × JointOp) :=
  match s.gangId w, (s.core w.core).shared.joint.find? fun j => j.joined && j.ts == w.t.val with
  | some g, some j => if s.opLive g j.step then some (g, j) else none
  | _, _ => none

/-- Where an error of each kind can strike: the checker stage takes scalar, vector and Flinum instructions (R363), a vote
a voted one (R181), a line that is entered or read its parity (R183), a joint operation that has joined its columns' residue
(R131), any bank or atomic unit its own (R471), and a compute core of a lockstep gang the comparison of a pair (R472, R473).
A control core runs firmware, which checks itself in the same ways (R448). -/
def State.canErr (s : State) (w : Who) : ErrSrc → Bool
  | .checker => w.core.kind == .control || s.mayIssue w && (match (s.wordAt w).bind fun x => opClass (slotOp x) with
    | some .i | some .v | some .f => true
    | _ => false)
  | .vote => w.core.kind == .control || s.mayIssue w && (s.wordAt w).any slotVote
  | .parity => w.core.kind == .control || s.mayIssue w && !(s.checkedLines w).isEmpty
  | .residue => (s.struckOp w).isSome
  | .bank => (s.gangOf w).any Gang.issues
  | .lockstep => w.core.kind == .compute && (s.gangOf w).any fun g => g.issues && g.lock
  | .poison => false

/-- A first failure: the instruction is executed again (R363, R181), the line fetched again (R183), the group or the
combination computed again (R131, R471). It has no effect but its counts and its cycles: a re-execution holds the thread set,
a combination of a core's own bank its port for two cycles. -/
def State.levelOne (s : State) (w : Who) (src : ErrSrc) (addr : Nat) : State :=
  let counted := { s with devCounters := { s.devCounters with l1retry := sat64 s.devCounters.l1retry } }
  match src with
  | .checker | .vote => counted.modTs w fun t => t.delay 0x0B ((match s.fetch w with
    | .ok i => s.retryCycles w i
    | .error _ => 4))
  | .residue => counted.modCore w.core fun k => k.chargeRetry w.t
  | .parity =>
    match s.gangId w, s.struckLine w addr with
    | some g, some l => counted.modGang g fun x => { x with badLines := (w.core, l) :: x.badLines }
    | _, _ => counted
  | .bank =>
    if addr < Config.gvaLow then s.modCore w.core fun k => { k with units := k.units ++ [(3 + w.t.val, 2)] } else s
  | _ => s

/-- An error of the hardware (log entry 28): a first failure is retried; a second failure, of the retry or of the same line in
the same superstep, and a lockstep mismatch at once, is an error that the gang consumes before anything of it takes place
(R183, R448, R473); in firmware it is fatal (R448). -/
def State.upset (s : State) (w : Who) (src : ErrSrc) (again : Bool) (addr : Nat) : State :=
  if !s.canErr w src then s
  else if w.core.kind = .control then if again then s.fatal src.code 1 0 else s.levelOne w src addr
  else if src = .lockstep then s.consume w src none 0
  else if src = .residue then
    let t := s.levelOne w src addr
    match s.struckOp w with
    | some (g, j) => if again then (t.consume w src none 0).lose g j.step else t
    | none => t
  else if src = .parity then
    let l := (s.struckLine w addr).getD 0
    if again || s.badBefore w l then s.consume w src none (l * 64) else s.levelOne w src addr
  else
    let t := s.levelOne w src addr
    if again then t.consume w src none (if src = .bank then addr else 0) else t

/-- A unit errs twice where no gang can be named (R471): the fault domain of the queue behind the access is torn down. -/
def State.strayUpset (s : State) (ctx q addr : Nat) : State :=
  if (s.queue ctx q).isSome then s.unpinned ctx q 10 addr else s

/-- Who moves next does (log entry 1). -/
def State.turnStep (s : State) : Host.Outcome State Fault Refusal :=
  let s := { s with tick := s.tick + 1 }
  match s.agenda with
  | .event i :: r => exec i { s with agenda := r }
  | .issue c :: r => { s with agenda := r }.issueCycle c
  | .tick :: r => .next { s with agenda := r }.tickClock
  | .upset w src again addr :: r => .next ({ s with agenda := r }.upset w src again addr)
  | .stray ctx q addr :: r => .next ({ s with agenda := r }.strayUpset ctx q addr)
  | .corrupt which i mask :: r => .next ({ s with agenda := r }.corrupt which i mask)
  | .sense i v :: r => .next { s with agenda := r, sensed := s.sensed.put i v }
  | [] =>
    match s.issueCycle s.turn with
    | .next t => .next t.tickClock
    | o => o

section Placing

/-- A line that holds one word in slot 0 and zeros elsewhere: a code line whose slot 0 is a target, with its parity
(R182, R183). -/
def placedLine (w : IWord) : Line :=
  let lo : Nat := if bitParity (w.extractLsb' 0 48) then 1 else 0
  let hi : Nat := if bitParity (w.extractLsb' 48 48) then 1 else 0
  let word : BitVec 512 := BitVec.ofNat 512 (1 + lo * 2 ^ 10 + hi * 2 ^ 11)
  (word <<< 480) ||| w.setWidth 512

/-- The context, capsule and gang that a placed word runs in: one thread set on compute core (0, 0), one memory task in
slot 0 of memory core (0, 0), or one thread set on control core 0. -/
def placedCapsule (w : IWord) : Capsule where
  handle := 1
  level := 3
  state := .native
  depuse := false
  test := true
  lines := [placedLine w]
  entry := 0
  annex := 0xFFFFFFFF
  params := []
  traps := List.replicate 32 0xFFFFFFFF
  base := Config.gvaLow
  bodyBase := 0
  bodyLen := 0
  buildId := 0
  queued := false
  withheld := false

def placedContext (w : IWord) : Context :=
  { fn := 0, local_ := 0, capsules := [placedCapsule w], queues := [(0, { log2n := 6, head := 1, tail := 1 })] }

def placedGang (mem : Bool) : Gang :=
  { ctx := 0, q := 0, idx := 0, launch := 0, capsule := 1, ox := 0, oy := 0, w := 1, h := 1, sets := 1,
    limit := 2 ^ 62, phase := .running, tasks := if mem then [(0, 0, 0)] else [],
    shadowTasks := if mem then [(0, 0, 0)] else [] }

/-- The kind of core a placed word runs on: a memory core for what only a memory core has, a control core for what only
a control core has. -/
def placedKind (w : IWord) : CoreKind :=
  match decode .compute w, decode .memory w, decode .control w with
  | .ok _, _, _ => .compute
  | .error _, .ok _, _ => .memory
  | .error _, .error _, .ok _ => .control
  | .error _, .error _, .error _ => .compute

def placedTs (top : Nat) : ThreadSet := { run := .ready, pwlim := BitVec.ofNat 32 top }

/-- Place a word where the next step fetches: the load that dispatch and a gang's start make (log entry 2). -/
def State.placeWord (s : State) (w : IWord) : State :=
  let kind := placedKind w
  let ts (top : Nat) := (Vector.replicate 16 ({ } : ThreadSet)).set 0 (placedTs top)
  let core : Core := { gang := some 0, scratch := [(placedCapsule w).tagOf 0 0 0], ts := ts Config.lsTop }
  let s := { s with
    agenda := []
    contexts := s.contexts.put 0 (placedContext w)
    gangs := s.gangs.put 0 (placedGang (decide (kind = CoreKind.memory))) }
  match kind with
  | .memory =>
    { s with
      turn := .memory 0 0
      memory := s.memory.put 0
        { scratch := [(placedCapsule w).tagOf 0 0 0]
          ts := ts Config.stagingTop
          running := (Vector.replicate 2 none).set 0 (some 0)
          tasks := (Vector.replicate 16 ({ } : Task)).set 0 { state := .running } } }
  | .control => { s with turn := .control 0, control := s.control.put 0 core }
  | .compute =>
    { s with turn := .compute 0 0, compute := s.compute.put 0 { core with gdim := 0x0101, brect := 0x01010000 } }

end Placing

end Sys2Proof.Machine
end

