-- ==== Sys2Proof/Machine/Step.lean ====
section
/-! DEFINITION. One step of the device. -/
namespace Sys2Proof.Machine

/-- One step: one instruction of one thread set, one event, or one cycle of the clock. -/
def step (s : State) : Host.Outcome State Fault Refusal := s.turnStep

/-- A state whose next step fetches and runs the instruction whose bits are w. -/
def State.withFetchWord (s : State) (_nbits w : Nat) : State := s.placeWord (BitVec.ofNat 96 w)

end Sys2Proof.Machine
end

