-- ==== Sys2Proof/WellFormed.lean ====
section
/-! DEFINITION. Which terms of `Instr` stand for an instruction word of a kind of core: the vote bit, the guard and the
dead marks where R177, R179 and R181 allow them, the operands inside the ranges and register classes of R174 and of
each entry, the core kinds of R189. An event row is well formed as it stands. -/
namespace Sys2Proof

/-- The header fits: a vote only where one may stand, no guard that can never hold, marks only on A, B and C as given
(R177, R179, R181). -/
def Hdr.ok (h : Hdr) (vote a b c : Bool) : Bool :=
  (!h.vote || vote) && !(h.pg == 0 && h.pn) && (!h.dmA || a) && (!h.dmB || b) && (!h.dmC || c)

/-- No guard (R177). -/
def Hdr.bare (h : Hdr) : Bool := h.pg == 0 && !h.pn

def ShiftAmt.isReg : ShiftAmt → Bool
  | .reg _ => true
  | .imm _ => false

def VShiftAmt.isReg : VShiftAmt → Bool
  | .reg _ => true
  | .imm _ => false

def PsetSrc.hasA : PsetSrc → Bool
  | .const _ => false
  | _ => true

def PsetSrc.hasB : PsetSrc → Bool
  | .cmp _ _ _ => true
  | _ => false

/-- ROW + CNT must not exceed 31 (R248). -/
def TileRows.ok (r : TileRows) : Bool := decide (r.row.val + r.cnt.val ≤ 31)

/-- The register of an 8-byte element is an even pair (R174). -/
def elemReg (el : Elem) (r : Option SReg) : Bool :=
  match r with
  | some r => el.bytes != 8 || r.val % 2 == 0
  | none => true

/-- The registers of a CAS exist, and it returns (R325). -/
def casOk (op : BankOp) (el : Elem) (d : Option SReg) (b : SReg) : Bool :=
  op != .cas || (d.isSome && (if el.bytes = 8 then decide (b.val < 29) else decide (b.val < 31)))

/-- The scalar of an FP64 lane is an even pair (R281, R283, R285). -/
def laneReg (fmt : Fmt) (r : SReg) : Bool := fmt != .fp64 || r.val % 2 == 0

def ShufPat.hasB : ShufPat → Bool
  | .ilo _ | .ihi _ | .even _ | .odd _ => true
  | _ => false

/-- A rotation stays below the lane count (R282). -/
def ShufPat.ok (p : ShufPat) (fmt : Fmt) : Bool :=
  match p with
  | .rot n => decide (n.val < fmt.lanes)
  | _ => true

def TagSrc.isVec : TagSrc → Bool
  | .vec _ => true
  | _ => false

def PrecSrc.isReg : PrecSrc → Bool
  | .reg _ => true
  | .imm _ => false

/-- A precision from 8 to 512 (R304). -/
def PrecSrc.ok : PrecSrc → Bool
  | .reg _ => true
  | .imm p => decide (8 ≤ p.val) && decide (p.val ≤ 512)

/-- A record's header lies at a multiple of 4 (R305). -/
def LdcSrc.ok : LdcSrc → Bool
  | .imm _ => true
  | .literal _ off => off.val % 4 == 0

/-- The 8-byte scalar forms name an even pair (R324). -/
def GldDst.ok : GldDst → Bool
  | .scalar .b64 d => d.val % 2 == 0
  | _ => true

def GstSrc.ok : GstSrc → Bool
  | .scalar .b64 b => b.val % 2 == 0
  | _ => true

def PushForm.hasB : PushForm → Bool
  | .deal => false
  | _ => true

def PushForm.hasC : PushForm → Bool
  | .direct _ _ => true
  | _ => false

/-- A control register of this kind of core (R348, R349). -/
def regFor (k : CoreKind) (n : Nat) : Bool :=
  match regClass n with
  | .unassigned => false
  | .reg kinds => kinds.contains k

/-- The well-formed terms. -/
def WellFormed (k : CoreKind) : Instr → Bool
  | .nop h => h.ok false false false false
  | .iadd h _ _ _ _ => h.ok true true true false
  | .isub h _ _ _ _ => h.ok true true true false
  | .imul h _ _ _ => h.ok true true true false
  | .imulh h _ _ _ => h.ok true true true false
  | .imulhz h _ _ _ => h.ok true true true false
  | .idiv h _ _ _ => h.ok true true true false
  | .idivz h _ _ _ => h.ok true true true false
  | .irem h _ _ _ => h.ok true true true false
  | .iremz h _ _ _ => h.ok true true true false
  | .iand h _ _ _ => h.ok true true true false
  | .ior h _ _ _ => h.ok true true true false
  | .ixor h _ _ _ => h.ok true true true false
  | .iandn h _ _ _ => h.ok true true true false
  | .imin h _ _ _ => h.ok true true true false
  | .imax h _ _ _ => h.ok true true true false
  | .iminz h _ _ _ => h.ok true true true false
  | .imaxz h _ _ _ => h.ok true true true false
  | .ishl h _ _ n => h.ok true true n.isReg false
  | .ishrl h _ _ n => h.ok true true n.isReg false
  | .ishra h _ _ n => h.ok true true n.isReg false
  | .irotl h _ _ n => h.ok true true n.isReg false
  | .iclz h _ _ => h.ok true true false false
  | .ipop h _ _ => h.ok true true false false
  | .isel h _ _ _ _ => h.ok true true true false
  | .iaddi h _ _ => h.ok true true false false
  | .imovi h _ _ => h.ok true false false false
  | .imovhi h _ _ => h.ok true false false false
  | .icmp h _ _ _ _ => h.ok true true true false
  | .padd h _ _ _ => h.ok true true true false
  | .psub h _ _ _ => h.ok true true true false
  | .aadd h _ _ _ _ _ _ => h.ok true true true false
  | .aadds h _ _ _ _ _ => h.ok true true true false
  | .pset h _ src => h.ok true src.hasA src.hasB false
  | .pand h _ _ _ => h.ok true false false false
  | .por h _ _ _ => h.ok true false false false
  | .pxor h _ _ _ => h.ok true false false false
  | .pnot h _ _ => h.ok true false false false
  | .br h _ => h.ok false false false false
  | .jmp h _ => h.ok false true false false
  | .call h _ _ => h.ok false false false false
  | .callInd h _ _ => h.ok false true false false
  | .ret h _ => h.ok false true false false
  | .loop h _ _ => h.ok false true false false && h.bare
  | .loopi h _ _ => h.ok false false false false && h.bare
  | .halt h => h.ok false false false false && h.bare
  | .yield h => h.ok false false false false
  | .crd h d reg => h.ok false false false false && regFor k reg.toNat && (!regWide reg.toNat || d.val % 2 == 0)
  | .cwr h _ reg => h.ok false true false false && regFor k reg.toNat && (regControlWord reg.toNat).isNone
  | .counterZero h _ t => h.ok false true false false && regFor k (0x100 + 0x40 * t.val)
  | .trap h _ => h.ok false false false false
  | .xret h _ => h.ok false false false false && h.bare
  | .ifence h => h.ok false false false false
  | .brk h _ => h.ok false false false false
  | .wait h _ _ _ _ _ => h.ok false true true false
  | .capbuild h _ _ => h.ok false true false false && k == .control
  | .ld h w d _ _ => h.ok false true false false && (w != .b64 || d.val % 2 == 0)
  | .st h w b _ _ => h.ok false true true false && (w != .b64 || b.val % 2 == 0)
  | .ldv h fmt _ _ _ => h.ok false true false false && fmt != .ut
  | .stv h _ _ _ _ => h.ok false true true false
  | .ldvs h fmt _ _ _ _ => h.ok false true true false && strideFmtOk fmt
  | .stvs h fmt _ _ _ _ => h.ok false true true true && strideFmtOk fmt
  | .ldvx h fmt _ _ _ _ _ => h.ok false true true false && gatherFmtOk fmt
  | .stvx h fmt _ _ _ _ _ => h.ok false true true true && gatherFmtOk fmt
  | .ldt h fmt _ _ _ _ rows => h.ok false true true false && k == .compute && fmt != .ut && fmt != .e8 && rows.ok
  | .stt h _ _ _ _ _ rows => h.ok false true false true && k == .compute && rows.ok
  | .ldf h _ _ _ _ _ => h.ok false true false false && k == .compute
  | .stf h _ _ _ => h.ok false true true false && k == .compute
  | .lamo h op el d _ b _ => h.ok false true true false && bankPairOk op.code el.code && elemReg el d && elemReg el (some b)
  | .lfence h => h.ok false false false false
  | .lwopen h _ _ _ _ _ => h.ok false true true false && k == .compute
  | .lwclose h _ _ => h.ok false true false false && k == .compute
  | .lwdue h _ _ _ => h.ok false true true false && k == .compute
  | .send h _ _ _ _ _ => h.ok false true true true && k == .compute
  | .sendop h op el _ _ _ _ _ => h.ok false true true true && k == .compute && bankPairOk op.code el.code
  | .subscribe h _ _ => h.ok false true true false && k == .compute
  | .unsubscribe h _ => h.ok false true false false && k == .compute
  | .bar h => h.ok false false false false && h.bare
  | .barq h _ => h.ok false false false false
  | .chron h _ _ => h.ok false true false false && k == .compute
  | .tlwait h sel _ => h.ok false true false false && selOk k sel.val
  | .tlread h sel _ => h.ok false false false false && selOk k sel.val
  | .vadd h fmt rm _ _ _ _ => h.ok true true true false && vecFmtOk 0x60 fmt && (!fmt.isInt || rm == .rne)
  | .vsub h fmt rm _ _ _ _ => h.ok true true true false && vecFmtOk 0x61 fmt && (!fmt.isInt || rm == .rne)
  | .vmul h fmt rm _ _ _ _ => h.ok true true true false && vecFmtOk 0x62 fmt && (!fmt.isInt || rm == .rne)
  | .vfma h fmt _ _ _ _ _ _ => h.ok true true true true && vecFmtOk 0x63 fmt
  | .vfms h fmt _ _ _ _ _ _ => h.ok true true true true && vecFmtOk 0x64 fmt
  | .vmin h fmt rm sat _ _ _ => h.ok true true true false && vecFmtOk 0x65 fmt && (!fmt.isInt || rm == .rne) && (!fmt.isInt || !sat)
  | .vmax h fmt rm sat _ _ _ => h.ok true true true false && vecFmtOk 0x66 fmt && (!fmt.isInt || rm == .rne) && (!fmt.isInt || !sat)
  | .vabs h fmt rm _ _ _ => h.ok true true false false && vecFmtOk 0x67 fmt && (!fmt.isInt || rm == .rne)
  | .vneg h fmt rm _ _ _ => h.ok true true false false && vecFmtOk 0x68 fmt && (!fmt.isInt || rm == .rne)
  | .vdiv h fmt _ _ _ _ _ => h.ok true true true false && vecFmtOk 0x69 fmt
  | .vsqrt h fmt _ _ _ _ => h.ok true true false false && vecFmtOk 0x6A fmt
  | .vrsq h fmt rm _ _ _ => h.ok true true false false && vecFmtOk 0x6B fmt && (fmt != .fp32 || rm == .rne)
  | .vexp2 h fmt rm _ _ _ => h.ok true true false false && vecFmtOk 0x6C fmt && (fmt != .fp32 || rm == .rne)
  | .vlog2 h fmt rm _ _ _ => h.ok true true false false && vecFmtOk 0x6D fmt && (fmt != .fp32 || rm == .rne)
  | .vcmp h fmt c _ _ _ => h.ok true true true false && vecFmtOk 0x6E fmt && (!fmt.isInt || (c != .un && c != .or))
  | .vsel h fmt _ _ _ _ => h.ok true true true true && vecFmtOk 0x6F fmt
  | .vand h _ _ _ => h.ok true true true false
  | .vor h _ _ _ => h.ok true true true false
  | .vxor h _ _ _ => h.ok true true true false
  | .vshl h fmt _ _ n => h.ok true true n.isReg false && vecFmtOk 0x73 fmt
  | .vshr h fmt _ _ n => h.ok true true n.isReg false && vecFmtOk 0x74 fmt
  | .vshra h fmt _ _ n => h.ok true true n.isReg false && vecFmtOk 0x75 fmt
  | .vperm h fmt _ _ _ _ => h.ok true true true true && vecFmtOk 0x76 fmt
  | .vbcast h fmt _ a => h.ok true true false false && vecFmtOk 0x77 fmt && laneReg fmt a
  | .vshuf h fmt pat _ _ => h.ok true true pat.hasB false && vecFmtOk 0x78 fmt && pat.ok fmt
  | .vredadd h fmt rm _ d _ => h.ok true true false false && vecFmtOk 0x79 fmt && (!fmt.isInt || rm == .rne) && laneReg fmt d
  | .vredmax h fmt rm d _ => h.ok true true false false && vecFmtOk 0x7A fmt && (!fmt.isInt || rm == .rne) && laneReg fmt d
  | .vredmin h fmt rm d _ => h.ok true true false false && vecFmtOk 0x7B fmt && (!fmt.isInt || rm == .rne) && laneReg fmt d
  | .vdot h fmt rm _ _ _ _ _ => h.ok true true true true && vecFmtOk 0x7C fmt && (!fmt.isInt || rm == .rne)
  | .vmovs h fmt _ a lane => h.ok true true false false && vecFmtOk 0x7D fmt && laneReg fmt a && decide (lane.val < fmt.lanes)
  | .vexts h fmt d _ lane => h.ok true true false false && vecFmtOk 0x7E fmt && laneReg fmt d && decide (lane.val < fmt.lanes)
  | .viota h fmt _ _ _ _ => h.ok true true false false && vecFmtOk 0x7F fmt
  | .vcvt h dst src rm _ part _ _ => h.ok true true false false && cvtOk dst src && (!cvtExact dst src || rm == .rne) && decide (part.val < cvtParts dst src)
  | .vquant h qf wf _ a _ => h.ok true true false false && quantFmtOk qf && a.val % wf.group == 0
  | .vdeq h qf wf _ _ d _ _ => h.ok true true true false && quantFmtOk qf && d.val % wf.group == 0
  | .vscale h qf wf _ a _ => h.ok true true true false && quantFmtOk qf && a.val % wf.group == 0
  | .vtag h _ _ _ => h.ok true true false false
  | .vtagq h _ src => h.ok true false false false && (k != .memory || src.isVec)
  | .fadd h _ _ _ _ _ _ => h.ok true true true false && k == .compute
  | .fsub h _ _ _ _ _ _ => h.ok true true true false && k == .compute
  | .fmul h _ _ _ _ _ _ => h.ok true true true false && k == .compute
  | .fdiv h _ _ _ _ _ _ => h.ok true true true false && k == .compute
  | .ffma h _ _ _ _ _ _ _ => h.ok true true true true && k == .compute
  | .fsqrt h _ _ _ _ _ => h.ok true true false false && k == .compute
  | .fabs h _ _ _ _ _ => h.ok true true false false && k == .compute
  | .fneg h _ _ _ _ _ => h.ok true true false false && k == .compute
  | .fmov h _ _ _ _ _ => h.ok true true false false && k == .compute
  | .fround h _ _ _ _ _ => h.ok true true false false && k == .compute
  | .fscalb h _ _ _ _ _ _ => h.ok true true true false && k == .compute
  | .fcmp h _ _ _ _ => h.ok true true true false && k == .compute
  | .fcvtd h _ _ _ _ _ => h.ok true true false false && k == .compute
  | .fcvts h _ _ _ _ _ => h.ok true true false false && k == .compute
  | .ftod h _ _ _ _ _ => h.ok true true false false && k == .compute
  | .ftos h _ _ _ _ => h.ok true true false false && k == .compute
  | .faccv h _ _ _ _ _ _ => h.ok true true true false && k == .compute
  | .fprec h p => h.ok false p.isReg false false && k == .compute && p.ok
  | .fldc h _ _ _ _ src => h.ok false false false false && k == .compute && src.ok
  | .frel h d upto => h.ok false false false false && k == .compute && upto.all (fun a => decide (d ≤ a))
  | .flen h _ _ => h.ok false false false false && k == .compute
  | .fexp h _ _ => h.ok false true false false && k == .compute
  | .mgang h s _ _ _ _ => h.ok false false true true && k == .compute && h.bare && gangShapeOk s
  | .mdesc h _ _ => h.ok false true false false && k == .compute
  | .mzero h _ _ => h.ok false false false false && k == .compute
  | .mdrain h _ _ s _ _ _ _ => h.ok false true true false && k == .compute && drainShapeOk s
  | .mmeta h _ _ => h.ok false true false false && k == .compute
  | .mscl h _ _ _ => h.ok false true false false && k == .compute
  | .mrowrd h _ _ _ _ => h.ok false false false false && k == .compute
  | .mrowwr h _ _ _ _ => h.ok false true false false && k == .compute
  | .mcolrd h w _ _ j q => h.ok false false false false && k == .compute && decide (j.val < w.columns) && decide (q.val < w.groups)
  | .mcolwr h w _ _ j q => h.ok false true false false && k == .compute && decide (j.val < w.columns) && decide (q.val < w.groups)
  | .gld h fmt dst _ _ _ => h.ok false true false false && k == .memory && fmt != .ut && dst.ok
  | .gst h fmt src _ _ _ => h.ok false true true false && k == .memory && fmt != .ut && src.ok
  | .gatom h op el d _ b _ _ => h.ok false true true false && k == .memory && atomPairOk op.code el.code && elemReg el d && elemReg el (some b) && casOk op el d b
  | .gfence h _ => h.ok false false false false && k == .memory
  | .gacq h wide _ fmt d _ _ _ => h.ok false true false false && k == .memory && fmt != .ut && (!wide || d.val % 2 == 0)
  | .grel h wide _ fmt _ b _ _ => h.ok false true true false && k == .memory && fmt != .ut && (!wide || b.val % 2 == 0)
  | .push h f _ _ _ => h.ok false true f.hasB f.hasC && k == .memory
  | .dpat h _ _ => h.ok false true false false && k == .memory
  | .gref h _ _ _ => h.ok false false false false && k == .memory
  | .cpypost h _ _ _ => h.ok false true false false
  | .ovlpost h _ _ _ => h.ok false true false false
  | .nwpost h _ _ _ => h.ok false true false false
  | .qpost h _ _ _ _ => h.ok false true true false
  | .tscore h _ => h.ok false true false false && k == .compute
  | .tdone h _ => h.ok false false false false && k == .compute
  | .tround h _ => h.ok false false false false && k == .compute
  | .waitBoundExpiry _ _ => true
  | .jointJoin _ _ _ => true
  | .jointOpComplete _ _ => true
  | .globalResponse _ _ _ => true
  | .blockLoadComplete _ _ _ => true
  | .packetArrival _ => true
  | .refusalReturn _ => true
  | .scoreArrival _ => true
  | .joinPacket _ => true
  | .coreArrival _ _ => true
  | .barrierToken _ _ _ _ => true
  | .memoryTaskArrival _ _ _ => true
  | .barrierComplete _ => true
  | .barrierRelease _ _ _ => true
  | .commitEntryDrain _ _ _ => true
  | .retirementSweep _ => true
  | .taskFrameLoad _ _ _ _ => true
  | .pageSupplied _ _ _ => true
  | .demandFetch _ _ => true
  | .superstepRollback _ => true
  | .watchdog _ => true
  | .allowanceExhausted _ => true
  | .roundEnd _ => true
  | .doorbellTailUpdate _ _ _ => true
  | .resume _ _ => true
  | .flush _ _ => true
  | .quiesce _ _ => true
  | .unquiesce _ _ => true
  | .launchRecord _ _ => true
  | .gangReserve _ _ => true
  | .gangStart _ _ => true
  | .tlwaitRecord _ _ => true
  | .tlwaitRecordComplete _ _ => true
  | .tlsignal _ _ => true
  | .copyRecord _ _ => true
  | .cond _ _ => true
  | .loopRecord _ _ => true
  | .copyComplete _ _ => true
  | .overlayLoadComplete _ => true
  | .networkPacketArrival _ _ => true
  | .networkAck _ _ => true
  | .sackReceived _ _ _ => true
  | .negativeAck _ _ _ => true
  | .retransmitTimeout _ _ _ => true
  | .apertureAccess _ _ _ _ => true
  | .configAccess _ _ => true
  | .install _ _ _ => true
  | .uninstall _ _ => true
  | .rebuildRequest _ _ => true
  | .buildStart _ _ => true
  | .buildComplete _ _ _ => true
  | .createContext _ _ _ _ => true
  | .regionEdit _ _ => true
  | .queueCreate _ _ _ _ _ _ => true
  | .map _ _ _ _ _ _ _ _ => true
  | .unmap _ _ _ => true
  | .setKind _ _ _ _ => true
  | .migrate _ _ => true
  | .migrationSwitch _ _ _ => true
  | .pageEviction _ _ => true
  | .peerTableSet _ _ _ _ _ _ => true
  | .remoteBufferRegister _ _ _ => true
  | .apertureMap _ _ _ _ _ => true
  | .errorInject _ _ => true
  | .debugRead _ => true
  | .debugResume _ _ => true
  | .checkpointGroupCreate _ _ _ _ _ _ => true
  | .checkpointWrite _ _ _ _ _ => true
  | .checkpointManifest _ _ _ => true
  | .checkpointRestore _ _ _ _ _ _ => true
  | .coldstart _ _ => true
  | .warmstart _ _ => true
  | .fwstage _ => true
  | .activate => true
  | .attest _ => true
  | .powercap _ => true
  | .throttleStep => true
  | .thermalTrip => true
  | .uncorrectableEccError _ => true
  | .engineSourceRead _ _ => true

end Sys2Proof
end

