-- ==== Sys2Proof/Safety.lean ====
section
/-! DEFINITION. The terms claims are made in: an instruction that executes, the state it leaves, and what a run keeps. -/
namespace Sys2Proof.Machine

/-- How an instruction, or a step, ends. -/
abbrev Result := Host.Outcome State Fault Refusal

/-- The registers of the thread set that executes. -/
def State.me (s : State) : ThreadSet := s.ts s.who

/-- The core of the thread set that executes. -/
def State.here (s : State) : Core := s.core s.who.core

/-- The guard of an instruction holds (R176). -/
def State.on (s : State) (h : Hdr) : Prop := s.me.guard h = true

/-- The instruction retires, and the state it left is s. -/
def State.done (s : State) : Result := .next (s.retire .seq)

/-- The instruction retires, and its whole effect is that its thread set's registers are t. -/
def State.becomes (s : State) (t : ThreadSet) : Result := (s.setTs s.who t).done

/-- The instruction retires, and control passes to a position. -/
def State.goes (s : State) (p : Nat) (leaves : Bool) : Result := .next (s.retire (.jump p leaves))

/-- The instruction traps: trap entry with a cause and XVAL at its own position. -/
def State.traps (s : State) (c : Cause) (xval : Word) : Result := .next (s.stopped (.trap c xval))

/-- An instruction of two scalar sources and one scalar destination reads x and y. -/
def ThreadSet.has2 (t : ThreadSet) (d a b : SReg) (x y : Word) : Prop :=
  t.readS a = .ok x ∧ t.readS b = .ok y ∧ t.freeS d = .ok ()

def ThreadSet.has1 (t : ThreadSet) (d a : SReg) (x : Word) : Prop := t.readS a = .ok x ∧ t.freeS d = .ok ()

/-- An instruction of pairs reads x and y. -/
def ThreadSet.hasP (t : ThreadSet) (d a b : SPair) (x y : DWord) : Prop :=
  t.readP a = .ok x ∧ t.readP b = .ok y ∧ t.freeP d = .ok ()

/-- Dead marks of scalar sources (R179). -/
def ThreadSet.dead2 (t : ThreadSet) (h : Hdr) (a b : SReg) : ThreadSet := (t.killS h.dmA a).killS h.dmB b

/-- An instruction of two vector sources of a format and one vector destination reads x and y. -/
def ThreadSet.hasV (t : ThreadSet) (fmt : Fmt) (d a b : VReg) (x y : VWord) : Prop :=
  t.readV a (some fmt) = .ok x ∧ t.readV b (some fmt) = .ok y ∧ t.freeV d = .ok ()

/-- The bits that an element of a tag has in its lane (R266). -/
def Fmt.elementBits (f : Fmt) : Nat := if f = .t6 then 6 else f.width

/-- The instruction retires with registers t, but that vector register d holds f i in each lane i of a format, with its
tag, and FSTAT has the flags of the lanes. -/
def State.lanewise (s : State) (r : Result) (t : ThreadSet) (fmt : Fmt) (d : VReg) (f : Nat → Coded) : Prop :=
  ∃ v : VWord, r = s.becomes ((t.putV d v fmt).flag ((List.range fmt.lanes).foldl (fun fl i => fl ||| (f i).2) 0)) ∧
    ∀ i, i < fmt.lanes → laneAt v fmt.width i = (f i).1 % 2 ^ Fmt.elementBits fmt

/-- A Flinum instruction with result f[d] can run (R103, R297): its sources are live or read as zero, the spilled ones are
refilled, and the value that `form` gives, rounded to y with flags fl, finds its run of the window. `after` is the state
with y written. -/
def State.flinum (s : State) (d : FReg) (srcs : List (FReg × Bool)) (rm : RmCode) (x sat : Bool)
    (form : RmCode → List Num → Exact) (fl : Word) (after : State) : Prop :=
  ∃ (s1 : State) (y : Flinum), (∀ e ∈ srcs, s.me.checkF e.1 = .ok ()) ∧
    s.refill s.who (d :: srcs.map (·.1)) (srcs.map (·.1)) = .ok s1 ∧
    (let t := s1.ts s.who
    let vs := srcs.map fun e => flNum (t.valF e.1)
    let r := form (t.mode rm) vs
    flFinish t.prec.toNat (t.mode rm) x sat { r with inf := r.inf || vs.any Num.isInf } = .ok (y, fl)) ∧
    s1.writeF s.who d srcs y = .ok after

/-- A Flinum instruction without a Flinum result can read its sources (R103): t is the thread set once they are in the
window, s1 the state. -/
def State.flinumIn (s : State) (srcs : List (FReg × Bool)) (s1 : State) (t : ThreadSet) : Prop :=
  (∀ e ∈ srcs, s.me.checkF e.1 = .ok ()) ∧ s.refill s.who (srcs.map (·.1)) (srcs.map (·.1)) = .ok s1 ∧ t = s1.ts s.who

/-- A global access of the thread set's gang goes on (R438, R442): every page it touches is translated with the right it
needs, none parks the task, and a store meets no page that migrates. -/
def State.reaches (s : State) (g : Gang) (gva n : Nat) (wr : Bool) : Prop :=
  s.gangOf s.who = some g ∧ s.rangeReach s.who g.ctx wr (pageStarts gva n) = .ok ∧
    (wr = true → s.rangeMigrating g.ctx gva n = false)

/-- The state once the access is let through: pages read from home are read from there no longer (R438). -/
def State.through (s : State) : State :=
  s.modCore s.who.core fun k =>
    { k with tasks := k.tasks.set s.who.t { k.tasks[s.who.t] with homePages := [] } }

/-- The instruction is not the last of a loop pass whose first position is refused (R188, R234): retiring it traps
nothing. -/
def State.passes (s : State) : Prop :=
  s.me.inh = true ∨ ∀ f ls, loopEnd (s.refusesTarget s.who) s.me.pc s.me.loops ≠ .refused f ls

/-- From s to t the device outside the thread set that executes is as it was, the counts of its gang and of the device
apart: memory, contexts, packets, every other core, what the sets of its core share, its core's store, the other sets. -/
def State.keepsRest (s t : State) : Prop :=
  t.who = s.who ∧ t.hbm = s.hbm ∧ t.contexts = s.contexts ∧ t.packets = s.packets ∧ t.copies = s.copies ∧
    (∀ c : CoreId, c.exists = true → c ≠ s.who.core → t.core c = s.core c) ∧
    t.here = { s.here with ts := t.here.ts } ∧ ∀ i : Fin 16, i ≠ s.who.t → t.here.ts[i] = s.here.ts[i]

/-- From t to u no register of a thread set has changed but scalar registers, dead marks, the flags of FSTAT, and where it
goes on. -/
def ThreadSet.keepsButS (t u : ThreadSet) : Prop :=
  u = { t with s := u.s, sDead := u.sDead, fstat := u.fstat, run := u.run, pc := u.pc, enter := u.enter, loops := u.loops }

/-- From t to u no register of a thread set has changed but vector registers with their tags, dead marks, the flags of
FSTAT, and where it goes on. -/
def ThreadSet.keepsButV (t u : ThreadSet) : Prop :=
  u = { t with
    v := u.v, vTag := u.vTag, vDead := u.vDead, sDead := u.sDead, fstat := u.fstat, run := u.run, pc := u.pc
    enter := u.enter, loops := u.loops }

/-- A record of a kind stands at the head of a running queue of a context and can be taken (R416, R420, R430): no gang
of the queue is being started, and the record is in memory, well-formed and not skipped. -/
def State.head (s : State) (ctx q kind : Nat) (c : Context) (x : Queue) (bs : List Byte) : Prop :=
  s.ctx ctx = some c ∧ s.queue ctx q = some x ∧ x.state = .running ∧ x.pending ≠ 0 ∧ s.launching ctx q = false ∧
    s.headRecord ctx x = some bs ∧ x.skip = 0 ∧ s.globalPoison ctx (x.ring + 64 * x.head) 64 = false ∧
    c.recordBad x bs = false ∧ fieldAt bs 0 1 = kind

/-- The conditions of R223, over the signed and the unsigned values of two words. -/
def condSays (c : Cond) (x y : Word) : Bool :=
  match c with
  | .eq => decide (x = y)
  | .ne => decide (x ≠ y)
  | .lt => decide (x.toInt < y.toInt)
  | .ge => decide (y.toInt ≤ x.toInt)
  | .le => decide (x.toInt ≤ y.toInt)
  | .gt => decide (y.toInt < x.toInt)
  | .ltz => decide (x.toNat < y.toNat)
  | .gez => decide (y.toNat ≤ x.toNat)
  | .lez => decide (x.toNat ≤ y.toNat)
  | .gtz => decide (y.toNat < x.toNat)

/-- The local and staging stores and global memory are in canonical form. -/
def State.MemWf (s : State) : Prop :=
  s.hbm.wf = true ∧ (∀ e ∈ s.compute, e.2.store.wf = true) ∧ (∀ e ∈ s.memory, e.2.store.wf = true)
    ∧ (∀ e ∈ s.control, e.2.store.wf = true)

end Sys2Proof.Machine
end

