-- ==== Sys2Proof/Certificates/Slice0/Obligations.lean ====
section
/-! DEFINITION. The statements for the provers: what each instruction and each event does, what traps it, what it leaves
alone, and what every step keeps. -/
section Statements
open Sys2Proof Sys2Proof.Machine


/-- Sums, differences and products (R218, R220, R221): wrapped, or with .sat limited and SAT recorded. The high words
of products (R218), as parts of the exact 64-bit product. Division (R218, R219, R391): truncated quotients and
remainders; a zero divisor traps nothing and sets no flag, and gives all ones, or zero in a capsule of level 1 or 2,
with the dividend for remainder; the most negative value by -1 gives itself, with remainder 0. -/
def Obligations.IntegerArithmetic : Prop :=
  (∀ (s : State) (h : Hdr) (d a b : SReg) (x y : Word), s.on h → s.me.has2 d a b x y →
    exec (.iadd h d a b false) s = s.becomes ((s.me.dead2 h a b).putS d (x + y)) ∧
    exec (.isub h d a b false) s = s.becomes ((s.me.dead2 h a b).putS d (x - y)) ∧
    exec (.imul h d a b) s = s.becomes ((s.me.dead2 h a b).putS d (x * y)) ∧
    exec (.iadd h d a b true) s = s.becomes
      (if x.saddOverflow y then ((s.me.dead2 h a b).putS d (if x.msb then 0x80000000 else 0x7FFFFFFF)).flag fSAT
        else (s.me.dead2 h a b).putS d (x + y)) ∧
    exec (.isub h d a b true) s = s.becomes
      (if x.ssubOverflow y then ((s.me.dead2 h a b).putS d (if x.msb then 0x80000000 else 0x7FFFFFFF)).flag fSAT
        else (s.me.dead2 h a b).putS d (x - y))) ∧
  (∀ (s : State) (h : Hdr) (d a b : SReg) (x y : Word), s.on h → s.me.has2 d a b x y →
    exec (.imulh h d a b) s = s.becomes
      ((s.me.dead2 h a b).putS d ((x.signExtend 64 * y.signExtend 64).extractLsb' 32 32)) ∧
    exec (.imulhz h d a b) s = s.becomes
      ((s.me.dead2 h a b).putS d ((x.zeroExtend 64 * y.zeroExtend 64).extractLsb' 32 32))) ∧
  (∀ (s : State) (h : Hdr) (d a b : SReg) (x y : Word), s.on h → s.me.has2 d a b x y →
    (let z : Word := if s.level < 3 then 0 else 0xFFFFFFFF
    exec (.idiv h d a b) s = s.becomes ((s.me.dead2 h a b).putS d (if y = 0 then z else x.sdiv y)) ∧
    exec (.idivz h d a b) s = s.becomes ((s.me.dead2 h a b).putS d (if y = 0 then z else x / y)) ∧
    exec (.irem h d a b) s = s.becomes ((s.me.dead2 h a b).putS d (if y = 0 then x else x.srem y)) ∧
    exec (.iremz h d a b) s = s.becomes ((s.me.dead2 h a b).putS d (if y = 0 then x else x % y))))

/-- Bitwise operations, minima, maxima and comparisons (R218, R223). Shifts (R218, R391): by the whole amount, so that
32 or more shifts every bit out; in a capsule of level 1 by its low five bits; rotation by the amount modulo 32. -/
def Obligations.BitsAndShifts : Prop :=
  (∀ (s : State) (h : Hdr) (d a b : SReg) (x y : Word), s.on h → s.me.has2 d a b x y →
    (let r (v : Word) : Result := s.becomes ((s.me.dead2 h a b).putS d v)
    exec (.iand h d a b) s = r (x &&& y) ∧ exec (.ior h d a b) s = r (x ||| y) ∧
    exec (.ixor h d a b) s = r (x ^^^ y) ∧ exec (.iandn h d a b) s = r (x &&& ~~~y) ∧
    exec (.imin h d a b) s = r (if x.toInt ≤ y.toInt then x else y) ∧
    exec (.imax h d a b) s = r (if x.toInt ≤ y.toInt then y else x) ∧
    exec (.iminz h d a b) s = r (if x.toNat ≤ y.toNat then x else y) ∧
    exec (.imaxz h d a b) s = r (if x.toNat ≤ y.toNat then y else x) ∧
    (∀ c : PReg, exec (.isel h d a b c) s = r (if s.me.pred c then x else y)) ∧
    (∀ c : Cond, exec (.icmp h c d a b) s = r (if condSays c x y then 1 else 0)))) ∧
  (∀ (s : State) (h : Hdr) (d a : SReg) (n : ShiftAmt) (x : Word) (k : Nat), s.on h → s.me.has1 d a x →
    s.me.readAmt n = .ok k →
    (let r (v : Word) : Result := s.becomes (((s.me.killS h.dmA a).killAmt h.dmB n).putS d v)
    let m := if s.level < 2 then k % 32 else k
    exec (.ishl h d a n) s = r (BitVec.ofNat 32 (x.toNat * 2 ^ m)) ∧
    exec (.ishrl h d a n) s = r (BitVec.ofNat 32 (x.toNat / 2 ^ m)) ∧
    exec (.ishra h d a n) s = r (BitVec.ofInt 32 (x.toInt / 2 ^ m)) ∧
    exec (.irotl h d a n) s = r (x.rotateLeft (k % 32))))

/-- Counts and immediates (R218, R221, R222), and NOP (R237). Pairs and addresses (R221, R224, R225): the exact
address wraps to 64 bits, or with .sat is limited and SAT recorded. -/
def Obligations.ImmediatesAndAddresses : Prop :=
  (∀ (s : State) (h : Hdr) (d a : SReg) (x : Word) (imm : Imm), s.on h → s.me.has1 d a x →
    (∃ z : Word, exec (.iclz h d a) s = s.becomes ((s.me.killS h.dmA a).putS d z) ∧ z.toNat ≤ 32 ∧
      x.toNat < 2 ^ (32 - z.toNat) ∧ (z.toNat < 32 → 2 ^ (31 - z.toNat) ≤ x.toNat)) ∧
    (∃ z : Word, exec (.ipop h d a) s = s.becomes ((s.me.killS h.dmA a).putS d z) ∧
      z.toNat = ((List.range 32).filter fun i => x.getLsbD i).length) ∧
    exec (.iaddi h (.w32 d a false) imm) s = s.becomes ((s.me.killS h.dmA a).putS d (x + imm.signExtend 32)) ∧
    exec (.iaddi h (.w32 d a true) imm) s = s.becomes
      (if x.saddOverflow (imm.signExtend 32) then
        ((s.me.killS h.dmA a).putS d (if x.msb then 0x80000000 else 0x7FFFFFFF)).flag fSAT
        else (s.me.killS h.dmA a).putS d (x + imm.signExtend 32)) ∧
    exec (.imovi h d imm) s = s.becomes (s.me.putS d (imm.signExtend 32)) ∧
    (∀ (hi : BitVec 16), exec (.imovhi h a hi) s = s.becomes (s.me.putS a (hi ++ x.extractLsb' 0 16))) ∧
    exec (.nop h) s = s.becomes s.me) ∧
  (∀ (s : State) (h : Hdr) (d a b : SPair) (x y : DWord) (i : SReg) (z : Word) (k : Fin 8) (imm : Imm), s.on h →
    s.me.hasP d a b x y → s.me.readS i = .ok z →
    (let v : Int := (x.toNat : Int) + z.toInt * 2 ^ k.val + imm.toInt
    let t := (s.me.killP h.dmA a).killS h.dmB i
    let u : ThreadSet := if v < 0 then (t.putP d 0).flag fSAT
      else if 2 ^ 64 ≤ v then (t.putP d (BitVec.allOnes 64)).flag fSAT
      else t.putP d (BitVec.ofInt 64 v)
    exec (.padd h d a b) s = s.becomes (((s.me.killP h.dmA a).killP h.dmB b).putP d (x + y)) ∧
    exec (.psub h d a b) s = s.becomes (((s.me.killP h.dmA a).killP h.dmB b).putP d (x - y)) ∧
    exec (.iaddi h (.w64 d a) imm) s = s.becomes ((s.me.killP h.dmA a).putP d (x + imm.signExtend 64)) ∧
    exec (.aadd h d a i k false imm) s = s.becomes (t.putP d (BitVec.ofInt 64 v)) ∧
    exec (.aadd h d a i k true imm) s = s.becomes u ∧
    exec (.aadds h d a i k imm) s = ((s.setTs s.who u).deprecate).done))

/-- Predicates (R226, R227, R228): each form writes its destination only, and a write to p0 writes nothing. -/
def Obligations.Predicates : Prop :=
  ∀ (s : State) (h : Hdr) (d p q : PReg) (a b : SReg) (x y : Word) (imm : Imm) (n : Fin 32), s.on h →
    s.me.readS a = .ok x → s.me.readS b = .ok y →
    (let one (v : Bool) : Result := s.becomes ((s.me.killS h.dmA a).putPred d v)
    let c : Word := imm.signExtend 32
    (∀ c, exec (.pset h d (.cmp c a b)) s = s.becomes ((s.me.dead2 h a b).putPred d (condSays c x y))) ∧
    exec (.pset h d (.eqi a imm)) s = one (decide (x = c)) ∧
    exec (.pset h d (.nei a imm)) s = one (decide (x ≠ c)) ∧
    exec (.pset h d (.lti a imm)) s = one (decide (x.toInt < c.toInt)) ∧
    exec (.pset h d (.gei a imm)) s = one (decide (c.toInt ≤ x.toInt)) ∧
    exec (.pset h d (.bit a n)) s = one (x.getLsbD n.val) ∧
    (∀ v, exec (.pset h d (.const v)) s = s.becomes (s.me.putPred d v)) ∧
    exec (.pand h d p q) s = s.becomes (s.me.putPred d (s.me.pred p && s.me.pred q)) ∧
    exec (.por h d p q) s = s.becomes (s.me.putPred d (s.me.pred p || s.me.pred q)) ∧
    exec (.pxor h d p q) s = s.becomes (s.me.putPred d (s.me.pred p ^^ s.me.pred q)) ∧
    exec (.pnot h d p) s = s.becomes (s.me.putPred d (!s.me.pred p))) ∧
    s.me.pred 0 = true ∧ (∀ v, s.me.putPred 0 v = s.me)

/-- Transfers (R188, R229, R230, R236): control passes to an allowed target, with the link written by the CALL forms;
a target that R188 refuses traps TARGET with nothing written. BR, JMP and RET end the levels, innermost first, whose
range holds their own position and not the target; a CALL ends none, and in a handler none is ended. Where control may
pass (R188): a position at or past 0, of a slot, in a line of the capsule, at a target slot; a line that fails its own
entry check is entered and raises LINEFORM there (R194). -/
def Obligations.Transfers : Prop :=
  (∀ (s : State) (h : Hdr) (d a : SReg) (e : RelTarget) (x : Word), s.on h → s.me.has1 d a x →
    (let p := relPos s.me.pc.toNat e
    let q : Int := x.toNat
    let link : Word := BitVec.ofNat 32 (nextPos s.me.pc.toNat)
    let slow (reg : Bool) : ThreadSet := s.me.delay 9 (if reg || !s.me.native then 2 else 0)
    let to' (t : ThreadSet) (p : Int) (leaves : Bool) : Result := (s.setTs s.who t).goes p.toNat leaves
    (s.refusesTarget s.who p = false →
      exec (.br h e) s = to' (slow false) p true ∧
      exec (.call h d e) s = to' ((slow false).putS d link) p false) ∧
    (s.refusesTarget s.who p = true →
      exec (.br h e) s = s.traps .target (BitVec.ofInt 32 p) ∧
      exec (.call h d e) s = s.traps .target (BitVec.ofInt 32 p)) ∧
    (s.refusesTarget s.who q = false →
      exec (.jmp h a) s = to' ((slow true).killS h.dmA a) q true ∧
      exec (.ret h a) s = to' ((slow true).killS h.dmA a) q true ∧
      exec (.callInd h d a) s = to' (((slow true).killS h.dmA a).putS d link) q false) ∧
    (s.refusesTarget s.who q = true →
      exec (.jmp h a) s = s.traps .target x ∧ exec (.ret h a) s = s.traps .target x ∧
      exec (.callInd h d a) s = s.traps .target x)) ∧
    (∀ (p : Nat) (leaves : Bool), ∃ u : State, s.goes p leaves = .next u ∧
      u.me = { s.me with run := .ready, pc := BitVec.ofNat 32 p, enter := true, loops := u.me.loops } ∧
      (leaves = false ∨ s.me.inh = true → u.me.loops = s.me.loops) ∧
      (leaves = true → s.me.inh = false →
        (let holds (l : LoopLevel) (n : Nat) : Prop := l.first.toNat ≤ n ∧ n ≤ l.last.toNat
        (∃ ended, s.me.loops = ended ++ u.me.loops ∧ ∀ l ∈ ended, holds l s.me.pc.toNat ∧ ¬ holds l p) ∧
          ∀ l, u.me.loops.head? = some l → holds l s.me.pc.toNat → holds l p)))) ∧
  (∀ (c : Capsule) (p : Nat) (l : Line), c.lines[p / 64]? = some l →
    (c.refuses p = false ↔
      (p % 64 ∈ [0, 12, 24, 36, 48] ∧
        (lineTarget l (p % 64 / 12) = true ∨ (lineBadEntry l).isSome = true ∨ lineParityOk l = false))) ∧
    (∀ t : Int, t < 0 → c.refuses t = true) ∧ (∀ t : Nat, c.lines.length ≤ t / 64 → c.refuses t = true))

/-- LOOP and LOOPI (R233): the level is opened and control passes to its first position, or with no iteration past its
last one; while a handler runs they are ILLEGAL with XVAL 5, and a loop that R235 refuses raises LOOPFORM with its
reason. The end of a pass (R234): at a level's last position the count falls by one and control returns to its first
position, or with the last pass the level ends, and the next level whose last position this is makes its own pass or
ends with it; a first position that is no target traps TARGET (R188). While a handler runs loops stand still (R343).
HALT and YIELD (R137, R238, R239): a set retires and a task's slot is free; YIELD takes the run count to its end, and
on a memory core, where another task of the gang is ready, the set passes to the task that has been ready longest and
the issuing task is ready again. -/
def Obligations.LoopsAndHalt : Prop :=
  (∀ (s : State) (h : Hdr) (a : SReg) (e : RelTarget) (k : BitVec 20) (n : Word) (c : Capsule), s.on h →
    s.me.readS a = .ok n → s.capsuleOf s.who = some c →
    (let b := nextPos s.me.pc.toNat
    let last := relPos s.me.pc.toNat e
    let opened (n : Word) : ThreadSet :=
      { s.me with loops := { count := n, first := BitVec.ofNat 32 b, last := BitVec.ofInt 32 last } :: s.me.loops }
    (s.me.inh = false → c.loopForm s.me.loops b last = none →
      exec (.loop h a e) s =
        (if n = 0 then (s.setTs s.who (s.me.killS h.dmA a)).goes (nextPos last.toNat) false
          else (s.setTs s.who ((opened n).killS h.dmA a)).goes b false) ∧
      exec (.loopi h e k) s =
        (if k = 0 then s.goes (nextPos last.toNat) false
          else (s.setTs s.who (opened (k.zeroExtend 32))).goes b false)) ∧
    (s.me.inh = true → exec (.loop h a e) s = s.traps .illegal 5 ∧ exec (.loopi h e k) s = s.traps .illegal 5) ∧
    (∀ r, s.me.inh = false → c.loopForm s.me.loops b last = some r →
      exec (.loop h a e) s = s.traps .loopform (BitVec.ofNat 32 r) ∧
      exec (.loopi h e k) s = s.traps .loopform (BitVec.ofNat 32 r)))) ∧
  (∀ (s : State) (w : Who) (l : LoopLevel) (r : List LoopLevel), (s.ts w).loops = l :: r →
    (let t := s.ts w
    (t.inh = false → l.last = t.pc → l.count ≠ 1 → s.refusesTarget w l.first.toNat = false →
      s.advance w = s.setTs w { t with
        run := .ready, loops := { l with count := l.count - 1 } :: r, pc := l.first, enter := true }) ∧
    (t.inh = false → l.last = t.pc → l.count ≠ 1 → s.refusesTarget w l.first.toNat = true →
      s.advance w = (s.setTs w { t with run := .ready }).takeTrap w .target t.pc l.first t.pc) ∧
    (t.inh = false → l.last = t.pc → l.count = 1 → (∀ m ∈ r, m.last ≠ t.pc) →
      s.advance w = s.setTs w { t.goTo (nextPos t.pc.toNat) with run := .ready, loops := r }) ∧
    (∀ m r', r = m :: r' → t.inh = false → l.last = t.pc → l.count = 1 → m.last = t.pc →
      (m.count = 1 → (∀ n ∈ r', n.last ≠ t.pc) →
        s.advance w = s.setTs w { t.goTo (nextPos t.pc.toNat) with run := .ready, loops := r' }) ∧
      (m.count ≠ 1 → s.refusesTarget w m.first.toNat = false →
        s.advance w = s.setTs w { t with
          run := .ready, loops := { m with count := m.count - 1 } :: r', pc := m.first, enter := true })) ∧
    (t.inh = false → l.last ≠ t.pc → s.advance w = s.setTs w { t.goTo (nextPos t.pc.toNat) with run := .ready }) ∧
    (t.inh = true → s.advance w = s.setTs w { t.goTo (nextPos t.pc.toNat) with run := .ready }))) ∧
  (∀ (s : State) (h : Hdr), s.on h → s.me.answers = [] → (∀ l ∈ s.me.loads, l.landed = true) →
    (s.who.core.isMemory = false →
      exec (.halt h) s = .next ((s.setTs s.who { s.me with run := .retired, loops := [] }).retire .stay) ∧
      exec (.yield h) s = .next ((s.retire .seq).modCore s.who.core fun k => { k with schedRun := 64 })) ∧
    (s.who.core.isMemory = true → ∀ g, s.gangId s.who = some g →
      (∃ s', exec (.halt h) s = .next s' ∧ (s'.core s.who.core).tasks[s.who.t] = { } ∧
        (s'.core s.who.core).ts[s.who.t] = { } ∧ (s'.core s.who.core).setOf s.who.t.val = none) ∧
      (let c := s.who.core
      let r := s.retire .seq
      let k := r.core c
      let me := k.tasks[s.who.t]
      let mate : Prop := ∃ x ∈ k.tasks.toList, x.state = .ready ∧ x.gang = me.gang
      (∀ set, k.setOf s.who.t.val = some set → me.state = .running → mate →
        ∃ s', ∃ n : Fin 16, exec (.yield h) s = .next s' ∧ k.tasks[n].state = .ready ∧
          (∀ x ∈ k.tasks.toList, x.state = .ready → k.tasks[n].since ≤ x.since) ∧
          (s'.core c).running.toList.getD set none = some n.val ∧ (s'.core c).tasks[n].state = .running ∧
          (s'.core c).tasks[s.who.t].state = .ready ∧ (s'.core c).schedRun = 64) ∧
      (k.setOf s.who.t.val = none ∨ ¬ mate →
        exec (.yield h) s = .next (r.setCore c { k with schedRun := 64 })))))

/-- Trap entry (R338, R342): outside a handler, with a handler that stands at a target slot of a sound line, the
exception registers and XSTAT.INH are set and the thread set goes to the handler, which is the trap table's for the
cause, or entry 0 where that one is absent. A trap in a handler is a program fault of the gang (R342), and so is a
cause that no handler gets (R339). -/
def Obligations.TrapEntry : Prop :=
  (∀ (s : State) (w : Who) (c : Capsule) (cause : Cause) (xpc xval xrpc : Word) (l : Line),
    (let own := c.traps.getD cause.code 0xFFFFFFFF
    let p := if own = 0xFFFFFFFF then c.traps.getD 0 0xFFFFFFFF else own
    (s.ts w).inh = false → s.capsuleOf w = some c → cause.delivered = true → p ≠ 0xFFFFFFFF →
    c.lines[p.toNat / 64]? = some l → lineParityOk l = true → lineBadEntry l = none → p.toNat % 64 ∈ [0, 12, 24, 36, 48] →
    lineTarget l (p.toNat % 64 / 12) = true →
    s.takeTrap w cause xpc xval xrpc = s.setTs w { s.ts w with
      run := .ready, xcause := BitVec.ofNat 32 cause.code, xpc := xpc, xval := xval, xrpc := xrpc
      xstat := (s.ts w).xstat ||| 1, pc := p, enter := true })) ∧
  (∀ (s : State) (w : Who) (g : Nat) (cause : Cause) (xpc xval xrpc : Word), s.gangId w = some g →
    ((s.ts w).inh = true ∨ cause ∈ [Cause.blretired, .watchdog, .copyfail]) →
    s.takeTrap w cause xpc xval xrpc = (s.setTs w { s.ts w with
      run := .ready, xcause := BitVec.ofNat 32 cause.code, xpc := xpc, xval := xval, xrpc := xrpc }).programFault g cause
        xpc xval false)

/-- TRAP, BRK, XRET and IFENCE (R345, R346, R347, R352): XRET leaves the handler for its position, or raises LINEFORM
or TARGET where no instruction may be entered there; IFENCE discards the line that has been fetched. -/
def Obligations.TrapInstructions : Prop :=
  ∀ (s : State) (h : Hdr) (imm : Imm) (nx : Bool), s.on h →
    (let p := if nx then nextPos s.me.xrpc.toNat else s.me.xrpc.toNat
    let dbg : Bool := ((s.gangOf s.who).bind fun g => s.ctx g.ctx).any fun c => c.kctl.getLsbD 1
    exec (.trap h imm) s = s.traps .user (imm.zeroExtend 32) ∧
    (dbg = false → exec (.brk h imm) s = s.traps .break (imm.zeroExtend 32)) ∧
    (dbg = true → ∃ s', exec (.brk h imm) s = .next s' ∧ s'.me = { s.me with run := .stopped } ∧
      s'.answers.length = s.answers.length + 1) ∧
    (s.me.inh = false → exec (.xret h nx) s = s.traps .illegal 6) ∧
    (s.me.inh = true → ∀ c, s.capsuleOf s.who = some c → (
      let out := s.setTs s.who { s.me with xstat := s.me.xstat &&& ~~~1#32 }
      (∀ l, c.lines[p / 64]? = some l → lineParityOk l = true →
        (lineBadEntry l = none → posOk p = true → exec (.xret h nx) s = out.goes p false) ∧
        (∀ r, lineBadEntry l = some r → exec (.xret h nx) s = .next { out.takeTrap s.who .lineform (BitVec.ofNat 32 p)
          (BitVec.ofNat 32 r) (BitVec.ofNat 32 p) with evt := 0x11 }) ∧
        (lineBadEntry l = none → posOk p = false → exec (.xret h nx) s = .next { out.takeTrap s.who .target s.me.pc
          (BitVec.ofNat 32 p) s.me.pc with evt := 0x11 })) ∧
      (c.lines.length ≤ p / 64 → exec (.xret h nx) s = .next { out.takeTrap s.who .target s.me.pc
        (BitVec.ofNat 32 p) s.me.pc with evt := 0x11 }))) ∧
    exec (.ifence h) s = s.becomes { s.me with enter := true, lineHeld := none, ovlFenced := s.me.ovlWaited })

/-- CRD (R348): a 32-bit register goes to a scalar register, a 64-bit one to a pair; SCORE, ALLOW and ROUND outside a
tournament are ILLEGAL with XVAL 7 (R355). The control registers' numbers (R349): those of a compute core, loop levels
and SCORE, ALLOW and DEPCOUNT among them, KCTX and KCTL of the context that KCTX selects (R351), and the counts, each
with its control word (R367, R368). DEPCOUNT, SCORE and ALLOW say what R350, R165 and R164 say; that a CRD of SCORE on
any core of a rival reads the origin core's at once is DEDUCED (log entry 54), and that the control cores share one
KCTX is the model's choice (log entry 73). -/
def Obligations.ReadControl : Prop :=
  (∀ (s : State) (h : Hdr) (d : SReg) (reg : BitVec 10), s.on h →
    (s.needsTour reg.toNat = false → regWide reg.toNat = false → s.me.freeS d = .ok () →
      exec (.crd h d reg) s = s.becomes (s.me.putS d ((s.readReg reg.toNat).extractLsb' 0 32))) ∧
    (s.needsTour reg.toNat = false → regWide reg.toNat = true → s.me.freeP (SReg.pair d) = .ok () →
      exec (.crd h d reg) s = s.becomes (s.me.putP (SReg.pair d) (s.readReg reg.toNat))) ∧
    (reg.toNat ∈ [0x030, 0x031, 0x032] → (∀ g, s.gangOf s.who = some g → g.tour = none) →
      exec (.crd h d reg) s = s.traps .illegal 7)) ∧
  (∀ s : State, s.who.core.isMemory = false →
    (let x (v : Word) : DWord := v.zeroExtend 64
    s.readReg 0x000 = x s.me.prec ∧ s.readReg 0x001 = x s.me.rmode ∧ s.readReg 0x002 = x s.me.fstat ∧
    s.readReg 0x003 = x s.me.pxneed ∧ s.readReg 0x004 = x s.me.fwspill ∧ s.readReg 0x005 = x s.me.deadmode ∧
    s.readReg 0x010 = x s.me.tidx ∧ s.readReg 0x011 = x s.here.gpos ∧ s.readReg 0x012 = x s.here.gdim ∧
    s.readReg 0x013 = x s.here.brect ∧ s.readReg 0x014 = x s.here.sstep ∧ s.readReg 0x018 = x s.me.pwbase ∧
    s.readReg 0x019 = x s.me.pwlim ∧ s.readReg 0x01A = x s.me.pwattr ∧ s.readReg 0x020 = x s.me.xcause ∧
    s.readReg 0x021 = x s.me.xpc ∧ s.readReg 0x022 = x s.me.xval ∧ s.readReg 0x023 = x s.me.xrpc ∧
    s.readReg 0x024 = x s.me.xstat ∧ (s.readReg 0x028).toNat = s.me.loops.length % 2 ^ 64 ∧
    (let outer := s.me.loops.reverse.getD 0 { count := 0, first := 0, last := 0 }
    let inner := s.me.loops.reverse.getD 1 { count := 0, first := 0, last := 0 }
    s.readReg 0x029 = x outer.count ∧ s.readReg 0x02A = x inner.count ∧ s.readReg 0x02B = x outer.first ∧
    s.readReg 0x02C = x inner.first ∧ s.readReg 0x02D = x outer.last ∧ s.readReg 0x02E = x inner.last) ∧
    s.readReg 0x032 = x s.here.round ∧ s.readReg 0x200 = x s.kctx ∧
    (∀ g, s.gangOf s.who = some g → s.readReg 0x030 = (s.core g.corner).shared.score ∧
      ∀ id u, g.tour = some id → s.tours.find id = some u →
        (u.solo = true → s.readReg 0x031 = 0xFFFFFFFF) ∧
        (u.solo = false → (s.readReg 0x031).toNat = (u.allow0 * 1024 * 2 ^ u.k - g.count) / 1024 % 2 ^ 32)) ∧
    (∀ g c, s.who.core.kind = .compute → s.gangOf s.who = some g → s.ctx g.ctx = some c → s.readReg 0x038 = x c.depcount) ∧
    (∀ c, s.who.core.kind = .control → s.ctx (s.kctx.toNat % 65536) = some c →
      s.readReg 0x038 = x c.depcount ∧ s.readReg 0x201 = x c.kctl) ∧
    (∀ (t : Fin 4), s.readReg (0x100 + 0x40 * t.val) = (if s.here.freeze[t] then 2 else 0) ∧
      ∀ e : Fin 16, e.val ≠ 0 → (let n := (s.here.counters[t])[e]
        s.readReg (0x100 + 0x40 * t.val + 2 * e.val) = BitVec.ofNat 64 n ∧
        s.readReg (0x100 + 0x40 * t.val + 2 * e.val + 1) = BitVec.ofNat 64 (n / 2 ^ 32)))))

/-- CWR (R9, R348, R98, R87): the writable registers take their fields; PREC or RMODE with a field value that it
refuses, a register that is read-only at the issuing level, and a count (R369), are ILLEGAL with no effect and XVAL 0
(the model's value, log entry 10); a control core writes KCTX, and DEPCOUNT and KCTL of the context that it selects
(R351). That the control cores share one KCTX is the model's choice (log entry 73). The counters' control word of
thread set t, which t alone writes (R369): FREEZE is set as bit 1 says, and bit 0 zeroes the counters of the thread
set; from another set it is ILLEGAL with no effect. -/
def Obligations.WriteControl : Prop :=
  (∀ (s : State) (h : Hdr) (a : SReg) (v : Word), s.on h → s.me.readS a = .ok v →
    (let k (t : ThreadSet) : Result := s.becomes (t.killS h.dmA a)
    (8 ≤ (v &&& 0x3FF).toNat → (v &&& 0x3FF).toNat ≤ 512 → exec (.cwr h a 0x000) s = k { s.me with prec := v &&& 0x3FF }) ∧
    ((v &&& 0x3FF).toNat < 8 ∨ 512 < (v &&& 0x3FF).toNat → exec (.cwr h a 0x000) s = s.traps .illegal 0) ∧
    ((v &&& 7).toNat < 6 → exec (.cwr h a 0x001) s = k { s.me with rmode := v &&& 7 }) ∧
    (6 ≤ (v &&& 7).toNat → exec (.cwr h a 0x001) s = s.traps .illegal 0) ∧
    exec (.cwr h a 0x002) s = k { s.me with fstat := v &&& 0x7F } ∧
    exec (.cwr h a 0x003) s = k { s.me with pxneed := v } ∧
    exec (.cwr h a 0x004) s = k { s.me with fwspill := v &&& 0x1FFFF8 } ∧
    exec (.cwr h a 0x005) s = k { s.me with deadmode := v &&& 1 } ∧
    exec (.cwr h a 0x020) s = k { s.me with xcause := v &&& 0xFF } ∧
    exec (.cwr h a 0x021) s = k { s.me with xpc := v } ∧
    exec (.cwr h a 0x022) s = k { s.me with xval := v } ∧
    exec (.cwr h a 0x023) s = k { s.me with xrpc := v } ∧
    (∀ reg : BitVec 10, reg.toNat ∈ [0x010, 0x011, 0x012, 0x013, 0x014, 0x018, 0x019, 0x01A, 0x024, 0x028, 0x029, 0x02A, 0x02B,
        0x02C, 0x02D, 0x02E, 0x030, 0x031, 0x032] ∨ (0x100 ≤ reg.toNat ∧ reg.toNat < 0x200) →
      exec (.cwr h a reg) s = s.traps .illegal 0) ∧
    (∀ n, s.who.core = .control n →
      exec (.cwr h a 0x200) s = { s with kctx := v &&& 0xFFFF }.becomes (s.me.killS h.dmA a) ∧
      (∀ c, s.regCtx = some c →
        exec (.cwr h a 0x038) s = (s.modCtx c fun x => { x with depcount := v }).becomes (s.me.killS h.dmA a) ∧
        exec (.cwr h a 0x201) s = (s.modCtx c fun x => { x with kctl := v &&& 3 }).becomes (s.me.killS h.dmA a))) ∧
    ((∀ n, s.who.core ≠ .control n) → exec (.cwr h a 0x038) s = s.traps .illegal 0))) ∧
  (∀ (s : State) (h : Hdr) (a : SReg) (t : Fin 4) (v : Word), s.on h → s.me.readS a = .ok v →
    (s.setIndex = t.val → exec (.counterZero h a t) s = ((s.modCore s.who.core fun k => { k with
      freeze := k.freeze.set t (v.getLsbD 1)
      counters := if v.getLsbD 0 then k.counters.set t (Vector.replicate 16 0) else k.counters }).modTs s.who fun t =>
        t.killS h.dmA a).done) ∧
    (s.setIndex ≠ t.val → exec (.counterZero h a t) s = s.traps .illegal 0))

/-- WAIT (R353): a word that differs ends it at once with 0; else the thread set waits, and the wait ends with 0 once
a write has changed the word, with 1 once its bound has passed. CAPBUILD (R351, R354): on a control core the request's
status goes to its destination; on another core it is PRIVILEGE. That it names a capsule of the context in the one
KCTX of the device is the model's choice (log entry 73). TDONE and TROUND (R357, R358): the rival is closing, its
final mark kept; the outcome word of its last round is read; outside a tournament both are ILLEGAL with XVAL 7. -/
def Obligations.WaitsAndRequests : Prop :=
  (∀ (s : State) (h : Hdr) (d : SReg) (a b : SPair) (imm : Imm) (bound : BitVec 20), s.on h →
    (∀ (x y : DWord) (bs : List Byte), s.me.run = .ready → s.me.readP a = .ok x → s.me.readP b = .ok y →
      s.me.freeS d = .ok () → ea x imm 0 % 8 = 0 → s.access s.who [(ea x imm 0, 8)] = .ok () →
      s.loadBytes s.who (ea x imm 0).toNat 8 = .ok bs →
      (BitVec.ofNat 64 (leNat bs) ≠ y → exec (.wait h d a b imm bound) s =
        s.becomes { ((s.me.killP h.dmA a).killP h.dmB b).putS d 0 with run := .ready }) ∧
      (BitVec.ofNat 64 (leNat bs) = y → ∃ f : WaitFor, f.addr = (ea x imm 0).toNat ∧ f.cmp = y ∧ f.hit = false ∧
        f.deadline = (if bound = 0 then none else some (s.now + 64 * bound.toNat)) ∧
        exec (.wait h d a b imm bound) s = .next (s.stopped (.hold (.atWait f))))) ∧
    (∀ f : WaitFor, s.me.run = .atWait f →
      (f.hit = true → ∃ t, t.run = .ready ∧ t.s = s.me.s.set f.d 0 ∧ exec (.wait h d a b imm bound) s = s.becomes t) ∧
      (f.hit = false → past s.now f.deadline = true →
        ∃ t, t.run = .ready ∧ t.s = s.me.s.set f.d 1 ∧ exec (.wait h d a b imm bound) s = s.becomes t))) ∧
  (∀ (s : State) (h : Hdr) (d a : SReg) (x : Word),
    (∀ n, s.who.core = .control n → s.on h → s.me.has1 d a x →
      (let r := s.requestBuild (s.kctx.toNat % 65536) x.toNat
      exec (.capbuild h d a) s = (r.2.modTs s.who fun t => (t.killS h.dmA a).putS d (BitVec.ofNat 32 r.1)).done) ∧
      (s.capsule (s.kctx.toNat % 65536) x.toNat = none →
        exec (.capbuild h d a) s = s.becomes ((s.me.killS h.dmA a).putS d 3)) ∧
      (∀ c, s.capsule (s.kctx.toNat % 65536) x.toNat = some c → c.withheld = false → c.state = .native →
        ∃ s' : State, exec (.capbuild h d a) s = s'.becomes ((s.me.killS h.dmA a).putS d 1)) ∧
      (∀ c, s.capsule (s.kctx.toNat % 65536) x.toNat = some c → c.withheld = false → c.state = .portable →
        c.test = false → c.queued = false →
        ∃ s' : State, exec (.capbuild h d a) s = s'.becomes ((s.me.killS h.dmA a).putS d 0))) ∧
    ((∀ n, s.who.core ≠ .control n) → exec (.capbuild h d a) s = s.traps .privilege 0)) ∧
  (∀ (s : State) (h : Hdr) (d : SReg) (fin : Bool) (g : Nat) (x : Gang), s.on h → s.gangId s.who = some g →
    s.gang g = some x →
    (x.tour.isSome = true → s.me.freeS d = .ok () →
      exec (.tround h d) s = s.becomes (s.me.putS d x.word) ∧
      exec (.tdone h fin) s = (s.modGang g fun x =>
        if x.rival = .running ∨ x.rival = .closing then { x with rival := .closing, final := x.final || fin } else x).done) ∧
    (x.tour = none → exec (.tround h d) s = s.traps .illegal 7 ∧ exec (.tdone h fin) s = s.traps .illegal 7))

/-- The check of a store access (R240, R242): every byte lies in the store, in the protection window, and in no
landing window that is not readable. The store's own top is checked first, at its lowest offending byte. The check of
a typed reference (R321, R322, R393): the parameter is bound, has the format or the element width that is wanted and
the right, the offset is aligned and lies in the reference's size. -/
def Obligations.AccessRules : Prop :=
  (∀ (s : State) (w : Who) (a : Int) (n : Nat), 0 < n →
    (s.access w [(a, n)] = .ok () ↔
      0 ≤ a ∧ a + n ≤ storeTop w.core ∧ ((s.ts w).pwbase.toNat : Int) ≤ a ∧ a + n ≤ (s.ts w).pwlim.toNat ∧
      ∀ v ∈ (s.core w.core).shared.windows, v.state = .readable ∨ a + n ≤ v.base ∨ (v.base : Int) + v.len ≤ a) ∧
    (a < 0 → s.access w [(a, n)] = .error (.trap .prot (BitVec.ofInt 32 a))) ∧
    (0 ≤ a → (storeTop w.core : Int) < a + n →
      s.access w [(a, n)] = .error (.trap .prot (BitVec.ofInt 32 (max a (storeTop w.core))))) ∧
    (∀ m : Nat, 0 < m → (aligned m [a] = .ok () ↔ a % m = 0) ∧
      (a % m ≠ 0 → aligned m [a] = .error (.trap .prot (BitVec.ofInt 32 a))))) ∧
  (∀ (s : State) (w : Who) (c n align : Nat) (f : Fmt) (r wr : Bool) (off : Int) (v : Ref), 0 < align →
    (s.refOf w c = none → s.refcheck w c (.fmt f) r wr off n align = .error (reftype c 0 2)) ∧
    (s.refOf w c = some v →
      (v.fmt ≠ f → s.refcheck w c (.fmt f) r wr off n align = .error (reftype c v.fmt.code 1)) ∧
      (v.fmt.width ≠ 8 * n → s.refcheck w c (.width n) r wr off n align = .error (reftype c v.fmt.code 3)) ∧
      (v.fmt = f → (r = true ∧ v.r = false ∨ wr = true ∧ v.w = false) →
        s.refcheck w c (.fmt f) r wr off n align = .error (reftype c v.fmt.code 2)) ∧
      (v.fmt = f → (r = true → v.r = true) → (wr = true → v.w = true) → off % align = 0 → 0 ≤ off →
        (off + n ≤ v.size → s.refcheck w c (.fmt f) r wr off n align = .ok (v.base + off.toNat)) ∧
        ((v.size : Int) < off + n → s.refcheck w c (.fmt f) r wr off n align =
          .error (.trap .refbound (BitVec.ofInt 32 (max off v.size))))) ∧
      (v.fmt = f → (r = true → v.r = true) → (wr = true → v.w = true) → off % align = 0 → off < 0 →
        s.refcheck w c (.fmt f) r wr off n align = .error (.trap .refbound (BitVec.ofInt 32 off)))))

/-- Scalar loads (R244): the value of the width, zero-extended or sign-extended, or a pair; a misaligned address and a
refused access trap PROT with nothing written. What a load brings on a core whose store holds no poison and whose gang
has no injection armed: the bytes of the store; where the cores of a lockstep pair hold unlike bytes there, the load
meets a lockstep mismatch instead (R473). Vector and tile loads (R245, R246, R247, R248): the register, or the rows of
the tile, get the bytes and the tag. -/
def Obligations.Loads : Prop :=
  (∀ (s : State) (h : Hdr) (w : LdWidth) (d : SReg) (a : SPair) (imm : Imm) (x : DWord), s.on h →
    s.me.readP a = .ok x → s.me.freeLd w d = .ok () →
    (let p := ea x imm 0
    let t := s.me.killP h.dmA a
    (∀ bs, p % w.bytes = 0 → s.access s.who [(p, w.bytes)] = .ok () →
      s.loadBytes s.who p.toNat w.bytes = .ok bs →
      exec (.ld h w d a imm) s = s.becomes (match w with
        | .b8 | .b16 | .b32 => t.putS d (BitVec.ofNat 32 (leNat bs))
        | .sb8 => t.putS d ((BitVec.ofNat 8 (leNat bs)).signExtend 32)
        | .sb16 => t.putS d ((BitVec.ofNat 16 (leNat bs)).signExtend 32)
        | .b64 => t.putP (SReg.pair d) (BitVec.ofNat 64 (leNat bs)))) ∧
    (p % w.bytes ≠ 0 → exec (.ld h w d a imm) s = s.traps .prot (BitVec.ofInt 32 p)) ∧
    (∀ e, p % w.bytes = 0 → s.access s.who [(p, w.bytes)] = .error e → exec (.ld h w d a imm) s = .next (s.stopped e)))) ∧
  (∀ (s : State) (w : Who) (a n : Nat) (g : Gang), s.gangOf w = some g → g.injects = [] →
    (s.core w.core).poison = [] → (∀ t, (s.core w.core).twin = some t → t.poison = []) →
    (let unlike : Prop := ∃ t, (s.core w.core).twin = some t ∧ ∃ e ∈ t.bytes, a ≤ e.1 ∧ e.1 < a + n
    (¬ unlike → s.loadBytes w a n = .ok ((List.range n).map fun i => (s.core w.core).store.read (a + i))) ∧
    (unlike → s.loadBytes w a n = .error (.check .lockstep none 0)))) ∧
  (∀ (s : State) (h : Hdr) (fmt : Fmt) (d : VReg) (a : SPair) (b : SReg) (bv : VReg) (m : MReg) (k : Fin 8) (imm : Imm)
    (rows : TileRows) (x : DWord) (st : Word) (ix : VWord), s.on h → s.me.readP a = .ok x → s.me.readS b = .ok st →
    s.me.readV bv (some .s32) = .ok ix → s.me.freeV d = .ok () →
    (let n := if fmt = .t6 then 24 else 32
    let w := fmt.width / 8
    let one := ea x imm 0
    let strided := strideAddrs x imm st (32 / w)
    let indexed := indexAddrs x imm ix k.val (32 / w)
    let rb := if fmt = .t6 then 48 else 64
    let tiled := rowAddrs x imm st (rows.cnt.val + 1)
    let ok (align len : Nat) (ps : List Int) : Prop :=
      aligned align ps = .ok () ∧ s.access s.who (ps.map fun p => (p, len)) = .ok ()
    (∀ bs, ok 8 n [one] → s.loadBytes s.who one.toNat n = .ok bs → exec (.ldv h fmt d a imm) s = s.becomes
      ((s.me.killP h.dmA a).putV d (if fmt = .t6 then ofLanes 256 8 (unpackT6 32 bs) else ofBytes 256 bs) fmt)) ∧
    (∀ ls, ok w w strided → s.loadAll s.who (strided.map fun p => (p, w)) = .ok ls →
      exec (.ldvs h fmt d a b imm) s = s.becomes
        (((s.me.killP h.dmA a).killS h.dmB b).putV d (ofBytes 256 ls.flatten) fmt)) ∧
    (∀ ls, ok w w indexed → s.loadAll s.who (indexed.map fun p => (p, w)) = .ok ls →
      exec (.ldvx h fmt k d a bv imm) s = s.becomes
        (((s.me.killP h.dmA a).killV h.dmB bv).putV d (ofBytes 256 ls.flatten) fmt)) ∧
    (∀ ls, s.here.tileFree m = .ok () → st.toNat % 8 = 0 → ok 8 rb tiled →
      s.loadAll s.who (tiled.map fun p => (p, rb)) = .ok ls →
      exec (.ldt h fmt m a b imm rows) s = ((s.modShared s.who.core fun q => { q with
        tiles := q.tiles.set m { ls.zipIdx.foldl (fun (u : Tile) e =>
          u.setRow (rows.row.val + e.2) (rowOfImage fmt e.1)) q.tiles[m] with tag := fmt } }).modTs s.who fun t =>
            (t.killP h.dmA a).killS h.dmB b).done)))

/-- Stores (R244 to R248): the bytes go to the store at the addresses of the form, and nothing else changes but dead
marks. -/
def Obligations.Stores : Prop :=
  ∀ (s : State) (h : Hdr) (w : StWidth) (fmt : Fmt) (t6 : Bool) (b c : SReg) (bv cv : VReg) (m : MReg) (k : Fin 8)
    (a : SPair) (imm : Imm) (rows : TileRows) (x : DWord) (st : Word) (v ix : VWord) (u : Tile), s.on h →
    s.me.readP a = .ok x → s.me.readS c = .ok st → s.me.readV bv none = .ok v → s.me.readV cv (some .s32) = .ok ix →
    (let one := ea x imm 0
    let n := fmt.width / 8
    let strided := strideAddrs x imm st (32 / n)
    let indexed := indexAddrs x imm ix k.val (32 / n)
    let tiled := rowAddrs x imm st (rows.cnt.val + 1)
    let image := tiled.zipIdx.map fun e => (e.1, rowImage t6 (u.row (rows.row.val + e.2)))
    let ok (align len : Nat) (ps : List Int) : Prop :=
      aligned align ps = .ok () ∧ s.access s.who (ps.map fun p => (p, len)) = .ok ()
    (∀ y, w ≠ .b64 → s.me.readS b = .ok y → ok w.bytes w.bytes [one] → exec (.st h w b a imm) s =
      ((s.storeBytes s.who one.toNat (leBytes w.bytes y.toNat)).modTs s.who fun t =>
        (t.killP h.dmA a).killS h.dmB b).done) ∧
    (∀ y, s.me.readP (SReg.pair b) = .ok y → ok 8 8 [one] → exec (.st h .b64 b a imm) s =
      ((s.storeBytes s.who one.toNat (leBytes 8 y.toNat)).modTs s.who fun t =>
        (t.killP h.dmA a).killP h.dmB (SReg.pair b)).done) ∧
    (ok 8 32 [one] → exec (.stv h false bv a imm) s =
      ((s.storeBytes s.who one.toNat (bytesOf v)).modTs s.who fun t => (t.killP h.dmA a).killV h.dmB bv).done) ∧
    (s.me.readV bv (some .t6) = .ok v → ok 8 24 [one] → exec (.stv h true bv a imm) s =
      ((s.storeBytes s.who one.toNat (packT6 (lanesOf v 8 32))).modTs s.who fun t =>
        (t.killP h.dmA a).killV h.dmB bv).done) ∧
    (ok n n strided → exec (.stvs h fmt bv a c imm) s =
      ((s.storeAll s.who (laneBytes v n strided)).modTs s.who fun t =>
        ((t.killP h.dmA a).killV h.dmB bv).killS h.dmC c).done) ∧
    (ok n n indexed → exec (.stvx h fmt k bv a cv imm) s =
      ((s.storeAll s.who (laneBytes v n indexed)).modTs s.who fun t =>
        ((t.killP h.dmA a).killV h.dmB bv).killV h.dmC cv).done) ∧
    (s.here.readTile m (if t6 then some .t6 else none) = .ok u → st.toNat % 8 = 0 → aligned 8 tiled = .ok () →
      s.access s.who (image.map fun e => (e.1, e.2.length)) = .ok () →
      exec (.stt h t6 m a c imm rows) s =
        ((s.storeAll s.who image).modTs s.who fun t => (t.killP h.dmA a).killS h.dmC c).done))

/-- The local atomic (R251): the old element is read and combined under the bank operation, the result stored, the old
value returned where a destination is named; a WRITE without one reads nothing, and the store of a pair's shadow core
combines what it holds itself (R473). LFENCE (R252) changes nothing. The operations of the bank units on integer
elements (R63). -/
def Obligations.LocalAtomics : Prop :=
  (∀ (s : State) (h : Hdr) (op : BankOp) (el : Elem) (d b : SReg) (a : SPair) (imm : Imm) (x y : DWord) (old : List Byte),
    s.on h → s.me.readP a = .ok x → s.me.readElem el b = .ok y →
    (let p := ea x imm 0
    let n := el.width / 8
    let t (v : State) : State :=
      v.modTs s.who fun t => (t.killP h.dmA a).killElem h.dmB el b
    let res (old : List Byte) : List Byte := leBytes n (bankResult op el (leNat old) y.toNat)
    let stored (bs : List Byte) : State := (s.storeBytes s.who p.toNat bs).modCore s.who.core fun k =>
      k.putTwin p.toNat (res (s.here.twinBytes p.toNat n))
    p % n = 0 → s.access s.who [(p, n)] = .ok () →
    (s.bankBytes s.who p.toNat n = .ok old → exec (.lamo h op el none a b imm) s = (t (stored (res old))).done) ∧
    (op = .write → exec (.lamo h op el none a b imm) s = (t (stored (leBytes n y.toNat))).done) ∧
    (s.loadBytes s.who p.toNat n = .ok old → s.me.freeElem el d = .ok () →
      exec (.lamo h op el (some d) a b imm) s = ((t (stored (res old))).modTs s.who fun t =>
        t.putElem el d (leNat old)).done)) ∧
    exec (.lfence h) s = s.becomes s.me) ∧
  (∀ x y : Word,
    bankResult .write .z32 x.toNat y.toNat = y.toNat ∧
    bankResult .add .z32 x.toNat y.toNat = (x + y).toNat ∧
    bankResult .min .z32 x.toNat y.toNat = min x.toNat y.toNat ∧
    bankResult .max .z32 x.toNat y.toNat = max x.toNat y.toNat ∧
    bankResult .min .s32 x.toNat y.toNat = (if y.toInt < x.toInt then y else x).toNat ∧
    bankResult .max .s32 x.toNat y.toNat = (if x.toInt < y.toInt then y else x).toNat ∧
    bankResult .and .z32 x.toNat y.toNat = (x &&& y).toNat ∧
    bankResult .or .z32 x.toNat y.toNat = (x ||| y).toNat ∧
    bankResult .xor .z32 x.toNat y.toNat = (x ^^^ y).toNat ∧
    bankResult .adds .z32 x.toNat y.toNat = min (x.toNat + y.toNat) (2 ^ 32 - 1) ∧
    (x.saddOverflow y = false → bankResult .adds .s32 x.toNat y.toNat = (x + y).toNat) ∧
    (x.saddOverflow y = true → bankResult .adds .s32 x.toNat y.toNat = if x.msb then 0x80000000 else 0x7FFFFFFF))

/-- Landing windows (R49, R52 to R55, R253, R254): LWOPEN adds an entry under the superstep that it names; LWCLOSE
frees a readable window and makes another one closing; LWDUE sets the expected count. The windows at a release (R55):
a window armed for the superstep that ends becomes readable, a closing one is gone, every other stays as it is. -/
def Obligations.LandingWindows : Prop :=
  (∀ (s : State) (h : Hdr) (now log : Bool) (a : SPair) (b : SReg) (imm : Imm) (x : DWord) (n : Word), s.on h →
    s.me.readP a = .ok x → s.me.readS b = .ok n →
    (let p := ea x imm 0
    let ws := s.here.shared.windows
    let lo : Int := s.me.pwbase.toNat
    let hi : Int := min (storeTop s.who.core : Int) s.me.pwlim.toNat
    let step := s.here.sstep
    ((max 0 lo ≤ p ∧ p + n.toNat ≤ hi ∧ p % 8 = 0 ∧ n.toNat % 8 = 0 ∧ 0 < n.toNat ∧ n.toNat ≤ 0x180000 ∧
        ws.length < 64 ∧ ∀ w ∈ ws, p + n.toNat ≤ w.base ∨ (w.base : Int) + w.len ≤ p) →
      exec (.lwopen h now log a b imm) s = ((s.modShared s.who.core fun q => { q with
        windows := q.windows ++ [{ base := p.toNat, len := n.toNat, arm := if now then step else step + 1, log := log }]
        }).modTs s.who fun t => (t.killP h.dmA a).killS h.dmB b).done) ∧
    (∀ w, ws.find? (fun w => (w.base : Int) == p) = some w → max 0 lo ≤ w.base → (w.base : Int) + w.len ≤ hi →
      (w.state ≠ .closing → exec (.lwclose h a imm) s =
        ((s.modShared s.who.core fun q => q.modWindow w.base fun w =>
          if w.state = .readable then none else some { w with state := .closing, expect := none }).modTs s.who fun t =>
            t.killP h.dmA a).done) ∧
      ((w.state = .accepting ∧ 8 ≤ n.toNat ∧ n.toNat ≤ 0x180000 ∧ n.toNat % 8 = 0 ∧ w.count ≤ n.toNat) →
        exec (.lwdue h a b imm) s =
          ((s.modShared s.who.core fun q => q.modWindow w.base fun w =>
            some { w with expect := some n.toNat, state := if w.count = n.toNat then .complete else .due }).modTs s.who
              fun t => (t.killP h.dmA a).killS h.dmB b).done)))) ∧
  (∀ (w : Window) (old : Word),
    (w.state = .closing → w.released old = none) ∧
    ((w.state = .accepting ∨ w.state = .complete) → w.arm = old → w.released old = some { w with state := .readable }) ∧
    ((w.state = .accepting ∨ w.state = .complete) → w.arm ≠ old → w.released old = some w) ∧
    (w.state = .due ∨ w.state = .readable → w.released old = some w))

/-- LWOPEN of a range that leaves the thread set's protection window, or that overlaps an entry in any state, or with
the table full, raises PROT and makes no window (R52). -/
def Obligations.WindowRefused : Prop :=
  ∀ (s : State) (h : Hdr) (now log : Bool) (a : SPair) (b : SReg) (imm : Imm) (x : DWord) (n : Word), s.on h →
    s.me.readP a = .ok x → s.me.readS b = .ok n →
    (let p := ea x imm 0
    let ws := s.here.shared.windows
    (p < s.me.pwbase.toNat ∨ (s.me.pwlim.toNat : Int) < p + n.toNat ∨
      (∃ w ∈ ws, p < w.base + w.len ∧ (w.base : Int) < p + n.toNat) ∨ 64 ≤ ws.length) →
    ∃ xval, exec (.lwopen h now log a b imm) s = s.traps .prot xval)

/-- SEND and SENDOP (R57, R61, R62, R256, R257): the payload enters the mesh as packets of at most 256 bytes, under
the next number of the send timeline. A payload is cut where its destination crosses a 256-byte boundary (R57): each
piece lies where those before it end, the pieces fill the payload, every one but the first begins at a multiple of
256, and none crosses one. -/
def Obligations.Sends : Prop :=
  (∀ (s : State) (h : Hdr) (op : BankOp) (el : Elem) (len : SendLen) (a : SPair) (b c : SReg) (imm : Imm) (x : DWord)
    (dst crd : Word) (n px py : Nat) (bs : List Byte), s.on h → s.me.readP a = .ok x → s.me.readS b = .ok dst →
    s.me.readS c = .ok crd →
    (match len with
      | .imm v => n = 8 * (v.toNat + 1)
      | .reg d => ∃ v, s.me.readS d = .ok v ∧ v.toNat = n) →
    (let src := ea x imm 0
    0 < n → n % 8 = 0 → n ≤ 65536 → src % 8 = 0 → dst.toNat % 8 = 0 → crd.toNat < 65536 →
    s.coreNamed s.who (crd.toNat % 256) (crd.toNat / 256 % 256) = some (px, py) →
    s.access s.who [(src, n)] = .ok () → s.me.sendsFull = false → s.loadBytes s.who src.toNat n = .ok bs →
    (let ps (sendop : Bool) (op : BankOp) (el : Elem) := packetsTo (s.senderOf s.who) (s.me.sendCount + 1) s.here.sstep
      s.who.t.val px py dst.toNat src.toNat bs sendop op el false
    let after (ps : List Packet) : Result := ((s.launch ps).modTs s.who fun t =>
      (((t.openSend ps.length false).killP h.dmA a).killS h.dmB b).killS h.dmC c).done
    exec (.send h len a b c imm) s = after (ps false .write .b64) ∧
    exec (.sendop h op el len a b c imm) s = after (ps true op el)))) ∧
  (∀ (snd : Sender) (number : Nat) (tag : Word) (set x y dst src : Nat) (bs : List Byte) (sendop : Bool) (op : BankOp)
    (el : Elem) (mc : Bool),
    (let ps := packetsTo snd number tag set x y dst src bs sendop op el mc
    (ps.flatMap fun p => p.bytes) = bs ∧
    (∀ i p, ps[i]? = some p →
      (let before := ((ps.take i).map fun q => q.bytes.length).sum
      p.addr = dst + before ∧ p.src = src + before ∧ (0 < i → p.addr % 256 = 0))) ∧
    (∀ p ∈ ps, 0 < p.bytes.length ∧ p.addr / 256 = (p.addr + p.bytes.length - 1) / 256 ∧ p.src - src = p.addr - dst ∧
      p.tag = tag ∧ p.x = x ∧ p.y = y ∧ p.number = number)))

/-- SUBSCRIBE, UNSUBSCRIBE (R68 to R70, R258) and TSCORE (R165, R356): the entry, and a join, leave or score packet
under the next number. BAR, BARQ, CHRON, TLWAIT and TLREAD (R259 to R263): BAR waits for the release, outside a
handler; BARQ gives the windows that are due, the sends that the thread set holds and the sets that have arrived,
retired or were not started, on a memory core the task's pushes still on their way, with the bit of a set that holds
no task set (the model's choice, log entry 75); TLWAIT ends once the timeline has reached the value and waits before.
A timeline reaches the last number of the unbroken run above it that has finished (R132, R157, R463). -/
def Obligations.SubscriptionsAndBarriers : Prop :=
  (∀ (s : State) (h : Hdr) (a b : SReg) (p : SPair) (spec base : Word) (v : DWord), s.on h → s.me.readS a = .ok spec →
    (let tag := spec.toNat % 65536
    let chan := spec.toNat / 65536 % 32
    let stack := spec.toNat / 2 ^ 21 % 8
    let left (u : Subscription) : Option Subscription :=
      if u.tag = tag ∧ ¬ u.leaving then (if u.active then some { u with leaving := true } else none) else some u
    (s.me.readS b = .ok base → s.subscribeCheck spec base = .ok () → exec (.subscribe h a b) s =
      (((s.modShared s.who.core fun q => { q with subs := q.subs ++
        [{ tag := tag, stack := stack, chan := chan, base := base.toNat, active := false, leaving := false }]
        }).launchJoin s.who tag stack chan false).modTs s.who fun t => (t.killS h.dmA a).killS h.dmB b).done) ∧
    (∀ e, s.here.shared.subs.find? (fun e => e.tag == tag && !e.leaving) = some e → spec.toNat < 65536 →
      exec (.unsubscribe h a) s = (((s.modShared s.who.core fun q => { q with subs := q.subs.filterMap left }).launchJoin s.who tag e.stack e.chan true).modTs s.who fun t => t.killS h.dmA a).done) ∧
    (∀ g, s.me.readP p = .ok v → s.gangOf s.who = some g → g.tour.isSome = true → s.me.sendsFull = false →
      (let score : ScorePkt :=
        { id := s.nextId, sender := s.senderOf s.who, number := s.me.sendCount + 1, tag := s.here.sstep, x := g.ox
          y := g.oy, value := v }
      exec (.tscore h p) s = ({ s with scores := s.scores ++ [score], nextId := s.nextId + 1 }.modTs s.who fun t =>
        (t.openSend 1 false).killP h.dmA p).done)) ∧
    ((∀ g, s.gangOf s.who = some g → g.tour = none) → s.me.readP p = .ok v →
      exec (.tscore h p) s = s.traps .illegal 7))) ∧
  (∀ (s : State) (h : Hdr) (d a : SReg) (v : VReg) (p : SPair) (sel : Fin 8) (x : Word) (y : DWord), s.on h →
    (s.me.inh = false → exec (.bar h) s = .next (s.stopped (.hold .atBar))) ∧
    (s.me.inh = true → exec (.bar h) s = s.traps .illegal 5) ∧
    (s.me.freeS d = .ok () → ∃ q : Word, exec (.barq h d) s = s.becomes (s.me.putS d q) ∧
      (let there (r : RunState) : Bool := r == .atBar || r == .retired || r == .idle
      (s.who.core.isMemory = false →
        (∀ i : Fin 4, q.getLsbD i.val = there s.here.ts[i.val].run) ∧ q.toNat / 2 ^ 4 % 2 ^ 4 = 0 ∧
        (let due := (s.here.shared.windows.filter fun w => w.state == .due).length
        let out := (s.me.sends.filter fun o => !o.join).length
        due < 256 → out < 256 → q.toNat / 2 ^ 8 % 2 ^ 8 = out ∧ q.toNat / 2 ^ 16 = due)) ∧
      (s.who.core.isMemory = true →
        (∀ i : Fin 2, q.getLsbD i.val = (match s.here.running[i.val] with
          | none => true
          | some slot => there (s.here.ts.toList.getD slot { }).run)) ∧
        q.toNat / 2 ^ 2 % 2 ^ 6 = 0 ∧ q.toNat / 2 ^ 8 = min 255 (s.me.sends.filter fun o => o.left != 0).length))) ∧
    (s.me.readS a = .ok x → s.me.freeV v = .ok () → exec (.chron h v a) s = s.becomes ((s.me.killS h.dmA a).putV v
      (BitVec.ofNat 256 (((s.here.shared.chron.ring.find (x.toNat % 512)).getD 0).toNat
        + s.here.shared.chron.head * 2 ^ 128 + s.here.shared.chron.lost * 2 ^ 160)) .ut)) ∧
    (s.me.readP p = .ok y → y.toNat ≤ s.timeline s.who sel.val →
      (let t := s.me.killP h.dmA p
      exec (.tlwait h sel p) s = s.becomes
        (if sel.val = 2 then { t with ovlWaited := max t.ovlWaited y.toNat } else t))) ∧
    (s.me.readP p = .ok y → s.timeline s.who sel.val < y.toNat →
      exec (.tlwait h sel p) s = .next (s.stopped (.hold (.atTlwait sel.val y.toNat)))) ∧
    (s.me.freeP p = .ok () →
      exec (.tlread h sel p) s = s.becomes (s.me.putP p (BitVec.ofNat 64 (s.timeline s.who sel.val))))) ∧
  (∀ (v : Nat) (done : List Nat), done.Nodup →
    (let u := climb done.length v done
    v ≤ u ∧ (∀ n, v < n → n ≤ u → n ∈ done) ∧ u + 1 ∉ done))

/-- Lane arithmetic (R271, R272, R273): exact on integers and then wrapped or limited, rounded once on floats; every
lane by itself, the flags of all lanes recorded. An integer result wraps to its format, or with .sat is limited to the
format's range and SAT recorded (R75, R271). -/
def Obligations.VectorArithmetic : Prop :=
  (∀ (s : State) (h : Hdr) (fmt : Fmt) (rm : RmCode) (sat : Bool) (d a b c : VReg) (x y z : VWord), s.on h →
    s.me.hasV fmt d a b x y → s.me.readV c (some fmt) = .ok z →
    (let m := s.me.mode rm
    let code (v : VWord) (i : Nat) : Nat := laneAt v fmt.width i
    let int (v : VWord) (i : Nat) : Int := intVal fmt (code v i)
    let num (v : VWord) (i : Nat) : Machine.Num := codeVal fmt (code v i)
    let one := s.me.killV h.dmA a
    let two := one.killV h.dmB b
    let pick (i : Int) (r : Machine.Num × Word) : Coded := if fmt.isInt then fixInt fmt sat i else rndWith fmt m sat r
    s.lanewise (exec (.vadd h fmt rm sat d a b) s) two fmt d
      (fun i => pick (int x i + int y i) (addNum m (num x i) (num y i))) ∧
    s.lanewise (exec (.vsub h fmt rm sat d a b) s) two fmt d
      (fun i => pick (int x i - int y i) (addNum m (num x i) (num y i).negate)) ∧
    s.lanewise (exec (.vmul h fmt rm sat d a b) s) two fmt d
      (fun i => pick (int x i * int y i) (mulNum (num x i) (num y i))) ∧
    s.lanewise (exec (.vmin h fmt rm sat d a b) s) two fmt d
      (fun i => pick (min (int x i) (int y i)) (minMaxNum false (num x i) (num y i), snanFlag [num x i, num y i])) ∧
    s.lanewise (exec (.vmax h fmt rm sat d a b) s) two fmt d
      (fun i => pick (max (int x i) (int y i)) (minMaxNum true (num x i) (num y i), snanFlag [num x i, num y i])) ∧
    s.lanewise (exec (.vabs h fmt rm sat d a) s) one fmt d
      (fun i => pick (int x i).natAbs ((num x i).abs, snanFlag [num x i])) ∧
    s.lanewise (exec (.vneg h fmt rm sat d a) s) one fmt d
      (fun i => pick (-(int x i)) ((num x i).negate, snanFlag [num x i])) ∧
    s.lanewise (exec (.vdiv h fmt rm sat d a b) s) two fmt d
      (fun i => rndWith fmt m sat (divNum 64 (num x i) (num y i))) ∧
    s.lanewise (exec (.vsqrt h fmt rm sat d a) s) one fmt d (fun i => rndWith fmt m sat (sqrtNum 64 (num x i))) ∧
    s.lanewise (exec (.vfma h fmt rm sat d a b c) s) (two.killV h.dmC c) fmt d
      (fun i => rndWith fmt m sat (fmaNum m (num x i) (num y i) (num z i))) ∧
    s.lanewise (exec (.vfms h fmt rm sat d a b c) s) (two.killV h.dmC c) fmt d
      (fun i => rndWith fmt m sat (fmaNum m (num x i) (num y i) (num z i).negate)))) ∧
  (∀ (f : Fmt) (v : Int), f.isInt = true →
    (let lo := intMin f.isSigned f.width
    let hi := intMax f.isSigned f.width
    intVal f (fixInt f false v).1 % 2 ^ f.width = v % 2 ^ f.width ∧ (fixInt f false v).2 = 0 ∧
    (lo ≤ v → v ≤ hi → intVal f (fixInt f true v).1 = v ∧ (fixInt f true v).2 = 0) ∧
    (v < lo → intVal f (fixInt f true v).1 = lo ∧ (fixInt f true v).2 = fSAT) ∧
    (hi < v → intVal f (fixInt f true v).1 = hi ∧ (fixInt f true v).2 = fSAT)))

/-- VRSQ, VEXP2 and VLOG2 (R274, R275): in FP16 and BF16 each lane is the exact function rounded under the mode, in
FP32, which has no mode, an exact result where there is one. The FP32 results of VRSQ, VEXP2 and VLOG2 (0, 1, 2): one
that is exact or overflows is the rounded one, and every other is a code between the ends of the bound of R274, which
one a free value says (log entry 5), with INX, and UFL where it is tiny. The special operands of R275, in FP32 and
without .sat, and the exact cases of R274: 4^k, integers, powers of two. -/
def Obligations.ApproximateFunctions : Prop :=
  (∀ (s : State) (h : Hdr) (fmt : Fmt) (rm : RmCode) (sat : Bool) (d a : VReg) (x : VWord), s.on h →
    s.me.readV a (some fmt) = .ok x → s.me.freeV d = .ok () →
    (let code (i : Nat) : Nat := laneAt x fmt.width i
    let m := s.me.mode rm
    let t := s.me.killV h.dmA a
    let exact (op i : Nat) : Coded := rndWith fmt m sat (fnNum op (codeVal fmt (code i)))
    (fmt = .fp16 ∨ fmt = .bf16 →
      s.lanewise (exec (.vrsq h fmt rm sat d a) s) t fmt d (exact 0) ∧
      s.lanewise (exec (.vexp2 h fmt rm sat d a) s) t fmt d (exact 1) ∧
      s.lanewise (exec (.vlog2 h fmt rm sat d a) s) t fmt d (exact 2)) ∧
    (fmt = .fp32 →
      s.lanewise (exec (.vrsq h fmt rm sat d a) s) t fmt d (fun i => fnFp32 0 sat (code i)) ∧
      s.lanewise (exec (.vexp2 h fmt rm sat d a) s) t fmt d (fun i => fnFp32 1 sat (code i)) ∧
      s.lanewise (exec (.vlog2 h fmt rm sat d a) s) t fmt d (fun i => fnFp32 2 sat (code i))))) ∧
  (∀ (op a : Nat) (sat : Bool), op < 3 → a < 2 ^ 32 →
    (let arg := codeVal .fp32 a
    let x := fnNum op arg
    let y := rnd .fp32 .rne sat x.1
    let w := fnBound op arg x.1
    let lo := fp32Ord (rnd .fp32 .rup false (subNum .rne x.1 w).1).1
    let hi := fp32Ord (rnd .fp32 .rdn false (addNum .rne x.1 w).1).1
    (y.2 &&& fINX = 0 ∨ y.2 &&& fOFL ≠ 0 → fnFp32 op sat a = (y.1, y.2 ||| x.2)) ∧
    (y.2 &&& fINX ≠ 0 → y.2 &&& fOFL = 0 → ∃ i : Nat, lo + i ≤ max lo hi ∧
      (let r := fp32OfOrd (lo + i)
      fnFp32 op sat a = (r, fINX ||| (if r % 2 ^ 31 < 2 ^ 23 then fUFL else 0)))))) ∧
  (let nan := 0x7FC00000
  let inf := 0x7F800000
  (∀ e ∈ [(0x00000000, inf, fDZ), (0x80000000, 0xFF800000, fDZ), (0xBF800000, nan, fINV), (inf, 0, 0), (0xFF800000, nan, fINV),
      (nan, nan, 0), (0x7F800001, nan, fINV)], fnFp32 0 false e.1 = e.2) ∧
  (∀ e ∈ [(0x00000000, 0x3F800000, 0), (0x80000000, 0x3F800000, 0), (inf, inf, 0), (0xFF800000, 0, 0), (nan, nan, 0),
      (0x7F800001, nan, fINV)], fnFp32 1 false e.1 = e.2) ∧
  (∀ e ∈ [(0x00000000, 0xFF800000, fDZ), (0x80000000, 0xFF800000, fDZ), (0xBF800000, nan, fINV), (inf, inf, 0),
      (0xFF800000, nan, fINV), (nan, nan, 0), (0x7F800001, nan, fINV)], fnFp32 2 false e.1 = e.2) ∧
  (∀ k : Int, -126 ≤ k → k ≤ 127 →
    (let power := ((k + 127) * 2 ^ 23).toNat
    let whole := (rnd .fp32 .rne false (Num.ofIntAt k 0)).1
    fnFp32 1 false whole = (power, 0) ∧ fnFp32 2 false power = (whole, 0))) ∧
  ∀ k : Int, -63 ≤ k → k ≤ 63 → fnFp32 0 false ((2 * k + 127) * 2 ^ 23).toNat = (((127 - k) * 2 ^ 23).toNat, 0))

/-- Comparison, selection, bitwise operations and shifts of lanes (R276 to R279). That the result of a bitwise
operation whose first source is dead, and reads as zero, is untagged is DEDUCED (log entry 60). The movement of lanes
(R280 to R284): a lane of the result is a lane of a source, by position, by index, or by the pattern. -/
def Obligations.VectorSelectionAndMovement : Prop :=
  (∀ (s : State) (h : Hdr) (fmt : Fmt) (c : FCond) (d a b : VReg) (r q : SReg) (x y u v : VWord) (m : Word)
    (k : Fin 32), s.on h → s.me.hasV fmt d a b x y → s.me.readV a none = .ok u → s.me.readV b none = .ok v →
    s.me.freeS r = .ok () → s.me.readS q = .ok m →
    (let w := fmt.width
    let two := (s.me.killV h.dmA a).killV h.dmB b
    let verdict (i : Nat) : Bool × Word := fcondHolds c (codeVal fmt (laneAt x w i)) (codeVal fmt (laneAt y w i))
    (∃ z : Word, exec (.vcmp h fmt c r a b) s = s.becomes ((two.putS r z).flag
        ((List.range fmt.lanes).foldl (fun fl i => fl ||| (verdict i).2) 0)) ∧
      (∀ i, i < fmt.lanes → i < 32 → z.getLsbD i = (verdict i).1) ∧ (∀ i, fmt.lanes ≤ i → z.getLsbD i = false)) ∧
    s.lanewise (exec (.vsel h fmt d a b q) s) (two.killS h.dmC q) fmt d
      (fun i => (if m.getLsbD i then laneAt x w i else laneAt y w i, 0)) ∧
    (s.me.tagV a ≠ .t6 →
      exec (.vand h d a b) s = s.becomes (two.putV d (u &&& v) (s.me.tagV a)) ∧
      exec (.vor h d a b) s = s.becomes (two.putV d (u ||| v) (s.me.tagV a)) ∧
      exec (.vxor h d a b) s = s.becomes (two.putV d (u ^^^ v) (s.me.tagV a))) ∧
    (s.me.tagV a = .t6 → ∀ e ∈ [(Instr.vand h d a b, u &&& v), (.vor h d a b, u ||| v), (.vxor h d a b, u ^^^ v)],
      ∃ z, exec e.1 s = s.becomes (two.putV d z .t6) ∧ ∀ i, i < 32 → laneAt z 8 i = laneAt e.2 8 i % 64) ∧
    s.lanewise (exec (.vshl h fmt d a (.reg b)) s) two fmt d (fun i => (laneAt x w i * 2 ^ laneAt y w i, 0)) ∧
    s.lanewise (exec (.vshl h fmt d a (.imm k)) s) (s.me.killV h.dmA a) fmt d (fun i => (laneAt x w i * 2 ^ k.val, 0)) ∧
    s.lanewise (exec (.vshr h fmt d a (.reg b)) s) two fmt d (fun i => (laneAt x w i / 2 ^ laneAt y w i, 0)) ∧
    s.lanewise (exec (.vshr h fmt d a (.imm k)) s) (s.me.killV h.dmA a) fmt d (fun i => (laneAt x w i / 2 ^ k.val, 0)) ∧
    s.lanewise (exec (.vshra h fmt d a (.reg b)) s) two fmt d
      (fun i => (ofInt w (toSigned w (laneAt x w i) / 2 ^ laneAt y w i), 0)) ∧
    s.lanewise (exec (.vshra h fmt d a (.imm k)) s) (s.me.killV h.dmA a) fmt d
      (fun i => (ofInt w (toSigned w (laneAt x w i) / 2 ^ k.val), 0)))) ∧
  (∀ (s : State) (h : Hdr) (fmt : Fmt) (d a b c : VReg) (p q : SReg) (x y z t v : VWord) (e : Nat) (n : Word) (imm : Imm)
    (sat : Bool) (lane : Fin 32), s.on h → s.me.readV a none = .ok x → s.me.readV b none = .ok y →
    s.me.readV c none = .ok z → s.me.readV a (some fmt) = .ok v → s.me.freeV d = .ok () → s.me.readV d none = .ok t →
    s.me.readLane fmt p = .ok e → s.me.readS q = .ok n →
    (let w := fmt.width
    let k := fmt.lanes
    let one := s.me.killV h.dmA a
    let two := one.killV h.dmB b
    let code (v : VWord) (i : Nat) : Coded := (laneAt v w i, 0)
    s.lanewise (exec (.vperm h fmt d a b c) s) (two.killV h.dmC c) fmt d (fun i =>
      let j := laneAt y 8 i
      if 128 ≤ j then (0, 0) else if j % (2 * k) < k then code x (j % (2 * k)) else code z (j % (2 * k) - k)) ∧
    s.lanewise (exec (.vbcast h fmt d p) s) (s.me.killLane h.dmA fmt p) fmt d (fun _ => (e, 0)) ∧
    s.lanewise (exec (.vshuf h fmt (.ilo b) d a) s) two fmt d
      (fun i => if i % 2 = 0 then code x (i / 2) else code y (i / 2)) ∧
    s.lanewise (exec (.vshuf h fmt (.ihi b) d a) s) two fmt d
      (fun i => if i % 2 = 0 then code x (k / 2 + i / 2) else code y (k / 2 + i / 2)) ∧
    s.lanewise (exec (.vshuf h fmt (.even b) d a) s) two fmt d
      (fun i => if i < k / 2 then code x (2 * i) else code y (2 * (i - k / 2))) ∧
    s.lanewise (exec (.vshuf h fmt (.odd b) d a) s) two fmt d
      (fun i => if i < k / 2 then code x (2 * i + 1) else code y (2 * (i - k / 2) + 1)) ∧
    s.lanewise (exec (.vshuf h fmt .rev d a) s) one fmt d (fun i => code x (k - 1 - i)) ∧
    s.lanewise (exec (.vshuf h fmt (.rot lane) d a) s) one fmt d (fun i => code x ((i + lane.val) % k)) ∧
    s.lanewise (exec (.vmovs h fmt d p lane) s) (s.me.killLane h.dmA fmt p) fmt d
      (fun i => if i = lane.val then (e, 0) else code t i) ∧
    s.lanewise (exec (.viota h fmt sat d q imm) s) (s.me.killS h.dmA q) fmt d
      (fun i => fixInt fmt sat (n.toInt + i * imm.toInt)) ∧
    (s.me.freeWide (fmt == .fp64) q = .ok () →
      exec (.vexts h fmt q a lane) s = s.becomes (one.putWide (fmt == .fp64) q
        (if fmt = .t6 then laneAt v w lane.val % 64
          else if fmt = .s8 ∨ fmt = .s16 then ofInt 32 (toSigned w (laneAt v w lane.val))
          else laneAt v w lane.val)))))

/-- VSEL (R277): lane i of A where bit i of the mask is 1, else of B; mask bits from the lane count on do not count;
both sources are read and checked whatever the mask holds; the destination gets the tag of the format. -/
def Obligations.VectorSelect : Prop :=
  ∀ (s : State) (h : Hdr) (fmt : Fmt) (d a b : VReg) (c : SReg), s.on h →
    (encode (.vsel h fmt d a b c)).extractLsb' 88 8 = 0x6F ∧
    (∀ e, s.me.readV a (some fmt) = .error e → exec (.vsel h fmt d a b c) s = .next (s.stopped e)) ∧
    (∀ x e, s.me.readV a (some fmt) = .ok x → s.me.readV b (some fmt) = .error e →
      exec (.vsel h fmt d a b c) s = .next (s.stopped e)) ∧
    (∀ (x y : VWord) (m : Word), s.me.hasV fmt d a b x y → s.me.readS c = .ok m →
      ∃ v, exec (.vsel h fmt d a b c) s =
          s.becomes ((((s.me.killV h.dmA a).killV h.dmB b).killS h.dmC c).putV d v fmt) ∧
        (∀ u : ThreadSet, (u.putV d v fmt).vTag[d] = fmt) ∧
        ∀ i, i < fmt.lanes → laneAt v fmt.width i =
          (if m.getLsbD i then laneAt x fmt.width i else laneAt y fmt.width i) % 2 ^ Fmt.elementBits fmt)

/-- VIOTA (R284): lane i of the destination is the signed scalar plus i times the signed immediate, brought into the
format; the destination gets the tag of the format. -/
def Obligations.IndexVector : Prop :=
  ∀ (s : State) (h : Hdr) (fmt : Fmt) (sat : Bool) (d : VReg) (a : SReg) (imm : Imm) (x : Word), s.on h →
    s.me.readS a = .ok x → s.me.freeV d = .ok () →
    (encode (.viota h fmt sat d a imm)).extractLsb' 88 8 = 0x7F ∧
    ∃ (v : VWord) (fl : Word), exec (.viota h fmt sat d a imm) s =
        s.becomes (((s.me.killS h.dmA a).putV d v fmt).flag fl) ∧
      (∀ u : ThreadSet, (u.putV d v fmt).vTag[d] = fmt) ∧
      ∀ i, i < fmt.lanes → laneAt v fmt.width i =
        (fixInt fmt sat (x.toInt + i * imm.toInt)).1 % 2 ^ Fmt.elementBits fmt

/-- Reductions (R285): integers to a 32-bit sum, maximum or minimum of all lanes; floats by the pairwise tree. VDOT
(R286): each 32-bit lane takes the exact sum of its group's products and its addend, wrapped, limited or rounded once.
-/
def Obligations.ReductionsAndDots : Prop :=
  (∀ (s : State) (h : Hdr) (fmt : Fmt) (rm : RmCode) (sat : Bool) (d : SReg) (a : VReg) (x : VWord), s.on h →
    s.me.readV a (some fmt) = .ok x → s.me.freeWide (fmt == .fp64) d = .ok () →
    (let t := s.me.killV h.dmA a
    let codes := (List.range fmt.lanes).map (laneAt x fmt.width)
    let ints := codes.map (intVal fmt)
    let m := s.me.mode rm
    let f32 : Fmt := if fmt.isSigned then .s32 else .z32
    let tree (op : Nat → Nat → Coded) : Coded := let q := treeReduce op 4 codes; (q.1.headD 0, q.2)
    (fmt.isInt = true →
      exec (.vredadd h fmt rm sat d a) s = s.becomes
        ((t.putS d (BitVec.ofNat 32 (fixInt f32 sat ints.sum).1)).flag (fixInt f32 sat ints.sum).2) ∧
      (∃ v ∈ ints, (∀ u ∈ ints, u ≤ v) ∧ exec (.vredmax h fmt rm d a) s = s.becomes (t.putS d (BitVec.ofInt 32 v))) ∧
      (∃ v ∈ ints, (∀ u ∈ ints, v ≤ u) ∧ exec (.vredmin h fmt rm d a) s = s.becomes (t.putS d (BitVec.ofInt 32 v)))) ∧
    (fmt.isInt = false →
      (let add := tree (lane2 fmt m sat (· + ·) (addNum m))
      let mx := tree (lane2 fmt m false max (minMaxFlag true))
      let mn := tree (lane2 fmt m false min (minMaxFlag false))
      exec (.vredadd h fmt rm sat d a) s = s.becomes ((t.putWide (fmt == .fp64) d add.1).flag add.2) ∧
      exec (.vredmax h fmt rm d a) s = s.becomes ((t.putWide (fmt == .fp64) d mx.1).flag mx.2) ∧
      exec (.vredmin h fmt rm d a) s = s.becomes ((t.putWide (fmt == .fp64) d mn.1).flag mn.2))))) ∧
  (∀ (s : State) (h : Hdr) (fmt : Fmt) (rm : RmCode) (sat : Bool) (d a b c : VReg) (x y z : VWord), s.on h →
    s.me.hasV fmt d a b x y → s.me.readV c (some (dotAcc fmt)) = .ok z →
    (let g := 32 / fmt.width
    let t := ((s.me.killV h.dmA a).killV h.dmB b).killV h.dmC c
    let int (v : VWord) (i : Nat) : Int := intVal fmt (laneAt v fmt.width i)
    let num (v : VWord) (i : Nat) : Machine.Num := codeVal fmt (laneAt v fmt.width i)
    (fmt.isInt = true → s.lanewise (exec (.vdot h fmt rm sat d a b c) s) t (dotAcc fmt) d fun j =>
      fixInt (dotAcc fmt) sat (((List.range g).map fun i => int x (g * j + i) * int y (g * j + i)).sum
        + intVal (dotAcc fmt) (laneAt z 32 j))) ∧
    (fmt.isInt = false → s.lanewise (exec (.vdot h fmt rm sat d a b c) s) t .fp32 d fun j =>
      rndWith .fp32 (s.me.mode rm) sat (dotNum (s.me.mode rm)
        ((List.range g).map fun i => (num x (g * j + i), num y (g * j + i))) (codeVal .fp32 (laneAt z 32 j))))))

/-- Conversion and tags (R287, R288, R293, R294): a widening conversion fills the part of the destination that it
names and zeroes the rest; a narrowing one takes the part of its source. Block quantisation (R289 to R292): VQUANT
chooses the block's scale code and gives it beside the codes, VSCALE quantises against a given one, VDEQ scales the
codes back into the wide group. -/
def Obligations.Conversions : Prop :=
  (∀ (s : State) (h : Hdr) (dst src : Fmt) (rm : RmCode) (sat : Bool) (part : Fin 8) (d a : VReg) (r : SReg) (m : MReg)
    (k : CReg) (x u : VWord), s.on h → s.me.readV a (some src) = .ok x → s.me.freeV d = .ok () →
    s.me.readV a none = .ok u → s.me.freeS r = .ok () → s.me.vDead[a] = false →
    (let cv (i : Nat) : Coded := convert dst src (s.me.mode rm) sat (laneAt x src.width i)
    let p := part.val
    (dst.lanes ≤ src.lanes → p * dst.lanes + dst.lanes ≤ src.lanes → ∃ v,
      exec (.vcvt h dst src rm sat part d a) s = s.becomes (((s.me.killV h.dmA a).putV d v dst).flag
        ((List.range dst.lanes).foldl (fun fl i => fl ||| (cv (p * dst.lanes + i)).2) 0)) ∧
      ∀ i, i < dst.lanes → laneAt v dst.width i = (cv (p * dst.lanes + i)).1 % 2 ^ Fmt.elementBits dst) ∧
    (src.lanes ≤ dst.lanes → p * src.lanes + src.lanes ≤ dst.lanes → ∃ v,
      exec (.vcvt h dst src rm sat part d a) s = s.becomes (((s.me.killV h.dmA a).putV d v dst).flag
        ((List.range src.lanes).foldl (fun fl i => fl ||| (cv i).2) 0)) ∧
      ∀ i, i < dst.lanes → laneAt v dst.width i = (if p * src.lanes ≤ i ∧ i < p * src.lanes + src.lanes then
        (cv (i - p * src.lanes)).1 % 2 ^ Fmt.elementBits dst else 0))) ∧
    exec (.vtag h dst d a) s = s.becomes ((s.me.killV h.dmA a).putV d u dst) ∧
    exec (.vtagq h r (.vec a)) s = s.becomes (s.me.putS r (BitVec.ofNat 32 s.me.vTag[a].code)) ∧
    (s.here.tileFree m = .ok () →
      exec (.vtagq h r (.tile m)) s = s.becomes (s.me.putS r (BitVec.ofNat 32 s.here.shared.tiles[m].tag.code))) ∧
    (s.here.accFree k = .ok () →
      exec (.vtagq h r (.acc k)) s = s.becomes (s.me.putS r (BitVec.ofNat 32 s.here.shared.accs[k].tag.code)))) ∧
  (∀ (s : State) (h : Hdr) (qf : Fmt) (wf : WideFmt) (rm : RmCode) (sat : Bool) (d a : VReg) (b : SReg)
    (vs : List VWord) (x : VWord) (c : Word), s.on h →
    (let group (r : VReg) := groupRegs r wf.group
    let killed := (group a).foldl (fun t r => t.killV h.dmA r) s.me
    let wide := (groupLanes vs wf.fmt.width).map (codeVal wf.fmt)
    (s.me.readGroup wf.fmt (group a) = .ok vs → s.me.freeV d = .ok () →
      (s.me.freeS b = .ok () → exec (.vquant h qf wf d a b) s = s.becomes (((killed.putV d
        (blockVec qf (quantBlock qf wide).2.1) qf).putS b (BitVec.ofNat 32 (quantBlock qf wide).1)).flag
          (quantBlock qf wide).2.2)) ∧
      (s.me.readS b = .ok c → exec (.vscale h qf wf d a b) s = s.becomes (((killed.killS h.dmB b).putV d
        (blockVec qf (wide.map fun v => (quantAgainst qf (c.toNat % 256) v).1)) qf).flag
          (lanesFlags (wide.map (quantAgainst qf (c.toNat % 256))))))) ∧
    (s.me.readV a (some qf) = .ok x → s.me.readS b = .ok c → (∀ r ∈ group d, s.me.freeV r = .ok ()) →
      (let cs := (lanesOf x qf.width 32).map fun q => rnd wf.fmt (s.me.mode rm) sat (scaled qf q (c.toNat % 256))
      let n := 256 / wf.fmt.width
      exec (.vdeq h qf wf rm sat d a b) s = s.becomes (((group d).zipIdx.foldl (fun (t : ThreadSet) e =>
        t.putV e.1 (vecOf wf.fmt (((cs.map (·.1)).drop (n * e.2)).take n)) wf.fmt)
          ((s.me.killV h.dmA a).killS h.dmB b)).flag (lanesFlags cs))))))

/-- Flinum arithmetic (R297, R299, R300): the exact result of the operand values, rounded once to PREC, is written,
and the flags of the operation recorded. Rounding to PREC (R97, R99, R101, R297): a value of at most PREC significant
bits in range is written exactly and with no flag; a longer one raises INX, or in exact mode traps PXH with the bits
it needs. -/
def Obligations.FlinumArithmetic : Prop :=
  (∀ (s t : State) (h : Hdr) (rm : RmCode) (x sat : Bool) (d a b c : FReg) (q : SReg) (n : Word) (fl : Word), s.on h →
    (let out : Result := (t.modTs t.who fun u => u.flag fl).done
    let one := [(a, h.dmA)]
    let two := [(a, h.dmA), (b, h.dmB)]
    let first (vs : List Machine.Num) : Machine.Num := vs.getD 0 .nav
    let second (vs : List Machine.Num) : Machine.Num := vs.getD 1 .nav
    let third (vs : List Machine.Num) : Machine.Num := vs.getD 2 .nav
    let unary (f : RmCode → Machine.Num → Machine.Num) (m : RmCode) (vs : List Machine.Num) : Exact :=
      { x := f m (first vs), flags := if (first vs).isSnan then fINV else 0 }
    (s.flinum d two rm x sat (fun m vs => Exact.of (addNum m (first vs) (second vs))) fl t →
      exec (.fadd h rm x sat d a b) s = out) ∧
    (s.flinum d two rm x sat (fun m vs => Exact.of (addNum m (first vs) (second vs).negate)) fl t →
      exec (.fsub h rm x sat d a b) s = out) ∧
    (s.flinum d two rm x sat (fun _ vs => Exact.of (mulNum (first vs) (second vs))) fl t →
      exec (.fmul h rm x sat d a b) s = out) ∧
    (s.flinum d two rm x sat (fun _ vs => flDiv (first vs) (second vs)) fl t →
      exec (.fdiv h rm x sat d a b) s = out) ∧
    (s.flinum d [(a, h.dmA), (b, h.dmB), (c, h.dmC)] rm x sat
        (fun m vs => Exact.of (fmaNum m (first vs) (second vs) (third vs))) fl t →
      exec (.ffma h rm x sat d a b c) s = out) ∧
    (s.flinum d one rm x sat (fun _ vs => flSqrt (first vs)) fl t → exec (.fsqrt h rm x sat d a) s = out) ∧
    (s.flinum d one rm x sat (unary fun _ v => v.abs) fl t → exec (.fabs h rm x sat d a) s = out) ∧
    (s.flinum d one rm x sat (unary fun _ v => v.negate) fl t → exec (.fneg h rm x sat d a) s = out) ∧
    (s.flinum d one rm x sat (unary fun _ v => v) fl t → exec (.fmov h rm x sat d a) s = out) ∧
    (s.flinum d one rm x sat (unary fun m v => roundToInt m v) fl t → exec (.fround h rm x sat d a) s = out) ∧
    (s.me.readS q = .ok n → s.flinum d one rm x sat (unary fun _ v => scaleNum n.toInt v) fl t →
      exec (.fscalb h rm x sat d a q) s = (t.modTs t.who fun u => (u.killS h.dmB q).flag fl).done))) ∧
  (∀ (p : Nat) (mode : RmCode) (x sat neg : Bool) (m : Nat) (e : Int) (f : Word), 8 ≤ p → p ≤ 512 → m ≠ 0 →
    -8388607 ≤ e + bitLen m - 1 → e + bitLen m - 1 < 8388607 →
    (sigBits m ≤ p → ∃ y, flFinish p mode x sat { x := .fin neg m e, flags := f } = .ok (y, f) ∧ y.neg = neg ∧
      y.cls = .normal ∧ y.limbs = (p + 31) / 32 ∧ (y.exp.toNat : Int) = e + bitLen m - 1 + 0x800000 ∧
      y.sig * 2 ^ bitLen m = m * 2 ^ (32 * y.limbs)) ∧
    (p < sigBits m → ∃ y, flFinish p mode false sat { x := .fin neg m e, flags := f } = .ok (y, f ||| fINX) ∧
      y.neg = neg ∧ y.cls = .normal ∧ y.limbs = (p + 31) / 32) ∧
    (p < sigBits m → flFinish p mode true sat { x := .fin neg m e, flags := f } =
      .error (.pxh (BitVec.ofNat 32 (sigBits m)))))

/-- Conversions into Flinum (R302, R305): from FP64, from integers, with the exact sum of four FP64 lanes, and of an
immediate. Conversions out of Flinum, comparison and exponent (R301, R302, R308). -/
def Obligations.FlinumConversions : Prop :=
  (∀ (s t : State) (h : Hdr) (rm : RmCode) (x sat : Bool) (d a : FReg) (p : SPair) (q : SReg) (b : VReg) (v : DWord)
    (n : Word) (w : VWord) (imm : Imm) (fl : Word), s.on h → s.me.readP p = .ok v → s.me.readS q = .ok n →
    s.me.readV b (some .fp64) = .ok w →
    (let plain (z : Machine.Num) : Exact := { x := z, flags := 0 }
    let r := codeVal .fp64 v.toNat
    (s.flinum d [] rm x sat (fun _ _ => { x := r, flags := if r.isSnan then fINV else 0, inf := r.isInf }) fl t →
      exec (.fcvtd h rm x sat d p) s = (t.modTs t.who fun u => (u.killP h.dmA p).flag fl).done) ∧
    (s.flinum d [] rm x sat (fun _ _ => plain (Machine.Num.ofIntAt n.toInt 0)) fl t →
      exec (.fcvts h rm x sat d (.w32 q)) s = (t.modTs t.who fun u => (u.killS h.dmA q).flag fl).done) ∧
    (s.flinum d [] rm x sat (fun _ _ => plain (Machine.Num.ofIntAt v.toInt 0)) fl t →
      exec (.fcvts h rm x sat d (.w64 p)) s = (t.modTs t.who fun u => (u.killP h.dmA p).flag fl).done) ∧
    (s.flinum d [] rm x sat (fun _ _ => plain (Machine.Num.ofIntAt imm.toInt 0)) fl t →
      exec (.fldc h rm x sat d (.imm imm)) s = (t.modTs t.who fun u => u.flag fl).done) ∧
    (s.flinum d [(a, h.dmA)] rm x sat (fun m vs =>
        let lanes := (List.range 4).map fun i => codeVal .fp64 (laneAt w 64 i)
        let all := vs ++ lanes
        let sum := lanes.foldl (fun (acc : Machine.Num × Word) z => ((addNum m acc.1 z).1, acc.2 ||| (addNum m acc.1 z).2))
          (vs.headD .nav, 0)
        if all.any Machine.Num.isNan then
          { x := .nan false
            flags := snanFlag all ||| (if lanes.any Machine.Num.isNan || (all.contains (.inf false) && all.contains (.inf true))
              then fINV else 0) }
        else { x := sum.1, flags := sum.2, inf := all.any Machine.Num.isInf }) fl t →
      exec (.faccv h rm x sat d a b) s = (t.modTs t.who fun u => (u.killV h.dmB b).flag fl).done))) ∧
  (∀ (s s1 : State) (h : Hdr) (rm : RmCode) (x sat : Bool) (c : FCond) (a b : FReg) (d : SReg) (p : SPair) (q : PReg)
    (t : ThreadSet), s.on h →
    (let one := [(a, h.dmA)]
    let two := [(a, h.dmA), (b, h.dmB)]
    let v := flNum (t.valF a)
    let put (t : ThreadSet) (srcs : List (FReg × Bool)) : Result := (s1.setTs s1.who (t.release none srcs)).done
    (s.flinumIn two s1 t → exec (.fcmp h c q a b) s =
      put ((t.putPred q (fcondHolds c v (flNum (t.valF b))).1).flag (fcondHolds c v (flNum (t.valF b))).2) two) ∧
    (s.flinumIn one s1 t → s.me.freeP p = .ok () →
      (let r := rnd .fp64 (t.mode rm) sat v
      (x = false ∨ r.2 &&& fINX = 0 → exec (.ftod h rm x sat p a) s =
        put ((t.putP p (BitVec.ofNat 64 r.1)).flag (r.2 ||| if v.isSnan then fINV else 0)) one) ∧
      (r.2 &&& fINX ≠ 0 → exec (.ftod h rm true sat p a) s = .next (s.stopped (.pxh 0))))) ∧
    (s.flinumIn one s1 t → s.me.freeS d = .ok () →
      (let r := rndIntW true 32 (t.mode rm) v
      (x = false ∨ r.2 = 0 → exec (.ftos h rm x (.w32 d) a) s = put ((t.putS d (BitVec.ofNat 32 r.1)).flag r.2) one) ∧
      (r.2 ≠ 0 → exec (.ftos h rm true (.w32 d) a) s = .next (s.stopped (.pxh 0))) ∧
      exec (.fexp h d a) s = put (t.putS d (match (t.valF a).cls with
        | .normal => BitVec.ofInt 32 ((t.valF a).exp.toNat - 0x800000)
        | _ => 0x80000000)) one)) ∧
    (s.flinumIn one s1 t → s.me.freeP p = .ok () →
      (let r := rndIntW true 64 (t.mode rm) v
      (x = false ∨ r.2 = 0 → exec (.ftos h rm x (.w64 p) a) s = put ((t.putP p (BitVec.ofNat 64 r.1)).flag r.2) one) ∧
      (r.2 ≠ 0 → exec (.ftos h rm true (.w64 p) a) s = .next (s.stopped (.pxh 0)))))))

/-- The window (R103, R106, R107): sources that are resident need no refill; a result takes the lowest run of free
limbs once its destination and the sources marked dead are released; a dead source is +0 or DEADREAD. A record holds a
Flinum whole (R96, R108, R109): reading back what was written gives the value. FPREC with a precision of 8 to 512,
FREL of a range, FLEN, LDF, STF and literals (R98, R249, R250, R304 to R307). A precision that FPREC reads outside 8
to 512 is ILLEGAL with XVAL holding it. -/
def Obligations.FlinumRegisters : Prop :=
  (∀ (s : State) (d a : FReg) (skip : List FReg) (srcs : List (FReg × Bool)) (y : Flinum) (i k : Nat) (v : Flinum),
    (s.me.f[a] = .resident k v → s.refill s.who skip [a] = .ok s ∧ s.me.valF a = v ∧ s.me.checkF a = .ok ()) ∧
    (s.me.f[a] = .dead → s.me.deadZero = true → s.me.checkF a = .ok () ∧ flNum (s.me.valF a) = .fin false 0 0) ∧
    (s.me.f[a] = .dead → s.me.deadZero = false →
      s.me.checkF a = .error (.trap .deadread (BitVec.ofNat 32 a.val))) ∧
    ((s.me.release (some d) srcs).firstFit y.limbs = some i → s.writeF s.who d srcs y = .ok
      (s.setTs s.who { s.me.release (some d) srcs with
        f := (s.me.release (some d) srcs).f.set d (.resident i y) })) ∧
    (s.me.firstFit y.limbs = some i → i + y.limbs ≤ 256 ∧
      ∀ r ∈ s.me.runs, i + y.limbs ≤ r.1 ∨ r.1 + r.2 ≤ i)) ∧
  (∀ v : Flinum, 1 ≤ v.limbs → v.limbs ≤ 16 →
    (v.cls = .normal → v.exp ≠ 0 → 2 ^ (32 * v.limbs - 1) ≤ v.sig → v.sig < 2 ^ (32 * v.limbs) →
      parseRecord (flRecord v) = .ok v) ∧
    (v.cls ≠ .normal → v.exp = 0 → v.sig = 0 → (v.cls = .qnan → v.neg = false) → parseRecord (flRecord v) = .ok v) ∧
    (flRecord v).length = 4 + 4 * v.limbs) ∧
  (∀ (s : State) (h : Hdr) (rm : RmCode) (x : Bool) (d a : FReg) (q : SReg) (p : SPair) (imm : Imm) (n : Word)
    (k : Fin 1024) (base : DWord) (sat : Bool), s.on h → s.me.readP p = .ok base →
    (let e := ea base imm 0
    (8 ≤ k.val → k.val ≤ 512 → exec (.fprec h (.imm k)) s = s.becomes { s.me with prec := BitVec.ofNat 32 k.val }) ∧
    (s.me.readS q = .ok n → 8 ≤ n.toNat → n.toNat ≤ 512 →
      exec (.fprec h (.reg q)) s = s.becomes { s.me.killS h.dmA q with prec := n }) ∧
    (s.me.readS q = .ok n → (n.toNat < 8 ∨ 512 < n.toNat) → exec (.fprec h (.reg q)) s = s.traps .illegal n) ∧
    (d.val ≤ a.val → ∃ f : Vector FSlot 32, exec (.frel h d (some a)) s = s.becomes { s.me with f := f } ∧
      ∀ i : FReg, f[i] = if d.val ≤ i.val ∧ i.val ≤ a.val then .dead else s.me.f[i]) ∧
    (∃ f : Vector FSlot 32, exec (.frel h d none) s = s.becomes { s.me with f := f } ∧
      ∀ i : FReg, f[i] = if i = d then .dead else s.me.f[i]) ∧
    (s.me.freeS q = .ok () → exec (.flen h q a) s = s.becomes (s.me.putS q (flenWord s.me.f[a]))) ∧
    (∀ hd bs v t, e % 4 = 0 → s.access s.who [(e, 4)] = .ok () → s.loadBytes s.who e.toNat 4 = .ok hd →
      s.access s.who [(e, 4 + 4 * headLimbs hd)] = .ok () →
      s.loadBytes s.who e.toNat (4 + 4 * headLimbs hd) = .ok bs → parseRecord bs = .ok v →
      s.putRecord d rm x false true v = .ok t →
      exec (.ldf h rm x d p imm) s = (t.modTs t.who fun u => u.killP h.dmA p).done) ∧
    (∀ c lines off bs v t, s.capsuleOf s.who = some c →
      litRecord c (((s.me.pc.toNat / 64 : Nat) : Int) + lines.toInt) off.val = .ok bs → parseRecord bs = .ok v →
      s.putRecord d rm x sat false v = .ok t → exec (.fldc h rm x sat d (.literal lines off)) s = t.done) ∧
    (∀ s1 t, s.flinumIn [(a, h.dmB)] s1 t → e % 4 = 0 →
      s1.access s.who [(e, (flRecord (t.valF a)).length)] = .ok () →
      exec (.stf h a p imm) s = (((s1.storeBytes s.who e.toNat (flRecord (t.valF a))).modTs s.who fun u =>
        (u.killP h.dmA p).release none [(a, h.dmB)]).done))))

/-- MDESC, MMETA, MSCL and MZERO (R122, R128, R129, R314, R315): the record is read, checked and held; a bad one traps
and leaves what is held as it was. MDRAIN (R316): the rows of the accumulator tile, converted under the rounding mode,
go to the store at the pitch, and with .z become zero. The row and column ports of a tile register (R317, R318). That
a dead source, which reads as zero, leaves the tile untagged is DEDUCED (log entry 60). -/
def Obligations.MatrixAndTiles : Prop :=
  (∀ (s : State) (h : Hdr) (a : SPair) (imm : Imm) (x : DWord) (bset fp64 : Bool) (d : CReg) (bs : List Byte), s.on h →
    s.me.readP a = .ok x →
    (let p := ea x imm 0
    let read (n : Nat) : Prop := p % 8 = 0 ∧ s.access s.who [(p, n)] = .ok () ∧ s.loadBytes s.who p.toNat n = .ok bs
    let kept (f : Shared → Shared) : Result := ((s.modShared s.who.core f).modTs s.who fun t => t.killP h.dmA a).done
    let desc : BitVec 256 := ofBytes 256 bs
    let data : BitVec 2048 := ofBytes 2048 bs
    (read 32 → descBad desc = none → exec (.mdesc h a imm) s = kept fun q => { q with desc := desc }) ∧
    (∀ i, read 32 → descBad desc = some i → exec (.mdesc h a imm) s = s.traps .prot (BitVec.ofInt 32 (p + 4 * i))) ∧
    (read 256 → metaBad data = none → exec (.mmeta h a imm) s = kept fun q => { q with smeta := data }) ∧
    (∀ i, read 256 → metaBad data = some i → exec (.mmeta h a imm) s = s.traps .illegal (BitVec.ofNat 32 i)) ∧
    (read 64 → exec (.mscl h bset a imm) s = kept fun q =>
      if bset then { q with bScale := ofBytes 512 bs } else { q with aScale := ofBytes 512 bs })) ∧
    (s.here.accFree d = .ok () → exec (.mzero h fp64 d) s = (s.modShared s.who.core fun q => { q with
      accs := q.accs.set d { bits := 0, tag := if fp64 then .fp64 else .fp32 } }).done)) ∧
  (∀ (s : State) (h : Hdr) (rm : RmCode) (sat : Bool) (shape : DrainShape) (a : SPair) (b : SReg) (c : CReg) (imm : Imm)
    (x : DWord) (pitch : Word) (acc : Acc), s.on h → s.here.accFree c = .ok () → s.me.readP a = .ok x →
    s.me.readS b = .ok pitch →
    s.here.readAcc c (some (drainTag s.here.shared.accs[c].tag shape.dst)) = .ok acc → pitch.toNat % 8 = 0 →
    (let n := shape.cnt.val + 1
    let ps := rowAddrs x imm pitch n
    let rows := ps.zipIdx.map fun e =>
      (e.1, drainRow acc.tag shape.dst (s.me.mode rm) sat (acc.row (shape.row.val + e.2)))
    let stored := s.storeAll s.who (rows.map fun e => (e.1, e.2.1))
    let emptied := if shape.z then stored.modShared s.who.core fun q => { q with
      accs := q.accs.set c ((List.range n).foldl (fun (m : Acc) j => m.setRow (shape.row.val + j) 0) acc) } else stored
    aligned 8 ps = .ok () → s.access s.who (rows.map fun e => (e.1, e.2.1.length)) = .ok () →
    exec (.mdrain h rm sat shape a b c imm) s = (emptied.modTs s.who fun t =>
      ((t.flag (rows.foldl (fun f e => f ||| e.2.2) 0)).killP h.dmA a).killS h.dmB b).done)) ∧
  (∀ (s : State) (h : Hdr) (half : Bool) (v : VReg) (m : MReg) (row : Fin 32) (w : ColWidth) (j : Fin 128) (q : Fin 8)
    (x : VWord), s.on h →
    (let tile := s.here.shared.tiles[m]
    let lo := if half then 256 else 0
    let n := colRows w
    let b := colBits w
    (s.me.freeV v = .ok () →
      exec (.mrowrd h half v m row) s = s.becomes (s.me.putV v (maskTag tile.tag ((tile.row row.val).extractLsb' lo 256)) tile.tag) ∧
      exec (.mcolrd h w v m j q) s = s.becomes (s.me.putV v (maskTag tile.tag (ofLanes 256 b
        ((List.range n).map fun i => laneAt (tile.row (q.val * n + i)) b j.val))) tile.tag)) ∧
    (s.me.readV v none = .ok x → s.here.tileFree m = .ok () →
      (let kept (t : Tile) : Result := ((s.modShared s.who.core fun k => { k with
        tiles := k.tiles.set m { t with tag := s.me.tagV v } }).modTs s.who fun t => t.killV h.dmA v).done
      exec (.mrowwr h half m v row) s = kept (tile.setRow row.val (setBits (tile.row row.val) lo 256
        (maskTag (s.me.tagV v) x).toNat)) ∧
      exec (.mcolwr h w m v j q) s = kept ((List.range n).foldl (fun (t : Tile) i =>
        t.setRow (q.val * n + i) (setBits (t.row (q.val * n + i)) (b * j.val) b
          (maskLane (s.me.tagV v) b j.val (laneAt x b i)))) tile)))) ∧
    (∀ (t : Tile) (r : BitVec 512) (i k : Nat), i < 32 → k < 32 →
      (t.setRow i r).row k = if k = i then r else t.row k) ∧
    (∀ (r : BitVec 512) (lo y : Nat), lo ≤ 256 → (setBits r lo 256 y).extractLsb' lo 256 = BitVec.ofNat 256 y))

/-- MGANG (R114, R116, R312, R313): the operation enters the joint queue with what it captures, under the next number
of the matrix timeline; while a handler runs, or where a lockstep gang names 16 cores, it is ILLEGAL. JOINT_JOIN and
JOINT_OP_COMPLETE (R115, R118, R132): heads of one superstep that name one segment and agree join; a joined operation
whose A has been read writes its accumulator tile and moves the timeline. -/
def Obligations.JointOperations : Prop :=
  (∀ (s : State) (h : Hdr) (shape : GangShape) (d : CReg) (a : MReg) (b c : SReg) (r k0 : Word) (x y : Nat) (g : Gang),
    s.on h → s.who.core = .compute x y → s.gangOf s.who = some g → s.me.readS b = .ok r → s.me.readS c = .ok k0 →
    s.here.shared.tiles[a].tag = shape.fmt →
    s.here.shared.accs[d].tag = (if shape.fmt = .fp64 then .fp64 else .fp32) →
    (let q := s.here.shared
    let n := 2 ^ shape.nlog.val
    let first := g.segFirst x n
    let j : JointOp :=
      { number := q.matrixCount + 1, ts := s.who.t.val, xpc := s.me.pc, shape := shape, acc := d, tile := a
        first := first, row0 := r.toNat, k0 := k0.toNat, desc := q.desc, aScale := q.aScale, bScale := q.bScale
        smeta := q.smeta, step := s.here.sstep, joined := false, feed := none, fed := false }
    let queued (j : JointOp) : Result := ((s.modShared s.who.core fun q => { q with
      joint := q.joint ++ [j], matrixCount := q.matrixCount + 1 }).modTs s.who fun t =>
        (t.killS h.dmB b).killS h.dmC c).done
    (s.me.inh = false → (g.lock = false ∨ n ≠ 16) → g.segOutside first n y = false →
      k0.toNat % kStep shape.fmt shape.sp = 0 → (shape.scl = true → k0.toNat % 32 = 0) → q.joint.length < 4 →
      (first ≠ x → exec (.mgang h shape d a b c) s = queued j) ∧
      (first = x → descBad q.desc = none → s.footprintCheck s.who j = .ok () →
        exec (.mgang h shape d a b c) s = queued { j with feed := some (j.readA s.here.store) })) ∧
    (s.me.inh = true → exec (.mgang h shape d a b c) s = s.traps .illegal 5) ∧
    (s.me.inh = false → g.lock = true → n = 16 → exec (.mgang h shape d a b c) s = s.traps .illegal 8))) ∧
  (∀ (s : State) (x y nlog : Nat), (let feed : CoreId := .compute x y
    let cores := (List.range (2 ^ nlog)).map fun i => CoreId.compute (x + s.strideAt feed * i) y
    let live (c : CoreId) : Prop := ∃ g v, (s.core c).gang = some g ∧ s.gang g = some v ∧ v.err = none ∧ v.rival ≠ .faulted
    (∀ f, nlog ≤ 4 → live feed → s.headFor feed x nlog = some f → descFmt f.desc = some f.shape.fmt →
      (∀ c ∈ cores, ∃ j, s.headFor c x nlog = some j ∧ j.step = f.step ∧ j.shape.fmt = f.shape.fmt ∧ j.shape.ks = f.shape.ks ∧
        j.shape.col = f.shape.col ∧ j.shape.sp = f.shape.sp ∧ j.shape.scl = f.shape.scl) →
      ∃ t, exec (.jointJoin x y nlog) s = .next t ∧ ∀ c ∈ cores, ∀ j, s.headFor c x nlog = some j →
        ∃ i ∈ (t.core c).shared.joint, i.number = j.number ∧ i.joined = true) ∧
    (∀ g v j a, (s.core feed).gang = some g → s.gang g = some v → v.err = none → v.rival ≠ .faulted → v.injects = [] →
      (s.core feed).shared.joint.head? = some j → j.joined = true → j.fed = true → j.feed = some a →
      exec (.jointOpComplete x y) s = .next (s.modShared feed fun q =>
        { q with accs := q.accs.set j.acc (j.result a q.tiles[j.tile] q.accs[j.acc]) }.finishJoint j.number))))

/-- Global loads (R140, R148, R324, R326): the access is under way and its register awaits the answer, a block load
takes the next number of the load timeline. Global stores (R141, R148, R324, R326): the bytes enter the commit buffer,
under a release point for GREL. A task reads its own stores of the superstep (R142): while the buffer has room, the
bytes that a store gave a range are what a load of the range brings. -/
def Obligations.GlobalAccesses : Prop :=
  (∀ (s : State) (h : Hdr) (fmt : Fmt) (w : LdWidth) (wide : Bool) (sc : Scope) (d : SReg) (v : VReg) (cnt : BitVec 13)
    (a : SPair) (c : Fin 32) (imm : Imm) (x : DWord) (g : Gang) (gva : Nat), s.on h → s.me.readP a = .ok x →
    s.me.afterAcquire = .ok () →
    (let off := ea x imm 0
    let ok (n align : Nat) : Prop :=
      s.refcheck s.who c.val (.fmt fmt) true false off n align = .ok gva ∧ s.reaches g gva n false
    let waits (reg : AnswerReg) (n : Nat) (sc : Option Scope) : Result :=
      ((s.through.awaitAnswer s.who reg gva n (s.through.ownStores s.who gva n) sc).modTs s.who fun t => t.killP h.dmA a).done
    (ok w.bytes w.bytes → s.me.freeLd w d = .ok () →
      exec (.gld h fmt (.scalar w d) a c imm) s = waits (.scalar w d) w.bytes none) ∧
    (ok 32 8 → s.me.freeV v = .ok () → exec (.gld h fmt (.vec v) a c imm) s = waits (.vec fmt v) 32 none) ∧
    (∀ p : Word, (let n := 8 * (cnt.toNat + 1)
      ok n 8 → s.me.readS d = .ok p → p.toNat % 8 = 0 → s.access s.who [((p.toNat : Int), n)] = .ok () →
      (let block : BlockLoad :=
        { id := s.nextId, number := s.me.loadCount + 1, gva := gva, dst := p.toNat, n := n
          own := s.through.ownStores s.who gva n, step := s.me.sstep, landed := false }
      exec (.gld h fmt (.blk d cnt) a c imm) s = ({ s.through with nextId := s.nextId + 1 }.setTs s.who
        { s.me.killP h.dmA a with loadCount := s.me.loadCount + 1, loads := s.me.loads ++ [block] }).done))) ∧
    (let wd : LdWidth := if wide then .b64 else .b32
     ok wd.bytes wd.bytes → s.me.freeLd wd d = .ok () →
      exec (.gacq h wide sc fmt d a c imm) s = waits (.scalar wd d) wd.bytes (some sc)))) ∧
  (∀ (s t : State) (h : Hdr) (fmt : Fmt) (w : StWidth) (wide : Bool) (sc : Scope) (b : SReg) (v : VReg)
    (cnt : BitVec 13) (a : SPair) (c : Fin 32) (imm : Imm) (x : DWord) (g : Gang) (gva : Nat), s.on h →
    s.me.readP a = .ok x → s.me.afterAcquire = .ok () →
    (let off := ea x imm 0
    let ok (n align : Nat) : Prop :=
      s.refcheck s.who c.val (.fmt fmt) false true off n align = .ok gva ∧ s.reaches g gva n true
    let held (kill : ThreadSet → ThreadSet) : Result := (t.modTs s.who fun u => kill (u.killP h.dmA a)).done
    (∀ bs, ok w.bytes w.bytes → s.me.readSt w b = .ok bs → s.through.buffer s.who .bytes gva bs = .ok t →
      exec (.gst h fmt (.scalar w b) a c imm) s = held fun u => u.killSt h.dmB w b) ∧
    (∀ y, ok 32 8 → s.me.readV v (some fmt) = .ok y → s.through.buffer s.who .bytes gva (bytesOf y) = .ok t →
      exec (.gst h fmt (.vec v) a c imm) s = held fun u => u.killV h.dmB v) ∧
    (∀ (p : Word) (bs : List Byte), (let n := 8 * (cnt.toNat + 1)
      ok n 8 → s.me.readS b = .ok p → p.toNat % 8 = 0 → s.access s.who [((p.toNat : Int), n)] = .ok () →
      s.through.loadBytes s.who p.toNat n = .ok bs → s.through.buffer s.who .bytes gva bs = .ok t →
      exec (.gst h fmt (.blk b cnt) a c imm) s = held fun u => u.killS h.dmB b)) ∧
    (∀ bs, (let wd : StWidth := if wide then .b64 else .b32
      ok wd.bytes wd.bytes → s.me.readSt wd b = .ok bs → s.me.performed sc = .ok () →
      s.through.buffer s.who .release gva bs = .ok t →
      exec (.grel h wide sc fmt a b c imm) s = held fun u => u.killSt h.dmB wd b)))) ∧
  (∀ (s t : State) (w : Who) (g : Nat) (gva : Nat) (bs : List Byte), s.gangId w = some g → (s.gangOf w).isSome = true →
    (∀ e ∈ (s.core w.core).commit, e.bytes.wf = true) →
    (let lines := (byLine gva bs).map (·.1)
    let step := (s.ts w).sstep
    commitCount (s.core w.core).commit + needed (s.core w.core).commit g step .bytes lines ≤ 8192 →
    s.buffer w .bytes gva bs = .ok t →
    (t.core w.core).ownBytes g w.t.val step gva bs.length = bs.map some))

/-- GATOM, GFENCE, GREF, DPAT and PUSH (R146 to R148, R153 to R156, R325 to R329): a GATOM without a result is
deferred to the drain, one with a result is performed at once, its superstep can no longer be rolled back, and its
answer is awaited. That it is performed as it issues and reads committed memory, past the task's own commit buffer, is
the model's choice (log entry 14). -/
def Obligations.AtomicsAndPushes : Prop :=
  ∀ (s t : State) (h : Hdr) (op : BankOp) (el : Elem) (sc : Scope) (r d b : SReg) (a : SPair) (c : Fin 32) (imm : Imm)
    (f : GrefField) (x new cmp : DWord) (g : Gang) (id gva : Nat), s.on h → s.me.readP a = .ok x →
    (let n := el.width / 8
    let cas : SReg := if el.width = 64 then b + 2 else b + 1
    let kill (t : ThreadSet) : ThreadSet :=
      if op = .cas then ((t.killP h.dmA a).killElem h.dmB el b).killElem h.dmB el cas
      else (t.killP h.dmA a).killElem h.dmB el b
    (s.me.afterAcquire = .ok () → s.me.readElem el b = .ok new →
      (if op = .cas then s.me.readElem el cas = .ok cmp else cmp = 0) →
      s.refcheck s.who c.val (.width n) true true (ea x imm 0) n n = .ok gva → s.reaches g gva n true →
      s.gangId s.who = some id →
      (s.through.buffer s.who (.atom op el new) gva (leBytes n 0) = .ok t →
        exec (.gatom h op el none a b c imm) s = (t.modTs s.who kill).done) ∧
      (s.me.freeElem el r = .ok () → s.through.undrained g.ctx gva n = false → s.through.globalPoison g.ctx gva n = false →
        (let ready := ((s.through.makeNonroll id).repair g.ctx gva n).loadsBefore s.who g.ctx s.me.sstep
          ((List.range n).map (gva + ·))
        let old := ready.globalRead g.ctx gva (List.replicate n none)
        let performed := ready.engineWrite g.ctx gva (leBytes n (atomResult op el (leNat old) new cmp))
        exec (.gatom h op el (some r) a b c imm) s =
          ((performed.awaitAnswer s.who (.old (el.width == 64) r) gva n (old.map some) none).modTs s.who kill).done))) ∧
    (s.me.performed sc = .ok () → (sc = .task ∨ s.gangOf s.who = none) → exec (.gfence h sc) s = s.done) ∧
    (s.me.performed sc = .ok () → sc ≠ .task → s.gangId s.who = some id → s.gangOf s.who = some g →
      exec (.gfence h sc) s = (s.putLine s.who id g.ctx s.me.sstep .release 0 []).done) ∧
    (s.me.freeS d = .ok () → exec (.gref h f d c) s = s.becomes (s.me.putS d (refField (s.refOf s.who c.val) f))) ∧
    (∀ bs, ea x imm 0 % 8 = 0 → s.access s.who [(ea x imm 0, 16)] = .ok () →
      s.loadBytes s.who (ea x imm 0).toNat 16 = .ok bs →
      (s.patternBad s.who (ofBytes 128 bs) = none →
        exec (.dpat h a imm) s = s.becomes { s.me.killP h.dmA a with pattern := ofBytes 128 bs }) ∧
      (∀ i, s.patternBad s.who (ofBytes 128 bs) = some i →
        exec (.dpat h a imm) s = s.traps .prot (BitVec.ofInt 32 (ea x imm 0 + 4 * i)))) ∧
    (∀ (form : PushForm) (m : BitVec 13) (o : Word × Word × Word) (bs : List Byte) (ps : List Packet),
      (let len := 8 * (m.toNat + 1)
      s.pushOperands form (ea x imm 0) = .ok o → s.access s.who [(ea x imm 0, len)] = .ok () →
      s.me.sendsFull = false → s.loadBytes s.who (ea x imm 0).toNat len = .ok bs →
      s.pushPackets form (ea x imm 0).toNat bs o.1 o.2.1 o.2.2 = some ps →
      exec (.push h form a imm m) s = ((s.launch ps).modTs s.who fun t =>
        ((t.openSend ps.length false).settleSends.killP h.dmA a).killPush h form).done)))

/-- The answers of global memory (R140, R142, R143, R440): once nothing that a completed barrier has still to drain
covers what it has still to read, and its pages are there, a load's register gets committed bytes overlaid with the
task's own; the words of a block load that have not landed before (log entry 6) land in the store, and the load
timeline moves; a failed line of which a replica survives is repaired first. -/
def Obligations.GlobalAnswers : Prop :=
  ∀ (s : State) (core : CoreId) (slot id : Nat) (g : Gang), (let w : Who := { core := core, t := Fin.ofNat 16 slot }
    s.gangOf w = some g → g.err = none →
    (∀ a, (s.ts w).answers.find? (fun a => a.id == id) = some a → s.awaitsDrain g.ctx a.gva a.own = false →
      (s.ts w).earlierPending id a.gva a.own.length = false → s.awaitsPage g.ctx a.gva a.own = false →
      s.brokenAhead g.ctx a.gva a.own = false → s.poisonAhead g.ctx a.gva a.own = false →
      (let bs := s.globalRead g.ctx a.gva a.own
      exec (.globalResponse core slot id) s = .next ((s.repair g.ctx a.gva a.n).modTs w fun t =>
        { t.answer a.reg bs with answers := t.answers.filter fun b => b.id != a.id }))) ∧
    (∀ l, (s.ts w).loads.find? (fun l => l.number == id && !l.landed) = some l →
      (let own := l.own.zipIdx.map fun e => if l.done.contains (e.2 / 8) then some (e.1.getD 0) else e.1
      s.accessWaits w g.ctx l.id l.gva own = false → s.brokenAhead g.ctx l.gva own = false →
      s.poisonAhead g.ctx l.gva own = false →
      exec (.blockLoadComplete core slot id) s = .next ((s.landWords w l l.rest).modTs w fun t =>
        { t with loads := t.loads.map fun (x : BlockLoad) =>
            if x.number = id then { x with landed := true } else x }.settleLoads))) ∧
    (∀ (l : BlockLoad) (words : List Nat) (x : Nat), (s.core core).store.wf = true → l.own.length = l.n →
      (∀ i ∈ words, i < l.n / 8) →
      ((s.landWords w l words).core core).store.read x =
        if l.dst ≤ x ∧ (x - l.dst) / 8 ∈ words then (s.globalRead g.ctx l.gva l.own).getD (x - l.dst) 0
        else (s.core core).store.read x))

/-- Engine posts (R331 to R336, R388): the command is read and checked word by word, the post takes the next number of
its timeline, and the number, or QPOST's status, is returned; a word that fails traps PROT at its address. That QPOST
takes a record whatever number of posts is held, and that BODYSEALED is raised before the bound on posts is looked at,
is DEDUCED (log entry 34). -/
def Obligations.EnginePosts : Prop :=
  ∀ (s : State) (h : Hdr) (d a : SPair) (e b : SReg) (imm : Imm) (gid : Nat) (g : Gang) (c : Context) (cmd : Nat)
    (bs : List Byte) (q : Word), s.on h → s.gangId s.who = some gid → s.gangOf s.who = some g →
    s.ctx g.ctx = some c → s.me.freeP d = .ok () → s.me.freeS e = .ok () → s.me.readS b = .ok q →
    (let given (s' : State) (n : Nat) : Result :=
      (s'.modTs s.who fun t => (t.killP h.dmA a).putP d (BitVec.ofNat 64 n)).done
    (s.command a imm 40 = .ok (cmd, bs) →
      (∀ i, c.copyBad bs = some i → exec (.cpypost h d a imm) s = s.traps .prot (BitVec.ofNat 32 (cmd + 4 * i))) ∧
      (c.copyBad bs = none → ∀ x, c.sealed bs = some x →
        exec (.cpypost h d a imm) s = s.traps .bodysealed (BitVec.ofNat 32 x)) ∧
      (c.copyBad bs = none → c.sealed bs = none →
        (s.copies.filter fun j => j.gang == some gid && j.poster == some (s.who.core, s.who.t.val)).length < 16 →
        (let n := (s.queue g.ctx g.q).elim 0 (·.copyCount) + 1
        exec (.cpypost h d a imm) s = given (s.startCopy { copyJobOf bs s.nextId g.ctx g.q n (some gid) g.idx s.me.pc
          (some (s.who.core, s.who.t.val)) with tour := g.tour }) n))) ∧
    (∀ x y, s.command a imm 16 = .ok (cmd, bs) →
      s.overlayBad ((s.capsuleOf s.who).elim 0 (·.lines.length)) bs = none →
      s.coreNamed s.who (cmdWord bs 2 % 256) (cmdWord bs 2 / 256 % 256) = some (x, y) →
      (s.overlays.filter fun o => o.gang == gid && o.poster == s.who.core && o.ts == s.who.t.val).length < 16 →
      (let n := (s.core (.compute x y)).overlayCount + 1
      let job : OverlayJob :=
        { id := s.nextId, gang := gid, x := x, y := y, number := n, line := cmdWord bs 0 / 64
          lines := cmdWord bs 1 % 65536, poster := s.who.core, ts := s.who.t.val, finished := false }
      exec (.ovlpost h d a imm) s = given ({ s with overlays := s.overlays ++ [job], nextId := s.nextId + 1 }.modCore
        (.compute x y) fun k => { k with overlayCount := n }) n)) ∧
    (s.command a imm 48 = .ok (cmd, bs) → netBad bs = none →
      (cmdWord bs 0 % 16 ≠ 2 → s.access s.who [((cmdWord bs 6 % 2 ^ 24 : Nat), cmdWord bs 7 % 2 ^ 17)] = .ok ()) →
      (c.posts.filter fun p => p.gang == gid && p.poster == s.who.core && p.ts == s.who.t.val).length < 16 →
      ∃ p : Post, p.number = c.netCount + 1 ∧ p.gang = gid ∧ p.tour = g.tour ∧ p.opc = cmdWord bs 0 % 16 ∧ p.peer = cmdWord bs 2 ∧
        p.rkey = cmdWord bs 3 ∧ p.roff = fieldAt bs 16 8 ∧ p.laddr = cmdWord bs 6 % 2 ^ 24 ∧
        p.len = cmdWord bs 7 % 2 ^ 17 ∧ p.released = false ∧ p.ended = false ∧
        exec (.nwpost h d a imm) s = given (s.modCtx g.ctx fun c => { c with
          netCount := c.netCount + 1, posts := c.posts ++ [p] }) (c.netCount + 1)) ∧
    (s.command a imm 64 = .ok (cmd, bs) →
      (let st := s.qpostStatus g.ctx q.toNat
      let post : QPost :=
        { id := s.nextId, ctx := g.ctx, q := q.toNat, gang := gid, poster := s.who.core, ts := s.who.t.val
          record := bs }
      let s' := if st = 0 then { s with qposts := s.qposts ++ [post], nextId := s.nextId + 1 } else s
      exec (.qpost h e a b imm) s = (s'.modTs s.who fun t =>
        ((t.killP h.dmA a).killS h.dmB b).putS e (BitVec.ofNat 32 st)).done)))

/-- The ends of engine work (R331 to R333, R335, R426, R442, R446): a copy writes its bytes, its digest and its
dependence and moves the copy timeline, once no page that migrated when it was accepted still does; an overlay load
whose lines are not poisoned fills the scratchpad with lines of the form that the core runs; an engine reads the bytes
of a network post, and those of a copy before it completes. -/
def Obligations.EngineEvents : Prop :=
  ∀ (s : State) (id : Nat), (∀ (e : CopyEnd) (j : CopyJob) (c : Context),
      s.copies.find? (fun j => j.id == id && !j.finished) = some j → s.ctx j.ctx = some c → j.endOk e = true →
      (j.sk = 0 → j.src = none → s.undrained j.ctx j.saddr j.len = false ∧ s.globalPoison j.ctx j.saddr j.len = false) →
      (j.dk = 0 → s.undrained j.ctx j.daddr j.len = false) →
      (j.dig = true → s.undrained j.ctx j.digaddr 32 = false) → j.late.any c.migrating = false → j.stop c e = none →
      (let bs := j.src.getD (s.copySource j (copyOutside e))
      let s1 := if j.dk = 0 then s.engineWrite j.ctx j.daddr bs else s
      let s2 := if j.dig then s1.engineWrite j.ctx j.digaddr (sha256 bs) else s1
      let s3 := (if j.dep then s2.addDep j.ctx j.deprec else s2).settleCopy j
      exec (.copyComplete id e) s = .next (if j.gang = none then
        s3.modQueue j.ctx j.q fun q => q.complete j.record else s3))) ∧
    (∀ (o : OverlayJob) (g : Gang) (k : Capsule), s.overlays.find? (fun o => o.id == id && !o.finished) = some o →
      (s.core (.compute o.x o.y)).gang = some o.gang → s.gang o.gang = some g → s.capsule g.ctx g.capsule = some k →
      (let here := s.core (.compute o.x o.y)
      let build := if here.ts[0].native then k.bodyId else 0
      s.codePoison g.ctx k build o.line o.lines = none →
      ∃ t, exec (.overlayLoadComplete id) s = .next t ∧ t.core (.compute o.x o.y) =
        ((List.range o.lines).foldl (fun u i => u.install (k.tagOf build (o.line + i) o.number)) here).settleOverlay o.number)) ∧
    (∀ (ctx : Nat) (c : Context) (p : Post), s.ctx ctx = some c →
      c.posts.find? (fun p => p.number == id && !p.read) = some p → (s.core p.poster).poison = [] →
      (∀ g, s.gang p.gang = some g → g.readInject s p.poster p.laddr p.len = none) →
      ∃ bs : List Byte, bs.length = p.src.length ∧
        (∀ i, i < bs.length → bs[i]? = p.src[i]? ∨ bs[i]? = some ((s.core p.poster).store.read (p.laddr + i))) ∧
        exec (.engineSourceRead ctx (.network id)) s = .next ((s.modCtx ctx fun c => { c with
          posts := c.posts.map fun x => if x.number = id then { p with src := bs, read := true } else x }).depart ctx
            { p with src := bs, read := true })) ∧
    (∀ (j : CopyJob) (c : Context) (outside : List Byte),
      s.copies.find? (fun x => x.id == id && x.ctx == j.ctx && !x.finished) = some j → j.src = none → s.ctx j.ctx = some c →
      outside.length = (if j.sk = 0 then 0 else j.len) → (j.sk = 0 → c.copyStop j.saddr j.len false = none ∧
        s.undrained j.ctx j.saddr j.len = false ∧ s.globalPoison j.ctx j.saddr j.len = false) →
      exec (.engineSourceRead j.ctx (.copy id outside)) s = .next { s with copies := s.copies.map fun (x : CopyJob) =>
        if x.id = id then { x with src := some (s.copySource j outside) } else x })

/-- Packets in the mesh (R58, R60, R61, R67, R69, R165): a packet that an open window takes lands whole, one that none
takes sets out as a refusal; a refusal answers for what is still on its way, a score stands at the origin core, a join
or leave reaches its memory core. That SEQ counts refusals and scores (log entry 13), that a refusal discards the
packets of its send to the same core alone (log entry 29), and the bits that a join refused by a full table leaves
(log entry 21) are the model's choices. What a landing writes (R58, R63): the words of a packet that stores, in order
from its address, and no byte elsewhere. -/
def Obligations.PacketEvents : Prop :=
  (∀ (s : State) (id : Nat),
    (∀ p, s.packets.find? (fun p => p.id == id) = some p → s.liveGang p.sender.gang = true →
      s.firstInLine p.sender p.number p.x p.y id = true →
      (let c : CoreId := .compute p.x p.y
      let gone : State := { s with packets := s.packets.filter fun q => q.id != id }
      let same (r : RefusalPkt) : Bool := r.sender == p.sender && r.number == p.number && r.x == p.x && r.y == p.y
      let taken : Option Window := if s.refusals.any same then none else (s.core c).accepts (p.arriving s)
      (∀ w, taken = some w → exec (.packetArrival id) s =
        .next ((gone.land c (p.arriving s) w).landedAt p.sender p.number 1)) ∧
      (taken = none → ∃ t : State, exec (.packetArrival id) s = .next t ∧ t.packets = gone.packets ∧
        t.core c = (s.core c).numberPacket ∧ t.refusals.any same = true))) ∧
    (∀ r o, s.refusals.find? (fun r => r.id == id) = some r → s.liveGang r.sender.gang = true →
      s.sendOf r.sender r.number = some o → s.senderStays r.sender = true →
      (let mine (p : Packet) : Bool := p.sender == r.sender && p.number == r.number && p.x == r.x && p.y == r.y
      let n := r.count + (s.packets.filter mine).length
      let back : State := { s with
        packets := s.packets.filter fun p => !mine p, refusals := s.refusals.filter fun q => q.id != id }
      let told := (back.modTs r.sender.who fun t => { t with sends := t.sends.map fun (u : OpenSend) =>
        if u.number = r.number then { u with returned := true } else u }).landedAt r.sender r.number n
      exec (.refusalReturn id) s =
        .next (if o.returned && !r.mcast then told else told.sendRefused r.sender o.xpc r.xval))) ∧
    (∀ p, s.scores.find? (fun p => p.id == id) = some p → s.liveGang p.sender.gang = true →
      (∀ q ∈ s.packets, q.sender = p.sender → q.x = p.x → q.y = p.y → p.number ≤ q.number) →
      (∀ q ∈ s.scores, q.sender = p.sender → p.number ≤ q.number) →
      ∃ t : State, exec (.scoreArrival id) s = .next (t.landedAt p.sender p.number 1) ∧
        t.scores = s.scores.filter (fun q => q.id != id) ∧
        (t.core (.compute p.x p.y)).shared.score = p.value ∧
        (t.core (.compute p.x p.y)).store = (s.core (.compute p.x p.y)).store ∧
        (t.core (.compute p.x p.y)).shared.chron.seq = (s.core (.compute p.x p.y)).shared.chron.seq + 1) ∧
    (∀ p x y, s.joins.find? (fun p => p.id == id) = some p → p.sender.core = .compute x y →
      (let gone : State := { s with joins := s.joins.filter fun q => q.id != id }
      let path := (pushRoute p.stack p.chan x y).reverse
      (p.leave = true → exec (.joinPacket id) s =
        .next ({ gone with routers := s.leaveRouters p.tag x y path }.landedAt p.sender p.number 1)) ∧
      (p.leave = false → ∀ rs, joinRouters p.tag s.routers path = (rs, false) →
        exec (.joinPacket id) s = .next ({ gone with routers := rs }.landedAt p.sender p.number 1)) ∧
      (p.leave = false → ∀ rs, joinRouters p.tag s.routers path = (rs, true) →
        ∃ t : State, exec (.joinPacket id) s = .next t ∧ t.routers = rs ∧ t.joins = gone.joins ∧
          (∃ r ∈ t.refusals, r.sender = p.sender ∧ r.number = p.number ∧ r.xval = BitVec.ofNat 32 p.tag))))) ∧
  (∀ (s : State) (c : CoreId) (a : Arriving) (w : Window) (n : Nat), (s.core c).store.wf = true → a.bytes.length = 8 * n →
    a.addr % 8 = 0 →
    (∀ x, x < a.addr ∨ a.addr + 8 * n ≤ x → ((s.land c a w).core c).store.read x = (s.core c).store.read x) ∧
    (a.sendop = false → ∀ i, i < 8 * n →
      some (((s.land c a w).core c).store.read (a.addr + i)) = a.bytes[i]?))

/-- The way to a barrier (R31, R32, R34, R38): when a core arrives, when a token is passed, by no core that still
awaits the release of the barrier before, when a task arrives, and when the barrier completes, which it does once the
pushes of tasks that have retired have landed as well. What a completed barrier leaves (R33, R38, R143, R167, R444,
R448): the gang is in its next superstep, its tokens are gone and every core and task awaits its release, unless a
closing rival is held; its entries drain. The release of its queue records may meet a walk error that tears the gang
down (R448): the statement is about a gang that is still there. -/
def Obligations.BarrierEvents : Prop :=
  (∀ (s : State) (gid : Nat) (g : Gang), s.gang gid = some g → g.barriers = true →
    (∀ x y, (s.core (.compute x y)).gang = some gid → g.rels.contains (.compute x y, 0) = false →
      (let k := s.core (.compute x y)
      k.arrived = false → (∀ t ∈ k.ts.toList, t.arrivedOrRetired = true ∧ t.sends = []) →
      (∀ w ∈ k.shared.windows, w.state = .due → w.arm ≠ k.sstep) →
      exec (.coreArrival x y) s = .next (s.setCore (.compute x y) { k with arrived := true }))) ∧
    (∀ x y, 0 < x → x < g.w → y < g.h → (s.core (g.coreAt x y)).arrived = true →
      g.rels.contains (g.coreAt x y, 0) = false → (x + 1 = g.w ∨ (x + 1, y, false) ∈ g.toks) → (x, y, false) ∉ g.toks →
      exec (.barrierToken gid x y false) s = .next (s.modGang gid fun g => { g with toks := g.toks ++ [(x, y, false)] })) ∧
    (∀ y, 0 < y → y < g.h → (s.core (g.coreAt 0 y)).arrived = true →
      g.rels.contains (g.coreAt 0 y, 0) = false → (1 = g.w ∨ (1, y, false) ∈ g.toks) →
      (y + 1 = g.h ∨ (0, y + 1, true) ∈ g.toks) → (0, y, true) ∉ g.toks →
      exec (.barrierToken gid 0 y true) s = .next (s.modGang gid fun g => { g with toks := g.toks ++ [(0, y, true)] })) ∧
    (∀ k n slot, (let w : Who := { core := .memory k n, t := Fin.ofNat 16 slot }
      s.gangId w = some gid → (s.ts w).run = .atBar → (s.ts w).sends = [] →
      g.rels.contains (w.core, w.t.val) = false → (k, n, w.t.val) ∉ g.taskAt →
      exec (.memoryTaskArrival k n slot) s =
        .next (s.modGang gid fun g => { g with taskAt := g.taskAt ++ [(k, n, w.t.val)] }))) ∧
    (g.rels = [] → s.allRetired g = false → (s.core (g.coreAt 0 0)).arrived = true →
      (1 = g.w ∨ (1, 0, false) ∈ g.toks) → (1 = g.h ∨ (0, 1, true) ∈ g.toks) → (∀ t ∈ g.tasks, t ∈ g.taskAt) →
      g.lateSends = [] →
      exec (.barrierComplete gid) s = .next (s.completeBarrier gid g)) ∧
    (∀ x y column, g.rels.contains (g.coreAt x y, 0) = true → exec (.barrierToken gid x y column) s = .next s) ∧
    (exec (.barrierToken gid 0 0 true) s = .next s ∧
      ((s.core (g.coreAt 0 0)).arrived = false → exec (.barrierComplete gid) s = .next s))) ∧
  (∀ (s : State) (gid : Nat) (g : Gang), ((s.commitGang gid).releasePosts gid g).gang gid = some g →
    ∃ h, (s.completeBarrier gid g).gang gid = some h ∧ h.sstep = g.sstep + 1 ∧ h.toks = [] ∧ h.taskAt = [] ∧
      h.retries = 0 ∧ h.nonroll = false ∧
      (s.closes g = true → h.rival = .held ∧ h.rels = []) ∧
      (s.closes g = false → h.rival = g.rival ∧ h.rels = g.everyone) ∧
      (∀ e ∈ (s.completeBarrier gid g).memory, ∀ c ∈ e.2.commit, c.gang = gid → c.draining = true))

/-- The release of a barrier and the end of a gang (R28, R33, R38 to R41, R55, R117, R449): the release reaches a core
after the one before it on the way from the corner; there what has not joined is cancelled, then the core is released,
unless an operation that has joined still runs; a task is released; where a superstep is repeated it may issue again;
a gang whose sets and tasks have all retired, whose packets have landed and whose posts are read, is swept. What a
release leaves at a core (R16, R33, R38, R41, R48, R55, R68, R444, R493): at a start its sets are ready; else it is in
the next superstep, its sets that waited go on after their BAR, windows and subscriptions have moved on; the plate is
empty but for what arrived early, and the shadow holds what stands now. What a release leaves of a task (R38, R39,
R137, R422): at the start it takes the thread set that its record names, or the other, or is ready for one; later it
is in its gang's superstep and goes on after its BAR. What a sweep leaves (R41, R143, R416): its cores are no core's
of the gang, with their sets idle and their windows and subscriptions closed; its entries drain; it is gone once none
is left, and until then it is retiring, past its last superstep. -/
def Obligations.ReleaseEvents : Prop :=
  (∀ (s : State) (gid : Nat) (g : Gang), s.gang gid = some g →
    (∀ x y, g.phase = .running → g.rels.contains (CoreId.compute x y, 0) = true →
      (let c : CoreId := .compute x y
      let t := s.cancelJoint c
      (∀ b, g.releasedBy c = some b → g.rels.contains (b, 0) = true → exec (.barrierRelease gid c 0) s = .next s) ∧
      ((∀ b, g.releasedBy c = some b → g.rels.contains (b, 0) = false) →
        (g.restart = true → exec (.barrierRelease gid c 0) s = .next (s.restartCore gid c 0)) ∧
        (g.restart = false → (∀ j ∈ (t.core c).shared.joint, j.joined = false) →
          exec (.barrierRelease gid c 0) s = .next (t.releaseCore gid g c)) ∧
        (g.restart = false → t.goesOn gid = true → (∃ j ∈ (t.core c).shared.joint, j.joined = true) →
          exec (.barrierRelease gid c 0) s = .next t)))) ∧
    (∀ k n, ∀ t : Fin 16, g.phase = .running → g.rels.contains (CoreId.memory k n, t.val) = true →
      (g.restart = false →
        exec (.barrierRelease gid (.memory k n) t.val) s = .next (s.releaseTask gid g { core := .memory k n, t := t })) ∧
      (g.restart = true →
        exec (.barrierRelease gid (.memory k n) t.val) s = .next (s.restartCore gid (.memory k n) t.val))) ∧
    (g.barriers = true → g.rels = [] → s.allRetired g = true → s.quiet gid = true → s.postsRead g gid = true →
      (∀ c ∈ g.rect, (s.core c).shared.joint = []) →
      (g.rival = .ordinary → exec (.retirementSweep gid) s = .next (s.sweep gid g)) ∧
      (g.rival ≠ .ordinary → exec (.retirementSweep gid) s =
        .next (s.modGang gid fun g => { g with rival := .heldRetired })))) ∧
  (∀ (s : State) (gid : Nat) (g : Gang) (x y : Nat), s.gang gid = some g →
    (let c : CoreId := .compute x y
    let k := s.core c
    let u := s.releaseCore gid g c
    let l := u.core c
    let kept : Prop := l.early = [] ∧ l.plate.length ≤ Config.plateBlocks ∧
      l.shadowTs = (l.ts.map fun t => { t with traps := [] }) ∧ l.shadowFreeze = l.freeze ∧
      l.shadow.windows = l.shared.windows.map fun w => w.shadowed l.sstep
    (k.ts[0].run = .idle → kept ∧ l.sstep = k.sstep ∧ l.shared.windows = k.shared.windows ∧
      ∀ i : Fin 16, l.ts[i].pc = k.ts[i].pc ∧ l.ts[i].run = if i.val < g.sets then .ready else k.ts[i].run) ∧
    (k.ts[0].run ≠ .idle → g.rival ≠ .faulted → (∀ i : Fin 4, k.ts[i.val].run = .atBar → k.ts[i.val].loops = []) →
      kept ∧ l.sstep = k.sstep + 1 ∧ l.arrived = false ∧
      l.shared.windows = k.shared.windows.filterMap (fun w => w.released k.sstep) ∧
      l.shared.subs = ((k.shared.subs.filter fun u => !u.leaving).map fun (u : Subscription) => { u with active := true }) ∧
      (∀ i : Fin 4, (k.ts[i.val].run = .atBar → l.ts[i.val].run = .ready ∧
          l.ts[i.val].pc = BitVec.ofNat 32 (nextPos k.ts[i.val].pc.toNat)) ∧
        (k.ts[i.val].run ≠ .atBar → l.ts[i.val].run = k.ts[i.val].run ∧ l.ts[i.val].pc = k.ts[i.val].pc)) ∧
      ∃ h, u.gang gid = some h ∧ h.sstep = g.sstep ∧ h.rels = g.rels.filter (fun e => e != (c, 0))))) ∧
  (∀ (s : State) (gid : Nat) (g : Gang) (n ch : Nat) (t : Fin 16), s.gang gid = some g → g.rival ≠ .faulted →
    (let w : Who := { core := .memory n ch, t := t }
    let k := s.core w.core
    let u := s.releaseTask gid g w
    let l := u.core w.core
    let free (i : Nat) : Prop := k.running.toList.getD i (some 0) = none
    (k.tasks[t].state = .resident → l.ts[t].run = .ready ∧ l.ts[t].pc = k.ts[t].pc ∧
      (free k.tasks[t].set → l.tasks[t].state = .running ∧ l.running.toList.getD k.tasks[t].set none = some t.val) ∧
      (¬ free k.tasks[t].set → free (1 - k.tasks[t].set) →
        l.tasks[t].state = .running ∧ l.running.toList.getD (1 - k.tasks[t].set) none = some t.val) ∧
      (¬ free k.tasks[t].set → ¬ free (1 - k.tasks[t].set) → l.tasks[t].state = .ready)) ∧
    (k.tasks[t].state ≠ .resident → l.ts[t].sstep = g.sstep ∧
      (k.ts[t].run ≠ .atBar → l.ts[t].run = k.ts[t].run ∧ l.ts[t].pc = k.ts[t].pc ∧ l.tasks[t] = k.tasks[t]) ∧
      (k.ts[t].run = .atBar → k.ts[t].loops = [] → l.ts[t].run = .ready ∧
        l.ts[t].pc = BitVec.ofNat 32 (nextPos k.ts[t].pc.toNat) ∧
        (k.tasks[t].state = .bound → l.tasks[t].state = .running) ∧
        (k.tasks[t].state = .waiting → l.tasks[t].state = .ready))) ∧
    ∃ h, u.gang gid = some h ∧ h.rels = g.rels.filter (fun e => e != (w.core, t.val)))) ∧
  (∀ (s : State) (gid : Nat) (g : Gang), s.gang gid = some g →
    (let u := s.sweep gid g
    let waits : Prop := ∃ e ∈ u.memory, ∃ c ∈ e.2.commit, c.gang = gid
    (∀ c ∈ g.rect, (u.core c).gang ≠ some gid ∧ ((s.core c).gang = some gid →
      (u.core c).gang = none ∧ (u.core c).shared.windows = [] ∧ (u.core c).shared.subs = [] ∧
        ∀ t ∈ (u.core c).ts.toList, t.run = .idle)) ∧
    (∀ e ∈ u.memory, ∀ c ∈ e.2.commit, c.gang = gid → c.draining = true) ∧
    (((s.commitGang gid).releasePosts gid g).gang gid = some g → waits →
      ∃ h, u.gang gid = some h ∧ h.phase = .retiring ∧ h.sstep = g.sstep + 1) ∧
    (¬ waits → u.gang gid = none)))

/-- Memory cores and the supply of pages and lines (R137, R143, R151, R406, R432, R438): a committed entry that
nothing holds back is performed, on an update-replicated page after its line has been locked, a free thread set takes
the task that has been ready longest, a page that firmware supplies is put into its frame, and a line that a thread
set waits for is fetched in one cycle of event 0x09 (log entry 9). -/
def Obligations.MemoryCoreEvents : Prop :=
  ∀ (s : State) (k n : Nat), (let c : CoreId := .memory k n
    (∀ id e u, (s.core c).commit.find? (fun e => e.id == id) = some e → e.draining = true →
      s.entryHeld c e = false →
      (s.locksFirst e = true → exec (.commitEntryDrain k n id) s = .next (s.lockEntry c id)) ∧
      (s.locksFirst e = false → s.performEntry c e = some u → exec (.commitEntryDrain k n id) s =
        .next ((u.settleCommit e.gang).finishRetiring e.gang).settleDeferred)) ∧
    (∀ slot t, t < 2 → slot < 16 → (s.core c).running.toList.getD t (some 0) = none →
      (s.core c).oldestReady = some slot →
      exec (.taskFrameLoad k n slot t) s = .next (s.setCore c ((s.core c).giveSet t slot))) ∧
    (∀ slot frame bytes gva left g x, (let w : Who := { core := c, t := Fin.ofNat 16 slot }
      (s.core c).tasks[w.t].faultPages = gva :: left → s.gangOf w = some g → s.ctx g.ctx = some x → x.walk gva = .absent →
      s.frameOk 0 frame = true →
      exec (.pageSupplied (.task k n slot) frame bytes) s =
        .next ((s.placePage g.ctx gva frame ((x.backing.find (gva / 2 ^ 16)).getD bytes)).unpark w g.ctx).settleDeferred)) ∧
    (∀ core line w l, s.wantsLine core line = some (w, l) → s.fetchPoison w l = none →
      exec (.demandFetch core line) s = .next ((s.demandLine w l).modTs w fun t => t.delay 9 1)))

/-- Rollback, the watchdog and rounds (R36, R138, R166 to R170, R172, R353, R430, R448 to R450): the ladder repeats a
superstep that can be rolled back and has been retried fewer than two times, else it tears the fault domain down, at
once where a committed superstep is lost (log entry 28); a rival that is not live is not rolled back; a cycle limit
ends a gang or a tournament; a rival that has spent its allowance closes; a round ends when no rival is live, whatever
a held one has consumed (DEDUCED, log entry 37); the bound of a WAIT that has not ended before ends it with 1, on a
memory core too. What a rollback leaves (R194, R449): the gang repeats its superstep with the retry counted; its
packets, queue records and uncommitted entries are gone; sets and tasks have their shadow contexts and enter their
lines again, and plated blocks hold what they held. What a teardown leaves (R411, R427, R450): every queue of the
domain torn down and empty, with no gang but one whose sweep has released. The last round of two rivals (R169 to
R172): of two held ones the higher score goes on, then the lower count, then the lower index, with the union
rectangle, its score at the new origin and the outcome word; the other is gone, its cores at the annex entry. Where
both are faulted the record ends with error 1 and the lower index's fault. -/
def Obligations.RecoveryEvents : Prop :=
  (∀ (s : State) (gid : Nat) (g : Gang), s.gang gid = some g →
    (let live : Prop := g.rival = .ordinary ∨ g.rival = .running ∨ g.rival = .closing
    let due : Prop := g.rels = [] ∧ live
    (g.err.isSome = true → g.noplate = false →
      (g.lost = false → due → g.nonroll = false → g.retries < 2 →
        exec (.superstepRollback gid) s = .next (s.rollBack gid g)) ∧
      (g.lost = true ∨ due ∧ (g.nonroll = true ∨ 2 ≤ g.retries) →
        exec (.superstepRollback gid) s = .next ((s.report (g.report 3)).teardown g.ctx g.q g.fdom))) ∧
    (g.err.isSome = true → g.noplate = true → g.lost = true ∨ due → exec (.superstepRollback gid) s =
      .next (((s.makeNonroll gid).report (g.report 3)).teardown g.ctx g.q g.fdom)) ∧
    (g.err = none ∨ g.lost = false ∧ ¬ due → exec (.superstepRollback gid) s = .next s)) ∧
    (g.phase = .running → g.tour = none →
      (g.limit ≤ g.cycles → exec (.watchdog gid) s =
        .next (s.killRecord g.ctx g.q g.idx 2 0x0F 0xFFFFFFFF (s.core g.corner).sstep false)) ∧
      (g.cycles < g.limit → exec (.watchdog gid) s = .next s)) ∧
    (∀ id t, g.phase = .running → g.tour = some id → s.tours.find id = some t →
      (∀ r, t.limit ≤ t.cycles → (t.rivals.filterMap s.gang).head? = some r → exec (.watchdog gid) s =
        .next (s.killRecord g.ctx g.q g.idx 2 0x0F 0xFFFFFFFF (s.core r.corner).sstep false)) ∧
      (t.cycles < t.limit → exec (.watchdog gid) s = .next s)) ∧
    (∀ id t, g.tour = some id → s.tours.find id = some t → g.rival = .running → t.solo = false →
      (t.allow0 * 1024 * 2 ^ t.k ≤ g.count →
        exec (.allowanceExhausted gid) s = .next (s.modGang gid fun g => { g with rival := .closing })) ∧
      (g.count < t.allow0 * 1024 * 2 ^ t.k → exec (.allowanceExhausted gid) s = .next s)) ∧
    (∀ id t, s.tours.find id = some t → t.live = true → t.solo = false → t.k < t.m →
      (∀ r ∈ t.rivals.filterMap s.gang, (r.err = none ∨ r.lost = false) ∧ r.rels = [] ∧
        (r.rival = .held ∨ r.rival = .heldRetired ∨ r.rival = .faulted)) →
      exec (.roundEnd id) s = .next (s.endRound id t)) ∧
    (∀ (c : CoreId) (n : Nat) (f : WaitFor), (let w : Who := { core := c, t := Fin.ofNat 16 n }
      (s.ts w).run = .atWait f →
      (f.hit = false → past s.now f.deadline = true → exec (.waitBoundExpiry c n) s =
        ((({ s with who := w }.modTs w fun t => t.finishWait f 1).rouseTask w).done)) ∧
      (f.hit = true ∨ past s.now f.deadline = false → exec (.waitBoundExpiry c n) s = .next s)))) ∧
  ((∀ (s : State) (gid : Nat) (g : Gang), s.gang gid = some g → g.shadowRival ≠ .faulted →
    (let shadow (t : Nat × Nat × Nat) : ThreadSet := (s.core (.memory t.1 t.2.1)).shadowTs[Fin.ofNat 16 t.2.2]
    (∀ t ∈ g.shadowTasks, (shadow t).run = .atBar → (shadow t).loops = []) →
    (let u := s.rollBack gid g
    (∃ h, u.gang gid = some h ∧ h.sstep = g.sstep ∧ h.err = none ∧ h.lost = false ∧ h.retries = g.retries + 1 ∧ h.toks = [] ∧
      h.taskAt = [] ∧ h.tasks = g.shadowTasks ∧ h.count = g.shadowCount ∧ h.rival = g.shadowRival ∧ h.restart = true ∧
      h.rels = h.everyone) ∧
    (∀ p ∈ u.packets, p.sender.gang ≠ gid) ∧ (∀ p ∈ u.qposts, p.gang ≠ gid) ∧
    (∀ e ∈ u.memory, ∀ c ∈ e.2.commit, c.gang = gid → c.draining = true) ∧
    (∀ c ∈ g.rect, (u.core c).sstep = (s.core c).sstep ∧ (u.core c).arrived = false ∧
      (u.core c).ts = (s.core c).shadowTs.map fun t => { t with enter := true }) ∧
    (∀ t ∈ g.shadowTasks, (let v := (u.core (.memory t.1 t.2.1)).ts[Fin.ofNat 16 t.2.2]
      let f := shadow t
      v.enter = true ∧ v.s = f.s ∧ v.p = f.p ∧
      (f.run = .atBar → v.run = .ready ∧ v.pc = BitVec.ofNat 32 (nextPos f.pc.toNat) ∧ v.sstep = f.sstep + 1) ∧
      (f.run ≠ .atBar → v.run = f.run ∧ v.pc = f.pc ∧ v.sstep = f.sstep))) ∧
    u.reports = s.reports ++ [{ g.report 2 with time := s.picos / 1000 }] ∧
    u.devCounters.l2rollback = sat64 s.devCounters.l2rollback))) ∧
  (∀ k : Core, k.store.wf = true → (k.plate.map fun e => e.1 % 4096).Nodup →
    (∀ e ∈ k.plate, ∀ i, i < 256 → some (k.rollBack.store.read (e.1 % 4096 * 256 + i)) = (bytesOf e.2)[i]?) ∧
    (∀ a, (∀ e ∈ k.plate, a < e.1 % 4096 * 256 ∨ e.1 % 4096 * 256 + 256 ≤ a) →
      k.rollBack.store.read a = k.store.read a))) ∧
  (∀ (s : State) (ctx q fdom : Nat), (let u := s.teardown ctx q fdom
    u.devCounters.l3teardown = sat64 s.devCounters.l3teardown ∧
    (∀ n ∈ s.domain ctx q fdom, ∀ x, s.queue ctx n = some x →
      ∃ y, u.queue ctx n = some y ∧ y.state = .torn ∧ (x.state ≠ .torn → y.head = y.tail ∧
        ∀ e ∈ u.gangs, e.2.ctx = ctx → e.2.q = n → e.2.phase = .retiring)) ∧
    (∀ n x, n ∉ s.domain ctx q fdom → s.queue ctx n = some x → u.queue ctx n = some x) ∧
    (∀ c, s.ctx ctx = some c → q ∈ s.domain ctx q 0 ∧ ∀ n, n ∈ s.domain ctx q 2 ↔ n ∈ c.queues.map (·.1)))) ∧
  (∀ (s : State) (id i j : Nat) (t : Tour) (x y : Gang), s.tours.find id = some t → t.m = t.k + 1 → t.rivals = [i, j] →
    i ≠ j → s.gang i = some x → s.gang j = some y → x.bidx / 2 ^ t.k = 0 → y.bidx / 2 ^ t.k = 1 →
    (let u := s.endRound id t
    (x.rival = .held → y.rival = .held →
      (let score (g : Gang) : Int := (s.core g.corner).shared.score.toInt
      let first : Prop := score y < score x ∨ score x = score y ∧ (x.count < y.count ∨
        x.count = y.count ∧ x.bidx < y.bidx)
      let why : Nat := if score x ≠ score y then 0 else if x.count ≠ y.count then 1 else 2
      let won (w l : Nat) (g o : Gang) (lost : Nat × Nat × Nat × Nat) : Prop := u.gang l = none ∧
        (∃ v, u.tours.find id = some v ∧ v.solo = true ∧ v.k = t.m) ∧
        ∃ h, u.gang w = some h ∧ h.rival = .ordinary ∧ h.count = 0 ∧ h.rels = h.everyone ∧ h.tasks = g.tasks ∧
          (h.ox, h.oy, h.w, h.h) = t.groupRect (t.k + 1) 0 ∧ h.word = outcomeWord t.k why o.bidx ∧
          (g.ox < 32 → lost.1 + lost.2.2.1 ≤ 32 → (g.ox < lost.1 ∨ lost.1 + lost.2.2.1 ≤ g.ox ∨ g.oy < lost.2.1 ∨
            lost.2.1 + lost.2.2.2 ≤ g.oy) → (u.core h.corner).shared.score = (s.core g.corner).shared.score) ∧
          ∀ a b, a < lost.2.2.1 → b < lost.2.2.2 → CoreId.compute (lost.1 + a) (lost.2.1 + b) ∈ h.rect →
            (let k := u.core (.compute (lost.1 + a) (lost.2.1 + b))
            k.gang = some w ∧ k.sstep = g.sstep ∧ k.gdim = h.gdim ∧ k.brect = h.brect ∧
            ∀ n : Fin 16, n.val < g.sets →
              k.ts[n].pc = ((s.capsule g.ctx g.capsule).map (·.annex)).getD 0 ∧ k.ts[n].run = .idle)
      (first → won i j x y (t.groupRect t.k (2 ^ t.k))) ∧ (¬ first → won j i y x (t.groupRect t.k 0)))) ∧
    (∀ f, x.rival = .faulted → y.rival = .faulted → x.fault = some f → t.faults = [] → y.bidx > x.bidx →
      u.gang i = none ∧ u.gang j = none ∧ (∀ e ∈ u.tours, ¬ (e.2.ctx = t.ctx ∧ e.2.q = t.q ∧ e.2.idx = t.idx)) ∧
      ∀ c v, s.ctx t.ctx = some c → c.queues.find t.q = some v →
        ∃ z, u.queue t.ctx t.q = some z ∧ z.err = 1 ∧ z.errIdx = t.idx ∧ z.xcause = f.1.code ∧ z.xpc = f.2.1 ∧
          z.xval = f.2.2.1)))

/-- What the host asks of a queue (R412, R414, R427, R429, R430, R450, R453): a 64-bit doorbell of command 0 moves
TAIL forward behind FREE, on a torn queue completing what it adds; commands 1 to 4 are RESUME, FLUSH, QUIESCE and
UNQUIESCE; any other command or width is ignored. RESUME lets a halted queue run, FLUSH drops its records and lets it
run, QUIESCE and UNQUIESCE stop and restart its dispatch; a reservation that one of them gives up goes to the next
head in turn. That a torn queue takes TAIL and completes what it adds with error 14 (log entry 40), and that FLUSH and
QUIESCE drop a start (log entry 39), are the model's choices. What FLUSH leaves of a ring (R427): its head is at its
tail, and no record is left before it but those under way. -/
def Obligations.QueueRequests : Prop :=
  (∀ (s : State) (ctx q : Nat) (x : Queue), s.devClass ≠ .fatal → s.queue ctx q = some x →
    (∀ fn off, s.doorbellAt fn off = some (ctx, q) →
      (∀ (word : DWord) n t, word.toNat / 65536 % 8 = 0 → n = 2 ^ x.log2n → t = word.toNat % 65536 % n →
        (x.prod = false → (t + n - x.tail % n) % n ≤ (x.free + n - 1 - x.tail % n) % n →
          exec (.doorbellTailUpdate fn off ⟨64, word⟩) s = .next (s.modQueue ctx q fun x =>
            if x.state = .torn then { Queue.flushAll { x with tail := t } with state := .torn }
            else { x with tail := t })) ∧
        (x.prod = true ∨ (x.free + n - 1 - x.tail % n) % n < (t + n - x.tail % n) % n →
          exec (.doorbellTailUpdate fn off ⟨64, word⟩) s = .next (s.modQueue ctx q id))) ∧
      (∀ (word : DWord), (let cmd := word.toNat / 65536 % 8
        (cmd = 1 → exec (.doorbellTailUpdate fn off ⟨64, word⟩) s = exec (.resume ctx q) s) ∧
        (cmd = 2 → exec (.doorbellTailUpdate fn off ⟨64, word⟩) s = exec (.flush ctx q) s) ∧
        (cmd = 3 → exec (.doorbellTailUpdate fn off ⟨64, word⟩) s = exec (.quiesce ctx q) s) ∧
        (cmd = 4 → exec (.doorbellTailUpdate fn off ⟨64, word⟩) s = exec (.unquiesce ctx q) s) ∧
        (5 ≤ cmd → exec (.doorbellTailUpdate fn off ⟨64, word⟩) s = .next s))) ∧
      (∀ d : BarWrite, d.width ≠ 64 → exec (.doorbellTailUpdate fn off d) s = .next s)) ∧
    (x.state = .halted → exec (.resume ctx q) s =
      .next (s.modQueue ctx q fun x => { x with state := .running }).takeReservations) ∧
    (x.state ≠ .torn → exec (.flush ctx q) s =
      .next ((s.dropStarting ctx q).modQueue ctx q fun x => { x.flushAll with state := .running }).takeReservations) ∧
    (x.state = .running ∨ x.state = .halted → exec (.quiesce ctx q) s =
      .next (((s.returnDep ctx q).dropStarting ctx q).modQueue ctx q fun x => { x with
        state := if x.state = .running then .quiesced else x.state
        resv := none
        checked := false }).takeReservations) ∧
    (x.state = .quiesced → exec (.unquiesce ctx q) s =
      .next (s.modQueue ctx q fun x => { x with state := .running }).takeReservations)) ∧
  (∀ (q : Queue), q.flushAll.head = q.tail ∧ q.flushAll.tail = q.tail ∧ q.flushAll.pending = 0 ∧
    (∀ u ∈ q.flushAll.slots, u.hold = false) ∧
    (∀ u ∈ q.slots, u.done = false → { u with hold := false } ∈ q.flushAll.slots))

/-- The record at the head (R416 to R421, R426, R430, R492, R494): a skipped one completes, a malformed one fails with
error 3, a launch is checked, TLWAIT waits for its timeline and completes, TLSIGNAL advances its own and writes its
word, COPY starts a copy, COND skips records where its test is false, LOOP goes back or falls through; a walk error
for the record tears the queue down. That LOOP checks its target before its test and counts in DONE on each pass (log
entry 40), and that the form of a record is checked before its FENCE waits (log entry 39), are the model's choices. -/
def Obligations.RecordEvents : Prop :=
  ∀ (s : State) (ctx q : Nat) (c : Context) (x : Queue) (bs : List Byte),
    (∀ i ∈ [Instr.launchRecord ctx q, .tlwaitRecord ctx q, .tlwaitRecordComplete ctx q, .tlsignal ctx q,
        .copyRecord ctx q, .cond ctx q, .loopRecord ctx q],
      s.ctx ctx = some c → s.queue ctx q = some x → x.state = .running → x.pending ≠ 0 → s.launching ctx q = false →
      (s.headRecord ctx x = none → s.walkBroken ctx (x.ring + 64 * x.head) = true →
        exec i s = .next (s.unpinned ctx q 6 (x.ring + 64 * x.head))) ∧
      (s.headRecord ctx x = some bs →
      (x.skip ≠ 0 → exec i s = .next (s.modQueue ctx q fun x => { x.pass bs with skip := x.skip - 1 })) ∧
      (x.skip = 0 → s.globalPoison ctx (x.ring + 64 * x.head) 64 = false → c.recordBad x bs = true →
        exec i s = .next (s.modQueue ctx q fun x => x.reject bs)))) ∧
    (s.head ctx q 1 c x bs → x.checked = false →
      (∀ l k, s.launchError c x bs = 0 → c.launchOf bs = some (l, k) → exec (.launchRecord ctx q) s =
        .next (s.modQueue ctx q fun x => { x.countBody k with checked := true }).takeReservations) ∧
      (s.launchError c x bs ≠ 0 → exec (.launchRecord ctx q) s =
        .next (s.modQueue ctx q fun x => x.refuse bs (s.launchError c x bs)))) ∧
    (s.head ctx q 2 c x bs →
      (s.serves ctx q = true → exec (.tlwaitRecord ctx q) s =
        .next ((s.noteServed ctx q).modQueue ctx q fun x =>
          { x with waitTl := some (fieldAt bs 4 1, fieldAt bs 6 2, fieldAt bs 8 8) })) ∧
      (∀ sel qi v, x.waitTl = some (sel, qi, v) →
        (v ≤ c.recordTl sel qi → exec (.tlwaitRecordComplete ctx q) s =
          .next (s.modQueue ctx q fun x => x.pass bs)) ∧
        (c.recordTl sel qi < v → exec (.tlwaitRecordComplete ctx q) s = .next s))) ∧
    (s.head ctx q 3 c x bs → s.serves ctx q = true → (s.noteServed ctx q).recordDenied ctx q bs = none →
      (let v := fieldAt bs 8 8
      let wa := fieldAt bs 16 8
      (v ≤ x.signalTl → exec (.tlsignal ctx q) s =
        .next ((s.noteServed ctx q).modQueue ctx q fun x => x.refuse bs 11)) ∧
      (x.signalTl < v →
        (let s1 := (s.noteServed ctx q).modQueue ctx q fun x => { x with signalTl := v }
        let s2 := if wa = 0 then s1 else s1.engineWrite ctx wa (bytesAt bs 24 8)
        let s3 := if fieldAt bs 4 1 = 1 then s2.raiseQueue ctx q else s2
        exec (.tlsignal ctx q) s = .next (s3.modQueue ctx q fun x => x.pass bs))))) ∧
    (s.head ctx q 4 c x bs → s.serves ctx q = true →
      (let cmd := bytesAt bs 8 40
      let s1 := (s.noteServed ctx q).modQueue ctx q fun x => x.take 4 (holds bs)
      let j := copyJobOf cmd (s.noteServed ctx q).nextId ctx q (x.copyCount + 1) none x.head 0 none
      (c.sealed cmd = none → exec (.copyRecord ctx q) s = .next (s1.startCopy j)) ∧
      (∀ a, c.sealed cmd = some a → exec (.copyRecord ctx q) s =
        .next (((s1.startCopy j).settleCopy j).copyFailed j 0)))) ∧
    (s.head ctx q 5 c x bs → s.serves ctx q = true → (s.noteServed ctx q).recordDenied ctx q bs = none →
      exec (.cond ctx q) s = .next ((s.noteServed ctx q).modQueue ctx q fun x => { x.pass bs with
        skip := if (s.noteServed ctx q).testWord ctx bs then 0 else fieldAt bs 4 2 })) ∧
    (s.head ctx q 6 c x bs → s.serves ctx q = true →
      (let t := s.noteServed ctx q
      let target := (x.head + x.size - fieldAt bs 4 2) % x.size
      let i := (x.iters.find x.head).getD 0
      let maxit := fieldAt bs 24 4
      ((∀ u ∈ x.slots, u.idx = target → u.hold = false) →
        exec (.loopRecord ctx q) s = .next (t.modQueue ctx q fun x => x.refuse bs 12)) ∧
      ((∃ u ∈ x.slots, u.idx = target ∧ u.hold = true) → t.recordDenied ctx q bs = none →
        (t.testWord ctx bs = true → maxit = 0 ∨ i + 1 < maxit → exec (.loopRecord ctx q) s =
          .next (t.modQueue ctx q fun x => x.goBack bs target (i + 1))) ∧
        (t.testWord ctx bs = false ∨ maxit ≠ 0 ∧ maxit ≤ i + 1 → exec (.loopRecord ctx q) s =
          .next (t.modQueue ctx q fun x => x.fallThrough bs target)))))

/-- The reservation and the start of a gang or a tournament (R16, R17, R28, R160, R161, R412, R416, R424, R426, R428
to R430): a checked head for which there is room takes its cores and task slots and leaves its launch record's
dependence count, a tournament with one gang for each bracket index and a node of the region tree; a start makes the
cores ready and takes the record, or leaves nothing but error 9, and waits while its queue does not run; a buffer that
has gone since the check is error 5. That a start waits for its queue to run and is dropped when it ends (log entry
39), and the order among reservations of a queue that was handled (log entry 41), are the model's choices. A gang that
starts, a rival among them (R28, R161 to R163): it runs, its release is on its way to every core and task, and each of
its cores has its round word, its rectangle and its dimensions. A core that a gang reserves (R17, R406): its thread
sets are idle and as at reset, it keeps its bytes for the context it had and loses them for another, and it keeps the
lines of that build of the capsule alone. -/
def Obligations.GangEvents : Prop :=
  (∀ (s : State),
    (∀ ctx q c x l k ox oy slots, (let s0 := s.takeReservations
      s0.ctx ctx = some c → s0.queue ctx q = some x →
      s0.room ctx q x = some (l, ox, oy, slots) → s0.wantsRoom ctx q x = some (l, k) →
      (s0.serves ctx q = true ∨ x.resv.isSome = true) →
      (c.bindsOk l k = false → exec (.gangReserve ctx q) s =
        .next (s0.modQueue ctx q fun x => x.refuse ((s0.headRecord ctx x).getD []) 5).takeReservations) ∧
      (c.bindsOk l k = true → (let s1 := s0.noteServed ctx q
      let id := s1.nextId
      let gs (tour : Option Nat) := s1.newGangs ctx q x c l k ox oy slots (id + 1) tour
      let kept (s2 : State) (gs : List (Nat × Gang)) : Result :=
        .next (((gs.foldl (fun (s : State) e => s.reserveGang e.1 e.2 k) s2).modQueue ctx q fun x =>
          { x with resv := none }).modCtx ctx fun c => { c with launches := c.launches.map fun (r : Launch) =>
            if r.handle = l.handle then { r with counter := r.counter - r.depn } else r }).takeReservations
      (l.rivals = none →
        exec (.gangReserve ctx q) s = kept { s1 with nextId := id + 2 + l.gangs } (gs none)) ∧
      (∀ m w0 h0 allow, l.rivals = some (m, w0, h0, allow) →
        (let t : Tour :=
          { ctx := ctx, q := q, idx := x.head, ox := ox, oy := oy, w0 := w0, h0 := h0, m := m, k := 0, solo := m == 0
            allow0 := allow, limit := l.limit, cycles := 0, rivals := (List.range (2 ^ m)).map (id + 1 + ·)
            annexWins := l.annexes, faults := [], live := false }
        exec (.gangReserve ctx q) s = kept { s1 with
          nextId := id + 2 + l.gangs, tours := s1.tours.put id t
          regions := s1.regions ++ [tourNode (s1.newHandle (1 + l.gangs)) x.group id] } (gs (some id)) ∧
        ∀ i, i < 2 ^ m → ∃ g, (gs (some id))[i]? = some (id + 1 + i, g) ∧ g.tour = some id ∧ g.bidx = i ∧
          g.phase = .starting ∧ g.sets = l.sets ∧ g.capsule = k.handle ∧ g.w = w0 ∧ g.h = h0 ∧ g.ox = ox + bracketX i * w0 ∧
          g.oy = oy + bracketY i * h0 ∧ g.rival = (if m = 0 then .ordinary else .running))))))) ∧
    (∀ gid g c x bs l k, s.gang gid = some g → s.ctx g.ctx = some c → s.queue g.ctx g.q = some x →
      s.headRecord g.ctx x = some bs → c.launch g.launch = some l → c.capsule g.capsule = some k → g.phase = .starting →
      (x.state ≠ .running → ∀ ok, exec (.gangStart gid ok) s = .next s) ∧
      (x.state = .running → exec (.gangStart gid false) s =
        .next ((s.dropStarting g.ctx g.q).modQueue g.ctx g.q fun x => x.refuse bs 9)) ∧
      (x.state = .running →
        (let args := if fieldAt bs 1 1 / 2 % 2 = 1 then some (bytesAt bs 32 32) else none
        let s1 := s.modQueue g.ctx g.q fun x => x.take 1 (holds bs)
        let gs := s.gangs.filter fun e => e.2.ctx == g.ctx && e.2.q == g.q && e.2.phase == .starting
        let begun (s1 : State) : Result :=
          let s2 := (gs.foldl (fun (s : State) e => s.startGang e.1 e.2 l k args) s1).modCtx g.ctx fun c =>
            { c with injects := c.injects.filter fun e => e.1 != g.launch }
          .next ((s2.passHeads g.ctx g.q (s.partition x.group)).takeReservations)
        (g.tour = none → exec (.gangStart gid true) s = begun s1) ∧
        (∀ id t, g.tour = some id → s.tours.find id = some t →
          exec (.gangStart gid true) s = begun { s1 with tours := s1.tours.put id { t with live := true } }))))) ∧
  (∀ (s : State) (gid : Nat) (g : Gang) (l : Launch) (k : Capsule) (args : Option (List Byte)), s.gang gid = some g →
    (let u := s.startGang gid g l k args
    (∃ h, u.gang gid = some h ∧ h.phase = .running ∧ h.rels = g.everyone ∧ h.rival = g.rival) ∧
    (∀ c ∈ g.rect, (u.core c).gdim = g.gdim ∧ (u.core c).brect = g.brect ∧
      (u.core c).round = (g.tour.bind s.tours.find).elim 0 fun t => t.round g.bidx) ∧
    (∀ c ∈ g.rect, ∀ i : Fin 16, i.val < l.sets → (u.core c).ts[i].pc = k.entry ∧ (u.core c).ts[i].run = .idle))) ∧
  (∀ (k : Core) (gid ctx handle build : Nat), (let u := k.reserve gid ctx handle build
    u.gang = some gid ∧ u.lastCtx = some ctx ∧ u.fenced = k.fenced ∧ (∀ t ∈ u.ts.toList, t = ({} : ThreadSet)) ∧
      (k.lastCtx = some ctx → u.store = k.store ∧ u.poison = k.poison) ∧
      (k.lastCtx ≠ some ctx → (∀ a, u.store.read a = 0) ∧ u.poison = []) ∧
      (∀ l, l ∈ u.scratch ↔ l ∈ k.scratch ∧ l.capsule = handle ∧ l.build = build)))

/-- What the network engine does (R458 to R466, R469): a packet of a peer is discarded where it was placed before,
placed where its key and its room allow it, refused by name where they do not; an acknowledged post ends in success, a
refused one fails with the target's reason, a missing packet is sent again, seven times at most; a packet that
completes its message waits until the counter that it names can count. What a message's packet is refused for (R459,
R462, R466): a context torn down 5, an unknown key or one that does not take the operation 2, bytes outside the buffer
3, a ring without a free slot 4. How the key of a window is judged, that a SEND longer than its slot is 3, and that a
ring is judged full on the last packet only, are the model's choices (log entry 43). -/
def Obligations.NetworkEvents : Prop :=
  (∀ (s : State) (ctx : Nat) (c : Context), s.ctx ctx = some c →
    (∀ (p : NetPacketIn) (o : Nat), s.devClass ≠ .fatal → p.origin = .peer o →
      (let i := c.inboundOf p.origin p.message
      let last := { i with placed := p.seq :: i.placed }.whole p.lastSeq
      (i.err ≠ 0 ∨ i.complete = true ∨ p.seq ∈ i.placed → exec (.networkPacketArrival ctx p) s = .next s) ∧
      (i.err = 0 → i.complete = false → p.seq ∉ i.placed →
        (∀ r, s.netRefusal c p last = none → c.remotes.find? (fun r => r.rkey == p.rkey) = some r →
          c.netReach (netTargets p r last) = .ok →
          (∀ t ∈ netTargets p r last, s.undrained ctx t.1 t.2 = false ∧ s.rangeMigrating ctx t.1 t.2 = false ∧
            s.globalPoison ctx t.1 t.2 = false) →
          (last = true → s.counterReady ctx p.rcnt = true) →
          ((last = true → s.counterError ctx p.rcnt = none) →
            exec (.networkPacketArrival ctx p) s = .next (s.takePacket ctx p r i)) ∧
          (∀ e, last = true → s.counterError ctx p.rcnt = some e → ∃ t, exec (.networkPacketArrival ctx p) s = .next t ∧
            t.hbm = s.hbm ∧ t.contexts = (s.modCtx ctx fun c => c.setInbound { i with err := 5 }).contexts)) ∧
        (∀ e, s.netRefusal c p last = some e → e ≠ 7 → exec (.networkPacketArrival ctx p) s =
          .next (s.modCtx ctx fun c => c.setInbound { i with err := e }))))) ∧
    (∀ n p, s.flying ctx n = some p → (∀ e, c.peers.find p.peer = some e → e.own = false) →
      (exec (.networkAck ctx n) s = .next { s.endPost ctx p true 0 with
        wire := (s.endPost ctx p true 0).wire.filter fun w => !(w.ctx == ctx && w.number == n) }) ∧
      (∀ e ∈ [2, 3, 4, 5, 7], exec (.negativeAck ctx n e) s = .next (s.failPost ctx p e)) ∧
      (∀ q, (s.wire.any fun w => w.ctx == ctx && w.number == n && w.seq == q) = true →
        (let k := (p.tries.find q).getD 0
        let sent : State := s.modCtx ctx fun c => { c with posts := c.posts.map fun (x : Post) =>
          if x.number = n then { x with tries := x.tries.put q (k + 1) } else x }
        let after := if k < 7 then sent else s.failPost ctx p 1
        exec (.retransmitTimeout ctx n q) s = .next after ∧ exec (.sackReceived ctx n [q]) s = .next after)))) ∧
  (∀ (s : State) (c : Context) (p : NetPacketIn) (last : Bool),
    (c.torn = true → s.netRefusal c p last = some 5) ∧
    (c.torn = false → c.remotes.find? (fun r => r.rkey == p.rkey) = none → s.netRefusal c p last = some 2) ∧
    (∀ r gva size w, c.torn = false → c.remotes.find? (fun r => r.rkey == p.rkey) = some r →
      r.kind = .global gva size w →
      (p.opc = 1 ∨ w = false → s.netRefusal c p last = some 2) ∧
      (p.opc = 0 ∨ p.opc = 2 → w = true → s.netRefusal c p last = if size < p.start + p.total then some 3 else none)) ∧
    (∀ r gva slot n, c.torn = false → c.remotes.find? (fun r => r.rkey == p.rkey) = some r → r.kind = .ring gva slot n →
      (p.opc = 0 ∨ p.opc = 2 → s.netRefusal c p last = some 2) ∧
      (p.opc = 1 → s.netRefusal c p last = if slot < p.total then some 3 else
        if last = true ∧ n ≤ r.used then some 4 else none)))

/-- The host link (R453 to R457, R459): a read or write of an aperture window reaches its context's memory where no
page is lacking and nothing sealed is met, and is unsupported elsewhere; in the fatal class reads answer ones and
writes are dropped; configuration space and the STATUS word answer in every class, the device counters in every class
but fatal, where the rest of BAR 0 reads as ones; the sensors' readings are the words that the agenda sets and free
words else (log entry 56); windows, peers and remote buffers are set by request. That an access outside every window
is unsupported (log entry 48), the free words of configuration space (log entry 23), and the answer 0 (log entry 47)
are the model's choices, and so is that a read of poisoned lines answers with free bytes (log entry 25). -/
def Obligations.HostAccess : Prop :=
  ∀ (s : State) (fn : Nat),
    (∀ addr len, s.devClass = .fatal →
      exec (.apertureAccess fn addr len none) s = .next (s.reply fun n => .data n (List.replicate len 0xFF)) ∧
      ∀ d, exec (.apertureAccess fn addr len (some d)) s = .next s) ∧
    (∀ addr len a c, s.devClass ≠ .fatal → s.apertureFor fn addr len = some a → s.ctx a.ctx = some c → 0 < len →
      (let gva := a.gva + (addr - a.off)
      (c.apertureDenied gva len false = false → s.undrained a.ctx gva len = false →
        (let t := s.repair a.ctx gva len
        exec (.apertureAccess fn addr len none) s = .next (t.reply fun n => .data n (t.apertureBytes a.ctx c gva len)))) ∧
      (c.apertureDenied gva len false = true → ∃ t : State, exec (.apertureAccess fn addr len none) s =
        .next (t.reply .unsupported) ∧ t.hbm = s.hbm) ∧
      (∀ d : List Byte, d.length = len → c.apertureDenied gva len true = false → s.undrained a.ctx gva len = false →
        s.rangeMigrating a.ctx gva len = false →
        exec (.apertureAccess fn addr len (some d)) s = .next (s.engineWrite a.ctx gva d)))) ∧
    (∀ addr len d, s.devClass ≠ .fatal → s.apertureFor fn addr len = none →
      exec (.apertureAccess fn addr len d) s = .next (s.reply .unsupported)) ∧
    (∀ off, exec (.configAccess fn (.config off)) s =
      .next (s.reply fun n => .data n (leBytes 4 (Config.configWord fn off).toNat))) ∧
    exec (.configAccess 0 (.bar0 0xFF8 4)) s = .next (s.reply fun n => .data n (leBytes 4 s.statusWord)) ∧
    (∀ i v, s.devClass ≠ .fatal → s.devCounters.list[i]? = some v →
      exec (.configAccess 0 (.bar0 (0x2000 + 8 * i) 8)) s = .next (s.reply fun n => .data n (leBytes 8 v))) ∧
    (∀ i, s.devClass ≠ .fatal → i < 4 * 48 + 8 + 4 * 8 + 4 * 16 + 1 → exec (.configAccess 0 (.bar0 (0x3000 + 4 * i) 4)) s =
      .next (s.reply fun n => .data n (leBytes 4 (s.reading i).toNat))) ∧
    (∀ off len, s.devClass = .fatal → fn ≠ 0 ∨ off ≠ 0xFF8 ∨ len ≠ 4 →
      exec (.configAccess fn (.bar0 off len)) s = .next (s.reply fun n => .data n (List.replicate len 0xFF))) ∧
    (∀ off ctx gva len c, s.serving = true → s.ctx ctx = some c → c.fn = fn → 0 < len → off + len ≤ 2 ^ 36 →
      gva + len ≤ Config.gvaHigh + 1 →
      (∀ a ∈ s.apertures, a.fn = fn → off + len ≤ a.off ∨ a.off + a.len ≤ off) →
      (let a : Aperture := { fn := fn, off := off, ctx := ctx, gva := gva, len := len }
      exec (.apertureMap fn off ctx gva len) s =
        .next ({ s with apertures := s.apertures ++ [a] }.answer fn fun n => .status n 0))) ∧
    (∀ ctx c, s.serving = true → s.ctx ctx = some c →
      (∀ index addr port target own, index < 2 ^ 32 → (
        let p : Peer := { addr := addr, port := port, target := target, own := own }
        exec (.peerTableSet ctx index addr port target own) s = .next ((s.modCtx ctx fun c =>
          { c with peers := c.peers.put index p }).answer c.fn fun n => .status n 0))) ∧
      (∀ rkey k, rkey < 2 ^ 32 → remoteOk k = true → (
        let r : Remote := { rkey := rkey, kind := k, used := 0 }
        exec (.remoteBufferRegister ctx rkey k) s = .next ((s.modCtx ctx fun c => { c with
          remotes := (c.remotes.filter fun (r : Remote) => r.rkey != rkey) ++ [r] }).answer c.fn fun n => .status n 0))))

/-- Capsules (R386, R387, R389): an install that passes every check places its object and answers its handle, or
withholds it until a body is built; a capsule that no launch names is removed; builds are requested, started and
ended. Handles and addresses (log entry 45), and the answers of UNINSTALL and REBUILD, status 1 for a busy capsule
among them (log entry 47), are the model's choices. -/
def Obligations.CapsuleRequests : Prop :=
  ∀ (s : State) (ctx : Nat) (c : Context), s.serving = true → s.ctx ctx = some c →
    (∀ bs test, (parseObject bs = none → exec (.install ctx bs test) s = .next (s.answer c.fn fun n => .status n 1)) ∧
      (∀ o, parseObject bs = some o →
        (s.objectError o test ≠ 0 → exec (.install ctx bs test) s =
          .next (s.answer c.fn fun n => .status n (s.objectError o test))) ∧
        (s.objectError o test = 0 → s.place ctx c o test = none → exec (.install ctx bs test) s =
          .next (s.answer c.fn fun n => .status n 9)) ∧
        (∀ t h, s.objectError o test = 0 → s.place ctx c o test = some (t, h) →
          (3 ≤ o.level → exec (.install ctx bs test) s = .next (t.answer c.fn fun n => .handle n 0 h)) ∧
          (o.level < 3 → exec (.install ctx bs test) s = .next ({ t with nextId := t.nextId + 1 }.modCtx ctx fun c =>
            { c with installs := c.installs ++ [(t.nextId, h)] }))))) ∧
    (∀ h k, c.capsules.filter (fun x => x.handle == h) = [k] → k.withheld = false →
      (s.capsuleBusy ctx c h = false → exec (.uninstall ctx h) s =
        .next ((s.modCtx ctx fun c => c.removeCapsule h).answer c.fn fun n => .status n 0)) ∧
      (s.capsuleBusy ctx c h = true → exec (.uninstall ctx h) s = .next (s.answer c.fn fun n => .status n 1)) ∧
      (k.state = .portable → k.test = false → k.queued = false → exec (.rebuildRequest ctx h) s =
        .next ((s.modCapsule ctx h fun k => { k with queued := true }).answer c.fn fun n => .status n 0)) ∧
      (k.state = .native → exec (.rebuildRequest ctx h) s =
        .next ((s.modCapsule ctx h id).answer c.fn fun n => .status n 1)) ∧
      (k.queued = true → k.state = .portable → exec (.buildStart ctx h) s =
        .next (s.modCapsule ctx h fun k => { k with state := .rebuilding, queued := false })) ∧
      (∀ len, k.state = .rebuilding → k.queued = false →
        (len ≤ k.bodyLen → exec (.buildComplete ctx h len) s = .next (s.modCapsule ctx h fun k =>
          { k with state := .native, buildId := s.buildIdentity, withheld := false })) ∧
        (k.bodyLen < len → exec (.buildComplete ctx h len) s = .next (s.modCapsule ctx k.handle fun k =>
          { k with state := .voided, buildId := 0, queued := false }))))

/-- Contexts, region nodes and queues (R387, R411 to R413, R434, R450, R453, R474): a context takes the lowest free
local index of its function and has an empty page table; a node that the tree admits replaces the one of its handle,
unless a tournament would stand under lockstep, and what it says of plating and fault domain holds for gangs that run;
a queue begins empty, one that was torn down begins anew at its own tail, and none has its ring in an image or a body.
The statuses 0, 1 and 4 (log entry 47), the node of handle 0 and that of a tournament (log entry 46, 79 for when an
edit reaches a gang), and the root of the page table (log entry 55) are the model's choices. -/
def Obligations.ContextRequests : Prop :=
  ∀ (s : State), s.serving = true →
    (∀ ctx fn counters inj i, ctx < 0xFFFF → fn < 32 → s.ctx ctx = none → i < 16 →
      (∀ e ∈ s.contexts, e.2.fn = fn → e.2.local_ ≠ i) → (∀ j, j < i → ∃ e ∈ s.contexts, e.2.fn = fn ∧ e.2.local_ = j) →
      (let root := Config.tableRoot fn i
      let c : Context := { fn := fn, local_ := i, counters := counters, injection := inj, root := root, tables := [((4, 0), root)] }
      exec (.createContext ctx fn counters inj) s =
        .next ({ s with contexts := s.contexts.put ctx c }.answer fn fun n => .handle n 0 i))) ∧
    (∀ handle node x, handle ≠ 0 → s.region handle = some x → x.kind = (regionOf handle node).kind →
      (let r : Region := { regionOf handle node with tour := x.tour }
      (regionForm node r = true → s.regionPlaced r = true →
        (let t : State := { s with
          regions := (s.regions.filter fun (x : Region) => x.handle != handle) ++ [r] }
        exec (.regionEdit handle node) s =
          .next (if t.lockedTournament then s.answer 0 fun n => .status n 4
            else t.regionGangs.answer 0 fun n => .handle n 0 handle))) ∧
      (regionForm node r = false ∨ s.regionPlaced r = false →
        exec (.regionEdit handle node) s = .next (s.answer 0 fun n => .status n 1)))) ∧
    (∀ gid g, s.gang gid = some g → (∀ e ∈ s.gangs, e.1 = gid → e.2 = g) →
      ∃ h, s.regionGangs.gang gid = some h ∧ h.noplate = effNoplate (s.gangChain g) ∧ h.fdom = effFdom (s.gangChain g) ∧
        h.lock = g.lock ∧ (g.noplate = true → h.noplate = false → h.nonroll = true)) ∧
    (∀ ctx q ring log2n prod group c, s.ctx ctx = some c → q < 64 → 6 ≤ log2n → log2n ≤ 16 → ring % 65536 = 0 →
      Config.gvaLow ≤ ring → ring + 64 * 2 ^ log2n ≤ Config.gvaHigh + 1 → s.groupOf ctx group = true →
      (c.sealedRange ring (64 * 2 ^ log2n) = true → exec (.queueCreate ctx q ring log2n prod group) s =
        .next (s.answer c.fn fun n => .status n 1)) ∧
      (c.sealedRange ring (64 * 2 ^ log2n) = false → c.queues.find q = none → s.queueCount < 1024 → (
        let x : Queue := { ring := ring, log2n := log2n, prod := prod, group := group }
        exec (.queueCreate ctx q ring log2n prod group) s = .next ((s.modCtx ctx fun c =>
          { c with queues := c.queues.put q x }).answer c.fn fun n => .status n 0))) ∧
      (∀ x, c.sealedRange ring (64 * 2 ^ log2n) = false → c.queues.find q = some x → x.state = .torn → exec (.queueCreate ctx q ring log2n prod group) s =
        .next ((s.modQueue ctx q fun x => x.recreate ring log2n group prod).answer c.fn fun n => .status n 0)) ∧
      (∀ x, c.queues.find q = some x → x.state ≠ .torn → exec (.queueCreate ctx q ring log2n prod group) s =
        .next (s.answer c.fn fun n => .status n 1)))

/-- Pages (R434, R435, R438 to R443): mapped, unmapped, changed in kind, set to migrate, moved once unpinned, put away
once unpinned; a line that is poisoned as replicas are made is lost with them, and one that a replica still holds is
put right before a page moves or its replicas change (R440); where every page that is a candidate is pinned, EVPINWAIT
counts it. The statuses (log entry 47), and what pins a page, EVPINWAIT counting once for each eviction that waits
(log entry 30), are the model's choices. -/
def Obligations.PageRequests : Prop :=
  ∀ (s : State) (ctx gva : Nat) (c : Context), s.ctx ctx = some c →
    (∀ level pa kind rmask r w, s.serving = true → s.mapOk c gva level pa kind rmask = true →
      (let rights := (if r then 16 else 0) + (if w then 32 else 0)
      exec (.map ctx gva level pa kind rmask r w) s = .next (((s.loseLines pa (pageBytes level)).modCtx ctx fun c => (c.withTables level gva).setPte level
        gva (pteWith (BitVec.ofNat 64 (pa + rights + 3)) kind (homeMask kind rmask pa))).settleDeferred.answer c.fn
          fun n => .status n 0))) ∧
    (∀ level, s.serving = true → level ≤ 2 → gva % pageBytes level = 0 → c.pte level gva ≠ 0 →
      pteLeaf (c.pte level gva) = true ∨ level = 0 → c.sealedRange gva (pageBytes level) = false →
      exec (.unmap ctx gva level) s = .next ((s.modCtx ctx fun c => { c.setPte level gva 0 with
        backing := c.backing.drop (gva / 65536) }).answer c.fn fun n => .status n 0)) ∧
    (∀ l p, c.walk gva = .leaf l p →
      (∀ kind rmask, s.serving = true → kind ≤ 2 → rmask < 256 → (kind = 0 → rmask = 0) → c.sealedRange gva 1 = false →
        exec (.setKind ctx gva kind rmask) s = .next (((s.copyPage ctx gva).modCtx ctx fun c => c.setPte l gva
          (pteWith p kind (homeMask kind rmask (pteAddr p)))).answer c.fn fun n => .status n 0)) ∧
      (let lo := gva / pageBytes l * pageBytes l
      let n := pageBytes l
      (s.serving = true → pteMig p = false → exec (.migrate ctx gva) s =
        .next ({ s with nextId := s.nextId + 1 }.modCtx ctx fun c =>
          { c.setPte l gva (p ||| 0x100#64) with migrates := c.migrates ++ [(s.nextId, lo)] })) ∧
      (∀ pa, pteMig p = true → s.pinned ctx lo n false = false → s.frameOk l pa = true →
        (∀ e ∈ c.migrates, e.2 ≠ lo) → (let old := pteAddr p
        let mask := if pteKind p = 0 then 0 else (pteRmask p &&& (255 - 2 ^ paStack old)) ||| 2 ^ paStack pa
        exec (.migrationSwitch ctx gva pa) s = .next ((((s.repairPage ctx gva).moveBytes old pa n).modCtx ctx fun c =>
          { c.setPte l gva (pteWith (BitVec.ofNat 64 (pa + p.toNat % 64)) (pteKind p) mask) with
            migrates := c.migrates.filter fun (e : Nat × Nat) => e.2 != lo }).copiesBack ctx lo n).settleDeferred)) ∧
      (∀ pa, s.pinned ctx lo n false = true → exec (.migrationSwitch ctx gva pa) s = .next s) ∧
      (c.sealedRange lo n = false → pteMig p = false → (∀ x ∈ s.hbmPoison, meets (pteAddr p) n (64 * x) 64 = false) →
        (s.pinned ctx lo n true = false → ∀ more, exec (.pageEviction ctx (gva :: more)) s =
          .next (s.modCtx ctx fun c => c.evict l p lo s.hbm.read)) ∧
        (s.pinned ctx lo n true = true → ∀ more, (∀ a ∈ more, ∀ l' p' lo', c.page a = some (l', p', lo') →
            s.evictable c l' p' lo' = true → s.pinned ctx lo' (pageBytes l') true = true) →
          exec (.pageEviction ctx (gva :: more)) s =
            .next { s with devCounters := { s.devCounters with evpinwait := sat64 s.devCounters.evpinwait } }))))

/-- Error injection and the debugger (R395, R396, R452): a record within its limits arms an error, what may be seen is
answered, registers only of a stopped or saved thread set, and a stopped one goes on. The layout of what is answered
(log entry 80) and the statuses (log entry 47) are the model's choices. -/
def Obligations.InjectionAndDebug : Prop :=
  ∀ (s : State),
    (∀ ctx c bs, s.serving = true → s.ctx ctx = some c → c.injection = true → injectOk bs = true →
      (c.launch (fieldAt bs 4 4)).isSome = true →
      (let i : Inject :=
        { kind := fieldAt bs 0 1, left := fieldAt bs 1 1, step := BitVec.ofNat 32 (fieldAt bs 8 4), tgt := fieldAt bs 2 1
          col := fieldAt bs 12 1, row := fieldAt bs 13 1, addr := fieldAt bs 16 8 }
      exec (.errorInject ctx bs) s = .next ((s.modCtx ctx fun c => { c with
        injects := c.injects ++ [(fieldAt bs 4 4, i)] }).answer c.fn fun n => .status n 0))) ∧
    (∀ core t r, s.serving = true →
      (s.visible (s.debugWho core t) = false → exec (.debugRead (.scalar core t r)) s =
        .next (s.answer 0 fun n => .status n 1)) ∧
      (s.visible (s.debugWho core t) = true → ∃ bs, exec (.debugRead (.scalar core t r)) s =
        .next (s.answer 0 fun n => .data n bs) ∧
        bs.drop 1 = leBytes 4 ((s.ts (s.debugWho core t)).s[(Fin.ofNat 32 r : SReg)]).toNat)) ∧
    (∀ core a, s.serving = true → exec (.debugRead (.storeByte core a)) s =
      .next (s.answer 0 fun n => .data n (if s.leaderOf core = core then [(s.core core).store.read a]
        else (s.core (s.leaderOf core)).twinBytes a 1))) ∧
    (∀ core t, (s.ts (s.debugWho core t)).run = .stopped →
      exec (.debugResume core t) s = .next ({ s with who := s.debugWho core t }.retire .seq)) ∧
    (∀ core t, (s.ts (s.debugWho core t)).run ≠ .stopped → exec (.debugResume core t) s = .next s)

/-- Checkpoints (R477 to R481): a group over 3 to 16 devices on memory that nothing uses; shards of a quiesced
context's buffers with parity, once the data shards have left for the peers and none of the posts has failed; the
manifest with its commit record; a restore of the highest step that every device holds, refused where a stripe cannot
be made whole, the bad shards behind its status; both wait for drains of their buffers. The layout of area and
manifest, the commit record's place, status 4 for sealed buffers and 5 for no common step are the model's choices (log
entry 50), and so is that a write over poisoned lines answers 0 with free bytes (log entry 25). A stripe of a
checkpoint survives the loss of any one of its shards (R477, R480): the exclusive or of the others gives it back. -/
def Obligations.Checkpoints : Prop :=
  (∀ (s : State), s.serving = true →
    (∀ group devices self ctx area len, s.ckGroup group = none → 3 ≤ devices → devices ≤ 16 → self < devices →
      (s.ctx ctx).isSome = true → area % 64 = 0 → len ≠ 0 → paOk area = true → paOk (area + len - 1) = true →
      area / 2 ^ 36 = (area + len - 1) / 2 ^ 36 → s.frameFree area len = true →
      (let g : CkGroup := { group := group, devices := devices, self := self, ctx := ctx, area := area, areaLen := len }
      exec (.checkpointGroupCreate group devices self ctx area len) s =
        .next ({ s with ckGroups := s.ckGroups ++ [g] }.answer 0 fun n => .status n 0))) ∧
    (∀ group g c, s.ckGroup group = some g → s.ctx g.ctx = some c →
      (∀ step buffers longest peers, (
        let ask := exec (.checkpointWrite group step buffers longest peers) s
        let len := buffers.foldl (fun n b => n + b.2) 0
        let z := ckZ g.devices (max longest len)
        let image := s.ckImage g.ctx buffers
        let sent : State := { s with ckOut := s.ckOut ++ g.puts step z image }
        let ps := g.payloads z image peers.shards
        (s.quiesced g.ctx c = false → ask = .next (s.ckAnswer 1)) ∧
        (s.quiesced g.ctx c = true → c.ckSealed buffers = true → ask = .next (s.ckAnswer 4)) ∧
        (s.quiesced g.ctx c = true → c.ckSealed buffers = false →
          (g.areaLen < ckAreaLen g.devices z → ask = .next (s.ckAnswer 2)) ∧
          (ckAreaLen g.devices z ≤ g.areaLen → s.buffersReady g.ctx buffers false = false → ask = .next s) ∧
          (ckAreaLen g.devices z ≤ g.areaLen → s.buffersReady g.ctx buffers false = true → peers.failed ≠ [] →
            ask = .next (sent.ckAnswer 3)) ∧
          (ckAreaLen g.devices z ≤ g.areaLen → s.buffersReady g.ctx buffers false = true →
            peers.failed = [] → peers.shards.length + 1 ≠ g.devices → ask = .next s) ∧
          (s.buffersReady g.ctx buffers false = true → ckAreaLen g.devices z ≤ g.areaLen → peers.failed = [] → peers.shards.length + 1 = g.devices →
            (∀ p ∈ peers.shards, p.length = z) →
            ask = .next ((sent.writeShards g (sent.ckTarget g) step z ps).ckAnswerWith 0 (ps.flatMap sha256)))))) ∧
      (∀ step entries h z, s.ckRead (g.shardAt (s.ckTarget g) 0 0) 64 = some h → z = fieldAt h 16 8 →
        bytesAt h 0 14 = leBytes 8 step ++ leBytes 4 group ++ leBytes 1 0 ++ leBytes 1 g.self →
        entries.length = 48 * g.devices * g.devices → ckAreaLen g.devices z ≤ g.areaLen →
        (let m := ckHead group g.devices step z ++ entries
        exec (.checkpointManifest group step entries) s = .next
          ((s.ckWriteLines (g.slot (s.ckTarget g)) (m ++ (leBytes 8 step ++ sha256 m ++ leBytes 4 0x54434B43 ++
            leBytes 20 0))).ckAnswer 0))) ∧
      (∀ n answering manifest buffers peers, s.quiesced g.ctx c = true → c.ckSealed buffers = false → (
        let ask := exec (.checkpointRestore group n answering manifest buffers peers) s
        let seen := (peers.filter fun p => p.2.1 != g.self).filterMap fun p => seenShard group p.1 p.2.1 p.2.2
        (restoreStep g.devices (s.ckSteps g) answering = none → ask = .next (s.ckAnswer 5)) ∧
        (∀ (k : Nat) (r : Restore), restoreStep g.devices (s.ckSteps g) answering = some k →
          r.devices = g.devices → r.step = k →
          (∀ b v, s.ckAt g k = some b → s.ckSlot g b = some v →
            r.z = v.2.1 ∧ r.entries = v.2.2 ∧ r.shards = s.ownShards g b v.2.1 ++ seen) →
          (s.ckAt g k = none → (let m := (g.manifestOf k manifest).getD (0, [])
            r.z = m.1 ∧ r.entries = m.2 ∧ r.shards = seen)) →
          (n ≠ k ∨ r.possible = false →
            ask = .next (s.ckAnswerWith 4 (r.blamed.flatMap fun b => leBytes 1 b.1 ++ leBytes 1 b.2))) ∧
          (n = k → r.possible = true → s.buffersReady g.ctx buffers true = true →
            (if (g.devices - 1) * r.z < buffers.foldl (fun m b => m + b.2) 0 then ask = .next (s.ckAnswer 2)
            else ask = .next ((((s.mendSlot g r).restoreBuffers g.ctx (r.image g.self) buffers).checkStepping
              g.ctx).ckAnswer 0)))))))) ∧
  (∀ (z : Nat) (xs : List (List Byte)) (i : Nat) (y : List Byte), (∀ x ∈ xs, x.length = z) → xs[i]? = some y →
    xorBytes z (xorBytes z xs :: xs.eraseIdx i) = y)

/-- Starting, firmware and attestation (R482 to R487): a request begins a start, STATUS naming the step that runs;
each cycle of the clock takes a step (log entry 51); step 4 has the frames that the flash lists retired; the last
makes the device ready, one that fails says so; a request meanwhile is answered BUSY; an accepted image goes into the
slot that is not active; activation switches the slots of a quiesced device; a report is signed with the next one-time
index. What a signature holds over is a free value (log entry 20). The statuses of FWSTAGE and ACTIVATE (log entry
47), what a start that fails leaves and the clock and the power cap that a cold one sets (log entry 51), and status 4
of a refused attestation (log entry 52) are the model's choices. -/
def Obligations.BringUp : Prop :=
  ∀ (s : State),
    (∀ fenced n, (let may : Prop := (s.devClass = .ready ∨ s.devClass = .failed ∨ s.devClass = .fatal) ∧ s.railsOff = false
      let other : Bool := decide (3 ≤ s.failedStarts)
      let slot := if other then 1 - s.fwActive else s.fwActive
      let failsAt (slot : Nat) : Nat := if s.bootable slot = false ∧ (n = 0 ∨ 2 < n) then 2 else n
      let busy : Result := .next (s.answer 0 fun n => .status n 1)
      (n ≤ 8 → s.starting = none → ∃ t : State, exec (.coldstart n fenced) s = .next t ∧ t.devClass = .starting ∧
        t.devDetail = 1 ∧ t.gangs = [] ∧ t.starting = some { warm := false, fail := failsAt slot, fenced := fenced, slot := slot
                                                             other := other, todo := [1, 2, 3, 4, 5, 6, 7, 8] }) ∧
      (n ∈ [0, 2, 4, 5, 8] → s.starting = none → may → ∃ t : State, exec (.warmstart n fenced) s = .next t ∧
        t.devClass = .starting ∧ t.devDetail = 2 ∧ t.gangs = [] ∧ t.starting = some
          { warm := true, fail := failsAt s.fwActive, fenced := fenced, slot := s.fwActive, other := false, todo := [2, 4, 5, 8] }) ∧
      (n ≤ 8 → s.starting.isSome = true → exec (.coldstart n fenced) s = busy) ∧
      (n ∈ [0, 2, 4, 5, 8] → s.starting.isSome = true ∨ ¬ may → exec (.warmstart n fenced) s = busy))) ∧
    (∃ u : State, s.tickClock = u.startTick ∧ (u.devClass = .fatal ∨ u.starting = s.starting)) ∧
    (∀ r n rest, s.starting = some r → r.todo = n :: rest →
      (r.fail = n → s.startTick = { s with
        starting := none, devClass := .failed, devDetail := n, failedStarts := s.failedStarts + 1 }) ∧
      (r.fail ≠ n → (let t := s.startStep r.warm r.fenced n
        (∀ m more, rest = m :: more → s.startTick = { t with starting := some { r with todo := rest }, devDetail := m }) ∧
        (rest = [] → s.startTick = { t with
          starting := none, devClass := if r.other then .fallback else .ready, devDetail := r.slot, fwActive := r.slot
          failedStarts := 0 }.raise 0 0)))) ∧
    (∀ fenced, s.starting = none → s.bootable s.fwActive = true → s.failedStarts < 3 →
      (let ticks (n : Nat) (u : State) : State := (List.range n).foldl (fun (v : State) _ => v.startTick) u
      (∃ u : State, exec (.coldstart 0 fenced) s = .next u ∧ (let t := ticks 8 u
        t.devClass = .ready ∧ t.devDetail = s.fwActive ∧ t.starting = none ∧
        t.failedStarts = 0 ∧ t.gangs = [] ∧ t.contexts = [] ∧ t.hbm = [] ∧ t.clockMhz = 2000 ∧ t.powerCap = 1800 ∧
        t.railsOff = false ∧ t.hbmPoison = [] ∧ t.poisonRecords = [] ∧ t.retired = s.flashRetired ∧
        t.remaps = s.flashRemaps.map Copies.of ∧ ∀ c, c.kind ≠ .control → c.exists = true → (t.core c).fenced = fenced.contains c)) ∧
      (∀ n, 1 ≤ n → n ≤ 8 → ∃ u : State, exec (.coldstart n fenced) s = .next u ∧
        (let t := ticks n u
        t.devClass = .failed ∧ t.devDetail = n ∧ t.failedStarts = s.failedStarts + 1 ∧ t.gangs = [])) ∧
      (s.devClass = .ready ∨ s.devClass = .failed ∨ s.devClass = .fatal → s.railsOff = false →
        ∃ u : State, exec (.warmstart 0 fenced) s = .next u ∧ (let t := ticks 4 u
          t.devClass = .ready ∧ t.devDetail = s.fwActive ∧ t.gangs = [] ∧ t.contexts = [] ∧ t.hbm = s.hbm ∧
          t.hbmPoison = s.hbmPoison ∧ t.ckGroups = s.ckGroups ∧ t.retired = s.flashRetired ∧
          t.remaps = s.flashRemaps.map Copies.of ∧ ∀ e, e ∈ t.poisonRecords ↔ e ∈ s.poisonRecords ∧ e.value.isSome = true)))) ∧
    (∀ image, s.serving = true →
      (let good : Bool := !image.isEmpty && Config.lmsHolds image && decide (s.fwLeaf < Config.fwLeafOf image) &&
        Config.fwSteppingOk image
      let f : FwSlot := { image := image, leaf := Config.fwLeafOf image }
      let s1 : State := if s.fwActive = 0 then { s with fwB := f } else { s with fwA := f }
      exec (.fwstage image) s = .next (if good then
        { s1 with fwLeaf := Config.fwLeafOf image }.answer 0 fun n => .status n 0
        else s.answer 0 fun n => .status n 1))) ∧
    (s.serving = true → (∀ e ∈ s.contexts, s.quiesced e.1 e.2 = true) →
      (let slot := 1 - s.fwActive
      let s1 : State := { s with fwActive := slot, devDetail := slot }
      let ks := s.contexts.flatMap fun e => e.2.capsules.map fun k => (e.1, k)
      exec .activate s = .next ((ks.foldl (fun (s : State) e => s.changeCapsule e.1 s.lowestLevel e.2) s1).answer 0
        fun n => .status n 0))) ∧
    (∀ nonce : List Byte, s.serving = true → nonce.length = 32 →
      (s.attestIndex < 2 ^ 20 → exec (.attest nonce) s = .next ({ s with attestIndex := s.attestIndex + 1 }.answer 0
        fun n => .data n (s.attestation nonce ++ Config.hssSign s.attestIndex (s.attestation nonce)))) ∧
      (2 ^ 20 ≤ s.attestIndex → exec (.attest nonce) s = .next (s.answer 0 fun n => .status n 4)))

/-- Power, heat and errors of the hardware (R181, R440, R446, R447, R451, R473, R475, R488, R489): a cap of 900 to
1800 watts is taken, the clock falls by 100 MHz down to 1 GHz while a reading is past its throttle value, one past its
trip value makes the device fatal and its rails go off, an uncorrectable error poisons its word or line, of a shadow
core in the store of its own; a vote that fails once counts and runs again, a lockstep mismatch of a compute core is
an error that the gang consumes (log entry 28 for when they strike). That a cap out of range answers 1 (log entry 47),
the order of the readings (log entry 56), and that a repeated vote takes the latency and 3 cycles (log entry 8), are
the model's choices. -/
def Obligations.PowerAndErrors : Prop :=
  ∀ (s : State),
    (∀ w, s.serving = true →
      (900 ≤ w → w ≤ 1800 → exec (.powercap w) s = .next ({ s with powerCap := w }.answer 0 fun n => .status n 0)) ∧
      (w < 900 ∨ 1800 < w → exec (.powercap w) s = .next (s.answer 0 fun n => .status n 1))) ∧
    (let r (n : Nat) : Int := (s.reading n).toInt
    let high : Prop := (∃ i, i < 192 ∧ 9500 ≤ r i) ∨ (∃ i, i < 8 ∧ 8800 ≤ r (192 + i)) ∨ (∃ i, i < 32 ∧ r (200 + i) < 5700) ∨
      10 * (s.powerCap : Int) < r 296
    let trip : Prop := (∃ i, i < 192 ∧ 10500 ≤ r i) ∨ (∃ i, i < 8 ∧ 9500 ≤ r (192 + i)) ∨
      (∃ i, i < 32 ∧ (r (200 + i) < 5400 ∨ 6600 < r (200 + i)))
    (∀ n v, s.sensed.find n = some v → s.reading n = v) ∧
    (1000 < s.clockMhz → high → ∃ t : State, exec .throttleStep s = .next t ∧ t.clockMhz = s.clockMhz - 100 ∧
      t.contexts = s.contexts ∧ ∃ r ∈ t.reports, r.src = 11 ∧ r.addr = s.clockMhz - 100) ∧
    (s.clockMhz ≤ 1000 ∨ ¬ high → exec .throttleStep s = .next s) ∧
    (s.railsOff = false → trip →
      ∃ t : State, exec .thermalTrip s = .next t ∧ t.devClass = .fatal ∧ t.railsOff = true ∧ t.gangs = []) ∧
    (s.railsOff = true ∨ ¬ trip → exec .thermalTrip s = .next s)) ∧
    (∀ x y a, x < 32 → y < 32 → a < Config.lsTop → s.leaderOf (.compute x y) = .compute x y →
      ∃ t : State, exec (.uncorrectableEccError (.store (.compute x y) a)) s = .next t ∧
        a / 8 * 8 ∈ (t.core (.compute x y)).poison ∧ (t.core (.compute x y)).store = (s.core (.compute x y)).store) ∧
    (∀ x y a, x < 32 → y < 32 → a < Config.lsTop → (let c := s.leaderOf (.compute x y)
      c ≠ .compute x y → ∀ u, (s.core c).twin = some u → ∃ t v, exec (.uncorrectableEccError (.store (.compute x y) a)) s = .next t ∧
        (t.core c).twin = some v ∧ a / 8 * 8 ∈ v.poison ∧ v.bytes = u.bytes ∧ (t.core c).poison = (s.core c).poison)) ∧
    (∀ pa, paOk pa = true → ∃ t : State, exec (.uncorrectableEccError (.hbm pa)) s = .next t ∧ pa / 64 ∈ t.hbmPoison ∧
      t.hbm = s.hbm ∧
      ((∃ u, s.eccSeen.find (pa / 65536) = some u ∧ s.picos - u ≤ 24 * 3600 * 10 ^ 12) → (s.retired.filter fun f => paStack (f * 65536) == paStack pa).length < 8192 → pa / 65536 ∈ t.retired)) ∧
    (∀ ctx gva stack c l p, s.ctx ctx = some c → c.walk gva = .leaf l p → pteKind p = 2 →
      (pteRmask p).testBit stack = true → stack ≠ paStack (pteAddr p) →
      ∃ t : State, exec (.uncorrectableEccError (.replica ctx gva stack)) s = .next t ∧
        t.devCounters.repldrop = min (s.devCounters.repldrop + 1) (2 ^ 64 - 1) ∧ t.hbm = s.hbm) ∧
    (∀ w i, s.mayIssue w = true → (s.wordAt w).any slotVote = true → s.fetch w = .ok i → (
      let counted : State := { s with devCounters := { s.devCounters with l1retry := sat64 s.devCounters.l1retry } }
      s.upset w .vote false 0 = counted.modTs w fun t => t.delay 0x0B (latency (s.ts w) (s.litLimbs w i) i + 3))) ∧
    (∀ x y t g, s.gangOf ⟨.compute x y, t⟩ = some g → g.issues = true → g.lock = true →
      (s.upset ⟨.compute x y, t⟩ .lockstep false 0).devCounters =
        { s.devCounters with lockmiss := sat64 s.devCounters.lockmiss } ∧
      ∃ h, (s.upset ⟨.compute x y, t⟩ .lockstep false 0).gangOf ⟨.compute x y, t⟩ = some h ∧ h.err = some .lockstep)

/-- An encoded instruction decodes to itself (R173 to R181, R192), for every operand that its encoding admits. -/
def Obligations.DecodeEncode : Prop :=
  ∀ (k : CoreKind) (i : Instr), WellFormed k i = true → i.fields.isSome = true → decode k (encode i) = .ok i

/-- Words that the spec writes out decode to the instructions that it gives them for (R194, R225, R236, R256, R292,
R300, R313, R324, R347, R348, R357, R374, R408, R410). A word that is all ones or whose opcode is zero is illegal with
reason 0x100, one whose opcode no entry has with reason 0x101, on every core and whatever its other bits (R192, R193).
-/
def Obligations.DecodeWords : Prop :=
  (decode .compute 0x010000000000000000000000 = .ok (.nop {}) ∧
  decode .compute 0x022418440000000000000000 = .ok (.iadd { pg := 2, dmA := true } 3 1 2 false) ∧
  decode .compute 0x080021920000300001000000 = .ok (.aadd {} 2 3 9 3 false 16) ∧
  decode .compute 0x250000000000000000900003 = .ok (.loopi {} { lines := 1, slot := 1 } 3) ∧
  decode .compute 0x5400010C7000000004028000 = .ok (.sendop {} .max .s32 (.imm 0) 2 6 7 0x40) ∧
  decode .compute 0x6000214C00A0000000000000 = .ok (.vadd {} .fp32 .rne false 4 5 6) ∧
  decode .compute 0x6200184400B0800000000000 = .ok (.vmul {} .fp16 .rne true 3 1 2) ∧
  decode .compute 0x8100120A0010000000000000 = .ok (.vquant {} .s8 .fp32 2 8 5) ∧
  decode .compute 0x900418440001000000000000 = .ok (.fadd { dmA := true } .rne true false 3 1 2) ∧
  decode .compute 0x920008020041000000000000 = .ok (.faccv {} .rne true false 1 0 1) ∧
  (let shape : GangShape := { nlog := 2, g := 0, ks := 3, scl := false, sp := false, col := false, fmt := .fp16 }
  decode .compute 0xA000008C700020000000018B = .ok (.mgang {} shape 0 2 6 7)) ∧
  decode .memory 0xB0002080100020000100000A = .ok (.gld {} .fp32 (.scalar .b32 4) 1 1 16) ∧
  decode .compute 0xB0002080100020000100000A = .error (.illegal 0x105) ∧
  decode .memory 0xB0001000000070000000001B = .ok (.gld {} .fp16 (.blk 2 1) 0 0 0) ∧
  decode .compute 0xC00083000000000000000000 = .ok (.cpypost {} 8 6 0) ∧
  decode .compute 0x3A0000000000000002A00000 = .ok (.trap {} 0x2A) ∧
  decode .compute 0x380028000000000000000022 = .ok (.crd {} 5 0x022) ∧
  decode .compute 0x390000800000000000000000 = .ok (.cwr {} 2 0) ∧
  decode .compute 0xC90000000000100000000000 = .ok (.tdone {} true)) ∧
  (∀ (k : CoreKind) (w : IWord), (let op := w.extractLsb' 88 8
    (op = 0 ∨ w = BitVec.allOnes 96 → decode k w = .error (.illegal 0x100)) ∧
    (op ≠ 0 → w ≠ BitVec.allOnes 96 → opClass op.toNat = none → decode k w = .error (.illegal 0x101))))

/-- A step issues the next instruction of the thread set in turn (R18, R19, R176, R193, R194, R360, R364; log entry 1
for the turn): where its line is there and decodes to i, and its operands, its unit and the port are free, the step is
i's effect on that thread set, then what issuing takes, on a native body perhaps the upper slot of its pair, the
counts of the cycle and the clock. A turn that the agenda gives to an event is that event, and likewise one it gives
to a core, to the clock, to an error of the hardware or to a sensor. Where a pair's lower slot has issued in direct
decode, the set keeps its turn for the upper one. -/
def Obligations.StepRunsDecoded : Prop :=
  ∀ (s : State),
    (∀ (c : CoreId) (w : Who) (kap : Capsule) (l : Line) (i : Instr) (t : State), s.agenda = [] → s.turn = c →
      (s.core c).cycled = false →
      (let s0 := ({ s with tick := s.tick + 1 }).beginCycle c
      let k := s0.core c
      let sc := s0.setCore c { k with schedRun := k.schedRun + s0.cost w }
      let s1 : State := { sc with who := w }
      let pos := (s1.ts w).pc.toNat
      let u := t.issued s1 w i 0
      k.voting c = false → (k.schedRun < 64 ∨ k.pairHold = true) → k.whoAt c k.sched = some w → s0.mayIssue w = true →
      (s0.ts w).bubbles = [] → (s1.ts w).traps = [] → s1.capsuleOf w = some kap → kap.lineAt pos = some l →
      ((s1.ts w).enter = true → entryStop kap pos = none) → s1.lineAbsent w = none →
      decode c.kind (lineSlot l (posSlot pos)) = .ok i → s1.heldBy t w i [] = none →
      exec i (s1.modTs w fun t => { t with enter := false, lineHeld := none }) = .next t → tookSlot u = true →
      (let hold := u.evt == 1 && !(sc.ts w).native && sc.atLower w && (u.ts w).pc.toNat == nextPos (sc.ts w).pc.toNat
      let v := (u.withUpper sc w).modCore c fun k => { k with pairHold := hold }
      step s = .next ((v.chargeAll s0 c [(k.sched, u.issueEvent s0 w)]).passCycle s0 c).tickClock))) ∧
    (∀ i r, s.agenda = .event i :: r → step s = exec i { s with tick := s.tick + 1, agenda := r }) ∧
    (∀ c r, s.agenda = .issue c :: r → step s = ({ s with tick := s.tick + 1, agenda := r }).issueCycle c) ∧
    (∀ r, s.agenda = .tick :: r → step s = .next { s with tick := s.tick + 1, agenda := r }.tickClock) ∧
    (∀ w src again addr r, s.agenda = .upset w src again addr :: r →
      step s = .next ({ s with tick := s.tick + 1, agenda := r }.upset w src again addr)) ∧
    (∀ ctx q addr r, s.agenda = .stray ctx q addr :: r →
      step s = .next ({ s with tick := s.tick + 1, agenda := r }.strayUpset ctx q addr)) ∧
    (∀ which i mask r, s.agenda = .corrupt which i mask :: r →
      step s = .next ({ s with tick := s.tick + 1, agenda := r }.corrupt which i mask)) ∧
    (∀ i v r, s.agenda = .sense i v :: r →
      step s = .next { s with tick := s.tick + 1, agenda := r, sensed := s.sensed.put i v })

/-- The machine never stops (R193, R338, R342, R448): every instruction and event, in every state, answers a next
state, and so does every step. An instruction whose guard does not hold has no effect but to retire (R176), AADDS
apart, whose use is counted, and CAPBUILD, which is privileged before its guard is looked at. -/
def Obligations.MachineGoesOn : Prop :=
  ((∀ (i : Instr) (s : State), ∃ t, exec i s = .next t) ∧ ∀ s : State, ∃ t, step s = .next t) ∧
  (∀ (i : Instr) (s : State) (f : Fields), i.fields = some f → s.me.guard f.hdr = false →
    (∀ h d a b k imm, i ≠ .aadds h d a b k imm) → (∀ h d a, i ≠ .capbuild h d a) → exec i s = s.done)

/-- What a retirement changes (R18, R166, R234, R236): the position of its thread set, the loop levels, the counts.
The frame of scalar and predicate instructions (R218, R223, R226): apart from its destination, its dead marks, SAT
where .sat says so, where it goes on and the levels of a loop that it is the last slot of, each leaves everything as
it was. The frame of vector instructions (R271, R277, R278): apart from its destination and its tag, dead marks, the
flags it raises and its position, each leaves everything as it was. The frame of stores and loads (R241, R242, R244)
in a store in canonical form: a store changes the bytes from the address it computes on, as many as it is wide, and no
other byte of any store or of global memory; a load changes no byte, and no register but its destination. -/
def Obligations.Frames : Prop :=
  (∀ (s : State), s.who.core.exists = true → s.passes →
    s.keepsRest (s.retire .seq) ∧ ∃ pc enter loops, (s.retire .seq).me = { s.me with
      run := .ready, pc := pc, enter := enter, loops := loops } ∧
      ((∀ l, s.me.loops.head? = some l → l.last ≠ s.me.pc) → loops = s.me.loops)) ∧
  (∀ (s : State) (h : Hdr) (d a b : SReg) (p q : PReg) (c : Cond) (sat : Bool) (x y : Word), s.on h →
    s.me.has2 d a b x y → s.who.core.exists = true → s.passes →
    (∀ i ∈ [Instr.iadd h d a b sat, .isub h d a b sat, .imul h d a b, .imulh h d a b, .imulhz h d a b, .idiv h d a b,
        .idivz h d a b, .irem h d a b, .iremz h d a b, .iand h d a b, .ior h d a b, .ixor h d a b, .iandn h d a b,
        .imin h d a b, .imax h d a b, .iminz h d a b, .imaxz h d a b, .isel h d a b p, .icmp h c d a b, .iclz h d a,
        .ipop h d a],
      ∃ t, exec i s = .next t ∧ s.keepsRest t ∧ s.me.keepsButS t.me ∧ (∀ r, r ≠ d → t.me.s[r] = s.me.s[r]) ∧
        (t.me.fstat = s.me.fstat ∨ sat = true ∧ t.me.fstat = s.me.fstat ||| fSAT)) ∧
    (∀ i ∈ [Instr.pset h p (.cmp c a b), .pand h p p q, .por h p p q, .pxor h p p q, .pnot h p q],
      ∃ t, exec i s = .next t ∧ s.keepsRest t ∧ (∀ r, r ≠ p → t.me.pred r = s.me.pred r) ∧
        (∀ r, r ≠ a → r ≠ b → t.me.sDead[r] = s.me.sDead[r]) ∧ t.me = { s.me with
          p := t.me.p, sDead := t.me.sDead, run := t.me.run, pc := t.me.pc, enter := t.me.enter, loops := t.me.loops } ∧
        ((∀ l, s.me.loops.head? = some l → l.last ≠ s.me.pc) → t.me.loops = s.me.loops))) ∧
  (∀ (s : State) (h : Hdr) (fmt : Fmt) (rm : RmCode) (sat : Bool) (d a b c : VReg) (m : SReg) (x y z : VWord) (n : Word),
    s.on h → s.me.hasV fmt d a b x y → s.me.readV c (some fmt) = .ok z → s.me.readS m = .ok n → s.who.core.exists = true →
    s.passes →
    ∀ i ∈ [Instr.vadd h fmt rm sat d a b, .vsub h fmt rm sat d a b, .vmul h fmt rm sat d a b, .vmin h fmt rm sat d a b,
        .vmax h fmt rm sat d a b, .vabs h fmt rm sat d a, .vneg h fmt rm sat d a, .vdiv h fmt rm sat d a b,
        .vsqrt h fmt rm sat d a, .vfma h fmt rm sat d a b c, .vfms h fmt rm sat d a b c, .vand h d a b, .vor h d a b,
        .vxor h d a b, .vsel h fmt d a b m],
      ∃ t, exec i s = .next t ∧ s.keepsRest t ∧ s.me.keepsButV t.me ∧
        (∀ r, r ≠ d → t.me.v[r] = s.me.v[r] ∧ t.me.vTag[r] = s.me.vTag[r]) ∧
        ∀ n, s.me.fstat.getLsbD n = true → t.me.fstat.getLsbD n = true) ∧
  (∀ (s : State) (h : Hdr) (a : SPair) (imm : Imm) (x : DWord), s.on h → s.me.readP a = .ok x →
    s.who.core.exists = true → s.passes → s.here.store.wf = true →
    (let p := ea x imm 0
    let stored (i : Instr) (bs : List Byte) : Prop := ∃ t, exec i s = .next t ∧ t.hbm = s.hbm ∧ t.me.s = s.me.s ∧
      t.me.v = s.me.v ∧ t.me.fstat = s.me.fstat ∧
      (∀ c : CoreId, c.exists = true → c ≠ s.who.core → t.core c = s.core c) ∧
      (∀ k, k < bs.length → some (t.here.store.read (p.toNat + k)) = bs[k]?) ∧
      (∀ y, y < p.toNat ∨ p.toNat + bs.length ≤ y → t.here.store.read y = s.here.store.read y)
    (∀ (w : StWidth) (b : SReg) (bs : List Byte), s.me.readSt w b = .ok bs → p % w.bytes = 0 →
      s.access s.who [(p, w.bytes)] = .ok () → stored (.st h w b a imm) bs) ∧
    (∀ (b : VReg) (v : VWord), s.me.readV b none = .ok v → p % 8 = 0 → s.access s.who [(p, 32)] = .ok () →
      stored (.stv h false b a imm) (bytesOf v)) ∧
    (∀ (w : LdWidth) (d : SReg) (bs : List Byte), s.me.freeLd w d = .ok () → p % w.bytes = 0 →
      s.access s.who [(p, w.bytes)] = .ok () → s.loadBytes s.who p.toNat w.bytes = .ok bs →
      ∃ t, exec (.ld h w d a imm) s = .next t ∧ s.keepsRest t ∧ s.me.keepsButS t.me ∧ t.me.fstat = s.me.fstat ∧
        ∀ r, r ≠ d → ¬ (w = .b64 ∧ r.val / 2 = d.val / 2) → t.me.s[r] = s.me.s[r])))

/-- After reset (R482, R483; log entry 2 for values the spec does not give): no core has a gang, no context exists,
memory lists nothing and is in canonical form, no request has been answered, the next turn is core 0's. -/
def Obligations.ResetState : Prop :=
  State.reset.MemWf ∧ State.reset.gangs = [] ∧ State.reset.contexts = [] ∧ State.reset.hbm = [] ∧
    (∀ c, (State.reset.core c).gang = none ∧ ∀ a, (State.reset.core c).store.read a = 0) ∧
    (∀ w, (State.reset.ts w).run = .idle ∧ (State.reset.ts w).s = Vector.replicate 32 0) ∧
    State.reset.answers = [] ∧ State.reset.turn = .compute 0 0 ∧ State.reset.starting = none

/-- Memory keeps its canonical form in every step (the model's own invariant: R5 and R44 give memory its bytes, log
entry 3 what an unlisted one reads as). -/
def Obligations.MemoryKept : Prop :=
  ∀ (s t : State), s.MemWf → step s = .next t → t.MemWf

end Statements
end

