-- ==== Sys2Proof/Laws/Encoding.lean ====
section
/-! SUPPORT. What the encoder writes the decoder reads: the fields of a word, registers, codes and bit fields. -/
set_option Elab.async false
namespace Sys2Proof.Laws

section Words

theorem extract_above {n m : Nat} (x : BitVec n) (y : BitVec m) (s k : Nat) (h : m ≤ s) :
    (x ++ y).extractLsb' s k = x.extractLsb' (s - m) k := by
  apply BitVec.eq_of_getLsbD_eq
  intro i hi
  simp only [BitVec.getLsbD_extractLsb', BitVec.getLsbD_append, hi, decide_true, Bool.true_and]
  rw [if_neg (by omega)]
  congr 1
  omega

theorem extract_low {n m : Nat} (x : BitVec n) (y : BitVec m) : (x ++ y).extractLsb' 0 m = y := by
  apply BitVec.eq_of_getLsbD_eq
  intro i hi
  simp [BitVec.getLsbD_append, hi]

theorem extract_whole {n : Nat} (x : BitVec n) : x.extractLsb' 0 n = x := by simp

/-- A word holds the fields it was made of. -/
theorem fields_ofWord_toWord (f : Fields) : Fields.ofWord f.toWord = f := by
  have h : ∀ s n, f.toWord.extractLsb' s n =
      (f.op ++ f.v ++ f.pg ++ f.pn ++ f.dm ++ f.d ++ f.a ++ f.b ++ f.c ++ f.fn ++ f.rm ++ f.ex ++ f.sat ++ f.lo
        ++ f.imm ++ f.x).extractLsb' s n := fun _ _ => rfl
  unfold Fields.ofWord
  simp only [h]
  simp (disch := omega) only [extract_above, extract_low, Nat.reduceSub, extract_whole]

end Words

section Decoding

/-- Decoding a word by its fields. -/
theorem decode_toWord (o : BitVec 8) (k : CoreKind) (f : Fields) (g : Form) (i : Instr) (ho : f.op = o) (h0 : o ≠ 0)
    (h1 : o ≠ 255) (hc : opClass o.toNat ≠ none) (hf : form k f f.hdr = some g) (hr : g.reason k f = none)
    (hp : g.priv = none ∨ k = .control) (hi : g.instr = some i) : decode k f.toWord = .ok i := by
  subst ho
  have ha : f.toWord ≠ BitVec.allOnes 96 := by
    intro e
    have := fields_ofWord_toWord f
    rw [e] at this
    exact h1 (this ▸ rfl)
  simp only [decode, fields_ofWord_toWord, h0, ha, or_self, if_false, hc, hf, hr, hi]
  obtain hp | rfl := hp
  · rw [hp]
  · cases g.priv <;> rfl

end Decoding

section Parts

theorem hdr_of (h : Hdr) (op d a b c fn rm ex sat lo imm x) :
    Fields.hdr ⟨op, BitVec.ofBool h.vote, BitVec.ofFin h.pg, BitVec.ofBool h.pn,
      BitVec.ofBool h.dmA ++ BitVec.ofBool h.dmB ++ BitVec.ofBool h.dmC, d, a, b, c, fn, rm, ex, sat, lo, imm, x⟩ = h := by
  obtain ⟨v, pg, pn, a, b, c⟩ := h
  simp only [Fields.hdr, Hdr.mk.injEq]
  refine ⟨by cases v <;> rfl, trivial, by cases pn <;> rfl, by cases a <;> cases b <;> cases c <;> rfl,
    by cases a <;> cases b <;> cases c <;> rfl, by cases a <;> cases b <;> cases c <;> rfl⟩

theorem encB_one (b : Bool) : (encB b == 1) = b := by cases b <;> rfl


theorem sreg_encS (r : Fin 32) : sreg (encS r) = r := rfl
theorem encS_toNat (r : Fin 32) : (encS r).toNat = r.val := rfl
theorem spair_encSP (p : SPair) : spair (encSP p) = p := by revert p; decide
theorem encSP_even (p : SPair) : (encSP p).toNat % 2 = 0 := by revert p; decide
theorem preg_encP (p : PReg) : preg (encP p) = p := by revert p; decide
theorem encP_lt (p : PReg) : (encP p).toNat < 8 := by revert p; decide
theorem mreg_encM (p : MReg) : mreg (encM p) = p := by revert p; decide
theorem encM_lt (p : MReg) : (encM p).toNat < 16 := by revert p; decide
theorem creg_encC (p : CReg) : creg (encC p) = p := by revert p; decide
theorem encC_lt (p : CReg) : (encC p).toNat < 8 := by revert p; decide
theorem ofCode_encRm (r : RmCode) : RmCode.ofCode (encRm r).toNat = r := by cases r <;> rfl
theorem encRm_ok (r : RmCode) : (encRm r == 6#3) = false := by cases r <;> rfl
theorem encRm_zero (r : RmCode) : (encRm r != 0#3) = (r != .rne) := by cases r <;> rfl

theorem fmt_ofCode (f : Fmt) : Fmt.ofCode f.code = f := by cases f <;> rfl
theorem fmt_code_lt (f : Fmt) : f.code < 16 := by cases f <;> decide
theorem fmt_code_toNat (f : Fmt) : (BitVec.ofNat 8 f.code).toNat = f.code := by cases f <;> rfl
theorem fmt_code_x (f : Fmt) : (BitVec.ofNat 20 f.code).toNat = f.code := by cases f <;> rfl

theorem target_encT (t : RelTarget) : relTarget (encT t) = t := by
  obtain ⟨l, s⟩ := t
  have hs : (l ++ BitVec.ofNat 3 s.val).toNat % 8 = s.val := by
    have := s.isLt
    simp only [BitVec.toNat_append, BitVec.toNat_ofNat, Nat.shiftLeft_eq]
    rw [← Nat.shiftLeft_eq, ← Nat.shiftLeft_add_eq_or_of_lt (by omega), Nat.shiftLeft_eq]
    omega
  simp only [relTarget, encT, RelTarget.mk.injEq]
  refine ⟨?_, ?_⟩
  · rw [extract_above _ _ _ _ (by omega)]
    simp
  · rw [hs]
    ext
    simp [Fin.ofNat, Nat.mod_eq_of_lt s.isLt]

theorem badSlot_encT (t : RelTarget) : badSlot (encT t) = false := by
  obtain ⟨l, s⟩ := t
  have hs : (l ++ BitVec.ofNat 3 s.val).toNat % 8 = s.val := by
    have := s.isLt
    simp only [BitVec.toNat_append, BitVec.toNat_ofNat, Nat.shiftLeft_eq]
    rw [← Nat.shiftLeft_eq, ← Nat.shiftLeft_add_eq_or_of_lt (by omega), Nat.shiftLeft_eq]
    omega
  have := s.isLt
  simp only [badSlot, encT, hs, decide_eq_false_iff_not]
  omega

end Parts

section Accepting

/-- A register field suits its use: zero where unused, in its class otherwise. -/
def fits (u : Use) (r : BitVec 5) : Bool := (u != .none || r == 0) && u.inClass r.toNat

/-- Nothing in the word but the header and the registers stands against the form. -/
def rest (g : Form) (f : Fields) : Bool :=
  (g.imm || f.imm == 0) && !g.bad && (f.rm == 0 || (g.rm && f.rm != 6))
    && (g.ex || f.ex == 0) && (g.sat || f.sat == 0) && g.lo.contains f.lo.toNat

theorem rest_mk {g : Form} {f : Fields} (hi : (g.imm || f.imm == 0) = true) (hb : g.bad = false)
    (hr : (f.rm == 0 || (g.rm && f.rm != 6)) = true) (hx : (g.ex || f.ex == 0) = true)
    (hs : (g.sat || f.sat == 0) = true) (hl : g.lo.contains f.lo.toNat = true) : rest g f = true := by
  simp only [rest, hi, hb, hr, hx, hs, hl, Bool.not_false, Bool.and_self]

theorem extraBits_none {f : Fields} {g : Form} (hd : fits g.d f.d = true) (ha : fits g.a f.a = true)
    (hb : fits g.b f.b = true) (hc : fits g.c f.c = true) (hx : (f.x &&& ~~~g.x == 0) = true) (hr : rest g f = true) : g.extraBits f = false := by
  simp only [fits, rest, Bool.and_eq_true, Bool.or_eq_true, bne_iff_ne, beq_iff_eq, ne_eq] at hd ha hb hc hr hx
  simp only [Form.extraBits, Bool.or_eq_false_iff, Bool.and_eq_false_iff, bne_eq_false_iff_eq, Bool.not_eq_false',
    beq_eq_false_iff_ne, ne_eq]
  exact ⟨⟨⟨⟨⟨hd.1, ha.1⟩, hb.1⟩, hc.1⟩, hr.1.1.1.1.1⟩, hx⟩

theorem badValue_none {f : Fields} {g : Form} (hr : rest g f = true) : g.badValue f = false := by
  simp only [rest, Bool.and_eq_true, Bool.or_eq_true, bne_iff_ne, beq_iff_eq, ne_eq, Bool.not_eq_true'] at hr
  obtain ⟨⟨⟨⟨⟨-, h1⟩, h2⟩, h3⟩, h4⟩, h5⟩ := hr
  simp only [Form.badValue, Bool.or_eq_false_iff, Bool.and_eq_false_iff, bne_eq_false_iff_eq, Bool.not_eq_false',
    beq_eq_false_iff_ne, ne_eq]
  refine ⟨⟨⟨⟨⟨h1, ?_⟩, ?_⟩, h3⟩, h4⟩, h5⟩
  · obtain h2 | h2 := h2
    · rw [h2]; decide
    · exact h2.2
  · obtain h2 | h2 := h2
    · exact .inr h2
    · exact .inl h2.1

theorem badGuard_none {f : Fields} {g : Form} {a b c d : Bool} (w : f.hdr.ok a b c d = true)
    (u : g.unguarded = false ∨ f.hdr.bare = true) : g.badGuard f = false := by
  have pg : (f.pg.toFin == 0) = (f.pg == 0) := by
    generalize f.pg = p; revert p; decide
  simp only [Hdr.ok, Hdr.bare, Fields.hdr, Form.badGuard, pg] at *
  generalize f.pg = p at *
  generalize f.pn = q at *
  generalize g.unguarded = v at *
  have hq : q = 0 ∨ q = 1 := by clear w u; revert q; decide
  obtain rfl | rfl := hq
  · cases v <;> simp_all
  · simp_all

theorem badMark_none {f : Fields} {g : Form} {v : Bool}
    (w : f.hdr.ok v g.a.markable g.b.markable g.c.markable = true) : g.badMark f = false := by
  simp only [Hdr.ok, Fields.hdr, Form.badMark] at *
  generalize f.dm.getLsbD 2 = x at *
  generalize f.dm.getLsbD 1 = y at *
  generalize f.dm.getLsbD 0 = z at *
  cases x <;> cases y <;> cases z <;> simp_all

theorem badIndex_none {f : Fields} {g : Form} (hd : fits g.d f.d = true) (ha : fits g.a f.a = true)
    (hb : fits g.b f.b = true) (hc : fits g.c f.c = true) : g.badIndex f = false := by
  simp only [fits, Bool.and_eq_true] at hd ha hb hc
  simp only [Form.badIndex, hd.2, ha.2, hb.2, hc.2, Bool.and_self, Bool.not_true]

theorem reason_none {k : CoreKind} {f : Fields} {g : Form}
    (w : f.hdr.ok g.vote g.a.markable g.b.markable g.c.markable = true) (u : g.unguarded = false ∨ f.hdr.bare = true)
    (hd : fits g.d f.d = true) (ha : fits g.a f.a = true) (hb : fits g.b f.b = true) (hc : fits g.c f.c = true)
    (hx : (f.x &&& ~~~g.x == 0) = true) (hr : rest g f = true) (hk : g.kinds.contains k = true) : g.reason k f = none := by
  have e6 : (f.v == 1 && !g.vote) = false := by
    simp only [Hdr.ok, Fields.hdr, Bool.and_eq_true] at w
    have := w.1.1.1.1
    cases h : g.vote <;> simp_all
  simp only [Form.reason, extraBits_none hd ha hb hc hx hr, badValue_none hr, badGuard_none w u, badMark_none w,
    badIndex_none hd ha hb hc, e6, hk, Bool.not_true, Bool.false_eq_true, if_false]

/-- A word whose form the decoder knows, and which nothing stands against, decodes to the form's instruction. -/
theorem accept {k : CoreKind} {f : Fields} {g : Form} {i : Instr} (o : BitVec 8) (h : Hdr) (hh : f.hdr = h)
    (ho : f.op = o) (h0 : o ≠ 0) (h1 : o ≠ 255) (hop : opClass o.toNat ≠ none) (hf : form k f h = some g)
    (w : h.ok g.vote g.a.markable g.b.markable g.c.markable = true) (u : g.unguarded = false ∨ h.bare = true)
    (hd : fits g.d f.d = true) (ha : fits g.a f.a = true) (hb : fits g.b f.b = true) (hc : fits g.c f.c = true)
    (hx : (f.x &&& ~~~g.x == 0) = true) (hr : rest g f = true) (hk : g.kinds.contains k = true) (hp : g.priv = none ∨ k = .control) (hi : g.instr = some i) :
    decode k f.toWord = .ok i := by
  subst hh
  exact decode_toWord o k f g i ho h0 h1 hop hf (reason_none w u hd ha hb hc hx hr hk) hp hi

theorem x_zero (m : BitVec 20) : ((0#20) &&& ~~~m == 0) = true := by simp

/-- A value below 2^n lies inside the low n bits. -/
theorem x_low {x : BitVec 20} {n : Nat} (h : x.toNat < 2 ^ n) :
    (x &&& ~~~(BitVec.ofNat 20 (2 ^ n - 1)) == 0) = true := by
  rw [beq_iff_eq]
  apply BitVec.eq_of_getLsbD_eq
  intro i hi
  simp only [BitVec.getLsbD_and, BitVec.getLsbD_not, hi, decide_true, Bool.true_and, BitVec.getLsbD_ofNat]
  by_cases hin : i < n
  · simp [Nat.testBit_two_pow_sub_one, hin]
  · have : x.toNat < 2 ^ i := lt_of_lt_of_le h (Nat.pow_le_pow_right (by omega) (by omega))
    have : x.getLsbD i = false := by
      simp [BitVec.getLsbD, Nat.testBit_lt_two_pow this]
    simp [this]

@[simp] theorem fits_none : fits .none 0 = true := rfl
@[simp] theorem fits_s (r : BitVec 5) : fits .s r = true := rfl
@[simp] theorem fits_v (r : BitVec 5) : fits .v r = true := rfl
@[simp] theorem fits_f (r : BitVec 5) : fits .f r = true := rfl
@[simp] theorem fits_par (r : BitVec 5) : fits .par r = true := rfl
@[simp] theorem fits_sOut (r : BitVec 5) : fits .sOut r = true := rfl
@[simp] theorem fits_sp (p : SPair) : fits .sp (encSP p) = true := by revert p; decide
@[simp] theorem fits_p (p : PReg) : fits .p (encP p) = true := by revert p; decide
@[simp] theorem fits_m (p : MReg) : fits .m (encM p) = true := by revert p; decide
@[simp] theorem fits_c (p : CReg) : fits .c (encC p) = true := by revert p; decide

end Accepting

section Shapes
variable {k : CoreKind} {h : Hdr}

theorem anyKind (k : CoreKind) : ([.compute, .memory, .control] : List CoreKind).contains k = true := by
  cases k <;> rfl

theorem fin_toNat {n : Nat} (hn : 32 ≤ 2 ^ n) (x : Fin 32) : (BitVec.ofNat n x.val).toNat = x.val := by
  simp only [BitVec.toNat_ofNat]
  exact Nat.mod_eq_of_lt (by omega)

theorem fin_val (x : Fin 32) : Fin.ofNat 32 (BitVec.ofNat 24 x.val).toNat = x := by
  rw [fin_toNat (by decide)]
  simp

theorem fin_ok (x : Fin 32) : decide (31 < (BitVec.ofNat 24 x.val).toNat) = false := by
  rw [fin_toNat (by decide)]
  simp
  omega

theorem rm_rest {b : Bool} {rm : RmCode} (w : (!b || rm == .rne) = true) :
    (encRm rm == 0 || (!b && encRm rm != 6)) = true := by
  revert w; cases b <;> cases rm <;> decide

theorem rm_any (rm : RmCode) : (encRm rm == 0 || (true && encRm rm != 6)) = true := by cases rm <;> rfl

theorem wide16 (x : BitVec 16) : (x.setWidth 24).extractLsb' 0 16 = x := by
  apply BitVec.eq_of_getLsbD_eq
  intro i hi
  simp [hi]
  omega

theorem wide16_ok (x : BitVec 16) : decide (0xFFFF < (x.setWidth 24).toNat) = false := by
  simp
  omega

theorem lo_range (n : Fin 8) : (List.range 8).contains ((BitVec.ofFin n : BitVec 3)).toNat = true := by
  revert n; decide

theorem x_all (x : BitVec 20) : (x &&& ~~~0xFFFFF#20 == 0) = true := x_low (n := 20) x.isLt

theorem x_fmt (f : Fmt) : (BitVec.ofNat 20 f.code &&& ~~~0xF#20 == 0) = true := by cases f <;> rfl
theorem xbits_fmt (f : Fmt) : xbits (BitVec.ofNat 20 f.code) 0 4 = f.code := by cases f <;> rfl

/-- A bit field of X. -/
theorem xbits_nat {n : Nat} (h : n < 2 ^ 20) (l w : Nat) : xbits (BitVec.ofNat 20 n) l w = n / 2 ^ l % 2 ^ w := by
  simp only [xbits, BitVec.toNat_ofNat, Nat.mod_eq_of_lt h]

theorem x_nat {n : Nat} (m : Nat) (h : n < 2 ^ m) (hm : m ≤ 20) :
    (BitVec.ofNat 20 n &&& ~~~(BitVec.ofNat 20 (2 ^ m - 1)) == 0) = true := by
  apply x_low
  have : 2 ^ m ≤ 2 ^ 20 := Nat.pow_le_pow_right (by omega) hm
  rw [BitVec.toNat_ofNat, Nat.mod_eq_of_lt (by omega)]
  exact h

theorem fits_even {r : SReg} (h : r.val % 2 = 0) : fits .sp (encS r) = true := by
  simp only [fits, Use.inClass, encS_toNat, h]
  rfl

theorem fits_lane {fmt : Fmt} {r : SReg} (h : laneReg fmt r = true) : fits (laneUse fmt) (encS r) = true := by
  revert h
  cases fmt <;> intro h <;> first | rfl | exact fits_even (by simpa [laneReg] using h)

theorem lane_markable (fmt : Fmt) : (laneUse fmt).markable = true := by cases fmt <;> rfl

theorem fits_group {n : Nat} {r : SReg} (h : (r.val % n == 0) = true) : fits (.vg n) (encS r) = true := by
  simp only [fits, Use.inClass, encS_toNat, h]
  rfl

theorem fits_elem {el : Elem} {r : SReg} (h : elemReg el (some r) = true) :
    fits (if el.bytes = 8 then .sp else .s) (encS r) = true := by
  revert h
  cases el <;> intro h <;> first | rfl | exact fits_even (by simpa [elemReg, Elem.bytes] using h)

theorem elem_markable (el : Elem) : (if el.bytes = 8 then Use.sp else .s).markable = true := by cases el <;> rfl

theorem vec_ok {op : Nat} {fmt : Fmt} (w : vecFmtOk op fmt = true) :
    ¬((BitVec.ofNat 8 fmt.code).toNat / 16 ≠ 0 ∨
      ¬vecFmtOk op (Fmt.ofCode (BitVec.ofNat 8 fmt.code).toNat) = true) := by
  rw [fmt_code_toNat, fmt_ofCode]
  have := fmt_code_lt fmt
  simp only [w, not_true_eq_false, or_false, ne_eq, not_not]
  omega

/-- The form of a vector opcode whose format is allowed (R270). -/
theorem vecForm {k : CoreKind} {h : Hdr} {f : Fields} {g : Form} {fmt : Fmt} {o : Nat} (hfn : f.fn = BitVec.ofNat 8 fmt.code)
    (hop : f.op.toNat = o) (w : vecFmtOk o fmt = true) (hk : form k f h = formVec f h)
    (hf : ¬(f.fn.toNat / 16 ≠ 0 ∨ ¬vecFmtOk f.op.toNat (Fmt.ofCode f.fn.toNat) = true) → formVec f h = some g) :
    form k f h = some g := by
  subst hop
  rw [hk]
  apply hf
  rw [hfn]
  exact vec_ok w

theorem quant_ok {fmt : Fmt} (w : quantFmtOk fmt = true) :
    ¬((BitVec.ofNat 8 fmt.code).toNat / 16 ≠ 0 ∨
      ¬quantFmtOk (Fmt.ofCode (BitVec.ofNat 8 fmt.code).toNat) = true) := by
  rw [fmt_code_toNat, fmt_ofCode]
  have := fmt_code_lt fmt
  simp only [w, not_true_eq_false, or_false, ne_eq, not_not]
  omega

theorem quantForm {k : CoreKind} {h : Hdr} {f : Fields} {g : Form} {fmt : Fmt} (hfn : f.fn = BitVec.ofNat 8 fmt.code)
    (w : quantFmtOk fmt = true) (hk : form k f h = formQuant f h)
    (hf : ¬(f.fn.toNat / 16 ≠ 0 ∨ ¬quantFmtOk (Fmt.ofCode f.fn.toNat) = true) → formQuant f h = some g) :
    form k f h = some g := by
  rw [hk]
  apply hf
  rw [hfn]
  exact quant_ok w

theorem rm_if {b : Bool} {rm : RmCode} (w : (!b || rm == .rne) = true) :
    (encRm rm == 0 || (!b && encRm rm != 6)) = true := rm_rest w

theorem rm_ne {fmt : Fmt} {rm : RmCode} (w : (fmt != .fp32 || rm == .rne) = true) :
    (encRm rm == 0 || (fmt != .fp32 && encRm rm != 6)) = true := by
  revert w; cases fmt <;> cases rm <;> decide

theorem sat_if {b sat : Bool} (w : (!b || !sat) = true) : (!b || !sat) = true := w

theorem x_sel (s : Fin 8) : (BitVec.ofNat 20 s.val &&& ~~~0x1F#20 == 0) = true := by revert s; decide
theorem sel_back (s : Fin 8) : Fin.ofNat 8 (xbits (BitVec.ofNat 20 s.val) 0 5) = s := by revert s; decide
theorem sel_ok {k : CoreKind} {s : Fin 8} (w : selOk k s.val = true) :
    (!selOk k (xbits (BitVec.ofNat 20 s.val) 0 5)) = false := by
  have : xbits (BitVec.ofNat 20 s.val) 0 5 = s.val := by clear w; revert s; decide
  rw [this, w]
  rfl

theorem wide_back (w : WideFmt) : WideFmt.ofCode (BitVec.ofNat 3 w.code).toNat = w := by cases w <;> rfl
theorem wide_lo (w : WideFmt) : ([0, 1, 2] : List Nat).contains (BitVec.ofNat 3 w.code).toNat = true := by
  cases w <;> rfl

theorem cmp_back (c : FCond) : FCond.ofCode (BitVec.ofNat 3 c.code).toNat = c := by cases c <;> rfl
theorem cmp_lo (c : FCond) : ([0, 1, 2, 3, 4, 5, 6, 7] : List Nat).contains (BitVec.ofNat 3 c.code).toNat = true := by
  cases c <;> rfl

theorem cmp_ok {fmt : Fmt} {c : FCond} (w : (!fmt.isInt || (c != .un && c != .or)) = true) :
    ((Fmt.ofCode (BitVec.ofNat 8 fmt.code).toNat).isInt && decide (6 ≤ (BitVec.ofNat 3 c.code).toNat)) = false := by
  rw [fmt_code_toNat, fmt_ofCode]
  revert w; cases fmt <;> cases c <;> decide

theorem lane_ok {fmt : Fmt} {n : Fin 32} (w : decide (n.val < fmt.lanes) = true) :
    decide ((Fmt.ofCode (BitVec.ofNat 8 fmt.code).toNat).lanes ≤ (BitVec.ofNat 24 n.val).toNat) = false := by
  rw [fmt_code_toNat, fmt_ofCode, fin_toNat (by decide)]
  simpa using w

theorem float_rm {op : Nat} {fmt : Fmt} (hop : op = 0x63 ∨ op = 0x64) (w : vecFmtOk op fmt = true) (rm : RmCode) :
    (!fmt.isInt || rm == .rne) = true := by
  obtain rfl | rfl := hop <;> revert w <;> cases fmt <;> first | (intro w; exact absurd w (by decide)) | (intro _; rfl)

theorem x_row (r : Fin 32) : (BitVec.ofNat 20 r.val &&& ~~~0x1F#20 == 0) = true := by revert r; decide
theorem row_back (r : Fin 32) : Fin.ofNat 32 (xbits (BitVec.ofNat 20 r.val) 0 5) = r := by revert r; decide

theorem ld_back (w : LdWidth) : LdWidth.ofCode (BitVec.ofNat 3 w.code).toNat = w := by cases w <;> rfl
theorem st_back (w : StWidth) : StWidth.ofCode (BitVec.ofNat 3 w.code).toNat = w := by cases w <;> rfl
theorem t6_is (t : Bool) : (Fmt.ofCode (xbits (if t then 14 else 0) 0 4) == .t6) = t := by cases t <;> rfl
theorem t6_ok (t : Bool) : (Fmt.ofCode (xbits (if t then 14 else 0) 0 4) != .ut &&
    Fmt.ofCode (xbits (if t then 14 else 0) 0 4) != .t6) = false := by cases t <;> rfl
theorem x_t6 (t : Bool) : ((if t then 14 else 0 : BitVec 20) &&& ~~~0xF#20 == 0) = true := by cases t <;> rfl
theorem bit_back (b : Bool) : (BitVec.ofNat 3 b.toNat == 1) = b := by cases b <;> rfl
theorem bit_lo (b : Bool) : ([0, 1] : List Nat).contains (BitVec.ofNat 3 b.toNat).toNat = true := by cases b <;> rfl
theorem zero_is (t : Bool) : (xbits (if t then 9 else 10) 0 4 == 0x9) = t := by cases t <;> rfl
theorem zero_ok (t : Bool) : (xbits (if t then 9 else 10) 0 4 != 0xA && xbits (if t then 9 else 10) 0 4 != 0x9) = false := by
  cases t <;> rfl
theorem x_zeroFmt (t : Bool) : ((if t then 9 else 10 : BitVec 20) &&& ~~~0xF#20 == 0) = true := by cases t <;> rfl

theorem lo_not_i : ((0 : BitVec 3) = 1) = False := by decide

theorem congr3 {α β γ δ : Type} (f : α → β → γ → δ) {a a' : α} {b b' : β} {c c' : γ} (ha : a = a') (hb : b = b')
    (hc : c = c') : f a b c = f a' b' c' := by rw [ha, hb, hc]

theorem int3 {d a b : SReg} {fn : Nat} {mk : Hdr → SReg → SReg → SReg → Instr} (w : h.ok true true true false = true)
    (hf : form k (encI3 h fn d a b) h = some (formInt3 (encI3 h fn d a b) h mk)) :
    decode k (encI3 h fn d a b).toWord = .ok (mk h d a b) :=
  accept 0x02#8 h (hdr_of h ..) rfl (by decide) (by decide) (by decide) hf w (.inl rfl) rfl rfl rfl rfl (x_zero _) rfl
    (anyKind k) (.inl rfl) rfl

theorem intSat {d a b : SReg} {sat : Bool} {fn : Nat} {mk : Hdr → SReg → SReg → SReg → Bool → Instr}
    (w : h.ok true true true false = true)
    (hf : form k (encI3 h fn d a b sat) h = some (formIntSat (encI3 h fn d a b sat) h mk)) :
    decode k (encI3 h fn d a b sat).toWord = .ok (mk h d a b sat) :=
  accept 0x02#8 h (hdr_of h ..) rfl (by decide) (by decide) (by decide) hf w (.inl rfl) rfl rfl rfl rfl (x_zero _) rfl
    (anyKind k) (.inl rfl) (by simp only [formIntSat, encI3, encB_one]; rfl)

theorem shift {d a : SReg} {n : ShiftAmt} {fn : Nat} {mk : Hdr → SReg → SReg → ShiftAmt → Instr}
    (w : h.ok true true n.isReg false = true)
    (hf : form k (encShift h fn d a n) h = some (formShift (encShift h fn d a n) h mk)) :
    decode k (encShift h fn d a n).toWord = .ok (mk h d a n) := by
  cases n with
  | reg b =>
    exact accept 0x02#8 h (hdr_of h ..) rfl (by decide) (by decide) (by decide) hf w (.inl rfl) rfl rfl rfl rfl
      (x_zero _) rfl (anyKind k) (.inl rfl) rfl
  | imm n =>
    refine accept 0x02#8 h (hdr_of h ..) rfl (by decide) (by decide) (by decide) hf w (.inl rfl) rfl rfl rfl rfl
      (x_zero _) ?_ (anyKind k) (.inl rfl) ?_
    · exact rest_mk rfl (fin_ok n) rfl rfl rfl rfl
    · simp only [formShift, encShift, if_true, fin_val]
      rfl

theorem vbit {o : BitVec 8} {d a b : VReg} {mk : Hdr → VReg → VReg → VReg → Instr} (f : Fields)
    (e : f = { h.fields o.toNat 0 with d := encS d, a := encS a, b := encS b })
    (h0 : o ≠ 0) (h1 : o ≠ 255) (hop : opClass o.toNat ≠ none)
    (w : h.ok true true true false = true) (hf : form k f h = some (formVBit f h mk)) :
    decode k f.toWord = .ok (mk h d a b) := by
  subst e
  exact accept o h (hdr_of h ..) (by simp [Hdr.fields]) h0 h1 hop hf w (.inl rfl) rfl rfl rfl rfl (x_zero _) rfl
    (anyKind k) (.inl rfl) rfl

theorem v1 (r z : Fmt → Bool) {o : BitVec 8} {op : Nat} {fmt : Fmt} {rm : RmCode} {sat : Bool} {d a : VReg} 
    {mk : Hdr → Fmt → RmCode → Bool → VReg → VReg → Instr} (w : h.ok true true false false = true)
    (hr : (encRm rm == 0 || (r fmt && encRm rm != 6)) = true) (hs : (z fmt || !sat) = true)
    (hv : vecFmtOk op fmt = true)
    (hk : form k (encV1 h op fmt rm sat d a) h = formVec (encV1 h op fmt rm sat d a) h)
    (hf : ¬((encV1 h op fmt rm sat d a).fn.toNat / 16 ≠ 0 ∨
        ¬vecFmtOk (encV1 h op fmt rm sat d a).op.toNat (Fmt.ofCode (encV1 h op fmt rm sat d a).fn.toNat) = true) →
      formVec (encV1 h op fmt rm sat d a) h = some (formV1 (encV1 h op fmt rm sat d a) h mk
        (r (Fmt.ofCode (BitVec.ofNat 8 fmt.code).toNat)) (z (Fmt.ofCode (BitVec.ofNat 8 fmt.code).toNat))))
    (ho : BitVec.ofNat 8 op = o) (hop' : (BitVec.ofNat 8 op).toNat = op) (h0 : o ≠ 0) (h1 : o ≠ 255) (hop : opClass o.toNat ≠ none) :
    decode k (encV1 h op fmt rm sat d a).toWord = .ok (mk h fmt rm sat d a) := by
  refine accept o h (hdr_of h ..) ho h0 h1 hop (vecForm (fmt := fmt) rfl hop' hv hk hf) w (.inl rfl) rfl rfl rfl rfl (x_zero _) ?_ (anyKind k) (.inl rfl) ?_
  · have : (z fmt || encB sat == 0) = true := by revert hs; cases z fmt <;> cases sat <;> decide
    simp only [rest, formV1, encV1, fmt_code_toNat, fmt_ofCode, hr, this]
    rfl
  · simp only [formV1, encV1, Hdr.fields, ofCode_encRm, fmt_code_toNat, fmt_ofCode, encB_one, sreg_encS]

theorem v2 (r z : Fmt → Bool) {o : BitVec 8} {op : Nat} {fmt : Fmt} {rm : RmCode} {sat : Bool} {d a b : VReg} 
    {mk : Hdr → Fmt → RmCode → Bool → VReg → VReg → VReg → Instr} (w : h.ok true true true false = true)
    (hr : (encRm rm == 0 || (r fmt && encRm rm != 6)) = true) (hs : (z fmt || !sat) = true)
    (hv : vecFmtOk op fmt = true)
    (hk : form k (encV2 h op fmt rm sat d a b) h = formVec (encV2 h op fmt rm sat d a b) h)
    (hf : ¬((encV2 h op fmt rm sat d a b).fn.toNat / 16 ≠ 0 ∨
        ¬vecFmtOk (encV2 h op fmt rm sat d a b).op.toNat (Fmt.ofCode (encV2 h op fmt rm sat d a b).fn.toNat) = true) →
      formVec (encV2 h op fmt rm sat d a b) h = some (formV2 (encV2 h op fmt rm sat d a b) h mk
        (r (Fmt.ofCode (BitVec.ofNat 8 fmt.code).toNat)) (z (Fmt.ofCode (BitVec.ofNat 8 fmt.code).toNat))))
    (ho : BitVec.ofNat 8 op = o) (hop' : (BitVec.ofNat 8 op).toNat = op) (h0 : o ≠ 0) (h1 : o ≠ 255) (hop : opClass o.toNat ≠ none) :
    decode k (encV2 h op fmt rm sat d a b).toWord = .ok (mk h fmt rm sat d a b) := by
  refine accept o h (hdr_of h ..) ho h0 h1 hop (vecForm (fmt := fmt) rfl hop' hv hk hf) w (.inl rfl) rfl rfl rfl rfl (x_zero _) ?_ (anyKind k) (.inl rfl) ?_
  · have : (z fmt || encB sat == 0) = true := by revert hs; cases z fmt <;> cases sat <;> decide
    simp only [rest, formV2, encV2, fmt_code_toNat, fmt_ofCode, hr, this]
    rfl
  · simp only [formV2, encV2, Hdr.fields, ofCode_encRm, fmt_code_toNat, fmt_ofCode, encB_one, sreg_encS]

theorem v3 (r : Fmt → Bool) {o : BitVec 8} {op : Nat} {fmt : Fmt} {rm : RmCode} {sat : Bool} {d a b c : VReg}
    {mk : Hdr → Fmt → RmCode → Bool → VReg → VReg → VReg → VReg → Instr} (w : h.ok true true true true = true)
    (hr : (encRm rm == 0 || (r fmt && encRm rm != 6)) = true)
    (hv : vecFmtOk op fmt = true)
    (hk : form k (encV3 h op fmt rm sat d a b c) h = formVec (encV3 h op fmt rm sat d a b c) h)
    (hf : ¬((encV3 h op fmt rm sat d a b c).fn.toNat / 16 ≠ 0 ∨
        ¬vecFmtOk (encV3 h op fmt rm sat d a b c).op.toNat (Fmt.ofCode (encV3 h op fmt rm sat d a b c).fn.toNat) = true) →
      formVec (encV3 h op fmt rm sat d a b c) h = some (formV3 (encV3 h op fmt rm sat d a b c) h mk
        (r (Fmt.ofCode (BitVec.ofNat 8 fmt.code).toNat)) true))
    (ho : BitVec.ofNat 8 op = o) (hop' : (BitVec.ofNat 8 op).toNat = op) (h0 : o ≠ 0) (h1 : o ≠ 255) (hop : opClass o.toNat ≠ none) :
    decode k (encV3 h op fmt rm sat d a b c).toWord = .ok (mk h fmt rm sat d a b c) := by
  refine accept o h (hdr_of h ..) ho h0 h1 hop (vecForm (fmt := fmt) rfl hop' hv hk hf) w (.inl rfl) rfl rfl rfl rfl (x_zero _) ?_ (anyKind k) (.inl rfl) ?_
  · simp only [rest, formV3, encV3, fmt_code_toNat, fmt_ofCode, hr]
    rfl
  · simp only [formV3, encV3, Hdr.fields, ofCode_encRm, fmt_code_toNat, fmt_ofCode, encB_one, sreg_encS]

theorem vshift {o : BitVec 8} {op : Nat} {fmt : Fmt} {d a : VReg} {n : VShiftAmt}
    {mk : Hdr → Fmt → VReg → VReg → VShiftAmt → Instr} (w : h.ok true true n.isReg false = true)
    (hf : form k (encVShift h op fmt d a n) h = some (formVShift (encVShift h op fmt d a n) h mk))
    (ho : BitVec.ofNat 8 op = o) (h0 : o ≠ 0) (h1 : o ≠ 255) (hop : opClass o.toNat ≠ none) :
    decode k (encVShift h op fmt d a n).toWord = .ok (mk h fmt d a n) := by
  cases n with
  | reg b =>
    refine accept o h (hdr_of h ..) ho h0 h1 hop hf w (.inl rfl) rfl rfl rfl rfl (x_zero _) rfl (anyKind k) (.inl rfl) ?_
    simp only [formVShift, encVShift, Hdr.fields, fmt_code_toNat, fmt_ofCode]
    rfl
  | imm n =>
    refine accept o h (hdr_of h ..) ho h0 h1 hop hf w (.inl rfl) rfl rfl rfl rfl (x_zero _) ?_ (anyKind k) (.inl rfl) ?_
    · exact rest_mk rfl (fin_ok n) rfl rfl rfl rfl
    · simp only [formVShift, encVShift, if_true, fin_val, Hdr.fields, fmt_code_toNat, fmt_ofCode]
      rfl

theorem f1 {rm : RmCode} {x sat : Bool} {fn : Nat} {d a : FReg} {mk : Hdr → RmCode → Bool → Bool → FReg → FReg → Instr}
    (w : (h.ok true true false false && k == .compute) = true)
    (hf : form .compute (encF h 0x90 fn rm x sat d a) h = some (formF1 (encF h 0x90 fn rm x sat d a) h mk)) :
    decode k (encF h 0x90 fn rm x sat d a).toWord = .ok (mk h rm x sat d a) := by
  simp only [Bool.and_eq_true, beq_iff_eq] at w
  obtain ⟨w, rfl⟩ := w
  refine accept 0x90#8 h (hdr_of h ..) rfl (by decide) (by decide) (by decide) hf w (.inl rfl) rfl rfl rfl rfl (x_zero _)
    ?_ rfl (.inl rfl) ?_
  · cases rm <;> rfl
  · simp only [formF1, encF, Hdr.fields, ofCode_encRm, encB_one, sreg_encS]

theorem f2 {rm : RmCode} {x sat : Bool} {fn : Nat} {d a b : FReg}
    {mk : Hdr → RmCode → Bool → Bool → FReg → FReg → FReg → Instr} (f : Fields)
    (e : f = { encF h 0x90 fn rm x sat d a with b := encS b })
    (w : (h.ok true true true false && k == .compute) = true)
    (hf : form .compute f h = some (formF2 f h mk)) :
    decode k f.toWord = .ok (mk h rm x sat d a b) := by
  simp only [Bool.and_eq_true, beq_iff_eq] at w
  obtain ⟨w, rfl⟩ := w
  subst e
  refine accept 0x90#8 h (hdr_of h ..) rfl (by decide) (by decide) (by decide) hf w (.inl rfl) rfl rfl rfl rfl (x_zero _)
    ?_ rfl (.inl rfl) ?_
  · cases rm <;> rfl
  · simp only [formF2, encF, Hdr.fields, ofCode_encRm, encB_one, sreg_encS]

end Shapes

section Others
variable {k : CoreKind} {h : Hdr}

theorem x_reg (r : BitVec 10) : (r.setWidth 20 &&& ~~~0x3FF#20 == 0) = true := by
  apply x_low (n := 10)
  simp
  omega

theorem xbits_reg (r : BitVec 10) : xbits (r.setWidth 20) 0 10 = r.toNat := by
  simp [xbits]
  omega

theorem reg_back (r : BitVec 10) : (r.setWidth 20).extractLsb' 0 10 = r := by
  apply BitVec.eq_of_getLsbD_eq
  intro i hi
  simp [hi]
  omega

theorem crd_back {d : SReg} {reg : BitVec 10} (ok : WellFormed k (.crd h d reg) = true) :
    decode k (encode (.crd h d reg)) = .ok (.crd h d reg) := by
  simp only [WellFormed, Bool.and_eq_true, regFor] at ok
  cases hc : regClass reg.toNat with
  | unassigned => rw [hc] at ok; exact absurd ok.1.2 Bool.false_ne_true
  | reg kinds =>
    rw [hc] at ok
    have hd : fits (if regWide reg.toNat then .sp else .s) (encS d) = true := by
      have := ok.2
      cases hw : regWide reg.toNat
      · rfl
      · rw [hw] at this
        exact fits_even (by simpa using this)
    refine accept (g := {
        d := if regWide reg.toNat then .sp else .s, x := 0x3FF, kinds := kinds
        instr := Instr.crd h d reg }) 0x38#8 h (hdr_of h ..) rfl (by decide) (by decide) (by decide) ?_ ok.1.1 (.inl rfl)
      hd rfl rfl rfl (x_reg reg) rfl ok.1.2 (.inl rfl) rfl
    show some (formReg _ h false) = _
    simp only [formReg, xbits_reg, reg_back, hc, Bool.false_eq_true, if_false, sreg_encS]

theorem cwr_back {a : SReg} {reg : BitVec 10} (ok : WellFormed k (.cwr h a reg) = true) :
    decode k (encode (.cwr h a reg)) = .ok (.cwr h a reg) := by
  simp only [WellFormed, Bool.and_eq_true, regFor, Option.isNone_iff_eq_none] at ok
  cases hc : regClass reg.toNat with
  | unassigned => rw [hc] at ok; exact absurd ok.1.2 Bool.false_ne_true
  | reg kinds =>
    rw [hc] at ok
    refine accept (g := {
        a := .s, x := 0x3FF, kinds := kinds
        instr := Instr.cwr h a reg }) 0x39#8 h (hdr_of h ..) rfl
      (by decide) (by decide) (by decide) ?_ ok.1.1 (.inl rfl) rfl rfl rfl rfl (x_reg reg) rfl ok.1.2 (.inl rfl) rfl
    show some (formReg _ h true) = _
    simp only [formReg, xbits_reg, reg_back, hc, if_true, sreg_encS, ok.2]

theorem counterZero_back {a : SReg} {t : Fin 4} (ok : WellFormed k (.counterZero h a t) = true) :
    decode k (encode (.counterZero h a t)) = .ok (.counterZero h a t) := by
  have hn : xbits (BitVec.ofNat 20 (0x100 + 0x40 * t.val)) 0 10 = 0x100 + 0x40 * t.val := by clear ok; revert t; decide
  have hx : (BitVec.ofNat 20 (0x100 + 0x40 * t.val) &&& ~~~0x3FF#20 == 0) = true := by clear ok hn; revert t; decide
  have ht : regControlWord (0x100 + 0x40 * t.val) = some t := by clear ok hn hx; revert t; decide
  simp only [WellFormed, Bool.and_eq_true, regFor] at ok
  cases hc : regClass (0x100 + 0x40 * t.val) with
  | unassigned => rw [hc] at ok; exact absurd ok.2 Bool.false_ne_true
  | reg kinds =>
    rw [hc] at ok
    refine accept (g := {
        a := .s, x := 0x3FF, kinds := kinds
        instr := Instr.counterZero h a t }) 0x39#8 h
      (hdr_of h ..) rfl (by decide) (by decide) (by decide) ?_ ok.1 (.inl rfl) rfl rfl rfl rfl ?_ rfl ok.2 (.inl rfl) rfl
    · show some (formReg _ h true) = _
      simp only [formReg, hn, ht, hc, if_true, sreg_encS]
    · exact hx

theorem rows_lt {n : Nat} (hn : n < 16) (r : TileRows) : n * 1024 + r.cnt.val * 32 + r.row.val < 2 ^ 14 := by
  have := r.cnt.isLt
  have := r.row.isLt
  omega

theorem x_rows {n : Nat} (hn : n < 16) (r : TileRows) : (encRows n r &&& ~~~0x3FFF#20 == 0) = true :=
  x_nat 14 (rows_lt hn r) (by decide)

theorem rows_fmt {n : Nat} (hn : n < 16) (r : TileRows) : xbits (encRows n r) 10 4 = n := by
  have := rows_lt hn r
  have := r.cnt.isLt
  have := r.row.isLt
  rw [encRows, xbits_nat (by omega)]
  omega

theorem rows_cnt {n : Nat} (hn : n < 16) (r : TileRows) : xbits (encRows n r) 5 5 = r.cnt.val := by
  have := rows_lt hn r
  have := r.cnt.isLt
  have := r.row.isLt
  rw [encRows, xbits_nat (by omega)]
  omega

theorem rows_row {n : Nat} (hn : n < 16) (r : TileRows) : xbits (encRows n r) 0 5 = r.row.val := by
  have := rows_lt hn r
  have := r.cnt.isLt
  have := r.row.isLt
  rw [encRows, xbits_nat (by omega)]
  omega

theorem rows_back {n : Nat} (hn : n < 16) (r : TileRows) : tileRows (encRows n r) = r := by
  simp [tileRows, rows_cnt hn, rows_row hn]

theorem rows_ok {r : TileRows} (w : r.ok = true) : decide (31 < r.row.val + r.cnt.val) = false := by
  simpa [TileRows.ok] using w

theorem ldt_back {fmt : Fmt} {d : MReg} {a : SPair} {b : SReg} {imm : Imm} {rows : TileRows}
    (ok : WellFormed k (.ldt h fmt d a b imm rows) = true) :
    decode k (encode (.ldt h fmt d a b imm rows)) = .ok (.ldt h fmt d a b imm rows) := by
  simp only [WellFormed, Bool.and_eq_true, beq_iff_eq] at ok
  obtain ⟨⟨⟨⟨ok, rfl⟩, h0⟩, h15⟩, hr⟩ := ok
  refine accept (g := {
        d := .m, a := .sp, b := .s, imm := true, x := 0x3FFF, kinds := [.compute]
        instr := Instr.ldt h fmt d a b imm rows }) 0x48#8 h (hdr_of h ..) rfl (by decide) (by decide) (by decide) ?_ ok
    (.inl rfl) (fits_m _) (fits_sp _) rfl rfl (x_rows (fmt_code_lt fmt) rows) rfl rfl (.inl rfl) rfl
  have hb : (fmt.code == 0 || fmt.code == 15) = false := by revert h0 h15; cases fmt <;> decide
  simp only [form, Hdr.fields, rows_fmt (fmt_code_lt fmt), rows_row (fmt_code_lt fmt), rows_cnt (fmt_code_lt fmt),
    rows_back (fmt_code_lt fmt), rows_ok hr, hb, fmt_ofCode, mreg_encM, spair_encSP, sreg_encS]
  rfl

theorem stt_back {t6 : Bool} {b : MReg} {a : SPair} {c : SReg} {imm : Imm} {rows : TileRows}
    (ok : WellFormed k (.stt h t6 b a c imm rows) = true) :
    decode k (encode (.stt h t6 b a c imm rows)) = .ok (.stt h t6 b a c imm rows) := by
  simp only [WellFormed, Bool.and_eq_true, beq_iff_eq] at ok
  obtain ⟨⟨ok, rfl⟩, hr⟩ := ok
  have hl : (if t6 then 14 else 0) < 16 := by cases t6 <;> decide
  refine accept (g := {
        b := .m, a := .sp, c := .s, imm := true, x := 0x3FFF, kinds := [.compute]
        instr := Instr.stt h t6 b a c imm rows }) 0x49#8 h (hdr_of h ..) rfl (by decide) (by decide) (by decide) ?_ ok
    (.inl rfl) rfl (fits_sp _) (fits_m _) rfl (x_rows hl rows) rfl rfl (.inl rfl) rfl
  simp only [form, Hdr.fields, rows_fmt hl, rows_row hl, rows_cnt hl, rows_back hl, rows_ok hr, mreg_encM, spair_encSP,
    sreg_encS]
  cases t6 <;> rfl

theorem bankCode (o : BankOp) : BankOp.ofCode o.code = o := by cases o <;> rfl
theorem elemCode (e : Elem) : Elem.ofCode e.code = e := by cases e <;> rfl
theorem bank_lt (o : BankOp) : o.code < 9 := by cases o <;> decide
theorem elem_lt (e : Elem) : e.code < 7 := by cases e <;> decide

theorem lamo_op (o : BankOp) (e : Elem) : xbits (BitVec.ofNat 20 (e.code * 16 + o.code)) 0 4 = o.code := by
  cases o <;> cases e <;> rfl
theorem lamo_el (o : BankOp) (e : Elem) : xbits (BitVec.ofNat 20 (e.code * 16 + o.code)) 4 3 = e.code := by
  cases o <;> cases e <;> rfl
theorem x_lamo (o : BankOp) (e : Elem) : (BitVec.ofNat 20 (e.code * 16 + o.code) &&& ~~~0x7F#20 == 0) = true := by
  cases o <;> cases e <;> rfl

theorem lamo_back {op : BankOp} {el : Elem} {d : Option SReg} {a : SPair} {b : SReg} {imm : Imm}
    (ok : WellFormed k (.lamo h op el d a b imm) = true) :
    decode k (encode (.lamo h op el d a b imm)) = .ok (.lamo h op el d a b imm) := by
  simp only [WellFormed, Bool.and_eq_true] at ok
  obtain ⟨⟨⟨ok, hp⟩, hd⟩, hb⟩ := ok
  have w : h.ok false true (if el.bytes = 8 then Use.sp else .s).markable false = true := by
    rw [elem_markable]; exact ok
  cases d with
  | none =>
    refine accept (g := {
        a := .sp, b := if el.bytes = 8 then .sp else .s, imm := true, x := 0x7F, lo := [0, 1]
        instr := Instr.lamo h op el none a b imm }) 0x4C#8 h (hdr_of h ..) rfl (by decide) (by decide) (by decide) ?_ w
      (.inl rfl) rfl (fits_sp _) (fits_elem hb) rfl (x_lamo op el) rfl (anyKind k) (.inl rfl) rfl
    show some (formLamo _ h) = _
    simp only [formLamo, lamo_op, lamo_el, bankCode, elemCode, hp, if_true, spair_encSP, sreg_encS, Bool.not_true]
  | some d =>
    refine accept (g := {
        d := if el.bytes = 8 then .sp else .s, a := .sp, b := if el.bytes = 8 then .sp else .s, imm := true, x := 0x7F
        lo := [0, 1], instr := Instr.lamo h op el (some d) a b imm }) 0x4C#8 h (hdr_of h ..) rfl (by decide)
      (by decide) (by decide) ?_ w (.inl rfl) (fits_elem hd) (fits_sp _) (fits_elem hb) rfl (x_lamo op el) rfl
      (anyKind k) (.inl rfl) rfl
    show some (formLamo _ h) = _
    simp only [formLamo, Hdr.fields, lo_not_i, if_false, lamo_op, lamo_el, bankCode, elemCode, hp, spair_encSP, sreg_encS,
      Bool.not_true]

theorem len_toNat {m : Nat} (hm : m < 128) (n : BitVec 13) :
    (BitVec.ofNat 20 (m * 8192) ||| n.setWidth 20).toNat = m * 8192 + n.toNat := by
  have hn := n.isLt
  rw [BitVec.toNat_or, BitVec.toNat_ofNat, BitVec.toNat_setWidth, Nat.mod_eq_of_lt (by omega), Nat.mod_eq_of_lt (by omega)]
  have e : m * 8192 = m <<< 13 := by rw [Nat.shiftLeft_eq]
  rw [e, ← Nat.shiftLeft_add_eq_or_of_lt (by omega)]

theorem len_back {m : Nat} (hm : m < 128) (n : BitVec 13) :
    (BitVec.ofNat 20 (m * 8192) ||| n.setWidth 20).extractLsb' 0 13 = n := by
  apply BitVec.eq_of_toNat_eq
  have := n.isLt
  rw [BitVec.extractLsb'_toNat, len_toNat hm, Nat.shiftRight_zero]
  omega

theorem len_bits {m : Nat} (hm : m < 128) (n : BitVec 13) (l w : Nat) :
    xbits (BitVec.ofNat 20 (m * 8192) ||| n.setWidth 20) (13 + l) w = m / 2 ^ l % 2 ^ w := by
  have := n.isLt
  rw [xbits, len_toNat hm, Nat.pow_add, ← Nat.div_div_eq_div_mul]
  have : (m * 8192 + n.toNat) / 2 ^ 13 = m := by omega
  rw [this]

theorem send_back {len : SendLen} {a : SPair} {b c : SReg} {imm : Imm}
    (ok : WellFormed k (.send h len a b c imm) = true) :
    decode k (encode (.send h len a b c imm)) = .ok (.send h len a b c imm) := by
  simp only [WellFormed, Bool.and_eq_true, beq_iff_eq] at ok
  obtain ⟨ok, rfl⟩ := ok
  cases len with
  | reg d =>
    refine accept (g := {
        d := .s, a := .sp, b := .s, c := .s, imm := true, lo := [0, 1], kinds := [.compute]
        instr := Instr.send h (.reg d) a b c imm }) 0x53#8 h (hdr_of h ..) rfl (by decide) (by decide) (by decide) ?_ ok
      (.inl rfl) rfl (fits_sp _) rfl rfl (x_zero _) rfl rfl (.inl rfl) rfl
    show some (formSend _ 0 false _) = _
    simp only [formSend, encSend, if_true, spair_encSP, sreg_encS]
  | imm n =>
    refine accept (g := {
        a := .sp, b := .s, c := .s, imm := true, x := 0x1FFF, lo := [0, 1], kinds := [.compute]
        instr := Instr.send h (.imm n) a b c imm }) 0x53#8 h (hdr_of h ..) rfl (by decide) (by decide) (by decide) ?_ ok
      (.inl rfl) rfl (fits_sp _) rfl rfl ?_ rfl rfl (.inl rfl) rfl
    · show some (formSend _ 0 false _) = _
      have := len_back (m := 0) (by decide) n
      simp only [Nat.zero_mul] at this
      simp only [formSend, encSend, Hdr.fields, lo_not_i, if_false, spair_encSP, sreg_encS]
      rw [show ((0 : BitVec 20) ||| n.setWidth 20).extractLsb' 0 13 = n from this]
      rfl
    · apply x_low (n := 13)
      have := len_toNat (m := 0) (by decide) n
      have h2 := n.isLt
      simp only [Nat.zero_mul, Nat.zero_add] at this
      exact this ▸ h2

theorem sendop_m (o : BankOp) (e : Elem) : e.code * 131072 + o.code * 8192 = (e.code * 16 + o.code) * 8192 := by
  omega
theorem sendop_lt (o : BankOp) (e : Elem) : e.code * 16 + o.code < 128 := by cases o <;> cases e <;> decide

theorem x_sendop (o : BankOp) (e : Elem) :
    (BitVec.ofNat 20 (e.code * 131072 + o.code * 8192) &&& ~~~0xFE000#20 == 0) = true := by
  cases o <;> cases e <;> rfl

theorem sendop_back {op : BankOp} {el : Elem} {len : SendLen} {a : SPair} {b c : SReg} {imm : Imm}
    (ok : WellFormed k (.sendop h op el len a b c imm) = true) :
    decode k (encode (.sendop h op el len a b c imm)) = .ok (.sendop h op el len a b c imm) := by
  simp only [WellFormed, Bool.and_eq_true, beq_iff_eq] at ok
  obtain ⟨⟨ok, rfl⟩, hp⟩ := ok
  have ho : (el.code * 16 + op.code) / 2 ^ 0 % 2 ^ 4 = op.code := by cases op <;> cases el <;> rfl
  have he : (el.code * 16 + op.code) / 2 ^ 4 % 2 ^ 3 = el.code := by cases op <;> cases el <;> rfl
  cases len with
  | reg d =>
    refine accept (g := {
        d := .s, a := .sp, b := .s, c := .s, imm := true, x := 0xFE000, lo := [0, 1], kinds := [.compute]
        instr := Instr.sendop h op el (.reg d) a b c imm }) 0x54#8 h (hdr_of h ..) rfl (by decide) (by decide) (by decide)
      ?_ ok (.inl rfl) rfl (fits_sp _) rfl rfl ?_ rfl rfl (.inl rfl) rfl
    · show some (formSend _ 0xFE000 _ _) = _
      have h1 : xbits (BitVec.ofNat 20 (el.code * 131072 + op.code * 8192)) 13 4 = op.code := by
        cases op <;> cases el <;> rfl
      have h2 : xbits (BitVec.ofNat 20 (el.code * 131072 + op.code * 8192)) 17 3 = el.code := by
        cases op <;> cases el <;> rfl
      simp only [formSend, encSend, if_true, h1, h2, hp, bankCode, elemCode, Bool.not_true, spair_encSP, sreg_encS]
    · exact x_sendop op el
  | imm n =>
    refine accept (g := {
        a := .sp, b := .s, c := .s, imm := true, x := 0xFFFFF, lo := [0, 1], kinds := [.compute]
        instr := Instr.sendop h op el (.imm n) a b c imm }) 0x54#8 h (hdr_of h ..) rfl (by decide) (by decide) (by decide)
      ?_ ok (.inl rfl) rfl (fits_sp _) rfl rfl (x_all _) rfl rfl (.inl rfl) rfl
    show some (formSend _ 0xFE000 _ _) = _
    have h1 := len_bits (sendop_lt op el) n 0 4
    have h2 := len_bits (sendop_lt op el) n 4 3
    rw [ho] at h1
    rw [he] at h2
    simp only [formSend, encSend, Hdr.fields, lo_not_i, if_false, sendop_m, h1, h2, hp, bankCode, elemCode, Bool.not_true,
      spair_encSP, sreg_encS, len_back (sendop_lt op el)]
    rfl

theorem shuf_lo {n : Nat} (hn : n < 6) : ([0, 1, 2, 3, 4, 5] : List Nat).contains (BitVec.ofNat 3 n).toNat = true := by
  have : n = 0 ∨ n = 1 ∨ n = 2 ∨ n = 3 ∨ n = 4 ∨ n = 5 := by omega
  obtain rfl | rfl | rfl | rfl | rfl | rfl := this <;> rfl

theorem vshuf_back {fmt : Fmt} {pat : ShufPat} {d a : VReg} (ok : WellFormed k (.vshuf h fmt pat d a) = true) :
    decode k (encode (.vshuf h fmt pat d a)) = .ok (.vshuf h fmt pat d a) := by
  simp only [WellFormed, Bool.and_eq_true] at ok
  obtain ⟨⟨ok, hv⟩, hp⟩ := ok
  cases pat
  case rev =>
    refine accept (g := {
        d := .v, a := .v, lo := [4], vote := true
        instr := Instr.vshuf h fmt .rev d a }) 0x78#8 h (hdr_of h ..) rfl (by decide) (by decide) (by decide)
      (vecForm (fmt := fmt) rfl rfl hv rfl fun n => (if_neg n).trans ?_) ok (.inl rfl) rfl rfl rfl rfl (x_zero _) rfl
      (anyKind k) (.inl rfl) rfl
    show some (formVshuf _ h) = _
    simp only [formVshuf, Hdr.fields, fmt_code_toNat, fmt_ofCode, sreg_encS]
    rfl
  case rot n =>
    refine accept (g := {
        d := .v, a := .v, imm := true, lo := [5], vote := true
        instr := Instr.vshuf h fmt (.rot n) d a }) 0x78#8 h (hdr_of h ..) rfl (by decide) (by decide) (by decide)
      (vecForm (fmt := fmt) rfl rfl hv rfl fun n => (if_neg n).trans ?_) ok (.inl rfl) rfl rfl rfl rfl (x_zero _) rfl
      (anyKind k) (.inl rfl) rfl
    show some (formVshuf _ h) = _
    have hl := lane_ok hp
    rw [fmt_code_toNat, fmt_ofCode] at hl
    simp only [formVshuf, Hdr.fields, fmt_code_toNat, fmt_ofCode, fin_val, sreg_encS, hl]
    rfl
  all_goals
    refine accept 0x78#8 h (hdr_of h ..) rfl (by decide) (by decide) (by decide)
      (vecForm (fmt := fmt) rfl rfl hv rfl fun n => if_neg n) (by exact ok) (.inl rfl) (by exact rfl) (by exact rfl)
      (by exact rfl) (by exact rfl) (by exact x_zero _) (by exact rfl) (anyKind k) (.inl rfl) ?_
    show (formVshuf _ h).instr = _
    simp only [formVshuf, Hdr.fields, fmt_code_toNat, fmt_ofCode, sreg_encS]
    rfl

theorem vcvt_back {dst src : Fmt} {rm : RmCode} {sat : Bool} {part : Fin 8} {d a : VReg}
    (ok : WellFormed k (.vcvt h dst src rm sat part d a) = true) :
    decode k (encode (.vcvt h dst src rm sat part d a)) = .ok (.vcvt h dst src rm sat part d a) := by
  simp only [WellFormed, Bool.and_eq_true] at ok
  obtain ⟨⟨⟨ok, hc⟩, hr⟩, hp⟩ := ok
  have h1 : (BitVec.ofNat 8 (dst.code * 16 + src.code)).toNat / 16 = dst.code := by cases dst <;> cases src <;> rfl
  have h2 : (BitVec.ofNat 8 (dst.code * 16 + src.code)).toNat % 16 = src.code := by cases dst <;> cases src <;> rfl
  refine accept (g := {
      d := .v, a := .v, rm := !cvtExact dst src, sat := true, vote := true
      lo := List.range (min 8 (cvtParts dst src)), instr := Instr.vcvt h dst src rm sat part d a }) 0x80#8 h
    (hdr_of h ..) rfl (by decide) (by decide) (by decide) ?_ ok (.inl rfl) rfl rfl rfl rfl (x_zero _)
    (rest_mk rfl rfl (rm_if hr) rfl rfl ?_) (anyKind k) (.inl rfl) rfl
  · show formCvt _ h = _
    simp only [formCvt, Hdr.fields, h1, h2, fmt_ofCode, hc, if_true, ofCode_encRm, encB_one, sreg_encS]
    have : Fin.ofNat 8 (BitVec.toNat (BitVec.ofFin part : BitVec 3)) = part := by clear hp; revert part; decide
    rw [this]
  · have e : (BitVec.ofFin part : BitVec 3).toNat = part.val := rfl
    have := part.isLt
    simp only [List.contains_iff_mem, List.mem_range, e]
    have := of_decide_eq_true hp
    omega

theorem vtagq_back {d : SReg} {src : TagSrc} (ok : WellFormed k (.vtagq h d src) = true) :
    decode k (encode (.vtagq h d src)) = .ok (.vtagq h d src) := by
  simp only [WellFormed, Bool.and_eq_true] at ok
  obtain ⟨ok, hk⟩ := ok
  cases src with
  | vec a =>
    exact accept 0x85#8 h (hdr_of h ..) rfl (by decide) (by decide) (by decide) rfl (by exact ok) (.inl rfl) rfl rfl rfl
      rfl (x_zero _) (by cases k <;> rfl) (anyKind k) (.inl rfl) rfl
  | tile a =>
    refine accept 0x85#8 h (hdr_of h ..) rfl (by decide) (by decide) (by decide) rfl (by exact ok) (.inl rfl) rfl
      (fits_m _) rfl rfl (x_all _) ?_ (anyKind k) (.inl rfl) (congrArg (fun z => some (Instr.vtagq h d (.tile z))) (mreg_encM a))
    revert hk; cases k <;> intro hk <;> first | rfl | exact absurd hk Bool.false_ne_true
  | acc a =>
    refine accept 0x85#8 h (hdr_of h ..) rfl (by decide) (by decide) (by decide) rfl (by exact ok) (.inl rfl) rfl
      (fits_c _) rfl rfl (x_all _) ?_ (anyKind k) (.inl rfl) (congrArg (fun z => some (Instr.vtagq h d (.acc z))) (creg_encC a))
    revert hk; cases k <;> intro hk <;> first | rfl | exact absurd hk Bool.false_ne_true

theorem prec_toNat (p : Fin 1024) : (BitVec.ofNat 24 p.val).toNat = p.val := by
  rw [BitVec.toNat_ofNat]
  exact Nat.mod_eq_of_lt (by have := p.isLt; omega)

theorem fprec_back {p : PrecSrc} (ok : WellFormed k (.fprec h p) = true) :
    decode k (encode (.fprec h p)) = .ok (.fprec h p) := by
  simp only [WellFormed, Bool.and_eq_true, beq_iff_eq] at ok
  obtain ⟨⟨ok, rfl⟩, hp⟩ := ok
  cases p with
  | reg a =>
    exact accept 0x93#8 h (hdr_of h ..) rfl (by decide) (by decide) (by decide) rfl (by exact ok) (.inl rfl) rfl rfl rfl
      rfl (x_zero _) rfl rfl (.inl rfl) rfl
  | imm p =>
    have hb : (decide (p.val < 8) || decide (512 < p.val)) = false := by
      simp only [PrecSrc.ok, Bool.and_eq_true, decide_eq_true_eq] at hp
      simp only [Bool.or_eq_false_iff, decide_eq_false_iff_not]
      omega
    refine accept (g := {
        imm := true, lo := [0, 1], kinds := [.compute]
        instr := Instr.fprec h (.imm p) }) 0x93#8 h (hdr_of h ..) rfl (by decide) (by decide) (by decide) ?_ ok (.inl rfl)
      rfl rfl rfl rfl (x_zero _) rfl rfl (.inl rfl) rfl
    have e : Fin.ofNat 1024 p.val = p := by simp
    simp only [form, formFState, Hdr.fields, prec_toNat, hb, e]
    rfl

theorem fldc_back {rm : RmCode} {x sat : Bool} {d : FReg} {src : LdcSrc}
    (ok : WellFormed k (.fldc h rm x sat d src) = true) :
    decode k (encode (.fldc h rm x sat d src)) = .ok (.fldc h rm x sat d src) := by
  simp only [WellFormed, Bool.and_eq_true, beq_iff_eq] at ok
  obtain ⟨⟨ok, rfl⟩, hs⟩ := ok
  cases src with
  | imm v =>
    refine accept (g := {
        d := .f, imm := true, rm := true, ex := true, sat := true, lo := [0, 1], kinds := [.compute]
        instr := Instr.fldc h rm x sat d (.imm v) }) 0x93#8 h (hdr_of h ..) rfl (by decide) (by decide) (by decide) ?_ ok
      (.inl rfl) rfl rfl rfl rfl (x_zero _) (rest_mk rfl rfl (rm_any rm) rfl rfl rfl) rfl (.inl rfl) rfl
    simp only [form, formFState, encF, Hdr.fields, if_true, ofCode_encRm, encB_one, sreg_encS]
    rfl
  | literal lines off =>
    have h1 : (lines ++ 0#3).toNat % 8 = 0 := by
      rw [BitVec.toNat_append, BitVec.toNat_ofNat, Nat.zero_mod, Nat.or_zero, Nat.shiftLeft_eq]
      omega
    have h2 : (lines ++ 0#3).extractLsb' 3 21 = lines := by
      rw [extract_above _ _ _ _ (by decide)]
      simp
    have h3 : (BitVec.ofNat 20 off.val).toNat = off.val := by
      rw [BitVec.toNat_ofNat]
      exact Nat.mod_eq_of_lt (by have := off.isLt; omega)
    have h4 : Fin.ofNat 60 (xbits (BitVec.ofNat 20 off.val) 0 6) = off := by clear hs h3; revert off; decide
    have h5 : off.val % 4 = 0 := by simpa [LdcSrc.ok] using hs
    have h6 : decide (60 ≤ off.val) = false := by
      have := off.isLt
      simp only [decide_eq_false_iff_not]
      omega
    refine accept (g := {
        d := .f, imm := true, x := 0xFFFFF, rm := true, ex := true, sat := true, lo := [0, 1], kinds := [.compute]
        instr := Instr.fldc h rm x sat d (.literal lines off) }) 0x93#8 h (hdr_of h ..) rfl (by decide) (by decide)
      (by decide) ?_ ok (.inl rfl) rfl rfl rfl rfl (x_all _) (rest_mk rfl rfl (rm_any rm) rfl rfl rfl) rfl (.inl rfl) rfl
    simp only [form, formFState, encF, Hdr.fields, lo_not_i, if_false, ofCode_encRm, encB_one, sreg_encS, h1, h2, h3, h4, h5, h6]
    rfl

theorem frel_back {d : FReg} {upto : Option FReg} (ok : WellFormed k (.frel h d upto) = true) :
    decode k (encode (.frel h d upto)) = .ok (.frel h d upto) := by
  simp only [WellFormed, Bool.and_eq_true, beq_iff_eq] at ok
  obtain ⟨⟨ok, rfl⟩, hu⟩ := ok
  cases upto with
  | none =>
    exact accept 0x93#8 h (hdr_of h ..) rfl (by decide) (by decide) (by decide) rfl (by exact ok) (.inl rfl) rfl rfl rfl
      rfl (x_zero _) rfl rfl (.inl rfl) rfl
  | some a =>
    have hb : decide ((encS a).toNat < (encS d).toNat) = false := by
      simpa [encS_toNat] using hu
    exact accept 0x93#8 h (hdr_of h ..) rfl (by decide) (by decide) (by decide) rfl (by exact ok) (.inl rfl) rfl rfl rfl
      rfl (x_zero _) (rest_mk rfl hb rfl rfl rfl rfl) rfl (.inl rfl) rfl

theorem bool_lt (b : Bool) : b.toNat < 2 := by cases b <;> decide

theorem getLsbD_nat {n : Nat} (hn : n < 2 ^ 20) (i : Nat) : (BitVec.ofNat 20 n).getLsbD i = decide (n / 2 ^ i % 2 = 1) := by
  rw [BitVec.getLsbD, BitVec.toNat_ofNat, Nat.mod_eq_of_lt hn, Nat.testBit_eq_decide_div_mod_eq]

theorem bool_decide (b : Bool) : decide (b.toNat = 1) = b := by cases b <;> rfl

theorem shape_lt (s : GangShape) : s.g.val * 2048 + s.ks.val * 128 + s.scl.toNat * 64 + s.sp.toNat * 32 +
    s.col.toNat * 16 + s.fmt.code < 2 ^ 14 := by
  have := s.g.isLt
  have := s.ks.isLt
  have := bool_lt s.scl
  have := bool_lt s.sp
  have := bool_lt s.col
  have := fmt_code_lt s.fmt
  omega

theorem shape_back (s : GangShape) : gangShape (BitVec.ofNat 3 s.nlog.val) (encShape s) = s := by
  have hl := shape_lt s
  have := s.g.isLt
  have := s.ks.isLt
  have := bool_lt s.scl
  have := bool_lt s.sp
  have := bool_lt s.col
  have := fmt_code_lt s.fmt
  have hg : xbits (encShape s) 11 3 = s.g.val := by rw [encShape, xbits_nat (by omega)]; omega
  have hk : xbits (encShape s) 7 4 = s.ks.val := by rw [encShape, xbits_nat (by omega)]; omega
  have hf : xbits (encShape s) 0 4 = s.fmt.code := by rw [encShape, xbits_nat (by omega)]; omega
  have h6 : (encShape s).getLsbD 6 = s.scl := by
    rw [encShape, getLsbD_nat (by omega), ← bool_decide s.scl]; congr 1; rw [bool_decide]; apply propext; omega
  have h5 : (encShape s).getLsbD 5 = s.sp := by
    rw [encShape, getLsbD_nat (by omega), ← bool_decide s.sp]; congr 1; rw [bool_decide]; apply propext; omega
  have h4 : (encShape s).getLsbD 4 = s.col := by
    rw [encShape, getLsbD_nat (by omega), ← bool_decide s.col]; congr 1; rw [bool_decide]; apply propext; omega
  have hn : Fin.ofNat 5 (BitVec.ofNat 3 s.nlog.val).toNat = s.nlog := by
    generalize s.nlog = n; revert n; decide
  have e1 : Fin.ofNat 8 s.g.val = s.g := by simp
  have e2 : Fin.ofNat 16 s.ks.val = s.ks := by simp
  simp only [gangShape, hg, hk, hf, h6, h5, h4, hn, fmt_ofCode, e1, e2]

theorem mgang_back {s : GangShape} {d : CReg} {a : MReg} {b c : SReg} (ok : WellFormed k (.mgang h s d a b c) = true) :
    decode k (encode (.mgang h s d a b c)) = .ok (.mgang h s d a b c) := by
  simp only [WellFormed, Bool.and_eq_true, beq_iff_eq] at ok
  obtain ⟨⟨⟨ok, rfl⟩, hb⟩, hs⟩ := ok
  have hl : ([0, 1, 2, 3, 4] : List Nat).contains (BitVec.ofNat 3 s.nlog.val).toNat = true := by
    generalize s.nlog = n; revert n; decide
  refine accept (g := {
      d := .c, a := .m, b := .s, c := .s, x := 0x3FFF, lo := [0, 1, 2, 3, 4], unguarded := true, kinds := [.compute]
      instr := Instr.mgang h s d a b c }) 0xA0#8 h (hdr_of h ..) rfl (by decide) (by decide) (by decide) ?_ ok
    (.inr hb) (fits_c _) (fits_m _) rfl rfl (x_nat 14 (shape_lt s) (by decide)) (rest_mk rfl rfl rfl rfl rfl hl) rfl
    (.inl rfl) rfl
  show some (formMat _ h) = _
  simp only [formMat, Hdr.fields, shape_back, hs, creg_encC, mreg_encM, sreg_encS]
  rfl

theorem drain_lt (s : DrainShape) : s.z.toNat * 4096 + s.cnt.val * 256 + s.row.val * 16 + s.dst.code < 2 ^ 13 := by
  have := s.cnt.isLt
  have := s.row.isLt
  have := bool_lt s.z
  have := fmt_code_lt s.dst
  omega

theorem drain_back (s : DrainShape) : drainShape (encDrain s) = s := by
  have hl := drain_lt s
  have := s.cnt.isLt
  have := s.row.isLt
  have := bool_lt s.z
  have := fmt_code_lt s.dst
  have h1 : xbits (encDrain s) 8 4 = s.cnt.val := by rw [encDrain, xbits_nat (by omega)]; omega
  have h2 : xbits (encDrain s) 4 4 = s.row.val := by rw [encDrain, xbits_nat (by omega)]; omega
  have h3 : xbits (encDrain s) 0 4 = s.dst.code := by rw [encDrain, xbits_nat (by omega)]; omega
  have h4 : (encDrain s).getLsbD 12 = s.z := by
    rw [encDrain, getLsbD_nat (by omega), ← bool_decide s.z]; congr 1; rw [bool_decide]; apply propext; omega
  have e1 : Fin.ofNat 16 s.cnt.val = s.cnt := by simp
  have e2 : Fin.ofNat 16 s.row.val = s.row := by simp
  simp only [drainShape, h1, h2, h3, h4, fmt_ofCode, e1, e2]

theorem mdrain_back {rm : RmCode} {sat : Bool} {s : DrainShape} {a : SPair} {b : SReg} {c : CReg} {imm : Imm}
    (ok : WellFormed k (.mdrain h rm sat s a b c imm) = true) :
    decode k (encode (.mdrain h rm sat s a b c imm)) = .ok (.mdrain h rm sat s a b c imm) := by
  simp only [WellFormed, Bool.and_eq_true, beq_iff_eq] at ok
  obtain ⟨⟨ok, rfl⟩, hs⟩ := ok
  refine accept (g := {
      a := .sp, b := .s, c := .c, imm := true, x := 0x1FFF, rm := true, sat := true, kinds := [.compute]
      instr := Instr.mdrain h rm sat s a b c imm }) 0xA3#8 h (hdr_of h ..) rfl (by decide) (by decide) (by decide) ?_ ok
    (.inl rfl) rfl (fits_sp _) rfl (fits_c _) (x_nat 13 (drain_lt s) (by decide))
    (rest_mk rfl rfl (rm_any rm) rfl rfl rfl) rfl (.inl rfl) rfl
  show some (formMat _ h) = _
  simp only [formMat, Hdr.fields, drain_back, hs, creg_encC, spair_encSP, sreg_encS, ofCode_encRm, encB_one]
  rfl

theorem col_back (w : ColWidth) : ColWidth.ofCode (BitVec.ofNat 3 w.code).toNat = w := by cases w <;> rfl
theorem col_lo (w : ColWidth) : ([0, 1, 2, 3, 4] : List Nat).contains (BitVec.ofNat 3 w.code).toNat = true := by
  cases w <;> rfl
theorem x_col (j : Fin 128) (q : Fin 8) : (BitVec.ofNat 20 (q.val * 128 + j.val) &&& ~~~0x3FF#20 == 0) = true :=
  x_nat 10 (by have := j.isLt; have := q.isLt; omega) (by decide)
theorem col_j (j : Fin 128) (q : Fin 8) : xbits (BitVec.ofNat 20 (q.val * 128 + j.val)) 0 7 = j.val := by
  have := j.isLt
  have := q.isLt
  rw [xbits_nat (by omega)]
  omega
theorem col_q (j : Fin 128) (q : Fin 8) : xbits (BitVec.ofNat 20 (q.val * 128 + j.val)) 7 3 = q.val := by
  have := j.isLt
  have := q.isLt
  rw [xbits_nat (by omega)]
  omega

theorem mcolrd_back {w : ColWidth} {d : VReg} {a : MReg} {j : Fin 128} {q : Fin 8}
    (ok : WellFormed k (.mcolrd h w d a j q) = true) :
    decode k (encode (.mcolrd h w d a j q)) = .ok (.mcolrd h w d a j q) := by
  simp only [WellFormed, Bool.and_eq_true, beq_iff_eq] at ok
  obtain ⟨⟨⟨ok, rfl⟩, hj⟩, hq⟩ := ok
  refine accept (g := {
      d := .v, a := .m, x := 0x3FF, lo := [0, 1, 2, 3, 4], kinds := [.compute]
      instr := Instr.mcolrd h w d a j q }) 0xA8#8 h (hdr_of h ..) rfl (by decide) (by decide) (by decide) ?_ ok (.inl rfl)
    rfl (fits_m _) rfl rfl (x_col j q) (rest_mk rfl rfl rfl rfl rfl (col_lo w)) rfl (.inl rfl) rfl
  show some (formMat _ h) = _
  have e1 : Fin.ofNat 128 j.val = j := by simp
  have e2 : Fin.ofNat 8 q.val = q := by simp
  simp only [formMat, Hdr.fields, col_back, col_j, col_q, hj, hq, e1, e2, mreg_encM, sreg_encS]
  rfl

theorem mcolwr_back {w : ColWidth} {d : MReg} {a : VReg} {j : Fin 128} {q : Fin 8}
    (ok : WellFormed k (.mcolwr h w d a j q) = true) :
    decode k (encode (.mcolwr h w d a j q)) = .ok (.mcolwr h w d a j q) := by
  simp only [WellFormed, Bool.and_eq_true, beq_iff_eq] at ok
  obtain ⟨⟨⟨ok, rfl⟩, hj⟩, hq⟩ := ok
  refine accept (g := {
      d := .m, a := .v, x := 0x3FF, lo := [0, 1, 2, 3, 4], kinds := [.compute]
      instr := Instr.mcolwr h w d a j q }) 0xA9#8 h (hdr_of h ..) rfl (by decide) (by decide) (by decide) ?_ ok (.inl rfl)
    (fits_m _) rfl rfl rfl (x_col j q) (rest_mk rfl rfl rfl rfl rfl (col_lo w)) rfl (.inl rfl) rfl
  show some (formMat _ h) = _
  have e1 : Fin.ofNat 128 j.val = j := by simp
  have e2 : Fin.ofNat 8 q.val = q := by simp
  simp only [formMat, Hdr.fields, col_back, col_j, col_q, hj, hq, e1, e2, mreg_encM, sreg_encS]
  rfl

theorem blk_lt (n : BitVec 13) (fmt : Fmt) : n.toNat * 16 + fmt.code < 2 ^ 17 := by
  have := n.isLt
  have := fmt_code_lt fmt
  omega
theorem blk_fmt (n : BitVec 13) (fmt : Fmt) : xbits (BitVec.ofNat 20 (n.toNat * 16 + fmt.code)) 0 4 = fmt.code := by
  have := blk_lt n fmt
  have := fmt_code_lt fmt
  rw [xbits_nat (by omega)]
  omega
theorem blk_len (n : BitVec 13) (fmt : Fmt) : (BitVec.ofNat 20 (n.toNat * 16 + fmt.code)).extractLsb' 4 13 = n := by
  have := blk_lt n fmt
  have := fmt_code_lt fmt
  apply BitVec.eq_of_toNat_eq
  rw [BitVec.extractLsb'_toNat, BitVec.toNat_ofNat, Nat.mod_eq_of_lt (by omega), Nat.shiftRight_eq_div_pow]
  omega

theorem not_ut {fmt : Fmt} (w : (fmt != .ut) = true) : (fmt == .ut) = false := by
  revert w; cases fmt <;> decide

/-- The register of a scalar of a width. -/
def ldUse : LdWidth → Use
  | .b64 => .sp
  | .b8 | .b16 | .b32 | .sb8 | .sb16 => .s

def stUse : StWidth → Use
  | .b64 => .sp
  | .b8 | .b16 | .b32 => .s

theorem gld_back {fmt : Fmt} {dst : GldDst} {a : SPair} {c : Fin 32} {imm : Imm}
    (ok : WellFormed k (.gld h fmt dst a c imm) = true) :
    decode k (encode (.gld h fmt dst a c imm)) = .ok (.gld h fmt dst a c imm) := by
  simp only [WellFormed, Bool.and_eq_true, beq_iff_eq] at ok
  obtain ⟨⟨⟨ok, rfl⟩, hf⟩, hd⟩ := ok
  have hu := not_ut hf
  cases dst with
  | vec d =>
    refine accept (g := {
        d := .v, a := .sp, c := .par, imm := true, x := 0xF, lo := [0, 1, 2, 3, 4, 5, 6, 7], kinds := [.memory]
        instr := Instr.gld h fmt (.vec d) a c imm }) 0xB0#8 h (hdr_of h ..) rfl (by decide) (by decide) (by decide) ?_ ok
      (.inl rfl) rfl (fits_sp _) rfl rfl (x_fmt fmt) rfl rfl (.inl rfl) rfl
    show some (formGld _ h) = _
    simp only [formGld, Hdr.fields, xbits_fmt, fmt_ofCode, hu, spair_encSP, sreg_encS]
    rfl
  | blk d n =>
    refine accept (g := {
        d := .s, a := .sp, c := .par, imm := true, x := 0x1FFFF, lo := [0, 1, 2, 3, 4, 5, 6, 7], kinds := [.memory]
        instr := Instr.gld h fmt (.blk d n) a c imm }) 0xB0#8 h (hdr_of h ..) rfl (by decide) (by decide) (by decide) ?_ ok
      (.inl rfl) rfl (fits_sp _) rfl rfl (x_nat 17 (blk_lt n fmt) (by decide)) rfl rfl (.inl rfl) rfl
    show some (formGld _ h) = _
    simp only [formGld, Hdr.fields, blk_fmt, blk_len, fmt_ofCode, hu, spair_encSP, sreg_encS]
    rfl
  | scalar w d =>
    have he : fits (ldUse w) (encS d) = true := by
      cases w <;> first | rfl | exact fits_even (by simpa [GldDst.ok] using hd)
    refine accept (g := {
        d := (ldUse w), a := .sp, c := .par, imm := true, x := 0xF
        lo := [0, 1, 2, 3, 4, 5, 6, 7], kinds := [.memory], instr := Instr.gld h fmt (.scalar w d) a c imm }) 0xB0#8 h
      (hdr_of h ..) rfl (by decide) (by decide) (by decide) ?_ ok (.inl rfl) he (fits_sp _) rfl rfl (x_fmt fmt)
      (rest_mk rfl rfl rfl rfl rfl (by cases w <;> rfl)) rfl (.inl rfl) rfl
    show some (formGld _ h) = _
    simp only [formGld, Hdr.fields, xbits_fmt, fmt_ofCode, hu, spair_encSP, sreg_encS]
    cases w <;> rfl

theorem gst_back {fmt : Fmt} {src : GstSrc} {a : SPair} {c : Fin 32} {imm : Imm}
    (ok : WellFormed k (.gst h fmt src a c imm) = true) :
    decode k (encode (.gst h fmt src a c imm)) = .ok (.gst h fmt src a c imm) := by
  simp only [WellFormed, Bool.and_eq_true, beq_iff_eq] at ok
  obtain ⟨⟨⟨ok, rfl⟩, hf⟩, hd⟩ := ok
  have hu := not_ut hf
  cases src with
  | vec b =>
    refine accept (g := {
        b := .v, a := .sp, c := .par, imm := true, x := 0xF, lo := [0, 1, 2, 3, 6, 7], kinds := [.memory]
        instr := Instr.gst h fmt (.vec b) a c imm }) 0xB1#8 h (hdr_of h ..) rfl (by decide) (by decide) (by decide) ?_ ok
      (.inl rfl) rfl (fits_sp _) rfl rfl (x_fmt fmt) rfl rfl (.inl rfl) rfl
    show some (formGst _ h) = _
    simp only [formGst, Hdr.fields, xbits_fmt, fmt_ofCode, hu, spair_encSP, sreg_encS]
    rfl
  | blk b n =>
    refine accept (g := {
        b := .s, a := .sp, c := .par, imm := true, x := 0x1FFFF, lo := [0, 1, 2, 3, 6, 7], kinds := [.memory]
        instr := Instr.gst h fmt (.blk b n) a c imm }) 0xB1#8 h (hdr_of h ..) rfl (by decide) (by decide) (by decide) ?_ ok
      (.inl rfl) rfl (fits_sp _) rfl rfl (x_nat 17 (blk_lt n fmt) (by decide)) rfl rfl (.inl rfl) rfl
    show some (formGst _ h) = _
    simp only [formGst, Hdr.fields, blk_fmt, blk_len, fmt_ofCode, hu, spair_encSP, sreg_encS]
    rfl
  | scalar w b =>
    have he : fits (stUse w) (encS b) = true := by
      cases w <;> first | rfl | exact fits_even (by simpa [GstSrc.ok] using hd)
    have hm : (stUse w).markable = true := by cases w <;> rfl
    refine accept (g := {
        b := (stUse w), a := .sp, c := .par, imm := true, x := 0xF
        lo := [0, 1, 2, 3, 6, 7], kinds := [.memory], instr := Instr.gst h fmt (.scalar w b) a c imm }) 0xB1#8 h
      (hdr_of h ..) rfl (by decide) (by decide) (by decide) ?_ (by rw [hm]; exact ok) (.inl rfl) rfl (fits_sp _) he rfl
      (x_fmt fmt) (rest_mk rfl rfl rfl rfl rfl (by cases w <;> rfl)) rfl (.inl rfl) rfl
    show some (formGst _ h) = _
    simp only [formGst, Hdr.fields, xbits_fmt, fmt_ofCode, hu, spair_encSP, sreg_encS]
    cases w <;> rfl

theorem atom_op (o : BankOp) (e : Elem) : xbits (BitVec.ofNat 20 (e.code * 256 + o.code * 16)) 4 4 = o.code := by
  cases o <;> cases e <;> rfl
theorem atom_el (o : BankOp) (e : Elem) : xbits (BitVec.ofNat 20 (e.code * 256 + o.code * 16)) 8 3 = e.code := by
  cases o <;> cases e <;> rfl
theorem x_atom (o : BankOp) (e : Elem) : (BitVec.ofNat 20 (e.code * 256 + o.code * 16) &&& ~~~0x7F0#20 == 0) = true := by
  cases o <;> cases e <;> rfl

/-- The registers of B of GATOM (R325). -/
def atomB (o : BankOp) (e : Elem) : Use :=
  if o.code = 8 then (if e.bytes = 8 then .cas 8 else .cas 4) else (if e.bytes = 8 then .sp else .s)

theorem atomB_markable (o : BankOp) (e : Elem) : (atomB o e).markable = true := by cases o <;> cases e <;> rfl

theorem fits_atomB {o : BankOp} {e : Elem} {d : Option SReg} {b : SReg} (h1 : elemReg e (some b) = true)
    (h2 : casOk o e d b = true) : fits (atomB o e) (encS b) = true := by
  by_cases ho : o = .cas
  · subst ho
    simp only [casOk, bne_self_eq_false, Bool.false_or, Bool.and_eq_true] at h2
    obtain ⟨-, h2⟩ := h2
    cases e
    case z32 | s32 | fp32 =>
      simp only [fits, atomB, BankOp.code, Elem.bytes, Use.inClass, encS_toNat, if_true] at *
      simp_all
    all_goals
      simp only [fits, atomB, BankOp.code, Elem.bytes, Use.inClass, encS_toNat, if_true, elemReg] at *
      simp_all
  · have : atomB o e = if e.bytes = 8 then .sp else .s := by
      cases o <;> first | rfl | exact absurd rfl ho
    rw [this]
    exact fits_elem h1

theorem gatom_back {op : BankOp} {el : Elem} {d : Option SReg} {a : SPair} {b : SReg} {c : Fin 32} {imm : Imm}
    (ok : WellFormed k (.gatom h op el d a b c imm) = true) :
    decode k (encode (.gatom h op el d a b c imm)) = .ok (.gatom h op el d a b c imm) := by
  simp only [WellFormed, Bool.and_eq_true, beq_iff_eq] at ok
  obtain ⟨⟨⟨⟨⟨ok, rfl⟩, hp⟩, hd⟩, hb⟩, hc⟩ := ok
  have w : h.ok false true (atomB op el).markable false = true := by rw [atomB_markable]; exact ok
  cases d with
  | none =>
    have h8 : (op.code == 8) = false := by
      cases op <;> first | rfl | (simp [casOk] at hc)
    refine accept (g := {
        a := .sp, b := atomB op el, c := .par, imm := true, x := 0x7F0, lo := [0, 1], kinds := [.memory]
        instr := Instr.gatom h op el none a b c imm }) 0xB2#8 h (hdr_of h ..) rfl (by decide) (by decide) (by decide) ?_ w
      (.inl rfl) rfl (fits_sp _) (fits_atomB hb hc) rfl (x_atom op el) rfl rfl (.inl rfl) rfl
    show some (formGatom _ h) = _
    simp only [formGatom, if_true, atom_op, atom_el, bankCode, elemCode, hp, h8, spair_encSP, sreg_encS, Bool.not_true]
    rfl
  | some d =>
    refine accept (g := {
        d := if el.bytes = 8 then .sp else .s, a := .sp, b := atomB op el, c := .par, imm := true, x := 0x7F0
        lo := [0, 1], kinds := [.memory], instr := Instr.gatom h op el (some d) a b c imm }) 0xB2#8 h (hdr_of h ..) rfl
      (by decide) (by decide) (by decide) ?_ w (.inl rfl) (fits_elem hd) (fits_sp _) (fits_atomB hb hc) rfl
      (x_atom op el) rfl rfl (.inl rfl) rfl
    show some (formGatom _ h) = _
    simp only [formGatom, Hdr.fields, lo_not_i, if_false, atom_op, atom_el, bankCode, elemCode, hp, spair_encSP, sreg_encS,
      Bool.not_true]
    rfl

theorem scope_wide (w : Bool) (sc : Scope) : (BitVec.ofNat 3 (w.toNat * 4 + sc.code)).getLsbD 2 = w := by
  cases w <;> cases sc <;> rfl
theorem scope_back (w : Bool) (sc : Scope) : Scope.ofCode ((BitVec.ofNat 3 (w.toNat * 4 + sc.code)).toNat % 4) = sc := by
  cases w <;> cases sc <;> rfl
theorem scope_lo (w : Bool) (sc : Scope) :
    ([0, 1, 2, 3, 4, 5, 6, 7] : List Nat).contains (BitVec.ofNat 3 (w.toNat * 4 + sc.code)).toNat = true := by
  cases w <;> cases sc <;> rfl

theorem fits_wide {w : Bool} {r : SReg} (h : (!w || r.val % 2 == 0) = true) :
    fits (if w then .sp else .s) (encS r) = true := by
  cases w
  · rfl
  · exact fits_even (by simpa using h)

theorem gacq_back {wide : Bool} {sc : Scope} {fmt : Fmt} {d : SReg} {a : SPair} {c : Fin 32} {imm : Imm}
    (ok : WellFormed k (.gacq h wide sc fmt d a c imm) = true) :
    decode k (encode (.gacq h wide sc fmt d a c imm)) = .ok (.gacq h wide sc fmt d a c imm) := by
  simp only [WellFormed, Bool.and_eq_true, beq_iff_eq] at ok
  obtain ⟨⟨⟨ok, rfl⟩, hf⟩, hd⟩ := ok
  refine accept (g := {
      d := if wide then .sp else .s, a := .sp, c := .par, imm := true, x := 0xF, lo := [0, 1, 2, 3, 4, 5, 6, 7]
      kinds := [.memory], instr := Instr.gacq h wide sc fmt d a c imm }) 0xB4#8 h (hdr_of h ..) rfl (by decide) (by decide)
    (by decide) ?_ ok (.inl rfl) (fits_wide (by simpa using hd)) (fits_sp _) rfl rfl (x_fmt fmt)
    (rest_mk rfl rfl rfl rfl rfl (scope_lo wide sc)) rfl (.inl rfl) rfl
  show some (formGacq _ h) = _
  simp only [formGacq, xbits_fmt, fmt_ofCode, not_ut hf, scope_wide, scope_back, spair_encSP, sreg_encS]

theorem grel_back {wide : Bool} {sc : Scope} {fmt : Fmt} {a : SPair} {b : SReg} {c : Fin 32} {imm : Imm}
    (ok : WellFormed k (.grel h wide sc fmt a b c imm) = true) :
    decode k (encode (.grel h wide sc fmt a b c imm)) = .ok (.grel h wide sc fmt a b c imm) := by
  simp only [WellFormed, Bool.and_eq_true, beq_iff_eq] at ok
  obtain ⟨⟨⟨ok, rfl⟩, hf⟩, hd⟩ := ok
  have hm : (if wide then Use.sp else .s).markable = true := by cases wide <;> rfl
  refine accept (g := {
      b := if wide then .sp else .s, a := .sp, c := .par, imm := true, x := 0xF, lo := [0, 1, 2, 3, 4, 5, 6, 7]
      kinds := [.memory], instr := Instr.grel h wide sc fmt a b c imm }) 0xB5#8 h (hdr_of h ..) rfl (by decide) (by decide)
    (by decide) ?_ (by rw [hm]; exact ok) (.inl rfl) rfl (fits_sp _) (fits_wide (by simpa using hd)) rfl (x_fmt fmt)
    (rest_mk rfl rfl rfl rfl rfl (scope_lo wide sc)) rfl (.inl rfl) rfl
  show some (formGrel _ h) = _
  simp only [formGrel, xbits_fmt, fmt_ofCode, not_ut hf, scope_wide, scope_back, spair_encSP, sreg_encS]

theorem x_push (n : BitVec 13) : (n.setWidth 20 &&& ~~~0x1FFF#20 == 0) = true := by
  apply x_low (n := 13)
  simp
  omega

theorem push_len (n : BitVec 13) : (n.setWidth 20).extractLsb' 0 13 = n := by
  apply BitVec.eq_of_getLsbD_eq
  intro i hi
  simp [hi]
  omega

theorem push_back {p : PushForm} {a : SPair} {imm : Imm} {n : BitVec 13} (ok : WellFormed k (.push h p a imm n) = true) :
    decode k (encode (.push h p a imm n)) = .ok (.push h p a imm n) := by
  simp only [WellFormed, Bool.and_eq_true, beq_iff_eq] at ok
  obtain ⟨ok, rfl⟩ := ok
  cases p with
  | direct b c =>
    exact accept 0xB6#8 h (hdr_of h ..) rfl (by decide) (by decide) (by decide) rfl (by exact ok) (.inl rfl) rfl
      (fits_sp _) rfl rfl (x_push n) rfl rfl (.inl rfl)
      (congrArg₂ (fun y z => some (Instr.push h (.direct b c) y imm z)) (spair_encSP a) (push_len n))
  | deal =>
    exact accept 0xB6#8 h (hdr_of h ..) rfl (by decide) (by decide) (by decide) rfl (by exact ok) (.inl rfl) rfl
      (fits_sp _) rfl rfl (x_push n) rfl rfl (.inl rfl)
      (congrArg₂ (fun y z => some (Instr.push h .deal y imm z)) (spair_encSP a) (push_len n))
  | mc b =>
    exact accept 0xB6#8 h (hdr_of h ..) rfl (by decide) (by decide) (by decide) rfl (by exact ok) (.inl rfl) rfl
      (fits_sp _) rfl rfl (x_push n) rfl rfl (.inl rfl)
      (congrArg₂ (fun y z => some (Instr.push h (.mc b) y imm z)) (spair_encSP a) (push_len n))

theorem gref_back {g : GrefField} {d : SReg} {c : Fin 32} (ok : WellFormed k (.gref h g d c) = true) :
    decode k (encode (.gref h g d c)) = .ok (.gref h g d c) := by
  simp only [WellFormed, Bool.and_eq_true, beq_iff_eq] at ok
  obtain ⟨ok, rfl⟩ := ok
  have h1 : (BitVec.ofNat 20 g.code &&& ~~~0x7#20 == 0) = true := by
    cases g with
    | ext n => revert n; decide
    | _ => rfl
  have h2 : GrefField.ofCode (xbits (BitVec.ofNat 20 g.code) 0 3) = g := by
    cases g with
    | ext n => revert n; decide
    | _ => rfl
  have h3 : (xbits (BitVec.ofNat 20 g.code) 0 3 == 7) = false := by
    cases g with
    | ext n => revert n; decide
    | _ => rfl
  exact accept 0xB8#8 h (hdr_of h ..) rfl (by decide) (by decide) (by decide) rfl (by exact ok) (.inl rfl) rfl rfl rfl rfl
    h1 (rest_mk rfl h3 rfl rfl rfl rfl) rfl (.inl rfl) (congrArg (fun z => some (Instr.gref h z d c)) h2)

end Others

end Sys2Proof.Laws
end

