-- ==== Sys2Proof/Laws/Mem.lean ====
section
/-! SUPPORT. Stores of bytes: a byte written reads back, others stay, and every write keeps the canonical form. -/
namespace Sys2Proof.Machine

section Reading

@[simp] theorem Mem.read_nil (k : Nat) : Mem.read [] k = 0 := rfl

theorem Mem.read_write_other (m : Mem) (k j : Nat) (v : Byte) (h : j ≠ k) : (m.write k v).read j = m.read j := by
  induction m with
  | nil => by_cases hv : v = Mem.unlisted <;> simp [Mem.write, Mem.read, hv, Ne.symm h] <;> rfl
  | cons e r ih =>
    simp only [Mem.write]
    split_ifs with h1 h2 h2 h3
    · rfl
    · simp [Mem.read, Ne.symm h]
    · simp [Mem.read, ← h2, Ne.symm h]
    · simp [Mem.read, ← h2, Ne.symm h]
    · simp [Mem.read, ih]

/-- Below the first entry of a canonical store nothing is listed. -/
theorem Mem.read_below (m : Mem) (lo k : Nat) (hw : Mem.wfFrom lo m = true) (h : k < lo) : m.read k = 0 := by
  induction m generalizing lo with
  | nil => rfl
  | cons e r ih =>
    simp only [Mem.wfFrom, Bool.and_eq_true, decide_eq_true_eq] at hw
    have hne : ¬ e.1 = k := by omega
    simp only [Mem.read, hne, if_false]
    exact ih (e.1 + 1) hw.2 (by omega)

theorem Mem.read_write_same (m : Mem) (lo k : Nat) (v : Byte) (hw : Mem.wfFrom lo m = true) :
    (m.write k v).read k = v := by
  induction m generalizing lo with
  | nil =>
    by_cases hv : v = Mem.unlisted
    · subst hv; rfl
    · simp [Mem.write, Mem.read, hv]
  | cons e r ih =>
    simp only [Mem.wfFrom, Bool.and_eq_true, decide_eq_true_eq] at hw
    simp only [Mem.write]
    split_ifs with h1 hv h2 hv
    · have hne : ¬ e.1 = k := by omega
      simp only [Mem.read, hne, if_false, hv, Mem.unlisted]
      exact Mem.read_below r _ k hw.2 (by omega)
    · simp [Mem.read]
    · simp only [hv, Mem.unlisted]
      exact Mem.read_below r _ k hw.2 (by omega)
    · simp [Mem.read]
    · have hne : ¬ e.1 = k := by omega
      simp only [Mem.read, hne, if_false]
      exact ih _ hw.2

end Reading

section Canonical

theorem Mem.wfFrom_mono (m : Mem) (a b : Nat) (h : a ≤ b) (hw : Mem.wfFrom b m = true) : Mem.wfFrom a m = true := by
  cases m with
  | nil => rfl
  | cons e r =>
    simp only [Mem.wfFrom, Bool.and_eq_true, decide_eq_true_eq] at *
    exact ⟨⟨by omega, hw.1.2⟩, hw.2⟩

theorem Mem.wfFrom_write (m : Mem) (lo k : Nat) (v : Byte) (hk : lo ≤ k) (hw : Mem.wfFrom lo m = true) :
    Mem.wfFrom lo (m.write k v) = true := by
  induction m generalizing lo with
  | nil => by_cases hv : v = Mem.unlisted <;> simp [Mem.write, Mem.wfFrom, hv, hk]
  | cons e r ih =>
    simp only [Mem.wfFrom, Bool.and_eq_true, decide_eq_true_eq] at hw
    simp only [Mem.write]
    split_ifs with h1 hv h2 hv
    · simp [Mem.wfFrom, hw]
    · have : k + 1 ≤ e.1 := h1
      simp [Mem.wfFrom, hw, hk, hv, this]
    · exact Mem.wfFrom_mono r _ _ (by omega) hw.2
    · subst h2
      simp [Mem.wfFrom, hw, hv]
    · simp only [Mem.wfFrom, Bool.and_eq_true, decide_eq_true_eq]
      exact ⟨hw.1, ih _ (by omega) hw.2⟩

/-- A byte written keeps the canonical form. -/
theorem Mem.wf_write (m : Mem) (k : Nat) (v : Byte) (hw : m.wf = true) : (m.write k v).wf = true :=
  m.wfFrom_write 0 k v (Nat.zero_le k) hw

/-- Bytes written keep the canonical form. -/
theorem Mem.wf_writeN (m : Mem) (a : Nat) (bs : List Byte) (hw : m.wf = true) : (m.writeN a bs).wf = true := by
  induction bs generalizing m a with
  | nil => exact hw
  | cons b r ih => exact ih _ _ (m.wf_write a b hw)

/-- A byte written reads back. -/
theorem Mem.read_write (m : Mem) (k j : Nat) (v : Byte) (hw : m.wf = true) :
    (m.write k v).read j = if j = k then v else m.read j := by
  split_ifs with h
  · subst h; exact m.read_write_same 0 _ v hw
  · exact m.read_write_other k j v h

/-- Writing bytes leaves every other byte. -/
theorem Mem.read_writeN_other (m : Mem) (a : Nat) (bs : List Byte) (j : Nat) (h : j < a ∨ a + bs.length ≤ j) :
    (m.writeN a bs).read j = m.read j := by
  induction bs generalizing m a with
  | nil => rfl
  | cons b r ih =>
    simp only [List.length_cons] at h
    rw [Mem.writeN, ih _ _ (by omega), Mem.read_write_other _ _ _ _ (by omega)]

theorem Core.putBytes_wf (k : Core) (a : Nat) (bs : List Byte) (h : k.store.wf = true) :
    (k.putBytes a bs).store.wf = true := k.store.wf_writeN a bs h

end Canonical

end Sys2Proof.Machine
end

