-- ==== Sys2Proof/Laws/PerInstr.lean ====
section
/-! SUPPORT. What is shown of each instruction on its own: the decoder reads back what the encoder wrote. -/
set_option linter.unusedSimpArgs false
set_option Elab.async false
namespace Sys2Proof.Laws.RoundTrip

/-- On a core whose kind the term fits, the word of an encoded instruction decodes to that instruction. -/
def Statement (i : Instr) : Prop :=
  ∀ k, WellFormed k i = true → i.fields.isSome = true → decode k (encode i) = .ok i

/-- An event row has no encoding. -/
theorem event {i : Instr} (e : i.fields.isSome = false) : Statement i :=
  fun _ _ h => absurd h (by rw [e]; exact Bool.false_ne_true)

theorem nop (h : Hdr) : Statement (.nop h) := fun kd ok _ =>
  accept 0x01#8 h (hdr_of h ..) rfl (by decide) (by decide) (by decide) rfl (by exact ok) (.inl rfl) rfl rfl rfl rfl
    (x_zero _) rfl (anyKind _) (.inl rfl) rfl
theorem iadd (h : Hdr) (d a b : SReg) (sat : Bool) : Statement (.iadd h d a b sat) := fun _ w _ =>
  intSat w rfl
theorem isub (h : Hdr) (d a b : SReg) (sat : Bool) : Statement (.isub h d a b sat) := fun _ w _ =>
  intSat w rfl
theorem imul (h : Hdr) (d a b : SReg) : Statement (.imul h d a b) := fun _ w _ =>
  int3 w rfl
theorem imulh (h : Hdr) (d a b : SReg) : Statement (.imulh h d a b) := fun _ w _ =>
  int3 w rfl
theorem imulhz (h : Hdr) (d a b : SReg) : Statement (.imulhz h d a b) := fun _ w _ =>
  int3 w rfl
theorem idiv (h : Hdr) (d a b : SReg) : Statement (.idiv h d a b) := fun _ w _ =>
  int3 w rfl
theorem idivz (h : Hdr) (d a b : SReg) : Statement (.idivz h d a b) := fun _ w _ =>
  int3 w rfl
theorem irem (h : Hdr) (d a b : SReg) : Statement (.irem h d a b) := fun _ w _ =>
  int3 w rfl
theorem iremz (h : Hdr) (d a b : SReg) : Statement (.iremz h d a b) := fun _ w _ =>
  int3 w rfl
theorem iand (h : Hdr) (d a b : SReg) : Statement (.iand h d a b) := fun _ w _ =>
  int3 w rfl
theorem ior (h : Hdr) (d a b : SReg) : Statement (.ior h d a b) := fun _ w _ =>
  int3 w rfl
theorem ixor (h : Hdr) (d a b : SReg) : Statement (.ixor h d a b) := fun _ w _ =>
  int3 w rfl
theorem iandn (h : Hdr) (d a b : SReg) : Statement (.iandn h d a b) := fun _ w _ =>
  int3 w rfl
theorem ishl (h : Hdr) (d a : SReg) (n : ShiftAmt) : Statement (.ishl h d a n) := by
  intro kd ok _
  cases n <;> exact shift ok rfl
theorem ishrl (h : Hdr) (d a : SReg) (n : ShiftAmt) : Statement (.ishrl h d a n) := by
  intro kd ok _
  cases n <;> exact shift ok rfl
theorem ishra (h : Hdr) (d a : SReg) (n : ShiftAmt) : Statement (.ishra h d a n) := by
  intro kd ok _
  cases n <;> exact shift ok rfl
theorem irotl (h : Hdr) (d a : SReg) (n : ShiftAmt) : Statement (.irotl h d a n) := by
  intro kd ok _
  cases n <;> exact shift ok rfl
theorem imin (h : Hdr) (d a b : SReg) : Statement (.imin h d a b) := fun _ w _ =>
  int3 w rfl
theorem imax (h : Hdr) (d a b : SReg) : Statement (.imax h d a b) := fun _ w _ =>
  int3 w rfl
theorem iminz (h : Hdr) (d a b : SReg) : Statement (.iminz h d a b) := fun _ w _ =>
  int3 w rfl
theorem imaxz (h : Hdr) (d a b : SReg) : Statement (.imaxz h d a b) := fun _ w _ =>
  int3 w rfl
theorem iclz (h : Hdr) (d a : SReg) : Statement (.iclz h d a) := fun kd ok _ =>
  accept 0x02#8 h (hdr_of h ..) rfl (by decide) (by decide) (by decide) rfl (by exact ok) (.inl rfl) rfl rfl rfl rfl
    (x_zero _) rfl (anyKind _) (.inl rfl) rfl
theorem ipop (h : Hdr) (d a : SReg) : Statement (.ipop h d a) := fun kd ok _ =>
  accept 0x02#8 h (hdr_of h ..) rfl (by decide) (by decide) (by decide) rfl (by exact ok) (.inl rfl) rfl rfl rfl rfl
    (x_zero _) rfl (anyKind _) (.inl rfl) rfl
theorem isel (h : Hdr) (d a b : SReg) (pc : PReg) : Statement (.isel h d a b pc) := fun kd ok _ =>
  accept 0x02#8 h (hdr_of h ..) rfl (by decide) (by decide) (by decide) rfl (by exact ok) (.inl rfl) rfl rfl rfl
    (fits_p _) (x_zero _) rfl (anyKind _) (.inl rfl)
    (by simp only [Hdr.fields, sreg_encS, spair_encSP, preg_encP, mreg_encM, creg_encC, encB_one, ofCode_encRm, fmt_ofCode, fmt_code_toNat, target_encT])
theorem iaddi (h : Hdr) (f : AddiForm) (imm : Imm) : Statement (.iaddi h f imm) := by
  intro kd ok _
  cases f with
  | w32 d a sat =>
    exact accept 0x03#8 h (hdr_of h ..) rfl (by decide) (by decide) (by decide) rfl (by exact ok) (.inl rfl) rfl rfl
      rfl rfl (x_zero _) rfl (anyKind _) (.inl rfl) (by cases sat <;> rfl)
  | w64 d a =>
    exact accept 0x03#8 h (hdr_of h ..) rfl (by decide) (by decide) (by decide) rfl (by exact ok) (.inl rfl)
      (fits_sp _) (fits_sp _) rfl rfl (x_zero _) rfl (anyKind _) (.inl rfl)
      (by simp only [formAddi, if_true, Hdr.fields, sreg_encS, spair_encSP, preg_encP, mreg_encM, creg_encC, encB_one, ofCode_encRm, fmt_ofCode, fmt_code_toNat, target_encT])
theorem imovi (h : Hdr) (d : SReg) (imm : Imm) : Statement (.imovi h d imm) := fun kd ok _ =>
  accept 0x05#8 h (hdr_of h ..) rfl (by decide) (by decide) (by decide) rfl (by exact ok) (.inl rfl) rfl rfl rfl rfl
    (x_zero _) rfl (anyKind _) (.inl rfl) rfl
theorem imovhi (h : Hdr) (d : SReg) (imm : BitVec 16) : Statement (.imovhi h d imm) := fun kd ok _ =>
  accept 0x06#8 h (hdr_of h ..) rfl (by decide) (by decide) (by decide) rfl (by exact ok) (.inl rfl) rfl rfl rfl rfl
    (x_zero _) (rest_mk rfl (wide16_ok imm) rfl rfl rfl rfl) (anyKind _) (.inl rfl)
    (by simp only [Hdr.fields, sreg_encS, spair_encSP, preg_encP, mreg_encM, creg_encC, encB_one, ofCode_encRm, fmt_ofCode, fmt_code_toNat, target_encT, wide16])
theorem icmp (h : Hdr) (c : Cond) (d a b : SReg) : Statement (.icmp h c d a b) := by
  intro kd ok _
  cases c <;> exact accept 0x04#8 h (hdr_of h ..) rfl (by decide) (by decide) (by decide) rfl (by exact ok)
    (.inl rfl) rfl rfl rfl rfl (x_zero _) rfl (anyKind _) (.inl rfl) rfl
theorem padd (h : Hdr) (d a b : SPair) : Statement (.padd h d a b) := fun kd ok _ =>
  accept 0x07#8 h (hdr_of h ..) rfl (by decide) (by decide) (by decide) rfl (by exact ok) (.inl rfl) (fits_sp _)
    (fits_sp _) (fits_sp _) rfl (x_zero _) rfl (anyKind _) (.inl rfl)
    (by simp only [Hdr.fields, sreg_encS, spair_encSP, preg_encP, mreg_encM, creg_encC, encB_one, ofCode_encRm, fmt_ofCode, fmt_code_toNat, target_encT])
theorem psub (h : Hdr) (d a b : SPair) : Statement (.psub h d a b) := fun kd ok _ =>
  accept 0x07#8 h (hdr_of h ..) rfl (by decide) (by decide) (by decide) rfl (by exact ok) (.inl rfl) (fits_sp _)
    (fits_sp _) (fits_sp _) rfl (x_zero _) rfl (anyKind _) (.inl rfl)
    (by simp only [Hdr.fields, sreg_encS, spair_encSP, preg_encP, mreg_encM, creg_encC, encB_one, ofCode_encRm, fmt_ofCode, fmt_code_toNat, target_encT])
theorem aadd (h : Hdr) (d a : SPair) (b : SReg) (k : Fin 8) (sat : Bool) (imm : Imm) : Statement
  (.aadd h d a b k sat imm) := fun kd ok _ =>
  accept 0x08#8 h (hdr_of h ..) rfl (by decide) (by decide) (by decide) rfl (by exact ok) (.inl rfl) (fits_sp _)
    (fits_sp _) rfl rfl (x_zero _) (rest_mk rfl rfl rfl rfl rfl (lo_range k)) (anyKind _) (.inl rfl)
    (by simp only [Hdr.fields, sreg_encS, spair_encSP, preg_encP, mreg_encM, creg_encC, encB_one, ofCode_encRm, fmt_ofCode, fmt_code_toNat, target_encT])
theorem aadds (h : Hdr) (d a : SPair) (b : SReg) (k : Fin 8) (imm : Imm) : Statement (.aadds h d a b k imm) := fun
  kd ok _ =>
  accept 0x08#8 h (hdr_of h ..) rfl (by decide) (by decide) (by decide) rfl (by exact ok) (.inl rfl) (fits_sp _)
    (fits_sp _) rfl rfl (x_zero _) (rest_mk rfl rfl rfl rfl rfl (lo_range k)) (anyKind _) (.inl rfl)
    (by simp only [Hdr.fields, sreg_encS, spair_encSP, preg_encP, mreg_encM, creg_encC, encB_one, ofCode_encRm, fmt_ofCode, fmt_code_toNat, target_encT])
theorem pset (h : Hdr) (d : PReg) (src : PsetSrc) : Statement (.pset h d src) := by
  intro kd ok _
  cases src with
  | cmp c a b =>
    cases c <;> exact accept 0x30#8 h (hdr_of h ..) rfl (by decide) (by decide) (by decide) rfl (by exact ok)
      (.inl rfl) (fits_p _) rfl rfl rfl (x_zero _) rfl (anyKind _) (.inl rfl)
      (by simp only [Hdr.fields, sreg_encS, spair_encSP, preg_encP, mreg_encM, creg_encC, encB_one, ofCode_encRm, fmt_ofCode, fmt_code_toNat, target_encT]; rfl)
  | eqi a imm =>
    exact accept 0x30#8 h (hdr_of h ..) rfl (by decide) (by decide) (by decide) rfl (by exact ok) (.inl rfl)
      (fits_p _) rfl rfl rfl (x_zero _) rfl (anyKind _) (.inl rfl)
      (by simp only [Hdr.fields, sreg_encS, spair_encSP, preg_encP, mreg_encM, creg_encC, encB_one, ofCode_encRm, fmt_ofCode, fmt_code_toNat, target_encT])
  | nei a imm =>
    exact accept 0x30#8 h (hdr_of h ..) rfl (by decide) (by decide) (by decide) rfl (by exact ok) (.inl rfl)
      (fits_p _) rfl rfl rfl (x_zero _) rfl (anyKind _) (.inl rfl)
      (by simp only [Hdr.fields, sreg_encS, spair_encSP, preg_encP, mreg_encM, creg_encC, encB_one, ofCode_encRm, fmt_ofCode, fmt_code_toNat, target_encT])
  | lti a imm =>
    exact accept 0x30#8 h (hdr_of h ..) rfl (by decide) (by decide) (by decide) rfl (by exact ok) (.inl rfl)
      (fits_p _) rfl rfl rfl (x_zero _) rfl (anyKind _) (.inl rfl)
      (by simp only [Hdr.fields, sreg_encS, spair_encSP, preg_encP, mreg_encM, creg_encC, encB_one, ofCode_encRm, fmt_ofCode, fmt_code_toNat, target_encT])
  | gei a imm =>
    exact accept 0x30#8 h (hdr_of h ..) rfl (by decide) (by decide) (by decide) rfl (by exact ok) (.inl rfl)
      (fits_p _) rfl rfl rfl (x_zero _) rfl (anyKind _) (.inl rfl)
      (by simp only [Hdr.fields, sreg_encS, spair_encSP, preg_encP, mreg_encM, creg_encC, encB_one, ofCode_encRm, fmt_ofCode, fmt_code_toNat, target_encT])
  | bit a n =>
    exact accept 0x30#8 h (hdr_of h ..) rfl (by decide) (by decide) (by decide) rfl (by exact ok) (.inl rfl)
      (fits_p _) rfl rfl rfl (x_zero _) (rest_mk rfl (fin_ok n) rfl rfl rfl rfl) (anyKind _) (.inl rfl)
      (by simp only [Hdr.fields, sreg_encS, spair_encSP, preg_encP, mreg_encM, creg_encC, encB_one, ofCode_encRm, fmt_ofCode, fmt_code_toNat, target_encT, fin_val])
  | const v =>
    cases v <;> exact accept 0x30#8 h (hdr_of h ..) rfl (by decide) (by decide) (by decide) rfl (by exact ok)
      (.inl rfl) (fits_p _) rfl rfl rfl (x_zero _) rfl (anyKind _) (.inl rfl)
      (by simp only [Hdr.fields, sreg_encS, spair_encSP, preg_encP, mreg_encM, creg_encC, encB_one, ofCode_encRm, fmt_ofCode, fmt_code_toNat, target_encT]; rfl)
theorem pand (h : Hdr) (d a b : PReg) : Statement (.pand h d a b) := fun kd ok _ =>
  accept 0x31#8 h (hdr_of h ..) rfl (by decide) (by decide) (by decide) rfl (by exact ok) (.inl rfl) (fits_p _)
    (fits_p _) (fits_p _) rfl (x_zero _) rfl (anyKind _) (.inl rfl)
    (by simp only [Hdr.fields, sreg_encS, spair_encSP, preg_encP, mreg_encM, creg_encC, encB_one, ofCode_encRm, fmt_ofCode, fmt_code_toNat, target_encT, formPred])
theorem por (h : Hdr) (d a b : PReg) : Statement (.por h d a b) := fun kd ok _ =>
  accept 0x31#8 h (hdr_of h ..) rfl (by decide) (by decide) (by decide) rfl (by exact ok) (.inl rfl) (fits_p _)
    (fits_p _) (fits_p _) rfl (x_zero _) rfl (anyKind _) (.inl rfl)
    (by simp only [Hdr.fields, sreg_encS, spair_encSP, preg_encP, mreg_encM, creg_encC, encB_one, ofCode_encRm, fmt_ofCode, fmt_code_toNat, target_encT, formPred])
theorem pxor (h : Hdr) (d a b : PReg) : Statement (.pxor h d a b) := fun kd ok _ =>
  accept 0x31#8 h (hdr_of h ..) rfl (by decide) (by decide) (by decide) rfl (by exact ok) (.inl rfl) (fits_p _)
    (fits_p _) (fits_p _) rfl (x_zero _) rfl (anyKind _) (.inl rfl)
    (by simp only [Hdr.fields, sreg_encS, spair_encSP, preg_encP, mreg_encM, creg_encC, encB_one, ofCode_encRm, fmt_ofCode, fmt_code_toNat, target_encT, formPred])
theorem pnot (h : Hdr) (d a : PReg) : Statement (.pnot h d a) := fun kd ok _ =>
  accept 0x31#8 h (hdr_of h ..) rfl (by decide) (by decide) (by decide) rfl (by exact ok) (.inl rfl) (fits_p _)
    (fits_p _) rfl rfl (x_zero _) rfl (anyKind _) (.inl rfl)
    (by simp only [Hdr.fields, sreg_encS, spair_encSP, preg_encP, mreg_encM, creg_encC, encB_one, ofCode_encRm, fmt_ofCode, fmt_code_toNat, target_encT])
theorem br (h : Hdr) (t : RelTarget) : Statement (.br h t) := fun kd ok _ =>
  accept 0x20#8 h (hdr_of h ..) rfl (by decide) (by decide) (by decide) rfl (by exact ok) (.inl rfl) rfl rfl rfl rfl
    (x_zero _) (rest_mk rfl (badSlot_encT _) rfl rfl rfl rfl) (anyKind _) (.inl rfl)
    (by simp only [Hdr.fields, sreg_encS, spair_encSP, preg_encP, mreg_encM, creg_encC, encB_one, ofCode_encRm, fmt_ofCode, fmt_code_toNat, target_encT])
theorem jmp (h : Hdr) (a : SReg) : Statement (.jmp h a) := fun kd ok _ =>
  accept 0x21#8 h (hdr_of h ..) rfl (by decide) (by decide) (by decide) rfl (by exact ok) (.inl rfl) rfl rfl rfl rfl
    (x_zero _) rfl (anyKind _) (.inl rfl) rfl
theorem call (h : Hdr) (d : SReg) (t : RelTarget) : Statement (.call h d t) := fun kd ok _ =>
  accept 0x22#8 h (hdr_of h ..) rfl (by decide) (by decide) (by decide) rfl (by exact ok) (.inl rfl) rfl rfl rfl rfl
    (x_zero _) (rest_mk rfl (badSlot_encT _) rfl rfl rfl rfl) (anyKind _) (.inl rfl)
    (congrArg some (congrArg (Instr.call h d) (target_encT t)))
theorem callInd (h : Hdr) (d a : SReg) : Statement (.callInd h d a) := fun kd ok _ =>
  accept 0x22#8 h (hdr_of h ..) rfl (by decide) (by decide) (by decide) rfl (by exact ok) (.inl rfl) rfl rfl rfl rfl
    (x_zero _) rfl (anyKind _) (.inl rfl) rfl
theorem ret (h : Hdr) (a : SReg) : Statement (.ret h a) := fun kd ok _ =>
  accept 0x23#8 h (hdr_of h ..) rfl (by decide) (by decide) (by decide) rfl (by exact ok) (.inl rfl) rfl rfl rfl rfl
    (x_zero _) rfl (anyKind _) (.inl rfl) rfl
theorem loop (h : Hdr) (a : SReg) (e : RelTarget) : Statement (.loop h a e) := by
  intro kd ok _
  simp only [WellFormed, Bool.and_eq_true] at ok
  exact accept 0x24#8 h (hdr_of h ..) rfl (by decide) (by decide) (by decide) rfl (by exact ok.1) (.inr ok.2) rfl
    rfl rfl rfl (x_zero _) (rest_mk rfl (badSlot_encT _) rfl rfl rfl rfl) (anyKind _) (.inl rfl)
    (by simp only [Hdr.fields, sreg_encS, spair_encSP, preg_encP, mreg_encM, creg_encC, encB_one, ofCode_encRm, fmt_ofCode, fmt_code_toNat, target_encT])
theorem loopi (h : Hdr) (e : RelTarget) (count : BitVec 20) : Statement (.loopi h e count) := by
  intro kd ok _
  simp only [WellFormed, Bool.and_eq_true] at ok
  exact accept 0x25#8 h (hdr_of h ..) rfl (by decide) (by decide) (by decide) rfl (by exact ok.1) (.inr ok.2) rfl
    rfl rfl rfl (x_all _) (rest_mk rfl (badSlot_encT _) rfl rfl rfl rfl) (anyKind _) (.inl rfl)
    (by simp only [Hdr.fields, sreg_encS, spair_encSP, preg_encP, mreg_encM, creg_encC, encB_one, ofCode_encRm, fmt_ofCode, fmt_code_toNat, target_encT])
theorem halt (h : Hdr) : Statement (.halt h) := by
  intro kd ok _
  simp only [WellFormed, Bool.and_eq_true] at ok
  exact accept 0x26#8 h (hdr_of h ..) rfl (by decide) (by decide) (by decide) rfl (by exact ok.1) (.inr ok.2) rfl
    rfl rfl rfl (x_zero _) rfl (anyKind _) (.inl rfl) rfl
theorem yield (h : Hdr) : Statement (.yield h) := fun kd ok _ =>
  accept 0x27#8 h (hdr_of h ..) rfl (by decide) (by decide) (by decide) rfl (by exact ok) (.inl rfl) rfl rfl rfl rfl
    (x_zero _) rfl (anyKind _) (.inl rfl) rfl
theorem crd (h : Hdr) (d : SReg) (reg : BitVec 10) : Statement (.crd h d reg) := by
  intro kd ok _
  exact crd_back ok
theorem cwr (h : Hdr) (a : SReg) (reg : BitVec 10) : Statement (.cwr h a reg) := by
  intro kd ok _
  exact cwr_back ok
theorem counterZero (h : Hdr) (a : SReg) (t : Fin 4) : Statement (.counterZero h a t) := by
  intro kd ok _
  exact counterZero_back ok
theorem trap (h : Hdr) (imm : Imm) : Statement (.trap h imm) := fun kd ok _ =>
  accept 0x3A#8 h (hdr_of h ..) rfl (by decide) (by decide) (by decide) rfl (by exact ok) (.inl rfl) rfl rfl rfl rfl
    (x_zero _) rfl (anyKind _) (.inl rfl) rfl
theorem xret (h : Hdr) (next : Bool) : Statement (.xret h next) := by
  intro kd ok _
  simp only [WellFormed, Bool.and_eq_true] at ok
  cases next <;> exact accept 0x3B#8 h (hdr_of h ..) rfl (by decide) (by decide) (by decide) rfl (by exact ok.1)
    (.inr ok.2) rfl rfl rfl rfl (x_zero _) rfl (anyKind _) (.inl rfl) rfl
theorem ifence (h : Hdr) : Statement (.ifence h) := fun kd ok _ =>
  accept 0x3C#8 h (hdr_of h ..) rfl (by decide) (by decide) (by decide) rfl (by exact ok) (.inl rfl) rfl rfl rfl rfl
    (x_zero _) rfl (anyKind _) (.inl rfl) rfl
theorem brk (h : Hdr) (imm : Imm) : Statement (.brk h imm) := fun kd ok _ =>
  accept 0x3D#8 h (hdr_of h ..) rfl (by decide) (by decide) (by decide) rfl (by exact ok) (.inl rfl) rfl rfl rfl rfl
    (x_zero _) rfl (anyKind _) (.inl rfl) rfl
theorem wait (h : Hdr) (d : SReg) (a b : SPair) (imm : Imm) (bound : BitVec 20) : Statement
  (.wait h d a b imm bound) := fun kd ok _ =>
  accept 0x3E#8 h (hdr_of h ..) rfl (by decide) (by decide) (by decide) rfl (by exact ok) (.inl rfl) rfl (fits_sp _)
    (fits_sp _) rfl (x_all _) rfl (anyKind _) (.inl rfl)
    (by simp only [Hdr.fields, sreg_encS, spair_encSP, preg_encP, mreg_encM, creg_encC, encB_one, ofCode_encRm, fmt_ofCode, fmt_code_toNat, target_encT])
theorem waitBoundExpiry (core : CoreId) (t : Nat) : Statement (.waitBoundExpiry core t) := event rfl
theorem capbuild (h : Hdr) (d a : SReg) : Statement (.capbuild h d a) := by
  intro kd ok _
  simp only [WellFormed, Bool.and_eq_true, beq_iff_eq] at ok
  obtain ⟨ok, rfl⟩ := ok
  exact accept 0x3F#8 h (hdr_of h ..) rfl (by decide) (by decide) (by decide) rfl (by exact ok) (.inl rfl) rfl rfl
    rfl rfl (x_zero _) rfl (anyKind _) (.inr rfl) rfl
theorem ld (h : Hdr) (w : LdWidth) (d : SReg) (a : SPair) (imm : Imm) : Statement (.ld h w d a imm) := by
  intro kd ok _
  simp only [WellFormed, Bool.and_eq_true] at ok
  cases w with
  | b64 =>
    exact accept 0x40#8 h (hdr_of h ..) rfl (by decide) (by decide) (by decide) rfl (by exact ok.1) (.inl rfl)
      (fits_even (by simpa using ok.2)) (fits_sp _) rfl rfl (x_zero _) rfl (anyKind _) (.inl rfl)
      (by simp only [Hdr.fields, sreg_encS, spair_encSP, preg_encP, mreg_encM, creg_encC, encB_one, ofCode_encRm, fmt_ofCode, fmt_code_toNat, target_encT, formLd, ld_back])
  | b8 | b16 | b32 | sb8 | sb16 =>
    exact accept 0x40#8 h (hdr_of h ..) rfl (by decide) (by decide) (by decide) rfl (by exact ok.1) (.inl rfl) rfl
      (fits_sp _) rfl rfl (x_zero _) rfl (anyKind _) (.inl rfl)
      (by simp only [Hdr.fields, sreg_encS, spair_encSP, preg_encP, mreg_encM, creg_encC, encB_one, ofCode_encRm, fmt_ofCode, fmt_code_toNat, target_encT, formLd, ld_back])
theorem st (h : Hdr) (w : StWidth) (b : SReg) (a : SPair) (imm : Imm) : Statement (.st h w b a imm) := by
  intro kd ok _
  simp only [WellFormed, Bool.and_eq_true] at ok
  cases w with
  | b64 =>
    exact accept 0x41#8 h (hdr_of h ..) rfl (by decide) (by decide) (by decide) rfl (by exact ok.1) (.inl rfl) rfl
      (fits_sp _) (fits_even (by simpa using ok.2)) rfl (x_zero _) rfl (anyKind _) (.inl rfl)
      (by simp only [Hdr.fields, sreg_encS, spair_encSP, preg_encP, mreg_encM, creg_encC, encB_one, ofCode_encRm, fmt_ofCode, fmt_code_toNat, target_encT, formSt, st_back])
  | b8 | b16 | b32 =>
    exact accept 0x41#8 h (hdr_of h ..) rfl (by decide) (by decide) (by decide) rfl (by exact ok.1) (.inl rfl) rfl
      (fits_sp _) rfl rfl (x_zero _) rfl (anyKind _) (.inl rfl)
      (by simp only [Hdr.fields, sreg_encS, spair_encSP, preg_encP, mreg_encM, creg_encC, encB_one, ofCode_encRm, fmt_ofCode, fmt_code_toNat, target_encT, formSt, st_back])
theorem ldv (h : Hdr) (fmt : Fmt) (d : VReg) (a : SPair) (imm : Imm) : Statement (.ldv h fmt d a imm) := by
  intro kd ok _
  simp only [WellFormed, Bool.and_eq_true] at ok
  exact accept 0x42#8 h (hdr_of h ..) rfl (by decide) (by decide) (by decide) rfl (by exact ok.1) (.inl rfl) rfl
    (fits_sp _) rfl rfl (x_fmt fmt)
    (rest_mk rfl (by simp only [xbits_fmt, fmt_ofCode]; simpa using ok.2) rfl rfl rfl rfl) (anyKind _) (.inl rfl)
    (by simp only [Hdr.fields, sreg_encS, spair_encSP, preg_encP, mreg_encM, creg_encC, encB_one, ofCode_encRm, fmt_ofCode, fmt_code_toNat, target_encT, xbits_fmt])
theorem stv (h : Hdr) (t6 : Bool) (b : VReg) (a : SPair) (imm : Imm) : Statement (.stv h t6 b a imm) := fun kd ok _
  =>
  accept 0x43#8 h (hdr_of h ..) rfl (by decide) (by decide) (by decide) rfl (by exact ok) (.inl rfl) rfl (fits_sp _)
    rfl rfl (x_t6 t6) (rest_mk rfl (t6_ok t6) rfl rfl rfl rfl) (anyKind _) (.inl rfl)
    (by simp only [Hdr.fields, sreg_encS, spair_encSP, preg_encP, mreg_encM, creg_encC, encB_one, ofCode_encRm, fmt_ofCode, fmt_code_toNat, target_encT, t6_is])
theorem ldvs (h : Hdr) (fmt : Fmt) (d : VReg) (a : SPair) (b : SReg) (imm : Imm) : Statement (.ldvs h fmt d a b imm)
  := by
  intro kd ok _
  simp only [WellFormed, Bool.and_eq_true] at ok
  exact accept 0x44#8 h (hdr_of h ..) rfl (by decide) (by decide) (by decide) rfl (by exact ok.1) (.inl rfl) rfl
    (fits_sp _) rfl rfl (x_fmt fmt)
    (rest_mk rfl (by simp only [xbits_fmt, fmt_ofCode]; simpa using ok.2) rfl rfl rfl rfl) (anyKind _) (.inl rfl)
    (by simp only [Hdr.fields, sreg_encS, spair_encSP, preg_encP, mreg_encM, creg_encC, encB_one, ofCode_encRm, fmt_ofCode, fmt_code_toNat, target_encT, xbits_fmt])
theorem stvs (h : Hdr) (fmt : Fmt) (b : VReg) (a : SPair) (c : SReg) (imm : Imm) : Statement (.stvs h fmt b a c imm)
  := by
  intro kd ok _
  simp only [WellFormed, Bool.and_eq_true] at ok
  exact accept 0x45#8 h (hdr_of h ..) rfl (by decide) (by decide) (by decide) rfl (by exact ok.1) (.inl rfl) rfl
    (fits_sp _) rfl rfl (x_fmt fmt)
    (rest_mk rfl (by simp only [xbits_fmt, fmt_ofCode]; simpa using ok.2) rfl rfl rfl rfl) (anyKind _) (.inl rfl)
    (by simp only [Hdr.fields, sreg_encS, spair_encSP, preg_encP, mreg_encM, creg_encC, encB_one, ofCode_encRm, fmt_ofCode, fmt_code_toNat, target_encT, xbits_fmt])
theorem ldvx (h : Hdr) (fmt : Fmt) (k : Fin 8) (d : VReg) (a : SPair) (b : VReg) (imm : Imm) : Statement
  (.ldvx h fmt k d a b imm) := by
  intro kd ok _
  simp only [WellFormed, Bool.and_eq_true] at ok
  exact accept 0x46#8 h (hdr_of h ..) rfl (by decide) (by decide) (by decide) rfl (by exact ok.1) (.inl rfl) rfl
    (fits_sp _) rfl rfl (x_fmt fmt)
    (rest_mk rfl (by simp only [xbits_fmt, fmt_ofCode]; simpa using ok.2) rfl rfl rfl (lo_range k)) (anyKind _)
    (.inl rfl)
    (by simp only [Hdr.fields, sreg_encS, spair_encSP, preg_encP, mreg_encM, creg_encC, encB_one, ofCode_encRm, fmt_ofCode, fmt_code_toNat, target_encT, xbits_fmt])
theorem stvx (h : Hdr) (fmt : Fmt) (k : Fin 8) (b : VReg) (a : SPair) (c : VReg) (imm : Imm) : Statement
  (.stvx h fmt k b a c imm) := by
  intro kd ok _
  simp only [WellFormed, Bool.and_eq_true] at ok
  exact accept 0x47#8 h (hdr_of h ..) rfl (by decide) (by decide) (by decide) rfl (by exact ok.1) (.inl rfl) rfl
    (fits_sp _) rfl rfl (x_fmt fmt)
    (rest_mk rfl (by simp only [xbits_fmt, fmt_ofCode]; simpa using ok.2) rfl rfl rfl (lo_range k)) (anyKind _)
    (.inl rfl)
    (by simp only [Hdr.fields, sreg_encS, spair_encSP, preg_encP, mreg_encM, creg_encC, encB_one, ofCode_encRm, fmt_ofCode, fmt_code_toNat, target_encT, xbits_fmt])
theorem ldt (h : Hdr) (fmt : Fmt) (d : MReg) (a : SPair) (b : SReg) (imm : Imm) (rows : TileRows) : Statement
  (.ldt h fmt d a b imm rows) := by
  intro kd ok _
  exact ldt_back ok
theorem stt (h : Hdr) (t6 : Bool) (b : MReg) (a : SPair) (c : SReg) (imm : Imm) (rows : TileRows) : Statement
  (.stt h t6 b a c imm rows) := by
  intro kd ok _
  exact stt_back ok
theorem ldf (h : Hdr) (rm : RmCode) (x : Bool) (d : FReg) (a : SPair) (imm : Imm) : Statement (.ldf h rm x d a imm)
  := by
  intro kd ok _
  simp only [WellFormed, Bool.and_eq_true, beq_iff_eq] at ok
  obtain ⟨ok, rfl⟩ := ok
  exact accept 0x4A#8 h (hdr_of h ..) rfl (by decide) (by decide) (by decide) rfl (by exact ok) (.inl rfl) rfl
    (fits_sp _) rfl rfl (x_zero _) (rest_mk rfl rfl (rm_any rm) rfl rfl rfl) rfl (.inl rfl)
    (by simp only [Hdr.fields, sreg_encS, spair_encSP, preg_encP, mreg_encM, creg_encC, encB_one, ofCode_encRm, fmt_ofCode, fmt_code_toNat, target_encT])
theorem stf (h : Hdr) (b : FReg) (a : SPair) (imm : Imm) : Statement (.stf h b a imm) := by
  intro kd ok _
  simp only [WellFormed, Bool.and_eq_true, beq_iff_eq] at ok
  obtain ⟨ok, rfl⟩ := ok
  exact accept 0x4B#8 h (hdr_of h ..) rfl (by decide) (by decide) (by decide) rfl (by exact ok) (.inl rfl) rfl
    (fits_sp _) rfl rfl (x_zero _) rfl rfl (.inl rfl)
    (by simp only [Hdr.fields, sreg_encS, spair_encSP, preg_encP, mreg_encM, creg_encC, encB_one, ofCode_encRm, fmt_ofCode, fmt_code_toNat, target_encT])
theorem lamo (h : Hdr) (op : BankOp) (el : Elem) (d : Option SReg) (a : SPair) (b : SReg) (imm : Imm) : Statement
  (.lamo h op el d a b imm) := by
  intro kd ok _
  exact lamo_back ok
theorem lfence (h : Hdr) : Statement (.lfence h) := fun kd ok _ =>
  accept 0x4D#8 h (hdr_of h ..) rfl (by decide) (by decide) (by decide) rfl (by exact ok) (.inl rfl) rfl rfl rfl rfl
    (x_zero _) rfl (anyKind _) (.inl rfl) rfl
theorem lwopen (h : Hdr) (now log : Bool) (a : SPair) (b : SReg) (imm : Imm) : Statement (.lwopen h now log a b imm)
  := by
  intro kd ok _
  simp only [WellFormed, Bool.and_eq_true, beq_iff_eq] at ok
  obtain ⟨ok, rfl⟩ := ok
  cases now <;> cases log <;> exact accept 0x50#8 h (hdr_of h ..) rfl (by decide) (by decide) (by decide) rfl
    (by exact ok) (.inl rfl) rfl (fits_sp _) rfl rfl (x_zero _) rfl rfl (.inl rfl)
    (by simp only [Hdr.fields, sreg_encS, spair_encSP, preg_encP, mreg_encM, creg_encC, encB_one, ofCode_encRm, fmt_ofCode, fmt_code_toNat, target_encT]; rfl)
theorem lwclose (h : Hdr) (a : SPair) (imm : Imm) : Statement (.lwclose h a imm) := by
  intro kd ok _
  simp only [WellFormed, Bool.and_eq_true, beq_iff_eq] at ok
  obtain ⟨ok, rfl⟩ := ok
  exact accept 0x51#8 h (hdr_of h ..) rfl (by decide) (by decide) (by decide) rfl (by exact ok) (.inl rfl) rfl
    (fits_sp _) rfl rfl (x_zero _) rfl rfl (.inl rfl)
    (by simp only [Hdr.fields, sreg_encS, spair_encSP, preg_encP, mreg_encM, creg_encC, encB_one, ofCode_encRm, fmt_ofCode, fmt_code_toNat, target_encT])
theorem lwdue (h : Hdr) (a : SPair) (b : SReg) (imm : Imm) : Statement (.lwdue h a b imm) := by
  intro kd ok _
  simp only [WellFormed, Bool.and_eq_true, beq_iff_eq] at ok
  obtain ⟨ok, rfl⟩ := ok
  exact accept 0x52#8 h (hdr_of h ..) rfl (by decide) (by decide) (by decide) rfl (by exact ok) (.inl rfl) rfl
    (fits_sp _) rfl rfl (x_zero _) rfl rfl (.inl rfl)
    (by simp only [Hdr.fields, sreg_encS, spair_encSP, preg_encP, mreg_encM, creg_encC, encB_one, ofCode_encRm, fmt_ofCode, fmt_code_toNat, target_encT])
theorem send (h : Hdr) (len : SendLen) (a : SPair) (b c : SReg) (imm : Imm) : Statement (.send h len a b c imm) :=
  by
  intro kd ok _
  exact send_back ok
theorem sendop (h : Hdr) (op : BankOp) (el : Elem) (len : SendLen) (a : SPair) (b c : SReg) (imm : Imm) : Statement
  (.sendop h op el len a b c imm) := by
  intro kd ok _
  exact sendop_back ok
theorem subscribe (h : Hdr) (a b : SReg) : Statement (.subscribe h a b) := by
  intro kd ok _
  simp only [WellFormed, Bool.and_eq_true, beq_iff_eq] at ok
  obtain ⟨ok, rfl⟩ := ok
  exact accept 0x55#8 h (hdr_of h ..) rfl (by decide) (by decide) (by decide) rfl (by exact ok) (.inl rfl) rfl rfl
    rfl rfl (x_zero _) rfl rfl (.inl rfl) rfl
theorem unsubscribe (h : Hdr) (a : SReg) : Statement (.unsubscribe h a) := by
  intro kd ok _
  simp only [WellFormed, Bool.and_eq_true, beq_iff_eq] at ok
  obtain ⟨ok, rfl⟩ := ok
  exact accept 0x56#8 h (hdr_of h ..) rfl (by decide) (by decide) (by decide) rfl (by exact ok) (.inl rfl) rfl rfl
    rfl rfl (x_zero _) rfl rfl (.inl rfl) rfl
theorem bar (h : Hdr) : Statement (.bar h) := by
  intro kd ok _
  simp only [WellFormed, Bool.and_eq_true] at ok
  exact accept 0x57#8 h (hdr_of h ..) rfl (by decide) (by decide) (by decide) rfl (by exact ok.1) (.inr ok.2) rfl
    rfl rfl rfl (x_zero _) rfl (anyKind _) (.inl rfl) rfl
theorem barq (h : Hdr) (d : SReg) : Statement (.barq h d) := fun kd ok _ =>
  accept 0x58#8 h (hdr_of h ..) rfl (by decide) (by decide) (by decide) rfl (by exact ok) (.inl rfl) rfl rfl rfl rfl
    (x_zero _) rfl (anyKind _) (.inl rfl) rfl
theorem chron (h : Hdr) (d : VReg) (a : SReg) : Statement (.chron h d a) := by
  intro kd ok _
  simp only [WellFormed, Bool.and_eq_true, beq_iff_eq] at ok
  obtain ⟨ok, rfl⟩ := ok
  exact accept 0x59#8 h (hdr_of h ..) rfl (by decide) (by decide) (by decide) rfl (by exact ok) (.inl rfl) rfl rfl
    rfl rfl (x_zero _) rfl rfl (.inl rfl) rfl
theorem tlwait (h : Hdr) (sel : Fin 8) (a : SPair) : Statement (.tlwait h sel a) := by
  intro kd ok _
  simp only [WellFormed, Bool.and_eq_true] at ok
  exact accept 0x5A#8 h (hdr_of h ..) rfl (by decide) (by decide) (by decide) rfl (by exact ok.1) (.inl rfl) rfl
    (fits_sp _) rfl rfl (x_sel sel) (rest_mk rfl (sel_ok ok.2) rfl rfl rfl rfl) (anyKind _) (.inl rfl)
    (by simp only [Hdr.fields, sreg_encS, spair_encSP, preg_encP, mreg_encM, creg_encC, encB_one, ofCode_encRm, fmt_ofCode, fmt_code_toNat, target_encT, formTl, if_true, sel_back])
theorem tlread (h : Hdr) (sel : Fin 8) (d : SPair) : Statement (.tlread h sel d) := by
  intro kd ok _
  simp only [WellFormed, Bool.and_eq_true] at ok
  exact accept 0x5B#8 h (hdr_of h ..) rfl (by decide) (by decide) (by decide) rfl (by exact ok.1) (.inl rfl)
    (fits_sp _) rfl rfl rfl (x_sel sel) (rest_mk rfl (sel_ok ok.2) rfl rfl rfl rfl) (anyKind _) (.inl rfl)
    (by simp only [Hdr.fields, sreg_encS, spair_encSP, preg_encP, mreg_encM, creg_encC, encB_one, ofCode_encRm, fmt_ofCode, fmt_code_toNat, target_encT, formTl, Bool.false_eq_true, if_false, sel_back])
theorem vadd (h : Hdr) (fmt : Fmt) (rm : RmCode) (sat : Bool) (d a b : VReg) : Statement (.vadd h fmt rm sat d a b)
  := by
  intro kd ok _
  simp only [WellFormed, Bool.and_eq_true] at ok
  exact v2 (fun q => !q.isInt) (fun _ => true) ok.1.1 (rm_if ok.2) rfl ok.1.2 rfl (fun n => if_neg n) rfl rfl
    (by decide) (by decide) (by decide)
theorem vsub (h : Hdr) (fmt : Fmt) (rm : RmCode) (sat : Bool) (d a b : VReg) : Statement (.vsub h fmt rm sat d a b)
  := by
  intro kd ok _
  simp only [WellFormed, Bool.and_eq_true] at ok
  exact v2 (fun q => !q.isInt) (fun _ => true) ok.1.1 (rm_if ok.2) rfl ok.1.2 rfl (fun n => if_neg n) rfl rfl
    (by decide) (by decide) (by decide)
theorem vmul (h : Hdr) (fmt : Fmt) (rm : RmCode) (sat : Bool) (d a b : VReg) : Statement (.vmul h fmt rm sat d a b)
  := by
  intro kd ok _
  simp only [WellFormed, Bool.and_eq_true] at ok
  exact v2 (fun q => !q.isInt) (fun _ => true) ok.1.1 (rm_if ok.2) rfl ok.1.2 rfl (fun n => if_neg n) rfl rfl
    (by decide) (by decide) (by decide)
theorem vfma (h : Hdr) (fmt : Fmt) (rm : RmCode) (sat : Bool) (d a b c : VReg) : Statement
  (.vfma h fmt rm sat d a b c) := by
  intro kd ok _
  simp only [WellFormed, Bool.and_eq_true] at ok
  exact v3 (fun q => !q.isInt) ok.1 (rm_if (float_rm (by decide) ok.2 rm)) ok.2 rfl (fun n => if_neg n) rfl rfl
    (by decide) (by decide) (by decide)
theorem vfms (h : Hdr) (fmt : Fmt) (rm : RmCode) (sat : Bool) (d a b c : VReg) : Statement
  (.vfms h fmt rm sat d a b c) := by
  intro kd ok _
  simp only [WellFormed, Bool.and_eq_true] at ok
  exact v3 (fun q => !q.isInt) ok.1 (rm_if (float_rm (by decide) ok.2 rm)) ok.2 rfl (fun n => if_neg n) rfl rfl
    (by decide) (by decide) (by decide)
theorem vmin (h : Hdr) (fmt : Fmt) (rm : RmCode) (sat : Bool) (d a b : VReg) : Statement (.vmin h fmt rm sat d a b)
  := by
  intro kd ok _
  simp only [WellFormed, Bool.and_eq_true] at ok
  exact v2 (fun q => !q.isInt) (fun q => !q.isInt) ok.1.1.1 (rm_if ok.1.2) ok.2 ok.1.1.2 rfl (fun n => if_neg n) rfl
    rfl (by decide) (by decide) (by decide)
theorem vmax (h : Hdr) (fmt : Fmt) (rm : RmCode) (sat : Bool) (d a b : VReg) : Statement (.vmax h fmt rm sat d a b)
  := by
  intro kd ok _
  simp only [WellFormed, Bool.and_eq_true] at ok
  exact v2 (fun q => !q.isInt) (fun q => !q.isInt) ok.1.1.1 (rm_if ok.1.2) ok.2 ok.1.1.2 rfl (fun n => if_neg n) rfl
    rfl (by decide) (by decide) (by decide)
theorem vabs (h : Hdr) (fmt : Fmt) (rm : RmCode) (sat : Bool) (d a : VReg) : Statement (.vabs h fmt rm sat d a) :=
  by
  intro kd ok _
  simp only [WellFormed, Bool.and_eq_true] at ok
  exact v1 (fun q => !q.isInt) (fun _ => true) ok.1.1 (rm_if ok.2) rfl ok.1.2 rfl (fun n => if_neg n) rfl rfl
    (by decide) (by decide) (by decide)
theorem vneg (h : Hdr) (fmt : Fmt) (rm : RmCode) (sat : Bool) (d a : VReg) : Statement (.vneg h fmt rm sat d a) :=
  by
  intro kd ok _
  simp only [WellFormed, Bool.and_eq_true] at ok
  exact v1 (fun q => !q.isInt) (fun _ => true) ok.1.1 (rm_if ok.2) rfl ok.1.2 rfl (fun n => if_neg n) rfl rfl
    (by decide) (by decide) (by decide)
theorem vdiv (h : Hdr) (fmt : Fmt) (rm : RmCode) (sat : Bool) (d a b : VReg) : Statement (.vdiv h fmt rm sat d a b)
  := by
  intro kd ok _
  simp only [WellFormed, Bool.and_eq_true] at ok
  exact v2 (fun _ => true) (fun _ => true) ok.1 (rm_any rm) rfl ok.2 rfl (fun n => if_neg n) rfl rfl (by decide)
    (by decide) (by decide)
theorem vsqrt (h : Hdr) (fmt : Fmt) (rm : RmCode) (sat : Bool) (d a : VReg) : Statement (.vsqrt h fmt rm sat d a) :=
  by
  intro kd ok _
  simp only [WellFormed, Bool.and_eq_true] at ok
  exact v1 (fun _ => true) (fun _ => true) ok.1 (rm_any rm) rfl ok.2 rfl (fun n => if_neg n) rfl rfl (by decide)
    (by decide) (by decide)
theorem vrsq (h : Hdr) (fmt : Fmt) (rm : RmCode) (sat : Bool) (d a : VReg) : Statement (.vrsq h fmt rm sat d a) :=
  by
  intro kd ok _
  simp only [WellFormed, Bool.and_eq_true] at ok
  exact v1 (fun q => q != .fp32) (fun _ => true) ok.1.1 (rm_ne ok.2) rfl ok.1.2 rfl (fun n => if_neg n) rfl rfl
    (by decide) (by decide) (by decide)
theorem vexp2 (h : Hdr) (fmt : Fmt) (rm : RmCode) (sat : Bool) (d a : VReg) : Statement (.vexp2 h fmt rm sat d a) :=
  by
  intro kd ok _
  simp only [WellFormed, Bool.and_eq_true] at ok
  exact v1 (fun q => q != .fp32) (fun _ => true) ok.1.1 (rm_ne ok.2) rfl ok.1.2 rfl (fun n => if_neg n) rfl rfl
    (by decide) (by decide) (by decide)
theorem vlog2 (h : Hdr) (fmt : Fmt) (rm : RmCode) (sat : Bool) (d a : VReg) : Statement (.vlog2 h fmt rm sat d a) :=
  by
  intro kd ok _
  simp only [WellFormed, Bool.and_eq_true] at ok
  exact v1 (fun q => q != .fp32) (fun _ => true) ok.1.1 (rm_ne ok.2) rfl ok.1.2 rfl (fun n => if_neg n) rfl rfl
    (by decide) (by decide) (by decide)
theorem vcmp (h : Hdr) (fmt : Fmt) (c : FCond) (d : SReg) (a b : VReg) : Statement (.vcmp h fmt c d a b) := by
  intro kd ok _
  simp only [WellFormed, Bool.and_eq_true] at ok
  exact accept 0x6E#8 h (hdr_of h ..) rfl (by decide) (by decide) (by decide)
    (by exact vecForm (fmt := fmt) rfl rfl ok.1.2 rfl fun n => if_neg n) (by exact ok.1.1) (.inl rfl) (by exact rfl)
    (by exact rfl) (by exact rfl) (by exact rfl) (x_zero _)
    (by exact rest_mk rfl (cmp_ok ok.2) rfl rfl rfl (cmp_lo c)) (anyKind _) (.inl rfl)
    (by simp only [Hdr.fields, sreg_encS, spair_encSP, preg_encP, mreg_encM, creg_encC, encB_one, ofCode_encRm, fmt_ofCode, fmt_code_toNat, target_encT, cmp_back])
theorem vsel (h : Hdr) (fmt : Fmt) (d a b : VReg) (c : SReg) : Statement (.vsel h fmt d a b c) := by
  intro kd ok _
  simp only [WellFormed, Bool.and_eq_true] at ok
  exact accept 0x6F#8 h (hdr_of h ..) rfl (by decide) (by decide) (by decide)
    (by exact vecForm (fmt := fmt) rfl rfl ok.2 rfl fun n => if_neg n) (by exact ok.1) (.inl rfl) (by exact rfl)
    (by exact rfl) (by exact rfl) (by exact rfl) (x_zero _) (by exact rfl) (anyKind _) (.inl rfl)
    (by simp only [Hdr.fields, sreg_encS, spair_encSP, preg_encP, mreg_encM, creg_encC, encB_one, ofCode_encRm, fmt_ofCode, fmt_code_toNat, target_encT])
theorem vand (h : Hdr) (d a b : VReg) : Statement (.vand h d a b) := by
  intro kd ok _
  exact accept 0x70#8 h (hdr_of h ..) rfl (by decide) (by decide) (by decide)
    (by exact vecForm (fmt := .ut) rfl rfl (by decide : vecFmtOk 0x70 .ut = true) rfl fun n => if_neg n)
    (by exact ok) (.inl rfl) (by exact rfl) (by exact rfl) (by exact rfl) (by exact rfl) (x_zero _) (by exact rfl)
    (anyKind _) (.inl rfl) rfl
theorem vor (h : Hdr) (d a b : VReg) : Statement (.vor h d a b) := by
  intro kd ok _
  exact accept 0x71#8 h (hdr_of h ..) rfl (by decide) (by decide) (by decide)
    (by exact vecForm (fmt := .ut) rfl rfl (by decide : vecFmtOk 0x71 .ut = true) rfl fun n => if_neg n)
    (by exact ok) (.inl rfl) (by exact rfl) (by exact rfl) (by exact rfl) (by exact rfl) (x_zero _) (by exact rfl)
    (anyKind _) (.inl rfl) rfl
theorem vxor (h : Hdr) (d a b : VReg) : Statement (.vxor h d a b) := by
  intro kd ok _
  exact accept 0x72#8 h (hdr_of h ..) rfl (by decide) (by decide) (by decide)
    (by exact vecForm (fmt := .ut) rfl rfl (by decide : vecFmtOk 0x72 .ut = true) rfl fun n => if_neg n)
    (by exact ok) (.inl rfl) (by exact rfl) (by exact rfl) (by exact rfl) (by exact rfl) (x_zero _) (by exact rfl)
    (anyKind _) (.inl rfl) rfl
theorem vshl (h : Hdr) (fmt : Fmt) (d a : VReg) (n : VShiftAmt) : Statement (.vshl h fmt d a n) := by
  intro kd ok _
  simp only [WellFormed, Bool.and_eq_true] at ok
  cases n <;> exact vshift ok.1 (vecForm (fmt := fmt) rfl rfl ok.2 rfl fun n => if_neg n) rfl (by decide)
    (by decide) (by decide)
theorem vshr (h : Hdr) (fmt : Fmt) (d a : VReg) (n : VShiftAmt) : Statement (.vshr h fmt d a n) := by
  intro kd ok _
  simp only [WellFormed, Bool.and_eq_true] at ok
  cases n <;> exact vshift ok.1 (vecForm (fmt := fmt) rfl rfl ok.2 rfl fun n => if_neg n) rfl (by decide)
    (by decide) (by decide)
theorem vshra (h : Hdr) (fmt : Fmt) (d a : VReg) (n : VShiftAmt) : Statement (.vshra h fmt d a n) := by
  intro kd ok _
  simp only [WellFormed, Bool.and_eq_true] at ok
  cases n <;> exact vshift ok.1 (vecForm (fmt := fmt) rfl rfl ok.2 rfl fun n => if_neg n) rfl (by decide)
    (by decide) (by decide)
theorem vperm (h : Hdr) (fmt : Fmt) (d a b c : VReg) : Statement (.vperm h fmt d a b c) := by
  intro kd ok _
  simp only [WellFormed, Bool.and_eq_true] at ok
  exact accept 0x76#8 h (hdr_of h ..) rfl (by decide) (by decide) (by decide)
    (by exact vecForm (fmt := fmt) rfl rfl ok.2 rfl fun n => if_neg n) (by exact ok.1) (.inl rfl) (by exact rfl)
    (by exact rfl) (by exact rfl) (by exact rfl) (x_zero _) (by exact rfl) (anyKind _) (.inl rfl)
    (by simp only [Hdr.fields, sreg_encS, spair_encSP, preg_encP, mreg_encM, creg_encC, encB_one, ofCode_encRm, fmt_ofCode, fmt_code_toNat, target_encT])
theorem vbcast (h : Hdr) (fmt : Fmt) (d : VReg) (a : SReg) : Statement (.vbcast h fmt d a) := by
  intro kd ok _
  simp only [WellFormed, Bool.and_eq_true] at ok
  exact accept 0x77#8 h (hdr_of h ..) rfl (by decide) (by decide) (by decide)
    (by exact vecForm (fmt := fmt) rfl rfl ok.1.2 rfl fun n => if_neg n)
    (by simp only [Hdr.fields, fmt_code_toNat, fmt_ofCode, lane_markable]; exact ok.1.1) (.inl rfl) (by exact rfl)
    (by simp only [Hdr.fields, fmt_code_toNat, fmt_ofCode]; exact fits_lane ok.2) (by exact rfl) (by exact rfl)
    (x_zero _) (by exact rfl) (anyKind _) (.inl rfl)
    (by simp only [Hdr.fields, sreg_encS, spair_encSP, preg_encP, mreg_encM, creg_encC, encB_one, ofCode_encRm, fmt_ofCode, fmt_code_toNat, target_encT])
theorem vshuf (h : Hdr) (fmt : Fmt) (pat : ShufPat) (d a : VReg) : Statement (.vshuf h fmt pat d a) := by
  intro kd ok _
  exact vshuf_back ok
theorem vredadd (h : Hdr) (fmt : Fmt) (rm : RmCode) (sat : Bool) (d : SReg) (a : VReg) : Statement
  (.vredadd h fmt rm sat d a) := by
  intro kd ok _
  simp only [WellFormed, Bool.and_eq_true] at ok
  exact accept 0x79#8 h (hdr_of h ..) rfl (by decide) (by decide) (by decide)
    (by exact vecForm (fmt := fmt) rfl rfl ok.1.1.2 rfl fun n => if_neg n) (by exact ok.1.1.1) (.inl rfl)
    (by simp only [encV1, Hdr.fields, fmt_code_toNat, fmt_ofCode]; exact fits_lane ok.2) (by exact rfl)
    (by exact rfl) (by exact rfl) (x_zero _)
    (by simp only [encV1, Hdr.fields, fmt_code_toNat, fmt_ofCode]; exact rest_mk rfl rfl (rm_if ok.1.2) rfl rfl rfl)
    (anyKind _) (.inl rfl)
    (by simp only [Hdr.fields, sreg_encS, spair_encSP, preg_encP, mreg_encM, creg_encC, encB_one, ofCode_encRm, fmt_ofCode, fmt_code_toNat, target_encT, encV1])
theorem vredmax (h : Hdr) (fmt : Fmt) (rm : RmCode) (d : SReg) (a : VReg) : Statement (.vredmax h fmt rm d a) := by
  intro kd ok _
  simp only [WellFormed, Bool.and_eq_true] at ok
  exact accept 0x7A#8 h (hdr_of h ..) rfl (by decide) (by decide) (by decide)
    (by exact vecForm (fmt := fmt) rfl rfl ok.1.1.2 rfl fun n => if_neg n) (by exact ok.1.1.1) (.inl rfl)
    (by simp only [encV1, Hdr.fields, fmt_code_toNat, fmt_ofCode]; exact fits_lane ok.2) (by exact rfl)
    (by exact rfl) (by exact rfl) (x_zero _)
    (by simp only [encV1, Hdr.fields, fmt_code_toNat, fmt_ofCode]; exact rest_mk rfl rfl (rm_if ok.1.2) rfl rfl rfl)
    (anyKind _) (.inl rfl)
    (by simp only [Hdr.fields, sreg_encS, spair_encSP, preg_encP, mreg_encM, creg_encC, encB_one, ofCode_encRm, fmt_ofCode, fmt_code_toNat, target_encT, encV1])
theorem vredmin (h : Hdr) (fmt : Fmt) (rm : RmCode) (d : SReg) (a : VReg) : Statement (.vredmin h fmt rm d a) := by
  intro kd ok _
  simp only [WellFormed, Bool.and_eq_true] at ok
  exact accept 0x7B#8 h (hdr_of h ..) rfl (by decide) (by decide) (by decide)
    (by exact vecForm (fmt := fmt) rfl rfl ok.1.1.2 rfl fun n => if_neg n) (by exact ok.1.1.1) (.inl rfl)
    (by simp only [encV1, Hdr.fields, fmt_code_toNat, fmt_ofCode]; exact fits_lane ok.2) (by exact rfl)
    (by exact rfl) (by exact rfl) (x_zero _)
    (by simp only [encV1, Hdr.fields, fmt_code_toNat, fmt_ofCode]; exact rest_mk rfl rfl (rm_if ok.1.2) rfl rfl rfl)
    (anyKind _) (.inl rfl)
    (by simp only [Hdr.fields, sreg_encS, spair_encSP, preg_encP, mreg_encM, creg_encC, encB_one, ofCode_encRm, fmt_ofCode, fmt_code_toNat, target_encT, encV1])
theorem vdot (h : Hdr) (fmt : Fmt) (rm : RmCode) (sat : Bool) (d a b c : VReg) : Statement
  (.vdot h fmt rm sat d a b c) := by
  intro kd ok _
  simp only [WellFormed, Bool.and_eq_true] at ok
  exact v3 (fun q => !q.isInt) ok.1.1 (rm_if ok.2) ok.1.2 rfl (fun n => if_neg n) rfl rfl (by decide) (by decide)
    (by decide)
theorem vmovs (h : Hdr) (fmt : Fmt) (d : VReg) (a : SReg) (lane : Fin 32) : Statement (.vmovs h fmt d a lane) := by
  intro kd ok _
  simp only [WellFormed, Bool.and_eq_true] at ok
  exact accept 0x7D#8 h (hdr_of h ..) rfl (by decide) (by decide) (by decide)
    (by exact vecForm (fmt := fmt) rfl rfl ok.1.1.2 rfl fun n => if_neg n)
    (by simp only [Hdr.fields, fmt_code_toNat, fmt_ofCode, lane_markable]; exact ok.1.1.1) (.inl rfl) (by exact rfl)
    (by simp only [Hdr.fields, fmt_code_toNat, fmt_ofCode]; exact fits_lane ok.1.2) (by exact rfl) (by exact rfl)
    (x_zero _) (by exact rest_mk rfl (lane_ok ok.2) rfl rfl rfl rfl) (anyKind _) (.inl rfl)
    (by simp only [Hdr.fields, sreg_encS, spair_encSP, preg_encP, mreg_encM, creg_encC, encB_one, ofCode_encRm, fmt_ofCode, fmt_code_toNat, target_encT, fin_val])
theorem vexts (h : Hdr) (fmt : Fmt) (d : SReg) (a : VReg) (lane : Fin 32) : Statement (.vexts h fmt d a lane) := by
  intro kd ok _
  simp only [WellFormed, Bool.and_eq_true] at ok
  exact accept 0x7E#8 h (hdr_of h ..) rfl (by decide) (by decide) (by decide)
    (by exact vecForm (fmt := fmt) rfl rfl ok.1.1.2 rfl fun n => if_neg n) (by exact ok.1.1.1) (.inl rfl)
    (by simp only [Hdr.fields, fmt_code_toNat, fmt_ofCode]; exact fits_lane ok.1.2) (by exact rfl) (by exact rfl)
    (by exact rfl) (x_zero _) (by exact rest_mk rfl (lane_ok ok.2) rfl rfl rfl rfl) (anyKind _) (.inl rfl)
    (by simp only [Hdr.fields, sreg_encS, spair_encSP, preg_encP, mreg_encM, creg_encC, encB_one, ofCode_encRm, fmt_ofCode, fmt_code_toNat, target_encT, fin_val])
theorem viota (h : Hdr) (fmt : Fmt) (sat : Bool) (d : VReg) (a : SReg) (imm : Imm) : Statement
  (.viota h fmt sat d a imm) := by
  intro kd ok _
  simp only [WellFormed, Bool.and_eq_true] at ok
  exact accept 0x7F#8 h (hdr_of h ..) rfl (by decide) (by decide) (by decide)
    (by exact vecForm (fmt := fmt) rfl rfl ok.2 rfl fun n => if_neg n) (by exact ok.1) (.inl rfl) (by exact rfl)
    (by exact rfl) (by exact rfl) (by exact rfl) (x_zero _) (by exact rfl) (anyKind _) (.inl rfl)
    (by simp only [Hdr.fields, sreg_encS, spair_encSP, preg_encP, mreg_encM, creg_encC, encB_one, ofCode_encRm, fmt_ofCode, fmt_code_toNat, target_encT])
theorem vcvt (h : Hdr) (dst src : Fmt) (rm : RmCode) (sat : Bool) (part : Fin 8) (d a : VReg) : Statement
  (.vcvt h dst src rm sat part d a) := by
  intro kd ok _
  exact vcvt_back ok
theorem vquant (h : Hdr) (qf : Fmt) (wf : WideFmt) (d a : VReg) (b : SReg) : Statement (.vquant h qf wf d a b) := by
  intro kd ok _
  simp only [WellFormed, Bool.and_eq_true] at ok
  exact accept 0x81#8 h (hdr_of h ..) rfl (by decide) (by decide) (by decide)
    (by exact quantForm (fmt := qf) rfl ok.1.2 rfl fun n => if_neg n) (by exact ok.1.1) (.inl rfl) (by exact rfl)
    (by simp only [wide_back]; exact fits_group ok.2) (by exact rfl) (by exact rfl) (x_zero _)
    (by exact rest_mk rfl rfl rfl rfl rfl (wide_lo wf)) (anyKind _) (.inl rfl)
    (by simp only [Hdr.fields, sreg_encS, spair_encSP, preg_encP, mreg_encM, creg_encC, encB_one, ofCode_encRm, fmt_ofCode, fmt_code_toNat, target_encT, wide_back])
theorem vdeq (h : Hdr) (qf : Fmt) (wf : WideFmt) (rm : RmCode) (sat : Bool) (d a : VReg) (b : SReg) : Statement
  (.vdeq h qf wf rm sat d a b) := by
  intro kd ok _
  simp only [WellFormed, Bool.and_eq_true] at ok
  exact accept 0x82#8 h (hdr_of h ..) rfl (by decide) (by decide) (by decide)
    (by exact quantForm (fmt := qf) rfl ok.1.2 rfl fun n => if_neg n) (by exact ok.1.1) (.inl rfl)
    (by simp only [wide_back]; exact fits_group ok.2) (by exact rfl) (by exact rfl) (by exact rfl) (x_zero _)
    (by exact rest_mk rfl rfl (rm_any rm) rfl rfl (wide_lo wf)) (anyKind _) (.inl rfl)
    (by simp only [Hdr.fields, sreg_encS, spair_encSP, preg_encP, mreg_encM, creg_encC, encB_one, ofCode_encRm, fmt_ofCode, fmt_code_toNat, target_encT, wide_back])
theorem vscale (h : Hdr) (qf : Fmt) (wf : WideFmt) (d a : VReg) (b : SReg) : Statement (.vscale h qf wf d a b) := by
  intro kd ok _
  simp only [WellFormed, Bool.and_eq_true] at ok
  exact accept 0x83#8 h (hdr_of h ..) rfl (by decide) (by decide) (by decide)
    (by exact quantForm (fmt := qf) rfl ok.1.2 rfl fun n => if_neg n) (by exact ok.1.1) (.inl rfl) (by exact rfl)
    (by simp only [wide_back]; exact fits_group ok.2) (by exact rfl) (by exact rfl) (x_zero _)
    (by exact rest_mk rfl rfl rfl rfl rfl (wide_lo wf)) (anyKind _) (.inl rfl)
    (by simp only [Hdr.fields, sreg_encS, spair_encSP, preg_encP, mreg_encM, creg_encC, encB_one, ofCode_encRm, fmt_ofCode, fmt_code_toNat, target_encT, wide_back])
theorem vtag (h : Hdr) (t : Fmt) (d a : VReg) : Statement (.vtag h t d a) := by
  intro kd ok _
  cases t <;> exact accept 0x84#8 h (hdr_of h ..) rfl (by decide) (by decide) (by decide) rfl (by exact ok)
    (.inl rfl) rfl rfl rfl rfl (x_zero _) rfl (anyKind _) (.inl rfl) rfl
theorem vtagq (h : Hdr) (d : SReg) (src : TagSrc) : Statement (.vtagq h d src) := by
  intro kd ok _
  exact vtagq_back ok
theorem fadd (h : Hdr) (rm : RmCode) (x sat : Bool) (d a b : FReg) : Statement (.fadd h rm x sat d a b) := fun _ w _
  =>
  f2 _ rfl w rfl
theorem fsub (h : Hdr) (rm : RmCode) (x sat : Bool) (d a b : FReg) : Statement (.fsub h rm x sat d a b) := fun _ w _
  =>
  f2 _ rfl w rfl
theorem fmul (h : Hdr) (rm : RmCode) (x sat : Bool) (d a b : FReg) : Statement (.fmul h rm x sat d a b) := fun _ w _
  =>
  f2 _ rfl w rfl
theorem ffma (h : Hdr) (rm : RmCode) (x sat : Bool) (d a b c : FReg) : Statement (.ffma h rm x sat d a b c) := by
  intro kd ok _
  simp only [WellFormed, Bool.and_eq_true, beq_iff_eq] at ok
  obtain ⟨ok, rfl⟩ := ok
  exact accept 0x90#8 h (hdr_of h ..) rfl (by decide) (by decide) (by decide) rfl (by exact ok) (.inl rfl) rfl rfl
    rfl rfl (x_zero _) (rest_mk rfl rfl (rm_any rm) rfl rfl rfl) rfl (.inl rfl)
    (by simp only [Hdr.fields, sreg_encS, spair_encSP, preg_encP, mreg_encM, creg_encC, encB_one, ofCode_encRm, fmt_ofCode, fmt_code_toNat, target_encT, encF])
theorem fdiv (h : Hdr) (rm : RmCode) (x sat : Bool) (d a b : FReg) : Statement (.fdiv h rm x sat d a b) := fun _ w _
  =>
  f2 _ rfl w rfl
theorem fsqrt (h : Hdr) (rm : RmCode) (x sat : Bool) (d a : FReg) : Statement (.fsqrt h rm x sat d a) := fun _ w _
  =>
  f1 w rfl
theorem fabs (h : Hdr) (rm : RmCode) (x sat : Bool) (d a : FReg) : Statement (.fabs h rm x sat d a) := fun _ w _ =>
  f1 w rfl
theorem fneg (h : Hdr) (rm : RmCode) (x sat : Bool) (d a : FReg) : Statement (.fneg h rm x sat d a) := fun _ w _ =>
  f1 w rfl
theorem fmov (h : Hdr) (rm : RmCode) (x sat : Bool) (d a : FReg) : Statement (.fmov h rm x sat d a) := fun _ w _ =>
  f1 w rfl
theorem fround (h : Hdr) (rm : RmCode) (x sat : Bool) (d a : FReg) : Statement (.fround h rm x sat d a) := fun _ w _
  =>
  f1 w rfl
theorem fscalb (h : Hdr) (rm : RmCode) (x sat : Bool) (d a : FReg) (b : SReg) : Statement (.fscalb h rm x sat d a b)
  := by
  intro kd ok _
  simp only [WellFormed, Bool.and_eq_true, beq_iff_eq] at ok
  obtain ⟨ok, rfl⟩ := ok
  exact accept 0x90#8 h (hdr_of h ..) rfl (by decide) (by decide) (by decide) rfl (by exact ok) (.inl rfl) rfl rfl
    rfl rfl (x_zero _) (rest_mk rfl rfl (rm_any rm) rfl rfl rfl) rfl (.inl rfl)
    (by simp only [Hdr.fields, sreg_encS, spair_encSP, preg_encP, mreg_encM, creg_encC, encB_one, ofCode_encRm, fmt_ofCode, fmt_code_toNat, target_encT, encF])
theorem fcmp (h : Hdr) (c : FCond) (d : PReg) (a b : FReg) : Statement (.fcmp h c d a b) := by
  intro kd ok _
  simp only [WellFormed, Bool.and_eq_true, beq_iff_eq] at ok
  obtain ⟨ok, rfl⟩ := ok
  cases c <;> exact accept 0x91#8 h (hdr_of h ..) rfl (by decide) (by decide) (by decide) rfl (by exact ok)
    (.inl rfl) (fits_p _) rfl rfl rfl (x_zero _) rfl rfl (.inl rfl)
    (by simp only [Hdr.fields, sreg_encS, spair_encSP, preg_encP, mreg_encM, creg_encC, encB_one, ofCode_encRm, fmt_ofCode, fmt_code_toNat, target_encT]; rfl)
theorem fcvtd (h : Hdr) (rm : RmCode) (x sat : Bool) (d : FReg) (a : SPair) : Statement (.fcvtd h rm x sat d a) :=
  by
  intro kd ok _
  simp only [WellFormed, Bool.and_eq_true, beq_iff_eq] at ok
  obtain ⟨ok, rfl⟩ := ok
  exact accept 0x92#8 h (hdr_of h ..) rfl (by decide) (by decide) (by decide) rfl (by exact ok) (.inl rfl) rfl
    (fits_sp _) rfl rfl (x_zero _) (rest_mk rfl rfl (rm_any rm) rfl rfl rfl) rfl (.inl rfl)
    (by simp only [Hdr.fields, sreg_encS, spair_encSP, preg_encP, mreg_encM, creg_encC, encB_one, ofCode_encRm, fmt_ofCode, fmt_code_toNat, target_encT, encF])
theorem fcvts (h : Hdr) (rm : RmCode) (x sat : Bool) (d : FReg) (a : IntReg) : Statement (.fcvts h rm x sat d a) :=
  by
  intro kd ok _
  simp only [WellFormed, Bool.and_eq_true, beq_iff_eq] at ok
  obtain ⟨ok, rfl⟩ := ok
  cases a with
  | w32 a =>
    exact accept 0x92#8 h (hdr_of h ..) rfl (by decide) (by decide) (by decide) rfl (by exact ok) (.inl rfl) rfl rfl
      rfl rfl (x_zero _) (rest_mk rfl rfl (rm_any rm) rfl rfl rfl) rfl (.inl rfl)
      (by simp only [Hdr.fields, sreg_encS, spair_encSP, preg_encP, mreg_encM, creg_encC, encB_one, ofCode_encRm, fmt_ofCode, fmt_code_toNat, target_encT, encF, lo_not_i, if_false])
  | w64 a =>
    exact accept 0x92#8 h (hdr_of h ..) rfl (by decide) (by decide) (by decide) rfl (by exact ok) (.inl rfl) rfl
      (fits_sp _) rfl rfl (x_zero _) (rest_mk rfl rfl (rm_any rm) rfl rfl rfl) rfl (.inl rfl)
      (by simp only [Hdr.fields, sreg_encS, spair_encSP, preg_encP, mreg_encM, creg_encC, encB_one, ofCode_encRm, fmt_ofCode, fmt_code_toNat, target_encT, encF, if_true])
theorem ftod (h : Hdr) (rm : RmCode) (x sat : Bool) (d : SPair) (a : FReg) : Statement (.ftod h rm x sat d a) := by
  intro kd ok _
  simp only [WellFormed, Bool.and_eq_true, beq_iff_eq] at ok
  obtain ⟨ok, rfl⟩ := ok
  exact accept 0x92#8 h (hdr_of h ..) rfl (by decide) (by decide) (by decide) rfl (by exact ok) (.inl rfl)
    (fits_sp _) rfl rfl rfl (x_zero _) (rest_mk rfl rfl (rm_any rm) rfl rfl rfl) rfl (.inl rfl)
    (by simp only [Hdr.fields, sreg_encS, spair_encSP, preg_encP, mreg_encM, creg_encC, encB_one, ofCode_encRm, fmt_ofCode, fmt_code_toNat, target_encT, encF])
theorem ftos (h : Hdr) (rm : RmCode) (x : Bool) (d : IntReg) (a : FReg) : Statement (.ftos h rm x d a) := by
  intro kd ok _
  simp only [WellFormed, Bool.and_eq_true, beq_iff_eq] at ok
  obtain ⟨ok, rfl⟩ := ok
  cases d with
  | w32 d =>
    exact accept 0x92#8 h (hdr_of h ..) rfl (by decide) (by decide) (by decide) rfl (by exact ok) (.inl rfl) rfl rfl
      rfl rfl (x_zero _) (rest_mk rfl rfl (rm_any rm) rfl rfl rfl) rfl (.inl rfl)
      (by simp only [Hdr.fields, sreg_encS, spair_encSP, preg_encP, mreg_encM, creg_encC, encB_one, ofCode_encRm, fmt_ofCode, fmt_code_toNat, target_encT, encF, lo_not_i, if_false])
  | w64 d =>
    exact accept 0x92#8 h (hdr_of h ..) rfl (by decide) (by decide) (by decide) rfl (by exact ok) (.inl rfl)
      (fits_sp _) rfl rfl rfl (x_zero _) (rest_mk rfl rfl (rm_any rm) rfl rfl rfl) rfl (.inl rfl)
      (by simp only [Hdr.fields, sreg_encS, spair_encSP, preg_encP, mreg_encM, creg_encC, encB_one, ofCode_encRm, fmt_ofCode, fmt_code_toNat, target_encT, encF, if_true])
theorem faccv (h : Hdr) (rm : RmCode) (x sat : Bool) (d a : FReg) (b : VReg) : Statement (.faccv h rm x sat d a b)
  := by
  intro kd ok _
  simp only [WellFormed, Bool.and_eq_true, beq_iff_eq] at ok
  obtain ⟨ok, rfl⟩ := ok
  exact accept 0x92#8 h (hdr_of h ..) rfl (by decide) (by decide) (by decide) rfl (by exact ok) (.inl rfl) rfl rfl
    rfl rfl (x_zero _) (rest_mk rfl rfl (rm_any rm) rfl rfl rfl) rfl (.inl rfl)
    (by simp only [Hdr.fields, sreg_encS, spair_encSP, preg_encP, mreg_encM, creg_encC, encB_one, ofCode_encRm, fmt_ofCode, fmt_code_toNat, target_encT, encF])
theorem fprec (h : Hdr) (p : PrecSrc) : Statement (.fprec h p) := by
  intro kd ok _
  exact fprec_back ok
theorem fldc (h : Hdr) (rm : RmCode) (x sat : Bool) (d : FReg) (src : LdcSrc) : Statement (.fldc h rm x sat d src)
  := by
  intro kd ok _
  exact fldc_back ok
theorem frel (h : Hdr) (d : FReg) (upto : Option FReg) : Statement (.frel h d upto) := by
  intro kd ok _
  exact frel_back ok
theorem flen (h : Hdr) (d : SReg) (a : FReg) : Statement (.flen h d a) := by
  intro kd ok _
  simp only [WellFormed, Bool.and_eq_true, beq_iff_eq] at ok
  obtain ⟨ok, rfl⟩ := ok
  exact accept 0x93#8 h (hdr_of h ..) rfl (by decide) (by decide) (by decide) rfl (by exact ok) (.inl rfl) rfl rfl
    rfl rfl (x_zero _) rfl rfl (.inl rfl) rfl
theorem fexp (h : Hdr) (d : SReg) (a : FReg) : Statement (.fexp h d a) := by
  intro kd ok _
  simp only [WellFormed, Bool.and_eq_true, beq_iff_eq] at ok
  obtain ⟨ok, rfl⟩ := ok
  exact accept 0x93#8 h (hdr_of h ..) rfl (by decide) (by decide) (by decide) rfl (by exact ok) (.inl rfl) rfl rfl
    rfl rfl (x_zero _) rfl rfl (.inl rfl) rfl
theorem mgang (h : Hdr) (shape : GangShape) (d : CReg) (a : MReg) (b c : SReg) : Statement (.mgang h shape d a b c)
  := by
  intro kd ok _
  exact mgang_back ok
theorem mdesc (h : Hdr) (a : SPair) (imm : Imm) : Statement (.mdesc h a imm) := by
  intro kd ok _
  simp only [WellFormed, Bool.and_eq_true, beq_iff_eq] at ok
  obtain ⟨ok, rfl⟩ := ok
  exact accept 0xA1#8 h (hdr_of h ..) rfl (by decide) (by decide) (by decide) rfl (by exact ok) (.inl rfl) rfl
    (fits_sp _) rfl rfl (x_zero _) rfl rfl (.inl rfl)
    (congrArg (fun z => some (Instr.mdesc h z imm)) (spair_encSP a))
theorem mzero (h : Hdr) (fp64 : Bool) (d : CReg) : Statement (.mzero h fp64 d) := by
  intro kd ok _
  simp only [WellFormed, Bool.and_eq_true, beq_iff_eq] at ok
  obtain ⟨ok, rfl⟩ := ok
  exact accept 0xA2#8 h (hdr_of h ..) rfl (by decide) (by decide) (by decide) rfl (by exact ok) (.inl rfl)
    (fits_c _) rfl rfl rfl (x_zeroFmt fp64) (rest_mk rfl (zero_ok fp64) rfl rfl rfl rfl) rfl (.inl rfl)
    (congrArg₂ (fun y z => some (Instr.mzero h y z)) (zero_is fp64) (creg_encC d))
theorem mdrain (h : Hdr) (rm : RmCode) (sat : Bool) (shape : DrainShape) (a : SPair) (b : SReg) (c : CReg)
  (imm : Imm) : Statement (.mdrain h rm sat shape a b c imm) := by
  intro kd ok _
  exact mdrain_back ok
theorem mmeta (h : Hdr) (a : SPair) (imm : Imm) : Statement (.mmeta h a imm) := by
  intro kd ok _
  simp only [WellFormed, Bool.and_eq_true, beq_iff_eq] at ok
  obtain ⟨ok, rfl⟩ := ok
  exact accept 0xA4#8 h (hdr_of h ..) rfl (by decide) (by decide) (by decide) rfl (by exact ok) (.inl rfl) rfl
    (fits_sp _) rfl rfl (x_zero _) rfl rfl (.inl rfl)
    (congrArg (fun z => some (Instr.mmeta h z imm)) (spair_encSP a))
theorem mscl (h : Hdr) (bset : Bool) (a : SPair) (imm : Imm) : Statement (.mscl h bset a imm) := by
  intro kd ok _
  simp only [WellFormed, Bool.and_eq_true, beq_iff_eq] at ok
  obtain ⟨ok, rfl⟩ := ok
  exact accept 0xA5#8 h (hdr_of h ..) rfl (by decide) (by decide) (by decide) rfl (by exact ok) (.inl rfl) rfl
    (fits_sp _) rfl rfl (x_zero _) (rest_mk rfl rfl rfl rfl rfl (bit_lo bset)) rfl (.inl rfl)
    (congrArg₂ (fun y z => some (Instr.mscl h y z imm)) (bit_back bset) (spair_encSP a))
theorem mrowrd (h : Hdr) (half : Bool) (d : VReg) (a : MReg) (row : Fin 32) : Statement (.mrowrd h half d a row) :=
  by
  intro kd ok _
  simp only [WellFormed, Bool.and_eq_true, beq_iff_eq] at ok
  obtain ⟨ok, rfl⟩ := ok
  exact accept 0xA6#8 h (hdr_of h ..) rfl (by decide) (by decide) (by decide) rfl (by exact ok) (.inl rfl) rfl
    (fits_m _) rfl rfl (x_row row) (rest_mk rfl rfl rfl rfl rfl (bit_lo half)) rfl (.inl rfl)
    (congr3 (fun x y z => some (Instr.mrowrd h x d y z)) (bit_back half) (mreg_encM a) (row_back row))
theorem mrowwr (h : Hdr) (half : Bool) (d : MReg) (a : VReg) (row : Fin 32) : Statement (.mrowwr h half d a row) :=
  by
  intro kd ok _
  simp only [WellFormed, Bool.and_eq_true, beq_iff_eq] at ok
  obtain ⟨ok, rfl⟩ := ok
  exact accept 0xA7#8 h (hdr_of h ..) rfl (by decide) (by decide) (by decide) rfl (by exact ok) (.inl rfl)
    (fits_m _) rfl rfl rfl (x_row row) (rest_mk rfl rfl rfl rfl rfl (bit_lo half)) rfl (.inl rfl)
    (congr3 (fun x y z => some (Instr.mrowwr h x y a z)) (bit_back half) (mreg_encM d) (row_back row))
theorem mcolrd (h : Hdr) (w : ColWidth) (d : VReg) (a : MReg) (j : Fin 128) (q : Fin 8) : Statement
  (.mcolrd h w d a j q) := by
  intro kd ok _
  exact mcolrd_back ok
theorem mcolwr (h : Hdr) (w : ColWidth) (d : MReg) (a : VReg) (j : Fin 128) (q : Fin 8) : Statement
  (.mcolwr h w d a j q) := by
  intro kd ok _
  exact mcolwr_back ok
theorem jointJoin (x y nlog : Nat) : Statement (.jointJoin x y nlog) := event rfl
theorem jointOpComplete (x y : Nat) : Statement (.jointOpComplete x y) := event rfl
theorem gld (h : Hdr) (fmt : Fmt) (dst : GldDst) (a : SPair) (c : Fin 32) (imm : Imm) : Statement
  (.gld h fmt dst a c imm) := by
  intro kd ok _
  exact gld_back ok
theorem gst (h : Hdr) (fmt : Fmt) (src : GstSrc) (a : SPair) (c : Fin 32) (imm : Imm) : Statement
  (.gst h fmt src a c imm) := by
  intro kd ok _
  exact gst_back ok
theorem gatom (h : Hdr) (op : BankOp) (el : Elem) (d : Option SReg) (a : SPair) (b : SReg) (c : Fin 32) (imm : Imm)
  : Statement (.gatom h op el d a b c imm) := by
  intro kd ok _
  exact gatom_back ok
theorem gfence (h : Hdr) (sc : Scope) : Statement (.gfence h sc) := by
  intro kd ok _
  simp only [WellFormed, Bool.and_eq_true, beq_iff_eq] at ok
  obtain ⟨ok, rfl⟩ := ok
  cases sc <;> exact accept 0xB3#8 h (hdr_of h ..) rfl (by decide) (by decide) (by decide) rfl (by exact ok)
    (.inl rfl) rfl rfl rfl rfl (x_zero _) rfl rfl (.inl rfl) rfl
theorem gacq (h : Hdr) (wide : Bool) (sc : Scope) (fmt : Fmt) (d : SReg) (a : SPair) (c : Fin 32) (imm : Imm) :
  Statement (.gacq h wide sc fmt d a c imm) := by
  intro kd ok _
  exact gacq_back ok
theorem grel (h : Hdr) (wide : Bool) (sc : Scope) (fmt : Fmt) (a : SPair) (b : SReg) (c : Fin 32) (imm : Imm) :
  Statement (.grel h wide sc fmt a b c imm) := by
  intro kd ok _
  exact grel_back ok
theorem push (h : Hdr) (f : PushForm) (a : SPair) (imm : Imm) (n : BitVec 13) : Statement (.push h f a imm n) := by
  intro kd ok _
  exact push_back ok
theorem dpat (h : Hdr) (a : SPair) (imm : Imm) : Statement (.dpat h a imm) := by
  intro kd ok _
  simp only [WellFormed, Bool.and_eq_true, beq_iff_eq] at ok
  obtain ⟨ok, rfl⟩ := ok
  exact accept 0xB7#8 h (hdr_of h ..) rfl (by decide) (by decide) (by decide) rfl (by exact ok) (.inl rfl) rfl
    (fits_sp _) rfl rfl (x_zero _) rfl rfl (.inl rfl)
    (by simp only [Hdr.fields, sreg_encS, spair_encSP, preg_encP, mreg_encM, creg_encC, encB_one, ofCode_encRm, fmt_ofCode, fmt_code_toNat, target_encT])
theorem gref (h : Hdr) (f : GrefField) (d : SReg) (c : Fin 32) : Statement (.gref h f d c) := by
  intro kd ok _
  exact gref_back ok
theorem globalResponse (core : CoreId) (t id : Nat) : Statement (.globalResponse core t id) := event rfl
theorem blockLoadComplete (core : CoreId) (t number : Nat) : Statement (.blockLoadComplete core t number) := event
  rfl
theorem cpypost (h : Hdr) (d : SPair) (a : SPair) (imm : Imm) : Statement (.cpypost h d a imm) := fun kd ok _ =>
  accept 0xC0#8 h (hdr_of h ..) rfl (by decide) (by decide) (by decide) rfl (by exact ok) (.inl rfl) (fits_sp _)
    (fits_sp _) rfl rfl (x_zero _) rfl (anyKind _) (.inl rfl)
    (by simp only [Hdr.fields, sreg_encS, spair_encSP, preg_encP, mreg_encM, creg_encC, encB_one, ofCode_encRm, fmt_ofCode, fmt_code_toNat, target_encT])
theorem ovlpost (h : Hdr) (d : SPair) (a : SPair) (imm : Imm) : Statement (.ovlpost h d a imm) := fun kd ok _ =>
  accept 0xC1#8 h (hdr_of h ..) rfl (by decide) (by decide) (by decide) rfl (by exact ok) (.inl rfl) (fits_sp _)
    (fits_sp _) rfl rfl (x_zero _) rfl (anyKind _) (.inl rfl)
    (by simp only [Hdr.fields, sreg_encS, spair_encSP, preg_encP, mreg_encM, creg_encC, encB_one, ofCode_encRm, fmt_ofCode, fmt_code_toNat, target_encT])
theorem nwpost (h : Hdr) (d : SPair) (a : SPair) (imm : Imm) : Statement (.nwpost h d a imm) := fun kd ok _ =>
  accept 0xC2#8 h (hdr_of h ..) rfl (by decide) (by decide) (by decide) rfl (by exact ok) (.inl rfl) (fits_sp _)
    (fits_sp _) rfl rfl (x_zero _) rfl (anyKind _) (.inl rfl)
    (by simp only [Hdr.fields, sreg_encS, spair_encSP, preg_encP, mreg_encM, creg_encC, encB_one, ofCode_encRm, fmt_ofCode, fmt_code_toNat, target_encT])
theorem qpost (h : Hdr) (d : SReg) (a : SPair) (b : SReg) (imm : Imm) : Statement (.qpost h d a b imm) := fun kd ok
  _ =>
  accept 0xC3#8 h (hdr_of h ..) rfl (by decide) (by decide) (by decide) rfl (by exact ok) (.inl rfl) rfl (fits_sp _)
    rfl rfl (x_zero _) rfl (anyKind _) (.inl rfl)
    (by simp only [Hdr.fields, sreg_encS, spair_encSP, preg_encP, mreg_encM, creg_encC, encB_one, ofCode_encRm, fmt_ofCode, fmt_code_toNat, target_encT])
theorem tscore (h : Hdr) (a : SPair) : Statement (.tscore h a) := by
  intro kd ok _
  simp only [WellFormed, Bool.and_eq_true, beq_iff_eq] at ok
  obtain ⟨ok, rfl⟩ := ok
  exact accept 0xC8#8 h (hdr_of h ..) rfl (by decide) (by decide) (by decide) rfl (by exact ok) (.inl rfl) rfl
    (fits_sp _) rfl rfl (x_zero _) rfl rfl (.inl rfl)
    (by simp only [Hdr.fields, sreg_encS, spair_encSP, preg_encP, mreg_encM, creg_encC, encB_one, ofCode_encRm, fmt_ofCode, fmt_code_toNat, target_encT])
theorem tdone (h : Hdr) (final : Bool) : Statement (.tdone h final) := by
  intro kd ok _
  simp only [WellFormed, Bool.and_eq_true, beq_iff_eq] at ok
  obtain ⟨ok, rfl⟩ := ok
  cases final <;> exact accept 0xC9#8 h (hdr_of h ..) rfl (by decide) (by decide) (by decide) rfl (by exact ok)
    (.inl rfl) rfl rfl rfl rfl (x_zero _) rfl rfl (.inl rfl) rfl
theorem tround (h : Hdr) (d : SReg) : Statement (.tround h d) := by
  intro kd ok _
  simp only [WellFormed, Bool.and_eq_true, beq_iff_eq] at ok
  obtain ⟨ok, rfl⟩ := ok
  exact accept 0xCA#8 h (hdr_of h ..) rfl (by decide) (by decide) (by decide) rfl (by exact ok) (.inl rfl) rfl rfl
    rfl rfl (x_zero _) rfl rfl (.inl rfl) rfl
theorem packetArrival (id : Nat) : Statement (.packetArrival id) := event rfl
theorem refusalReturn (id : Nat) : Statement (.refusalReturn id) := event rfl
theorem scoreArrival (id : Nat) : Statement (.scoreArrival id) := event rfl
theorem joinPacket (id : Nat) : Statement (.joinPacket id) := event rfl
theorem coreArrival (x y : Nat) : Statement (.coreArrival x y) := event rfl
theorem barrierToken (gang x y : Nat) (column : Bool) : Statement (.barrierToken gang x y column) := event rfl
theorem memoryTaskArrival (stack chan slot : Nat) : Statement (.memoryTaskArrival stack chan slot) := event rfl
theorem barrierComplete (gang : Nat) : Statement (.barrierComplete gang) := event rfl
theorem barrierRelease (gang : Nat) (core : CoreId) (slot : Nat) : Statement (.barrierRelease gang core slot) :=
  event rfl
theorem commitEntryDrain (stack chan id : Nat) : Statement (.commitEntryDrain stack chan id) := event rfl
theorem retirementSweep (gang : Nat) : Statement (.retirementSweep gang) := event rfl
theorem taskFrameLoad (stack chan slot t : Nat) : Statement (.taskFrameLoad stack chan slot t) := event rfl
theorem pageSupplied (waiter : PageWaiter) (frame : Nat) (bytes : List Byte) : Statement
  (.pageSupplied waiter frame bytes) := event rfl
theorem demandFetch (core : CoreId) (line : Nat) : Statement (.demandFetch core line) := event rfl
theorem superstepRollback (gang : Nat) : Statement (.superstepRollback gang) := event rfl
theorem watchdog (gang : Nat) : Statement (.watchdog gang) := event rfl
theorem allowanceExhausted (gang : Nat) : Statement (.allowanceExhausted gang) := event rfl
theorem roundEnd (tour : Nat) : Statement (.roundEnd tour) := event rfl
theorem doorbellTailUpdate (fn off : Nat) (d : BarWrite) : Statement (.doorbellTailUpdate fn off d) := event rfl
theorem resume (ctx q : Nat) : Statement (.resume ctx q) := event rfl
theorem flush (ctx q : Nat) : Statement (.flush ctx q) := event rfl
theorem quiesce (ctx q : Nat) : Statement (.quiesce ctx q) := event rfl
theorem unquiesce (ctx q : Nat) : Statement (.unquiesce ctx q) := event rfl
theorem launchRecord (ctx q : Nat) : Statement (.launchRecord ctx q) := event rfl
theorem gangReserve (ctx q : Nat) : Statement (.gangReserve ctx q) := event rfl
theorem gangStart (gang : Nat) (ok : Bool) : Statement (.gangStart gang ok) := event rfl
theorem tlwaitRecord (ctx q : Nat) : Statement (.tlwaitRecord ctx q) := event rfl
theorem tlwaitRecordComplete (ctx q : Nat) : Statement (.tlwaitRecordComplete ctx q) := event rfl
theorem tlsignal (ctx q : Nat) : Statement (.tlsignal ctx q) := event rfl
theorem copyRecord (ctx q : Nat) : Statement (.copyRecord ctx q) := event rfl
theorem cond (ctx q : Nat) : Statement (.cond ctx q) := event rfl
theorem loopRecord (ctx q : Nat) : Statement (.loopRecord ctx q) := event rfl
theorem copyComplete (id : Nat) (e : CopyEnd) : Statement (.copyComplete id e) := event rfl
theorem overlayLoadComplete (id : Nat) : Statement (.overlayLoadComplete id) := event rfl
theorem networkPacketArrival (ctx : Nat) (p : NetPacketIn) : Statement (.networkPacketArrival ctx p) := event rfl
theorem networkAck (ctx number : Nat) : Statement (.networkAck ctx number) := event rfl
theorem sackReceived (ctx number : Nat) (missing : List Nat) : Statement (.sackReceived ctx number missing) := event
  rfl
theorem negativeAck (ctx number err : Nat) : Statement (.negativeAck ctx number err) := event rfl
theorem retransmitTimeout (ctx number seq : Nat) : Statement (.retransmitTimeout ctx number seq) := event rfl
theorem apertureAccess (fn addr len : Nat) (data : Option (List Byte)) : Statement
  (.apertureAccess fn addr len data) := event rfl
theorem configAccess (fn : Nat) (r : HostRead) : Statement (.configAccess fn r) := event rfl
theorem install (ctx : Nat) (object : List Byte) (test : Bool) : Statement (.install ctx object test) := event rfl
theorem uninstall (ctx handle : Nat) : Statement (.uninstall ctx handle) := event rfl
theorem rebuildRequest (ctx handle : Nat) : Statement (.rebuildRequest ctx handle) := event rfl
theorem buildStart (ctx handle : Nat) : Statement (.buildStart ctx handle) := event rfl
theorem buildComplete (ctx handle bodyLen : Nat) : Statement (.buildComplete ctx handle bodyLen) := event rfl
theorem createContext (ctx fn counters : Nat) (injection : Bool) : Statement
  (.createContext ctx fn counters injection) := event rfl
theorem regionEdit (handle : Nat) (node : List Byte) : Statement (.regionEdit handle node) := event rfl
theorem queueCreate (ctx q ring log2n : Nat) (prod : Bool) (group : Nat) : Statement
  (.queueCreate ctx q ring log2n prod group) := event rfl
theorem map (ctx gva level pa kind rmask : Nat) (r w : Bool) : Statement (.map ctx gva level pa kind rmask r w) :=
  event rfl
theorem unmap (ctx gva level : Nat) : Statement (.unmap ctx gva level) := event rfl
theorem setKind (ctx gva kind rmask : Nat) : Statement (.setKind ctx gva kind rmask) := event rfl
theorem migrate (ctx gva : Nat) : Statement (.migrate ctx gva) := event rfl
theorem migrationSwitch (ctx gva pa : Nat) : Statement (.migrationSwitch ctx gva pa) := event rfl
theorem pageEviction (ctx : Nat) (gvas : List Nat) : Statement (.pageEviction ctx gvas) := event rfl
theorem peerTableSet (ctx index addr port target : Nat) (own : Bool) : Statement
  (.peerTableSet ctx index addr port target own) := event rfl
theorem remoteBufferRegister (ctx rkey : Nat) (k : RemoteKind) : Statement (.remoteBufferRegister ctx rkey k) :=
  event rfl
theorem apertureMap (fn off ctx gva len : Nat) : Statement (.apertureMap fn off ctx gva len) := event rfl
theorem errorInject (ctx : Nat) (record : List Byte) : Statement (.errorInject ctx record) := event rfl
theorem debugRead (item : DebugItem) : Statement (.debugRead item) := event rfl
theorem debugResume (core : CoreId) (t : Nat) : Statement (.debugResume core t) := event rfl
theorem checkpointGroupCreate (group devices self ctx area areaLen : Nat) : Statement
  (.checkpointGroupCreate group devices self ctx area areaLen) := event rfl
theorem checkpointWrite (group step : Nat) (buffers : List (Nat × Nat)) (longest : Nat) (peers : PeerShards) :
    Statement (.checkpointWrite group step buffers longest peers) := event rfl
theorem checkpointManifest (group step : Nat) (entries : List Byte) : Statement
  (.checkpointManifest group step entries) := event rfl
theorem checkpointRestore (group step : Nat) (answering : List (List Nat)) (manifest : List Byte)
  (buffers : List (Nat × Nat)) (peerShards : List (Nat × Nat × List Byte)) : Statement
  (.checkpointRestore group step answering manifest buffers peerShards) := event rfl
theorem coldstart (failStep : Nat) (fenced : List CoreId) : Statement (.coldstart failStep fenced) := event rfl
theorem warmstart (failStep : Nat) (fenced : List CoreId) : Statement (.warmstart failStep fenced) := event rfl
theorem fwstage (image : List Byte) : Statement (.fwstage image) := event rfl
theorem activate : Statement .activate := event rfl
theorem attest (nonce : List Byte) : Statement (.attest nonce) := event rfl
theorem powercap (watts : Nat) : Statement (.powercap watts) := event rfl
theorem throttleStep : Statement .throttleStep := event rfl
theorem thermalTrip : Statement .thermalTrip := event rfl
theorem uncorrectableEccError (u : EccUnit) : Statement (.uncorrectableEccError u) := event rfl
theorem engineSourceRead (ctx : Nat) (p : PostRead) : Statement (.engineSourceRead ctx p) := event rfl

end Sys2Proof.Laws.RoundTrip
end

