-- ==== Sys2Proof/Laws/State.lean ====
section
/-! SUPPORT. What each update of the state leaves alone, field by field, and what it gives back. -/
set_option Elab.async false
namespace Sys2Proof.Machine

section Tables

@[simp] theorem Table.find_put_same (t : Table α) (k : Nat) (v : α) : (t.put k v).find k = some v := by
  induction t with
  | nil => simp [Table.put, Table.find]
  | cons e r ih =>
    simp only [Table.put]
    split
    · simp [Table.find]
    · split
      · simp [Table.find]
      · rename_i h
        simp [Table.find, Ne.symm h, ih]

@[simp] theorem Table.put_put (t : Table α) (k : Nat) (u v : α) : (t.put k u).put k v = t.put k v := by
  induction t with
  | nil => simp [Table.put]
  | cons e r ih =>
    by_cases h1 : k < e.1
    · simp [Table.put, h1]
    · by_cases h2 : k = e.1 <;> simp [Table.put, h1, h2, ih]

theorem Table.find_put_other (t : Table α) (k j : Nat) (v : α) (h : j ≠ k) : (t.put k v).find j = t.find j := by
  induction t with
  | nil => simp [Table.put, Table.find, Ne.symm h]
  | cons e r ih =>
    simp only [Table.put]
    split
    · simp [Table.find, Ne.symm h]
    · split
      · rename_i hk
        simp [Table.find, ← hk, Ne.symm h]
      · simp [Table.find, ih]

end Tables

section Cores

/-- Two cores share an entry of their table only where they are of one kind and have one key. -/
def CoreId.apart (c d : CoreId) : Prop := c.kind ≠ d.kind ∨ c.key ≠ d.key

@[simp] theorem State.core_setCore_same (s : State) (c : CoreId) (k : Core) : (s.setCore c k).core c = k := by
  cases c <;> simp [State.setCore, State.core]

@[simp] theorem State.setCore_setCore (s : State) (c : CoreId) (k m : Core) : (s.setCore c k).setCore c m = s.setCore c m := by
  cases c <;> simp [State.setCore]

theorem State.core_setCore_other (s : State) (c d : CoreId) (k : Core) (h : CoreId.apart d c) :
    (s.setCore c k).core d = s.core d := by
  cases c <;> cases d <;> simp_all [CoreId.apart, CoreId.kind, CoreId.key, State.setCore, State.core, Table.find_put_other]

@[simp] theorem State.core_modCore_same (s : State) (c : CoreId) (g : Core → Core) :
    (s.modCore c g).core c = g (s.core c) := by
  simp [State.modCore]

theorem State.core_modCore_other (s : State) (c d : CoreId) (g : Core → Core) (h : CoreId.apart d c) :
    (s.modCore c g).core d = s.core d :=
  s.core_setCore_other c d _ h

@[simp] theorem State.ts_setTs_same (s : State) (w : Who) (t : ThreadSet) : (s.setTs w t).ts w = t := by
  simp [State.setTs, State.ts]

theorem State.ts_setTs_mate (s : State) (w v : Who) (t : ThreadSet) (hc : v.core = w.core) (ht : v.t ≠ w.t) :
    (s.setTs w t).ts v = s.ts v := by
  simp only [State.setTs, State.ts, hc, State.core_modCore_same]
  exact Vector.getElem_set_ne _ _ (fun e => ht (Fin.ext e.symm))

theorem State.ts_setTs_other (s : State) (w v : Who) (t : ThreadSet) (h : CoreId.apart v.core w.core) :
    (s.setTs w t).ts v = s.ts v := by
  simp [State.setTs, State.ts, State.core_modCore_other _ _ _ _ h]

@[simp] theorem State.core_setTs_same (s : State) (w : Who) (t : ThreadSet) :
    (s.setTs w t).core w.core = { s.core w.core with ts := (s.core w.core).ts.set w.t t } := by
  simp [State.setTs]

@[simp] theorem State.setTs_setTs (s : State) (w : Who) (t u : ThreadSet) : (s.setTs w t).setTs w u = s.setTs w u := by
  simp [State.setTs, State.modCore]

@[simp] theorem State.modTs_eq (s : State) (w : Who) (g : ThreadSet → ThreadSet) :
    s.modTs w g = s.setTs w (g (s.ts w)) := rfl

end Cores

section SetCore

variable (s : State) (c : CoreId) (k : Core)

@[simp] theorem State.setCore_agenda : (s.setCore c k).agenda = s.agenda := by cases c <;> rfl
@[simp] theorem State.setCore_turn : (s.setCore c k).turn = s.turn := by cases c <;> rfl
@[simp] theorem State.setCore_who : (s.setCore c k).who = s.who := by cases c <;> rfl
@[simp] theorem State.setCore_now : (s.setCore c k).now = s.now := by cases c <;> rfl
@[simp] theorem State.setCore_tick : (s.setCore c k).tick = s.tick := by cases c <;> rfl
@[simp] theorem State.setCore_nextId : (s.setCore c k).nextId = s.nextId := by cases c <;> rfl
@[simp] theorem State.setCore_evt : (s.setCore c k).evt = s.evt := by cases c <;> rfl
@[simp] theorem State.setCore_gangs : (s.setCore c k).gangs = s.gangs := by cases c <;> rfl
@[simp] theorem State.setCore_tours : (s.setCore c k).tours = s.tours := by cases c <;> rfl
@[simp] theorem State.setCore_contexts : (s.setCore c k).contexts = s.contexts := by cases c <;> rfl
@[simp] theorem State.setCore_regions : (s.setCore c k).regions = s.regions := by cases c <;> rfl
@[simp] theorem State.setCore_packets : (s.setCore c k).packets = s.packets := by cases c <;> rfl
@[simp] theorem State.setCore_refusals : (s.setCore c k).refusals = s.refusals := by cases c <;> rfl
@[simp] theorem State.setCore_scores : (s.setCore c k).scores = s.scores := by cases c <;> rfl
@[simp] theorem State.setCore_joins : (s.setCore c k).joins = s.joins := by cases c <;> rfl
@[simp] theorem State.setCore_routers : (s.setCore c k).routers = s.routers := by cases c <;> rfl
@[simp] theorem State.setCore_copies : (s.setCore c k).copies = s.copies := by cases c <;> rfl
@[simp] theorem State.setCore_overlays : (s.setCore c k).overlays = s.overlays := by cases c <;> rfl
@[simp] theorem State.setCore_qposts : (s.setCore c k).qposts = s.qposts := by cases c <;> rfl
@[simp] theorem State.setCore_deferred : (s.setCore c k).deferred = s.deferred := by cases c <;> rfl
@[simp] theorem State.setCore_wire : (s.setCore c k).wire = s.wire := by cases c <;> rfl
@[simp] theorem State.setCore_hbm : (s.setCore c k).hbm = s.hbm := by cases c <;> rfl
@[simp] theorem State.setCore_hbmPoison : (s.setCore c k).hbmPoison = s.hbmPoison := by cases c <;> rfl
@[simp] theorem State.setCore_hbmLost : (s.setCore c k).hbmLost = s.hbmLost := by cases c <;> rfl
@[simp] theorem State.setCore_poisonRecords : (s.setCore c k).poisonRecords = s.poisonRecords := by cases c <;> rfl
@[simp] theorem State.setCore_eccSeen : (s.setCore c k).eccSeen = s.eccSeen := by cases c <;> rfl
@[simp] theorem State.setCore_remaps : (s.setCore c k).remaps = s.remaps := by cases c <;> rfl
@[simp] theorem State.setCore_retiredFrames : (s.setCore c k).retiredFrames = s.retiredFrames := by cases c <;> rfl
@[simp] theorem State.setCore_flashRemaps : (s.setCore c k).flashRemaps = s.flashRemaps := by cases c <;> rfl
@[simp] theorem State.setCore_flashRetired : (s.setCore c k).flashRetired = s.flashRetired := by cases c <;> rfl
@[simp] theorem State.setCore_apertures : (s.setCore c k).apertures = s.apertures := by cases c <;> rfl
@[simp] theorem State.setCore_irqs : (s.setCore c k).irqs = s.irqs := by cases c <;> rfl
@[simp] theorem State.setCore_reports : (s.setCore c k).reports = s.reports := by cases c <;> rfl
@[simp] theorem State.setCore_answers : (s.setCore c k).answers = s.answers := by cases c <;> rfl
@[simp] theorem State.setCore_devCounters : (s.setCore c k).devCounters = s.devCounters := by cases c <;> rfl
@[simp] theorem State.setCore_devClass : (s.setCore c k).devClass = s.devClass := by cases c <;> rfl
@[simp] theorem State.setCore_devDetail : (s.setCore c k).devDetail = s.devDetail := by cases c <;> rfl
@[simp] theorem State.setCore_railsOff : (s.setCore c k).railsOff = s.railsOff := by cases c <;> rfl
@[simp] theorem State.setCore_failedStarts : (s.setCore c k).failedStarts = s.failedStarts := by cases c <;> rfl
@[simp] theorem State.setCore_starting : (s.setCore c k).starting = s.starting := by cases c <;> rfl
@[simp] theorem State.setCore_fwA : (s.setCore c k).fwA = s.fwA := by cases c <;> rfl
@[simp] theorem State.setCore_fwB : (s.setCore c k).fwB = s.fwB := by cases c <;> rfl
@[simp] theorem State.setCore_fwActive : (s.setCore c k).fwActive = s.fwActive := by cases c <;> rfl
@[simp] theorem State.setCore_fwLeaf : (s.setCore c k).fwLeaf = s.fwLeaf := by cases c <;> rfl
@[simp] theorem State.setCore_attestIndex : (s.setCore c k).attestIndex = s.attestIndex := by cases c <;> rfl
@[simp] theorem State.setCore_clockMhz : (s.setCore c k).clockMhz = s.clockMhz := by cases c <;> rfl
@[simp] theorem State.setCore_picos : (s.setCore c k).picos = s.picos := by cases c <;> rfl
@[simp] theorem State.setCore_powerCap : (s.setCore c k).powerCap = s.powerCap := by cases c <;> rfl
@[simp] theorem State.setCore_sensed : (s.setCore c k).sensed = s.sensed := by cases c <;> rfl
@[simp] theorem State.setCore_kctx : (s.setCore c k).kctx = s.kctx := by cases c <;> rfl
@[simp] theorem State.setCore_served : (s.setCore c k).served = s.served := by cases c <;> rfl
@[simp] theorem State.setCore_ckGroups : (s.setCore c k).ckGroups = s.ckGroups := by cases c <;> rfl
@[simp] theorem State.setCore_ckOut : (s.setCore c k).ckOut = s.ckOut := by cases c <;> rfl

end SetCore

section ModCore

variable (s : State) (c : CoreId) (g : Core → Core)

@[simp] theorem State.modCore_agenda : (s.modCore c g).agenda = s.agenda := by cases c <;> rfl
@[simp] theorem State.modCore_turn : (s.modCore c g).turn = s.turn := by cases c <;> rfl
@[simp] theorem State.modCore_who : (s.modCore c g).who = s.who := by cases c <;> rfl
@[simp] theorem State.modCore_now : (s.modCore c g).now = s.now := by cases c <;> rfl
@[simp] theorem State.modCore_tick : (s.modCore c g).tick = s.tick := by cases c <;> rfl
@[simp] theorem State.modCore_nextId : (s.modCore c g).nextId = s.nextId := by cases c <;> rfl
@[simp] theorem State.modCore_evt : (s.modCore c g).evt = s.evt := by cases c <;> rfl
@[simp] theorem State.modCore_gangs : (s.modCore c g).gangs = s.gangs := by cases c <;> rfl
@[simp] theorem State.modCore_tours : (s.modCore c g).tours = s.tours := by cases c <;> rfl
@[simp] theorem State.modCore_contexts : (s.modCore c g).contexts = s.contexts := by cases c <;> rfl
@[simp] theorem State.modCore_regions : (s.modCore c g).regions = s.regions := by cases c <;> rfl
@[simp] theorem State.modCore_packets : (s.modCore c g).packets = s.packets := by cases c <;> rfl
@[simp] theorem State.modCore_refusals : (s.modCore c g).refusals = s.refusals := by cases c <;> rfl
@[simp] theorem State.modCore_scores : (s.modCore c g).scores = s.scores := by cases c <;> rfl
@[simp] theorem State.modCore_joins : (s.modCore c g).joins = s.joins := by cases c <;> rfl
@[simp] theorem State.modCore_routers : (s.modCore c g).routers = s.routers := by cases c <;> rfl
@[simp] theorem State.modCore_copies : (s.modCore c g).copies = s.copies := by cases c <;> rfl
@[simp] theorem State.modCore_overlays : (s.modCore c g).overlays = s.overlays := by cases c <;> rfl
@[simp] theorem State.modCore_qposts : (s.modCore c g).qposts = s.qposts := by cases c <;> rfl
@[simp] theorem State.modCore_deferred : (s.modCore c g).deferred = s.deferred := by cases c <;> rfl
@[simp] theorem State.modCore_wire : (s.modCore c g).wire = s.wire := by cases c <;> rfl
@[simp] theorem State.modCore_hbm : (s.modCore c g).hbm = s.hbm := by cases c <;> rfl
@[simp] theorem State.modCore_hbmPoison : (s.modCore c g).hbmPoison = s.hbmPoison := by cases c <;> rfl
@[simp] theorem State.modCore_hbmLost : (s.modCore c g).hbmLost = s.hbmLost := by cases c <;> rfl
@[simp] theorem State.modCore_poisonRecords : (s.modCore c g).poisonRecords = s.poisonRecords := by cases c <;> rfl
@[simp] theorem State.modCore_eccSeen : (s.modCore c g).eccSeen = s.eccSeen := by cases c <;> rfl
@[simp] theorem State.modCore_remaps : (s.modCore c g).remaps = s.remaps := by cases c <;> rfl
@[simp] theorem State.modCore_retiredFrames : (s.modCore c g).retiredFrames = s.retiredFrames := by cases c <;> rfl
@[simp] theorem State.modCore_flashRemaps : (s.modCore c g).flashRemaps = s.flashRemaps := by cases c <;> rfl
@[simp] theorem State.modCore_flashRetired : (s.modCore c g).flashRetired = s.flashRetired := by cases c <;> rfl
@[simp] theorem State.modCore_apertures : (s.modCore c g).apertures = s.apertures := by cases c <;> rfl
@[simp] theorem State.modCore_irqs : (s.modCore c g).irqs = s.irqs := by cases c <;> rfl
@[simp] theorem State.modCore_reports : (s.modCore c g).reports = s.reports := by cases c <;> rfl
@[simp] theorem State.modCore_answers : (s.modCore c g).answers = s.answers := by cases c <;> rfl
@[simp] theorem State.modCore_devCounters : (s.modCore c g).devCounters = s.devCounters := by cases c <;> rfl
@[simp] theorem State.modCore_devClass : (s.modCore c g).devClass = s.devClass := by cases c <;> rfl
@[simp] theorem State.modCore_devDetail : (s.modCore c g).devDetail = s.devDetail := by cases c <;> rfl
@[simp] theorem State.modCore_railsOff : (s.modCore c g).railsOff = s.railsOff := by cases c <;> rfl
@[simp] theorem State.modCore_failedStarts : (s.modCore c g).failedStarts = s.failedStarts := by cases c <;> rfl
@[simp] theorem State.modCore_starting : (s.modCore c g).starting = s.starting := by cases c <;> rfl
@[simp] theorem State.modCore_fwA : (s.modCore c g).fwA = s.fwA := by cases c <;> rfl
@[simp] theorem State.modCore_fwB : (s.modCore c g).fwB = s.fwB := by cases c <;> rfl
@[simp] theorem State.modCore_fwActive : (s.modCore c g).fwActive = s.fwActive := by cases c <;> rfl
@[simp] theorem State.modCore_fwLeaf : (s.modCore c g).fwLeaf = s.fwLeaf := by cases c <;> rfl
@[simp] theorem State.modCore_attestIndex : (s.modCore c g).attestIndex = s.attestIndex := by cases c <;> rfl
@[simp] theorem State.modCore_clockMhz : (s.modCore c g).clockMhz = s.clockMhz := by cases c <;> rfl
@[simp] theorem State.modCore_picos : (s.modCore c g).picos = s.picos := by cases c <;> rfl
@[simp] theorem State.modCore_powerCap : (s.modCore c g).powerCap = s.powerCap := by cases c <;> rfl
@[simp] theorem State.modCore_sensed : (s.modCore c g).sensed = s.sensed := by cases c <;> rfl
@[simp] theorem State.modCore_kctx : (s.modCore c g).kctx = s.kctx := by cases c <;> rfl
@[simp] theorem State.modCore_served : (s.modCore c g).served = s.served := by cases c <;> rfl
@[simp] theorem State.modCore_ckGroups : (s.modCore c g).ckGroups = s.ckGroups := by cases c <;> rfl
@[simp] theorem State.modCore_ckOut : (s.modCore c g).ckOut = s.ckOut := by cases c <;> rfl

end ModCore

section ModShared

variable (s : State) (c : CoreId) (g : Shared → Shared)

@[simp] theorem State.modShared_agenda : (s.modShared c g).agenda = s.agenda := by cases c <;> rfl
@[simp] theorem State.modShared_turn : (s.modShared c g).turn = s.turn := by cases c <;> rfl
@[simp] theorem State.modShared_who : (s.modShared c g).who = s.who := by cases c <;> rfl
@[simp] theorem State.modShared_now : (s.modShared c g).now = s.now := by cases c <;> rfl
@[simp] theorem State.modShared_tick : (s.modShared c g).tick = s.tick := by cases c <;> rfl
@[simp] theorem State.modShared_nextId : (s.modShared c g).nextId = s.nextId := by cases c <;> rfl
@[simp] theorem State.modShared_evt : (s.modShared c g).evt = s.evt := by cases c <;> rfl
@[simp] theorem State.modShared_gangs : (s.modShared c g).gangs = s.gangs := by cases c <;> rfl
@[simp] theorem State.modShared_tours : (s.modShared c g).tours = s.tours := by cases c <;> rfl
@[simp] theorem State.modShared_contexts : (s.modShared c g).contexts = s.contexts := by cases c <;> rfl
@[simp] theorem State.modShared_regions : (s.modShared c g).regions = s.regions := by cases c <;> rfl
@[simp] theorem State.modShared_packets : (s.modShared c g).packets = s.packets := by cases c <;> rfl
@[simp] theorem State.modShared_refusals : (s.modShared c g).refusals = s.refusals := by cases c <;> rfl
@[simp] theorem State.modShared_scores : (s.modShared c g).scores = s.scores := by cases c <;> rfl
@[simp] theorem State.modShared_joins : (s.modShared c g).joins = s.joins := by cases c <;> rfl
@[simp] theorem State.modShared_routers : (s.modShared c g).routers = s.routers := by cases c <;> rfl
@[simp] theorem State.modShared_copies : (s.modShared c g).copies = s.copies := by cases c <;> rfl
@[simp] theorem State.modShared_overlays : (s.modShared c g).overlays = s.overlays := by cases c <;> rfl
@[simp] theorem State.modShared_qposts : (s.modShared c g).qposts = s.qposts := by cases c <;> rfl
@[simp] theorem State.modShared_deferred : (s.modShared c g).deferred = s.deferred := by cases c <;> rfl
@[simp] theorem State.modShared_wire : (s.modShared c g).wire = s.wire := by cases c <;> rfl
@[simp] theorem State.modShared_hbm : (s.modShared c g).hbm = s.hbm := by cases c <;> rfl
@[simp] theorem State.modShared_hbmPoison : (s.modShared c g).hbmPoison = s.hbmPoison := by cases c <;> rfl
@[simp] theorem State.modShared_hbmLost : (s.modShared c g).hbmLost = s.hbmLost := by cases c <;> rfl
@[simp] theorem State.modShared_poisonRecords : (s.modShared c g).poisonRecords = s.poisonRecords := by cases c <;> rfl
@[simp] theorem State.modShared_eccSeen : (s.modShared c g).eccSeen = s.eccSeen := by cases c <;> rfl
@[simp] theorem State.modShared_remaps : (s.modShared c g).remaps = s.remaps := by cases c <;> rfl
@[simp] theorem State.modShared_retiredFrames : (s.modShared c g).retiredFrames = s.retiredFrames := by cases c <;> rfl
@[simp] theorem State.modShared_flashRemaps : (s.modShared c g).flashRemaps = s.flashRemaps := by cases c <;> rfl
@[simp] theorem State.modShared_flashRetired : (s.modShared c g).flashRetired = s.flashRetired := by cases c <;> rfl
@[simp] theorem State.modShared_apertures : (s.modShared c g).apertures = s.apertures := by cases c <;> rfl
@[simp] theorem State.modShared_irqs : (s.modShared c g).irqs = s.irqs := by cases c <;> rfl
@[simp] theorem State.modShared_reports : (s.modShared c g).reports = s.reports := by cases c <;> rfl
@[simp] theorem State.modShared_answers : (s.modShared c g).answers = s.answers := by cases c <;> rfl
@[simp] theorem State.modShared_devCounters : (s.modShared c g).devCounters = s.devCounters := by cases c <;> rfl
@[simp] theorem State.modShared_devClass : (s.modShared c g).devClass = s.devClass := by cases c <;> rfl
@[simp] theorem State.modShared_devDetail : (s.modShared c g).devDetail = s.devDetail := by cases c <;> rfl
@[simp] theorem State.modShared_railsOff : (s.modShared c g).railsOff = s.railsOff := by cases c <;> rfl
@[simp] theorem State.modShared_failedStarts : (s.modShared c g).failedStarts = s.failedStarts := by cases c <;> rfl
@[simp] theorem State.modShared_starting : (s.modShared c g).starting = s.starting := by cases c <;> rfl
@[simp] theorem State.modShared_fwA : (s.modShared c g).fwA = s.fwA := by cases c <;> rfl
@[simp] theorem State.modShared_fwB : (s.modShared c g).fwB = s.fwB := by cases c <;> rfl
@[simp] theorem State.modShared_fwActive : (s.modShared c g).fwActive = s.fwActive := by cases c <;> rfl
@[simp] theorem State.modShared_fwLeaf : (s.modShared c g).fwLeaf = s.fwLeaf := by cases c <;> rfl
@[simp] theorem State.modShared_attestIndex : (s.modShared c g).attestIndex = s.attestIndex := by cases c <;> rfl
@[simp] theorem State.modShared_clockMhz : (s.modShared c g).clockMhz = s.clockMhz := by cases c <;> rfl
@[simp] theorem State.modShared_picos : (s.modShared c g).picos = s.picos := by cases c <;> rfl
@[simp] theorem State.modShared_powerCap : (s.modShared c g).powerCap = s.powerCap := by cases c <;> rfl
@[simp] theorem State.modShared_sensed : (s.modShared c g).sensed = s.sensed := by cases c <;> rfl
@[simp] theorem State.modShared_kctx : (s.modShared c g).kctx = s.kctx := by cases c <;> rfl
@[simp] theorem State.modShared_served : (s.modShared c g).served = s.served := by cases c <;> rfl
@[simp] theorem State.modShared_ckGroups : (s.modShared c g).ckGroups = s.ckGroups := by cases c <;> rfl
@[simp] theorem State.modShared_ckOut : (s.modShared c g).ckOut = s.ckOut := by cases c <;> rfl

end ModShared

section SetTs

variable (s : State) (w : Who) (t : ThreadSet)

@[simp] theorem State.setTs_agenda : (s.setTs w t).agenda = s.agenda := State.modCore_agenda s _ _
@[simp] theorem State.setTs_turn : (s.setTs w t).turn = s.turn := State.modCore_turn s _ _
@[simp] theorem State.setTs_who : (s.setTs w t).who = s.who := State.modCore_who s _ _
@[simp] theorem State.setTs_now : (s.setTs w t).now = s.now := State.modCore_now s _ _
@[simp] theorem State.setTs_tick : (s.setTs w t).tick = s.tick := State.modCore_tick s _ _
@[simp] theorem State.setTs_nextId : (s.setTs w t).nextId = s.nextId := State.modCore_nextId s _ _
@[simp] theorem State.setTs_evt : (s.setTs w t).evt = s.evt := State.modCore_evt s _ _
@[simp] theorem State.setTs_gangs : (s.setTs w t).gangs = s.gangs := State.modCore_gangs s _ _
@[simp] theorem State.setTs_tours : (s.setTs w t).tours = s.tours := State.modCore_tours s _ _
@[simp] theorem State.setTs_contexts : (s.setTs w t).contexts = s.contexts := State.modCore_contexts s _ _
@[simp] theorem State.setTs_regions : (s.setTs w t).regions = s.regions := State.modCore_regions s _ _
@[simp] theorem State.setTs_packets : (s.setTs w t).packets = s.packets := State.modCore_packets s _ _
@[simp] theorem State.setTs_refusals : (s.setTs w t).refusals = s.refusals := State.modCore_refusals s _ _
@[simp] theorem State.setTs_scores : (s.setTs w t).scores = s.scores := State.modCore_scores s _ _
@[simp] theorem State.setTs_joins : (s.setTs w t).joins = s.joins := State.modCore_joins s _ _
@[simp] theorem State.setTs_routers : (s.setTs w t).routers = s.routers := State.modCore_routers s _ _
@[simp] theorem State.setTs_copies : (s.setTs w t).copies = s.copies := State.modCore_copies s _ _
@[simp] theorem State.setTs_overlays : (s.setTs w t).overlays = s.overlays := State.modCore_overlays s _ _
@[simp] theorem State.setTs_qposts : (s.setTs w t).qposts = s.qposts := State.modCore_qposts s _ _
@[simp] theorem State.setTs_deferred : (s.setTs w t).deferred = s.deferred := State.modCore_deferred s _ _
@[simp] theorem State.setTs_wire : (s.setTs w t).wire = s.wire := State.modCore_wire s _ _
@[simp] theorem State.setTs_hbm : (s.setTs w t).hbm = s.hbm := State.modCore_hbm s _ _
@[simp] theorem State.setTs_hbmPoison : (s.setTs w t).hbmPoison = s.hbmPoison := State.modCore_hbmPoison s _ _
@[simp] theorem State.setTs_hbmLost : (s.setTs w t).hbmLost = s.hbmLost := State.modCore_hbmLost s _ _
@[simp] theorem State.setTs_poisonRecords : (s.setTs w t).poisonRecords = s.poisonRecords := State.modCore_poisonRecords s _ _
@[simp] theorem State.setTs_eccSeen : (s.setTs w t).eccSeen = s.eccSeen := State.modCore_eccSeen s _ _
@[simp] theorem State.setTs_remaps : (s.setTs w t).remaps = s.remaps := State.modCore_remaps s _ _
@[simp] theorem State.setTs_retiredFrames : (s.setTs w t).retiredFrames = s.retiredFrames := State.modCore_retiredFrames s _ _
@[simp] theorem State.setTs_flashRemaps : (s.setTs w t).flashRemaps = s.flashRemaps := State.modCore_flashRemaps s _ _
@[simp] theorem State.setTs_flashRetired : (s.setTs w t).flashRetired = s.flashRetired := State.modCore_flashRetired s _ _
@[simp] theorem State.setTs_apertures : (s.setTs w t).apertures = s.apertures := State.modCore_apertures s _ _
@[simp] theorem State.setTs_irqs : (s.setTs w t).irqs = s.irqs := State.modCore_irqs s _ _
@[simp] theorem State.setTs_reports : (s.setTs w t).reports = s.reports := State.modCore_reports s _ _
@[simp] theorem State.setTs_answers : (s.setTs w t).answers = s.answers := State.modCore_answers s _ _
@[simp] theorem State.setTs_devCounters : (s.setTs w t).devCounters = s.devCounters := State.modCore_devCounters s _ _
@[simp] theorem State.setTs_devClass : (s.setTs w t).devClass = s.devClass := State.modCore_devClass s _ _
@[simp] theorem State.setTs_devDetail : (s.setTs w t).devDetail = s.devDetail := State.modCore_devDetail s _ _
@[simp] theorem State.setTs_railsOff : (s.setTs w t).railsOff = s.railsOff := State.modCore_railsOff s _ _
@[simp] theorem State.setTs_failedStarts : (s.setTs w t).failedStarts = s.failedStarts := State.modCore_failedStarts s _ _
@[simp] theorem State.setTs_starting : (s.setTs w t).starting = s.starting := State.modCore_starting s _ _
@[simp] theorem State.setTs_fwA : (s.setTs w t).fwA = s.fwA := State.modCore_fwA s _ _
@[simp] theorem State.setTs_fwB : (s.setTs w t).fwB = s.fwB := State.modCore_fwB s _ _
@[simp] theorem State.setTs_fwActive : (s.setTs w t).fwActive = s.fwActive := State.modCore_fwActive s _ _
@[simp] theorem State.setTs_fwLeaf : (s.setTs w t).fwLeaf = s.fwLeaf := State.modCore_fwLeaf s _ _
@[simp] theorem State.setTs_attestIndex : (s.setTs w t).attestIndex = s.attestIndex := State.modCore_attestIndex s _ _
@[simp] theorem State.setTs_clockMhz : (s.setTs w t).clockMhz = s.clockMhz := State.modCore_clockMhz s _ _
@[simp] theorem State.setTs_picos : (s.setTs w t).picos = s.picos := State.modCore_picos s _ _
@[simp] theorem State.setTs_powerCap : (s.setTs w t).powerCap = s.powerCap := State.modCore_powerCap s _ _
@[simp] theorem State.setTs_sensed : (s.setTs w t).sensed = s.sensed := State.modCore_sensed s _ _
@[simp] theorem State.setTs_kctx : (s.setTs w t).kctx = s.kctx := State.modCore_kctx s _ _
@[simp] theorem State.setTs_served : (s.setTs w t).served = s.served := State.modCore_served s _ _
@[simp] theorem State.setTs_ckGroups : (s.setTs w t).ckGroups = s.ckGroups := State.modCore_ckGroups s _ _
@[simp] theorem State.setTs_ckOut : (s.setTs w t).ckOut = s.ckOut := State.modCore_ckOut s _ _

end SetTs

section ModGang

variable (s : State) (g : Nat) (f : Gang → Gang)

@[simp] theorem State.modGang_agenda : (s.modGang g f).agenda = s.agenda := by unfold State.modGang; split <;> rfl
@[simp] theorem State.modGang_turn : (s.modGang g f).turn = s.turn := by unfold State.modGang; split <;> rfl
@[simp] theorem State.modGang_who : (s.modGang g f).who = s.who := by unfold State.modGang; split <;> rfl
@[simp] theorem State.modGang_now : (s.modGang g f).now = s.now := by unfold State.modGang; split <;> rfl
@[simp] theorem State.modGang_tick : (s.modGang g f).tick = s.tick := by unfold State.modGang; split <;> rfl
@[simp] theorem State.modGang_nextId : (s.modGang g f).nextId = s.nextId := by unfold State.modGang; split <;> rfl
@[simp] theorem State.modGang_evt : (s.modGang g f).evt = s.evt := by unfold State.modGang; split <;> rfl
@[simp] theorem State.modGang_compute : (s.modGang g f).compute = s.compute := by unfold State.modGang; split <;> rfl
@[simp] theorem State.modGang_memory : (s.modGang g f).memory = s.memory := by unfold State.modGang; split <;> rfl
@[simp] theorem State.modGang_control : (s.modGang g f).control = s.control := by unfold State.modGang; split <;> rfl
@[simp] theorem State.modGang_tours : (s.modGang g f).tours = s.tours := by unfold State.modGang; split <;> rfl
@[simp] theorem State.modGang_contexts : (s.modGang g f).contexts = s.contexts := by unfold State.modGang; split <;> rfl
@[simp] theorem State.modGang_regions : (s.modGang g f).regions = s.regions := by unfold State.modGang; split <;> rfl
@[simp] theorem State.modGang_packets : (s.modGang g f).packets = s.packets := by unfold State.modGang; split <;> rfl
@[simp] theorem State.modGang_refusals : (s.modGang g f).refusals = s.refusals := by unfold State.modGang; split <;> rfl
@[simp] theorem State.modGang_scores : (s.modGang g f).scores = s.scores := by unfold State.modGang; split <;> rfl
@[simp] theorem State.modGang_joins : (s.modGang g f).joins = s.joins := by unfold State.modGang; split <;> rfl
@[simp] theorem State.modGang_routers : (s.modGang g f).routers = s.routers := by unfold State.modGang; split <;> rfl
@[simp] theorem State.modGang_copies : (s.modGang g f).copies = s.copies := by unfold State.modGang; split <;> rfl
@[simp] theorem State.modGang_overlays : (s.modGang g f).overlays = s.overlays := by unfold State.modGang; split <;> rfl
@[simp] theorem State.modGang_qposts : (s.modGang g f).qposts = s.qposts := by unfold State.modGang; split <;> rfl
@[simp] theorem State.modGang_deferred : (s.modGang g f).deferred = s.deferred := by unfold State.modGang; split <;> rfl
@[simp] theorem State.modGang_wire : (s.modGang g f).wire = s.wire := by unfold State.modGang; split <;> rfl
@[simp] theorem State.modGang_hbm : (s.modGang g f).hbm = s.hbm := by unfold State.modGang; split <;> rfl
@[simp] theorem State.modGang_hbmPoison : (s.modGang g f).hbmPoison = s.hbmPoison := by unfold State.modGang; split <;> rfl
@[simp] theorem State.modGang_hbmLost : (s.modGang g f).hbmLost = s.hbmLost := by unfold State.modGang; split <;> rfl
@[simp] theorem State.modGang_poisonRecords : (s.modGang g f).poisonRecords = s.poisonRecords := by unfold State.modGang; split <;> rfl
@[simp] theorem State.modGang_eccSeen : (s.modGang g f).eccSeen = s.eccSeen := by unfold State.modGang; split <;> rfl
@[simp] theorem State.modGang_remaps : (s.modGang g f).remaps = s.remaps := by unfold State.modGang; split <;> rfl
@[simp] theorem State.modGang_retiredFrames : (s.modGang g f).retiredFrames = s.retiredFrames := by unfold State.modGang; split <;> rfl
@[simp] theorem State.modGang_flashRemaps : (s.modGang g f).flashRemaps = s.flashRemaps := by unfold State.modGang; split <;> rfl
@[simp] theorem State.modGang_flashRetired : (s.modGang g f).flashRetired = s.flashRetired := by unfold State.modGang; split <;> rfl
@[simp] theorem State.modGang_apertures : (s.modGang g f).apertures = s.apertures := by unfold State.modGang; split <;> rfl
@[simp] theorem State.modGang_irqs : (s.modGang g f).irqs = s.irqs := by unfold State.modGang; split <;> rfl
@[simp] theorem State.modGang_reports : (s.modGang g f).reports = s.reports := by unfold State.modGang; split <;> rfl
@[simp] theorem State.modGang_answers : (s.modGang g f).answers = s.answers := by unfold State.modGang; split <;> rfl
@[simp] theorem State.modGang_devCounters : (s.modGang g f).devCounters = s.devCounters := by unfold State.modGang; split <;> rfl
@[simp] theorem State.modGang_devClass : (s.modGang g f).devClass = s.devClass := by unfold State.modGang; split <;> rfl
@[simp] theorem State.modGang_devDetail : (s.modGang g f).devDetail = s.devDetail := by unfold State.modGang; split <;> rfl
@[simp] theorem State.modGang_railsOff : (s.modGang g f).railsOff = s.railsOff := by unfold State.modGang; split <;> rfl
@[simp] theorem State.modGang_failedStarts : (s.modGang g f).failedStarts = s.failedStarts := by unfold State.modGang; split <;> rfl
@[simp] theorem State.modGang_starting : (s.modGang g f).starting = s.starting := by unfold State.modGang; split <;> rfl
@[simp] theorem State.modGang_fwA : (s.modGang g f).fwA = s.fwA := by unfold State.modGang; split <;> rfl
@[simp] theorem State.modGang_fwB : (s.modGang g f).fwB = s.fwB := by unfold State.modGang; split <;> rfl
@[simp] theorem State.modGang_fwActive : (s.modGang g f).fwActive = s.fwActive := by unfold State.modGang; split <;> rfl
@[simp] theorem State.modGang_fwLeaf : (s.modGang g f).fwLeaf = s.fwLeaf := by unfold State.modGang; split <;> rfl
@[simp] theorem State.modGang_attestIndex : (s.modGang g f).attestIndex = s.attestIndex := by unfold State.modGang; split <;> rfl
@[simp] theorem State.modGang_clockMhz : (s.modGang g f).clockMhz = s.clockMhz := by unfold State.modGang; split <;> rfl
@[simp] theorem State.modGang_picos : (s.modGang g f).picos = s.picos := by unfold State.modGang; split <;> rfl
@[simp] theorem State.modGang_powerCap : (s.modGang g f).powerCap = s.powerCap := by unfold State.modGang; split <;> rfl
@[simp] theorem State.modGang_sensed : (s.modGang g f).sensed = s.sensed := by unfold State.modGang; split <;> rfl
@[simp] theorem State.modGang_kctx : (s.modGang g f).kctx = s.kctx := by unfold State.modGang; split <;> rfl
@[simp] theorem State.modGang_served : (s.modGang g f).served = s.served := by unfold State.modGang; split <;> rfl
@[simp] theorem State.modGang_ckGroups : (s.modGang g f).ckGroups = s.ckGroups := by unfold State.modGang; split <;> rfl
@[simp] theorem State.modGang_ckOut : (s.modGang g f).ckOut = s.ckOut := by unfold State.modGang; split <;> rfl

end ModGang

section ModCtx

variable (s : State) (c : Nat) (f : Context → Context)

@[simp] theorem State.modCtx_agenda : (s.modCtx c f).agenda = s.agenda := by unfold State.modCtx; split <;> rfl
@[simp] theorem State.modCtx_turn : (s.modCtx c f).turn = s.turn := by unfold State.modCtx; split <;> rfl
@[simp] theorem State.modCtx_who : (s.modCtx c f).who = s.who := by unfold State.modCtx; split <;> rfl
@[simp] theorem State.modCtx_now : (s.modCtx c f).now = s.now := by unfold State.modCtx; split <;> rfl
@[simp] theorem State.modCtx_tick : (s.modCtx c f).tick = s.tick := by unfold State.modCtx; split <;> rfl
@[simp] theorem State.modCtx_nextId : (s.modCtx c f).nextId = s.nextId := by unfold State.modCtx; split <;> rfl
@[simp] theorem State.modCtx_evt : (s.modCtx c f).evt = s.evt := by unfold State.modCtx; split <;> rfl
@[simp] theorem State.modCtx_compute : (s.modCtx c f).compute = s.compute := by unfold State.modCtx; split <;> rfl
@[simp] theorem State.modCtx_memory : (s.modCtx c f).memory = s.memory := by unfold State.modCtx; split <;> rfl
@[simp] theorem State.modCtx_control : (s.modCtx c f).control = s.control := by unfold State.modCtx; split <;> rfl
@[simp] theorem State.modCtx_gangs : (s.modCtx c f).gangs = s.gangs := by unfold State.modCtx; split <;> rfl
@[simp] theorem State.modCtx_tours : (s.modCtx c f).tours = s.tours := by unfold State.modCtx; split <;> rfl
@[simp] theorem State.modCtx_regions : (s.modCtx c f).regions = s.regions := by unfold State.modCtx; split <;> rfl
@[simp] theorem State.modCtx_packets : (s.modCtx c f).packets = s.packets := by unfold State.modCtx; split <;> rfl
@[simp] theorem State.modCtx_refusals : (s.modCtx c f).refusals = s.refusals := by unfold State.modCtx; split <;> rfl
@[simp] theorem State.modCtx_scores : (s.modCtx c f).scores = s.scores := by unfold State.modCtx; split <;> rfl
@[simp] theorem State.modCtx_joins : (s.modCtx c f).joins = s.joins := by unfold State.modCtx; split <;> rfl
@[simp] theorem State.modCtx_routers : (s.modCtx c f).routers = s.routers := by unfold State.modCtx; split <;> rfl
@[simp] theorem State.modCtx_copies : (s.modCtx c f).copies = s.copies := by unfold State.modCtx; split <;> rfl
@[simp] theorem State.modCtx_overlays : (s.modCtx c f).overlays = s.overlays := by unfold State.modCtx; split <;> rfl
@[simp] theorem State.modCtx_qposts : (s.modCtx c f).qposts = s.qposts := by unfold State.modCtx; split <;> rfl
@[simp] theorem State.modCtx_deferred : (s.modCtx c f).deferred = s.deferred := by unfold State.modCtx; split <;> rfl
@[simp] theorem State.modCtx_wire : (s.modCtx c f).wire = s.wire := by unfold State.modCtx; split <;> rfl
@[simp] theorem State.modCtx_hbm : (s.modCtx c f).hbm = s.hbm := by unfold State.modCtx; split <;> rfl
@[simp] theorem State.modCtx_hbmPoison : (s.modCtx c f).hbmPoison = s.hbmPoison := by unfold State.modCtx; split <;> rfl
@[simp] theorem State.modCtx_hbmLost : (s.modCtx c f).hbmLost = s.hbmLost := by unfold State.modCtx; split <;> rfl
@[simp] theorem State.modCtx_poisonRecords : (s.modCtx c f).poisonRecords = s.poisonRecords := by unfold State.modCtx; split <;> rfl
@[simp] theorem State.modCtx_eccSeen : (s.modCtx c f).eccSeen = s.eccSeen := by unfold State.modCtx; split <;> rfl
@[simp] theorem State.modCtx_remaps : (s.modCtx c f).remaps = s.remaps := by unfold State.modCtx; split <;> rfl
@[simp] theorem State.modCtx_retiredFrames : (s.modCtx c f).retiredFrames = s.retiredFrames := by unfold State.modCtx; split <;> rfl
@[simp] theorem State.modCtx_flashRemaps : (s.modCtx c f).flashRemaps = s.flashRemaps := by unfold State.modCtx; split <;> rfl
@[simp] theorem State.modCtx_flashRetired : (s.modCtx c f).flashRetired = s.flashRetired := by unfold State.modCtx; split <;> rfl
@[simp] theorem State.modCtx_apertures : (s.modCtx c f).apertures = s.apertures := by unfold State.modCtx; split <;> rfl
@[simp] theorem State.modCtx_irqs : (s.modCtx c f).irqs = s.irqs := by unfold State.modCtx; split <;> rfl
@[simp] theorem State.modCtx_reports : (s.modCtx c f).reports = s.reports := by unfold State.modCtx; split <;> rfl
@[simp] theorem State.modCtx_answers : (s.modCtx c f).answers = s.answers := by unfold State.modCtx; split <;> rfl
@[simp] theorem State.modCtx_devCounters : (s.modCtx c f).devCounters = s.devCounters := by unfold State.modCtx; split <;> rfl
@[simp] theorem State.modCtx_devClass : (s.modCtx c f).devClass = s.devClass := by unfold State.modCtx; split <;> rfl
@[simp] theorem State.modCtx_devDetail : (s.modCtx c f).devDetail = s.devDetail := by unfold State.modCtx; split <;> rfl
@[simp] theorem State.modCtx_railsOff : (s.modCtx c f).railsOff = s.railsOff := by unfold State.modCtx; split <;> rfl
@[simp] theorem State.modCtx_failedStarts : (s.modCtx c f).failedStarts = s.failedStarts := by unfold State.modCtx; split <;> rfl
@[simp] theorem State.modCtx_starting : (s.modCtx c f).starting = s.starting := by unfold State.modCtx; split <;> rfl
@[simp] theorem State.modCtx_fwA : (s.modCtx c f).fwA = s.fwA := by unfold State.modCtx; split <;> rfl
@[simp] theorem State.modCtx_fwB : (s.modCtx c f).fwB = s.fwB := by unfold State.modCtx; split <;> rfl
@[simp] theorem State.modCtx_fwActive : (s.modCtx c f).fwActive = s.fwActive := by unfold State.modCtx; split <;> rfl
@[simp] theorem State.modCtx_fwLeaf : (s.modCtx c f).fwLeaf = s.fwLeaf := by unfold State.modCtx; split <;> rfl
@[simp] theorem State.modCtx_attestIndex : (s.modCtx c f).attestIndex = s.attestIndex := by unfold State.modCtx; split <;> rfl
@[simp] theorem State.modCtx_clockMhz : (s.modCtx c f).clockMhz = s.clockMhz := by unfold State.modCtx; split <;> rfl
@[simp] theorem State.modCtx_picos : (s.modCtx c f).picos = s.picos := by unfold State.modCtx; split <;> rfl
@[simp] theorem State.modCtx_powerCap : (s.modCtx c f).powerCap = s.powerCap := by unfold State.modCtx; split <;> rfl
@[simp] theorem State.modCtx_sensed : (s.modCtx c f).sensed = s.sensed := by unfold State.modCtx; split <;> rfl
@[simp] theorem State.modCtx_kctx : (s.modCtx c f).kctx = s.kctx := by unfold State.modCtx; split <;> rfl
@[simp] theorem State.modCtx_served : (s.modCtx c f).served = s.served := by unfold State.modCtx; split <;> rfl
@[simp] theorem State.modCtx_ckGroups : (s.modCtx c f).ckGroups = s.ckGroups := by unfold State.modCtx; split <;> rfl
@[simp] theorem State.modCtx_ckOut : (s.modCtx c f).ckOut = s.ckOut := by unfold State.modCtx; split <;> rfl

end ModCtx

section Registers

variable (t : ThreadSet)


@[simp] theorem ThreadSet.putS_run (r : SReg) (v : Word) : (t.putS r v).run = t.run := rfl
@[simp] theorem ThreadSet.putS_pc (r : SReg) (v : Word) : (t.putS r v).pc = t.pc := rfl
@[simp] theorem ThreadSet.putS_enter (r : SReg) (v : Word) : (t.putS r v).enter = t.enter := rfl
@[simp] theorem ThreadSet.putS_lineHeld (r : SReg) (v : Word) : (t.putS r v).lineHeld = t.lineHeld := rfl
@[simp] theorem ThreadSet.putS_bubbles (r : SReg) (v : Word) : (t.putS r v).bubbles = t.bubbles := rfl
@[simp] theorem ThreadSet.putS_waits (r : SReg) (v : Word) : (t.putS r v).waits = t.waits := rfl
@[simp] theorem ThreadSet.putS_ovlWaited (r : SReg) (v : Word) : (t.putS r v).ovlWaited = t.ovlWaited := rfl
@[simp] theorem ThreadSet.putS_ovlFenced (r : SReg) (v : Word) : (t.putS r v).ovlFenced = t.ovlFenced := rfl
@[simp] theorem ThreadSet.putS_native (r : SReg) (v : Word) : (t.putS r v).native = t.native := rfl
@[simp] theorem ThreadSet.putS_v (r : SReg) (v : Word) : (t.putS r v).v = t.v := rfl
@[simp] theorem ThreadSet.putS_vTag (r : SReg) (v : Word) : (t.putS r v).vTag = t.vTag := rfl
@[simp] theorem ThreadSet.putS_vDead (r : SReg) (v : Word) : (t.putS r v).vDead = t.vDead := rfl
@[simp] theorem ThreadSet.putS_p (r : SReg) (v : Word) : (t.putS r v).p = t.p := rfl
@[simp] theorem ThreadSet.putS_f (r : SReg) (v : Word) : (t.putS r v).f = t.f := rfl
@[simp] theorem ThreadSet.putS_prec (r : SReg) (v : Word) : (t.putS r v).prec = t.prec := rfl
@[simp] theorem ThreadSet.putS_rmode (r : SReg) (v : Word) : (t.putS r v).rmode = t.rmode := rfl
@[simp] theorem ThreadSet.putS_fstat (r : SReg) (v : Word) : (t.putS r v).fstat = t.fstat := rfl
@[simp] theorem ThreadSet.putS_pxneed (r : SReg) (v : Word) : (t.putS r v).pxneed = t.pxneed := rfl
@[simp] theorem ThreadSet.putS_fwspill (r : SReg) (v : Word) : (t.putS r v).fwspill = t.fwspill := rfl
@[simp] theorem ThreadSet.putS_deadmode (r : SReg) (v : Word) : (t.putS r v).deadmode = t.deadmode := rfl
@[simp] theorem ThreadSet.putS_tidx (r : SReg) (v : Word) : (t.putS r v).tidx = t.tidx := rfl
@[simp] theorem ThreadSet.putS_pwbase (r : SReg) (v : Word) : (t.putS r v).pwbase = t.pwbase := rfl
@[simp] theorem ThreadSet.putS_pwlim (r : SReg) (v : Word) : (t.putS r v).pwlim = t.pwlim := rfl
@[simp] theorem ThreadSet.putS_pwattr (r : SReg) (v : Word) : (t.putS r v).pwattr = t.pwattr := rfl
@[simp] theorem ThreadSet.putS_xcause (r : SReg) (v : Word) : (t.putS r v).xcause = t.xcause := rfl
@[simp] theorem ThreadSet.putS_xpc (r : SReg) (v : Word) : (t.putS r v).xpc = t.xpc := rfl
@[simp] theorem ThreadSet.putS_xval (r : SReg) (v : Word) : (t.putS r v).xval = t.xval := rfl
@[simp] theorem ThreadSet.putS_xrpc (r : SReg) (v : Word) : (t.putS r v).xrpc = t.xrpc := rfl
@[simp] theorem ThreadSet.putS_xstat (r : SReg) (v : Word) : (t.putS r v).xstat = t.xstat := rfl
@[simp] theorem ThreadSet.putS_loops (r : SReg) (v : Word) : (t.putS r v).loops = t.loops := rfl
@[simp] theorem ThreadSet.putS_traps (r : SReg) (v : Word) : (t.putS r v).traps = t.traps := rfl
@[simp] theorem ThreadSet.putS_sendCount (r : SReg) (v : Word) : (t.putS r v).sendCount = t.sendCount := rfl
@[simp] theorem ThreadSet.putS_sendTl (r : SReg) (v : Word) : (t.putS r v).sendTl = t.sendTl := rfl
@[simp] theorem ThreadSet.putS_sends (r : SReg) (v : Word) : (t.putS r v).sends = t.sends := rfl
@[simp] theorem ThreadSet.putS_answers (r : SReg) (v : Word) : (t.putS r v).answers = t.answers := rfl
@[simp] theorem ThreadSet.putS_sstep (r : SReg) (v : Word) : (t.putS r v).sstep = t.sstep := rfl
@[simp] theorem ThreadSet.putS_loadCount (r : SReg) (v : Word) : (t.putS r v).loadCount = t.loadCount := rfl
@[simp] theorem ThreadSet.putS_loadTl (r : SReg) (v : Word) : (t.putS r v).loadTl = t.loadTl := rfl
@[simp] theorem ThreadSet.putS_loads (r : SReg) (v : Word) : (t.putS r v).loads = t.loads := rfl
@[simp] theorem ThreadSet.putS_commitTl (r : SReg) (v : Word) : (t.putS r v).commitTl = t.commitTl := rfl
@[simp] theorem ThreadSet.putS_pattern (r : SReg) (v : Word) : (t.putS r v).pattern = t.pattern := rfl

@[simp] theorem ThreadSet.putP_run (p : SPair) (v : DWord) : (t.putP p v).run = t.run := rfl
@[simp] theorem ThreadSet.putP_pc (p : SPair) (v : DWord) : (t.putP p v).pc = t.pc := rfl
@[simp] theorem ThreadSet.putP_enter (p : SPair) (v : DWord) : (t.putP p v).enter = t.enter := rfl
@[simp] theorem ThreadSet.putP_lineHeld (p : SPair) (v : DWord) : (t.putP p v).lineHeld = t.lineHeld := rfl
@[simp] theorem ThreadSet.putP_bubbles (p : SPair) (v : DWord) : (t.putP p v).bubbles = t.bubbles := rfl
@[simp] theorem ThreadSet.putP_waits (p : SPair) (v : DWord) : (t.putP p v).waits = t.waits := rfl
@[simp] theorem ThreadSet.putP_ovlWaited (p : SPair) (v : DWord) : (t.putP p v).ovlWaited = t.ovlWaited := rfl
@[simp] theorem ThreadSet.putP_ovlFenced (p : SPair) (v : DWord) : (t.putP p v).ovlFenced = t.ovlFenced := rfl
@[simp] theorem ThreadSet.putP_native (p : SPair) (v : DWord) : (t.putP p v).native = t.native := rfl
@[simp] theorem ThreadSet.putP_v (p : SPair) (v : DWord) : (t.putP p v).v = t.v := rfl
@[simp] theorem ThreadSet.putP_vTag (p : SPair) (v : DWord) : (t.putP p v).vTag = t.vTag := rfl
@[simp] theorem ThreadSet.putP_vDead (p : SPair) (v : DWord) : (t.putP p v).vDead = t.vDead := rfl
@[simp] theorem ThreadSet.putP_p (p : SPair) (v : DWord) : (t.putP p v).p = t.p := rfl
@[simp] theorem ThreadSet.putP_f (p : SPair) (v : DWord) : (t.putP p v).f = t.f := rfl
@[simp] theorem ThreadSet.putP_prec (p : SPair) (v : DWord) : (t.putP p v).prec = t.prec := rfl
@[simp] theorem ThreadSet.putP_rmode (p : SPair) (v : DWord) : (t.putP p v).rmode = t.rmode := rfl
@[simp] theorem ThreadSet.putP_fstat (p : SPair) (v : DWord) : (t.putP p v).fstat = t.fstat := rfl
@[simp] theorem ThreadSet.putP_pxneed (p : SPair) (v : DWord) : (t.putP p v).pxneed = t.pxneed := rfl
@[simp] theorem ThreadSet.putP_fwspill (p : SPair) (v : DWord) : (t.putP p v).fwspill = t.fwspill := rfl
@[simp] theorem ThreadSet.putP_deadmode (p : SPair) (v : DWord) : (t.putP p v).deadmode = t.deadmode := rfl
@[simp] theorem ThreadSet.putP_tidx (p : SPair) (v : DWord) : (t.putP p v).tidx = t.tidx := rfl
@[simp] theorem ThreadSet.putP_pwbase (p : SPair) (v : DWord) : (t.putP p v).pwbase = t.pwbase := rfl
@[simp] theorem ThreadSet.putP_pwlim (p : SPair) (v : DWord) : (t.putP p v).pwlim = t.pwlim := rfl
@[simp] theorem ThreadSet.putP_pwattr (p : SPair) (v : DWord) : (t.putP p v).pwattr = t.pwattr := rfl
@[simp] theorem ThreadSet.putP_xcause (p : SPair) (v : DWord) : (t.putP p v).xcause = t.xcause := rfl
@[simp] theorem ThreadSet.putP_xpc (p : SPair) (v : DWord) : (t.putP p v).xpc = t.xpc := rfl
@[simp] theorem ThreadSet.putP_xval (p : SPair) (v : DWord) : (t.putP p v).xval = t.xval := rfl
@[simp] theorem ThreadSet.putP_xrpc (p : SPair) (v : DWord) : (t.putP p v).xrpc = t.xrpc := rfl
@[simp] theorem ThreadSet.putP_xstat (p : SPair) (v : DWord) : (t.putP p v).xstat = t.xstat := rfl
@[simp] theorem ThreadSet.putP_loops (p : SPair) (v : DWord) : (t.putP p v).loops = t.loops := rfl
@[simp] theorem ThreadSet.putP_traps (p : SPair) (v : DWord) : (t.putP p v).traps = t.traps := rfl
@[simp] theorem ThreadSet.putP_sendCount (p : SPair) (v : DWord) : (t.putP p v).sendCount = t.sendCount := rfl
@[simp] theorem ThreadSet.putP_sendTl (p : SPair) (v : DWord) : (t.putP p v).sendTl = t.sendTl := rfl
@[simp] theorem ThreadSet.putP_sends (p : SPair) (v : DWord) : (t.putP p v).sends = t.sends := rfl
@[simp] theorem ThreadSet.putP_answers (p : SPair) (v : DWord) : (t.putP p v).answers = t.answers := rfl
@[simp] theorem ThreadSet.putP_sstep (p : SPair) (v : DWord) : (t.putP p v).sstep = t.sstep := rfl
@[simp] theorem ThreadSet.putP_loadCount (p : SPair) (v : DWord) : (t.putP p v).loadCount = t.loadCount := rfl
@[simp] theorem ThreadSet.putP_loadTl (p : SPair) (v : DWord) : (t.putP p v).loadTl = t.loadTl := rfl
@[simp] theorem ThreadSet.putP_loads (p : SPair) (v : DWord) : (t.putP p v).loads = t.loads := rfl
@[simp] theorem ThreadSet.putP_commitTl (p : SPair) (v : DWord) : (t.putP p v).commitTl = t.commitTl := rfl
@[simp] theorem ThreadSet.putP_pattern (p : SPair) (v : DWord) : (t.putP p v).pattern = t.pattern := rfl

@[simp] theorem ThreadSet.putV_run (r : VReg) (v : VWord) (g : Fmt) : (t.putV r v g).run = t.run := rfl
@[simp] theorem ThreadSet.putV_pc (r : VReg) (v : VWord) (g : Fmt) : (t.putV r v g).pc = t.pc := rfl
@[simp] theorem ThreadSet.putV_enter (r : VReg) (v : VWord) (g : Fmt) : (t.putV r v g).enter = t.enter := rfl
@[simp] theorem ThreadSet.putV_lineHeld (r : VReg) (v : VWord) (g : Fmt) : (t.putV r v g).lineHeld = t.lineHeld := rfl
@[simp] theorem ThreadSet.putV_bubbles (r : VReg) (v : VWord) (g : Fmt) : (t.putV r v g).bubbles = t.bubbles := rfl
@[simp] theorem ThreadSet.putV_waits (r : VReg) (v : VWord) (g : Fmt) : (t.putV r v g).waits = t.waits := rfl
@[simp] theorem ThreadSet.putV_ovlWaited (r : VReg) (v : VWord) (g : Fmt) : (t.putV r v g).ovlWaited = t.ovlWaited := rfl
@[simp] theorem ThreadSet.putV_ovlFenced (r : VReg) (v : VWord) (g : Fmt) : (t.putV r v g).ovlFenced = t.ovlFenced := rfl
@[simp] theorem ThreadSet.putV_native (r : VReg) (v : VWord) (g : Fmt) : (t.putV r v g).native = t.native := rfl
@[simp] theorem ThreadSet.putV_s (r : VReg) (v : VWord) (g : Fmt) : (t.putV r v g).s = t.s := rfl
@[simp] theorem ThreadSet.putV_sDead (r : VReg) (v : VWord) (g : Fmt) : (t.putV r v g).sDead = t.sDead := rfl
@[simp] theorem ThreadSet.putV_p (r : VReg) (v : VWord) (g : Fmt) : (t.putV r v g).p = t.p := rfl
@[simp] theorem ThreadSet.putV_f (r : VReg) (v : VWord) (g : Fmt) : (t.putV r v g).f = t.f := rfl
@[simp] theorem ThreadSet.putV_prec (r : VReg) (v : VWord) (g : Fmt) : (t.putV r v g).prec = t.prec := rfl
@[simp] theorem ThreadSet.putV_rmode (r : VReg) (v : VWord) (g : Fmt) : (t.putV r v g).rmode = t.rmode := rfl
@[simp] theorem ThreadSet.putV_fstat (r : VReg) (v : VWord) (g : Fmt) : (t.putV r v g).fstat = t.fstat := rfl
@[simp] theorem ThreadSet.putV_pxneed (r : VReg) (v : VWord) (g : Fmt) : (t.putV r v g).pxneed = t.pxneed := rfl
@[simp] theorem ThreadSet.putV_fwspill (r : VReg) (v : VWord) (g : Fmt) : (t.putV r v g).fwspill = t.fwspill := rfl
@[simp] theorem ThreadSet.putV_deadmode (r : VReg) (v : VWord) (g : Fmt) : (t.putV r v g).deadmode = t.deadmode := rfl
@[simp] theorem ThreadSet.putV_tidx (r : VReg) (v : VWord) (g : Fmt) : (t.putV r v g).tidx = t.tidx := rfl
@[simp] theorem ThreadSet.putV_pwbase (r : VReg) (v : VWord) (g : Fmt) : (t.putV r v g).pwbase = t.pwbase := rfl
@[simp] theorem ThreadSet.putV_pwlim (r : VReg) (v : VWord) (g : Fmt) : (t.putV r v g).pwlim = t.pwlim := rfl
@[simp] theorem ThreadSet.putV_pwattr (r : VReg) (v : VWord) (g : Fmt) : (t.putV r v g).pwattr = t.pwattr := rfl
@[simp] theorem ThreadSet.putV_xcause (r : VReg) (v : VWord) (g : Fmt) : (t.putV r v g).xcause = t.xcause := rfl
@[simp] theorem ThreadSet.putV_xpc (r : VReg) (v : VWord) (g : Fmt) : (t.putV r v g).xpc = t.xpc := rfl
@[simp] theorem ThreadSet.putV_xval (r : VReg) (v : VWord) (g : Fmt) : (t.putV r v g).xval = t.xval := rfl
@[simp] theorem ThreadSet.putV_xrpc (r : VReg) (v : VWord) (g : Fmt) : (t.putV r v g).xrpc = t.xrpc := rfl
@[simp] theorem ThreadSet.putV_xstat (r : VReg) (v : VWord) (g : Fmt) : (t.putV r v g).xstat = t.xstat := rfl
@[simp] theorem ThreadSet.putV_loops (r : VReg) (v : VWord) (g : Fmt) : (t.putV r v g).loops = t.loops := rfl
@[simp] theorem ThreadSet.putV_traps (r : VReg) (v : VWord) (g : Fmt) : (t.putV r v g).traps = t.traps := rfl
@[simp] theorem ThreadSet.putV_sendCount (r : VReg) (v : VWord) (g : Fmt) : (t.putV r v g).sendCount = t.sendCount := rfl
@[simp] theorem ThreadSet.putV_sendTl (r : VReg) (v : VWord) (g : Fmt) : (t.putV r v g).sendTl = t.sendTl := rfl
@[simp] theorem ThreadSet.putV_sends (r : VReg) (v : VWord) (g : Fmt) : (t.putV r v g).sends = t.sends := rfl
@[simp] theorem ThreadSet.putV_answers (r : VReg) (v : VWord) (g : Fmt) : (t.putV r v g).answers = t.answers := rfl
@[simp] theorem ThreadSet.putV_sstep (r : VReg) (v : VWord) (g : Fmt) : (t.putV r v g).sstep = t.sstep := rfl
@[simp] theorem ThreadSet.putV_loadCount (r : VReg) (v : VWord) (g : Fmt) : (t.putV r v g).loadCount = t.loadCount := rfl
@[simp] theorem ThreadSet.putV_loadTl (r : VReg) (v : VWord) (g : Fmt) : (t.putV r v g).loadTl = t.loadTl := rfl
@[simp] theorem ThreadSet.putV_loads (r : VReg) (v : VWord) (g : Fmt) : (t.putV r v g).loads = t.loads := rfl
@[simp] theorem ThreadSet.putV_commitTl (r : VReg) (v : VWord) (g : Fmt) : (t.putV r v g).commitTl = t.commitTl := rfl
@[simp] theorem ThreadSet.putV_pattern (r : VReg) (v : VWord) (g : Fmt) : (t.putV r v g).pattern = t.pattern := rfl

@[simp] theorem ThreadSet.putPred_run (p : PReg) (b : Bool) : (t.putPred p b).run = t.run := by unfold ThreadSet.putPred; split <;> rfl
@[simp] theorem ThreadSet.putPred_pc (p : PReg) (b : Bool) : (t.putPred p b).pc = t.pc := by unfold ThreadSet.putPred; split <;> rfl
@[simp] theorem ThreadSet.putPred_enter (p : PReg) (b : Bool) : (t.putPred p b).enter = t.enter := by unfold ThreadSet.putPred; split <;> rfl
@[simp] theorem ThreadSet.putPred_lineHeld (p : PReg) (b : Bool) : (t.putPred p b).lineHeld = t.lineHeld := by unfold ThreadSet.putPred; split <;> rfl
@[simp] theorem ThreadSet.putPred_bubbles (p : PReg) (b : Bool) : (t.putPred p b).bubbles = t.bubbles := by unfold ThreadSet.putPred; split <;> rfl
@[simp] theorem ThreadSet.putPred_waits (p : PReg) (b : Bool) : (t.putPred p b).waits = t.waits := by unfold ThreadSet.putPred; split <;> rfl
@[simp] theorem ThreadSet.putPred_ovlWaited (p : PReg) (b : Bool) : (t.putPred p b).ovlWaited = t.ovlWaited := by unfold ThreadSet.putPred; split <;> rfl
@[simp] theorem ThreadSet.putPred_ovlFenced (p : PReg) (b : Bool) : (t.putPred p b).ovlFenced = t.ovlFenced := by unfold ThreadSet.putPred; split <;> rfl
@[simp] theorem ThreadSet.putPred_native (p : PReg) (b : Bool) : (t.putPred p b).native = t.native := by unfold ThreadSet.putPred; split <;> rfl
@[simp] theorem ThreadSet.putPred_s (p : PReg) (b : Bool) : (t.putPred p b).s = t.s := by unfold ThreadSet.putPred; split <;> rfl
@[simp] theorem ThreadSet.putPred_sDead (p : PReg) (b : Bool) : (t.putPred p b).sDead = t.sDead := by unfold ThreadSet.putPred; split <;> rfl
@[simp] theorem ThreadSet.putPred_v (p : PReg) (b : Bool) : (t.putPred p b).v = t.v := by unfold ThreadSet.putPred; split <;> rfl
@[simp] theorem ThreadSet.putPred_vTag (p : PReg) (b : Bool) : (t.putPred p b).vTag = t.vTag := by unfold ThreadSet.putPred; split <;> rfl
@[simp] theorem ThreadSet.putPred_vDead (p : PReg) (b : Bool) : (t.putPred p b).vDead = t.vDead := by unfold ThreadSet.putPred; split <;> rfl
@[simp] theorem ThreadSet.putPred_f (p : PReg) (b : Bool) : (t.putPred p b).f = t.f := by unfold ThreadSet.putPred; split <;> rfl
@[simp] theorem ThreadSet.putPred_prec (p : PReg) (b : Bool) : (t.putPred p b).prec = t.prec := by unfold ThreadSet.putPred; split <;> rfl
@[simp] theorem ThreadSet.putPred_rmode (p : PReg) (b : Bool) : (t.putPred p b).rmode = t.rmode := by unfold ThreadSet.putPred; split <;> rfl
@[simp] theorem ThreadSet.putPred_fstat (p : PReg) (b : Bool) : (t.putPred p b).fstat = t.fstat := by unfold ThreadSet.putPred; split <;> rfl
@[simp] theorem ThreadSet.putPred_pxneed (p : PReg) (b : Bool) : (t.putPred p b).pxneed = t.pxneed := by unfold ThreadSet.putPred; split <;> rfl
@[simp] theorem ThreadSet.putPred_fwspill (p : PReg) (b : Bool) : (t.putPred p b).fwspill = t.fwspill := by unfold ThreadSet.putPred; split <;> rfl
@[simp] theorem ThreadSet.putPred_deadmode (p : PReg) (b : Bool) : (t.putPred p b).deadmode = t.deadmode := by unfold ThreadSet.putPred; split <;> rfl
@[simp] theorem ThreadSet.putPred_tidx (p : PReg) (b : Bool) : (t.putPred p b).tidx = t.tidx := by unfold ThreadSet.putPred; split <;> rfl
@[simp] theorem ThreadSet.putPred_pwbase (p : PReg) (b : Bool) : (t.putPred p b).pwbase = t.pwbase := by unfold ThreadSet.putPred; split <;> rfl
@[simp] theorem ThreadSet.putPred_pwlim (p : PReg) (b : Bool) : (t.putPred p b).pwlim = t.pwlim := by unfold ThreadSet.putPred; split <;> rfl
@[simp] theorem ThreadSet.putPred_pwattr (p : PReg) (b : Bool) : (t.putPred p b).pwattr = t.pwattr := by unfold ThreadSet.putPred; split <;> rfl
@[simp] theorem ThreadSet.putPred_xcause (p : PReg) (b : Bool) : (t.putPred p b).xcause = t.xcause := by unfold ThreadSet.putPred; split <;> rfl
@[simp] theorem ThreadSet.putPred_xpc (p : PReg) (b : Bool) : (t.putPred p b).xpc = t.xpc := by unfold ThreadSet.putPred; split <;> rfl
@[simp] theorem ThreadSet.putPred_xval (p : PReg) (b : Bool) : (t.putPred p b).xval = t.xval := by unfold ThreadSet.putPred; split <;> rfl
@[simp] theorem ThreadSet.putPred_xrpc (p : PReg) (b : Bool) : (t.putPred p b).xrpc = t.xrpc := by unfold ThreadSet.putPred; split <;> rfl
@[simp] theorem ThreadSet.putPred_xstat (p : PReg) (b : Bool) : (t.putPred p b).xstat = t.xstat := by unfold ThreadSet.putPred; split <;> rfl
@[simp] theorem ThreadSet.putPred_loops (p : PReg) (b : Bool) : (t.putPred p b).loops = t.loops := by unfold ThreadSet.putPred; split <;> rfl
@[simp] theorem ThreadSet.putPred_traps (p : PReg) (b : Bool) : (t.putPred p b).traps = t.traps := by unfold ThreadSet.putPred; split <;> rfl
@[simp] theorem ThreadSet.putPred_sendCount (p : PReg) (b : Bool) : (t.putPred p b).sendCount = t.sendCount := by unfold ThreadSet.putPred; split <;> rfl
@[simp] theorem ThreadSet.putPred_sendTl (p : PReg) (b : Bool) : (t.putPred p b).sendTl = t.sendTl := by unfold ThreadSet.putPred; split <;> rfl
@[simp] theorem ThreadSet.putPred_sends (p : PReg) (b : Bool) : (t.putPred p b).sends = t.sends := by unfold ThreadSet.putPred; split <;> rfl
@[simp] theorem ThreadSet.putPred_answers (p : PReg) (b : Bool) : (t.putPred p b).answers = t.answers := by unfold ThreadSet.putPred; split <;> rfl
@[simp] theorem ThreadSet.putPred_sstep (p : PReg) (b : Bool) : (t.putPred p b).sstep = t.sstep := by unfold ThreadSet.putPred; split <;> rfl
@[simp] theorem ThreadSet.putPred_loadCount (p : PReg) (b : Bool) : (t.putPred p b).loadCount = t.loadCount := by unfold ThreadSet.putPred; split <;> rfl
@[simp] theorem ThreadSet.putPred_loadTl (p : PReg) (b : Bool) : (t.putPred p b).loadTl = t.loadTl := by unfold ThreadSet.putPred; split <;> rfl
@[simp] theorem ThreadSet.putPred_loads (p : PReg) (b : Bool) : (t.putPred p b).loads = t.loads := by unfold ThreadSet.putPred; split <;> rfl
@[simp] theorem ThreadSet.putPred_commitTl (p : PReg) (b : Bool) : (t.putPred p b).commitTl = t.commitTl := by unfold ThreadSet.putPred; split <;> rfl
@[simp] theorem ThreadSet.putPred_pattern (p : PReg) (b : Bool) : (t.putPred p b).pattern = t.pattern := by unfold ThreadSet.putPred; split <;> rfl

@[simp] theorem ThreadSet.killS_run (m : Bool) (r : SReg) : (t.killS m r).run = t.run := by cases m <;> rfl
@[simp] theorem ThreadSet.killS_pc (m : Bool) (r : SReg) : (t.killS m r).pc = t.pc := by cases m <;> rfl
@[simp] theorem ThreadSet.killS_enter (m : Bool) (r : SReg) : (t.killS m r).enter = t.enter := by cases m <;> rfl
@[simp] theorem ThreadSet.killS_lineHeld (m : Bool) (r : SReg) : (t.killS m r).lineHeld = t.lineHeld := by cases m <;> rfl
@[simp] theorem ThreadSet.killS_bubbles (m : Bool) (r : SReg) : (t.killS m r).bubbles = t.bubbles := by cases m <;> rfl
@[simp] theorem ThreadSet.killS_waits (m : Bool) (r : SReg) : (t.killS m r).waits = t.waits := by cases m <;> rfl
@[simp] theorem ThreadSet.killS_ovlWaited (m : Bool) (r : SReg) : (t.killS m r).ovlWaited = t.ovlWaited := by cases m <;> rfl
@[simp] theorem ThreadSet.killS_ovlFenced (m : Bool) (r : SReg) : (t.killS m r).ovlFenced = t.ovlFenced := by cases m <;> rfl
@[simp] theorem ThreadSet.killS_native (m : Bool) (r : SReg) : (t.killS m r).native = t.native := by cases m <;> rfl
@[simp] theorem ThreadSet.killS_s (m : Bool) (r : SReg) : (t.killS m r).s = t.s := by cases m <;> rfl
@[simp] theorem ThreadSet.killS_v (m : Bool) (r : SReg) : (t.killS m r).v = t.v := by cases m <;> rfl
@[simp] theorem ThreadSet.killS_vTag (m : Bool) (r : SReg) : (t.killS m r).vTag = t.vTag := by cases m <;> rfl
@[simp] theorem ThreadSet.killS_vDead (m : Bool) (r : SReg) : (t.killS m r).vDead = t.vDead := by cases m <;> rfl
@[simp] theorem ThreadSet.killS_p (m : Bool) (r : SReg) : (t.killS m r).p = t.p := by cases m <;> rfl
@[simp] theorem ThreadSet.killS_f (m : Bool) (r : SReg) : (t.killS m r).f = t.f := by cases m <;> rfl
@[simp] theorem ThreadSet.killS_prec (m : Bool) (r : SReg) : (t.killS m r).prec = t.prec := by cases m <;> rfl
@[simp] theorem ThreadSet.killS_rmode (m : Bool) (r : SReg) : (t.killS m r).rmode = t.rmode := by cases m <;> rfl
@[simp] theorem ThreadSet.killS_fstat (m : Bool) (r : SReg) : (t.killS m r).fstat = t.fstat := by cases m <;> rfl
@[simp] theorem ThreadSet.killS_pxneed (m : Bool) (r : SReg) : (t.killS m r).pxneed = t.pxneed := by cases m <;> rfl
@[simp] theorem ThreadSet.killS_fwspill (m : Bool) (r : SReg) : (t.killS m r).fwspill = t.fwspill := by cases m <;> rfl
@[simp] theorem ThreadSet.killS_deadmode (m : Bool) (r : SReg) : (t.killS m r).deadmode = t.deadmode := by cases m <;> rfl
@[simp] theorem ThreadSet.killS_tidx (m : Bool) (r : SReg) : (t.killS m r).tidx = t.tidx := by cases m <;> rfl
@[simp] theorem ThreadSet.killS_pwbase (m : Bool) (r : SReg) : (t.killS m r).pwbase = t.pwbase := by cases m <;> rfl
@[simp] theorem ThreadSet.killS_pwlim (m : Bool) (r : SReg) : (t.killS m r).pwlim = t.pwlim := by cases m <;> rfl
@[simp] theorem ThreadSet.killS_pwattr (m : Bool) (r : SReg) : (t.killS m r).pwattr = t.pwattr := by cases m <;> rfl
@[simp] theorem ThreadSet.killS_xcause (m : Bool) (r : SReg) : (t.killS m r).xcause = t.xcause := by cases m <;> rfl
@[simp] theorem ThreadSet.killS_xpc (m : Bool) (r : SReg) : (t.killS m r).xpc = t.xpc := by cases m <;> rfl
@[simp] theorem ThreadSet.killS_xval (m : Bool) (r : SReg) : (t.killS m r).xval = t.xval := by cases m <;> rfl
@[simp] theorem ThreadSet.killS_xrpc (m : Bool) (r : SReg) : (t.killS m r).xrpc = t.xrpc := by cases m <;> rfl
@[simp] theorem ThreadSet.killS_xstat (m : Bool) (r : SReg) : (t.killS m r).xstat = t.xstat := by cases m <;> rfl
@[simp] theorem ThreadSet.killS_loops (m : Bool) (r : SReg) : (t.killS m r).loops = t.loops := by cases m <;> rfl
@[simp] theorem ThreadSet.killS_traps (m : Bool) (r : SReg) : (t.killS m r).traps = t.traps := by cases m <;> rfl
@[simp] theorem ThreadSet.killS_sendCount (m : Bool) (r : SReg) : (t.killS m r).sendCount = t.sendCount := by cases m <;> rfl
@[simp] theorem ThreadSet.killS_sendTl (m : Bool) (r : SReg) : (t.killS m r).sendTl = t.sendTl := by cases m <;> rfl
@[simp] theorem ThreadSet.killS_sends (m : Bool) (r : SReg) : (t.killS m r).sends = t.sends := by cases m <;> rfl
@[simp] theorem ThreadSet.killS_answers (m : Bool) (r : SReg) : (t.killS m r).answers = t.answers := by cases m <;> rfl
@[simp] theorem ThreadSet.killS_sstep (m : Bool) (r : SReg) : (t.killS m r).sstep = t.sstep := by cases m <;> rfl
@[simp] theorem ThreadSet.killS_loadCount (m : Bool) (r : SReg) : (t.killS m r).loadCount = t.loadCount := by cases m <;> rfl
@[simp] theorem ThreadSet.killS_loadTl (m : Bool) (r : SReg) : (t.killS m r).loadTl = t.loadTl := by cases m <;> rfl
@[simp] theorem ThreadSet.killS_loads (m : Bool) (r : SReg) : (t.killS m r).loads = t.loads := by cases m <;> rfl
@[simp] theorem ThreadSet.killS_commitTl (m : Bool) (r : SReg) : (t.killS m r).commitTl = t.commitTl := by cases m <;> rfl
@[simp] theorem ThreadSet.killS_pattern (m : Bool) (r : SReg) : (t.killS m r).pattern = t.pattern := by cases m <;> rfl

@[simp] theorem ThreadSet.killV_run (m : Bool) (r : VReg) : (t.killV m r).run = t.run := by cases m <;> rfl
@[simp] theorem ThreadSet.killV_pc (m : Bool) (r : VReg) : (t.killV m r).pc = t.pc := by cases m <;> rfl
@[simp] theorem ThreadSet.killV_enter (m : Bool) (r : VReg) : (t.killV m r).enter = t.enter := by cases m <;> rfl
@[simp] theorem ThreadSet.killV_lineHeld (m : Bool) (r : VReg) : (t.killV m r).lineHeld = t.lineHeld := by cases m <;> rfl
@[simp] theorem ThreadSet.killV_bubbles (m : Bool) (r : VReg) : (t.killV m r).bubbles = t.bubbles := by cases m <;> rfl
@[simp] theorem ThreadSet.killV_waits (m : Bool) (r : VReg) : (t.killV m r).waits = t.waits := by cases m <;> rfl
@[simp] theorem ThreadSet.killV_ovlWaited (m : Bool) (r : VReg) : (t.killV m r).ovlWaited = t.ovlWaited := by cases m <;> rfl
@[simp] theorem ThreadSet.killV_ovlFenced (m : Bool) (r : VReg) : (t.killV m r).ovlFenced = t.ovlFenced := by cases m <;> rfl
@[simp] theorem ThreadSet.killV_native (m : Bool) (r : VReg) : (t.killV m r).native = t.native := by cases m <;> rfl
@[simp] theorem ThreadSet.killV_s (m : Bool) (r : VReg) : (t.killV m r).s = t.s := by cases m <;> rfl
@[simp] theorem ThreadSet.killV_sDead (m : Bool) (r : VReg) : (t.killV m r).sDead = t.sDead := by cases m <;> rfl
@[simp] theorem ThreadSet.killV_v (m : Bool) (r : VReg) : (t.killV m r).v = t.v := by cases m <;> rfl
@[simp] theorem ThreadSet.killV_vTag (m : Bool) (r : VReg) : (t.killV m r).vTag = t.vTag := by cases m <;> rfl
@[simp] theorem ThreadSet.killV_p (m : Bool) (r : VReg) : (t.killV m r).p = t.p := by cases m <;> rfl
@[simp] theorem ThreadSet.killV_f (m : Bool) (r : VReg) : (t.killV m r).f = t.f := by cases m <;> rfl
@[simp] theorem ThreadSet.killV_prec (m : Bool) (r : VReg) : (t.killV m r).prec = t.prec := by cases m <;> rfl
@[simp] theorem ThreadSet.killV_rmode (m : Bool) (r : VReg) : (t.killV m r).rmode = t.rmode := by cases m <;> rfl
@[simp] theorem ThreadSet.killV_fstat (m : Bool) (r : VReg) : (t.killV m r).fstat = t.fstat := by cases m <;> rfl
@[simp] theorem ThreadSet.killV_pxneed (m : Bool) (r : VReg) : (t.killV m r).pxneed = t.pxneed := by cases m <;> rfl
@[simp] theorem ThreadSet.killV_fwspill (m : Bool) (r : VReg) : (t.killV m r).fwspill = t.fwspill := by cases m <;> rfl
@[simp] theorem ThreadSet.killV_deadmode (m : Bool) (r : VReg) : (t.killV m r).deadmode = t.deadmode := by cases m <;> rfl
@[simp] theorem ThreadSet.killV_tidx (m : Bool) (r : VReg) : (t.killV m r).tidx = t.tidx := by cases m <;> rfl
@[simp] theorem ThreadSet.killV_pwbase (m : Bool) (r : VReg) : (t.killV m r).pwbase = t.pwbase := by cases m <;> rfl
@[simp] theorem ThreadSet.killV_pwlim (m : Bool) (r : VReg) : (t.killV m r).pwlim = t.pwlim := by cases m <;> rfl
@[simp] theorem ThreadSet.killV_pwattr (m : Bool) (r : VReg) : (t.killV m r).pwattr = t.pwattr := by cases m <;> rfl
@[simp] theorem ThreadSet.killV_xcause (m : Bool) (r : VReg) : (t.killV m r).xcause = t.xcause := by cases m <;> rfl
@[simp] theorem ThreadSet.killV_xpc (m : Bool) (r : VReg) : (t.killV m r).xpc = t.xpc := by cases m <;> rfl
@[simp] theorem ThreadSet.killV_xval (m : Bool) (r : VReg) : (t.killV m r).xval = t.xval := by cases m <;> rfl
@[simp] theorem ThreadSet.killV_xrpc (m : Bool) (r : VReg) : (t.killV m r).xrpc = t.xrpc := by cases m <;> rfl
@[simp] theorem ThreadSet.killV_xstat (m : Bool) (r : VReg) : (t.killV m r).xstat = t.xstat := by cases m <;> rfl
@[simp] theorem ThreadSet.killV_loops (m : Bool) (r : VReg) : (t.killV m r).loops = t.loops := by cases m <;> rfl
@[simp] theorem ThreadSet.killV_traps (m : Bool) (r : VReg) : (t.killV m r).traps = t.traps := by cases m <;> rfl
@[simp] theorem ThreadSet.killV_sendCount (m : Bool) (r : VReg) : (t.killV m r).sendCount = t.sendCount := by cases m <;> rfl
@[simp] theorem ThreadSet.killV_sendTl (m : Bool) (r : VReg) : (t.killV m r).sendTl = t.sendTl := by cases m <;> rfl
@[simp] theorem ThreadSet.killV_sends (m : Bool) (r : VReg) : (t.killV m r).sends = t.sends := by cases m <;> rfl
@[simp] theorem ThreadSet.killV_answers (m : Bool) (r : VReg) : (t.killV m r).answers = t.answers := by cases m <;> rfl
@[simp] theorem ThreadSet.killV_sstep (m : Bool) (r : VReg) : (t.killV m r).sstep = t.sstep := by cases m <;> rfl
@[simp] theorem ThreadSet.killV_loadCount (m : Bool) (r : VReg) : (t.killV m r).loadCount = t.loadCount := by cases m <;> rfl
@[simp] theorem ThreadSet.killV_loadTl (m : Bool) (r : VReg) : (t.killV m r).loadTl = t.loadTl := by cases m <;> rfl
@[simp] theorem ThreadSet.killV_loads (m : Bool) (r : VReg) : (t.killV m r).loads = t.loads := by cases m <;> rfl
@[simp] theorem ThreadSet.killV_commitTl (m : Bool) (r : VReg) : (t.killV m r).commitTl = t.commitTl := by cases m <;> rfl
@[simp] theorem ThreadSet.killV_pattern (m : Bool) (r : VReg) : (t.killV m r).pattern = t.pattern := by cases m <;> rfl

@[simp] theorem ThreadSet.killP_run (m : Bool) (p : SPair) : (t.killP m p).run = t.run := by cases m <;> rfl
@[simp] theorem ThreadSet.killP_pc (m : Bool) (p : SPair) : (t.killP m p).pc = t.pc := by cases m <;> rfl
@[simp] theorem ThreadSet.killP_enter (m : Bool) (p : SPair) : (t.killP m p).enter = t.enter := by cases m <;> rfl
@[simp] theorem ThreadSet.killP_lineHeld (m : Bool) (p : SPair) : (t.killP m p).lineHeld = t.lineHeld := by cases m <;> rfl
@[simp] theorem ThreadSet.killP_bubbles (m : Bool) (p : SPair) : (t.killP m p).bubbles = t.bubbles := by cases m <;> rfl
@[simp] theorem ThreadSet.killP_waits (m : Bool) (p : SPair) : (t.killP m p).waits = t.waits := by cases m <;> rfl
@[simp] theorem ThreadSet.killP_ovlWaited (m : Bool) (p : SPair) : (t.killP m p).ovlWaited = t.ovlWaited := by cases m <;> rfl
@[simp] theorem ThreadSet.killP_ovlFenced (m : Bool) (p : SPair) : (t.killP m p).ovlFenced = t.ovlFenced := by cases m <;> rfl
@[simp] theorem ThreadSet.killP_native (m : Bool) (p : SPair) : (t.killP m p).native = t.native := by cases m <;> rfl
@[simp] theorem ThreadSet.killP_s (m : Bool) (p : SPair) : (t.killP m p).s = t.s := by cases m <;> rfl
@[simp] theorem ThreadSet.killP_v (m : Bool) (p : SPair) : (t.killP m p).v = t.v := by cases m <;> rfl
@[simp] theorem ThreadSet.killP_vTag (m : Bool) (p : SPair) : (t.killP m p).vTag = t.vTag := by cases m <;> rfl
@[simp] theorem ThreadSet.killP_vDead (m : Bool) (p : SPair) : (t.killP m p).vDead = t.vDead := by cases m <;> rfl
@[simp] theorem ThreadSet.killP_p (m : Bool) (p : SPair) : (t.killP m p).p = t.p := by cases m <;> rfl
@[simp] theorem ThreadSet.killP_f (m : Bool) (p : SPair) : (t.killP m p).f = t.f := by cases m <;> rfl
@[simp] theorem ThreadSet.killP_prec (m : Bool) (p : SPair) : (t.killP m p).prec = t.prec := by cases m <;> rfl
@[simp] theorem ThreadSet.killP_rmode (m : Bool) (p : SPair) : (t.killP m p).rmode = t.rmode := by cases m <;> rfl
@[simp] theorem ThreadSet.killP_fstat (m : Bool) (p : SPair) : (t.killP m p).fstat = t.fstat := by cases m <;> rfl
@[simp] theorem ThreadSet.killP_pxneed (m : Bool) (p : SPair) : (t.killP m p).pxneed = t.pxneed := by cases m <;> rfl
@[simp] theorem ThreadSet.killP_fwspill (m : Bool) (p : SPair) : (t.killP m p).fwspill = t.fwspill := by cases m <;> rfl
@[simp] theorem ThreadSet.killP_deadmode (m : Bool) (p : SPair) : (t.killP m p).deadmode = t.deadmode := by cases m <;> rfl
@[simp] theorem ThreadSet.killP_tidx (m : Bool) (p : SPair) : (t.killP m p).tidx = t.tidx := by cases m <;> rfl
@[simp] theorem ThreadSet.killP_pwbase (m : Bool) (p : SPair) : (t.killP m p).pwbase = t.pwbase := by cases m <;> rfl
@[simp] theorem ThreadSet.killP_pwlim (m : Bool) (p : SPair) : (t.killP m p).pwlim = t.pwlim := by cases m <;> rfl
@[simp] theorem ThreadSet.killP_pwattr (m : Bool) (p : SPair) : (t.killP m p).pwattr = t.pwattr := by cases m <;> rfl
@[simp] theorem ThreadSet.killP_xcause (m : Bool) (p : SPair) : (t.killP m p).xcause = t.xcause := by cases m <;> rfl
@[simp] theorem ThreadSet.killP_xpc (m : Bool) (p : SPair) : (t.killP m p).xpc = t.xpc := by cases m <;> rfl
@[simp] theorem ThreadSet.killP_xval (m : Bool) (p : SPair) : (t.killP m p).xval = t.xval := by cases m <;> rfl
@[simp] theorem ThreadSet.killP_xrpc (m : Bool) (p : SPair) : (t.killP m p).xrpc = t.xrpc := by cases m <;> rfl
@[simp] theorem ThreadSet.killP_xstat (m : Bool) (p : SPair) : (t.killP m p).xstat = t.xstat := by cases m <;> rfl
@[simp] theorem ThreadSet.killP_loops (m : Bool) (p : SPair) : (t.killP m p).loops = t.loops := by cases m <;> rfl
@[simp] theorem ThreadSet.killP_traps (m : Bool) (p : SPair) : (t.killP m p).traps = t.traps := by cases m <;> rfl
@[simp] theorem ThreadSet.killP_sendCount (m : Bool) (p : SPair) : (t.killP m p).sendCount = t.sendCount := by cases m <;> rfl
@[simp] theorem ThreadSet.killP_sendTl (m : Bool) (p : SPair) : (t.killP m p).sendTl = t.sendTl := by cases m <;> rfl
@[simp] theorem ThreadSet.killP_sends (m : Bool) (p : SPair) : (t.killP m p).sends = t.sends := by cases m <;> rfl
@[simp] theorem ThreadSet.killP_answers (m : Bool) (p : SPair) : (t.killP m p).answers = t.answers := by cases m <;> rfl
@[simp] theorem ThreadSet.killP_sstep (m : Bool) (p : SPair) : (t.killP m p).sstep = t.sstep := by cases m <;> rfl
@[simp] theorem ThreadSet.killP_loadCount (m : Bool) (p : SPair) : (t.killP m p).loadCount = t.loadCount := by cases m <;> rfl
@[simp] theorem ThreadSet.killP_loadTl (m : Bool) (p : SPair) : (t.killP m p).loadTl = t.loadTl := by cases m <;> rfl
@[simp] theorem ThreadSet.killP_loads (m : Bool) (p : SPair) : (t.killP m p).loads = t.loads := by cases m <;> rfl
@[simp] theorem ThreadSet.killP_commitTl (m : Bool) (p : SPair) : (t.killP m p).commitTl = t.commitTl := by cases m <;> rfl
@[simp] theorem ThreadSet.killP_pattern (m : Bool) (p : SPair) : (t.killP m p).pattern = t.pattern := by cases m <;> rfl

@[simp] theorem ThreadSet.flag_run (f : Word) : (t.flag f).run = t.run := rfl
@[simp] theorem ThreadSet.flag_pc (f : Word) : (t.flag f).pc = t.pc := rfl
@[simp] theorem ThreadSet.flag_enter (f : Word) : (t.flag f).enter = t.enter := rfl
@[simp] theorem ThreadSet.flag_lineHeld (f : Word) : (t.flag f).lineHeld = t.lineHeld := rfl
@[simp] theorem ThreadSet.flag_bubbles (f : Word) : (t.flag f).bubbles = t.bubbles := rfl
@[simp] theorem ThreadSet.flag_waits (f : Word) : (t.flag f).waits = t.waits := rfl
@[simp] theorem ThreadSet.flag_ovlWaited (f : Word) : (t.flag f).ovlWaited = t.ovlWaited := rfl
@[simp] theorem ThreadSet.flag_ovlFenced (f : Word) : (t.flag f).ovlFenced = t.ovlFenced := rfl
@[simp] theorem ThreadSet.flag_native (f : Word) : (t.flag f).native = t.native := rfl
@[simp] theorem ThreadSet.flag_s (f : Word) : (t.flag f).s = t.s := rfl
@[simp] theorem ThreadSet.flag_sDead (f : Word) : (t.flag f).sDead = t.sDead := rfl
@[simp] theorem ThreadSet.flag_v (f : Word) : (t.flag f).v = t.v := rfl
@[simp] theorem ThreadSet.flag_vTag (f : Word) : (t.flag f).vTag = t.vTag := rfl
@[simp] theorem ThreadSet.flag_vDead (f : Word) : (t.flag f).vDead = t.vDead := rfl
@[simp] theorem ThreadSet.flag_p (f : Word) : (t.flag f).p = t.p := rfl
@[simp] theorem ThreadSet.flag_f (f : Word) : (t.flag f).f = t.f := rfl
@[simp] theorem ThreadSet.flag_prec (f : Word) : (t.flag f).prec = t.prec := rfl
@[simp] theorem ThreadSet.flag_rmode (f : Word) : (t.flag f).rmode = t.rmode := rfl
@[simp] theorem ThreadSet.flag_pxneed (f : Word) : (t.flag f).pxneed = t.pxneed := rfl
@[simp] theorem ThreadSet.flag_fwspill (f : Word) : (t.flag f).fwspill = t.fwspill := rfl
@[simp] theorem ThreadSet.flag_deadmode (f : Word) : (t.flag f).deadmode = t.deadmode := rfl
@[simp] theorem ThreadSet.flag_tidx (f : Word) : (t.flag f).tidx = t.tidx := rfl
@[simp] theorem ThreadSet.flag_pwbase (f : Word) : (t.flag f).pwbase = t.pwbase := rfl
@[simp] theorem ThreadSet.flag_pwlim (f : Word) : (t.flag f).pwlim = t.pwlim := rfl
@[simp] theorem ThreadSet.flag_pwattr (f : Word) : (t.flag f).pwattr = t.pwattr := rfl
@[simp] theorem ThreadSet.flag_xcause (f : Word) : (t.flag f).xcause = t.xcause := rfl
@[simp] theorem ThreadSet.flag_xpc (f : Word) : (t.flag f).xpc = t.xpc := rfl
@[simp] theorem ThreadSet.flag_xval (f : Word) : (t.flag f).xval = t.xval := rfl
@[simp] theorem ThreadSet.flag_xrpc (f : Word) : (t.flag f).xrpc = t.xrpc := rfl
@[simp] theorem ThreadSet.flag_xstat (f : Word) : (t.flag f).xstat = t.xstat := rfl
@[simp] theorem ThreadSet.flag_loops (f : Word) : (t.flag f).loops = t.loops := rfl
@[simp] theorem ThreadSet.flag_traps (f : Word) : (t.flag f).traps = t.traps := rfl
@[simp] theorem ThreadSet.flag_sendCount (f : Word) : (t.flag f).sendCount = t.sendCount := rfl
@[simp] theorem ThreadSet.flag_sendTl (f : Word) : (t.flag f).sendTl = t.sendTl := rfl
@[simp] theorem ThreadSet.flag_sends (f : Word) : (t.flag f).sends = t.sends := rfl
@[simp] theorem ThreadSet.flag_answers (f : Word) : (t.flag f).answers = t.answers := rfl
@[simp] theorem ThreadSet.flag_sstep (f : Word) : (t.flag f).sstep = t.sstep := rfl
@[simp] theorem ThreadSet.flag_loadCount (f : Word) : (t.flag f).loadCount = t.loadCount := rfl
@[simp] theorem ThreadSet.flag_loadTl (f : Word) : (t.flag f).loadTl = t.loadTl := rfl
@[simp] theorem ThreadSet.flag_loads (f : Word) : (t.flag f).loads = t.loads := rfl
@[simp] theorem ThreadSet.flag_commitTl (f : Word) : (t.flag f).commitTl = t.commitTl := rfl
@[simp] theorem ThreadSet.flag_pattern (f : Word) : (t.flag f).pattern = t.pattern := rfl

end Registers

end Sys2Proof.Machine
end

