-- ==== Sys2Proof/Laws/Run.lean ====
section
/-! SUPPORT. What running an instruction comes to: its body's next state retired, its stop taken, or nothing but
retirement; and which operations keep every store in canonical form. -/
set_option Elab.async false
namespace Sys2Proof.Machine

section Running

theorem State.run_on {s t : State} {h : Hdr} {b : State → Except Stop (State × Next)} {nx : Next} (ho : s.on h)
    (e : b s = .ok (t, nx)) : s.run h b = .next (t.retire nx) := by
  have ho : (s.ts s.who).guard h = true := ho
  simp [State.run, ho, e]

theorem State.run_stops {s : State} {h : Hdr} {b : State → Except Stop (State × Next)} {st : Stop} (ho : s.on h)
    (e : b s = .error st) : s.run h b = .next (s.stopped st) := by
  have ho : (s.ts s.who).guard h = true := ho
  simp [State.run, ho, e]

theorem State.run_off {s : State} {h : Hdr} (hg : s.me.guard h = false) (b : State → Except Stop (State × Next)) :
    s.run h b = s.done := by
  have hg : (s.ts s.who).guard h = false := hg
  simp [State.run, hg, State.done]

theorem State.runT_on {s : State} {t : ThreadSet} {h : Hdr} {b : ThreadSet → Except Stop ThreadSet} (ho : s.on h)
    (e : b s.me = .ok t) : s.runT h b = s.becomes t := by
  have e : b (s.ts s.who) = .ok t := e
  exact State.run_on ho (by simp [e, bind, Except.bind])

theorem State.runT_stops {s : State} {st : Stop} {h : Hdr} {b : ThreadSet → Except Stop ThreadSet} (ho : s.on h)
    (e : b s.me = .error st) : s.runT h b = .next (s.stopped st) := by
  have e : b (s.ts s.who) = .error st := e
  exact State.run_stops ho (by simp [e, bind, Except.bind])

theorem State.runT_off {s : State} {h : Hdr} (hg : s.me.guard h = false) (b : ThreadSet → Except Stop ThreadSet) :
    s.runT h b = s.done := State.run_off hg _

/-- Every run answers a next state (R338, R448). -/
theorem State.run_next (s : State) (h : Hdr) (b : State → Except Stop (State × Next)) : ∃ t, s.run h b = .next t := by
  simp only [State.run]
  split
  · split <;> exact ⟨_, rfl⟩
  · exact ⟨_, rfl⟩

theorem State.runT_next (s : State) (h : Hdr) (b : ThreadSet → Except Stop ThreadSet) : ∃ t, s.runT h b = .next t :=
  s.run_next h _

end Running

section Canonical

theorem Table.mem_put {α : Type} {t : Table α} {k : Nat} {v : α} {e : Nat × α} (h : e ∈ t.put k v) : e = (k, v) ∨ e ∈ t := by
  induction t with
  | nil => exact .inl (by simpa [Table.put] using h)
  | cons x r ih =>
    simp only [Table.put] at h
    split at h
    · exact (List.mem_cons.1 h).imp id id
    · split at h
      · exact (List.mem_cons.1 h).imp id (List.mem_cons_of_mem _)
      · rcases List.mem_cons.1 h with h | h
        · exact .inr (h ▸ List.mem_cons_self)
        · exact (ih h).imp id (List.mem_cons_of_mem _)

theorem Table.find_mem {α : Type} {t : Table α} {k : Nat} {v : α} (h : t.find k = some v) : (k, v) ∈ t := by
  induction t with
  | nil => cases h
  | cons x r ih =>
    obtain ⟨j, u⟩ := x
    simp only [Table.find] at h
    split at h
    · rename_i hj
      exact List.mem_cons.2 (.inl (by rw [hj, Option.some.inj h]))
    · exact List.mem_cons_of_mem _ (ih h)

/-- Every core's store is in form, those never used among them. -/
theorem State.MemWf.core {s : State} (h : s.MemWf) (c : CoreId) : (s.core c).store.wf = true := by
  have empty : (({ } : Core)).store.wf = true := rfl
  cases c <;> simp only [State.core]
  case compute x y =>
    cases e : s.compute.find (y * 32 + x) with
    | none => exact empty
    | some k => exact h.2.1 _ (Table.find_mem e)
  case memory a b =>
    cases e : s.memory.find (a * 32 + b) with
    | none => exact empty
    | some k => exact h.2.2.1 _ (Table.find_mem e)
  case control n =>
    cases e : s.control.find n with
    | none => exact empty
    | some k => exact h.2.2.2 _ (Table.find_mem e)

theorem State.MemWf.setCore {s : State} (h : s.MemWf) (c : CoreId) {k : Core} (hk : k.store.wf = true) :
    (s.setCore c k).MemWf := by
  obtain ⟨h1, h2, h3, h4⟩ := h
  have put {t : Table Core} {n : Nat} (ht : ∀ e ∈ t, e.2.store.wf = true) : ∀ e ∈ t.put n k, e.2.store.wf = true :=
    fun e he => (Table.mem_put he).elim (fun e => e ▸ hk) (ht e)
  cases c
  · exact ⟨h1, put h2, h3, h4⟩
  · exact ⟨h1, h2, put h3, h4⟩
  · exact ⟨h1, h2, h3, put h4⟩

theorem State.MemWf.modCore {s : State} (h : s.MemWf) (c : CoreId) {g : Core → Core}
    (hg : (g (s.core c)).store.wf = true) : (s.modCore c g).MemWf := h.setCore c hg

theorem State.MemWf.setTs {s : State} (h : s.MemWf) (w : Who) (t : ThreadSet) : (s.setTs w t).MemWf :=
  h.modCore w.core (h.core w.core)

theorem State.MemWf.modTs {s : State} (h : s.MemWf) (w : Who) (g : ThreadSet → ThreadSet) : (s.modTs w g).MemWf :=
  h.setTs w _

/-- A turn that a pair kept changes no store, no thread set and no task. -/
@[simp] theorem Core.endPair_store (k : Core) (n : Nat) : (k.endPair n).store = k.store := rfl
@[simp] theorem Core.endPair_ts (k : Core) (n : Nat) : (k.endPair n).ts = k.ts := rfl
@[simp] theorem Core.endPair_tasks (k : Core) (n : Nat) : (k.endPair n).tasks = k.tasks := rfl
@[simp] theorem ThreadSet.reenter_pc (t : ThreadSet) : t.reenter.pc = t.pc := rfl
@[simp] theorem ThreadSet.reenter_enter (t : ThreadSet) : t.reenter.enter = true := rfl

/-- What the plates keep is no store's. -/
theorem State.MemWf.dropPlates {s : State} (h : s.MemWf) (ts : List (Nat × Nat × Nat)) : (s.dropPlates ts).MemWf := by
  unfold State.dropPlates
  induction ts generalizing s with
  | nil => exact h
  | cons t r ih => exact ih (h.modCore _ (h.core _))

theorem State.MemWf.modShared {s : State} (h : s.MemWf) (c : CoreId) (g : Shared → Shared) : (s.modShared c g).MemWf :=
  h.modCore c (h.core c)

theorem State.MemWf.modGang {s : State} (h : s.MemWf) (g : Nat) (f : Gang → Gang) : (s.modGang g f).MemWf := by
  unfold State.modGang
  split <;> exact h

theorem State.MemWf.modCtx {s : State} (h : s.MemWf) (c : Nat) (f : Context → Context) : (s.modCtx c f).MemWf := by
  unfold State.modCtx
  split <;> exact h

theorem State.MemWf.modQueue {s : State} (h : s.MemWf) (c q : Nat) (f : Queue → Queue) : (s.modQueue c q f).MemWf :=
  h.modCtx c _

theorem State.MemWf.modCapsule {s : State} (h : s.MemWf) (c n : Nat) (f : Capsule → Capsule) :
    (s.modCapsule c n f).MemWf := h.modCtx c _

/-- Plating copies blocks and writes nothing. -/
theorem Core.plateFor_store (k : Core) (limit slot : Nat) (ms bs : List Nat) :
    (k.plateFor limit slot ms bs).1.store = k.store := by
  unfold Core.plateFor
  have go (l : List Nat) : ∀ acc : Core × Bool, acc.1.store = k.store → (l.foldl (fun acc b =>
      let c := acc.1
      if ms.any fun m => (c.plate.find (m * 4096 + b)).isSome then acc
      else if limit ≤ c.plate.length then (c, true)
      else ({ c with plate := c.plate.put (slot * 4096 + b) (blockBits c.store b) }, acc.2)) acc).1.store = k.store := by
    induction l with
    | nil => exact fun _ h => h
    | cons b r ih =>
      intro acc h
      refine ih _ ?_
      dsimp only
      split
      · exact h
      · split <;> exact h
  exact go bs _ rfl

theorem State.MemWf.storeBytes {s : State} (h : s.MemWf) (w : Who) (a : Nat) (bs : List Byte) :
    (s.storeBytes w a bs).MemWf := by
  have plain : (s.setCore w.core ((s.core w.core).putBytes a bs)).MemWf :=
    h.setCore _ (Core.putBytes_wf _ _ _ (h.core _))
  unfold State.storeBytes
  split
  · split
    · split
      · exact plain
      · have plated (l n : Nat) (ms os : List Nat) :
            (s.setCore w.core (((s.core w.core).plateFor l n ms os).1.putBytes a bs)).MemWf :=
          h.setCore _ (Core.putBytes_wf _ _ _ (by rw [Core.plateFor_store]; exact h.core _))
        have marked (t : State) (ht : t.MemWf) (b : Bool) (g : Nat) (f : Gang → Gang) (n : DevCounters) :
            (if b = true then { t.modGang g f with devCounters := n } else t).MemWf := by
          cases b
          · exact ht
          · exact ht.modGang g f
        exact marked _ (plated ..) _ _ _ _
    · exact plain
  · exact plain

theorem State.MemWf.globalWrite {s : State} (h : s.MemWf) (ctx gva : Nat) (bs : List Byte) :
    (s.globalWrite ctx gva bs).MemWf := by
  unfold State.globalWrite
  split
  · exact h
  · rename_i c hc
    refine ⟨?_, h.2⟩
    have step (l : List (Byte × Nat)) : ∀ m : Mem, m.wf = true →
        (l.foldl (fun m e => match c.pa (gva + e.2) with
          | some pa => m.write pa e.1
          | none => m) m).wf = true := by
      induction l with
      | nil => exact fun m hm => hm
      | cons e r ih =>
        intro m hm
        refine ih _ ?_
        dsimp only
        split
        · exact m.wf_write _ _ hm
        · exact hm
    exact step _ _ h.1

end Canonical

end Sys2Proof.Machine
end

