-- ==== Sys2Proof/Tests/Slice0.lean ====
section
/-! SUPPORT. Words written out from the spec's encodings and what they decode to, terms that are no instruction, and for
the statements the states and operands that meet their hypotheses. -/
set_option Elab.async false
namespace Sys2Proof.Tests
open Sys2Proof Sys2Proof.Machine

/-! ## Words of the spec's encodings (R173) -/

/-- The thirteen fields of R173, the opcode first. -/
def word (op : BitVec 8) (v : BitVec 1) (pg : BitVec 3) (pn : BitVec 1) (dm : BitVec 3) (d a b c : BitVec 5)
    (fn md : BitVec 8) (imm : BitVec 24) (x : BitVec 20) : IWord :=
  op ++ v ++ pg ++ pn ++ dm ++ d ++ a ++ b ++ c ++ fn ++ md ++ imm ++ x

/-- Each word decodes to the instruction beside it. -/
def reads (k : CoreKind) (l : List (IWord × Instr)) : Bool :=
  l.all fun e => match decode k e.1 with
    | .ok i => decide (i = e.2)
    | .error _ => false

/-- Integer functions (R217, R218). -/
theorem test_decode_integer : reads .compute [
    (word 0x01 0 7 1 0 0 0 0 0 0 0 0 0, .nop { pg := 7, pn := true }),
    (word 0x02 1 0 0 0 31 0 1 0 0x00 0b00001000 0 0, .iadd { vote := true } 31 0 1 true),
    (word 0x02 0 0 0 2 1 2 3 0 0x01 0 0 0, .isub { dmB := true } 1 2 3 false),
    (word 0x02 0 0 0 0 1 2 3 0 0x02 0 0 0, .imul {} 1 2 3),
    (word 0x02 0 0 0 0 1 2 3 0 0x03 0 0 0, .imulh {} 1 2 3),
    (word 0x02 0 0 0 0 1 2 3 0 0x04 0 0 0, .imulhz {} 1 2 3),
    (word 0x02 0 0 0 0 1 2 3 0 0x05 0 0 0, .idiv {} 1 2 3),
    (word 0x02 0 0 0 0 1 2 3 0 0x06 0 0 0, .idivz {} 1 2 3),
    (word 0x02 0 0 0 0 1 2 3 0 0x07 0 0 0, .irem {} 1 2 3),
    (word 0x02 0 0 0 0 1 2 3 0 0x08 0 0 0, .iremz {} 1 2 3),
    (word 0x02 0 0 0 0 1 2 3 0 0x09 0 0 0, .iand {} 1 2 3),
    (word 0x02 0 0 0 0 1 2 3 0 0x0A 0 0 0, .ior {} 1 2 3),
    (word 0x02 0 0 0 0 1 2 3 0 0x0B 0 0 0, .ixor {} 1 2 3),
    (word 0x02 0 0 0 0 1 2 3 0 0x0C 0 0 0, .iandn {} 1 2 3),
    (word 0x02 0 0 0 0 1 2 3 0 0x0D 0 0 0, .ishl {} 1 2 (.reg 3)),
    (word 0x02 0 0 0 0 1 2 0 0 0x0D 1 31 0, .ishl {} 1 2 (.imm 31)),
    (word 0x02 0 0 0 0 1 2 3 0 0x0E 0 0 0, .ishrl {} 1 2 (.reg 3)),
    (word 0x02 0 0 0 0 1 2 3 0 0x0F 0 0 0, .ishra {} 1 2 (.reg 3)),
    (word 0x02 0 0 0 0 1 2 3 0 0x10 0 0 0, .irotl {} 1 2 (.reg 3)),
    (word 0x02 0 0 0 0 1 2 3 0 0x11 0 0 0, .imin {} 1 2 3),
    (word 0x02 0 0 0 0 1 2 3 0 0x12 0 0 0, .imax {} 1 2 3),
    (word 0x02 0 0 0 0 1 2 3 0 0x13 0 0 0, .iminz {} 1 2 3),
    (word 0x02 0 0 0 0 1 2 3 0 0x14 0 0 0, .imaxz {} 1 2 3),
    (word 0x02 0 0 0 4 1 2 0 0 0x15 0 0 0, .iclz { dmA := true } 1 2),
    (word 0x02 0 0 0 0 1 2 0 0 0x16 0 0 0, .ipop {} 1 2),
    (word 0x02 0 0 0 0 1 2 3 7 0x17 0 0 0, .isel {} 1 2 3 7)] = true := by decide +kernel

/-- Immediates, comparisons, pairs, addresses and predicates (R221 to R227). -/
theorem test_decode_scalar : reads .compute [
    (word 0x03 0 0 0 0 1 2 0 0 0 0b00001000 0xFFFFFF 0, .iaddi {} (.w32 1 2 true) 0xFFFFFF),
    (word 0x03 0 0 0 0 2 4 0 0 0 1 5 0, .iaddi {} (.w64 1 2) 5),
    (word 0x05 0 0 0 0 1 0 0 0 0 0 0x800000 0, .imovi {} 1 0x800000),
    (word 0x06 0 0 0 0 1 0 0 0 0 0 0xBEEF 0, .imovhi {} 1 0xBEEF),
    (word 0x04 0 0 0 0 1 2 3 0 9 0 0 0, .icmp {} .gtz 1 2 3),
    (word 0x07 0 0 0 0 2 4 6 0 0 0 0 0, .padd {} 1 2 3),
    (word 0x07 0 0 0 0 2 4 6 0 1 0 0 0, .psub {} 1 2 3),
    (word 0x08 0 0 0 0 2 4 6 0 0 0b00001011 1 0, .aadd {} 1 2 6 3 true 1),
    (word 0x08 0 0 0 0 2 4 6 0 1 0b00000010 1 0, .aadds {} 1 2 6 2 1),
    (word 0x30 0 0 0 6 7 1 2 0 2 0 0 0, .pset { dmA := true, dmB := true } 7 (.cmp .lt 1 2)),
    (word 0x30 0 0 0 0 1 2 0 0 0x0A 0 7 0, .pset {} 1 (.eqi 2 7)),
    (word 0x30 0 0 0 0 1 2 0 0 0x0B 0 7 0, .pset {} 1 (.nei 2 7)),
    (word 0x30 0 0 0 0 1 2 0 0 0x0C 0 7 0, .pset {} 1 (.lti 2 7)),
    (word 0x30 0 0 0 0 1 2 0 0 0x0D 0 7 0, .pset {} 1 (.gei 2 7)),
    (word 0x30 0 0 0 0 1 2 0 0 0x0E 0 31 0, .pset {} 1 (.bit 2 31)),
    (word 0x30 0 0 0 0 1 0 0 0 0x0F 0 1 0, .pset {} 1 (.const true)),
    (word 0x31 0 0 0 0 1 2 3 0 0 0 0 0, .pand {} 1 2 3),
    (word 0x31 0 0 0 0 1 2 3 0 1 0 0 0, .por {} 1 2 3),
    (word 0x31 0 0 0 0 1 2 3 0 2 0 0 0, .pxor {} 1 2 3),
    (word 0x31 0 0 0 0 1 2 0 0 3 0 0 0, .pnot {} 1 2)] = true := by decide +kernel

/-- Transfers, loops and the system (R229, R233, R238, R239, R344, R348, R353): a displacement of -1 line to slot 2. -/
theorem test_decode_control : reads .compute [
    (word 0x20 0 1 1 0 0 0 0 0 0 0 0xFFFFFA 0, .br { pg := 1, pn := true } { lines := 0x1FFFFF, slot := 2 }),
    (word 0x21 0 0 0 4 0 5 0 0 0 0 0 0, .jmp { dmA := true } 5),
    (word 0x22 0 0 0 0 9 0 0 0 0 0 0x00000C 0, .call {} 9 { lines := 1, slot := 4 }),
    (word 0x22 0 0 0 0 9 5 0 0 0 1 0 0, .callInd {} 9 5),
    (word 0x23 0 0 0 0 0 5 0 0 0 0 0 0, .ret {} 5),
    (word 0x24 0 0 0 0 0 5 0 0 0 0 0x000001 0, .loop {} 5 { lines := 0, slot := 1 }),
    (word 0x25 0 0 0 0 0 0 0 0 0 0 0x000009 0xFFFFF, .loopi {} { lines := 1, slot := 1 } 0xFFFFF),
    (word 0x26 0 0 0 0 0 0 0 0 0 0 0 0, .halt {}),
    (word 0x27 0 0 0 0 0 0 0 0 0 0 0 0, .yield {}),
    (word 0x38 0 0 0 0 4 0 0 0 0 0 0 0x030, .crd {} 4 0x030),
    (word 0x39 0 0 0 4 0 4 0 0 0 0 0 0x002, .cwr { dmA := true } 4 0x002),
    (word 0x39 0 0 0 0 0 4 0 0 0 0 0 0x1C0, .counterZero {} 4 3),
    (word 0x3A 0 0 0 0 0 0 0 0 0 0 0xFFFFFF 0, .trap {} 0xFFFFFF),
    (word 0x3B 0 0 0 0 0 0 0 0 0 1 0 0, .xret {} true),
    (word 0x3C 0 0 0 0 0 0 0 0 0 0 0 0, .ifence {}),
    (word 0x3D 0 0 0 0 0 0 0 0 0 0 3 0, .brk {} 3),
    (word 0x3E 0 0 0 0 5 2 4 0 0 0 8 0x64, .wait {} 5 1 2 8 0x64),
    (word 0xC8 0 0 0 0 0 12 0 0 0 0 0 0, .tscore {} 6),
    (word 0xC9 0 0 0 0 0 0 0 0 0 1 0 0, .tdone {} true),
    (word 0xCA 0 0 0 0 19 0 0 0 0 0 0 0, .tround {} 19)] = true := by decide +kernel

/-- CAPBUILD is a control core's (R354). -/
theorem test_decode_capbuild : reads .control [(word 0x3F 0 0 0 0 5 4 0 0 0 0 0 0, .capbuild {} 5 4)] = true := by
  decide +kernel

/-- Local memory, windows and sends (R244 to R263). -/
theorem test_decode_local : reads .compute [
    (word 0x40 0 0 0 4 5 2 0 0 0 5 0x10 0, .ld { dmA := true } .sb16 5 1 0x10),
    (word 0x40 0 0 0 0 6 2 0 0 0 3 0 0, .ld {} .b64 6 1 0),
    (word 0x41 0 0 0 0 0 2 5 0 0 1 0x10 0, .st {} .b16 5 1 0x10),
    (word 0x42 0 0 0 0 7 2 0 0 0 0 8 0xE, .ldv {} .t6 7 1 8),
    (word 0x43 0 0 0 0 0 2 7 0 0 0 8 0xE, .stv {} true 7 1 8),
    (word 0x44 0 0 0 0 7 2 3 0 0 0 8 0xA, .ldvs {} .fp32 7 1 3 8),
    (word 0x45 0 0 0 1 0 2 7 3 0 0 8 0x9, .stvs { dmC := true } .fp64 7 1 3 8),
    (word 0x46 0 0 0 0 7 2 8 0 0 3 8 0xA, .ldvx {} .fp32 3 7 1 8 8),
    (word 0x47 0 0 0 0 0 2 7 8 0 2 8 0x7, .stvx {} .s32 2 7 1 8 8),
    (word 0x48 0 0 0 0 15 2 3 0 0 0 8 0x2FA2, .ldt {} .fp16 15 1 3 8 { cnt := 29, row := 2 }),
    (word 0x49 0 0 0 0 0 2 15 3 0 0 8 0x0021, .stt {} false 15 1 3 8 { cnt := 1, row := 1 }),
    (word 0x4A 0 0 0 0 31 2 0 0 0 0b11110000 4 0, .ldf {} .dyn true 31 1 4),
    (word 0x4B 0 0 0 0 0 2 31 0 0 0 4 0, .stf {} 31 1 4),
    (word 0x4C 0 0 0 0 6 2 4 0 0 0 8 0x34, .lamo {} .max .fp64 (some 6) 1 4 8),
    (word 0x4C 0 0 0 0 0 2 4 0 0 1 8 0x12, .lamo {} .adds .s32 none 1 4 8),
    (word 0x4D 0 0 0 0 0 0 0 0 0 0 0 0, .lfence {}),
    (word 0x50 0 0 0 0 0 2 3 0 0 0b00000011 8 0, .lwopen {} true true 1 3 8),
    (word 0x51 0 0 0 0 0 2 0 0 0 0 8 0, .lwclose {} 1 8),
    (word 0x52 0 0 0 0 0 2 3 0 0 0 8 0, .lwdue {} 1 3 8),
    (word 0x53 0 0 0 7 0 2 3 4 0 0 8 0x1FFF, .send { dmA := true, dmB := true, dmC := true } (.imm 0x1FFF) 1 3 4 8),
    (word 0x53 0 0 0 0 9 2 3 4 0 1 8 0, .send {} (.reg 9) 1 3 4 8),
    (word 0x54 0 0 0 0 0 2 3 4 0 0 8 0x62003, .sendop {} .add .fp64 (.imm 3) 1 3 4 8),
    (word 0x55 0 0 0 0 0 2 3 0 0 0 0 0, .subscribe {} 2 3),
    (word 0x56 0 0 0 0 0 2 0 0 0 0 0 0, .unsubscribe {} 2),
    (word 0x57 0 0 0 0 0 0 0 0 0 0 0 0, .bar {}),
    (word 0x58 0 0 0 0 3 0 0 0 0 0 0 0, .barq {} 3),
    (word 0x59 0 0 0 0 3 4 0 0 0 0 0 0, .chron {} 3 4),
    (word 0x5A 0 0 0 0 0 4 0 0 0 0 0 7, .tlwait {} 7 2),
    (word 0x5B 0 0 0 0 4 0 0 0 0 0 0 6, .tlread {} 6 2)] = true := by decide +kernel

/-- Lanes (R267 to R286). -/
theorem test_decode_vector : reads .compute [
    (word 0x60 1 0 0 0 1 2 3 0 0x01 0b00001000 0 0, .vadd { vote := true } .s8 .rne true 1 2 3),
    (word 0x61 0 0 0 0 1 2 3 0 0x09 0b01000000 0 0, .vsub {} .fp64 .rdn false 1 2 3),
    (word 0x62 0 0 0 0 1 2 3 0 0x0C 0 0 0, .vmul {} .bf16 .rne false 1 2 3),
    (word 0x63 0 0 0 1 1 2 3 4 0x0A 0 0 0, .vfma { dmC := true } .fp32 .rne false 1 2 3 4),
    (word 0x64 0 0 0 0 1 2 3 4 0x0A 0 0 0, .vfms {} .fp32 .rne false 1 2 3 4),
    (word 0x65 0 0 0 0 1 2 3 0 0x08 0 0 0, .vmin {} .z32 .rne false 1 2 3),
    (word 0x66 0 0 0 0 1 2 3 0 0x05 0 0 0, .vmax {} .s16 .rne false 1 2 3),
    (word 0x67 0 0 0 0 1 2 0 0 0x07 0 0 0, .vabs {} .s32 .rne false 1 2),
    (word 0x68 0 0 0 0 1 2 0 0 0x0B 0 0 0, .vneg {} .fp16 .rne false 1 2),
    (word 0x69 0 0 0 0 1 2 3 0 0x0A 0b11100000 0 0, .vdiv {} .fp32 .dyn false 1 2 3),
    (word 0x6A 0 0 0 0 1 2 0 0 0x0A 0 0 0, .vsqrt {} .fp32 .rne false 1 2),
    (word 0x6B 0 0 0 0 1 2 0 0 0x0A 0 0 0, .vrsq {} .fp32 .rne false 1 2),
    (word 0x6C 0 0 0 0 1 2 0 0 0x0A 0 0 0, .vexp2 {} .fp32 .rne false 1 2),
    (word 0x6D 0 0 0 0 1 2 0 0 0x0A 0 0 0, .vlog2 {} .fp32 .rne false 1 2),
    (word 0x6E 0 0 0 0 1 2 3 0 0x0A 6 0 0, .vcmp {} .fp32 .un 1 2 3),
    (word 0x6F 0 0 0 1 1 2 3 4 0x0A 0 0 0, .vsel { dmC := true } .fp32 1 2 3 4),
    (word 0x70 0 0 0 0 1 2 3 0 0 0 0 0, .vand {} 1 2 3),
    (word 0x71 0 0 0 0 1 2 3 0 0 0 0 0, .vor {} 1 2 3),
    (word 0x72 0 0 0 0 1 2 3 0 0 0 0 0, .vxor {} 1 2 3),
    (word 0x73 0 0 0 0 1 2 3 0 0x07 0 0 0, .vshl {} .s32 1 2 (.reg 3)),
    (word 0x74 0 0 0 0 1 2 0 0 0x07 1 31 0, .vshr {} .s32 1 2 (.imm 31)),
    (word 0x75 0 0 0 0 1 2 3 0 0x07 0 0 0, .vshra {} .s32 1 2 (.reg 3)),
    (word 0x76 0 0 0 0 1 2 3 4 0x0A 0 0 0, .vperm {} .fp32 1 2 3 4),
    (word 0x77 0 0 0 0 1 2 0 0 0x09 0 0 0, .vbcast {} .fp64 1 2),
    (word 0x78 0 0 0 0 1 2 3 0 0x0A 2 0 0, .vshuf {} .fp32 (.even 3) 1 2),
    (word 0x78 0 0 0 0 1 2 0 0 0x0A 5 7 0, .vshuf {} .fp32 (.rot 7) 1 2),
    (word 0x79 0 0 0 0 1 2 0 0 0x0A 0 0 0, .vredadd {} .fp32 .rne false 1 2),
    (word 0x7A 0 0 0 0 1 2 0 0 0x07 0 0 0, .vredmax {} .s32 .rne 1 2),
    (word 0x7B 0 0 0 0 2 2 0 0 0x09 0 0 0, .vredmin {} .fp64 .rne 2 2),
    (word 0x7C 0 0 0 0 1 2 3 4 0x01 0b00001000 0 0, .vdot {} .s8 .rne true 1 2 3 4),
    (word 0x7D 0 0 0 0 1 2 0 0 0x0A 0 7 0, .vmovs {} .fp32 1 2 7),
    (word 0x7E 0 0 0 0 1 2 0 0 0x0A 0 7 0, .vexts {} .fp32 1 2 7),
    (word 0x7F 0 0 0 0 1 2 0 0 0x05 0b00001000 0xFFFFFF 0, .viota {} .s16 true 1 2 0xFFFFFF)] = true := by decide +kernel

/-- Conversions, quantisation and tags (R287 to R294). -/
theorem test_decode_convert : reads .compute [
    (word 0x80 0 0 0 4 1 2 0 0 0xCA 1 0 0, .vcvt { dmA := true } .bf16 .fp32 .rne false 1 1 2),
    (word 0x81 0 0 0 0 1 4 3 0 0x0D 0 0 0, .vquant {} .t8 .fp32 1 4 3),
    (word 0x82 0 0 0 0 4 1 3 0 0x03 0b00101001 0 0, .vdeq {} .s4 .fp16 .rtz true 4 1 3),
    (word 0x83 0 0 0 0 1 4 3 0 0x0E 2 0 0, .vscale {} .t6 .bf16 1 4 3),
    (word 0x84 0 0 0 0 1 2 0 0 0x0F 0 0 0, .vtag {} .e8 1 2),
    (word 0x85 0 0 0 0 1 15 0 0 0 0 0 1, .vtagq {} 1 (.tile 15)),
    (word 0x85 0 0 0 0 1 7 0 0 0 0 0 2, .vtagq {} 1 (.acc 7))] = true := by decide +kernel

/-- Flinum (R299 to R308). -/
theorem test_decode_flinum : reads .compute [
    (word 0x90 0 0 0 0 1 2 3 0 0 0b00011000 0 0, .fadd {} .rne true true 1 2 3),
    (word 0x90 0 0 0 0 1 2 3 0 1 0b01100000 0 0, .fsub {} .rup false false 1 2 3),
    (word 0x90 0 0 0 0 1 2 3 0 2 0 0 0, .fmul {} .rne false false 1 2 3),
    (word 0x90 0 0 0 1 1 2 3 4 3 0 0 0, .ffma { dmC := true } .rne false false 1 2 3 4),
    (word 0x90 0 0 0 0 1 2 3 0 4 0 0 0, .fdiv {} .rne false false 1 2 3),
    (word 0x90 0 0 0 0 1 2 0 0 5 0 0 0, .fsqrt {} .rne false false 1 2),
    (word 0x90 0 0 0 0 1 2 0 0 6 0 0 0, .fabs {} .rne false false 1 2),
    (word 0x90 0 0 0 0 1 2 0 0 7 0 0 0, .fneg {} .rne false false 1 2),
    (word 0x90 0 0 0 0 1 2 0 0 8 0 0 0, .fmov {} .rne false false 1 2),
    (word 0x90 0 0 0 0 1 2 0 0 9 0 0 0, .fround {} .rne false false 1 2),
    (word 0x90 0 0 0 0 1 2 3 0 0x0A 0 0 0, .fscalb {} .rne false false 1 2 3),
    (word 0x91 0 0 0 0 1 2 3 0 5 0 0 0, .fcmp {} .ge 1 2 3),
    (word 0x92 0 0 0 0 1 2 0 0 0 0 0 0, .fcvtd {} .rne false false 1 1),
    (word 0x92 0 0 0 0 1 2 0 0 1 1 0 0, .fcvts {} .rne false false 1 (.w64 1)),
    (word 0x92 0 0 0 0 2 1 0 0 2 0 0 0, .ftod {} .rne false false 1 1),
    (word 0x92 0 0 0 0 3 1 0 0 3 0 0 0, .ftos {} .rne false (.w32 3) 1),
    (word 0x92 0 0 0 0 1 2 3 0 4 0 0 0, .faccv {} .rne false false 1 2 3),
    (word 0x93 0 0 0 0 0 0 0 0 0 0 512 0, .fprec {} (.imm 512)),
    (word 0x93 0 0 0 4 0 5 0 0 0 1 0 0, .fprec { dmA := true } (.reg 5)),
    (word 0x93 0 0 0 0 1 0 0 0 1 1 0xFFFFFF 0, .fldc {} .rne false false 1 (.imm 0xFFFFFF)),
    (word 0x93 0 0 0 0 1 0 0 0 1 0 0x000008 56, .fldc {} .rne false false 1 (.literal 1 56)),
    (word 0x93 0 0 0 0 1 9 0 0 2 1 0 0, .frel {} 1 (some 9)),
    (word 0x93 0 0 0 0 1 9 0 0 3 0 0 0, .flen {} 1 9),
    (word 0x93 0 0 0 0 1 9 0 0 4 0 0 0, .fexp {} 1 9)] = true := by decide +kernel

/-- The matrix array (R312 to R318). -/
theorem test_decode_matrix : reads .compute [
    (word 0xA0 0 0 0 3 7 15 3 4 0 4 0 0x0081B,
      .mgang { dmB := true, dmC := true } { nlog := 4, g := 1, ks := 0, scl := false, sp := false, col := true, fmt := .fp16 }
        7 15 3 4),
    (word 0xA1 0 0 0 0 0 2 0 0 0 0 8 0, .mdesc {} 1 8),
    (word 0xA2 0 0 0 0 7 0 0 0 0 0 0 9, .mzero {} true 7),
    (word 0xA3 0 0 0 0 0 2 3 7 0 0b00101000 8 0x11EA,
      .mdrain {} .rtz true { z := true, cnt := 1, row := 14, dst := .fp32 } 1 3 7 8),
    (word 0xA4 0 0 0 0 0 2 0 0 0 0 8 0, .mmeta {} 1 8),
    (word 0xA5 0 0 0 0 0 2 0 0 0 1 8 0, .mscl {} true 1 8),
    (word 0xA6 0 0 0 0 1 15 0 0 0 1 0 31, .mrowrd {} true 1 15 31),
    (word 0xA7 0 0 0 0 15 1 0 0 0 0 0 31, .mrowwr {} false 15 1 31),
    (word 0xA8 0 0 0 0 1 15 0 0 0 2 0 0x9F, .mcolrd {} .b16 1 15 31 1),
    (word 0xA9 0 0 0 0 15 1 0 0 0 4 0 0x387, .mcolwr {} .b64 15 1 7 7)] = true := by decide +kernel

/-- Memory cores (R324 to R329) and the posts (R331), which every core of a gang has. -/
theorem test_decode_global : reads .memory [
    (word 0xB0 0 0 0 0 3 2 0 31 0 5 8 0x5, .gld {} .s16 (.scalar .sb16 3) 1 31 8),
    (word 0xB1 0 0 0 0 0 2 3 31 0 6 8 0xA, .gst {} .fp32 (.vec 3) 1 31 8),
    (word 0xB1 0 0 0 2 0 2 3 31 0 7 8 0x1FFFA, .gst { dmB := true } .fp32 (.blk 3 0x1FFF) 1 31 8),
    (word 0xB2 0 0 0 0 6 2 4 31 0 0 8 0x580, .gatom {} .cas .z64 (some 6) 1 4 31 8),
    (word 0xB2 0 0 0 0 0 2 4 31 0 1 8 0x010, .gatom {} .add .z32 none 1 4 31 8),
    (word 0xB3 0 0 0 0 0 0 0 0 0 3 0 0, .gfence {} .system),
    (word 0xB4 0 0 0 0 6 2 0 31 0 6 8 0x8, .gacq {} true .package .z32 6 1 31 8),
    (word 0xB5 0 0 0 0 0 2 3 31 0 1 8 0x8, .grel {} false .stack .z32 1 3 31 8),
    (word 0xB6 0 0 0 0 0 2 3 4 0 0 8 0, .push {} (.direct 3 4) 1 8 0),
    (word 0xB6 0 0 0 0 0 2 3 0 0 2 8 1, .push {} (.mc 3) 1 8 1),
    (word 0xB7 0 0 0 0 0 2 0 0 0 0 8 0, .dpat {} 1 8),
    (word 0xB8 0 0 0 0 3 0 0 31 0 0 0 4, .gref {} (.ext 3) 3 31),
    (word 0xC1 0 0 0 4 6 2 0 0 0 0 8 0, .ovlpost { dmA := true } 3 1 8),
    (word 0xC2 0 0 0 0 6 2 0 0 0 0 8 0, .nwpost {} 3 1 8),
    (word 0xC3 0 0 0 0 5 2 3 0 0 0 8 0, .qpost {} 5 1 3 8)] = true := by decide +kernel

/-- Words that no entry has (R174, R178, R181, R192): the reasons of ILLEGAL. -/
theorem test_decode_refuses : (
    let no (k : CoreKind) (w : IWord) (r : Word) : Bool := match decode k w with
      | .error (.illegal n) => n == r
      | _ => false
    no .compute 0 0x100 && no .compute (BitVec.allOnes 96) 0x100 && no .compute (word 0x09 0 0 0 0 0 0 0 0 0 0 0 0) 0x101
    && no .compute (word 0x02 0 0 0 0 1 2 3 0 0x18 0 0 0) 0x102 && no .compute (word 0x26 0 0 0 0 1 0 0 0 0 0 0 0) 0x103
    && no .compute (word 0x01 0 0 0 0 0 0 0 0 0 1 0 0) 0x104 && no .compute (word 0xB3 0 0 0 0 0 0 0 0 0 0 0 0) 0x105
    && no .compute (word 0x40 1 0 0 0 1 2 0 0 0 0 0 0) 0x106 && no .compute (word 0x57 0 1 0 0 0 0 0 0 0 0 0 0) 0x107
    && no .compute (word 0x01 0 0 0 4 0 0 0 0 0 0 0 0) 0x108 && no .compute (word 0x07 0 0 0 0 1 2 4 0 0 0 0 0) 0x109)
    = true := by decide +kernel

/-- Terms that no word of a compute core stands for, one for each check of `WellFormed`: the vote, the guard that never
holds, the dead marks, the bare guard, even pairs, registers that exist, formats, rounding fields, kinds of core. -/
theorem test_ill_formed : [
    Instr.ld { vote := true } .b8 1 1 0, .nop { pn := true }, .nop { dmA := true }, .pset { dmB := true } 1 (.bit 1 0),
    .imovi { dmC := true } 1 0, .bar { pg := 1 }, .crd {} 1 0x030, .crd {} 1 0x3FF, .cwr {} 1 0x100,
    .counterZero { dmB := true } 1 0, .ld {} .b64 1 1 0, .st {} .b64 1 1 0, .ldv {} .ut 0 0 0, .ldvs {} .t6 0 0 0 0,
    .ldvx {} .s8 0 0 0 0 0, .ldt {} .e8 0 0 0 0 { cnt := 0, row := 0 }, .ldt {} .fp16 0 0 0 0 { cnt := 31, row := 1 },
    .stt {} false 0 0 0 0 { cnt := 1, row := 31 }, .lamo {} .add .b64 none 0 0 0, .lamo {} .add .fp64 (some 1) 0 0 0,
    .lamo {} .add .fp64 none 0 1 0, .sendop {} .min .b64 (.imm 0) 0 0 0 0, .tlwait {} 3 0, .tlread {} 4 0,
    .vadd {} .t8 .rne false 0 0 0, .vadd {} .s8 .rtz false 0 0 0, .vmin {} .s8 .rne true 0 0 0, .vrsq {} .fp32 .rtz false 0 0,
    .vcmp {} .s32 .un 0 0 0, .vbcast {} .fp64 0 1, .vshuf {} .fp32 (.rot 8) 0 0, .vredadd {} .fp64 .rne false 1 0,
    .vmovs {} .fp32 0 0 8, .vexts {} .fp64 1 0 0, .vcvt {} .s8 .e8 .rne false 0 0 0, .vcvt {} .fp32 .fp32 .rne false 1 0 0,
    .vcvt {} .s8 .s16 .rtz false 0 0 0, .vquant {} .s16 .fp32 0 0 0, .vquant {} .s8 .fp32 0 2 0,
    .vdeq {} .s8 .fp16 .rne false 1 0 0, .fprec {} (.imm 7), .fprec {} (.imm 513),
    .fldc {} .rne false false 0 (.literal 0 2), .frel {} 2 (some 1),
    .mgang {} { nlog := 4, g := 7, ks := 0, scl := false, sp := false, col := false, fmt := .fp16 } 0 0 0 0,
    .mdrain {} .rne false { z := false, cnt := 15, row := 1, dst := .fp32 } 0 0 0 0,
    .mcolrd {} .b32 0 0 16 0, .mcolwr {} .b32 0 0 0 4, .gld {} .fp32 (.vec 0) 0 0 0, .capbuild {} 0 0].all
      (fun i => !WellFormed .compute i) = true := by decide +kernel

/-- And none of a memory core's. -/
theorem test_ill_formed_memory : [
    Instr.gld {} .ut (.vec 0) 0 0 0, .gld {} .fp64 (.scalar .b64 1) 0 0 0, .gst {} .fp64 (.scalar .b64 1) 0 0 0,
    .gatom {} .adds .z32 none 0 0 0 0, .gatom {} .cas .z32 none 0 0 0 0, .gatom {} .cas .z32 (some 0) 0 31 0 0,
    .gatom {} .cas .z64 (some 0) 0 30 0 0, .gatom {} .add .z64 (some 1) 0 0 0 0, .gacq {} true .task .fp64 1 0 0 0,
    .grel {} true .task .fp64 0 1 0 0, .push { dmB := true } .deal 0 0 0, .push { dmC := true } (.mc 0) 0 0 0,
    .vtagq {} 0 (.tile 0), .mzero {} false 0, .send {} (.imm 0) 0 0 0 0, .tlread {} 0 0].all
      (fun i => !WellFormed .memory i) = true := by decide +kernel

/-! ## States that meet the hypotheses of the statements -/

/-- Two answers that may be errors are the same. -/
def alike {α ε : Type} [DecidableEq α] [DecidableEq ε] (r q : Except ε α) : Bool :=
  match r, q with
  | .ok x, .ok y => decide (x = y)
  | .error x, .error y => decide (x = y)
  | _, _ => false

theorem same {α ε : Type} [DecidableEq α] [DecidableEq ε] {r q : Except ε α} (h : alike r q = true) : r = q := by
  cases r <;> cases q <;> simp_all [alike]

/-- An instruction without a guard executes in every state. -/
theorem on_bare (s : State) : s.on {} := by simp [State.on, ThreadSet.guard, ThreadSet.pred]

/-- Thread set 0 of compute core (0, 0), with a gang of that core whose capsule is one line of NOPs, its registers as f
leaves them. -/
def cs (f : ThreadSet → ThreadSet := id) : State :=
  let s := State.reset.placeWord (word 0x01 0 0 0 0 0 0 0 0 0 0 0 0)
  s.modTs s.who f

/-- Task slot 0 of memory core (0, 0), likewise. -/
def ms (f : ThreadSet → ThreadSet := id) : State :=
  let s := { State.reset.placeWord (word 0xB3 0 0 0 0 0 0 0 0 0 0 0 0) with who := { core := .memory 0 0, t := 0 } }
  s.modTs s.who f

/-- Control core 0, likewise. -/
def ks (f : ThreadSet → ThreadSet := id) : State :=
  let s := { State.reset.placeWord (word 0x3F 0 0 0 0 0 0 0 0 0 0 0 0) with who := { core := .control 0, t := 0 } }
  s.modTs s.who f

/-- A device that serves requests, with context 0 and its queue 0. -/
def dev (f : Context → Context := id) : State := { cs with devClass := .ready }.modCtx 0 f

/-- Scalar register 1 holds x, register 2 holds y. -/
def sxy (x y : Word) (t : ThreadSet) : ThreadSet := { t with s := (t.s.set 1 x).set 2 y }

/-- The capsule of the context, changed. -/
def withCap (s : State) (f : Capsule → Capsule) : State :=
  s.modCtx 0 fun c => { c with capsules := c.capsules.map f }

/-! ### Scalar instructions and control flow -/

theorem meets_IntegerArithmetic : (let s := cs (sxy 0x7FFFFFFF 1)
    s.on {} ∧ s.me.has2 1 1 2 0x7FFFFFFF 1 ∧ s.level = 3) ∧
    (let s := withCap (cs (sxy 0x80000000 0)) fun k => { k with level := 2 }
    s.on {} ∧ s.me.has2 1 1 2 0x80000000 0 ∧ s.level < 3) :=
  ⟨⟨on_bare _, ⟨same (by decide +kernel), same (by decide +kernel), same (by decide +kernel)⟩, by decide +kernel⟩,
    on_bare _, ⟨same (by decide +kernel), same (by decide +kernel), same (by decide +kernel)⟩, by decide +kernel⟩

theorem meets_BitsAndShifts : (let s := withCap (cs (sxy 0x80000000 32)) fun k => { k with level := 1 }
    s.on {} ∧ s.me.has2 0 1 2 0x80000000 32 ∧ s.me.has1 0 1 0x80000000 ∧ s.me.readAmt (.reg 2) = .ok 32 ∧
    s.me.readAmt (.imm 31) = .ok 31 ∧ s.level < 2) :=
  ⟨on_bare _, ⟨same (by decide +kernel), same (by decide +kernel), same (by decide +kernel)⟩,
    ⟨same (by decide +kernel), same (by decide +kernel)⟩, same (by decide +kernel), same (by decide +kernel),
    by decide +kernel⟩

/-- The pair of registers 2 and 3 is the top of the address range. -/
def highPair (t : ThreadSet) : ThreadSet := { t with s := ((t.s.set 2 0xFFFFFFFF).set 3 0xFFFFFFFF).set 1 0x80000000 }

theorem meets_ImmediatesAndAddresses : (let s := cs highPair
    s.on {} ∧ s.me.has1 0 1 0x80000000 ∧ s.me.hasP 0 1 1 0xFFFFFFFFFFFFFFFF 0xFFFFFFFFFFFFFFFF ∧
    s.me.readS 1 = .ok 0x80000000) :=
  ⟨on_bare _, ⟨same (by decide +kernel), same (by decide +kernel)⟩, ⟨same (by decide +kernel), same (by decide +kernel),
    same (by decide +kernel)⟩, same (by decide +kernel)⟩

theorem meets_Predicates : (let s := cs (sxy 7 0)
    s.on {} ∧ s.me.readS 1 = .ok 7 ∧ s.me.readS 2 = .ok 0) :=
  ⟨on_bare _, same (by decide +kernel), same (by decide +kernel)⟩

/-- Positions 0 (a slot of the line) and 64 (past the capsule), and one that is no slot; an open loop whose lines hold pc. -/
theorem meets_Transfers : (let s := cs (sxy 0 64)
    s.on {} ∧ s.me.has1 3 1 0 ∧ s.me.has1 3 2 64 ∧ s.refusesTarget s.who (relPos s.me.pc.toNat ⟨0, 0⟩) = false ∧
    s.refusesTarget s.who (relPos s.me.pc.toNat ⟨1, 0⟩) = true ∧ s.refusesTarget s.who 0 = false ∧
    s.refusesTarget s.who 64 = true ∧ s.refusesTarget s.who 13 = true) ∧
    (let l : LoopLevel := { count := 2, first := 0, last := 24 }
    let s := cs fun t => { t with loops := [l] }
    s.me.inh = false ∧ s.me.loops.head? = some l ∧ l.first.toNat ≤ s.me.pc.toNat ∧ s.me.pc.toNat ≤ l.last.toNat ∧
    (cs fun t => { t with xstat := 1 }).me.inh = true) :=
  ⟨⟨on_bare _, ⟨same (by decide +kernel), same (by decide +kernel)⟩, ⟨same (by decide +kernel), same (by decide +kernel)⟩,
    by decide +kernel⟩, by decide +kernel⟩

theorem meets_TargetRule : ∃ c l, (cs).capsuleOf (cs).who = some c ∧ c.lines[0 / 64]? = some l ∧ c.refuses 0 = false ∧
    c.refuses 49 = true := by
  refine ⟨placedCapsule (word 0x01 0 0 0 0 0 0 0 0 0 0 0 0), placedLine (word 0x01 0 0 0 0 0 0 0 0 0 0 0 0), ?_, ?_, ?_⟩ <;>
    decide +kernel

theorem meets_LoopInstructions : (let s := cs (sxy 0 2)
    let c := placedCapsule (word 0x01 0 0 0 0 0 0 0 0 0 0 0 0)
    let h := cs fun t => { t with xstat := 1 }
    let b := nextPos s.me.pc.toNat
    s.on {} ∧ s.me.readS 1 = .ok 0 ∧ s.me.readS 2 = .ok 2 ∧ s.capsuleOf s.who = some c ∧ s.me.inh = false ∧
    c.loopForm s.me.loops b (relPos s.me.pc.toNat ⟨0, 4⟩) = none ∧
    c.loopForm s.me.loops b (relPos s.me.pc.toNat ⟨1, 4⟩) ≠ none ∧ h.me.inh = true) :=
  ⟨on_bare _, same (by decide +kernel), same (by decide +kernel), by decide +kernel⟩

/-- A level about to repeat, a level in its last pass, and a position short of its level's last. -/
theorem meets_LoopPass : (
    let at_ (n : Word) (pc : Word) := cs fun t => { t with pc := pc, loops := [{ count := n, first := 0, last := 24 }] }
    let s := at_ 2 24
    (s.ts s.who).inh = false ∧ ((s.ts s.who).loops.map (·.last)) = [(s.ts s.who).pc] ∧ s.refusesTarget s.who 0 = false ∧
    ((at_ 1 24).ts s.who).loops.map (·.count) = [1] ∧ ((at_ 1 12).ts s.who).loops.map (·.last) ≠ [12] ∧
    s.refusesTarget s.who 1 = true) := by
  decide +kernel

/-- Two levels that end at one position, the outer one in its last pass and not. -/
theorem meets_LoopPassTwo : (
    let s (n : Word) := cs fun t => { t with pc := 24, loops := [{ count := 1, first := 12, last := 24 },
      { count := n, first := 0, last := 24 }] }
    ((s 1).ts (s 1).who).loops.map (fun l => (l.last, l.count)) = [(24, 1), (24, 1)] ∧ ((s 2).ts (s 2).who).pc = 24 ∧
    ((s 2).ts (s 2).who).loops.map (·.count) = [1, 2] ∧ (s 2).refusesTarget (s 2).who 0 = false) := by decide +kernel

/-- A task with a mate of its gang that is ready, and one without. -/
theorem meets_Yield : (
    let s := (ms).modCore (.memory 0 0) fun k => { k with tasks := k.tasks.set 3 { state := .ready, gang := 0 } }
    let k (s : State) := (s.retire .seq).core s.who.core
    (k s).setOf 0 = some 0 ∧ (k s).tasks[(0 : Fin 16)].state = .running ∧
    (∃ x ∈ (k s).tasks.toList, x.state = .ready ∧ x.gang = (k s).tasks[(0 : Fin 16)].gang) ∧
    ¬ (∃ x ∈ (k (ms)).tasks.toList, x.state = .ready ∧ x.gang = (k (ms)).tasks[(0 : Fin 16)].gang)) := by decide +kernel

theorem meets_HaltAndYield : (cs).on {} ∧ (ms).on {} ∧ (cs).me.answers = [] ∧ (∀ l ∈ (cs).me.loads, l.landed = true) ∧
    (ms).me.answers = [] ∧ (∀ l ∈ (ms).me.loads, l.landed = true) ∧ (cs).who.core.isMemory = false ∧
    (ms).who.core.isMemory = true ∧ (ms).gangId (ms).who = some 0 :=
  ⟨on_bare _, on_bare _, by decide +kernel⟩

/-- A capsule whose handler for every cause is its first slot. -/
theorem meets_TrapEntry : (let s := withCap (cs) fun k => { k with traps := List.replicate 32 0 }
    let w := word 0x01 0 0 0 0 0 0 0 0 0 0 0 0
    (s.ts s.who).inh = false ∧ s.capsuleOf s.who = some { placedCapsule w with traps := List.replicate 32 0 } ∧
    Cause.prot.delivered = true ∧ (List.replicate 32 (0 : Word)).getD Cause.prot.code 0xFFFFFFFF ≠ 0xFFFFFFFF ∧
    (placedCapsule w).lines[0]? = some (placedLine w) ∧ lineParityOk (placedLine w) = true ∧
    lineBadEntry (placedLine w) = none ∧ lineTarget (placedLine w) 0 = true) := by decide +kernel

theorem meets_NestedTrap : (cs).gangId (cs).who = some 0 ∧ ((cs fun t => { t with xstat := 1 }).ts (cs).who).inh = true := by
  decide +kernel

/-- A handler's return to a slot of the line, to a position that is none, past the capsule, and to a line that fails its
entry check; KCTL with and without the debugger. -/
theorem meets_TrapInstructions : (cs).on {} ∧
    (((cs).gangOf (cs).who).bind (fun g => (cs).ctx g.ctx) |>.any (fun c => c.kctl.getLsbD 1)) = false ∧
    (let d := (cs).modCtx 0 fun c => { c with kctl := 2 }
    ((d.gangOf d.who).bind fun g => d.ctx g.ctx).any fun c => c.kctl.getLsbD 1) = true ∧ (cs).me.inh = false ∧
    (let h := cs fun t => { t with xstat := 1, xrpc := 12 }
    let l := placedLine (word 0x01 0 0 0 0 0 0 0 0 0 0 0 0)
    let bad : Line := l ||| 1#512 <<< 504
    let k := placedCapsule (word 0x01 0 0 0 0 0 0 0 0 0 0 0 0)
    h.me.inh = true ∧ h.capsuleOf h.who = some k ∧ k.lines[nextPos h.me.xrpc.toNat / 64]? = some l ∧ lineParityOk l = true ∧
    lineBadEntry l = none ∧ posOk h.me.xrpc.toNat = true ∧ posOk (nextPos h.me.xrpc.toNat) = true ∧ posOk 13 = false ∧
    k.lines.length ≤ 64 / 64 ∧ lineParityOk bad = true ∧ lineBadEntry bad = some 1 ∧
    ((withCap h fun k => { k with lines := [bad] }).capsuleOf h.who).any (fun k => k.lines[0]? = some bad)) :=
  ⟨on_bare _, by decide +kernel⟩

/-- A tournament of one solo or one competing rival, which is the gang of the core. -/
def inTour (solo : Bool) : State := { (cs).modGang 0 (fun g => { g with tour := some 0 }) with
  tours := [(0, { ctx := 0, q := 0, idx := 0, ox := 0, oy := 0, w0 := 1, h0 := 1, m := 1, k := 0, solo := solo, allow0 := 1
                  limit := 0, cycles := 0, rivals := [0], annexWins := [], faults := [], live := true })] }

/-- A 32-bit register, a 64-bit one, and a tournament's outside a tournament; a rival in round 0 and one that runs alone; the
contexts of a gang and of KCTX. -/
theorem meets_ReadControl : (cs).on {} ∧ (cs).needsTour 0x002 = false ∧ regWide 0x002 = false ∧
    (cs).needsTour 0x102 = false ∧ regWide 0x102 = true ∧ (cs).me.freeS 4 = .ok () ∧ (cs).me.freeP (SReg.pair 4) = .ok () ∧
    ((cs).gangOf (cs).who).all (fun g => g.tour = none) ∧ (cs).who.core.isMemory = false ∧
    (∀ b ∈ [true, false], ((inTour b).gangOf (inTour b).who).any (fun g => g.tour = some 0 ∧ ((inTour b).ctx g.ctx).isSome) ∧
      ((inTour b).tours.find 0).any (fun u => u.solo = b)) ∧ (cs).who.core.kind = .compute ∧
    (ks).who.core.kind = .control ∧ (ks).who.core.isMemory = false ∧ ((ks).ctx ((ks).kctx.toNat % 65536)).isSome := by
  refine ⟨on_bare _, by decide +kernel, by decide +kernel, by decide +kernel, by decide +kernel, same (by decide +kernel),
    same (by decide +kernel), by decide +kernel, by decide +kernel, by decide +kernel, by decide +kernel, by decide +kernel,
    by decide +kernel, by decide +kernel⟩

/-- PREC at both ends of its range and beside them, RMODE at 5 and 6. -/
theorem meets_WriteControl : (let s := cs (sxy 8 512)
    let u := cs (sxy 7 513)
    let r := cs (sxy 5 6)
    8 ≤ ((0x440 : Word) &&& 0x3FF).toNat ∧ ((0x440 : Word) &&& 0x3FF).toNat ≤ 512 ∧ ((8 : Word) &&& 0x3FF) = 8 ∧
    ((512 : Word) &&& 0x3FF) = 512 ∧ ((0x407 : Word) &&& 0x3FF).toNat < 8 ∧ 512 < ((513 : Word) &&& 0x3FF).toNat ∧
    s.on {} ∧ s.me.readS 1 = .ok 8 ∧ s.me.readS 2 = .ok 512 ∧ u.me.readS 1 = .ok 7 ∧ u.me.readS 2 = .ok 513 ∧
    r.me.readS 1 = .ok 5 ∧ r.me.readS 2 = .ok 6 ∧ (ks (sxy 3 3)).me.readS 1 = .ok 3 ∧ (ks).who.core = .control 0 ∧
    (ks).regCtx = some 0 ∧ (∀ n, s.who.core ≠ .control n)) :=
  ⟨by decide +kernel, by decide +kernel, by decide +kernel, by decide +kernel, by decide +kernel, by decide +kernel,
    on_bare _, same (by decide +kernel), same (by decide +kernel), same (by decide +kernel), same (by decide +kernel),
    same (by decide +kernel), same (by decide +kernel), same (by decide +kernel), by decide +kernel, by decide +kernel,
    fun n h => nomatch h⟩

/-- A counter word of the set itself, and one of another set. -/
theorem meets_CounterControl : (let s := cs (sxy 3 0)
    s.on {} ∧ s.me.readS 1 = .ok 3 ∧ s.me.readS 2 = .ok 0 ∧ s.setIndex = (0 : Fin 4).val ∧ s.setIndex ≠ (1 : Fin 4).val) :=
  ⟨on_bare _, same (by decide +kernel), same (by decide +kernel), by decide +kernel⟩

/-- A word of zeros at address 8 against 0 and against 1; a wait that a write ended, one whose bound passed. -/
theorem meets_WaitInstruction : (let s := cs fun t => { t with s := (t.s.set 2 8).set 4 1 }
    let f : WaitFor := { addr := 8, cmp := 0, deadline := some 0, hit := true, d := 5, markA := none, markB := none }
    let g := { f with hit := false }
    s.on {} ∧ s.me.run = .ready ∧ s.me.readP 1 = .ok 8 ∧ s.me.readP 2 = .ok 1 ∧ s.me.readP 0 = .ok 0 ∧
    s.me.freeS 5 = .ok () ∧ ea 8 0 0 % 8 = 0 ∧ s.access s.who [(ea 8 0 0, 8)] = .ok () ∧
    s.loadBytes s.who (ea 8 0 0).toNat 8 = .ok (List.replicate 8 0) ∧
    (cs fun t => { t with run := .atWait f }).me.run = .atWait f ∧
    (cs fun t => { t with run := .atWait g }).me.run = .atWait g ∧ past (cs).now g.deadline = true) :=
  ⟨on_bare _, by decide +kernel, same (by decide +kernel), same (by decide +kernel), same (by decide +kernel),
    same (by decide +kernel), by decide +kernel, same (by decide +kernel), same (by decide +kernel), by decide +kernel⟩

/-- No capsule of the handle, a native one, and one that may be built. -/
theorem meets_BuildRequest : (let s := ks (sxy 1 9)
    let p := withCap s fun k => { k with state := .portable, test := false }
    s.on {} ∧ s.who.core = .control 0 ∧ s.me.has1 5 1 1 ∧ s.me.has1 5 2 9 ∧ s.capsule (s.kctx.toNat % 65536) 9 = none ∧
    (s.capsule (s.kctx.toNat % 65536) 1).any (fun c => c.state = .native ∧ c.withheld = false) ∧
    (p.capsule (p.kctx.toNat % 65536) 1).any (fun c => c.state = .portable ∧ c.withheld = false ∧ c.test = false ∧
      c.queued = false) ∧ ∀ n, (cs).who.core ≠ .control n) :=
  ⟨on_bare _, by decide +kernel, ⟨same (by decide +kernel), same (by decide +kernel)⟩,
    ⟨same (by decide +kernel), same (by decide +kernel)⟩, by decide +kernel, by decide +kernel, by decide +kernel,
    fun n h => nomatch h⟩

/-- A rival of a tournament, and an ordinary gang. -/
def rival (f : ThreadSet → ThreadSet := id) : State := (cs f).modGang 0 fun g => { g with tour := some 0, rival := .running }

theorem meets_TournamentInstructions : (rival).on {} ∧ (rival).gangId (rival).who = some 0 ∧
    ((rival).gang 0).any (fun g => g.tour.isSome) ∧ (rival).me.freeS 3 = .ok () ∧
    ((cs).gang 0).any (fun g => g.tour = none) :=
  ⟨on_bare _, by decide +kernel, by decide +kernel, same (by decide +kernel), by decide +kernel⟩

/-! ### The local store, windows and sends -/

/-- A gang with one parameter: 64 bytes of FP32 at the base of the window of capsules, read and write. -/
def par (s : State) : State := s.modGang 0 fun g => { g with
  params := [{ base := 0x1000000000000, fmt := .fp32, rank := 1, ext := [16], r := true, w := true, size := 64 }] }

/-- An access at the top of the store, one past it, a readable and an accepting window; a bound parameter at the end of its
range, past it, and one that is not bound. -/
theorem meets_AccessRules : (let s := cs
    let w := s.who
    (0x17FFF8 : Int) + 8 ≤ storeTop w.core ∧ ((s.ts w).pwbase.toNat : Int) ≤ 0 ∧ (0x180000 : Int) ≤ (s.ts w).pwlim.toNat ∧
    (storeTop w.core : Int) < 0x17FFFC + 8 ∧ (let m := par ms
      m.refOf m.who 1 = none ∧ (m.refOf m.who 0).any (fun v => v.fmt = .fp32 ∧ v.r = true ∧ v.w = true ∧ v.size = 64))) := by
  decide +kernel

/-- A load at address 16 through pair 1, with a scalar, vector, strided, gathered and tiled destination. -/
def load (t : ThreadSet) : ThreadSet := { t with s := (t.s.set 2 16).set 4 64, vTag := t.vTag.set 3 .s32 }

theorem meets_Loads : (let s := cs load
    let x : DWord := 16
    let one := ea x 0 0
    s.on {} ∧ s.me.readP 1 = .ok x ∧ s.me.freeLd .b64 6 = .ok () ∧ one % 8 = 0 ∧ ea x 1 0 % 8 ≠ 0 ∧
    s.access s.who [(one, 8)] = .ok () ∧ s.loadBytes s.who one.toNat 8 = .ok (List.replicate 8 0) ∧
    (∃ e, s.access s.who [(ea x 0x180000 0, 8)] = .error e) ∧ s.me.readS 4 = .ok 64 ∧
    s.me.readV 3 (some .s32) = .ok 0 ∧ s.me.freeV 5 = .ok () ∧
    aligned 4 (strideAddrs x 0 64 8) = .ok () ∧ s.access s.who ((strideAddrs x 0 64 8).map fun p => (p, 4)) = .ok () ∧
    aligned 4 (indexAddrs x 0 0 2 8) = .ok () ∧ s.access s.who ((indexAddrs x 0 0 2 8).map fun p => (p, 4)) = .ok () ∧
    aligned 8 (rowAddrs x 0 64 2) = .ok () ∧ s.access s.who ((rowAddrs x 0 64 2).map fun p => (p, 64)) = .ok () ∧
    s.here.tileFree 0 = .ok () ∧ (s.gangOf s.who).any (fun g => g.injects = []) ∧ s.here.poison = [] ∧ s.here.twin = none ∧
    (let u := s.modCore s.who.core fun k => { k with twin := some { bytes := [(16, 1)] } }
    u.here.twin.any (fun t => t.poison = [] ∧ ∃ e ∈ t.bytes, 16 ≤ e.1 ∧ e.1 < 24) = true)) :=
  ⟨on_bare _, same (by decide +kernel), same (by decide +kernel), by decide +kernel, by decide +kernel,
    same (by decide +kernel), same (by decide +kernel), ⟨.trap .prot 0x180010, same (by decide +kernel)⟩,
    same (by decide +kernel), same (by decide +kernel), same (by decide +kernel), same (by decide +kernel),
    same (by decide +kernel), same (by decide +kernel), same (by decide +kernel), same (by decide +kernel),
    same (by decide +kernel), same (by decide +kernel), by decide +kernel, by decide +kernel, by decide +kernel, by decide +kernel⟩

theorem meets_Stores : (let s := cs fun t => { load t with vTag := (t.vTag.set 3 .s32).set 7 .t6 }
    let x : DWord := 16
    s.on {} ∧ s.me.readP 1 = .ok x ∧ s.me.readS 4 = .ok 64 ∧ s.me.readV 5 none = .ok 0 ∧ s.me.readV 3 (some .s32) = .ok 0 ∧
    s.me.readP (SReg.pair 2) = .ok 16 ∧ s.me.readV 7 (some .t6) = .ok 0 ∧ aligned 8 [ea x 0 0] = .ok () ∧
    s.access s.who ([ea x 0 0].map fun p => (p, 32)) = .ok () ∧ aligned 4 (strideAddrs x 0 64 8) = .ok () ∧
    s.access s.who ((strideAddrs x 0 64 8).map fun p => (p, 4)) = .ok () ∧
    s.access s.who ((indexAddrs x 0 0 2 8).map fun p => (p, 4)) = .ok () ∧ s.here.readTile 0 none = .ok { } ∧
    aligned 8 (rowAddrs x 0 64 2) = .ok () ∧ s.access s.who ((rowAddrs x 0 64 2).map fun p => (p, 64)) = .ok ()) :=
  ⟨on_bare _, same (by decide +kernel), same (by decide +kernel), same (by decide +kernel), same (by decide +kernel),
    same (by decide +kernel), same (by decide +kernel), same (by decide +kernel), same (by decide +kernel),
    same (by decide +kernel), same (by decide +kernel), same (by decide +kernel), same (by decide +kernel),
    same (by decide +kernel), same (by decide +kernel)⟩

theorem meets_LocalAtomics : (let s := cs load
    s.on {} ∧ s.me.readP 1 = .ok 16 ∧ s.me.readElem .fp64 4 = .ok 64 ∧ ea 16 0 0 % 8 = 0 ∧
    s.access s.who [(ea 16 0 0, 8)] = .ok () ∧ s.loadBytes s.who 16 8 = .ok (List.replicate 8 0) ∧
    s.bankBytes s.who 16 8 = .ok (List.replicate 8 0) ∧ s.me.freeElem .fp64 6 = .ok () ∧ (0x7FFFFFFF : Word).saddOverflow 1 = true ∧ (1 : Word).saddOverflow 1 = false) :=
  ⟨on_bare _, same (by decide +kernel), same (by decide +kernel), by decide +kernel, same (by decide +kernel),
    same (by decide +kernel), same (by decide +kernel), same (by decide +kernel), by decide +kernel⟩

/-- The windows of the core. -/
def win (ws : List Window) (s : State) : State := s.modShared s.who.core fun q => { q with windows := ws }

/-- The last 64 bytes of the store with one window below them; the same range where a window overlaps it; windows of
every state that LWCLOSE and LWDUE name. -/
theorem meets_LandingWindows : (
    let t (t : ThreadSet) : ThreadSet := { t with s := (t.s.set 2 0x17FFC0).set 4 64 }
    let lower : Window := { base := 0x17FF80, len := 64 }
    let s := win [lower] (cs t)
    let laid (st : WinState) := win [{ base := 0x17FFC0, len := 64, state := st }] (cs t)
    s.on {} ∧ s.me.readP 1 = .ok 0x17FFC0 ∧ s.me.readS 4 = .ok 64 ∧
    (0x17FFC0 + 64 : Int) ≤ min (storeTop s.who.core : Int) s.me.pwlim.toNat ∧ s.here.shared.windows.length < 64 ∧
    (∀ w ∈ s.here.shared.windows, (0x17FFC0 : Int) + 64 ≤ w.base ∨ (w.base : Int) + w.len ≤ 0x17FFC0) ∧
    (∀ st ∈ [WinState.accepting, .due, .complete, .closing, .readable],
      ((laid st).here.shared.windows.find? (fun w => (w.base : Int) == 0x17FFC0)).any (fun w => w.state = st ∧
        (w.base : Int) + w.len ≤ min (storeTop s.who.core : Int) (laid st).me.pwlim.toNat ∧ w.count ≤ 64))) :=
  ⟨on_bare _, same (by decide +kernel), same (by decide +kernel), by decide +kernel⟩

/-- A window of the superstep that ends, one of a later superstep, and one in each other state. -/
theorem meets_WindowsReleased : (let at_ (st : WinState) (n : Word) : Window := { base := 64, len := 8, arm := n, state := st }
    (at_ .accepting 4).arm = 4 ∧ (at_ .complete 5).arm ≠ 4 ∧ (at_ .closing 4).state = .closing ∧ (at_ .due 4).state = .due) := by
  decide +kernel

/-- A range past PWLIM, one below PWBASE, one that overlaps a window, and a full table. -/
theorem meets_WindowRefused : (
    let t (t : ThreadSet) : ThreadSet := { t with s := (t.s.set 2 0x17FFC8).set 4 64 }
    let s := cs t
    let low := cs fun u => { t u with pwbase := 0x17FFD0 }
    let full := win (List.replicate 64 {}) s
    s.on {} ∧ s.me.readP 1 = .ok 0x17FFC8 ∧ s.me.readS 4 = .ok 64 ∧ (s.me.pwlim.toNat : Int) < 0x17FFC8 + 64 ∧
    (0x17FFC8 : Int) < low.me.pwbase.toNat ∧ 64 ≤ full.here.shared.windows.length ∧
    (∃ w ∈ (win [{ base := 0x17FFF8, len := 8 }] s).here.shared.windows,
      (0x17FFC8 : Int) < w.base + w.len ∧ (w.base : Int) < 0x17FFC8 + 64)) :=
  ⟨on_bare _, same (by decide +kernel), same (by decide +kernel), by decide +kernel⟩

/-- 16 bytes from address 16 to address 248 of the core itself: two packets. The length at both ends of its range. -/
theorem meets_Sends : (
    let s := cs fun t => { t with s := (((t.s.set 2 16).set 4 248).set 6 16).set 7 65536 }
    s.on {} ∧ s.me.readP 1 = .ok 16 ∧ s.me.readS 4 = .ok 248 ∧ s.me.readS 5 = .ok 0 ∧ s.me.readS 6 = .ok 16 ∧
    s.me.readS 7 = .ok 65536 ∧ 8 * ((0 : BitVec 13).toNat + 1) = 8 ∧ s.coreNamed s.who 0 0 = some (0, 0) ∧
    s.access s.who [(ea 16 0 0, 65536)] = .ok () ∧ s.me.sendsFull = false ∧
    s.loadBytes s.who 16 16 = .ok (List.replicate 16 0)) :=
  ⟨on_bare _, same (by decide +kernel), same (by decide +kernel), same (by decide +kernel), same (by decide +kernel),
    same (by decide +kernel), by decide +kernel, by decide +kernel, same (by decide +kernel), by decide +kernel,
    same (by decide +kernel)⟩

/-- A tag that no entry has, one that an active entry has, and a rival that sends a score. -/
theorem meets_Subscriptions : (
    let s := cs (sxy 5 0)
    let e : Subscription := { tag := 5, stack := 0, chan := 0, base := 0, active := true, leaving := false }
    let u := s.modShared s.who.core fun q => { q with subs := [e] }
    let r := rival (sxy 5 0)
    s.on {} ∧ s.me.readS 1 = .ok 5 ∧ s.me.readS 2 = .ok 0 ∧ s.subscribeCheck 5 0 = .ok () ∧ u.me.readS 1 = .ok 5 ∧
    u.here.shared.subs.find? (fun e => e.tag == 5 && !e.leaving) = some e ∧ r.me.readP 1 = .ok 0 ∧
    (r.gangOf r.who).any (fun g => g.tour.isSome) ∧ r.me.sendsFull = false ∧ (s.gangOf s.who).all (fun g => g.tour = none)) :=
  ⟨on_bare _, same (by decide +kernel), same (by decide +kernel), same (by decide +kernel), same (by decide +kernel),
    by decide +kernel, same (by decide +kernel), by decide +kernel⟩

/-- BAR in and out of a handler; a timeline at the value and short of it. -/
theorem meets_BarrierAndTimelines : (
    let s := cs fun t => { t with s := t.s.set 2 1 }
    s.on {} ∧ s.me.inh = false ∧ (cs fun t => { t with xstat := 1 }).me.inh = true ∧ s.me.freeS 3 = .ok () ∧
    s.who.core.isMemory = false ∧ s.me.readS 2 = .ok 1 ∧ s.me.freeV 0 = .ok () ∧ s.me.readP 1 = .ok 1 ∧ s.me.readP 0 = .ok 0 ∧
    s.timeline s.who 0 = 0 ∧ s.timeline s.who 2 = 0 ∧ s.me.freeP 3 = .ok () ∧ [2, 4, 3].Nodup ∧ (ms).who.core.isMemory = true ∧
    (s.here.shared.windows.filter fun w => w.state == .due).length < 256 ∧ (s.me.sends.filter fun o => !o.join).length < 256) :=
  ⟨on_bare _, by decide +kernel, by decide +kernel, same (by decide +kernel), by decide +kernel, same (by decide +kernel),
    same (by decide +kernel), same (by decide +kernel), same (by decide +kernel), by decide +kernel, by decide +kernel,
    same (by decide +kernel), by decide +kernel⟩

/-! ### Vectors, Flinums and the matrix array -/

/-- Vector registers 1 to 3 carry a format, register 1 with lanes x. -/
def vec (fmt : Fmt) (x : VWord) (t : ThreadSet) : ThreadSet :=
  { t with v := t.v.set 1 x, vTag := ((t.vTag.set 1 fmt).set 2 fmt).set 3 fmt }

theorem meets_VectorArithmetic : (let s := cs (vec .s8 (BitVec.allOnes 256))
    let f := cs (vec .fp32 0)
    s.on {} ∧ s.me.hasV .s8 4 1 2 (BitVec.allOnes 256) 0 ∧ s.me.readV 3 (some .s8) = .ok 0 ∧ f.me.hasV .fp32 4 1 2 0 0 ∧
    f.me.readV 3 (some .fp32) = .ok 0 ∧ Fmt.s8.isInt = true ∧ intMin true 8 ≤ 127 ∧ (127 : Int) ≤ intMax true 8 ∧
    (-129 : Int) < intMin true 8 ∧ intMax true 8 < 128) :=
  ⟨on_bare _, ⟨same (by decide +kernel), same (by decide +kernel), same (by decide +kernel)⟩, same (by decide +kernel),
    ⟨same (by decide +kernel), same (by decide +kernel), same (by decide +kernel)⟩, same (by decide +kernel),
    by decide +kernel⟩

theorem meets_ApproximateFunctions : (let s := cs (vec .fp32 0)
    s.on {} ∧ s.me.readV 1 (some .fp32) = .ok 0 ∧ s.me.freeV 4 = .ok () ∧ (cs (vec .fp16 0)).me.readV 1 (some .fp16) = .ok 0 ∧
    (cs (vec .bf16 0)).me.readV 1 (some .bf16) = .ok 0) :=
  ⟨on_bare _, same (by decide +kernel), same (by decide +kernel), same (by decide +kernel), same (by decide +kernel)⟩

/-- The results of an operand are exact, or overflow; or they are inexact and do not overflow. -/
def exactAt (op a : Nat) : Bool := (rnd .fp32 .rne false (fnNum op (codeVal .fp32 a)).1).2 &&& fINX == 0
def bigAt (op a : Nat) : Bool := (rnd .fp32 .rne false (fnNum op (codeVal .fp32 a)).1).2 &&& fOFL != 0

/-- 1.0 is exact in each function, 2 to the 1000th overflows, 3.0 (and 0.5 for VEXP2) is inexact. -/
theorem meets_FunctionBounds : ((List.range 3).all fun op => exactAt op 0x3F800000) = true ∧ bigAt 1 0x447A0000 = true ∧
    [(0, 0x40400000), (1, 0x3F000000), (2, 0x40400000)].all (fun e => !exactAt e.1 e.2 && !bigAt e.1 e.2) = true := by
  decide +kernel

theorem meets_VectorSelectionAndMovement : (let s := cs (vec .s16 0)
    let t := cs (vec .t6 0)
    s.on {} ∧ s.me.hasV .s16 4 1 2 0 0 ∧ s.me.readV 1 none = .ok 0 ∧ s.me.readV 2 none = .ok 0 ∧ s.me.readV 4 none = .ok 0 ∧
    s.me.freeS 3 = .ok () ∧ s.me.readS 4 = .ok 0 ∧ s.me.tagV 1 ≠ .t6 ∧ t.me.tagV 1 = .t6 ∧
    s.me.readLane .s16 1 = .ok 0 ∧ s.me.freeWide (Fmt.s16 == .fp64) 3 = .ok ()) :=
  ⟨on_bare _, ⟨same (by decide +kernel), same (by decide +kernel), same (by decide +kernel)⟩, same (by decide +kernel),
    same (by decide +kernel), same (by decide +kernel), same (by decide +kernel), same (by decide +kernel),
    by decide +kernel, by decide +kernel, same (by decide +kernel), same (by decide +kernel)⟩

/-- Sources of the format, and sources of another one. -/
theorem meets_VectorSelect : (let s := cs (vec .fp32 0)
    s.on {} ∧ s.me.hasV .fp32 4 1 2 0 0 ∧ s.me.readS 5 = .ok 0 ∧ (∃ e, s.me.readV 4 (some .fp32) = .error e) ∧
    s.me.readV 1 (some .fp32) = .ok 0) :=
  ⟨on_bare _, ⟨same (by decide +kernel), same (by decide +kernel), same (by decide +kernel)⟩, same (by decide +kernel),
    ⟨.trap .format (formatVal 0 4 0 10), same (by decide +kernel)⟩, same (by decide +kernel)⟩

theorem meets_IndexVector : (let s := cs (sxy 0x80000000 0)
    s.on {} ∧ s.me.readS 1 = .ok 0x80000000 ∧ s.me.freeV 4 = .ok ()) :=
  ⟨on_bare _, same (by decide +kernel), same (by decide +kernel)⟩

theorem meets_ReductionsAndDots : (let s := cs fun t => { vec .s8 0 t with vTag := ((vec .s8 0 t).vTag.set 3 .s32) }
    let f := cs fun t => { vec .fp16 0 t with vTag := ((vec .fp16 0 t).vTag.set 3 .fp32) }
    s.on {} ∧ s.me.readV 1 (some .s8) = .ok 0 ∧ s.me.freeWide (Fmt.s8 == .fp64) 3 = .ok () ∧ s.me.hasV .s8 4 1 2 0 0 ∧
    s.me.readV 3 (some (dotAcc .s8)) = .ok 0 ∧ f.me.readV 1 (some .fp16) = .ok 0 ∧ f.me.hasV .fp16 4 1 2 0 0 ∧
    f.me.readV 3 (some (dotAcc .fp16)) = .ok 0 ∧ Fmt.s8.isInt = true ∧ Fmt.fp16.isInt = false) :=
  ⟨on_bare _, same (by decide +kernel), same (by decide +kernel),
    ⟨same (by decide +kernel), same (by decide +kernel), same (by decide +kernel)⟩, same (by decide +kernel),
    same (by decide +kernel), ⟨same (by decide +kernel), same (by decide +kernel), same (by decide +kernel)⟩,
    same (by decide +kernel), by decide +kernel⟩

/-- A narrowing and a widening conversion at the last part; a group of two registers and a block. -/
theorem meets_Conversions : (let s := cs (vec .fp16 0)
    let q := cs (vec .s8 0)
    s.on {} ∧ s.me.readV 1 (some .fp16) = .ok 0 ∧ s.me.freeV 4 = .ok () ∧ s.me.readV 1 none = .ok 0 ∧ s.me.freeS 3 = .ok () ∧
    s.me.vDead[(1 : VReg)] = false ∧ Fmt.fp32.lanes ≤ Fmt.fp16.lanes ∧ 1 * Fmt.fp32.lanes + Fmt.fp32.lanes ≤ Fmt.fp16.lanes ∧
    Fmt.fp16.lanes ≤ Fmt.s8.lanes ∧ 1 * Fmt.fp16.lanes + Fmt.fp16.lanes ≤ Fmt.s8.lanes ∧ s.here.tileFree 0 = .ok () ∧
    s.here.accFree 0 = .ok () ∧ s.me.readGroup .fp16 (groupRegs 2 2) = .ok [0, 0] ∧ s.me.readS 3 = .ok 0 ∧
    q.me.readV 1 (some .s8) = .ok 0 ∧ (∀ r ∈ groupRegs 4 2, q.me.freeV r = .ok ())) :=
  ⟨on_bare _, same (by decide +kernel), same (by decide +kernel), same (by decide +kernel), same (by decide +kernel),
    by decide +kernel, by decide +kernel, by decide +kernel, by decide +kernel, by decide +kernel, same (by decide +kernel),
    same (by decide +kernel), same (by decide +kernel), same (by decide +kernel), same (by decide +kernel),
    fun r hr => same ((by decide +kernel : ∀ r ∈ groupRegs 4 2, alike (((cs (vec .s8 0)).me.freeV r)) (.ok ()) = true) r hr)⟩

/-- The Flinum 1.0 of two limbs. -/
def one2 : Flinum := { neg := false, cls := .normal, exp := 0x800000, limbs := 2, sig := 2 ^ 63 }

/-- Registers f1 to f3 hold it in limbs 0 to 5 of the window. -/
def flo (t : ThreadSet) : ThreadSet :=
  { t with f := ((t.f.set 1 (.resident 0 one2)).set 2 (.resident 2 one2)).set 3 (.resident 4 one2) }

/-- A Flinum instruction that can run: its sources are live, its result is formed and finds its place. -/
def flRuns (s : State) (d : FReg) (srcs : List (FReg × Bool)) (rm : RmCode) (x sat : Bool)
    (form : RmCode → List Machine.Num → Exact) : Bool :=
  srcs.all (fun e => alike (s.me.checkF e.1) (.ok ())) &&
    (match s.refill s.who (d :: srcs.map (·.1)) (srcs.map (·.1)) with
    | .ok s1 =>
      let t := s1.ts s.who
      let vs := srcs.map fun e => flNum (t.valF e.1)
      let r := form (t.mode rm) vs
      (match flFinish t.prec.toNat (t.mode rm) x sat { r with inf := r.inf || vs.any Machine.Num.isInf } with
      | .ok (y, _) => (s1.writeF s.who d srcs y).isOk
      | .error _ => false)
    | .error _ => false)

theorem flinum_met {s : State} {d : FReg} {srcs : List (FReg × Bool)} {rm : RmCode} {x sat : Bool}
    {form : RmCode → List Machine.Num → Exact} (h : flRuns s d srcs rm x sat form = true) :
    ∃ fl t, s.flinum d srcs rm x sat form fl t := by
  unfold flRuns at h
  simp only [Bool.and_eq_true, List.all_eq_true] at h
  obtain ⟨hc, h⟩ := h
  split at h
  · next s1 h1 =>
    split at h
    · next y fl h2 =>
      cases h3 : s1.writeF s.who d srcs y with
      | ok t => exact ⟨fl, t, s1, y, fun e he => same (hc e he), h1, h2, h3⟩
      | error e => rw [h3] at h; exact absurd h Bool.false_ne_true
    · exact absurd h Bool.false_ne_true
  · exact absurd h Bool.false_ne_true

/-- 1 and 1 in two limbs each, rounded exactly to 64 bits. -/
theorem meets_FlinumArithmetic : (let s := cs flo
    let runs := flRuns s 4
    let two := [((1 : FReg), false), (2, true)]
    let fst (vs : List Machine.Num) : Machine.Num := vs.getD 0 .nav
    let snd (vs : List Machine.Num) : Machine.Num := vs.getD 1 .nav
    let unary (f : RmCode → Machine.Num → Machine.Num) (m : RmCode) (vs : List Machine.Num) : Exact :=
      { x := f m (fst vs), flags := if (fst vs).isSnan then fINV else 0 }
    s.on {} ∧ s.me.readS 3 = .ok 0 ∧
    (∃ fl t, s.flinum 4 two .rne true false (fun m vs => Exact.of (addNum m (fst vs) (snd vs))) fl t) ∧
    (runs two .rne true false (fun m vs => Exact.of (addNum m (fst vs) (snd vs).negate)) &&
      runs two .rne true false (fun _ vs => Exact.of (mulNum (fst vs) (snd vs))) &&
      runs two .rne true false (fun _ vs => flDiv (fst vs) (snd vs)) &&
      runs (two ++ [(3, false)]) .rne true false
        (fun m vs => Exact.of (fmaNum m (fst vs) (snd vs) (vs.getD 2 .nav))) &&
      runs [(1, false)] .rne true false (fun _ vs => flSqrt (fst vs)) &&
      runs [(1, false)] .rne true false (unary fun _ v => v.abs) &&
      runs [(1, false)] .rne true false (unary fun m v => roundToInt m v) &&
      runs [(1, false)] .rne true false (unary fun _ v => scaleNum 0 v)) = true) :=
  ⟨on_bare _, same (by decide +kernel), flinum_met (by decide +kernel), by decide +kernel⟩

/-- Rounding: a value of at most eight bits, and one that is longer; both ends of the exponent. -/
theorem meets_FlinumRounding : sigBits 255 ≤ 8 ∧ 8 < sigBits 257 ∧ -8388607 ≤ (0 : Int) + bitLen 257 - 1 ∧
    (0 : Int) + bitLen 257 - 1 < 8388607 ∧ (8 : Nat) ≤ 8 ∧ (512 : Nat) ≤ 512 := by decide +kernel

/-- R99: 2 ^ 33 - 1 at 32 bits carries out of the leading bit; the significand is 1.000... and the exponent one greater. -/
theorem test_rounding_carry : (match flFinish 32 .rne false false { x := .fin false (2 ^ 33 - 1) 0, flags := 0 } with
    | .ok (y, fl) => decide (y.sig = 2 ^ 31 ∧ y.limbs = 1 ∧ y.exp.toNat = 33 + 0x800000 ∧ fl = fINX)
    | .error _ => false) = true := by decide +kernel

/-- Sources of the conversions into Flinums. -/
theorem meets_FlinumFrom : (let s := cs fun t => { flo t with vTag := t.vTag.set 5 .fp64 }
    let runs := flRuns s 4
    let plain (z : Machine.Num) : Exact := { x := z, flags := 0 }
    let r := codeVal .fp64 0
    let lanes := (List.range 4).map fun i => codeVal .fp64 (laneAt (0 : VWord) 64 i)
    s.on {} ∧ s.me.readP 1 = .ok 0 ∧ s.me.readS 2 = .ok 0 ∧ s.me.readV 5 (some .fp64) = .ok 0 ∧
    (∃ fl t, s.flinum 4 [] .rne true false
      (fun _ _ => { x := r, flags := if r.isSnan then fINV else 0, inf := r.isInf }) fl t) ∧
    (∃ fl t, s.flinum 4 [(1, false)] .rne true false (fun m vs =>
      let all := vs ++ lanes
      let sum := lanes.foldl (fun (acc : Machine.Num × Word) z => ((addNum m acc.1 z).1, acc.2 ||| (addNum m acc.1 z).2))
        (vs.headD .nav, 0)
      if all.any Machine.Num.isNan then
        { x := .nan false
          flags := snanFlag all ||| (if lanes.any Machine.Num.isNan || (all.contains (.inf false) && all.contains (.inf true))
            then fINV else 0) }
      else { x := sum.1, flags := sum.2, inf := all.any Machine.Num.isInf }) fl t) ∧
    runs [] .rne true false (fun _ _ => plain (Machine.Num.ofIntAt (0x80000000 : Word).toInt 0)) = true) :=
  ⟨on_bare _, same (by decide +kernel), same (by decide +kernel), same (by decide +kernel), flinum_met (by decide +kernel),
    flinum_met (by decide +kernel), by decide +kernel⟩

/-- Flinums that are in the window are at hand. -/
theorem flinumIn_met {s : State} {srcs : List (FReg × Bool)}
    (h : (srcs.all (fun e => alike (s.me.checkF e.1) (.ok ())) &&
      (s.refill s.who (srcs.map (·.1)) (srcs.map (·.1))).isOk) = true) : ∃ s1 t, s.flinumIn srcs s1 t := by
  simp only [Bool.and_eq_true, List.all_eq_true] at h
  cases h1 : s.refill s.who (srcs.map (·.1)) (srcs.map (·.1)) with
  | ok s1 => exact ⟨s1, s1.ts s.who, fun e he => same (h.1 e he), h1, rfl⟩
  | error e => rw [h1] at h; exact absurd h.2 Bool.false_ne_true

theorem meets_FlinumOut : (let s := cs flo
    s.on {} ∧ (∃ s1 t, s.flinumIn [(1, false), (2, true)] s1 t) ∧ (∃ s1 t, s.flinumIn [(1, false)] s1 t) ∧
    s.me.freeP 3 = .ok () ∧ s.me.freeS 5 = .ok () ∧
    (rnd .fp64 (s.me.mode .rne) false (flNum one2)).2 &&& fINX = 0 ∧
    (rnd .fp64 (s.me.mode .rne) false (.fin false (2 ^ 60 + 1) 0)).2 &&& fINX ≠ 0 ∧
    (rndIntW true 32 (s.me.mode .rne) (flNum one2)).2 = 0 ∧ (rndIntW true 32 (s.me.mode .rne) (.fin false 1 (-1))).2 ≠ 0) :=
  ⟨on_bare _, flinumIn_met (by decide +kernel), flinumIn_met (by decide +kernel), same (by decide +kernel),
    same (by decide +kernel), by decide +kernel⟩

/-- A resident register, a dead one in each dead mode, a window with room and one at its last limbs; zero and the greatest
record. -/
theorem meets_FlinumWindow : (let s := cs flo
    let z := cs fun t => { flo t with deadmode := 1 }
    s.me.f[(1 : FReg)] = .resident 0 one2 ∧ s.me.f[(9 : FReg)] = .dead ∧ s.me.deadZero = false ∧ z.me.deadZero = true ∧
    z.me.f[(9 : FReg)] = .dead ∧ (s.me.release (some 4) [(1, true)]).firstFit 2 = some 0 ∧ s.me.firstFit 2 = some 6 ∧
    one2.cls = .normal ∧ one2.exp ≠ 0 ∧ 2 ^ (32 * one2.limbs - 1) ≤ one2.sig ∧ one2.sig < 2 ^ (32 * one2.limbs)) := by
  decide +kernel

/-- The bytes of a capsule whose literal line holds a record, and a store that holds one. -/
theorem meets_FlinumRegisters : (let s := (cs fun t => { flo t with s := (t.s.set 2 16).set 5 512 })
    let t := s.storeBytes s.who 16 (flRecord one2)
    s.on {} ∧ s.me.readP 1 = .ok 16 ∧ s.me.readS 5 = .ok 512 ∧ s.me.readS 6 = .ok 0 ∧ s.me.freeS 6 = .ok () ∧
    ea 16 0 0 % 4 = 0 ∧ t.access s.who [(ea 16 0 0, 4)] = .ok () ∧ t.loadBytes t.who 16 4 = .ok ((flRecord one2).take 4) ∧
    headLimbs ((flRecord one2).take 4) = 2 ∧ t.access s.who [(ea 16 0 0, 12)] = .ok () ∧
    t.loadBytes t.who 16 12 = .ok (flRecord one2) ∧ parseRecord (flRecord one2) = .ok one2 ∧
    (t.putRecord 4 .rne false false true one2).isOk = true ∧ (t.putRecord 4 .rne false false false one2).isOk = true ∧ (s.capsuleOf s.who).isSome ∧
    (∃ s1 t, s.flinumIn [(1, false)] s1 t)) :=
  ⟨on_bare _, same (by decide +kernel), same (by decide +kernel), same (by decide +kernel), same (by decide +kernel),
    by decide +kernel, same (by decide +kernel), same (by decide +kernel), by decide +kernel, same (by decide +kernel),
    same (by decide +kernel), same (by decide +kernel), by decide +kernel, by decide +kernel, by decide +kernel,
    flinumIn_met (by decide +kernel)⟩

/-- A descriptor of one FP16 element at address 0, every extent 1. -/
def goodDesc : BitVec 256 :=
  [(21, 11), (32, 1), (44, 1), (64, 1), (80, 1), (84, 1), (88, 1), (92, 1), (96, 1), (100, 1), (128, 1), (140, 1)].foldl
    (fun d e => d ||| BitVec.ofNat 256 (e.2 * 2 ^ e.1)) 0

/-- A good record and a bad one of each kind. -/
theorem meets_MatrixState : (let s := cs load
    s.on {} ∧ s.me.readP 1 = .ok 16 ∧ ea 16 0 0 % 8 = 0 ∧ s.access s.who [(ea 16 0 0, 32)] = .ok () ∧
    s.access s.who [(ea 16 0 0, 256)] = .ok () ∧ s.access s.who [(ea 16 0 0, 64)] = .ok () ∧
    s.loadBytes s.who 16 32 = .ok (List.replicate 32 0) ∧ descBad goodDesc = none ∧ descBad 0 = some 0 ∧
    metaBad (ofBytes 2048 (List.replicate 256 0x44)) = none ∧ metaBad 0 = some 0 ∧ s.here.accFree 0 = .ok ()) :=
  ⟨on_bare _, same (by decide +kernel), by decide +kernel, same (by decide +kernel), same (by decide +kernel),
    same (by decide +kernel), same (by decide +kernel), by decide +kernel, by decide +kernel, by decide +kernel,
    by decide +kernel, same (by decide +kernel)⟩

/-- The shared state of the core, changed. -/
def sh (f : Shared → Shared) (s : State) : State := s.modShared s.who.core f

/-- The last row of an FP32 accumulator tile, at a pitch of 64. -/
theorem meets_MatrixDrain : (let s := sh (fun q => { q with accs := q.accs.set 0 { bits := 0, tag := .fp32 } }) (cs load)
    let ps := rowAddrs 16 0 64 1
    s.on {} ∧ s.here.accFree 0 = .ok () ∧ s.me.readP 1 = .ok 16 ∧ s.me.readS 4 = .ok 64 ∧
    s.here.readAcc 0 (some (drainTag s.here.shared.accs[(0 : CReg)].tag .fp16)) = .ok { bits := 0, tag := .fp32 } ∧
    aligned 8 ps = .ok () ∧ s.access s.who (ps.map fun p => (p, 32)) = .ok () ∧
    (drainRow .fp32 .fp16 .rne false 0).1.length = 32) :=
  ⟨on_bare _, same (by decide +kernel), same (by decide +kernel), same (by decide +kernel), same (by decide +kernel),
    same (by decide +kernel), same (by decide +kernel), by decide +kernel⟩

theorem meets_TilePorts : (cs).on {} ∧ (cs).me.freeV 1 = .ok () ∧ (cs).me.readV 1 none = .ok 0 ∧
    (cs).here.tileFree 15 = .ok () :=
  ⟨on_bare _, same (by decide +kernel), same (by decide +kernel), same (by decide +kernel)⟩

/-- MGANG of one core, which is its own feed core; in a handler; and of sixteen cores in lockstep. -/
def joint1 : JointOp :=
  { number := 1, ts := 0, xpc := 0, acc := 0, tile := 0, first := 0, row0 := 0, k0 := 0, desc := goodDesc, aScale := 0
    bScale := 0, smeta := 0, step := 0, joined := false, feed := none, fed := false
    shape := { nlog := 0, g := 0, ks := 0, scl := false, sp := false, col := false, fmt := .fp16 } }

def jointState (f : ThreadSet → ThreadSet := id) : State := sh (fun q => { q with
  desc := goodDesc, tiles := q.tiles.set 0 { bits := 0, tag := .fp16 }, accs := q.accs.set 0 { bits := 0, tag := .fp32 } })
    (cs f)

theorem meets_JointIssue : (let s := jointState
    s.on {} ∧ s.who.core = .compute 0 0 ∧ (s.gangOf s.who).any (fun g => g.lock = false ∧
      g.segOutside (g.segFirst 0 1) 1 0 = false ∧ g.segFirst 0 1 = 0) ∧ s.me.readS 0 = .ok 0 ∧
    s.here.shared.tiles[(0 : MReg)].tag = .fp16 ∧ s.here.shared.accs[(0 : CReg)].tag = .fp32 ∧ s.me.inh = false ∧
    0 % kStep .fp16 false = 0 ∧ s.here.shared.joint.length < 4 ∧ descBad s.here.shared.desc = none ∧
    s.footprintCheck s.who joint1 = .ok () ∧ (jointState fun t => { t with xstat := 1 }).me.inh = true ∧
    ((s.modGang 0 fun g => { g with lock := true }).gangOf s.who).any (fun g => g.lock)) :=
  ⟨on_bare _, by decide +kernel, by decide +kernel, same (by decide +kernel), by decide +kernel, by decide +kernel,
    by decide +kernel, by decide +kernel, by decide +kernel, by decide +kernel, same (by decide +kernel), by decide +kernel⟩

/-- A head that can join by itself, and one that has joined and whose A has been read. -/
theorem meets_JointEvents : (let s := sh (fun q => { q with joint := [joint1] }) jointState
    let d := sh (fun q => { q with joint := [{ joint1 with joined := true, fed := true, feed := some [] }] }) jointState
    s.headFor (.compute 0 0) 0 0 = some joint1 ∧ joint1.step = s.here.sstep ∧ descFmt joint1.desc = some joint1.shape.fmt ∧
    (s.core (.compute 0 0)).gang = some 0 ∧ (s.gang 0).any (fun g => g.err = none ∧ g.rival ≠ .faulted ∧ g.injects = []) ∧
    (d.core (.compute 0 0)).shared.joint.head?.any (fun j => j.joined = true ∧ j.fed = true ∧ j.feed.isSome)) := by
  decide +kernel

/-! ### Global memory, the engines, the mesh, barriers and recovery -/

theorem isOk_ex {α ε : Type} {r : Except ε α} (h : r.isOk = true) : ∃ t, r = .ok t := by
  cases r with
  | ok t => exact ⟨t, rfl⟩
  | error _ => exact absurd h Bool.false_ne_true

/-- The page at the base of global addresses is mapped to physical address 0, read and write. -/
def gva0 : Nat := 0x1000000000000

def mapped (s : State) : State := s.modCtx 0 fun c => (c.withTables 0 gva0).setPte 0 gva0 0x33

/-- A memory task with a mapped parameter, pair 1 the offset, register 4 a staging address. -/
def gs (f : ThreadSet → ThreadSet := id) : State := mapped (par (ms f))

theorem meets_GlobalLoads : (let s := gs
    s.on {} ∧ s.me.readP 1 = .ok 0 ∧ s.me.afterAcquire = .ok () ∧
    s.refcheck s.who 0 (.fmt .fp32) true false (ea 0 0 0) 32 8 = .ok gva0 ∧
    (∃ g, s.gangOf s.who = some g ∧ g.ctx = 0) ∧ s.rangeReach s.who 0 false (pageStarts gva0 32) = .ok ∧
    s.me.freeLd .b64 6 = .ok () ∧ s.me.freeV 1 = .ok () ∧ s.me.readS 4 = .ok 0 ∧ (0 : Word).toNat % 8 = 0 ∧
    s.access s.who [(((0 : Word).toNat : Int), 64)] = .ok ()) :=
  ⟨on_bare _, same (by decide +kernel), same (by decide +kernel), same (by decide +kernel),
    ⟨(par (ms)).gangOf (ms).who |>.getD {}, by decide +kernel, by decide +kernel⟩, by decide +kernel,
    same (by decide +kernel), same (by decide +kernel), same (by decide +kernel), by decide +kernel, same (by decide +kernel)⟩

/-- A line of stores, an empty buffer; one that holds the task's own bytes. -/
theorem meets_GlobalStores : (let s := gs fun t => { t with vTag := t.vTag.set 1 .fp32 }
    s.on {} ∧ s.me.readP 1 = .ok 0 ∧ s.me.afterAcquire = .ok () ∧
    s.refcheck s.who 0 (.fmt .fp32) false true (ea 0 0 0) 32 8 = .ok gva0 ∧
    s.rangeReach s.who 0 true (pageStarts gva0 32) = .ok ∧ s.rangeMigrating 0 gva0 32 = false ∧
    s.me.readSt .b64 4 = .ok (List.replicate 8 0) ∧ s.me.readV 1 (some .fp32) = .ok 0 ∧ s.me.performed .system = .ok () ∧
    (∃ t, s.through.buffer s.who .bytes gva0 (List.replicate 32 0) = .ok t) ∧
    (∃ t, s.through.buffer s.who .release gva0 (List.replicate 8 0) = .ok t) ∧ s.gangId s.who = some 0 ∧
    (s.gangOf s.who).isSome = true ∧ (∀ e ∈ s.here.commit, e.bytes.wf = true) ∧
    commitCount s.here.commit + needed s.here.commit 0 0 .bytes [gva0 / 64] ≤ 8192) :=
  ⟨on_bare _, same (by decide +kernel), same (by decide +kernel), same (by decide +kernel), by decide +kernel,
    by decide +kernel, same (by decide +kernel), same (by decide +kernel), same (by decide +kernel),
    isOk_ex (by decide +kernel), isOk_ex (by decide +kernel), by decide +kernel⟩

/-- The bytes of a pattern of one core that deals from window 0, and one of zeros, which is none. -/
def dealPat : BitVec 128 := BitVec.ofNat 128 0x01010000

theorem meets_AtomicsAndPushes : (let s := gs
    let st := s.modTs s.who fun t => { t with pattern := dealPat }
    s.on {} ∧ s.me.readP 1 = .ok 0 ∧ s.me.afterAcquire = .ok () ∧ s.me.readElem .z32 4 = .ok 0 ∧
    s.me.readElem .z32 5 = .ok 0 ∧ s.refcheck s.who 0 (.width 4) true true (ea 0 0 0) 4 4 = .ok gva0 ∧
    s.rangeReach s.who 0 true (pageStarts gva0 4) = .ok ∧ s.gangId s.who = some 0 ∧
    (∃ t, s.through.buffer s.who (.atom .add .z32 0) gva0 (leBytes 4 0) = .ok t) ∧ s.me.freeElem .z32 6 = .ok () ∧
    (s.through.undrained 0 gva0 4 = false ∧ s.through.globalPoison 0 gva0 4 = false ∧ (s.gangOf s.who).isSome = true) ∧
    s.me.performed .package = .ok () ∧ s.me.freeS 3 = .ok () ∧ s.access s.who [(ea 0 0 0, 16)] = .ok () ∧
    s.loadBytes s.who 0 16 = .ok (List.replicate 16 0) ∧ s.patternBad s.who dealPat = none ∧
    s.patternBad s.who 0 = some 0 ∧ s.pushOperands (.direct 3 4) 0 = .ok (0, 0, 0) ∧ s.me.sendsFull = false ∧
    (s.pushPackets (.direct 3 4) 0 (List.replicate 8 0) 0 0 0).isSome ∧ (st.pushPackets .deal 0 (List.replicate 8 0) 0 0 0).isSome) :=
  ⟨on_bare _, same (by decide +kernel), same (by decide +kernel), same (by decide +kernel), same (by decide +kernel),
    same (by decide +kernel), by decide +kernel, by decide +kernel, isOk_ex (by decide +kernel), same (by decide +kernel),
    by decide +kernel, same (by decide +kernel), same (by decide +kernel), same (by decide +kernel), same (by decide +kernel),
    by decide +kernel, by decide +kernel, same (by decide +kernel), by decide +kernel⟩

/-- A load and a block load that wait for their answers. -/
theorem meets_GlobalAnswers : (
    let a : PendGlobal :=
      { id := 1, reg := .scalar .b32 3, gva := gva0, n := 4, own := [none, none, none, none], acquire := none, step := 0 }
    let l : BlockLoad :=
      { id := 2, number := 1, gva := gva0, dst := 0, n := 8, own := List.replicate 8 none, step := 0, landed := false }
    let s (as : List PendGlobal) := gs fun t => { t with answers := as, loads := [l] }
    let w := (ms).who
    ((s [a]).gangOf w).any (fun g => g.err = none) ∧ ((s [a]).ts w).answers.find? (fun a => a.id == 1) = some a ∧
    (s [a]).awaitsDrain 0 gva0 a.own = false ∧ ((s [a]).ts w).earlierPending 1 gva0 a.own.length = false ∧
    (s [a]).awaitsPage 0 gva0 a.own = false ∧ (s [a]).brokenAhead 0 gva0 a.own = false ∧ (s [a]).poisonAhead 0 gva0 a.own = false ∧
    (s []).accessWaits w 0 2 gva0 l.own = false ∧ (s []).brokenAhead 0 gva0 l.own = false ∧
    (s []).poisonAhead 0 gva0 l.own = false ∧ ((s [a]).ts w).loads.find? (fun l => l.number == 1 && !l.landed) = some l ∧
    ((s []).core w.core).store.wf = true ∧ l.own.length = l.n ∧ l.done = [] ∧ ∀ i ∈ [0], i < l.n / 8) := by decide +kernel

/-- A copy of 8 bytes in global memory (to an image it is sealed), an overlay load of the capsule's line, a remote write of 8 bytes from the store,
as their commands lie at address 0. -/
def copyTo (a : Nat) : List Byte := leBytes 8 gva0 ++ leBytes 8 a ++ leBytes 4 8 ++ List.replicate 20 0
def copyCmd : List Byte := copyTo (gva0 + 65536)
def ovlCmd : List Byte := leBytes 4 0 ++ leBytes 4 1 ++ List.replicate 8 0
def netCmd : List Byte := List.replicate 28 0 ++ leBytes 4 8 ++ List.replicate 16 0

theorem meets_EnginePosts : (
    let s (bs : List Byte) := (cs).storeBytes (cs).who 0 bs
    (s []).on {} ∧ (s []).me.freeP 3 = .ok () ∧ (s []).me.freeS 5 = .ok () ∧ (s []).me.readS 6 = .ok 0 ∧
    (s copyCmd).command 1 0 40 = .ok (0, copyCmd) ∧
    ((s copyCmd).ctx 0).any (fun c => c.copyBad copyCmd = none ∧ c.sealed copyCmd = none ∧
      c.copyBad (List.replicate 40 0) ≠ none ∧ c.copyBad (copyTo gva0) = none ∧ c.sealed (copyTo gva0) ≠ none) ∧ (s copyCmd).copies.length < 16 ∧
    (s ovlCmd).command 1 0 16 = .ok (0, ovlCmd) ∧ (s ovlCmd).overlayBad 1 ovlCmd = none ∧
    (s ovlCmd).coreNamed (cs).who 0 0 = some (0, 0) ∧ (s netCmd).command 1 0 48 = .ok (0, netCmd) ∧ netBad netCmd = none ∧
    (s netCmd).access (cs).who [((cmdWord netCmd 6 % 2 ^ 24 : Nat), cmdWord netCmd 7 % 2 ^ 17)] = .ok () ∧
    (s []).command 1 0 64 = .ok (0, List.replicate 64 0) ∧ (s []).qpostStatus 0 0 ≠ 0 ∧
    ((s []).modQueue 0 0 fun x => { x with prod := true }).qpostStatus 0 0 = 0) :=
  ⟨on_bare _, same (by decide +kernel), same (by decide +kernel), same (by decide +kernel), same (by decide +kernel),
    by decide +kernel, by decide +kernel, same (by decide +kernel), by decide +kernel, by decide +kernel,
    same (by decide +kernel), by decide +kernel, same (by decide +kernel), same (by decide +kernel), by decide +kernel⟩

/-- The copy of 8 bytes whose command is above; one of host memory that ends in a bus error. -/
def job1 : CopyJob := copyJobOf copyCmd 7 0 0 1 (some 0) 0 0 (some (.compute 0 0, 0))

/-- The mapped page is followed by another one, so that the copy reaches both. -/
def mapped2 (s : State) : State := s.modCtx 0 fun c => (c.withTables 1 gva0).setPte 1 gva0 0x33

theorem meets_EngineEvents : (
    let s := mapped2 { cs with copies := [job1] }
    let o : OverlayJob :=
      { id := 8, gang := 0, x := 0, y := 0, number := 1, line := 0, lines := 1, poster := .compute 0 0, ts := 0
        finished := false }
    let u := { s with overlays := [o] }
    let p : Post :=
      { number := 1, gang := 0, q := 0, idx := 0, poster := .compute 0 0, ts := 0, step := 0, opc := 0, aop := 0, elem := 0
        ccnt := 0, rcnt := 0, peer := 0, rkey := 0, roff := 0, laddr := 0, len := 8, opnd := 0, src := List.replicate 8 0
        read := false, released := true, ended := false, tries := [] }
    let n := s.modCtx 0 fun c => { c with posts := [p] }
    s.copies.find? (fun j => j.id == 7 && j.ctx == 0 && !j.finished) = some job1 ∧ (s.ctx job1.ctx).any (fun c =>
      job1.stop c (.done []) = none ∧ job1.late.any c.migrating = false ∧ c.copyStop job1.saddr job1.len false = none) ∧
    job1.endOk (.done []) = true ∧ job1.src = none ∧ job1.sk = 0 ∧ job1.dk = 0 ∧ job1.dig = false ∧
    s.undrained 0 job1.saddr 8 = false ∧ s.globalPoison 0 job1.saddr 8 = false ∧ s.undrained 0 job1.daddr 8 = false ∧
    u.overlays.find? (fun o => o.id == 8 && !o.finished) = some o ∧ (u.core (.compute 0 0)).gang = some 0 ∧
    (u.capsule 0 1).any (fun k =>
      u.codePoison 0 k (if (u.core (.compute 0 0)).ts[0].native then k.bodyId else 0) 0 1 = none) ∧
    (n.ctx 0).any (fun c => c.posts.find? (fun p => p.number == 1 && !p.read) = some p) ∧
    (n.core p.poster).poison = [] ∧ (n.gang p.gang).all (fun g => g.readInject n p.poster p.laddr p.len = none)) := by
  decide +kernel

/-- A packet of 8 bytes from the core to itself, with an open window, with none, and with a refusal before it. -/
def pkt : Packet :=
  { id := 3, sender := { core := .compute 0 0, ts := 0, gang := 0 }, number := 1, tag := 1, untagged := false, x := 0, y := 0
    addr := 64, bytes := List.replicate 8 0, src := 0, sendop := false, op := .write, el := .b64, set := 0, mcast := false }

theorem meets_PacketEvents : (
    let o : OpenSend := { number := 1, left := 1, returned := false, join := false, xpc := 0 }
    let base := cs fun t => { t with sends := [o], sendCount := 1 }
    let w : Window := { base := 64, len := 8, arm := 1 }
    let s := win [w] { base with packets := [pkt] }
    let r : RefusalPkt :=
      { id := 4, sender := pkt.sender, number := 1, x := 0, y := 0, xval := 0, mcast := false, count := 1 }
    let back (b : Bool) :=
      { (cs fun t => { t with sends := [{ o with returned := b }], sendCount := 1 }) with refusals := [r] }
    let sc : ScorePkt := { id := 5, sender := pkt.sender, number := 1, tag := 0, x := 0, y := 0, value := 9 }
    let j : JoinPkt := { id := 6, sender := pkt.sender, number := 1, tag := 5, stack := 0, chan := 0, leave := false }
    let full := List.replicate 64 { x := 0, y := 0, tag := 1, ports := [] : RouterTag }
    s.packets.find? (fun p => p.id == 3) = some pkt ∧ s.liveGang 0 = true ∧ s.firstInLine pkt.sender 1 0 0 3 = true ∧
    (s.core (.compute 0 0)).accepts (pkt.arriving s) = some w ∧
    ((base).core (.compute 0 0)).accepts (pkt.arriving base) = none ∧
    (back true).refusals.find? (fun r => r.id == 4) = some r ∧ (back true).sendOf r.sender 1 = some { o with returned := true } ∧
    (back false).sendOf r.sender 1 = some o ∧ (back true).senderStays r.sender = true ∧
    ({ base with scores := [sc] }).scores.find? (fun p => p.id == 5) = some sc ∧
    ({ base with joins := [j] }).joins.find? (fun p => p.id == 6) = some j ∧
    (joinRouters 5 [] (pushRoute 0 0 0 0).reverse).2 = false ∧
    (joinRouters 5 (full.map fun t => { t with x := (pushRoute 0 0 0 0).head!.1, y := (pushRoute 0 0 0 0).head!.2.1 })
      (pushRoute 0 0 0 0).reverse).2 = true ∧
    (s.core (.compute 0 0)).store.wf = true ∧ pkt.bytes.length = 8 * 1 ∧ pkt.addr % 8 = 0) := by decide +kernel

/-- A gang of two by two cores at the corner of the package: its corner core waits, a core east of it and one south have
arrived, a task waits at its barrier. -/
def gang4 (g : Gang) : Gang := { g with w := 2, h := 2 }

theorem meets_BarrierEvents :
    (let s := (cs fun t => { t with run := .atBar }).modGang 0 gang4
    (s.gang 0).any (fun g => g.barriers = true ∧ g.rels = [] ∧ g.toks = [] ∧ 1 < g.w ∧ 1 < g.h) ∧
    (s.core (.compute 0 0)).gang = some 0 ∧ (s.core (.compute 0 0)).arrived = false ∧
    (∀ t ∈ (s.core (.compute 0 0)).ts.toList, t.arrivedOrRetired = true ∧ t.sends = []) ∧
    (∀ w ∈ (s.core (.compute 0 0)).shared.windows, w.state = .due → w.arm ≠ (s.core (.compute 0 0)).sstep)) ∧
    (let s := (cs).modGang 0 gang4
    let a := s.setCore (.compute 1 0) { (s.core (.compute 0 0)) with arrived := true }
    let b := s.setCore (.compute 0 1) { (s.core (.compute 0 0)) with arrived := true }
    (a.core ((gang4 {}).coreAt 1 0)).arrived = true ∧ (b.core ((gang4 {}).coreAt 0 1)).arrived = true ∧
    (s.gang 0).any (fun g => g.rels.contains (g.coreAt 1 0, 0) = false ∧ g.rels.contains (g.coreAt 0 1, 0) = false) ∧
    ((s.modGang 0 fun g => { g with rels := [(.compute 1 0, 0)] }).gang 0).any (fun g => g.rels.contains (g.coreAt 1 0, 0) = true) ∧
    ((b.modGang 0 fun g => { g with toks := [(1, 1, false)] }).gang 0).any (fun g => (1, 1, false) ∈ g.toks)) ∧
    (let m := ms fun t => { t with run := .atBar }
    m.gangId m.who = some 0 ∧ (m.ts m.who).run = .atBar ∧ (m.ts m.who).sends = [] ∧
    (m.gang 0).any (fun g => g.rels = [] ∧ g.taskAt = [])) ∧
    (let s := (cs fun t => { t with run := .atBar }).modGang 0 fun g =>
      { gang4 g with toks := [(1, 0, false), (0, 1, true)] }
    let d := s.setCore (.compute 0 0) { (s.core (.compute 0 0)) with arrived := true }
    (d.gang 0).any (fun g => s.allRetired g = false ∧ g.rels = [] ∧ g.lateSends = [] ∧ (∀ t ∈ g.tasks, t ∈ g.taskAt)) ∧
    (d.core (.compute 0 0)).arrived = true) := by decide +kernel

/-- A running gang of one core whose release is on its way, with a joint operation that has joined and without; a core behind
one that is not released yet, and behind one that is; a superstep that is repeated; a task's release; a gang whose sets have
all retired, an ordinary one and a rival. -/
theorem meets_ReleaseEvents : (
    let j (b : Bool) := sh (fun q => { q with joint := [{ joint1 with joined := b }] }) (cs)
    let rel (s : State) (r : CoreId × Nat) := s.modGang 0 fun g => { g with rels := [r] }
    let ret := cs fun t => { t with run := .retired }
    ((rel (j false) (.compute 0 0, 0)).gang 0).any (fun g => g.phase = .running ∧ g.rels.contains (.compute 0 0, 0) = true) ∧
    (∀ k ∈ ((j false).cancelJoint (.compute 0 0)).here.shared.joint, k.joined = false) ∧
    (∃ k ∈ ((j true).cancelJoint (.compute 0 0)).here.shared.joint, k.joined = true) ∧
    ((rel (j true) (.compute 0 0, 0)).cancelJoint (.compute 0 0)).goesOn 0 = true ∧
    (gang4 {}).releasedBy (.compute 1 0) = some (.compute 0 0) ∧ (gang4 {}).releasedBy (.compute 0 0) = none ∧
    ({ gang4 {} with rels := [(.compute 0 0, 0), (.compute 1 0, 0)] }).rels.contains (.compute 0 0, 0) = true ∧
    ({ gang4 {} with rels := [(.compute 1 0, 0)] }).rels.contains (.compute 0 0, 0) = false ∧
    (((rel (cs) (.compute 0 0, 0)).modGang 0 fun g => { g with restart := true }).gang 0).any (fun g => g.restart = true) ∧
    ((cs).gang 0).any (fun g => g.restart = false) ∧
    ((rel (ms) (.memory 0 0, 0)).gang 0).any (fun g => g.phase = .running ∧ g.rels.contains (.memory 0 0, 0) = true) ∧
    (ret.gang 0).any (fun g => g.barriers = true ∧ g.rels = [] ∧ ret.allRetired g = true ∧ ret.postsRead g 0 = true ∧
      g.rival = .ordinary ∧ ∀ c ∈ g.rect, (ret.core c).shared.joint = []) ∧ ret.quiet 0 = true ∧
    ((rival).gang 0).any (fun g => g.rival ≠ .ordinary ∧ g.barriers = true)) := by decide +kernel

/-- A core that starts and one whose set waits at its BAR; a task that starts with its set free, the other free, none free, and one
that waits at its BAR, with its set and without; a gang that is swept with an entry left and without. -/
theorem meets_CoreReleased : (
    let a := cs fun t => { t with run := .atBar }
    let i := cs fun t => { t with run := .idle }
    let c : CoreId := .memory 0 0
    let m (f : Task → Task) (r : Vector (Option Nat) 2) := (ms fun t => { t with run := .atBar }).modCore c fun k =>
      { k with running := r, tasks := k.tasks.set 0 (f (k.tasks[0])) }
    let res (r : Vector (Option Nat) 2) := m (fun x => { x with state := .resident, set := 1 }) r
    let e : CommitEntry :=
      { id := 9, ctx := 0, gang := 0, q := 0, slot := 0, step := 0, epoch := 0, line := gva0, bytes := [], mask := [gva0]
        kind := .bytes, draining := false, order := 0 }
    let w := (cs).modCore c fun k => { k with commit := [e] }
    (i.gang 0).isSome ∧ (i.core (.compute 0 0)).ts[0].run = .idle ∧ (a.gang 0).any (fun g => g.rival ≠ .faulted) ∧
    (a.core (.compute 0 0)).ts[0].run ≠ .idle ∧
    (∀ j : Fin 4, (a.core (.compute 0 0)).ts[j.val].run = .atBar → (a.core (.compute 0 0)).ts[j.val].loops = []) ∧
    ((res #v[none, none]).core c).tasks[(0 : Fin 16)].state = .resident ∧
    ((res #v[none, none]).core c).running.toList.getD 1 (some 0) = none ∧
    ((res #v[none, some 3]).core c).running.toList.getD 1 (some 0) ≠ none ∧
    ((res #v[none, some 3]).core c).running.toList.getD (1 - 1) (some 0) = none ∧
    ((res #v[some 2, some 3]).core c).running.toList.getD (1 - 1) (some 0) ≠ none ∧
    ((m (fun x => { x with state := .bound }) #v[some 0, none]).core c).tasks[(0 : Fin 16)].state = .bound ∧
    ((m (fun x => { x with state := .waiting }) #v[none, none]).core c).tasks[(0 : Fin 16)].state = .waiting ∧
    ((m id #v[some 0, none]).core c).ts[(0 : Fin 16)].run = .atBar ∧ ((m id #v[some 0, none]).core c).ts[(0 : Fin 16)].loops = [] ∧
    (w.gang 0).any (fun g => ((w.commitGang 0).releasePosts 0 g).gang 0 = some g ∧
      ∃ e ∈ (w.sweep 0 g).memory, ∃ c ∈ e.2.commit, c.gang = 0) ∧
    ((cs).gang 0).any (fun g => ¬ ∃ e ∈ ((cs).sweep 0 g).memory, ∃ c ∈ e.2.commit, c.gang = 0)) := by decide +kernel

/-- A line of bytes that drains to the mapped page, and to an update-replicated one; a task that is ready and a free thread
set; a task parked on a page; a line of the capsule that a thread set waits for. -/
theorem meets_MemoryCoreEvents : (
    let e : CommitEntry :=
      { id := 9, ctx := 0, gang := 0, q := 0, slot := 0, step := 0, epoch := 0, line := gva0, bytes := [], mask := [gva0]
        kind := .bytes, draining := true, order := 0 }
    let c : CoreId := .memory 0 0
    let s := (mapped (ms)).modCore c fun k => { k with commit := [e] }
    let u := s.modCtx 0 fun k => k.setPte 0 gva0 (pteWith 0x33 2 1)
    let d := (cs fun t => { t with lineHeld := none }).modCore (.compute 0 0) fun k => { k with scratch := [] }
    let r := (ms).modCore c fun k => { k with running := Vector.replicate 2 none, tasks := k.tasks.set 0 { state := .ready } }
    let p := (ms).modCore c fun k => { k with tasks := k.tasks.set 0 { state := .parked, faultPages := [gva0] } }
    (s.core c).commit.find? (fun e => e.id == 9) = some e ∧ e.draining = true ∧ s.entryHeld c e = false ∧
    s.locksFirst e = false ∧ (u.locksFirst e = true ∧ u.entryHeld c e = false) ∧ (s.performEntry c e).isSome ∧
    (r.core c).running.toList.getD 1 (some 0) = none ∧ (r.core c).oldestReady = some 0 ∧
    (p.core c).tasks[(0 : Fin 16)].faultPages = [gva0] ∧ (p.gangOf p.who).isSome ∧ (p.ctx 0).any (fun x =>
      x.walk gva0 = .absent) ∧ p.frameOk 0 0 = true ∧ (CoreId.compute 0 0).isMemory = false ∧
    (d.wantsLine (.compute 0 0) 0).any (fun e => d.fetchPoison e.1 e.2 = none)) := by decide +kernel

/-- Gangs that failed once, three times, past a release point, without a plate, in a superstep that is lost, and while held; at the cycle limit and below it; rivals
with their allowance spent and one short of it; a live tournament whose rival is held; a wait past its bound. -/
def tour0 : Tour :=
  { ctx := 0, q := 0, idx := 0, ox := 0, oy := 0, w0 := 1, h0 := 1, m := 1, k := 0, solo := false, allow0 := 1, limit := 0
    cycles := 0, rivals := [0], annexWins := [], faults := [], live := true }

theorem meets_RecoveryEvents : (
    let bad := (cs).modGang 0 fun g => { g with err := some .parity }
    let spent := (cs).modGang 0 fun g => { g with cycles := g.limit }
    let t := { (rival) with tours := [(0, tour0)] }
    let out := t.modGang 0 fun g => { g with count := 1024 }
    let held := t.modGang 0 fun g => { g with rival := .held }
    let f : WaitFor := { addr := 8, cmp := 0, deadline := some 0, hit := false, d := 5, markA := none, markB := none }
    (bad.gang 0).any (fun g => g.err.isSome = true ∧ g.rels = [] ∧ g.rival = .ordinary ∧ g.lost = false ∧ g.noplate = false ∧
      g.nonroll = false ∧ g.retries < 2) ∧
    (((rival).modGang 0 fun g => { g with err := some .parity }).gang 0).any (fun g => g.err.isSome ∧ g.rels = [] ∧ g.rival = .running) ∧
    ((bad.modGang 0 fun g => { g with lost := true }).gang 0).any (fun g => g.err.isSome ∧ g.lost = true ∧ g.noplate = false) ∧
    ((held.modGang 0 fun g => { g with err := some .poison }).gang 0).any (fun g => g.err.isSome ∧ g.lost = false ∧
      g.rival = .held) ∧
    ((bad.modGang 0 fun g => { g with retries := 2 }).gang 0).any (fun g => 2 ≤ g.retries) ∧
    ((bad.modGang 0 fun g => { g with nonroll := true }).gang 0).any (fun g => g.nonroll = true) ∧
    ((bad.modGang 0 fun g => { g with noplate := true }).gang 0).any (fun g => g.noplate = true) ∧
    (spent.gang 0).any (fun g => g.phase = .running ∧ g.tour = none ∧ g.limit ≤ g.cycles) ∧
    ((cs).gang 0).any (fun g => g.cycles < g.limit) ∧
    (out.gang 0).any (fun g => g.tour = some 0 ∧ g.rival = .running ∧ tour0.solo = false ∧ tour0.live = true ∧ tour0.allow0 * 1024 * 2 ^ tour0.k ≤ g.count) ∧
    (t.gang 0).any (fun g => g.count < tour0.allow0 * 1024 * 2 ^ tour0.k) ∧ held.tours.find 0 = some tour0 ∧
    (∀ r ∈ tour0.rivals.filterMap held.gang, r.err = none ∧ r.rels = [] ∧ r.rival = .held) ∧ tour0.k < tour0.m ∧
    (∀ r ∈ tour0.rivals.filterMap (held.modGang 0 fun g => { g with err := some .poison }).gang, r.err.isSome ∧ r.lost = false) ∧
    (t.tours.find 0).any (fun u => u.limit ≤ u.cycles) ∧ (tour0.rivals.filterMap t.gang).head?.isSome ∧
    ({ tour0 with limit := 1 }).cycles < ({ tour0 with limit := 1 }).limit ∧
    ((cs fun t => { t with run := .atWait f }).ts (cs).who).run = .atWait f ∧ past (cs).now f.deadline = true ∧
    ((ms fun t => { t with run := .atWait { f with hit := true } }).ts (ms).who).run = .atWait { f with hit := true } ∧
    past (cs).now none = false) := by
  decide +kernel

/-- A gang of one core and one task that waited at its BAR as the superstep began, with a plated block. -/
theorem meets_RolledBack : (
    let c : CoreId := .memory 0 0
    let s := ((ms).modGang 0 fun g => { g with shadowTasks := [(0, 0, 0)], err := some .parity }).modCore c fun k =>
      { k with shadowTs := k.shadowTs.set 0 { run := .atBar } }
    let k : Core := { store := [(0, 1)], plate := [(0, 0)] }
    (s.gang 0).any (fun g => g.shadowRival ≠ .faulted ∧ ∀ t ∈ g.shadowTasks,
      (s.core (.memory t.1 t.2.1)).shadowTs[Fin.ofNat 16 t.2.2].run = .atBar ∧
      (s.core (.memory t.1 t.2.1)).shadowTs[Fin.ofNat 16 t.2.2].loops = []) ∧
    k.store.wf = true ∧ (k.plate.map fun e => e.1 % 4096).Nodup) := by decide +kernel

/-- Two rivals of one core each in the last round, both held, the one in front by its score, its count and its index; both faulted.
A queue in the domain of a teardown and one outside it. -/
def duel (f : Nat → Gang → Gang) : State :=
  let s := (cs).modGang 0 fun g => f 0 { g with tour := some 0, rival := .held }
  let g := f 1 { ((s.gang 0).getD {}) with ox := 1, bidx := 1, fault := none, rival := if (s.gang 0).any (·.rival == .held) then .held else .faulted }
  { s with gangs := s.gangs.put 1 g, tours := [(0, { tour0 with rivals := [0, 1] })] }

theorem meets_RoundEnded : (
    let s := duel fun _ g => g
    let w := duel fun i g => { g with count := 1 - i }
    let u := s.modShared (.compute 1 0) fun q => { q with score := 5 }
    let f := duel fun _ g => { g with rival := .faulted, fault := some (.prot, 0, 0, false) }
    s.tours.find 0 = some { tour0 with rivals := [0, 1] } ∧ tour0.m = tour0.k + 1 ∧
    (s.gang 0).any (fun x => (s.gang 1).any fun y => x.bidx / 2 ^ 0 = 0 ∧ y.bidx / 2 ^ 0 = 1 ∧ x.rival = .held ∧ y.rival = .held ∧
      x.count = y.count ∧ x.bidx < y.bidx) ∧
    (w.gang 0).any (fun x => (w.gang 1).any fun y => y.count < x.count) ∧
    (s.gang 0).any (fun x => x.ox < 32 ∧ (let r := tour0.groupRect 0 1
      r.1 + r.2.2.1 ≤ 32 ∧ x.ox < r.1)) ∧
    ((u.core (.compute 0 0)).shared.score.toInt : Int) < (u.core (.compute 1 0)).shared.score.toInt ∧
    (f.gang 0).any (fun x => (f.gang 1).any fun y => x.rival = .faulted ∧ y.rival = .faulted ∧ x.fault.isSome ∧ x.bidx < y.bidx) ∧
    tour0.faults = [] ∧ (f.ctx 0).any (fun c => (c.queues.find 0).isSome) ∧ 0 ∈ s.domain 0 0 0 ∧ 1 ∉ s.domain 0 0 0 ∧
    (s.queue 0 0).any (fun x => x.state ≠ .torn)) := by decide +kernel

/-! ### Queues and gangs -/

/-- The record at the head of queue 0, whose ring lies at physical address 65536 and holds n records. -/
def ringAt (x : Queue) (n : Nat) : Queue := { x with ring := gva0 + 65536, head := 0, free := 0, tail := n, log2n := 6 }

def rec (bs : List Byte) (f : Queue → Queue := id) : State :=
  ((mapped2 (dev)).globalWrite 0 (gva0 + 65536) (bs ++ List.replicate (64 - bs.length) 0)).modQueue 0 0 fun x => f (ringAt x 1)

def headOk (s : State) (kind : Nat) (p : Context → Queue → List Byte → Bool) : Bool :=
  match s.ctx 0, s.queue 0 0 with
  | some c, some x =>
    match s.headRecord 0 x with
    | some bs => decide (x.state = .running) && decide (x.pending ≠ 0) && !s.launching 0 0 && decide (x.skip = 0)
      && !s.globalPoison 0 (x.ring + 64 * x.head) 64 && !c.recordBad x bs && decide (fieldAt bs 0 1 = kind)
      && p c x bs
    | none => false
  | _, _ => false

theorem head_met {s : State} {kind : Nat} {p : Context → Queue → List Byte → Bool} (h : headOk s kind p = true) :
    ∃ c x bs, s.head 0 0 kind c x bs ∧ p c x bs = true := by
  unfold headOk at h
  split at h
  · next c x hc hx =>
    split at h
    · next bs hb =>
      simp only [Bool.and_eq_true, decide_eq_true_eq, Bool.not_eq_true'] at h
      exact ⟨c, x, bs, ⟨hc, hx, h.1.1.1.1.1.1.1, h.1.1.1.1.1.1.2, h.1.1.1.1.1.2, hb, h.1.1.1.1.2, h.1.1.1.2, h.1.1.2, h.1.2⟩, h.2⟩
    · exact absurd h Bool.false_ne_true
  · exact absurd h Bool.false_ne_true

/-- Queues in every state; a doorbell that the ring takes, and one past FREE; a word of each command. -/
theorem meets_QueueRequests : (
    let s (st : QState) := (dev).modQueue 0 0 fun x => { x with state := st }
    let n := 2 ^ 6
    (dev).devClass ≠ .fatal ∧ ((s .running).queue 0 0).any (fun x => x.log2n = 6 ∧ x.state = .running ∧ x.prod = false ∧
      (2 % 65536 % n + n - x.tail % n) % n ≤ (x.free + n - 1 - x.tail % n) % n ∧
      (x.free + n - 1 - x.tail % n) % n < (0 % 65536 % n + n - x.tail % n) % n) ∧
    (dev).doorbellAt 0 0x100000 = some (0, 0) ∧ (2 : DWord).toNat / 65536 % 8 = 0 ∧
    (∀ n ∈ [1, 2, 3, 4, 5], (BitVec.ofNat 64 (65536 * n)).toNat / 65536 % 8 = n) ∧
    (∀ st ∈ [QState.running, .quiesced, .halted, .torn], ((s st).queue 0 0).any (fun x => x.state = st)) ∧
    (((dev).modQueue 0 0 fun x => { x with prod := true }).queue 0 0).any (fun x => x.prod)) := by decide +kernel

/-- A launch record of one core and one thread set, and the LAUNCH record that names it. -/
def launch5 : Launch :=
  { handle := 5, capsule := 1, depn := 0, counter := 0
    header := List.replicate 8 0 ++ leBytes 8 1000 ++ leBytes 4 0x00010101 ++ leBytes 2 1 ++ List.replicate 42 0
    entries := [leBytes 4 1 ++ leBytes 4 0 ++ leBytes 4 0x1000 ++ List.replicate 4 0] }

def launchRec : List Byte := leBytes 4 1 ++ leBytes 4 5

/-- The queue's group has a budget of four cores and four slots. -/
def group7 : Region :=
  { handle := 7, kind := 3, ovr := 0xE0, prio := 0, blmin := 0, noplate := false, lock := false, fdom := 0, parent := 0
    cores := 4, slots := 4, limit := 1000, rect := 0, ctx := 0, qtab := 0 }

def withLaunch (s : State) : State :=
  ({ s with regions := [group7] }.modCtx 0 fun c => { c with launches := [launch5] }).modQueue 0 0 fun x =>
    { x with group := 7 }

/-- A queue whose ring page's table entry lies in a poisoned line. -/
def brokenRing : State := (rec launchRec).modCtx 0 fun c =>
  { c with lost := [0, 1, 2, 3, 4].map fun l => tableLine c.root l (gva0 + 65536) }

/-- One record of each kind at the head: well formed, its word mapped and its test true or false as R420 gives it; one to
skip, a malformed one, and one whose walk meets an error. -/
theorem meets_RecordEvents :
    (brokenRing.queue 0 0).any (fun x => x.state = .running ∧ x.pending ≠ 0 ∧ brokenRing.headRecord 0 x = none ∧
      brokenRing.walkBroken 0 (x.ring + 64 * x.head) = true ∧ brokenRing.launching 0 0 = false) ∧
    (let s := withLaunch (rec launchRec)
    ∃ c x bs, s.head 0 0 1 c x bs ∧
      (!x.checked && s.launchError c x bs == 0 && (c.launchOf bs).isSome) = true) ∧
    (∃ c x bs, (rec launchRec).head 0 0 1 c x bs ∧ ((rec launchRec).launchError c x bs != 0) = true) ∧
    (let s := rec (leBytes 4 2 ++ leBytes 4 7 ++ leBytes 8 1)
    ∃ c x bs, s.head 0 0 2 c x bs ∧ (s.serves 0 0 && decide (c.recordTl 7 0 < 1)) = true) ∧
    (let s := rec (leBytes 4 3 ++ leBytes 4 1 ++ leBytes 8 1 ++ leBytes 8 gva0)
    ∃ c x bs, s.head 0 0 3 c x bs ∧ (s.serves 0 0 && decide (x.signalTl < fieldAt bs 8 8)
      && ((s.noteServed 0 0).recordDenied 0 0 bs).isNone) = true) ∧
    (let s := rec (leBytes 4 4 ++ leBytes 4 0 ++ copyCmd)
    ∃ c x bs, s.head 0 0 4 c x bs ∧ (s.serves 0 0 && (c.sealed (bytesAt bs 8 40)).isNone) = true) ∧
    (let s := rec (leBytes 4 4 ++ leBytes 4 0 ++ copyTo gva0)
    ∃ c x bs, s.head 0 0 4 c x bs ∧ (s.serves 0 0 && (c.sealed (bytesAt bs 8 40)).isSome) = true) ∧
    (let s := rec (leBytes 4 5 ++ leBytes 4 1 ++ leBytes 8 gva0)
    ∃ c x bs, s.head 0 0 5 c x bs ∧ (s.serves 0 0 && ((s.noteServed 0 0).recordDenied 0 0 bs).isNone) = true) ∧
    (let s := rec (leBytes 4 6 ++ leBytes 4 1 ++ leBytes 8 (gva0 + 131072)) fun x => { x with
      slots := [{ idx := 63, kind := 5, done := true, hold := true }] }
    ∃ c x bs, s.head 0 0 6 c x bs ∧ (s.serves 0 0 && fieldAt bs 24 4 == 0
      && (x.slots.any fun u => u.idx == (x.head + x.size - fieldAt bs 4 2) % x.size && u.hold)
      && ((s.noteServed 0 0).recordDenied 0 0 bs).isNone && (s.noteServed 0 0).testWord 0 bs) = true) ∧
    (let s := rec (leBytes 4 5 ++ leBytes 4 1 ++ leBytes 8 gva0) fun x => { x with skip := 1 }
    (s.queue 0 0).any (fun x => x.skip ≠ 0 ∧ x.pending ≠ 0 ∧ (s.headRecord 0 x).isSome)) ∧
    (let s := rec [9]
    (s.queue 0 0).any (fun x => x.skip = 0 ∧ ((s.headRecord 0 x).bind fun bs => (s.ctx 0).map fun c =>
      c.recordBad x bs) = some true)) := by
  refine ⟨?_, head_met ?_, head_met ?_, head_met ?_, head_met ?_, head_met ?_, head_met ?_, head_met ?_, head_met ?_, ?_, ?_⟩ <;>
    decide +kernel

/-- A checked head for which there is room, and whose capsule has no parameter, or one that nothing binds; a gang about to start, whose record stands at the head. -/
theorem meets_GangEvents : (
    let s := (withLaunch (rec launchRec)).modQueue 0 0 fun x => { x with checked := true }
    let g := s.modGang 0 fun g => { g with phase := .starting, launch := 5 }
    let t := s.takeReservations
    let p := withCap s (fun k => { k with params := [{ name := 0, fmt := .fp32, rank := 0, acc := 1 }] })
    let u := p.takeReservations
    (∀ v ∈ [t, u], (v.queue 0 0).any (fun x => (v.room 0 0 x).isSome ∧ (v.wantsRoom 0 0 x).isSome ∧ v.serves 0 0 = true)) ∧
    (t.ctx 0).any (fun c => (c.capsule 1).any fun k => c.bindsOk launch5 k) ∧
    (u.ctx 0).any (fun c => (c.capsule 1).any fun k => !c.bindsOk launch5 k) ∧
    launch5.rivals = none ∧ (g.queue 0 0).any (fun x => x.state = .running) ∧
    ((g.modQueue 0 0 fun x => { x with state := .halted }).queue 0 0).any (fun x => x.state ≠ .running) ∧ (g.gang 0).any (fun g => g.phase = .starting ∧ g.tour = none) ∧
    (g.queue 0 0).any (fun x => (g.headRecord 0 x).isSome) ∧ (g.ctx 0).any (fun c => (c.launch 5).isSome ∧
      (c.capsule 1).isSome)) := by decide +kernel

/-- A tournament of two rivals of one core: its record's head, and its start. -/
def launchTour : Launch := { launch5 with entries := launch5.entries ++ [leBytes 1 7 ++ [1, 1, 1] ++ leBytes 4 1 ++ List.replicate 8 0] }

theorem meets_Tournament : (
    let s := ((withLaunch (rec launchRec)).modCtx 0 fun c => { c with launches := [launchTour] }).modQueue 0 0 fun x =>
      { x with checked := true }
    let t := s.takeReservations
    let r := { (cs) with tours := [(0, tour0)] }.modGang 0 fun g => { g with tour := some 0, phase := .starting }
    launchTour.rivals = some (1, 1, 1, 1) ∧ (t.queue 0 0).any (fun x => (t.room 0 0 x).any (fun e => e.1 = launchTour) ∧
      (t.wantsRoom 0 0 x).isSome ∧ t.serves 0 0 = true) ∧
    (t.ctx 0).any (fun c => (c.capsule 1).any fun k => c.bindsOk launchTour k) ∧ r.tours.find 0 = some tour0 ∧
    (r.gang 0).any (fun g => g.tour = some 0 ∧ g.phase = .starting)) := by decide +kernel

/-- The same core for a gang of the context that it had, and of another one. -/
theorem meets_CoreReserved : (let k : Core := { lastCtx := some 0, store := [(0, 1)] }
    k.lastCtx = some 0 ∧ k.lastCtx ≠ some 1 ∧ k.store ≠ []) := by decide +kernel

/-! ### The network engine, the host, firmware and operations -/

/-- A packet of a whole message of 8 bytes from peer 4 that writes to key 9. -/
def inPkt : NetPacketIn :=
  { origin := .peer 4, message := 1, lastSeq := 0, seq := 0, opc := 0, aop := 0, elem := 0, rkey := 9, roff := 131072
    bytes := List.replicate 8 1, operand := 0, rcnt := 0, total := 8 }

/-- Context 0 registers key 9 for its first 2 MiB, to write; its counters lie there too. -/
def remote (k : RemoteKind) (used : Nat := 0) : State :=
  mapped2 (dev fun c => { c with remotes := [{ rkey := 9, kind := k, used := used }], counters := gva0 + 2 ^ 20 })

def post1 : Post :=
  { number := 1, gang := 0, q := 0, idx := 0, poster := .compute 0 0, ts := 0, step := 0, opc := 0, aop := 0, elem := 0
    ccnt := 0, rcnt := 0, peer := 4, rkey := 9, roff := 0, laddr := 0, len := 8, opnd := 0, src := List.replicate 8 0
    read := true, released := true, ended := false, tries := [(0, 7)] }

def wire1 : WirePkt :=
  { ctx := 0, peer := 4, number := 1, seq := 0, opc := 0, aop := 0, elem := 0, rkey := 9, roff := 0
    bytes := List.replicate 8 0, opnd := 0, rcnt := 0, total := 8 }

/-- The counters of a context lie in a page whose table entry lies in a poisoned line. -/
def brokenCounter (s : State) : State := s.modCtx 0 fun c =>
  { c with lost := [0, 1, 2, 3, 4].map fun l => tableLine c.root l (c.counters) }

/-- A packet that is placed, one that was placed before, one whose key is unknown; a post in flight at its last retry. -/
theorem meets_NetworkEvents : (
    let s := remote (.global gva0 (2 ^ 21) true)
    let r : Remote := { rkey := 9, kind := .global gva0 (2 ^ 21) true, used := 0 }
    let t := { (dev fun c => { c with posts := [post1] }) with wire := [wire1] }
    s.devClass ≠ .fatal ∧ (s.ctx 0).any (fun c => (c.inboundOf inPkt.origin 1).err = 0 ∧
      (c.inboundOf inPkt.origin 1).complete = false ∧ 0 ∉ (c.inboundOf inPkt.origin 1).placed ∧
      c.remotes.find? (fun r => r.rkey == inPkt.rkey) = some r ∧ s.netRefusal c inPkt true = none ∧
      c.netReach (netTargets inPkt r true) = .ok ∧
      (∀ t ∈ netTargets inPkt r true, s.undrained 0 t.1 t.2 = false ∧ s.rangeMigrating 0 t.1 t.2 = false ∧
        s.globalPoison 0 t.1 t.2 = false)) ∧ s.counterReady 0 0 = true ∧
    ((dev).ctx 0).any (fun c => (dev).netRefusal c inPkt true = some 2) ∧
    s.counterError 0 inPkt.rcnt = none ∧ (brokenCounter s).counterReady 0 inPkt.rcnt = true ∧
    ((brokenCounter s).counterError 0 inPkt.rcnt).isSome ∧
    t.flying 0 1 = some post1 ∧ (t.ctx 0).any (fun c => c.peers.find post1.peer = none) ∧
    (t.wire.any fun w => w.ctx == 0 && w.number == 1 && w.seq == 0) = true ∧ (post1.tries.find 0).getD 0 = 7) := by
  decide +kernel

/-- A torn context, a read-only buffer, a message one word past the end, a full ring. -/
theorem meets_NetworkRefusals : (
    let small := remote (.global gva0 8 true)
    let torn := (dev).modCtx 0 fun c => { c with queues := c.queues.map fun q => (q.1, { q.2 with state := .torn }) }
    (torn.ctx 0).any (fun c => c.torn = true) ∧ ((dev).ctx 0).any (fun c => c.torn = false ∧
      c.remotes.find? (fun r => r.rkey == inPkt.rkey) = none) ∧
    (small.ctx 0).any (fun c => c.torn = false ∧ (c.remotes.find? (fun r => r.rkey == inPkt.rkey)).isSome) ∧
    8 < inPkt.start + inPkt.total ∧
    ((remote (.ring gva0 64 1) 1).ctx 0).any (fun c => (c.remotes.find? (fun r => r.rkey == inPkt.rkey)).any fun r =>
      1 ≤ r.used)) := by decide +kernel

/-- An aperture window over the mapped page past the image; an access outside it; the first and the last device counter; a
window, a peer and a key to set. -/
theorem meets_HostAccess : (
    let a : Aperture := { fn := 0, off := 0, ctx := 0, gva := gva0 + 131072, len := 64 }
    let s := { (mapped2 (dev)) with apertures := [a] }
    s.devClass ≠ .fatal ∧ ({ s with devClass := .fatal }).devClass = .fatal ∧ s.apertureFor 0 0 64 = some a ∧
    s.apertureFor 0 1 64 = none ∧ (s.ctx 0).any (fun c => c.fn = 0 ∧ c.apertureDenied a.gva 64 false = false ∧
      c.apertureDenied a.gva 64 true = false ∧ c.apertureDenied gva0 64 true = true ∧ c.apertureDenied (gva0 + 2 ^ 21) 8 false = true) ∧
    s.undrained 0 a.gva 64 = false ∧ s.rangeMigrating 0 a.gva 64 = false ∧ s.serving = true ∧ 64 + 64 ≤ 2 ^ 36 ∧
    (∀ i ∈ [0, 11], s.devCounters.list[i]? = some 0) ∧ (0 : Nat) ≠ 0xFF8 ∧
    gva0 + 64 ≤ Config.gvaHigh + 1 ∧ (∀ b ∈ s.apertures, b.fn = 0 → 64 + 64 ≤ b.off ∨ b.off + b.len ≤ 64) ∧
    remoteOk (.ring gva0 64 1) = true) := by decide +kernel

/-- The smallest object: one line of NOPs, no handler, at level 3. -/
def object1 : List Byte :=
  leBytes 4 0x31424F50 ++ leBytes 2 1 ++ [3, 0] ++ leBytes 4 0 ++ leBytes 4 0xFFFFFFFF ++ leBytes 4 0 ++ leBytes 4 64 ++
  leBytes 4 1 ++ leBytes 12 0 ++ leBytes 8 64 ++ leBytes 8 240 ++ leBytes 8 0 ++
  (leBytes 8 0 ++ leBytes 8 256 ++ leBytes 8 64 ++ leBytes 24 0) ++ List.replicate 128 0xFF ++ List.replicate 16 0 ++
  leBytes 64 (placedLine (word 0x01 0 0 0 0 0 0 0 0 0 0 0 0)).toNat

/-- A file that passes and one that is no object; a capsule that nothing uses and one that runs; a capsule in each state
of a build. -/
theorem meets_CapsuleRequests : (
    let idle := { (dev) with gangs := [] }
    let one (s : State) (f : Capsule → Bool) : Bool := (s.ctx 0).any fun c =>
      match c.capsules.filter (fun x => x.handle == 1) with
      | [k] => f k
      | _ => false
    let p := withCap (dev) fun k => { k with state := .portable, test := false }
    let r := withCap (dev) fun k => { k with state := .rebuilding, bodyLen := 65536 }
    (dev).serving = true ∧ parseObject [] = none ∧ (parseObject object1).any (fun o => (dev).objectError o false = 0 ∧
      (dev).objectError { o with level := 4 } false ≠ 0 ∧ 3 ≤ o.level ∧ ((dev).ctx 0).any (fun c =>
        ((dev).place 0 c o false).isSome)) ∧
    one (dev) (fun k => !k.withheld && k.state = .native) ∧ ((dev).ctx 0).any (fun c => (dev).capsuleBusy 0 c 1 = true) ∧
    (idle.ctx 0).any (fun c => idle.capsuleBusy 0 c 1 = false) ∧
    one p (fun k => k.state = .portable && !k.test && !k.queued) ∧
    one (withCap p fun k => { k with queued := true }) (fun k => k.queued && k.state = .portable) ∧
    one r (fun k => k.state = .rebuilding && !k.queued && decide (65536 ≤ k.bodyLen) && decide (k.bodyLen < 131072))) := by
  decide +kernel

/-- Bytes of a root node of the region tree. -/
def root : List Byte := [0, 0xFF, 0, 0x10] ++ leBytes 4 0 ++ leBytes 4 1024 ++ leBytes 4 4096 ++ leBytes 8 1000 ++ List.replicate 40 0

/-- Context 1 of function 0, whose index 0 is taken; a root, and a tournament under lockstep; a queue for a group of the
context, absent, torn, running, and one in an image. -/
theorem meets_ContextRequests : (
    let s := dev
    let grp : List Region :=
      [{ handle := 5, kind := 2, ovr := 0, prio := 0, blmin := 0, noplate := false, lock := false, fdom := 0, parent := 0
         cores := 0, slots := 0, limit := 0, rect := 0, ctx := 0, qtab := 0 },
       { group7 with parent := 5 }]
    let g := { (dev) with regions := grp }
    let r := { (dev) with regions := [{ regionOf 3 root with prio := 9 }] }
    s.serving = true ∧ s.ctx 1 = none ∧ (∀ e ∈ s.contexts, e.2.fn = 0 → e.2.local_ ≠ 1) ∧
    (∃ e ∈ s.contexts, e.2.fn = 0 ∧ e.2.local_ = 0) ∧ (r.region 3).any (fun x => x.kind = (regionOf 3 root).kind) ∧
    regionForm root (regionOf 3 root) = true ∧ r.regionPlaced (regionOf 3 root) = true ∧ regionForm [] (regionOf 3 []) = false ∧
    s.lockedTournament = false ∧ ({ (dev) with regions := [{ group7 with handle := 9, kind := 4, lock := true, ovr := 0xFF }] } :
      State).lockedTournament = true ∧ (s.ctx 0).any (fun c => c.sealedRange gva0 (64 * 2 ^ 6) = true ∧
        c.sealedRange (gva0 + 2 ^ 20) (64 * 2 ^ 6) = false ∧ (gva0 + 2 ^ 20) % 65536 = 0) ∧ g.groupOf 0 7 = true ∧ gva0 % 65536 = 0 ∧ Config.gvaLow ≤ gva0 ∧ gva0 + 64 * 2 ^ 16 ≤ Config.gvaHigh + 1 ∧
    (g.ctx 0).any (fun c => c.queues.find 63 = none ∧ (c.queues.find 0).any (fun x => x.state ≠ .torn)) ∧
    ((dev).gang 0).any (fun g => ∀ e ∈ (dev).gangs, e.1 = 0 → e.2 = g) ∧ g.queueCount < 1024 ∧ ((g.modQueue 0 0 fun x => { x with state := .torn }).queue 0 0).any (fun x => x.state = .torn)) := by
  decide +kernel

/-- A page to map, one that is mapped, one that migrates to a free frame, one that a copy pins. -/
theorem meets_PageRequests : (
    let s := dev
    let m := (mapped2 (dev)).modCtx 0 fun c => { c with capsules := [] }
    let g := m.modCtx 0 fun c => c.setPte 1 gva0 0x133
    let p := { m with copies := [{ job1 with gang := none }] }
    s.serving = true ∧ (s.ctx 0).any (fun c => s.mapOk c gva0 0 0 1 0xFF = true) ∧
    (m.ctx 0).any (fun c => c.pte 1 gva0 ≠ 0 ∧ pteLeaf (c.pte 1 gva0) = true ∧ c.sealedRange gva0 (pageBytes 1) = false ∧
      c.walk gva0 = .leaf 1 0x33 ∧ c.sealedRange gva0 1 = false) ∧ gva0 % pageBytes 1 = 0 ∧ pteMig 0x33 = false ∧
    (g.ctx 0).any (fun c => c.walk gva0 = .leaf 1 0x133 ∧ ∀ e ∈ c.migrates, e.2 ≠ gva0) ∧ pteMig 0x133 = true ∧
    g.pinned 0 gva0 (pageBytes 1) false = false ∧ g.frameOk 1 (2 ^ 21) = true ∧
    p.pinned 0 gva0 (pageBytes 1) false = true ∧ p.pinned 0 gva0 (pageBytes 1) true = true ∧
    m.pinned 0 gva0 (pageBytes 1) true = false ∧ (p.ctx 0).any (fun c => (c.page gva0).any fun e =>
      p.evictable c e.1 e.2.1 e.2.2 = true ∧ p.pinned 0 e.2.2 (pageBytes e.1) true = true) ∧
    (∀ x ∈ m.hbmPoison, meets (pteAddr 0x33) (pageBytes 1) (64 * x) 64 = false)) := by decide +kernel

/-- An error that context 0 may inject into its launch record 5; a stopped thread set and a running one. -/
theorem meets_InjectionAndDebug : (
    let s := (withLaunch (dev)).modCtx 0 fun c => { c with injection := true }
    let b : List Byte := [1, 3, 0, 0] ++ leBytes 4 5 ++ List.replicate 24 0
    let st := { (cs fun t => { t with run := .stopped }) with devClass := .ready }
    s.serving = true ∧ (s.ctx 0).any (fun c => c.injection = true ∧ (c.launch (fieldAt b 4 4)).isSome = true) ∧
    injectOk b = true ∧ (dev).visible ((dev).debugWho (.compute 0 0) 0) = false ∧
    st.visible (st.debugWho (.compute 0 0) 0) = true ∧ (st.ts (st.debugWho (.compute 0 0) 0)).run = .stopped ∧
    ((dev).ts ((dev).debugWho (.compute 0 0) 0)).run ≠ .stopped) := by decide +kernel

/-- The digest of 64 zero bytes. -/
def zeroDigest : List Byte := leBytes 32 0x4BFB5927A93198EAE8F0D920233D00439B9709D36EEF982730206AD142FDA5F5

/-- The entries of a manifest of step 7 over three devices whose shards are zero. -/
def ckEntries : List Byte := (List.range 9).flatMap fun i => leBytes 8 7 ++ leBytes 1 (i / 3) ++ leBytes 1 (i % 3) ++
  leBytes 1 (if i / 3 = i % 3 then 1 else 0) ++ leBytes 5 0 ++ zeroDigest

/-- The header of a shard of step 7 with 64 zero bytes (R478). -/
def ckHeader (stripe dev : Nat) : List Byte :=
  leBytes 8 7 ++ leBytes 4 1 ++ leBytes 1 stripe ++ leBytes 1 dev ++ leBytes 1 (if stripe = dev then 1 else 0) ++
    leBytes 1 0 ++ leBytes 8 64 ++ leBytes 8 0 ++ zeroDigest

/-- The shards of devices 1 and 2, as they are read and as a restore sees them. -/
def ckPeers : List (Nat × Nat × List Byte) := (List.range 6).map fun i =>
  (i / 2, i % 2 + 1, ckHeader (i / 2) (i % 2 + 1) ++ List.replicate 64 0)

def ckSeen : List SeenShard := (List.range 6).map fun i =>
  { stripe := i / 2, dev := i % 2 + 1, step := 7, bytes := List.replicate 64 0 }

/-- With two of three devices a restore is possible. -/
theorem meets_Restore : (ckPeers.filterMap fun p => seenShard 1 p.1 p.2.1 p.2.2) = ckSeen ∧
    ({ devices := 3, step := 7, z := 64, entries := ckEntries, shards := ckSeen } : Restore).possible = true ∧
    restoreStep 3 [] [[7], [7]] = some 7 ∧ restoreStep 3 [] [[7]] = none := by decide +kernel

/-- A group of three devices on free memory; a checkpoint of 64 bytes of a quiesced context, of one that is not, of sealed
bytes, of bytes that have yet to drain, and in an area that is too small; the header of the first shard of a slot; a restore of more bytes than there are. -/
def ckg : CkGroup := { group := 1, devices := 3, self := 0, ctx := 0, area := 2 ^ 30, areaLen := 2 ^ 20 }

theorem meets_Checkpoints : (
    let q := { (dev fun c => { c with queues := c.queues.map fun x => (x.1, { x.2 with state := .quiesced }) }) with gangs := [] }
    let s : State := { q with ckGroups := [ckg], hbm := q.hbm.writeN (2 ^ 30 + 16384) (ckHeader 0 0) }
    let e : CommitEntry :=
      { id := 9, ctx := 0, gang := 0, q := 0, slot := 0, step := 0, epoch := 0, line := gva0 + 2 ^ 20, bytes := []
        mask := [gva0 + 2 ^ 20], kind := .bytes, draining := true, order := 0 }
    let drains := (mapped2 s).modCore (.memory 0 0) fun k => { k with commit := [e] }
    let z := ckZ ckg.devices (max 0 ([(gva0 + 2 ^ 20, 64)].foldl (fun n b => n + b.2) 0))
    (dev).serving = true ∧ (dev).ckGroup 1 = none ∧ ((dev).ctx 0).isSome = true ∧ (2 ^ 30) % 64 = 0 ∧ paOk (2 ^ 30) = true ∧
    paOk (2 ^ 30 + 2 ^ 20 - 1) = true ∧ 2 ^ 30 / 2 ^ 36 = (2 ^ 30 + 2 ^ 20 - 1) / 2 ^ 36 ∧
    (dev).frameFree (2 ^ 30) (2 ^ 20) = true ∧ s.serving = true ∧ s.ckGroup 1 = some ckg ∧
    ((dev).ctx 0).any (fun c => (dev).quiesced 0 c = false) ∧ (q.ctx 0).any (fun c => s.quiesced 0 c = true ∧
      c.ckSealed [(gva0 + 2 ^ 20, 64)] = false ∧ c.ckSealed [(gva0, 64)] = true) ∧ z = 64 ∧
    s.buffersReady 0 [(gva0 + 2 ^ 20, 64)] false = true ∧ s.buffersReady 0 [(gva0 + 2 ^ 20, 64)] true = true ∧
    drains.buffersReady 0 [(gva0 + 2 ^ 20, 64)] false = false ∧
    ckg.manifestOf 7 (ckHead 1 3 7 64 ++ ckEntries) = some (64, ckEntries) ∧
    ckAreaLen 3 z ≤ ckg.areaLen ∧ ({ ckg with areaLen := 64 }).areaLen < ckAreaLen 3 z ∧
    ([List.replicate 64 0, List.replicate 64 0] : List (List Byte)).length + 1 = ckg.devices ∧
    s.ckTarget ckg = false ∧ s.ckRead (ckg.shardAt false 0 0) 64 = some (ckHeader 0 0) ∧ fieldAt (ckHeader 0 0) 16 8 = 64 ∧
    bytesAt (ckHeader 0 0) 0 14 = leBytes 8 7 ++ leBytes 4 1 ++ leBytes 1 0 ++ leBytes 1 0 ∧
    ckEntries.length = 48 * ckg.devices * ckg.devices ∧ s.ckSteps ckg = [] ∧ s.ckAt ckg 7 = none ∧
    (3 - 1) * 64 < 129 ∧ 64 ≤ (3 - 1) * 64) := by decide +kernel

/-- A device whose first start is to come, ready, failed and fatal ones, one whose start runs (in a step that fails, in one that
does not, in its last one), one whose contexts are quiesced, and the last one-time index. -/
theorem meets_BringUp : (
    let q := { (dev fun c => { c with queues := c.queues.map fun x => (x.1, { x.2 with state := .quiesced }) }) with gangs := [] }
    let run (n : Nat) (l : List Nat) : StartRun := { warm := false, fail := n, fenced := [], slot := 0, other := false, todo := l }
    let at_ (n : Nat) (l : List Nat) : State := { (dev) with starting := some (run n l) }
    State.reset.starting = none ∧ (dev).starting = none ∧ (at_ 0 [7, 8]).starting = some (run 0 [7, 8]) ∧
    (at_ 0 [8]).starting = some (run 0 [8]) ∧ (at_ 7 [7, 8]).starting = some (run 7 [7, 8]) ∧ (run 7 [7, 8]).fail = 7 ∧
    (run 0 [7, 8]).fail ≠ 7 ∧ (∀ k ∈ [DevClass.ready, .failed, .fatal], ({ (dev) with devClass := k }).devClass = k) ∧
    ({ (dev) with railsOff := true }).railsOff = true ∧ State.reset.bootable State.reset.fwActive = true ∧ State.reset.failedStarts < 3 ∧ (dev).devClass = .ready ∧
    (dev).railsOff = false ∧ (dev).bootable (dev).fwActive = true ∧ (dev).serving = true ∧
    (∀ e ∈ q.contexts, q.quiesced e.1 e.2 = true) ∧ (List.replicate 32 (0 : Byte)).length = 32 ∧
    ({ (dev) with attestIndex := 2 ^ 20 - 1 }).attestIndex < 2 ^ 20 ∧ 2 ^ 20 ≤ ({ (dev) with attestIndex := 2 ^ 20 }).attestIndex) := by
  decide +kernel

/-- The clock above 1 GHz and at it; a store word, a line struck twice, a replica; the shadow of a lockstep pair; a voted instruction,
a lockstep gang. -/
theorem meets_PowerAndErrors : (
    let s := { (dev) with eccSeen := [(0, 0)] }
    let r := (mapped2 (dev)).modCtx 0 fun c => c.setPte 1 gva0 (pteWith 0x33 2 3)
    let sense (n : Nat) (v : Word) : State := { (dev) with sensed := [(n, v)] }
    let read (n : Nat) (v : Word) : Int := ((sense n v).reading n).toInt
    (∀ e ∈ [(191, 9500), (191, 10500)], 9500 ≤ read e.1 e.2) ∧ 8800 ≤ read 199 8800 ∧ read 231 5699 < 5700 ∧
    10 * ((dev).powerCap : Int) < read 296 18001 ∧ 10500 ≤ read 0 10500 ∧ 9500 ≤ read 192 9500 ∧ read 200 5399 < 5400 ∧
    6600 < read 231 6601 ∧ (dev).railsOff = false ∧ (sense 0 1).sensed.find 0 = some 1 ∧
    (let cool : State := { (dev) with sensed := (List.range 297).map fun n => (n, if 200 ≤ n ∧ n < 232 then 6000 else 0) }
    cool.mustThrottle = false ∧ cool.mustTrip = false) ∧
    (dev).serving = true ∧ (dev).retired.length < 8192 ∧ 1000 < (dev).clockMhz ∧ ({ (dev) with clockMhz := 1000 }).clockMhz ≤ 1000 ∧
    8 < Config.lsTop ∧ (dev).leaderOf (.compute 31 31) = .compute 31 31 ∧
    (let l := ((dev).modGang 0 fun g => { g with lock := true }).modCore (.compute 0 0) fun k => { k with twin := some {} }
    l.leaderOf (.compute 1 0) = .compute 0 0 ∧ (l.core (.compute 0 0)).twin = some {}) ∧ paOk 0 = true ∧
    s.eccSeen.find (0 / 65536) = some 0 ∧ s.picos - 0 ≤ 24 * 3600 * 10 ^ 12 ∧
    (r.ctx 0).any (fun c => match c.walk gva0 with
      | .leaf _ p => pteKind p = 2 ∧ (pteRmask p).testBit 1 = true ∧ 1 ≠ paStack (pteAddr p)
      | _ => false)) ∧
    (let s := State.reset.placeWord (word 0x02 1 0 0 0 1 2 3 0 0x01 0 0 0)
    s.mayIssue s.who = true ∧ (s.wordAt s.who).any slotVote = true ∧ alike (s.fetch s.who) (.ok (.isub { vote := true } 1 2 3 false)) = true) ∧
    (let s := (cs).modGang 0 fun g => { g with lock := true }
    (s.gangOf s.who).any fun g => g.issues && g.lock) := by decide +kernel

/-! ### The step, frames and decoding -/

/-- The thread set of a placed word issues it; each kind of turn of the agenda. -/
theorem meets_StepRunsDecoded : (
    let s := State.reset.placeWord (word 0x01 0 0 0 0 0 0 0 0 0 0 0 0)
    let c : CoreId := .compute 0 0
    let s0 := ({ s with tick := s.tick + 1 }).beginCycle c
    let k := s0.core c
    let w : Who := { core := c, t := 0 }
    let s1 : State := { s0.setCore c { k with schedRun := k.schedRun + s0.cost w } with who := w }
    let kap := placedCapsule (word 0x01 0 0 0 0 0 0 0 0 0 0 0 0)
    s.agenda = [] ∧ s.turn = c ∧ (s.core c).cycled = false ∧ k.voting c = false ∧ k.schedRun < 64 ∧
    k.whoAt c k.sched = some w ∧ s0.mayIssue w = true ∧ (s0.ts w).bubbles = [] ∧ (s1.ts w).traps = [] ∧
    s1.capsuleOf w = some kap ∧ kap.lineAt (s1.ts w).pc.toNat = some (placedLine (word 0x01 0 0 0 0 0 0 0 0 0 0 0 0)) ∧
    entryStop kap (s1.ts w).pc.toNat = none ∧ s1.lineAbsent w = none ∧
    (match exec (.nop {}) (s1.modTs w fun t => { t with enter := false, lineHeld := none }) with
    | .next t => decide (s1.heldBy t w (.nop {}) [] = none) && tookSlot (t.issued s1 w (.nop {}) 0)
    | _ => false) = true) ∧
    decode .compute (lineSlot (placedLine (word 0x01 0 0 0 0 0 0 0 0 0 0 0 0)) 0) = .ok (.nop {}) ∧
    (∀ u ∈ [Turn.event .throttleStep, .issue (.compute 0 0), .tick, .upset { core := .compute 0 0, t := 0 } .vote false 0,
      .stray 0 0 0, .corrupt .records 0 1, .sense 3 9], ({ (cs) with agenda := [u, .tick] }).agenda = u :: [.tick]) :=
  ⟨by decide +kernel, same (by decide +kernel), by decide +kernel⟩

/-- A guard on p1, which is false. -/
theorem meets_MachineGoesOn : (cs).me.guard { pg := 1 } = false ∧ (Instr.nop { pg := 1 }).fields.isSome = true := by
  decide +kernel

theorem meets_Frames : (cs).who.core.exists = true ∧ (cs).passes ∧ (cs).on {} ∧ (cs).me.has2 3 1 2 0 0 ∧
    (let s := cs (vec .fp32 0)
    s.me.hasV .fp32 4 1 2 0 0 ∧ s.me.readV 3 (some .fp32) = .ok 0 ∧ s.me.readS 5 = .ok 0) ∧ (cs).me.readP 1 = .ok 0 ∧
    (cs).me.readSt .b64 4 = .ok (List.replicate 8 0) ∧ (cs).access (cs).who [(ea 0 0x17FFF8 0, 8)] = .ok () ∧
    (cs).me.readV 1 none = .ok 0 ∧ (cs).me.loops = [] ∧ (cs).me.freeLd .b64 4 = .ok () ∧
    (cs).loadBytes (cs).who 0 8 = .ok (List.replicate 8 0) ∧ (cs).here.store.wf = true :=
  ⟨by decide +kernel, .inr (by
      have h : (cs).me.loops = [] := by decide +kernel
      intro f ls
      simp [h, loopEnd]), on_bare _,
    ⟨same (by decide +kernel), same (by decide +kernel), same (by decide +kernel)⟩,
    ⟨⟨same (by decide +kernel), same (by decide +kernel), same (by decide +kernel)⟩, same (by decide +kernel),
      same (by decide +kernel)⟩,
    same (by decide +kernel), same (by decide +kernel), same (by decide +kernel), same (by decide +kernel), by decide +kernel, same (by decide +kernel), same (by decide +kernel), by decide +kernel⟩

theorem meets_DecodeEncode : WellFormed .compute (.iadd { pg := 7, dmA := true } 31 30 29 true) = true ∧
    (Instr.iadd { pg := 7, dmA := true } 31 30 29 true).fields.isSome = true ∧ opClass 0x09 = none := by decide +kernel

/-- The reset state is one whose memory is in form, and it steps. -/
theorem meets_MemoryKept : State.reset.MemWf ∧ State.reset.hbm.wf = true := by
  refine ⟨⟨rfl, ?_, ?_, ?_⟩, rfl⟩ <;> intro e h <;> exact absurd h (by simp [State.reset])


/-! ## Statements of several parts

`Transfers`: `meets_Transfers`, `meets_TargetRule`. `LoopsAndHalt`: `meets_LoopInstructions`, `meets_LoopPass`,
`meets_LoopPassTwo`, `meets_HaltAndYield`, `meets_Yield`. `TrapEntry`: `meets_TrapEntry`, `meets_NestedTrap`. `WriteControl`: `meets_WriteControl`,
`meets_CounterControl`. `WaitsAndRequests`: `meets_WaitInstruction`, `meets_BuildRequest`, `meets_TournamentInstructions`.
`LandingWindows`: `meets_LandingWindows`, `meets_WindowsReleased`. `SubscriptionsAndBarriers`: `meets_Subscriptions`,
`meets_BarrierAndTimelines`. `ApproximateFunctions`: `meets_ApproximateFunctions`, `meets_FunctionBounds`.
`FlinumArithmetic`: `meets_FlinumArithmetic`, `meets_FlinumRounding`. `FlinumConversions`: `meets_FlinumFrom`,
`meets_FlinumOut`. `FlinumRegisters`: `meets_FlinumWindow`, `meets_FlinumRegisters`. `MatrixAndTiles`: `meets_MatrixState`,
`meets_MatrixDrain`, `meets_TilePorts`. `JointOperations`: `meets_JointIssue`, `meets_JointEvents`. `GlobalAccesses`:
`meets_GlobalLoads`, `meets_GlobalStores`. `ReleaseEvents`: `meets_ReleaseEvents`, `meets_CoreReleased`.
`RecoveryEvents`: `meets_RecoveryEvents`, `meets_RolledBack`, `meets_RoundEnded`. `GangEvents`: `meets_GangEvents`,
`meets_Tournament`, `meets_CoreReserved`. `NetworkEvents`:
`meets_NetworkEvents`, `meets_NetworkRefusals`. `Checkpoints`: `meets_Checkpoints`, `meets_Restore`.
`ResetState` and `DecodeWords` have no hypothesis. -/

end Sys2Proof.Tests
end

section
/-! SUPPORT. What keeps memory in canonical form. `State.MemWf` speaks of global memory and of every core's store: an update
that leaves all of them as they were is rewritten away by `simp` (an `↔` each), and one that writes bytes keeps the form
(an implication each). Lemmas stand in the order of the definitions they speak of. -/
namespace Sys2Proof.Machine

/-! ## Tables and updates of the state -/

section Tables
variable {α : Type} {p : α → Prop}

/-- An entry that a table gives, or its default, has a property that every entry and the default have. -/
theorem Table.find_getD_of_forall {t : Table α} {d : α} (n : Nat) (hd : p d) (h : ∀ e ∈ t, p e.2) :
    p ((t.find n).getD d) := by
  cases e : t.find n with
  | none => exact hd
  | some v => exact h _ (Table.find_mem e)

/-- An entry replaced by one that agrees with it on a property leaves the property of the whole table as it was. -/
theorem Table.forall_put_iff (t : Table α) (n : Nat) {v d : α} (hd : p d) (hv : p v ↔ p ((t.find n).getD d)) :
    (∀ e ∈ t.put n v, p e.2) ↔ ∀ e ∈ t, p e.2 := by
  refine ⟨fun h => ?_, fun h e he => ?_⟩
  · induction t with
    | nil => simp
    | cons e r ih =>
      obtain ⟨j, u⟩ := e
      simp only [Table.put] at h
      split_ifs at h with hlt heq
      · exact fun e he => h e (List.mem_cons_of_mem _ he)
      · subst heq
        rw [List.forall_mem_cons] at h ⊢
        exact ⟨by simpa [Table.find] using hv.1 h.1, h.2⟩
      · rw [List.forall_mem_cons] at h ⊢
        exact ⟨h.1, ih (by simpa [Table.find, Ne.symm heq] using hv) h.2⟩
  · obtain rfl | he := Table.mem_put he
    · exact hv.2 (Table.find_getD_of_forall n hd h)
    · exact h e he

end Tables

theorem Mem.wfFrom_filter (m : Mem) (lo : Nat) (keep : Host.Cell → Bool) (hm : Mem.wfFrom lo m = true) :
    Mem.wfFrom lo (m.filter keep) = true := by
  induction m generalizing lo with
  | nil => rfl
  | cons e r ih =>
    obtain ⟨a, b⟩ := e
    simp only [Mem.wfFrom, Bool.and_eq_true, decide_eq_true_eq] at hm
    obtain ⟨⟨hlo, hb⟩, hr⟩ := hm
    rw [List.filter_cons]
    split
    · simp [Mem.wfFrom, hlo, hb, ih (a + 1) hr]
    · exact ih lo (Mem.wfFrom_mono r lo (a + 1) (by omega) hr)

/-- Bytes taken out of a store leave it in form. -/
theorem Mem.wf_filter (m : Mem) (keep : Host.Cell → Bool) (hm : m.wf = true) : Mem.wf (m.filter keep) = true :=
  m.wfFrom_filter 0 keep hm

section Updates
variable {s : State}

/-- The canonical form speaks of global memory and of the cores' tables only. -/
@[simp] theorem State.memWf_with (s : State) (agenda turn who now tick nextId evt gangs tours contexts regions packets refusals
    scores joins routers copies overlays qposts deferred wire hbmPoison hbmLost poisonRecords eccSeen remaps retiredFrames
    flashRemaps flashRetired apertures irqs reports answers devCounters devClass devDetail railsOff failedStarts starting
    fwA fwB fwActive fwLeaf attestIndex clockMhz picos powerCap sensed kctx served ckGroups ckOut) :
    State.MemWf { s with
      agenda, turn, who, now, tick, nextId, evt, gangs, tours, contexts, regions, packets, refusals
      scores, joins, routers, copies, overlays, qposts, deferred, wire, hbmPoison, hbmLost, poisonRecords, eccSeen, remaps
      retiredFrames, flashRemaps, flashRetired, apertures, irqs, reports, answers, devCounters, devClass, devDetail, railsOff
      failedStarts, starting, fwA, fwB, fwActive, fwLeaf, attestIndex, clockMhz, picos, powerCap, sensed, kctx, served
      ckGroups, ckOut } ↔ s.MemWf := Iff.rfl

/-- The same where global memory stands as what it was before the update. -/
@[simp] theorem State.memWf_with_hbm {hbm : Mem} (hm : hbm = s.hbm) (agenda turn who now tick nextId evt gangs tours contexts
    regions packets refusals scores joins routers copies overlays qposts deferred wire hbmPoison hbmLost poisonRecords eccSeen
    remaps retiredFrames flashRemaps flashRetired apertures irqs reports answers devCounters devClass devDetail railsOff
    failedStarts starting fwA fwB fwActive fwLeaf attestIndex clockMhz picos powerCap sensed kctx served ckGroups ckOut) :
    State.MemWf { s with
      agenda, turn, who, now, tick, nextId, evt, gangs, tours, contexts, regions, packets, refusals
      scores, joins, routers, copies, overlays, qposts, deferred, wire, hbm, hbmPoison, hbmLost, poisonRecords, eccSeen, remaps
      retiredFrames, flashRemaps, flashRetired, apertures, irqs, reports, answers, devCounters, devClass, devDetail, railsOff
      failedStarts, starting, fwA, fwB, fwActive, fwLeaf, attestIndex, clockMhz, picos, powerCap, sensed, kctx, served
      ckGroups, ckOut } ↔ s.MemWf := by
  subst hm
  rfl

theorem State.MemWf.with_hbm (h : s.MemWf) {m : Mem} (hm : m.wf = true) (ps : List Nat) :
    State.MemWf { s with hbm := m, hbmPoison := ps } := ⟨hm, h.2⟩

/-- Every memory core changes but for its store. -/
@[simp] theorem State.memWf_with_memory {f : Nat × Core → Nat × Core} (hf : ∀ e, (f e).2.store = e.2.store) (n : Nat) :
    State.MemWf { s with nextId := n, memory := s.memory.map f } ↔ s.MemWf := by
  simp only [State.MemWf, List.forall_mem_map, hf]

@[simp] theorem State.memWf_ite {c : Prop} [Decidable c] {a b : State} :
    (if c then a else b).MemWf ↔ if c then a.MemWf else b.MemWf := by
  split <;> rfl

@[simp] theorem State.memWf_core (h : s.MemWf) (c : CoreId) : (s.core c).store.wf = true := h.core c

@[simp] theorem State.memWf_setCore {c : CoreId} {k : Core} (hk : k.store = (s.core c).store) :
    (s.setCore c k).MemWf ↔ s.MemWf := by
  have key (t : Table Core) (n : Nat) (e : k.store = ((t.find n).getD { }).store) :
      (∀ e ∈ t.put n k, e.2.store.wf = true) ↔ ∀ e ∈ t, e.2.store.wf = true :=
    t.forall_put_iff (p := fun k : Core => k.store.wf = true) n (d := { }) rfl (by rw [e])
  cases c <;> simp only [State.setCore, State.MemWf, key _ _ hk]

@[simp] theorem State.memWf_modCore {c : CoreId} {g : Core → Core} (hg : (g (s.core c)).store = (s.core c).store) :
    (s.modCore c g).MemWf ↔ s.MemWf := State.memWf_setCore hg

@[simp] theorem State.memWf_setTs (w : Who) (t : ThreadSet) : (s.setTs w t).MemWf ↔ s.MemWf := by simp [State.setTs]

@[simp] theorem State.memWf_modShared (c : CoreId) (g : Shared → Shared) : (s.modShared c g).MemWf ↔ s.MemWf := by
  simp [State.modShared]

@[simp] theorem State.memWf_modGang (g : Nat) (f : Gang → Gang) : (s.modGang g f).MemWf ↔ s.MemWf := by
  unfold State.modGang
  split <;> simp

@[simp] theorem State.memWf_modCtx (c : Nat) (f : Context → Context) : (s.modCtx c f).MemWf ↔ s.MemWf := by
  unfold State.modCtx
  split <;> simp

@[simp] theorem State.memWf_modQueue (c q : Nat) (f : Queue → Queue) : (s.modQueue c q f).MemWf ↔ s.MemWf := by
  simp [State.modQueue]

@[simp] theorem State.memWf_modCapsule (c h : Nat) (f : Capsule → Capsule) : (s.modCapsule c h f).MemWf ↔ s.MemWf := by
  simp [State.modCapsule]

/-- Updates that each leave the canonical form as it was, one for each entry of a list, leave it as it was. -/
@[simp] theorem State.memWf_foldl {α : Type} {f : State → α → State} (hf : ∀ s a, (f s a).MemWf ↔ s.MemWf) (l : List α) :
    (l.foldl f s).MemWf ↔ s.MemWf := by
  induction l generalizing s with
  | nil => rfl
  | cons a r ih => exact ih.trans (hf s a)

/-- Updates that each keep the canonical form, one for each entry of a list, keep it. -/
theorem State.MemWf.foldl {α : Type} {f : State → α → State} (h : s.MemWf) (l : List α)
    (hf : ∀ s a, s.MemWf → (f s a).MemWf) : (l.foldl f s).MemWf := by
  induction l generalizing s with
  | nil => exact h
  | cons a r ih => exact ih (hf s a h)

@[simp] theorem Core.store_ite {c : Prop} [Decidable c] {a b : Core} :
    (if c then a else b).store = if c then a.store else b.store := by
  split <;> rfl

/-- Updates of a core that leave its store alone, one for each entry of a list. -/
@[simp] theorem Core.foldl_store {α : Type} {f : Core → α → Core} (hf : ∀ k a, (f k a).store = k.store) (l : List α)
    {k : Core} : (l.foldl f k).store = k.store := by
  induction l generalizing k with
  | nil => rfl
  | cons a r ih => exact ih.trans (hf k a)

/-- Updates of a core that each keep its store in form, one for each entry of a list, keep it. -/
theorem Core.foldl_wf {α : Type} {f : Core → α → Core} (hf : ∀ k a, k.store.wf = true → (f k a).store.wf = true) (l : List α)
    {k : Core} (hk : k.store.wf = true) : (l.foldl f k).store.wf = true := by
  induction l generalizing k with
  | nil => exact hk
  | cons a r ih => exact ih (hf k a hk)

end Updates

/-! ## How an instruction ends -/

/-- A result leaves memory in canonical form. -/
def Kept (r : Result) : Prop := ∀ t, r = .next t → t.MemWf

@[simp] theorem kept_next (t : State) : Kept (.next t) ↔ t.MemWf := by
  simp [Kept]

@[simp] theorem kept_ite {c : Prop} [Decidable c] {a b : Result} : Kept (if c then a else b) ↔ if c then Kept a else Kept b := by
  split <;> rfl

theorem Kept.ite {c : Prop} [Decidable c] {a b : Result} (ha : c → Kept a) (hb : ¬ c → Kept b) :
    Kept (if c then a else b) := by
  split
  · exact ha ‹_›
  · exact hb ‹_›

/-- A stop that carries a state, which is that of an instruction done in part, carries one in canonical form. -/
def Stop.MemWf : Stop → Prop
  | .part t => t.MemWf
  | _ => True

@[simp] theorem Stop.memWf_trap (c : Cause) (x : Word) : (Stop.trap c x).MemWf := trivial
@[simp] theorem Stop.memWf_pxh (n : Word) : (Stop.pxh n).MemWf := trivial
@[simp] theorem Stop.memWf_wait (e : Nat) : (Stop.wait e).MemWf := trivial
@[simp] theorem Stop.memWf_park (ps : List Nat) : (Stop.park ps).MemWf := trivial
@[simp] theorem Stop.memWf_check (c : ErrSrc) (i : Option Nat) (a : Nat) : (Stop.check c i a).MemWf := trivial
@[simp] theorem Stop.memWf_hold (r : RunState) : (Stop.hold r).MemWf := trivial
@[simp] theorem Stop.memWf_part (t : State) : (Stop.part t).MemWf ↔ t.MemWf := Iff.rfl

/-- A computation's value has a property, and the state that its stop carries, if any, is in canonical form. -/
def Safe {α : Type} (p : α → Prop) : Except Stop α → Prop
  | .ok a => p a
  | .error e => e.MemWf

/-- A computation whose stop carries no state out of form. -/
abbrev Clean {α : Type} (x : Except Stop α) : Prop := Safe (fun _ => True) x

section Safe
variable {α β : Type} {p : α → Prop} {q : β → Prop}

@[simp] theorem safe_ok (a : α) : Safe p (.ok a) ↔ p a := Iff.rfl
@[simp] theorem safe_error (e : Stop) : Safe p (.error e : Except Stop α) ↔ e.MemWf := Iff.rfl

@[simp] theorem safe_ite {c : Prop} [Decidable c] {a b : Except Stop α} :
    Safe p (if c then a else b) ↔ if c then Safe p a else Safe p b := by
  split <;> rfl

theorem Safe.ite {c : Prop} [Decidable c] {a b : Except Stop α} (ha : c → Safe p a) (hb : ¬ c → Safe p b) :
    Safe p (if c then a else b) := by
  split
  · exact ha ‹_›
  · exact hb ‹_›

/-- After a computation that is clean, what follows it decides. -/
@[simp] theorem safe_bind {x : Except Stop β} {f : β → Except Stop α} (hx : Clean x) :
    Safe p (x >>= f) ↔ ∀ b, x = .ok b → Safe p (f b) := by
  cases x with
  | ok b => exact ⟨fun h a e => Except.ok.inj e ▸ h, fun h => h b rfl⟩
  | error e => exact ⟨fun _ _ hb => absurd hb (by simp), fun _ => hx⟩

theorem Safe.after {x : Except Stop β} {f : β → Except Stop α} (hx : Clean x) (h : ∀ b, Safe p (f b)) : Safe p (x >>= f) :=
  (safe_bind hx).2 fun b _ => h b

theorem Safe.bind {x : Except Stop β} {f : β → Except Stop α} (hx : Safe q x) (h : ∀ b, q b → Safe p (f b)) :
    Safe p (x >>= f) := by
  cases x with
  | ok b => exact h b hx
  | error e => exact hx

/-- Checks made one for each entry of a list are clean when each is. -/
@[simp] theorem clean_forM {γ : Type} {f : γ → Except Stop PUnit} (hf : ∀ c, Clean (f c)) (l : List γ) :
    Clean (forM l f) := by
  induction l with
  | nil => trivial
  | cons c l ih => exact .after (hf c) fun _ => ih

end Safe

end Sys2Proof.Machine
end

section
/-! SUPPORT. The operations every meaning is made of, and how an instruction ends. -/
namespace Sys2Proof.Machine

section Operations
variable {s : State} {k : Core}

@[simp] theorem ThreadSet.clean_readS (t : ThreadSet) (r : SReg) : Clean (t.readS r) := by
  simp [ThreadSet.readS]

@[simp] theorem ThreadSet.clean_readP (t : ThreadSet) (p : SPair) : Clean (t.readP p) := by
  simp [ThreadSet.readP]

@[simp] theorem ThreadSet.clean_readV (t : ThreadSet) (r : VReg) (want : Option Fmt) : Clean (t.readV r want) := by
  unfold ThreadSet.readV
  repeat' split
  all_goals simp

@[simp] theorem ThreadSet.clean_freeS (t : ThreadSet) (r : SReg) : Clean (t.freeS r) := by
  simp [ThreadSet.freeS]

@[simp] theorem ThreadSet.clean_freeV (t : ThreadSet) (r : VReg) : Clean (t.freeV r) := by
  simp [ThreadSet.freeV]

@[simp] theorem ThreadSet.clean_freeP (t : ThreadSet) (p : SPair) : Clean (t.freeP p) := by
  simp [ThreadSet.freeP]

@[simp] theorem Core.install_store (l : ScratchLine) : (k.install l).store = k.store := by
  simp [Core.install]

@[simp] theorem State.memWf_demandLine (w : Who) (l : ScratchLine) : (s.demandLine w l).MemWf ↔ s.MemWf := by
  simp [State.demandLine]

@[simp] theorem Core.charge_store (t e : Nat) : (k.charge t e).store = k.store := by
  unfold Core.charge
  repeat' split
  all_goals simp

@[simp] theorem State.memWf_notePoison (u : PoisonUnit) : (s.notePoison u).MemWf ↔ s.MemWf := by
  simp [State.notePoison]

@[simp] theorem State.memWf_poisonLine (l : Nat) : (s.poisonLine l).MemWf ↔ s.MemWf := by
  simp [State.poisonLine]

@[simp] theorem State.memWf_poisonWord (c : CoreId) (a : Nat) : (s.poisonWord c a).MemWf ↔ s.MemWf := by
  unfold State.poisonWord
  split <;> simp

@[simp] theorem State.memWf_globalWrite (hs : s.MemWf) (ctx gva : Nat) (bs : List Byte) :
    (s.globalWrite ctx gva bs).MemWf := hs.globalWrite ctx gva bs

@[simp] theorem State.memWf_repairPage (ctx gva : Nat) : (s.repairPage ctx gva).MemWf ↔ s.MemWf := by
  unfold State.repairPage
  split <;> simp

@[simp] theorem State.memWf_loseLines (pa n : Nat) : (s.loseLines pa n).MemWf ↔ s.MemWf := by
  simp [State.loseLines]

@[simp] theorem State.memWf_copyPage (ctx gva : Nat) : (s.copyPage ctx gva).MemWf ↔ s.MemWf := by
  unfold State.copyPage
  dsimp only
  split <;> simp

@[simp] theorem State.memWf_collapse (ctx gva : Nat) : (s.collapse ctx gva).MemWf ↔ s.MemWf := by
  unfold State.collapse
  split <;> simp

@[simp] theorem State.memWf_engineWrite (hs : s.MemWf) (ctx gva : Nat) (bs : List Byte) :
    (s.engineWrite ctx gva bs).MemWf := by
  simp [State.engineWrite, hs]

@[simp] theorem State.memWf_repair (ctx gva n : Nat) : (s.repair ctx gva n).MemWf ↔ s.MemWf := by
  unfold State.repair
  split <;> simp

@[simp] theorem Stop.memWf_protAt (a : Int) : (protAt a).MemWf := trivial

@[simp] theorem State.clean_access (w : Who) (ranges : List (Int × Nat)) : Clean (s.access w ranges) := by
  unfold State.access
  dsimp only
  repeat' split
  all_goals simp

@[simp] theorem clean_aligned (n : Nat) (addrs : List Int) : Clean (aligned n addrs) := by
  unfold aligned
  split <;> simp

@[simp] theorem State.clean_readBytes (w : Who) (a n : Nat) : Clean (s.readBytes w a n) := by
  unfold State.readBytes
  split <;> simp

@[simp] theorem State.clean_bankBytes (w : Who) (a n : Nat) : Clean (s.bankBytes w a n) := by
  unfold State.bankBytes
  split
  next e he => simpa [he] using State.clean_readBytes (s := s) w a n
  next => split <;> simp

@[simp] theorem State.clean_loadBytes (w : Who) (a n : Nat) : Clean (s.loadBytes w a n) := by
  unfold State.loadBytes
  split
  next e he => simpa [he] using State.clean_bankBytes (s := s) w a n
  next => split <;> simp

@[simp] theorem Core.putTwin_store (a : Nat) (bs : List Byte) : (k.putTwin a bs).store = k.store := by
  simp [Core.putTwin]

@[simp] theorem State.memWf_storeBytes (hs : s.MemWf) (w : Who) (a : Nat) (bs : List Byte) :
    (s.storeBytes w a bs).MemWf := hs.storeBytes w a bs

/-- A pair's shadow core holds its leader's bytes but for those written over them. -/
theorem Core.twinStore_wf (hk : k.store.wf = true) : k.twinStore.wf = true := by
  unfold Core.twinStore
  generalize k.twin.elim [] (·.bytes) = es
  induction es generalizing k with
  | nil => exact hk
  | cons e r ih => exact ih (k := { k with store := k.store.write e.1 e.2 }) (k.store.wf_write e.1 e.2 hk)

@[simp] theorem State.memWf_makeNonroll (g : Nat) : (s.makeNonroll g).MemWf ↔ s.MemWf := by
  unfold State.makeNonroll
  split <;> simp

@[simp] theorem State.memWf_closeSubs (c : CoreId) : (s.closeSubs c).MemWf ↔ s.MemWf := by
  unfold State.closeSubs
  split <;> simp

@[simp] theorem State.memWf_bumpCounter (hs : s.MemWf) (ctx n : Nat) (ok : Bool) (lasterr : Nat) :
    (s.bumpCounter ctx n ok lasterr).MemWf := by
  unfold State.bumpCounter
  split <;> simp [hs]

@[simp] theorem Core.settleOverlay_store (n : Nat) : (k.settleOverlay n).store = k.store := by
  simp [Core.settleOverlay]

@[simp] theorem State.memWf_dropOverlays (gid : Nat) : (s.dropOverlays gid).MemWf ↔ s.MemWf := by
  simp [State.dropOverlays]

@[simp] theorem State.memWf_finish (hs : s.MemWf) (ctx number counter : Nat) (ok : Bool) (lasterr : Nat) :
    (s.finish ctx number counter ok lasterr).MemWf := by
  unfold State.finish
  split
  · split <;> simp [hs]
  · simp [hs]

@[simp] theorem State.memWf_endPost (hs : s.MemWf) (ctx : Nat) (p : Post) (ok : Bool) (lasterr : Nat) :
    (s.endPost ctx p ok lasterr).MemWf := by
  simp [State.endPost, hs]

@[simp] theorem State.memWf_discardPosts (hs : s.MemWf) (ctx g : Nat) : (s.discardPosts ctx g).MemWf := by
  unfold State.discardPosts
  split
  · exact hs
  · exact hs.foldl _ fun s p hs => by simp [hs]

@[simp] theorem Core.vacate_store (ctx : Nat) : (k.vacate ctx).store = k.store := by
  simp [Core.vacate]

/-- The cores that a gang leaves keep their stores, but for the shadow core of a pair, which takes its own (R473). -/
@[simp] theorem State.memWf_leaveCores (hs : s.MemWf) (g : Gang) (gid : Nat) : (s.leaveCores g gid).MemWf := by
  refine hs.foldl _ fun s c hs => ?_
  split
  · exact hs
  · have left : ((s.closeSubs c).setCore c (((s.closeSubs c).core c).vacate g.ctx)).MemWf := by simp [hs]
    dsimp only
    split
    · exact left.modCore _ (Core.twinStore_wf (by simp [hs]))
    · exact left

@[simp] theorem Core.freeTask_store (slot : Nat) : (k.freeTask slot).store = k.store := by
  simp [Core.freeTask]

@[simp] theorem State.memWf_dropCommits (gid : Nat) : (s.dropCommits gid).MemWf ↔ s.MemWf := by
  simp [State.dropCommits]

@[simp] theorem State.memWf_dropPackets (g : Nat) : (s.dropPackets g).MemWf ↔ s.MemWf := by
  simp [State.dropPackets]

@[simp] theorem State.memWf_dropPlates (ts : List (Nat × Nat × Nat)) : (s.dropPlates ts).MemWf ↔ s.MemWf := by
  simp [State.dropPlates]

@[simp] theorem State.memWf_killTasks (g : Gang) : (s.killTasks g).MemWf ↔ s.MemWf := by
  simp [State.killTasks]

@[simp] theorem State.memWf_releaseGang (hs : s.MemWf) (g : Gang) (gid : Nat) : (s.releaseGang g gid).MemWf := by
  simp [State.releaseGang, hs]

@[simp] theorem State.memWf_faultRival (hs : s.MemWf) (g : Gang) (gid : Nat) (cause : Cause) (xpc xval : Word)
    (mark : Bool) : (s.faultRival g gid cause xpc xval mark).MemWf := by
  simp only [State.faultRival, State.memWf_modGang]
  exact State.memWf_discardPosts (by simp [hs]) _ _

@[simp] theorem State.memWf_keepTours (keep : Nat → Tour → Bool) : (s.keepTours keep).MemWf ↔ s.MemWf := by
  simp [State.keepTours]

@[simp] theorem State.memWf_killRecord (hs : s.MemWf) (ctx q idx err cause : Nat) (xpc xval : Word) (mark : Bool) :
    (s.killRecord ctx q idx err cause xpc xval mark).MemWf := by
  simp only [State.killRecord, State.memWf_modQueue, State.memWf_keepTours]
  exact hs.foldl _ fun s e hs => by simp [hs]

@[simp] theorem State.memWf_endGang (hs : s.MemWf) (gid err cause : Nat) (xpc xval : Word) (mark : Bool) :
    (s.endGang gid err cause xpc xval mark).MemWf := by
  unfold State.endGang
  split <;> simp [hs]

@[simp] theorem State.memWf_programFault (hs : s.MemWf) (gid : Nat) (cause : Cause) (xpc xval : Word) (mark : Bool) :
    (s.programFault gid cause xpc xval mark).MemWf := by
  unfold State.programFault
  split <;> simp [hs]

@[simp] theorem Core.giveSet_store (set slot : Nat) : (k.giveSet set slot).store = k.store := by
  simp [Core.giveSet]

@[simp] theorem Core.passSet_store (slot : Nat) (st stay : TaskState) (keep : Bool) :
    (k.passSet slot st stay keep).store = k.store := by
  unfold Core.passSet
  dsimp only
  split <;> simp

@[simp] theorem State.memWf_beginWait (w : Who) (r : RunState) : (s.beginWait w r).MemWf ↔ s.MemWf := by
  simp [State.beginWait]

@[simp] theorem State.memWf_parkTask (w : Who) (pages : List Nat) : (s.parkTask w pages).MemWf ↔ s.MemWf := by
  simp [State.parkTask]

@[simp] theorem State.memWf_consumeAt (w : Who) (c : CoreId) (src : ErrSrc) (inject : Option Nat) (addr : Nat) :
    (s.consumeAt w c src inject addr).MemWf ↔ s.MemWf := by
  unfold State.consumeAt
  repeat' split
  all_goals simp

@[simp] theorem State.memWf_consume (w : Who) (src : ErrSrc) (inject : Option Nat) (addr : Nat) :
    (s.consume w src inject addr).MemWf ↔ s.MemWf := by
  simp [State.consume]

@[simp] theorem State.memWf_takeTrap (hs : s.MemWf) (w : Who) (cause : Cause) (xpc xval xrpc : Word) :
    (s.takeTrap w cause xpc xval xrpc).MemWf := by
  unfold State.takeTrap
  dsimp only
  repeat' split
  all_goals simp [hs]

/-- What a stop leaves: a trap entered, a task parked, an error noted, or what an instruction has done in part. -/
@[simp] theorem State.memWf_stopped (hs : s.MemWf) {e : Stop} (he : e.MemWf) : (s.stopped e).MemWf := by
  cases e <;> simp [State.stopped, hs]
  case part t => exact he

@[simp] theorem State.memWf_countRival (w : Who) : (s.countRival w).MemWf ↔ s.MemWf := by
  unfold State.countRival
  split
  · rfl
  · split <;> simp

@[simp] theorem State.memWf_advance (hs : s.MemWf) (w : Who) : (s.advance w).MemWf := by
  unfold State.advance
  dsimp only
  split
  · simp [hs]
  · split <;> simp [hs]

@[simp] theorem State.memWf_retire (hs : s.MemWf) (nx : Next) : (s.retire nx).MemWf := by
  unfold State.retire
  split <;> simp [hs]

/-- An instruction whose body leaves memory in form, and stops with no state out of form, keeps it. -/
theorem State.kept_run (hs : s.MemWf) (h : Hdr) {body : State → Except Stop (State × Next)}
    (hb : Safe (·.1.MemWf) (body s)) : Kept (s.run h body) := by
  unfold State.run
  split
  · split
    next t nx e => simpa using State.memWf_retire (by simpa [e] using hb) nx
    next e he => simpa using State.memWf_stopped hs (by simpa [he] using hb)
  · simpa using State.memWf_retire hs .seq

/-- An instruction on the registers of its thread set alone keeps memory as it is. -/
theorem State.kept_runT (hs : s.MemWf) (h : Hdr) {body : ThreadSet → Except Stop ThreadSet} (hb : Clean (body s.me)) :
    Kept (s.runT h body) :=
  s.kept_run hs h (hb.bind fun t _ => by simpa using hs)

@[simp] theorem State.memWf_rouseTask (w : Who) : (s.rouseTask w).MemWf ↔ s.MemWf := by
  simp [State.rouseTask]

@[simp] theorem State.memWf_withdraw (w : Who) : (s.withdraw w).MemWf ↔ s.MemWf := by
  unfold State.withdraw
  repeat' split
  all_goals simp

@[simp] theorem State.memWf_asyncTrap (hs : s.MemWf) (w : Who) (p : PendTrap) : (s.asyncTrap w p).MemWf := by
  unfold State.asyncTrap
  dsimp only
  repeat' split
  all_goals simp [hs]

end Operations

end Sys2Proof.Machine
end

section
/-! SUPPORT. The instructions on a core's own store. -/
namespace Sys2Proof.Machine

section OwnStore
variable {s : State} {k : Core}

@[simp] theorem ThreadSet.clean_freeLd (t : ThreadSet) (w : LdWidth) (d : SReg) : Clean (t.freeLd w d) := by
  unfold ThreadSet.freeLd
  split <;> simp

@[simp] theorem ThreadSet.clean_readSt (t : ThreadSet) (w : StWidth) (b : SReg) : Clean (t.readSt w b) := by
  unfold ThreadSet.readSt
  split <;> simp

@[simp] theorem State.clean_loadAll (w : Who) (rs : List (Int × Nat)) : Clean (s.loadAll w rs) := by
  induction rs with
  | nil => simp [State.loadAll]
  | cons r rs ih => simp [State.loadAll, ih]

@[simp] theorem State.memWf_storeAll (hs : s.MemWf) (w : Who) (xs : List (Int × List Byte)) :
    (s.storeAll w xs).MemWf :=
  hs.foldl _ fun s a hs => by simp [hs]

@[simp] theorem ThreadSet.clean_readElem (t : ThreadSet) (el : Elem) (b : SReg) : Clean (t.readElem el b) := by
  simp [ThreadSet.readElem]

@[simp] theorem ThreadSet.clean_freeElem (t : ThreadSet) (el : Elem) (d : SReg) : Clean (t.freeElem el d) := by
  simp [ThreadSet.freeElem]

@[simp] theorem Core.clean_readTile (k : Core) (r : MReg) (want : Option Fmt) : Clean (k.readTile r want) := by
  unfold Core.readTile
  split <;> simp

@[simp] theorem Core.clean_readAcc (k : Core) (r : CReg) (want : Option Fmt) : Clean (k.readAcc r want) := by
  unfold Core.readAcc
  split <;> simp

@[simp] theorem Core.clean_tileFree (k : Core) (r : MReg) : Clean (k.tileFree r) := by
  simp [Core.tileFree]

@[simp] theorem Core.clean_accFree (k : Core) (r : CReg) : Clean (k.accFree r) := by
  simp [Core.accFree]

@[simp] theorem clean_pitchOk (pitch : Word) : Clean (pitchOk pitch) := by
  simp [pitchOk]

@[simp] theorem kept_execLamo (hs : s.MemWf) (h : Hdr) (op : BankOp) (el : Elem) (d : Option SReg) (a : SPair)
    (b : SReg) (imm : Imm) : Kept (execLamo h op el d a b imm s) := by
  refine State.kept_run hs _ ?_
  repeat' split
  all_goals simp [hs]

@[simp] theorem Stop.memWf_windowProt (r : Nat) (a : Int) : (windowProt r a).MemWf := trivial

@[simp] theorem State.clean_openCheck (base : Int) (len : Nat) : Clean (s.openCheck base len) := by
  unfold State.openCheck
  dsimp only
  repeat' split
  all_goals simp

@[simp] theorem State.clean_namedWindow (base : Int) : Clean (s.namedWindow base) := by
  unfold State.namedWindow
  dsimp only
  repeat' split
  all_goals simp

end OwnStore

end Sys2Proof.Machine
end

section
/-! SUPPORT. The mesh: sends, packets that arrive or are refused, joins and scores. -/
namespace Sys2Proof.Machine

section Mesh
variable {s : State} {k : Core}

@[simp] theorem State.memWf_launch (ps : List Packet) : (s.launch ps).MemWf ↔ s.MemWf := by
  simp [State.launch]

@[simp] theorem State.memWf_landedAt (p : Sender) (number k : Nat) : (s.landedAt p number k).MemWf ↔ s.MemWf := by
  simp [State.landedAt]

@[simp] theorem State.memWf_sendRefused (hs : s.MemWf) (p : Sender) (xpc xval : Word) :
    (s.sendRefused p xpc xval).MemWf := by
  simp [State.sendRefused, hs]

theorem State.safe_sendBody (hs : s.MemWf) (h : Hdr) (len : SendLen) (a : SPair) (b c : SReg) (imm : Imm)
    (sendop : Bool) (op : BankOp) (el : Elem) : Safe (·.1.MemWf) (s.sendBody h len a b c imm sendop op el) := by
  refine .after (by simp) fun x => .after (by simp) fun dst => .after (by simp) fun crd => ?_
  extract_lets src target body
  have sent (n : Nat) : Safe (·.1.MemWf) (body n) := by
    unfold body
    clear_value target
    repeat' split
    all_goals simp [hs]
  cases len with
  | imm v => exact sent _
  | reg d => exact .after (by simp) fun v => sent _

@[simp] theorem kept_execSend (hs : s.MemWf) (h : Hdr) (len : SendLen) (a : SPair) (b c : SReg) (imm : Imm) :
    Kept (execSend h len a b c imm s) := State.kept_run hs _ (State.safe_sendBody hs ..)

@[simp] theorem kept_execSendop (hs : s.MemWf) (h : Hdr) (op : BankOp) (el : Elem) (len : SendLen) (a : SPair) (b c : SReg)
    (imm : Imm) : Kept (execSendop h op el len a b c imm s) := State.kept_run hs _ (State.safe_sendBody hs ..)

@[simp] theorem kept_execTscore (hs : s.MemWf) (h : Hdr) (a : SPair) : Kept (execTscore h a s) := by
  refine State.kept_run hs _ <| .after (by simp) fun v => ?_
  split <;> simp [hs]

@[simp] theorem State.clean_subscribeCheck (spec base : Word) : Clean (s.subscribeCheck spec base) := by
  unfold State.subscribeCheck
  dsimp only
  split <;> simp

@[simp] theorem State.memWf_launchJoin (w : Who) (tag stack chan : Nat) (leave : Bool) :
    (s.launchJoin w tag stack chan leave).MemWf ↔ s.MemWf := by
  simp [State.launchJoin]

@[simp] theorem kept_execUnsubscribe (hs : s.MemWf) (h : Hdr) (a : SReg) : Kept (execUnsubscribe h a s) := by
  refine State.kept_run hs _ ((safe_bind (ThreadSet.clean_readS ..)).2 fun spec _ => ?_)
  dsimp only
  split <;> simp [hs]

@[simp] theorem kept_execJoinPacket (hs : s.MemWf) (id : Nat) : Kept (execJoinPacket id s) := by
  unfold execJoinPacket
  split
  · simp [hs]
  · dsimp only
    split
    · split
      · simp [hs]
      · split <;> simp [hs]
    · simp [hs]

@[simp] theorem Core.numberPacket_store : (k.numberPacket).store = k.store := by
  simp [Core.numberPacket]

@[simp] theorem Core.landWord_wf (hk : k.store.wf = true) (a : Arriving) (off : Nat) :
    (k.landWord a off).store.wf = true := by
  have put (x : Nat) (bs : List Byte) : (k.putBytes x bs).store.wf = true := k.putBytes_wf x bs hk
  simp only [Core.landWord, Core.putTwin_store]
  repeat' split
  · exact hk
  · exact put _ _
  · exact put _ _

@[simp] theorem Core.keepEarly_store (a n : Nat) : (k.keepEarly a n).store = k.store := by
  simp [Core.keepEarly]

theorem Core.elim_store {α : Type} (o : Option α) {f : α → Core} (hf : ∀ i, (f i).store = k.store) :
    (o.elim k f).store = k.store := by
  cases o
  · rfl
  · exact hf _

@[simp] theorem State.memWf_land (hs : s.MemWf) (c : CoreId) (a : Arriving) (w : Window) : (s.land c a w).MemWf := by
  unfold State.land
  extract_lets hit k₀ k₁ seq n who plated r bad unit at' k₂ k₃ k₄ s₁ s₂
  have hk₁ : k₁.store = k₀.store := Core.elim_store _ fun _ => rfl
  have hr : r.1.store = k₁.store := by
    unfold r
    split_ifs <;> simp [Core.plateFor_store]
  have hk₂ : k₂.store.wf = true := Core.foldl_wf (fun k i hk => by simp [hk]) _ (by simp [hr, hk₁, k₀, hs])
  have hk₃ : k₃.store = k₂.store := Core.elim_store _ fun _ => rfl
  have hs₁ : s₁.MemWf := hs.setCore c (by simpa [k₄, hk₃] using hk₂)
  have hs₂ : s₂.MemWf := by simp [s₂, hs₁]
  split <;> simp [hs₂]

@[simp] theorem State.memWf_refuse (p : Packet) : (s.refuse p).MemWf ↔ s.MemWf := by
  simp [State.refuse]

@[simp] theorem kept_execPacketArrival (hs : s.MemWf) (id : Nat) : Kept (execPacketArrival id s) := by
  unfold execPacketArrival
  dsimp only
  repeat' split
  all_goals simp [hs]

@[simp] theorem State.memWf_refusalBack (hs : s.MemWf) (r : RefusalPkt) : (s.refusalBack r).MemWf := by
  unfold State.refusalBack
  dsimp only
  split <;> simp [hs]

@[simp] theorem kept_execRefusalReturn (hs : s.MemWf) (id : Nat) : Kept (execRefusalReturn id s) := by
  unfold execRefusalReturn
  split <;> simp [hs]

@[simp] theorem kept_execScoreArrival (hs : s.MemWf) (id : Nat) : Kept (execScoreArrival id s) := by
  unfold execScoreArrival
  split <;> simp [hs]

end Mesh

end Sys2Proof.Machine
end

section
/-! SUPPORT. Interrupts, reports, the teardown of a fault domain, and the draining of commit entries. -/
namespace Sys2Proof.Machine

section Ladder
variable {s : State}

@[simp] theorem State.memWf_raise (fn v : Nat) : (s.raise fn v).MemWf ↔ s.MemWf := by
  simp [State.raise]

@[simp] theorem State.memWf_raiseQueue (ctx q : Nat) : (s.raiseQueue ctx q).MemWf ↔ s.MemWf := by
  unfold State.raiseQueue
  split <;> simp

@[simp] theorem State.memWf_deliver (fn : Nat) (r : Report) : (s.deliver fn r).MemWf ↔ s.MemWf := by
  simp [State.deliver]

@[simp] theorem State.memWf_report (r : Report) : (s.report r).MemWf ↔ s.MemWf := by
  unfold State.report
  dsimp only
  split <;> simp

@[simp] theorem State.memWf_dropStarting (hs : s.MemWf) (ctx q : Nat) : (s.dropStarting ctx q).MemWf :=
  hs.foldl _ fun s a hs => by simp [hs]

@[simp] theorem State.memWf_tearQueue (hs : s.MemWf) (ctx q : Nat) : (s.tearQueue ctx q).MemWf := by
  unfold State.tearQueue
  split
  · exact hs
  · simp only [State.memWf_raiseQueue, State.memWf_modQueue]
    exact (State.memWf_dropStarting hs ctx q).foldl _ fun s i hs => by simp [hs]

@[simp] theorem State.memWf_teardown (hs : s.MemWf) (ctx q fdom : Nat) : (s.teardown ctx q fdom).MemWf :=
  State.MemWf.foldl (by simpa using hs) _ fun s q hs => by simp [hs]

@[simp] theorem State.memWf_unpinnedAt (hs : s.MemWf) (ctx q src addr whereIs : Nat) :
    (s.unpinnedAt ctx q src addr whereIs).MemWf := by
  simp [State.unpinnedAt, hs]

@[simp] theorem State.memWf_unpinned (hs : s.MemWf) (ctx q src addr : Nat) : (s.unpinned ctx q src addr).MemWf := by
  simp [State.unpinned, hs]

@[simp] theorem State.memWf_fatal (hs : s.MemWf) (src detail addr : Nat) : (s.fatal src detail addr).MemWf := by
  have left (gs : List (Nat × Gang)) {s : State} (hs : s.MemWf) :
      (gs.foldl (fun (s : State) (e : Nat × Gang) => (s.leaveCores e.2 e.1).killTasks e.2) s).MemWf :=
    hs.foldl gs fun s e hs => by simp [hs]
  simp only [State.fatal, State.memWf_report, State.memWf_with, State.memWf_keepTours]
  simpa using left _ (by simpa using hs)

@[simp] theorem State.memWf_failPost (hs : s.MemWf) (ctx : Nat) (p : Post) (lasterr : Nat) :
    (s.failPost ctx p lasterr).MemWf := by
  simp [State.failPost, hs]

@[simp] theorem State.memWf_depart (hs : s.MemWf) (ctx : Nat) (p : Post) : (s.depart ctx p).MemWf := by
  unfold State.depart
  repeat' split
  all_goals simp [hs]

@[simp] theorem State.memWf_appendRecord (hs : s.MemWf) (p : QPost) : (s.appendRecord p).MemWf := by
  unfold State.appendRecord
  split <;> simp [hs]

@[simp] theorem State.memWf_settleDeferred (hs : s.MemWf) : s.settleDeferred.MemWf := by
  refine State.MemWf.foldl (by simpa using hs) _ fun s d hs => ?_
  cases d <;> simp [hs]

@[simp] theorem State.memWf_releasePosts (hs : s.MemWf) (gid : Nat) (g : Gang) : (s.releasePosts gid g).MemWf := by
  have appended (ps : List QPost) {s : State} (hs : s.MemWf) : (ps.foldl (fun s p => s.appendRecord p) s).MemWf :=
    hs.foldl ps fun s p hs => by simp [hs]
  unfold State.releasePosts
  dsimp only
  split
  · exact appended _ (by simpa using hs)
  · exact State.MemWf.foldl (by simpa using appended _ (by simpa using hs)) _ fun s p hs => by simp [hs]

@[simp] theorem State.memWf_loadsBefore (w : Who) (ctx : Nat) (step : Word) (mask : List Nat) :
    (s.loadsBefore w ctx step mask).MemWf ↔ s.MemWf := by
  simp [State.loadsBefore]

@[simp] theorem State.memWf_drainBytes (hs : s.MemWf) (e : CommitEntry) : (s.drainBytes e).MemWf := by
  unfold State.drainBytes
  split
  · simp [hs]
  · exact hs.foldl _ fun s a hs => by simp [hs]

@[simp] theorem State.memWf_drainAtom (hs : s.MemWf) (e : CommitEntry) (op : BankOp) (el : Elem) (opnd : DWord) :
    (s.drainAtom e op el opnd).MemWf := by
  simp [State.drainAtom, hs]

theorem State.memWf_performEntry (hs : s.MemWf) (c : CoreId) (e : CommitEntry) :
    ∀ t, s.performEntry c e = some t → t.MemWf := by
  unfold State.performEntry
  dsimp only
  repeat' split
  all_goals simp [hs]

@[simp] theorem State.memWf_settleCommit (gid : Nat) : (s.settleCommit gid).MemWf ↔ s.MemWf := by
  unfold State.settleCommit
  split <;> simp

@[simp] theorem State.memWf_finishRetiring (gid : Nat) : (s.finishRetiring gid).MemWf ↔ s.MemWf := by
  unfold State.finishRetiring
  split <;> simp

@[simp] theorem State.memWf_lockEntry (c : CoreId) (id : Nat) : (s.lockEntry c id).MemWf ↔ s.MemWf := by
  simp [State.lockEntry]

@[simp] theorem kept_execCommitEntryDrain (hs : s.MemWf) (stack chan id : Nat) :
    Kept (execCommitEntryDrain stack chan id s) := by
  unfold execCommitEntryDrain
  extract_lets c k
  split
  · simp [hs]
  · split_ifs
    · simp [hs]
    · split
      · simp [hs]
      next t ht => simp [State.memWf_performEntry hs _ _ t ht]
    · simp [hs]

end Ladder

end Sys2Proof.Machine
end

section
/-! SUPPORT. The meridian barrier: arrivals, completion, release, rollback and the sweep of a gang that retires. -/
namespace Sys2Proof.Machine

section Barrier
variable {s : State} {k : Core}

@[simp] theorem kept_execCoreArrival (hs : s.MemWf) (x y : Nat) : Kept (execCoreArrival x y s) := by
  unfold execCoreArrival
  dsimp only
  split <;> simp [hs]

@[simp] theorem kept_execBarrierToken (hs : s.MemWf) (gang x y : Nat) (column : Bool) :
    Kept (execBarrierToken gang x y column s) := by
  unfold execBarrierToken
  split <;> simp [hs]

@[simp] theorem kept_execMemoryTaskArrival (hs : s.MemWf) (stack chan slot : Nat) :
    Kept (execMemoryTaskArrival stack chan slot s) := by
  unfold execMemoryTaskArrival
  dsimp only
  split <;> simp [hs]

@[simp] theorem State.memWf_commitGang (gid : Nat) : (s.commitGang gid).MemWf ↔ s.MemWf := by
  simp [State.commitGang]

@[simp] theorem State.memWf_corruptRecord (l : Nat) : (s.corruptRecord l).MemWf ↔ s.MemWf := by
  simp [State.corruptRecord]

@[simp] theorem State.memWf_injectMemory (gid : Nat) : (s.injectMemory gid).MemWf ↔ s.MemWf := by
  unfold State.injectMemory
  split
  · rfl
  · exact (State.memWf_foldl (fun s i => by split <;> simp) _).trans (by simp)

@[simp] theorem State.memWf_shadowTasks (gid : Nat) : (s.shadowTasks gid).MemWf ↔ s.MemWf := by
  unfold State.shadowTasks
  split <;> simp

@[simp] theorem State.memWf_completeBarrier (hs : s.MemWf) (gid : Nat) (g : Gang) : (s.completeBarrier gid g).MemWf := by
  simp [State.completeBarrier, hs]

@[simp] theorem kept_execBarrierComplete (hs : s.MemWf) (gang : Nat) : Kept (execBarrierComplete gang s) := by
  unfold execBarrierComplete
  split <;> simp [hs]

@[simp] theorem Core.takePlate_store : (k.takePlate).1.store = k.store := by
  simp [Core.takePlate]

@[simp] theorem State.memWf_injectStore (gid : Nat) (c : CoreId) : (s.injectStore gid c).MemWf ↔ s.MemWf := by
  unfold State.injectStore
  split <;> simp

@[simp] theorem State.memWf_cancelJoint (hs : s.MemWf) (c : CoreId) : (s.cancelJoint c).MemWf := by
  refine hs.foldl _ fun s j hs => ?_
  dsimp only
  repeat' split
  all_goals simp [hs]

@[simp] theorem State.memWf_plateCore (gid : Nat) (c : CoreId) : (s.plateCore gid c).MemWf ↔ s.MemWf := by
  simp [State.plateCore]

@[simp] theorem State.memWf_takeBody (w : Who) : (s.takeBody w).MemWf ↔ s.MemWf := by
  simp [State.takeBody]

@[simp] theorem State.memWf_takeBodies (c : CoreId) : (s.takeBodies c).MemWf ↔ s.MemWf := by
  simp [State.takeBodies]

@[simp] theorem State.memWf_countBar (gid : Nat) : (s.countBar gid).MemWf ↔ s.MemWf := by
  simp [State.countBar]

@[simp] theorem State.memWf_releaseCore (hs : s.MemWf) (gid : Nat) (g : Gang) (c : CoreId) :
    (s.releaseCore gid g c).MemWf := by
  unfold State.releaseCore
  extract_lets s₁ s₂ s₃ s₄
  have hs₄ : s₄.MemWf := State.MemWf.foldl (by simpa [s₃, s₁] using hs) _ fun s i hs => by simp [hs]
  split_ifs
  · simpa [s₂, s₁] using hs
  · simpa [s₁] using hs
  · simpa using hs₄
  · exact hs₄

@[simp] theorem Core.startTask_store (slot now : Nat) : (k.startTask slot now).store = k.store := by
  unfold Core.startTask
  dsimp only
  repeat' split
  all_goals simp

@[simp] theorem State.memWf_releaseTask (hs : s.MemWf) (gid : Nat) (g : Gang) (w : Who) :
    (s.releaseTask gid g w).MemWf := by
  unfold State.releaseTask
  dsimp only
  repeat' split
  all_goals simp [hs]

@[simp] theorem State.memWf_restartCore (gid : Nat) (core : CoreId) (slot : Nat) :
    (s.restartCore gid core slot).MemWf ↔ s.MemWf := by
  simp [State.restartCore]

@[simp] theorem kept_execBarrierRelease (hs : s.MemWf) (gang : Nat) (core : CoreId) (slot : Nat) :
    Kept (execBarrierRelease gang core slot s) := by
  unfold execBarrierRelease
  repeat' split
  all_goals simp [hs]

@[simp] theorem State.memWf_sweep (hs : s.MemWf) (gid : Nat) (g : Gang) : (s.sweep gid g).MemWf := by
  simp [State.sweep, hs]

@[simp] theorem kept_execRetirementSweep (hs : s.MemWf) (gang : Nat) : Kept (execRetirementSweep gang s) := by
  have cancelled (cs : List CoreId) :
      (cs.foldl (fun s c => if s.goesOn gang then s.cancelJoint c else s) s).MemWf :=
    hs.foldl cs fun s c hs => by simp [hs]
  unfold execRetirementSweep
  split <;> simp [hs, cancelled]

/-- The blocks that the plate keeps are written back whole (R449). -/
@[simp] theorem Core.unplate_wf (hk : k.store.wf = true) (mine : Nat → Bool) : (k.unplate mine).store.wf = true := by
  unfold Core.unplate
  exact Core.foldl_wf (fun k e hk => k.store.wf_writeN _ _ hk) _ hk

@[simp] theorem Core.rollBack_wf (hk : k.store.wf = true) : (k.rollBack).store.wf = true := by
  simp [Core.rollBack, hk]

@[simp] theorem State.memWf_rollTask (hs : s.MemWf) (gid : Nat) (w : Who) : (s.rollTask gid w).MemWf := by
  unfold State.rollTask
  dsimp only
  repeat' split
  all_goals simp [hs]

@[simp] theorem State.memWf_repairLines (ctx : Nat) : (s.repairLines ctx).MemWf ↔ s.MemWf := by
  unfold State.repairLines
  split <;> simp

@[simp] theorem State.memWf_rollBack (hs : s.MemWf) (gid : Nat) (g : Gang) : (s.rollBack gid g).MemWf := by
  unfold State.rollBack
  extract_lets s₁ n s₂ s₃ s₄ s₅ s₆ s₇ ws s₈ s₉ s₁₀ s₁₁
  have hs₆ : s₆.MemWf := by simp [s₆, s₅, s₄, s₃, s₂, s₁, hs]
  have hs₇ : s₇.MemWf := hs₆.foldl _ fun s c hs => hs.modCore c (Core.rollBack_wf (hs.core c))
  have hs₈ : s₈.MemWf := hs₇.foldl _ fun s w hs => hs.modCore w.core (Core.unplate_wf (hs.core w.core) _)
  have hs₁₀ : s₁₀.MemWf := State.MemWf.foldl (by simpa [s₉] using hs₈) _ fun s w hs => by simp [hs]
  simpa [s₁₁] using hs₁₀

@[simp] theorem kept_execSuperstepRollback (hs : s.MemWf) (gang : Nat) : Kept (execSuperstepRollback gang s) := by
  unfold execSuperstepRollback
  split <;> simp [hs]

@[simp] theorem kept_execWatchdog (hs : s.MemWf) (gang : Nat) : Kept (execWatchdog gang s) := by
  unfold execWatchdog
  split <;> simp [hs]

@[simp] theorem kept_execTaskFrameLoad (hs : s.MemWf) (stack chan slot t : Nat) :
    Kept (execTaskFrameLoad stack chan slot t s) := by
  simp [execTaskFrameLoad, hs]

@[simp] theorem State.memWf_placePage (hs : s.MemWf) (ctx page frame : Nat) (bytes : List Byte) :
    (s.placePage ctx page frame bytes).MemWf := by
  unfold State.placePage
  extract_lets s₁
  have hs₁ : s₁.MemWf := by simpa [s₁] using hs
  exact hs₁.with_hbm (Mem.wf_writeN _ _ _ hs₁.1) _

@[simp] theorem State.memWf_unpark (w : Who) (ctx : Nat) : (s.unpark w ctx).MemWf ↔ s.MemWf := by
  simp [State.unpark]

@[simp] theorem State.memWf_answerReplica (w : Who) (ctx gva frame : Nat) :
    (s.answerReplica w ctx gva frame).MemWf ↔ s.MemWf := by
  unfold State.answerReplica
  repeat' split
  all_goals simp

@[simp] theorem State.memWf_supplyTask (hs : s.MemWf) (w : Who) (frame : Nat) (bytes : List Byte) :
    (s.supplyTask w frame bytes).MemWf := by
  unfold State.supplyTask
  dsimp only
  repeat' split
  all_goals simp [hs]

@[simp] theorem kept_execDemandFetch (hs : s.MemWf) (core : CoreId) (line : Nat) :
    Kept (execDemandFetch core line s) := by
  unfold execDemandFetch
  repeat' split
  all_goals simp [hs]

end Barrier

end Sys2Proof.Machine
end

section
/-! SUPPORT. Scalar instructions. -/
namespace Sys2Proof.Machine

section Scalar
variable {s : State}

@[simp] theorem ThreadSet.clean_readAmt (t : ThreadSet) (a : ShiftAmt) : Clean (t.readAmt a) := by
  cases a <;> simp [ThreadSet.readAmt]

@[simp] theorem kept_alu2 (hs : s.MemWf) (h : Hdr) (d a b : SReg) (f : Word → Word → Word × Word) :
    Kept (alu2 h d a b f s) :=
  State.kept_runT hs _ (by simp)

@[simp] theorem kept_alu1 (hs : s.MemWf) (h : Hdr) (d a : SReg) (f : Word → Word) : Kept (alu1 h d a f s) :=
  State.kept_runT hs _ (by simp)

@[simp] theorem kept_aluShift (hs : s.MemWf) (h : Hdr) (d a : SReg) (n : ShiftAmt) (f : Word → Nat → Word) :
    Kept (aluShift h d a n f s) :=
  State.kept_runT hs _ (by simp)

@[simp] theorem kept_aluP (hs : s.MemWf) (h : Hdr) (d a b : SPair) (f : DWord → DWord → DWord) :
    Kept (aluP h d a b f s) :=
  State.kept_runT hs _ (by simp)

@[simp] theorem kept_aluPred (hs : s.MemWf) (h : Hdr) (d a b : PReg) (f : Bool → Bool → Bool) :
    Kept (aluPred h d a b f s) :=
  State.kept_runT hs _ (by simp)

@[simp] theorem kept_execIaddi (hs : s.MemWf) (h : Hdr) (f : AddiForm) (imm : Imm) : Kept (execIaddi h f imm s) := by
  unfold execIaddi
  split <;> exact State.kept_runT hs _ (by simp)

@[simp] theorem clean_aaddBody (h : Hdr) (d a : SPair) (b : SReg) (k : Nat) (sat : Bool) (imm : Imm) (t : ThreadSet) :
    Clean (aaddBody h d a b k sat imm t) := by
  simp [aaddBody]

@[simp] theorem State.memWf_deprecate : (s.deprecate).MemWf ↔ s.MemWf := by
  unfold State.deprecate
  repeat' split
  all_goals simp

@[simp] theorem kept_execAadds (hs : s.MemWf) (h : Hdr) (d a : SPair) (b : SReg) (k : Fin 8) (imm : Imm) :
    Kept (execAadds h d a b k imm s) := by
  unfold execAadds
  split
  · exact State.kept_run hs _ (by simp [hs])
  · exact State.kept_run (by simpa using hs) _ (by simp [hs])

@[simp] theorem kept_execPset (hs : s.MemWf) (h : Hdr) (d : PReg) (src : PsetSrc) : Kept (execPset h d src s) := by
  refine State.kept_runT hs _ ?_
  split <;> simp

end Scalar

end Sys2Proof.Machine
end

section
/-! SUPPORT. System instructions. -/
namespace Sys2Proof.Machine

section System
variable {s : State}

theorem State.memWf_writeReg (hs : s.MemWf) (n : Nat) (v : Word) : ∀ t, s.writeReg n v = some t → t.MemWf := by
  have kept (f : Context → Context) : (s.regCtx.elim s fun c => s.modCtx c f).MemWf := by
    cases s.regCtx <;> simp [hs]
  unfold State.writeReg
  dsimp only
  split <;> simp [hs, kept]

@[simp] theorem kept_execCwr (hs : s.MemWf) (h : Hdr) (a : SReg) (reg : BitVec 10) : Kept (execCwr h a reg s) := by
  refine State.kept_run hs _ ((safe_bind (ThreadSet.clean_readS ..)).2 fun v _ => ?_)
  split
  · simp
  next t ht => simp [State.memWf_writeReg hs _ _ t ht]

@[simp] theorem kept_execXret (hs : s.MemWf) (h : Hdr) (next : Bool) : Kept (execXret h next s) := by
  unfold execXret
  dsimp only
  repeat' split
  all_goals simp [hs]

@[simp] theorem kept_execBrk (hs : s.MemWf) (h : Hdr) (imm : Imm) : Kept (execBrk h imm s) := by
  simp [execBrk, hs]

@[simp] theorem kept_execWait (hs : s.MemWf) (h : Hdr) (d : SReg) (a b : SPair) (imm : Imm) (bound : BitVec 20) :
    Kept (execWait h d a b imm bound s) := by
  refine State.kept_run hs _ ?_
  dsimp only
  split <;> simp [hs]

@[simp] theorem kept_execWaitBoundExpiry (hs : s.MemWf) (core : CoreId) (t : Nat) :
    Kept (execWaitBoundExpiry core t s) := by
  unfold execWaitBoundExpiry
  dsimp only
  split <;> simp [hs]

@[simp] theorem State.memWf_requestBuild (ctx handle : Nat) : (s.requestBuild ctx handle).2.MemWf ↔ s.MemWf := by
  unfold State.requestBuild
  repeat' split
  all_goals simp

@[simp] theorem kept_execCapbuild (hs : s.MemWf) (h : Hdr) (d a : SReg) : Kept (execCapbuild h d a s) := by
  unfold execCapbuild
  split
  · exact State.kept_run hs _ (by simp [hs])
  · simp [hs]

@[simp] theorem kept_execTdone (hs : s.MemWf) (h : Hdr) (final : Bool) : Kept (execTdone h final s) := by
  refine State.kept_run hs _ ?_
  repeat' split
  all_goals simp [hs]

@[simp] theorem kept_execTround (hs : s.MemWf) (h : Hdr) (d : SReg) : Kept (execTround h d s) := by
  refine State.kept_run hs _ ?_
  repeat' split
  all_goals simp [hs]

end System

end Sys2Proof.Machine
end

section
/-! SUPPORT. Global memory. -/
namespace Sys2Proof.Machine

section Global
variable {s : State}

@[simp] theorem Stop.memWf_reftype (c code why : Nat) : (reftype c code why).MemWf := trivial

@[simp] theorem State.clean_refcheck (w : Who) (c : Nat) (want : RefWant) (r wr : Bool) (off : Int) (n align : Nat) :
    Clean (s.refcheck w c want r wr off n align) := by
  unfold State.refcheck
  dsimp only
  split
  · simp
  · split <;> simp

/-- An access that is let through goes on in a state with memory in form; any other stops, or tears its domain down. -/
theorem State.safe_reach (hs : s.MemWf) (gva n : Nat) (wr : Bool) {go : State → Except Stop (State × Next)}
    (hgo : ∀ t : State, t.MemWf → Safe (·.1.MemWf) (go t)) : Safe (·.1.MemWf) (s.reach gva n wr go) := by
  unfold State.reach
  dsimp only
  split
  · simp
  · split
    · simp
    · simp
    · simp [hs]
    · split
      · simp
      · exact hgo _ (by simp [hs])

@[simp] theorem ThreadSet.clean_afterAcquire (t : ThreadSet) : Clean (t.afterAcquire) := by
  simp [ThreadSet.afterAcquire]

@[simp] theorem ThreadSet.clean_performed (t : ThreadSet) (sc : Scope) : Clean (t.performed sc) := by
  simp [ThreadSet.performed]

@[simp] theorem State.memWf_putLine (w : Who) (g ctx : Nat) (step : Word) (kind : CommitKind) (line : Nat)
    (bs : List (Nat × Byte)) : (s.putLine w g ctx step kind line bs).MemWf ↔ s.MemWf := by
  unfold State.putLine
  dsimp only
  split <;> simp

@[simp] theorem State.memWf_makeRoom (hs : s.MemWf) (w : Who) (g : Nat) (step : Word) (kind : CommitKind) (line fuel : Nat) :
    (s.makeRoom w g step kind line fuel).1.MemWf := by
  induction fuel generalizing s with
  | zero => exact hs
  | succ fuel ih =>
    unfold State.makeRoom
    dsimp only
    split
    · exact hs
    · split
      · exact hs
      · split
        · exact hs
        next t ht =>
          split at ht
          · cases ht
          · exact ih (by simp [State.memWf_performEntry hs _ _ t ht])

@[simp] theorem State.memWf_putLines (hs : s.MemWf) (w : Who) (g ctx : Nat) (step : Word) (kind : CommitKind)
    (ps : List (Nat × List (Nat × Byte))) : (s.putLines w g ctx step kind ps).1.MemWf := by
  induction ps generalizing s with
  | nil => exact hs
  | cons p ps ih =>
    have room := State.memWf_makeRoom hs w g step kind p.1 (Config.commitEntries + 1)
    unfold State.putLines
    split
    next t e =>
      rw [e] at room
      split
      · exact room
      · exact ih (by simpa using room)
    next t e => simpa [e] using room

/-- Bytes go to the commit buffer; where it has no room the instruction is done in part (R141). -/
theorem State.safe_buffer (hs : s.MemWf) (w : Who) (kind : CommitKind) (gva : Nat) (bs : List Byte) :
    Safe State.MemWf (s.buffer w kind gva bs) := by
  unfold State.buffer
  split
  next g gg _ _ =>
    have put := State.memWf_putLines hs w g gg.ctx (s.ts w).sstep kind (byLine gva bs)
    split <;> next e => simpa [e] using put
  · simp

@[simp] theorem State.memWf_awaitAnswer (w : Who) (reg : AnswerReg) (gva n : Nat) (own : List (Option Byte))
    (acquire : Option Scope) : (s.awaitAnswer w reg gva n own acquire).MemWf ↔ s.MemWf := by
  simp [State.awaitAnswer]

@[simp] theorem kept_execGld (hs : s.MemWf) (h : Hdr) (fmt : Fmt) (dst : GldDst) (a : SPair) (c : Fin 32) (imm : Imm) :
    Kept (execGld h fmt dst a c imm s) := by
  refine State.kept_run hs _ (.after (by simp) fun x => ?_)
  dsimp only
  split
  · exact .after (by simp) fun _ => .after (by simp) fun _ => .after (by simp) fun gva =>
      State.safe_reach hs _ _ _ fun t ht => by simp [ht]
  · exact .after (by simp) fun _ => .after (by simp) fun _ => .after (by simp) fun gva =>
      State.safe_reach hs _ _ _ fun t ht => by simp [ht]
  · exact .after (by simp) fun p => .after (by simp) fun _ => .after (by simp) fun gva => .after (by simp) fun _ =>
      .after (by simp) fun _ => State.safe_reach hs _ _ _ fun t ht => by simp [ht]

@[simp] theorem kept_execGst (hs : s.MemWf) (h : Hdr) (fmt : Fmt) (src : GstSrc) (a : SPair) (c : Fin 32) (imm : Imm) :
    Kept (execGst h fmt src a c imm s) := by
  refine State.kept_run hs _ (.after (by simp) fun x => ?_)
  dsimp only
  split
  · exact .after (by simp) fun bs => .after (by simp) fun _ => .after (by simp) fun gva =>
      State.safe_reach hs _ _ _ fun t ht => (State.safe_buffer ht ..).bind fun u hu => by simp [hu]
  · exact .after (by simp) fun v => .after (by simp) fun _ => .after (by simp) fun gva =>
      State.safe_reach hs _ _ _ fun t ht => (State.safe_buffer ht ..).bind fun u hu => by simp [hu]
  · exact .after (by simp) fun p => .after (by simp) fun _ => .after (by simp) fun gva => .after (by simp) fun _ =>
      .after (by simp) fun _ => State.safe_reach hs _ _ _ fun t ht => .after (by simp) fun bs =>
        (State.safe_buffer ht ..).bind fun u hu => by simp [hu]

theorem State.safe_atomNow (hs : s.MemWf) (w : Who) (op : BankOp) (el : Elem) (new cmp : DWord) (gva : Nat) :
    Safe (·.1.MemWf) (s.atomNow w op el new cmp gva) := by
  unfold State.atomNow
  split <;> simp [hs]

@[simp] theorem kept_execGatom (hs : s.MemWf) (h : Hdr) (op : BankOp) (el : Elem) (d : Option SReg) (a : SPair) (b : SReg)
    (c : Fin 32) (imm : Imm) : Kept (execGatom h op el d a b c imm s) := by
  refine State.kept_run hs _ (.after (by simp) fun x => .after (by simp) fun new => ?_)
  cases d
  case none =>
    dsimp only
    split <;> exact .after (by simp) fun cmp => .after (by simp) fun _ => .after (by simp) fun _ => .after (by simp) fun gva =>
      State.safe_reach hs _ _ _ fun t ht => (State.safe_buffer ht ..).bind fun u hu => by simp [hu]
  case some r =>
    dsimp only
    split <;> exact .after (by simp) fun cmp => .after (by simp) fun _ => .after (by simp) fun _ => .after (by simp) fun gva =>
      State.safe_reach hs _ _ _ fun t ht => (State.safe_atomNow ht ..).bind fun u hu => by simp [hu]

@[simp] theorem kept_execGfence (hs : s.MemWf) (h : Hdr) (sc : Scope) : Kept (execGfence h sc s) := by
  refine State.kept_run hs _ <| .after (by simp) fun _ => ?_
  split <;> simp [hs]

@[simp] theorem kept_execGacq (hs : s.MemWf) (h : Hdr) (wide : Bool) (sc : Scope) (fmt : Fmt) (d : SReg) (a : SPair)
    (c : Fin 32) (imm : Imm) : Kept (execGacq h wide sc fmt d a c imm s) :=
  State.kept_run hs _ (.after (by simp) fun x => .after (by simp) fun _ => .after (by simp) fun _ =>
    .after (by simp) fun gva => State.safe_reach hs _ _ _ fun t ht => by simp [ht])

@[simp] theorem kept_execGrel (hs : s.MemWf) (h : Hdr) (wide : Bool) (sc : Scope) (fmt : Fmt) (a : SPair) (b : SReg)
    (c : Fin 32) (imm : Imm) : Kept (execGrel h wide sc fmt a b c imm s) :=
  State.kept_run hs _ (.after (by simp) fun x => .after (by simp) fun bs => .after (by simp) fun _ => .after (by simp) fun _ =>
    .after (by simp) fun gva => State.safe_reach hs _ _ _ fun t ht =>
      (State.safe_buffer ht ..).bind fun u hu => by simp [hu])

@[simp] theorem State.memWf_answerGlobal (w : Who) (ctx : Nat) (a : PendGlobal) :
    (s.answerGlobal w ctx a).MemWf ↔ s.MemWf := by
  simp [State.answerGlobal]

@[simp] theorem kept_execGlobalResponse (hs : s.MemWf) (core : CoreId) (t id : Nat) :
    Kept (execGlobalResponse core t id s) := by
  unfold execGlobalResponse
  dsimp only
  split <;> simp [hs]

@[simp] theorem State.memWf_landWords (hs : s.MemWf) (w : Who) (l : BlockLoad) (words : List Nat) :
    (s.landWords w l words).MemWf :=
  State.MemWf.foldl (by simp [hs]) _ fun s i hs => by simp [hs]

@[simp] theorem State.memWf_landSome (hs : s.MemWf) (w : Who) : (s.landSome w).MemWf := by
  unfold State.landSome
  split
  · exact hs
  · exact hs.foldl _ fun s l hs => by simp [hs]

@[simp] theorem kept_execBlockLoadComplete (hs : s.MemWf) (core : CoreId) (t number : Nat) :
    Kept (execBlockLoadComplete core t number s) := by
  unfold execBlockLoadComplete
  dsimp only
  split <;> simp [hs]

@[simp] theorem State.clean_pushOperands (f : PushForm) (src : Int) : Clean (s.pushOperands f src) := by
  unfold State.pushOperands
  split <;> simp

@[simp] theorem kept_execPush (hs : s.MemWf) (h : Hdr) (f : PushForm) (a : SPair) (imm : Imm) (n : BitVec 13) :
    Kept (execPush h f a imm n s) := by
  refine State.kept_run hs _ <| .after (by simp) fun x => .after (by simp) fun o => .after (by simp) fun _ => ?_
  split
  · trivial
  · refine .after (by simp) fun bs => ?_
    split <;> simp [hs]

@[simp] theorem kept_execDpat (hs : s.MemWf) (h : Hdr) (a : SPair) (imm : Imm) : Kept (execDpat h a imm s) := by
  refine State.kept_run hs _ <| .after (by simp) fun x => .after (by simp) fun _ => .after (by simp) fun _ =>
    .after (by simp) fun bs => ?_
  dsimp only
  split <;> simp [hs]

end Global

end Sys2Proof.Machine
end

section
/-! SUPPORT. Engine posts, copies and overlays. -/
namespace Sys2Proof.Machine

section Engines
variable {s : State}

@[simp] theorem Stop.memWf_refused (cmd i : Nat) : (refused cmd i).MemWf := trivial

@[simp] theorem State.clean_command (a : SPair) (imm : Imm) (size : Nat) : Clean (s.command a imm size) := by
  simp [State.command]

@[simp] theorem clean_engineFull (n : Nat) : Clean (engineFull n) := by
  simp [engineFull]

@[simp] theorem State.memWf_startCopy (j : CopyJob) : (s.startCopy j).MemWf ↔ s.MemWf := by
  simp [State.startCopy]

@[simp] theorem kept_execCpypost (hs : s.MemWf) (h : Hdr) (d a : SPair) (imm : Imm) : Kept (execCpypost h d a imm s) := by
  refine State.kept_run hs _ (.after (by simp) fun _ => .after (by simp) fun ⟨cmd, bs⟩ => ?_)
  dsimp only
  repeat' split
  all_goals simp [hs]

@[simp] theorem State.memWf_settleCopy (j : CopyJob) : (s.settleCopy j).MemWf ↔ s.MemWf := by
  simp [State.settleCopy]

@[simp] theorem State.memWf_readCopy (j : CopyJob) (outside : List Byte) : (s.readCopy j outside).MemWf ↔ s.MemWf := by
  simp [State.readCopy]

@[simp] theorem State.memWf_copyPart (hs : s.MemWf) (j : CopyJob) (bs : List Byte) : (s.copyPart j bs).MemWf := by
  unfold State.copyPart
  split
  · exact hs
  · split
    · exact hs
    · exact hs.foldl _ fun s i hs => by simp [hs]

@[simp] theorem State.memWf_copyFailed (hs : s.MemWf) (j : CopyJob) (addr : Nat) : (s.copyFailed j addr).MemWf := by
  unfold State.copyFailed
  repeat' split
  all_goals simp [hs]

@[simp] theorem State.memWf_copyTorn (hs : s.MemWf) (j : CopyJob) (src addr : Nat) : (s.copyTorn j src addr).MemWf := by
  unfold State.copyTorn
  split <;> simp [hs]

@[simp] theorem State.memWf_addDep (ctx rec : Nat) : (s.addDep ctx rec).MemWf ↔ s.MemWf := by
  simp [State.addDep]

@[simp] theorem State.memWf_copyDone (hs : s.MemWf) (j : CopyJob) (bs : List Byte) : (s.copyDone j bs).MemWf := by
  unfold State.copyDone
  dsimp only
  split <;> simp [hs]

@[simp] theorem kept_execCopyComplete (hs : s.MemWf) (id : Nat) (e : CopyEnd) : Kept (execCopyComplete id e s) := by
  unfold execCopyComplete
  repeat' split
  all_goals simp [hs]

@[simp] theorem kept_execOvlpost (hs : s.MemWf) (h : Hdr) (d a : SPair) (imm : Imm) : Kept (execOvlpost h d a imm s) := by
  refine State.kept_run hs _ (.after (by simp) fun _ => .after (by simp) fun ⟨cmd, bs⟩ => ?_)
  dsimp only
  repeat' split
  all_goals simp [hs]

@[simp] theorem kept_execOverlayLoadComplete (hs : s.MemWf) (id : Nat) : Kept (execOverlayLoadComplete id s) := by
  unfold execOverlayLoadComplete
  dsimp only
  repeat' split
  all_goals simp [hs]

@[simp] theorem kept_execNwpost (hs : s.MemWf) (h : Hdr) (d a : SPair) (imm : Imm) : Kept (execNwpost h d a imm s) := by
  refine State.kept_run hs _ (.after (by simp) fun _ => .after (by simp) fun ⟨cmd, bs⟩ => ?_)
  dsimp only
  split
  · simp
  · split <;> refine .after (by simp) fun _ => ?_ <;> split <;> simp [hs]

@[simp] theorem State.memWf_readPost (hs : s.MemWf) (ctx : Nat) (p : Post) : (s.readPost ctx p).MemWf := by
  unfold State.readPost
  extract_lets k hit s₁ word bs p' s₂
  have hs₁ : s₁.MemWf := by
    unfold s₁
    cases hit <;> simp [hs]
  split
  · exact State.memWf_unpinnedAt (State.memWf_failPost hs₁ ..) ..
  · exact State.memWf_depart (by simpa [s₂] using hs) ..

@[simp] theorem kept_execEngineSourceRead (hs : s.MemWf) (ctx : Nat) (p : PostRead) :
    Kept (execEngineSourceRead ctx p s) := by
  unfold execEngineSourceRead
  repeat' split
  all_goals simp [hs]

@[simp] theorem kept_execQpost (hs : s.MemWf) (h : Hdr) (d : SReg) (a : SPair) (b : SReg) (imm : Imm) :
    Kept (execQpost h d a b imm s) := by
  refine State.kept_run hs _ (.after (by simp) fun _ => .after (by simp) fun q => .after (by simp) fun _ =>
    .after (by simp) fun ⟨cmd, bs⟩ => ?_)
  dsimp only
  split <;> simp [hs]

end Engines

end Sys2Proof.Machine
end

section
/-! SUPPORT. Tournament rounds. -/
namespace Sys2Proof.Machine

section Tournament
variable {s : State} {k : Core}

@[simp] theorem kept_execAllowanceExhausted (hs : s.MemWf) (gang : Nat) : Kept (execAllowanceExhausted gang s) := by
  unfold execAllowanceExhausted
  split <;> simp [hs]

/-- A core that is wiped has an empty store (R170). -/
@[simp] theorem Core.wipe_wf (k : Core) : k.wipe.store.wf = true := rfl

@[simp] theorem State.memWf_wipeGroup (hs : s.MemWf) (tour : Nat) (t : Tour) (k base : Nat) :
    (s.wipeGroup tour t k base).MemWf := by
  unfold State.wipeGroup
  extract_lets r cores s₁
  have hs₁ : s₁.MemWf := hs.foldl _ fun s c hs => State.MemWf.modCore (by simp [hs]) c (Core.wipe_wf _)
  split
  · exact hs₁
  next i g _ =>
    extract_lets s₂ s₃ s₄ s₅ s₆
    have hs₂ : s₂.MemWf := State.memWf_discardPosts (by simp [hs₁]) ..
    have hs₅ : s₅.MemWf := by
      unfold s₅
      split <;> simp [s₄, s₃, hs₂]
    simpa [s₆] using hs₅

@[simp] theorem State.memWf_annex (t : Tour) (k base i : Nat) (g : Gang) (word : Word) :
    (s.annex t k base i g word).MemWf ↔ s.MemWf := by
  simp [State.annex]

@[simp] theorem State.memWf_compareGroups (hs : s.MemWf) (tour : Nat) (t : Tour) (k base : Nat) :
    (s.compareGroups tour t k base).MemWf := by
  unfold State.compareGroups
  dsimp only
  split <;> simp [hs]

@[simp] theorem State.memWf_playRound (hs : s.MemWf) (tour k : Nat) : (s.playRound tour k).MemWf := by
  unfold State.playRound
  split
  · exact hs
  · exact hs.foldl _ fun s j hs => by simp [hs]

@[simp] theorem Core.prepareAnnexed_store (g : Gang) (t : Tour) (entry : Word) (like : Core) :
    (k.prepareAnnexed g t entry like).store = k.store := by
  simp [Core.prepareAnnexed]

@[simp] theorem State.memWf_resumeWinner (t : Tour) (i : Nat) : (s.resumeWinner t i).MemWf ↔ s.MemWf := by
  unfold State.resumeWinner
  split
  · rfl
  · split <;> simp

@[simp] theorem State.memWf_endRound (hs : s.MemWf) (tour : Nat) (t : Tour) : (s.endRound tour t).MemWf := by
  unfold State.endRound
  extract_lets gs ends rounds s₁ last t₁ t₂ left f s₂
  have hs₁ : s₁.MemWf := hs.foldl _ fun s k hs => by simp [hs]
  split
  · simp [hs₁]
  · simpa [s₂] using hs₁

@[simp] theorem kept_execRoundEnd (hs : s.MemWf) (tour : Nat) : Kept (execRoundEnd tour s) := by
  unfold execRoundEnd
  split <;> simp [hs]

end Tournament

end Sys2Proof.Machine
end

section
/-! SUPPORT. Queues and their records. -/
namespace Sys2Proof.Machine

section Queues
variable {s : State}

@[simp] theorem State.memWf_noteServed (ctx q : Nat) : (s.noteServed ctx q).MemWf ↔ s.MemWf := by
  unfold State.noteServed
  split <;> simp

@[simp] theorem State.memWf_takeReservation (part : Rect) : (s.takeReservation part).MemWf ↔ s.MemWf := by
  unfold State.takeReservation
  dsimp only
  repeat' split
  all_goals simp

@[simp] theorem State.memWf_takeReservations : (s.takeReservations).MemWf ↔ s.MemWf := by
  simp [State.takeReservations]

@[simp] theorem State.memWf_resumeQueue (ctx q : Nat) : (s.resumeQueue ctx q).MemWf ↔ s.MemWf := by
  simp [State.resumeQueue]

@[simp] theorem State.memWf_flushQueue (hs : s.MemWf) (ctx q : Nat) : (s.flushQueue ctx q).MemWf := by
  simp [State.flushQueue, hs]

@[simp] theorem State.memWf_returnDep (ctx q : Nat) : (s.returnDep ctx q).MemWf ↔ s.MemWf := by
  unfold State.returnDep
  dsimp only
  split <;> simp

@[simp] theorem State.memWf_quiesceQueue (hs : s.MemWf) (ctx q : Nat) : (s.quiesceQueue ctx q).MemWf := by
  simp [State.quiesceQueue, hs]

@[simp] theorem State.memWf_unquiesceQueue (ctx q : Nat) : (s.unquiesceQueue ctx q).MemWf ↔ s.MemWf := by
  simp [State.unquiesceQueue]

@[simp] theorem kept_execDoorbellTailUpdate (hs : s.MemWf) (fn off : Nat) (d : BarWrite) :
    Kept (execDoorbellTailUpdate fn off d s) := by
  unfold execDoorbellTailUpdate
  repeat' split
  all_goals simp [hs]

@[simp] theorem kept_execResume (hs : s.MemWf) (ctx q : Nat) : Kept (execResume ctx q s) := by
  simp [execResume, hs]

@[simp] theorem kept_execFlush (hs : s.MemWf) (ctx q : Nat) : Kept (execFlush ctx q s) := by
  simp [execFlush, hs]

@[simp] theorem kept_execQuiesce (hs : s.MemWf) (ctx q : Nat) : Kept (execQuiesce ctx q s) := by
  simp [execQuiesce, hs]

@[simp] theorem kept_execUnquiesce (hs : s.MemWf) (ctx q : Nat) : Kept (execUnquiesce ctx q s) := by
  simp [execUnquiesce, hs]

/-- What is done with a record at the head keeps memory in form where what its kind does keeps it. -/
theorem State.kept_atHead (hs : s.MemWf) (ctx q kind : Nat) {go : Context → Queue → List Byte → State}
    (hgo : ∀ c x bs, (go c x bs).MemWf) : Kept (s.atHead ctx q kind go) := by
  unfold State.atHead
  split
  · split
    · simp [hs]
    · split <;> simp [hs, hgo]
  · simp [hs]

theorem State.kept_dispatch (hs : s.MemWf) (ctx q kind : Nat) {go : State → Context → Queue → List Byte → State}
    (hgo : ∀ t c x bs, t.MemWf → (go t c x bs).MemWf) : Kept (s.dispatch ctx q kind go) := by
  refine State.kept_atHead hs ctx q kind fun c x bs => ?_
  split
  · exact hgo _ c x bs (by simpa using hs)
  · exact hs

@[simp] theorem kept_execTlwaitRecord (hs : s.MemWf) (ctx q : Nat) : Kept (execTlwaitRecord ctx q s) :=
  State.kept_dispatch hs ctx q 2 fun t c x bs ht => by simpa using ht

@[simp] theorem kept_execTlwaitRecordComplete (hs : s.MemWf) (ctx q : Nat) :
    Kept (execTlwaitRecordComplete ctx q s) := by
  refine State.kept_atHead hs ctx q 2 fun c x bs => ?_
  split <;> simp [hs]

theorem State.memWf_recordDenied (hs : s.MemWf) (ctx q : Nat) (bs : List Byte) :
    ∀ t, s.recordDenied ctx q bs = some t → t.MemWf := by
  unfold State.recordDenied
  repeat' split
  all_goals simp [hs]

@[simp] theorem kept_execTlsignal (hs : s.MemWf) (ctx q : Nat) : Kept (execTlsignal ctx q s) := by
  refine State.kept_dispatch hs ctx q 3 fun t c x bs ht => ?_
  dsimp only
  split
  next u hu => exact State.memWf_recordDenied ht ctx q bs u hu
  next => simp [ht]

@[simp] theorem kept_execCopyRecord (hs : s.MemWf) (ctx q : Nat) : Kept (execCopyRecord ctx q s) := by
  refine State.kept_dispatch hs ctx q 4 fun t c x bs ht => ?_
  dsimp only
  split <;> simp [ht]

@[simp] theorem kept_execCond (hs : s.MemWf) (ctx q : Nat) : Kept (execCond ctx q s) := by
  refine State.kept_dispatch hs ctx q 5 fun t c x bs ht => ?_
  dsimp only
  split
  next u hu => exact State.memWf_recordDenied ht ctx q bs u hu
  next => simp [ht]

@[simp] theorem kept_execLoopRecord (hs : s.MemWf) (ctx q : Nat) : Kept (execLoopRecord ctx q s) := by
  refine State.kept_dispatch hs ctx q 6 fun t c x bs ht => ?_
  dsimp only
  split
  · simp [ht]
  · split
    next u hu => exact State.memWf_recordDenied ht ctx q bs u hu
    next => simp [ht]

@[simp] theorem State.memWf_supplyPage (hs : s.MemWf) (ctx gva frame : Nat) (bytes : List Byte) :
    (s.supplyPage ctx gva frame bytes).MemWf := by
  unfold State.supplyPage
  split <;> simp [hs]

@[simp] theorem kept_execPageSupplied (hs : s.MemWf) (waiter : PageWaiter) (frame : Nat) (bytes : List Byte) :
    Kept (execPageSupplied waiter frame bytes s) := by
  unfold execPageSupplied
  repeat' split
  all_goals simp [hs]

end Queues

end Sys2Proof.Machine
end

section
/-! SUPPORT. Reservation and the start of a gang. -/
namespace Sys2Proof.Machine

section Launch
variable {s : State} {k u : Core}

@[simp] theorem kept_execLaunchRecord (hs : s.MemWf) (ctx q : Nat) : Kept (execLaunchRecord ctx q s) := by
  refine State.kept_atHead hs ctx q 1 fun c x bs => ?_
  split
  · exact hs
  · split <;> simp [hs]

/-- A reserved core keeps its store, or starts from an empty one (R28). -/
@[simp] theorem Core.reserve_wf (hk : k.store.wf = true) (gid ctx handle build : Nat) :
    (k.reserve gid ctx handle build).store.wf = true := by
  unfold Core.reserve
  dsimp only
  split
  · rfl
  · exact hk

@[simp] theorem Core.pairWith_store (o : Core) : (k.pairWith o).store = k.store := by
  simp [Core.pairWith]

@[simp] theorem State.memWf_reserveGang (hs : s.MemWf) (gid : Nat) (g : Gang) (k : Capsule) :
    (s.reserveGang gid g k).MemWf := by
  unfold State.reserveGang
  extract_lets s₁ s₂
  have hs₁ : s₁.MemWf := by
    refine hs.foldl _ fun s c hs => ?_
    extract_lets s₁ o₀ o
    have hs₁ : s₁.MemWf := hs.modCore c (Core.reserve_wf (hs.core c) ..)
    split
    · have hs₂ : (s₁.setCore c.east o).MemWf := hs₁.setCore _ (by simp [o, o₀, hs₁])
      simpa using hs₂
    · exact hs₁
  simpa [s₂] using hs₁

@[simp] theorem kept_execGangReserve (hs : s.MemWf) (ctx q : Nat) : Kept (execGangReserve ctx q s) := by
  have reserved (gs : List (Nat × Gang)) (k : Capsule) {s : State} (hs : s.MemWf) :
      (gs.foldl (fun s e => s.reserveGang e.1 e.2 k) s).MemWf := hs.foldl gs fun s e hs => by simp [hs]
  unfold execGangReserve
  dsimp only
  split
  · split
    · refine .ite (fun _ => by simp [hs]) fun _ => .ite (fun _ => by simp [hs]) fun _ => ?_
      split <;> simp [reserved, hs]
    · repeat' split
      all_goals simp [hs]
    · simp [hs]
  · simp [hs]

@[simp] theorem Core.prepare_wf (hk : u.store.wf = true) (g : Gang) (l : Launch) (k : Capsule) (gpos round : Word)
    (args : Option (List Byte)) : (u.prepare g l k gpos round args).store.wf = true := by
  unfold Core.prepare
  extract_lets u₁ u₂
  have hu₁ : u₁.store.wf = true := by simpa [u₁] using hk
  cases args with
  | none => exact hu₁
  | some bs => exact Core.putBytes_wf u₁ _ bs hu₁

@[simp] theorem State.memWf_prepareTask (hs : s.MemWf) (gid : Nat) (l : Launch) (t : Nat × Nat × Nat) (e : List Byte)
    (args : Option (List Byte)) : (s.prepareTask gid l t e args).MemWf := by
  refine hs.modCore _ ?_
  dsimp only
  cases args with
  | none => exact hs.core _
  | some bs => exact Core.putBytes_wf _ _ bs (hs.core _)

@[simp] theorem State.memWf_startGang (hs : s.MemWf) (gid : Nat) (g : Gang) (l : Launch) (k : Capsule)
    (args : Option (List Byte)) : (s.startGang gid g l k args).MemWf := by
  unfold State.startGang
  extract_lets o round s₁ s₂ injects s₃
  have hs₁ : s₁.MemWf := by
    refine hs.foldl _ fun s c hs => ?_
    split
    · exact hs.modCore _ (Core.prepare_wf (hs.core _) ..)
    · exact hs
  have hs₂ : s₂.MemWf := hs₁.foldl _ fun s e hs => by simp [hs]
  simpa [s₃] using hs₂

@[simp] theorem State.memWf_passHeads (ctx q : Nat) (part : Rect) : (s.passHeads ctx q part).MemWf ↔ s.MemWf := by
  simp [State.passHeads]

@[simp] theorem kept_execGangStart (hs : s.MemWf) (gang : Nat) (ok : Bool) : Kept (execGangStart gang ok s) := by
  have started (gs : List (Nat × Gang)) (l : Launch) (k : Capsule) (args : Option (List Byte)) {s : State} (hs : s.MemWf) :
      (gs.foldl (fun s e => s.startGang e.1 e.2 l k args) s).MemWf := hs.foldl gs fun s e hs => by simp [hs]
  unfold execGangStart
  dsimp only
  split
  · simp [hs]
  · split
    · split
      · refine .ite (fun _ => by simp [hs]) fun _ => .ite (fun _ => by simp [hs]) fun _ => ?_
        repeat' split
        all_goals simp [started, hs]
      · simp [hs]
    · simp [hs]

end Launch

end Sys2Proof.Machine
end

section
/-! SUPPORT. The network engine. -/
namespace Sys2Proof.Machine

section Network
variable {s : State}

@[simp] theorem State.memWf_placePacket (hs : s.MemWf) (ctx : Nat) (p : NetPacketIn) (r : Remote) :
    (s.placePacket ctx p r).MemWf := by
  unfold State.placePacket
  split
  · simp [hs]
  · refine hs.foldl _ fun s a hs => ?_
    split <;> simp [hs]
  · exact hs

@[simp] theorem State.memWf_finishMessage (hs : s.MemWf) (ctx : Nat) (p : NetPacketIn) (i : Inbound) (r : Remote) :
    (s.finishMessage ctx p i r).MemWf := by
  unfold State.finishMessage
  extract_lets s₁
  have hs₁ : s₁.MemWf := by
    unfold s₁
    split
    · simpa using hs.foldl _ fun s e hs => by simp [hs]
    · exact hs
  simp [hs₁]

@[simp] theorem State.memWf_takePacket (hs : s.MemWf) (ctx : Nat) (p : NetPacketIn) (r : Remote) (i : Inbound) :
    (s.takePacket ctx p r i).MemWf := by
  simp [State.takePacket, hs]

@[simp] theorem State.memWf_retry (hs : s.MemWf) (ctx number seq : Nat) : (s.retry ctx number seq).MemWf := by
  unfold State.retry
  split <;> simp [hs]

@[simp] theorem State.memWf_netTorn (hs : s.MemWf) (p : NetPacketIn) (src addr : Nat) :
    (s.netTorn p src addr).MemWf := by
  unfold State.netTorn
  repeat' split
  all_goals simp [hs]

@[simp] theorem State.memWf_netPacket (hs : s.MemWf) (ctx : Nat) (c : Context) (p : NetPacketIn) :
    (s.netPacket ctx c p).MemWf := by
  unfold State.netPacket
  dsimp only
  repeat' split
  all_goals simp [hs]

@[simp] theorem kept_execNetworkPacketArrival (hs : s.MemWf) (ctx : Nat) (p : NetPacketIn) :
    Kept (execNetworkPacketArrival ctx p s) := by
  unfold execNetworkPacketArrival
  repeat' split
  all_goals simp [hs]

@[simp] theorem kept_execNetworkAck (hs : s.MemWf) (ctx number : Nat) : Kept (execNetworkAck ctx number s) := by
  unfold execNetworkAck
  split <;> simp [hs]

@[simp] theorem kept_execSackReceived (hs : s.MemWf) (ctx number : Nat) (missing : List Nat) :
    Kept (execSackReceived ctx number missing s) :=
  (kept_next _).2 (hs.foldl _ fun s q hs => by simp [hs])

@[simp] theorem kept_execNegativeAck (hs : s.MemWf) (ctx number err : Nat) :
    Kept (execNegativeAck ctx number err s) := by
  unfold execNegativeAck
  split <;> simp [hs]

@[simp] theorem kept_execRetransmitTimeout (hs : s.MemWf) (ctx number seq : Nat) :
    Kept (execRetransmitTimeout ctx number seq s) := by
  simp [execRetransmitTimeout, hs]

end Network

end Sys2Proof.Machine
end

section
/-! SUPPORT. Install, uninstall and builds. -/
namespace Sys2Proof.Machine

section Capsules
variable {s : State}

/-- A request's answer, where it is accepted, leaves memory in canonical form. -/
def Granted (r : Except Nat State) : Prop := ∀ t, r = .ok t → t.MemWf

@[simp] theorem granted_ok (t : State) : Granted (.ok t) ↔ t.MemWf := by
  simp [Granted]

@[simp] theorem granted_error (n : Nat) : Granted (.error n) := by
  simp [Granted]

@[simp] theorem granted_ite {c : Prop} [Decidable c] {a b : Except Nat State} :
    Granted (if c then a else b) ↔ if c then Granted a else Granted b := by
  split <;> rfl

@[simp] theorem State.memWf_answer (fn : Nat) (f : Nat → Answer) : (s.answer fn f).MemWf ↔ s.MemWf := by
  simp [State.answer]

/-- A request that is accepted leaves what its kind does, with its answer; any other only its answer. -/
theorem State.kept_request (hs : s.MemWf) (ctx : Nat) {r : Except Nat State} (hr : Granted r) : Kept (s.request ctx r) := by
  unfold State.request
  split
  · simp [hs]
  · dsimp only
    split
    · simpa using hr
    · simp [hs]

/-- The frames of an object are zeroed, then its sections are written (R386). -/
theorem State.memWf_place (hs : s.MemWf) (ctx : Nat) (c : Context) (o : Obj) (test : Bool) :
    ∀ t, s.place ctx c o test = some t → t.1.MemWf := by
  have zeroed (fs : List Nat) {m : Mem} (hm : m.wf = true) : Mem.wf (fs.foldl (fun m f =>
      m.filter fun (e : Nat × Byte) => !(decide (f ≤ e.1) && decide (e.1 < f + 65536))) m) = true := by
    induction fs generalizing m with
    | nil => exact hm
    | cons f fs ih => exact ih (m.wf_filter _ hm)
  intro t ht
  unfold State.place at ht
  dsimp only at ht
  split at ht
  · cases ht
  · split at ht
    · cases ht
    · obtain rfl := Option.some.inj ht
      exact State.MemWf.foldl (by exact ⟨zeroed _ hs.1, hs.2⟩) _ fun s b hs => by simp [hs]

@[simp] theorem kept_execInstall (hs : s.MemWf) (ctx : Nat) (object : List Byte) (test : Bool) :
    Kept (execInstall ctx object test s) := by
  unfold execInstall
  split
  · simp [hs]
  · dsimp only
    split
    · simp [hs]
    · simp [hs]
    · split
      · split
        · simp [hs]
        next t h ht =>
          have placed := State.memWf_place hs _ _ _ _ _ ht
          simp [placed]
      · simp [hs]

@[simp] theorem kept_execUninstall (hs : s.MemWf) (ctx handle : Nat) : Kept (execUninstall ctx handle s) := by
  refine State.kept_request hs _ ?_
  repeat' split
  all_goals simp [hs]

@[simp] theorem kept_execRebuildRequest (hs : s.MemWf) (ctx handle : Nat) : Kept (execRebuildRequest ctx handle s) := by
  simp [execRebuildRequest, hs]

@[simp] theorem kept_execBuildStart (hs : s.MemWf) (ctx handle : Nat) : Kept (execBuildStart ctx handle s) := by
  simp [execBuildStart, hs]

@[simp] theorem State.memWf_failBuild (ctx : Nat) (k : Capsule) : (s.failBuild ctx k).MemWf ↔ s.MemWf := by
  simp [State.failBuild]

@[simp] theorem State.memWf_finishBuild (ctx : Nat) (k : Capsule) : (s.finishBuild ctx k).MemWf ↔ s.MemWf := by
  simp [State.finishBuild]

@[simp] theorem kept_execBuildComplete (hs : s.MemWf) (ctx handle bodyLen : Nat) :
    Kept (execBuildComplete ctx handle bodyLen s) := by
  unfold execBuildComplete
  split <;> simp [hs]

end Capsules

end Sys2Proof.Machine
end

section
/-! SUPPORT. Transfers and loops, HALT and YIELD. -/
namespace Sys2Proof.Machine

section Control
variable {s : State} {k : Core}

theorem State.safe_transfer (hs : s.MemWf) (t : Int) (leaves reg : Bool) :
    Safe (·.1.MemWf) (s.transfer t leaves reg) := by
  simp [State.transfer, hs]

@[simp] theorem kept_execBr (hs : s.MemWf) (h : Hdr) (t : RelTarget) : Kept (execBr h t s) :=
  State.kept_run hs _ (s.safe_transfer hs _ _ _)

theorem State.safe_jumpReg (hs : s.MemWf) (h : Hdr) (a : SReg) : Safe (·.1.MemWf) (s.jumpReg h a) :=
  .after (by simp) fun _ => (s.safe_transfer hs _ _ _).bind fun u hu => by simpa using hu

@[simp] theorem kept_execJmp (hs : s.MemWf) (h : Hdr) (a : SReg) : Kept (execJmp h a s) :=
  State.kept_run hs _ (s.safe_jumpReg hs h a)

@[simp] theorem kept_execRet (hs : s.MemWf) (h : Hdr) (a : SReg) : Kept (execRet h a s) :=
  State.kept_run hs _ (s.safe_jumpReg hs h a)

@[simp] theorem kept_execCall (hs : s.MemWf) (h : Hdr) (d : SReg) (t : RelTarget) : Kept (execCall h d t s) :=
  State.kept_run hs _ <| .after (by simp) fun _ => (s.safe_transfer hs _ _ _).bind fun u hu => by simpa using hu

@[simp] theorem kept_execCallInd (hs : s.MemWf) (h : Hdr) (d a : SReg) : Kept (execCallInd h d a s) :=
  State.kept_run hs _ <| .after (by simp) fun _ => .after (by simp) fun _ =>
    (s.safe_transfer hs _ _ _).bind fun u hu => by simpa using hu

theorem State.safe_startLoop (hs : s.MemWf) (e : RelTarget) (n : Word) : Safe (·.1.MemWf) (s.startLoop e n) := by
  unfold State.startLoop
  dsimp only
  repeat' split
  all_goals simp [hs]

@[simp] theorem kept_execLoop (hs : s.MemWf) (h : Hdr) (a : SReg) (e : RelTarget) : Kept (execLoop h a e s) :=
  State.kept_run hs _ <| .after (by simp) fun _ => (s.safe_startLoop hs _ _).bind fun u hu => by simpa using hu

@[simp] theorem kept_execLoopi (hs : s.MemWf) (h : Hdr) (e : RelTarget) (count : BitVec 20) : Kept (execLoopi h e count s) :=
  State.kept_run hs _ (s.safe_startLoop hs _ _)

@[simp] theorem ThreadSet.clean_drained (t : ThreadSet) : Clean (t.drained) := by
  simp [ThreadSet.drained]

@[simp] theorem Core.haltTask_store (slot : Nat) : (k.haltTask slot).store = k.store := by
  simp [Core.haltTask]

@[simp] theorem kept_execHalt (hs : s.MemWf) (h : Hdr) : Kept (execHalt h s) := by
  refine State.kept_run hs _ <| .after (by simp) fun _ => ?_
  dsimp only
  split
  · split <;> simp [hs]
  · simp [hs]

@[simp] theorem kept_execYield (hs : s.MemWf) (h : Hdr) : Kept (execYield h s) := by
  unfold execYield
  dsimp only
  repeat' split
  all_goals simp [hs]

end Control

end Sys2Proof.Machine
end

section
/-! SUPPORT. Vector instructions. -/
namespace Sys2Proof.Machine

section Vector
variable {s : State}

@[simp] theorem kept_vec1 (hs : s.MemWf) (h : Hdr) (fmt : Fmt) (d a : VReg) (f : ThreadSet → Nat → Coded) :
    Kept (vec1 h fmt d a f s) :=
  State.kept_runT hs _ (by simp)

@[simp] theorem kept_vec2 (hs : s.MemWf) (h : Hdr) (fmt : Fmt) (d a b : VReg) (f : ThreadSet → Nat → Nat → Coded) :
    Kept (vec2 h fmt d a b f s) :=
  State.kept_runT hs _ (by simp)

@[simp] theorem kept_vec3 (hs : s.MemWf) (h : Hdr) (fmt : Fmt) (d a b c : VReg)
    (f : ThreadSet → Nat → Nat → Nat → Coded) : Kept (vec3 h fmt d a b c f s) :=
  State.kept_runT hs _ (by simp)

@[simp] theorem kept_vecBits (hs : s.MemWf) (h : Hdr) (d a b : VReg) (f : VWord → VWord → VWord) :
    Kept (vecBits h d a b f s) :=
  State.kept_runT hs _ (by simp)

@[simp] theorem kept_vecShift (hs : s.MemWf) (h : Hdr) (fmt : Fmt) (d a : VReg) (n : VShiftAmt) (f : Nat → Nat → Nat) :
    Kept (vecShift h fmt d a n f s) := by
  unfold vecShift
  split <;> simp [hs]

@[simp] theorem ThreadSet.clean_readLane (t : ThreadSet) (fmt : Fmt) (a : SReg) : Clean (t.readLane fmt a) := by
  simp [ThreadSet.readLane]

@[simp] theorem kept_execVshuf (hs : s.MemWf) (h : Hdr) (fmt : Fmt) (pat : ShufPat) (d a : VReg) :
    Kept (execVshuf h fmt pat d a s) := by
  refine State.kept_runT hs _ ?_
  split <;> simp

@[simp] theorem ThreadSet.clean_freeWide (t : ThreadSet) (wide : Bool) (d : SReg) : Clean (t.freeWide wide d) := by
  simp [ThreadSet.freeWide]

@[simp] theorem kept_vecReduce (hs : s.MemWf) (h : Hdr) (fmt : Fmt) (d : SReg) (a : VReg) (ints : List Int → Coded)
    (node : ThreadSet → Nat → Nat → Coded) : Kept (vecReduce h fmt d a ints node s) :=
  State.kept_runT hs _ (by simp)

@[simp] theorem ThreadSet.clean_readGroup (t : ThreadSet) (f : Fmt) (rs : List VReg) : Clean (t.readGroup f rs) := by
  induction rs with
  | nil => trivial
  | cons r rs ih => exact .after (by simp) fun _ => .after ih fun _ => trivial

@[simp] theorem kept_execVdeq (hs : s.MemWf) (h : Hdr) (qf : Fmt) (wf : WideFmt) (rm : RmCode) (sat : Bool) (d a : VReg)
    (b : SReg) : Kept (execVdeq h qf wf rm sat d a b s) := by
  refine State.kept_runT hs _ ?_
  exact .after (by simp) fun _ => .after (by simp) fun _ => .after (by simp) fun _ => trivial

@[simp] theorem State.clean_tagOf (x2 : TagSrc) : Clean (s.tagOf x2) := by
  unfold State.tagOf
  split <;> simp

end Vector

end Sys2Proof.Machine
end

section
/-! SUPPORT. Flinum instructions. -/
namespace Sys2Proof.Machine

section Flinum
variable {s : State}

@[simp] theorem clean_flFinish (p : Nat) (mode : RmCode) (exactMode sat : Bool) (r : Exact) :
    Clean (flFinish p mode exactMode sat r) := by
  unfold flFinish
  split <;> simp

theorem State.safe_spill (hs : s.MemWf) (w : Who) (r : FReg) : Safe State.MemWf (s.spill w r) := by
  unfold State.spill
  dsimp only
  split <;> simp [hs]

theorem State.safe_allocate (hs : s.MemWf) (w : Who) (skip : List FReg) (n : Nat) (rs : List FReg) :
    Safe (·.1.MemWf) (s.allocate w skip n rs) := by
  induction rs generalizing s with
  | nil => exact hs
  | cons r rs ih =>
    unfold State.allocate
    split
    · exact hs
    · split
      · exact ih hs
      · exact (s.safe_spill hs w r).bind fun u hu => ih hu

theorem State.safe_refill (hs : s.MemWf) (w : Who) (skip rs : List FReg) : Safe State.MemWf (s.refill w skip rs) := by
  induction rs generalizing s with
  | nil => exact hs
  | cons r rs ih =>
    unfold State.refill
    split
    · refine .after (by simp) fun _ => .after (by simp) fun _ => .after (by simp) fun _ => .after (by simp) fun _ => ?_
      split
      · trivial
      · exact (s.safe_allocate hs _ _ _ _).bind fun u hu => ih (by simpa using hu)
    · exact ih hs

@[simp] theorem ThreadSet.clean_checkF (t : ThreadSet) (r : FReg) : Clean (t.checkF r) := by
  unfold ThreadSet.checkF
  split <;> simp

theorem State.safe_writeF (hs : s.MemWf) (w : Who) (d : FReg) (srcs : List (FReg × Bool)) (y : Flinum) :
    Safe State.MemWf (s.writeF w d srcs y) :=
  (State.safe_allocate (by simpa using hs) _ _ _ _).bind fun u hu => by simpa using hu

@[simp] theorem kept_flWrite (hs : s.MemWf) (h : Hdr) (rm : RmCode) (x sat : Bool) (d : FReg) (srcs : List (FReg × Bool))
    {extra : ThreadSet → Except Stop Unit} (hx : ∀ t, Clean (extra t)) (kill : ThreadSet → ThreadSet)
    (form : ThreadSet → RmCode → List Num → Exact) : Kept (flWrite h rm x sat d srcs extra kill form s) :=
  State.kept_run hs _ <| .after (by simp) fun _ => .after (hx _) fun _ => (s.safe_refill hs _ _ _).bind fun u hu =>
    .after (by simp) fun _ => (u.safe_writeF hu _ _ _ _).bind fun v hv => by simpa using hv

@[simp] theorem kept_flRead (hs : s.MemWf) (h : Hdr) (srcs : List (FReg × Bool)) {extra : ThreadSet → Except Stop Unit}
    (hx : ∀ t, Clean (extra t)) {put : ThreadSet → List Flinum → Except Stop ThreadSet} (hp : ∀ t vs, Clean (put t vs)) :
    Kept (flRead h srcs extra put s) :=
  State.kept_run hs _ <| .after (by simp) fun _ => .after (hx _) fun _ => (s.safe_refill hs _ _ _).bind fun u hu =>
    .after (hp _ _) fun _ => by simpa using hu

@[simp] theorem clean_noExtra (x1 : ThreadSet) : Clean (noExtra x1) := by
  simp [noExtra]

@[simp] theorem kept_fl2 (hs : s.MemWf) (h : Hdr) (rm : RmCode) (x sat : Bool) (d a b : FReg)
    (op : RmCode → Num → Num → Exact) : Kept (fl2 h rm x sat d a b op s) := by
  simp [fl2, hs]

@[simp] theorem kept_fl1 (hs : s.MemWf) (h : Hdr) (rm : RmCode) (x sat : Bool) (d a : FReg)
    (op : RmCode → Num → Exact) : Kept (fl1 h rm x sat d a op s) := by
  simp [fl1, hs]

@[simp] theorem kept_execFcmp (hs : s.MemWf) (h : Hdr) (c : FCond) (d : PReg) (a b : FReg) : Kept (execFcmp h c d a b s) :=
  kept_flRead hs h _ clean_noExtra fun _ _ => by split <;> trivial

@[simp] theorem ThreadSet.clean_readInt (t : ThreadSet) (x2 : IntReg) : Clean (t.readInt x2) := by
  unfold ThreadSet.readInt
  split <;> simp

@[simp] theorem kept_execFtod (hs : s.MemWf) (h : Hdr) (rm : RmCode) (x sat : Bool) (d : SPair) (a : FReg) :
    Kept (execFtod h rm x sat d a s) :=
  kept_flRead hs h _ (by simp) fun _ _ => by simp

@[simp] theorem kept_execFtos (hs : s.MemWf) (h : Hdr) (rm : RmCode) (x : Bool) (d : IntReg) (a : FReg) :
    Kept (execFtos h rm x d a s) :=
  kept_flRead hs h _ (fun _ => by cases d <;> simp) fun _ _ => by simp

@[simp] theorem kept_execFprec (hs : s.MemWf) (h : Hdr) (p : PrecSrc) : Kept (execFprec h p s) := by
  refine State.kept_runT hs _ ?_
  split <;> simp

@[simp] theorem clean_litLine (c : Capsule) (n : Int) : Clean (litLine c n) := by
  unfold litLine
  simp
  split <;> simp

@[simp] theorem clean_litRead (c : Capsule) (fuel : Nat) (n : Int) (want : Nat) : Clean (litRead c fuel n want) := by
  induction fuel generalizing n want with
  | zero => trivial
  | succ fuel ih =>
    unfold litRead
    split
    · trivial
    · exact .after (by simp) fun _ => .after (ih _ _) fun _ => trivial

@[simp] theorem clean_litRecord (c : Capsule) (n : Int) (off : Nat) : Clean (litRecord c n off) := by
  simp [litRecord]

theorem State.safe_putRecord (hs : s.MemWf) (d : FReg) (rm : RmCode) (x sat keep : Bool) (v : Flinum) :
    Safe State.MemWf (s.putRecord d rm x sat keep v) := by
  have written (y : Flinum) (n : Word) : Safe State.MemWf (do
      let s ← s.writeF s.who d [] y
      .ok (s.modTs s.who fun t => t.flag n)) :=
    (s.safe_writeF hs _ _ _ _).bind fun u hu => by simpa using hu
  unfold State.putRecord
  dsimp only
  split
  · exact written _ _
  · exact .after (by simp) fun _ => written _ _

@[simp] theorem kept_execFldc (hs : s.MemWf) (h : Hdr) (rm : RmCode) (x sat : Bool) (d : FReg) (src : LdcSrc) :
    Kept (execFldc h rm x sat d src s) := by
  unfold execFldc
  split
  · simp [hs]
  · refine State.kept_run hs _ ?_
    split
    · simp
    · refine .after (by simp) fun _ => ?_
      split
      · trivial
      · exact (s.safe_putRecord hs _ _ _ _ _ _).bind fun u hu => hu

@[simp] theorem kept_execFexp (hs : s.MemWf) (h : Hdr) (d : SReg) (a : FReg) : Kept (execFexp h d a s) := by
  simp [execFexp, hs]

@[simp] theorem kept_execLdf (hs : s.MemWf) (h : Hdr) (rm : RmCode) (x : Bool) (d : FReg) (a : SPair) (imm : Imm) :
    Kept (execLdf h rm x d a imm s) := by
  refine State.kept_run hs _ <| .after (by simp) fun _ => .after (by simp) fun _ => .after (by simp) fun _ =>
    .after (by simp) fun _ => .after (by simp) fun _ => .after (by simp) fun _ => ?_
  split
  · trivial
  · exact (s.safe_putRecord hs _ _ _ _ _ _).bind fun u hu => by simpa using hu

@[simp] theorem kept_execStf (hs : s.MemWf) (h : Hdr) (b : FReg) (a : SPair) (imm : Imm) : Kept (execStf h b a imm s) :=
  State.kept_run hs _ <| .after (by simp) fun _ => .after (by simp) fun _ => (s.safe_refill hs _ _ _).bind fun u hu =>
    .after (by simp) fun _ => .after (by simp) fun _ => by simp [hu]

end Flinum

end Sys2Proof.Machine
end

section
/-! SUPPORT. Firmware requests and the host. -/
namespace Sys2Proof.Machine

section Firmware
variable {s : State}

@[simp] theorem kept_execCreateContext (hs : s.MemWf) (ctx fn counters : Nat) (injection : Bool) :
    Kept (execCreateContext ctx fn counters injection s) := by
  unfold execCreateContext
  dsimp only
  repeat' split
  all_goals simp [hs]

@[simp] theorem State.memWf_regionGang (e : Nat × Gang) : (s.regionGang e).MemWf ↔ s.MemWf := by
  simp [State.regionGang]

@[simp] theorem State.memWf_regionGangs : (s.regionGangs).MemWf ↔ s.MemWf := by
  simp [State.regionGangs]

@[simp] theorem kept_execRegionEdit (hs : s.MemWf) (handle : Nat) (node : List Byte) :
    Kept (execRegionEdit handle node s) := by
  simp [execRegionEdit, hs]

@[simp] theorem kept_execQueueCreate (hs : s.MemWf) (ctx q ring log2n : Nat) (prod : Bool) (group : Nat) : Kept (execQueueCreate ctx q ring log2n prod group s) := by
  refine State.kept_request hs _ ?_
  repeat' split
  all_goals simp [hs]

@[simp] theorem kept_execPeerTableSet (hs : s.MemWf) (ctx index addr port target : Nat) (own : Bool) : Kept (execPeerTableSet ctx index addr port target own s) := by
  refine State.kept_request hs _ ?_
  repeat' split
  all_goals simp [hs]

@[simp] theorem kept_execRemoteBufferRegister (hs : s.MemWf) (ctx rkey : Nat) (k : RemoteKind) : Kept (execRemoteBufferRegister ctx rkey k s) := by
  refine State.kept_request hs _ ?_
  repeat' split
  all_goals simp [hs]

@[simp] theorem kept_execMap (hs : s.MemWf) (ctx gva level pa kind rmask : Nat) (r w : Bool) : Kept (execMap ctx gva level pa kind rmask r w s) := by
  refine State.kept_request hs _ ?_
  repeat' split
  all_goals simp [hs]

@[simp] theorem kept_execUnmap (hs : s.MemWf) (ctx gva level : Nat) : Kept (execUnmap ctx gva level s) := by
  refine State.kept_request hs _ ?_
  repeat' split
  all_goals simp [hs]

@[simp] theorem kept_execSetKind (hs : s.MemWf) (ctx gva kind rmask : Nat) : Kept (execSetKind ctx gva kind rmask s) := by
  refine State.kept_request hs _ ?_
  repeat' split
  all_goals simp [hs]

@[simp] theorem kept_execMigrate (hs : s.MemWf) (ctx gva : Nat) : Kept (execMigrate ctx gva s) := by
  unfold execMigrate
  repeat' split
  all_goals simp [hs]

theorem Mem.wf_foldl_write (es : List (Nat × Byte)) {m : Mem} (hm : m.wf = true) :
    Mem.wf (es.foldl (fun m e => m.write e.1 e.2) m) = true := by
  induction es generalizing m with
  | nil => exact hm
  | cons e es ih => exact ih (m.wf_write _ _ hm)

/-- A page that moves takes its bytes with it: those of its new frame are dropped, then its own are written. -/
@[simp] theorem State.memWf_moveBytes (hs : s.MemWf) (src dst n : Nat) : (s.moveBytes src dst n).MemWf := by
  unfold State.moveBytes
  extract_lets inSrc inDst moved bad
  refine State.MemWf.foldl ?_ bad fun t e ht => by simpa using ht
  exact ⟨Mem.wf_foldl_write moved (Mem.wf_filter _ _ hs.1), hs.2⟩

@[simp] theorem State.memWf_copiesBack (ctx lo n : Nat) : (s.copiesBack ctx lo n).MemWf ↔ s.MemWf := by
  simp [State.copiesBack]

@[simp] theorem kept_execMigrationSwitch (hs : s.MemWf) (ctx gva pa : Nat) :
    Kept (execMigrationSwitch ctx gva pa s) := by
  unfold execMigrationSwitch
  dsimp only
  repeat' split
  all_goals simp [hs]

@[simp] theorem kept_execPageEviction (hs : s.MemWf) (ctx : Nat) (gvas : List Nat) :
    Kept (execPageEviction ctx gvas s) := by
  unfold execPageEviction
  dsimp only
  repeat' split
  all_goals simp [hs]

@[simp] theorem kept_execApertureMap (hs : s.MemWf) (fn off ctx gva len : Nat) :
    Kept (execApertureMap fn off ctx gva len s) := by
  simp [execApertureMap, hs]

@[simp] theorem State.memWf_reply (f : Nat → Answer) : (s.reply f).MemWf ↔ s.MemWf := by
  simp [State.reply]

@[simp] theorem kept_execApertureAccess (hs : s.MemWf) (fn addr len : Nat) (data : Option (List Byte)) :
    Kept (execApertureAccess fn addr len data s) := by
  unfold execApertureAccess
  repeat' split
  all_goals simp [hs]

@[simp] theorem kept_execConfigAccess (hs : s.MemWf) (fn : Nat) (r : HostRead) : Kept (execConfigAccess fn r s) := by
  unfold execConfigAccess
  split <;> simp [hs]

@[simp] theorem kept_execErrorInject (hs : s.MemWf) (ctx : Nat) (record : List Byte) : Kept (execErrorInject ctx record s) := by
  refine State.kept_request hs _ ?_
  repeat' split
  all_goals simp [hs]

@[simp] theorem kept_execDebugRead (hs : s.MemWf) (item : DebugItem) : Kept (execDebugRead item s) := by
  unfold execDebugRead
  dsimp only
  repeat' split
  all_goals simp [hs]

@[simp] theorem kept_execDebugResume (hs : s.MemWf) (core : CoreId) (t : Nat) : Kept (execDebugResume core t s) := by
  simp [execDebugResume, hs]

end Firmware

end Sys2Proof.Machine
end

section
/-! SUPPORT. The joint matrix array. -/
namespace Sys2Proof.Machine

section Matrix
variable {s : State} {k : Core}

@[simp] theorem State.clean_footprintCheck (w : Who) (j : JointOp) : Clean (s.footprintCheck w j) := by
  unfold State.footprintCheck
  dsimp only
  repeat' split
  all_goals simp

@[simp] theorem kept_execMgang (hs : s.MemWf) (h : Hdr) (shape : GangShape) (d : CReg) (a : MReg) (b c : SReg) :
    Kept (execMgang h shape d a b c s) := by
  refine State.kept_run hs _ <| .after (by simp) fun _ => .after (by simp) fun r => .after (by simp) fun k =>
    .after (by simp) fun _ => .ite (fun _ => trivial) fun _ => ?_
  split
  · refine .ite (fun _ => trivial) fun _ => .ite (fun _ => trivial) fun _ => .ite (fun _ => trivial) fun _ =>
      .ite (fun _ => trivial) fun _ => ?_
    extract_lets j fed u post
    have posted (x : Unit) : Safe (·.1.MemWf) (post x) := by simp [post, u, hs]
    exact .ite (fun _ => .ite (fun _ => trivial) fun _ => .after (by simp) fun _ => posted ()) fun _ => posted ()
  · trivial

@[simp] theorem State.memWf_dropJoint (hs : s.MemWf) (c : CoreId) (j : JointOp) (reason : Word) :
    (s.dropJoint c j reason).MemWf := by
  simp [State.dropJoint, hs]

@[simp] theorem kept_execJointJoin (hs : s.MemWf) (x y nlog : Nat) : Kept (execJointJoin x y nlog s) := by
  unfold execJointJoin
  extract_lets cores heads live
  split
  · simpa using hs
  · refine .ite (fun _ => ?_) fun _ => by simpa using hs
    refine .ite (fun _ => ?_) fun _ => ?_
    · simp [hs]
    · exact (kept_next _).2 (hs.foldl _ fun u e hu => by simp [hu])

@[simp] theorem State.memWf_giveA (x y : Nat) (f : JointOp) (a : List Nat) : (s.giveA x y f a).MemWf ↔ s.MemWf := by
  simp [State.giveA]

@[simp] theorem Core.chargeRetry_store (t : Nat) : (k.chargeRetry t).store = k.store := by
  unfold Core.chargeRetry
  split <;> simp

@[simp] theorem State.memWf_residue (c : CoreId) (g : Nat) (j : JointOp) : (s.residue c g j).1.MemWf ↔ s.MemWf := by
  unfold State.residue
  dsimp only
  repeat' split
  all_goals simp

@[simp] theorem State.memWf_lose (g : Nat) (step : Word) : (s.lose g step).MemWf ↔ s.MemWf := by
  simp [State.lose]

@[simp] theorem State.memWf_finishOp (c : CoreId) (g : Nat) (j : JointOp) (a : List Nat) :
    (s.finishOp c g j a).MemWf ↔ s.MemWf := by
  simp [State.finishOp]

@[simp] theorem kept_execJointOpComplete (hs : s.MemWf) (x y : Nat) : Kept (execJointOpComplete x y s) := by
  unfold execJointOpComplete
  dsimp only
  repeat' split
  all_goals simp [hs]

@[simp] theorem kept_execMdesc (hs : s.MemWf) (h : Hdr) (a : SPair) (imm : Imm) : Kept (execMdesc h a imm s) := by
  refine State.kept_run hs _ <| .after (by simp) fun x => .after (by simp) fun _ => .after (by simp) fun _ =>
    .after (by simp) fun bs => ?_
  dsimp only
  split <;> simp [hs]

@[simp] theorem kept_execMmeta (hs : s.MemWf) (h : Hdr) (a : SPair) (imm : Imm) : Kept (execMmeta h a imm s) := by
  refine State.kept_run hs _ <| .after (by simp) fun x => .after (by simp) fun _ => .after (by simp) fun _ =>
    .after (by simp) fun bs => ?_
  dsimp only
  split <;> simp [hs]

@[simp] theorem kept_execMdrain (hs : s.MemWf) (h : Hdr) (rm : RmCode) (sat : Bool) (shape : DrainShape) (a : SPair)
    (b : SReg) (c : CReg) (imm : Imm) : Kept (execMdrain h rm sat shape a b c imm s) := by
  refine State.kept_run hs _ <| .after (by simp) fun _ => .after (by simp) fun _ => .after (by simp) fun _ =>
    .after (by simp) fun _ => .after (by simp) fun _ => ?_
  extract_lets n ps rows u v
  have hu : u.MemWf := State.memWf_storeAll hs _ _
  have hv : v.MemWf := by
    unfold v
    split
    · exact (u.memWf_modShared _ _).2 hu
    · exact hu
  exact .after (by simp) fun _ => .after (by simp) fun _ => by simpa using hv

end Matrix

end Sys2Proof.Machine
end

section
/-! SUPPORT. Checkpoints, starts and operations. -/
namespace Sys2Proof.Machine

section Checkpoints
variable {s : State}

@[simp] theorem State.memWf_ckWriteLines (hs : s.MemWf) (a : Nat) (bs : List Byte) : (s.ckWriteLines a bs).MemWf :=
  hs.with_hbm (Mem.wf_writeN _ _ _ hs.1) _

@[simp] theorem State.memWf_ckAnswer (code : Nat) : (s.ckAnswer code).MemWf ↔ s.MemWf := by
  simp [State.ckAnswer]

@[simp] theorem State.memWf_ckAnswerWith (code : Nat) (bs : List Byte) : (s.ckAnswerWith code bs).MemWf ↔ s.MemWf := by
  simp [State.ckAnswerWith]

@[simp] theorem kept_execCheckpointGroupCreate (hs : s.MemWf) (group devices self ctx area areaLen : Nat) :
    Kept (execCheckpointGroupCreate group devices self ctx area areaLen s) := by
  simp [execCheckpointGroupCreate, hs]

@[simp] theorem State.memWf_writeShards (hs : s.MemWf) (g : CkGroup) (second : Bool) (step z : Nat)
    (payloads : List (List Byte)) : (s.writeShards g second step z payloads).MemWf :=
  hs.foldl _ fun s a hs => by simp [hs]

@[simp] theorem kept_execCheckpointWrite (hs : s.MemWf) (group step : Nat) (buffers : List (Nat × Nat)) (longest : Nat)
    (peers : PeerShards) : Kept (execCheckpointWrite group step buffers longest peers s) := by
  unfold execCheckpointWrite
  repeat' split
  all_goals simp [hs]

@[simp] theorem kept_execCheckpointManifest (hs : s.MemWf) (group step : Nat) (entries : List Byte) :
    Kept (execCheckpointManifest group step entries s) := by
  unfold execCheckpointManifest
  dsimp only
  repeat' split
  all_goals simp [hs]

@[simp] theorem State.memWf_mendSlot (hs : s.MemWf) (g : CkGroup) (r : Restore) : (s.mendSlot g r).MemWf := by
  unfold State.mendSlot
  split
  · exact hs
  · exact hs.foldl _ fun u i hu => by simp [hu]

@[simp] theorem State.memWf_putPiece (hs : s.MemWf) (ctx a : Nat) (bs : List Byte) : (s.putPiece ctx a bs).MemWf := by
  unfold State.putPiece
  split
  · exact s.memWf_engineWrite hs _ _ _
  · exact (s.memWf_modCtx _ _).2 hs

@[simp] theorem State.memWf_putBack (hs : s.MemWf) (ctx gva : Nat) (bs : List Byte) : (s.putBack ctx gva bs).MemWf := by
  unfold State.putBack
  split
  · exact hs
  · exact hs.foldl _ fun u a hu => by simp [hu]

@[simp] theorem State.memWf_restoreBuffers (hs : s.MemWf) (ctx : Nat) (image : List Byte) (buffers : List (Nat × Nat)) :
    (s.restoreBuffers ctx image buffers).MemWf := by
  unfold State.restoreBuffers
  generalize 0 = n
  induction buffers generalizing s n with
  | nil => exact hs
  | cons b bs ih => exact ih (by simp [hs]) _

@[simp] theorem State.memWf_checkStepping (ctx : Nat) : (s.checkStepping ctx).MemWf ↔ s.MemWf := by
  simp [State.checkStepping]

@[simp] theorem kept_execCheckpointRestore (hs : s.MemWf) (group step : Nat) (answering : List (List Nat))
    (manifest : List Byte) (buffers : List (Nat × Nat)) (peerShards : List (Nat × Nat × List Byte)) :
    Kept (execCheckpointRestore group step answering manifest buffers peerShards s) := by
  unfold execCheckpointRestore
  repeat' split
  all_goals simp [hs]

@[simp] theorem State.memWf_still : (s.still).MemWf ↔ s.MemWf := by
  simp [State.still]

@[simp] theorem State.memWf_fence (c : CoreId) : (s.fence c).MemWf ↔ s.MemWf := by
  simp [State.fence]

@[simp] theorem State.memWf_startStep (hs : s.MemWf) (warm : Bool) (fenced : List CoreId) (n : Nat) :
    (s.startStep warm fenced n).MemWf := by
  unfold State.startStep
  split
  case h_2 => exact ⟨rfl, hs.2⟩
  case h_4 => exact (State.memWf_foldl (fun u c => u.memWf_fence c) _).2 ⟨hs.1, by simp⟩
  all_goals simp [hs]

@[simp] theorem State.memWf_start (warm : Bool) (failStep : Nat) (fenced : List CoreId) :
    (s.start warm failStep fenced).MemWf ↔ s.MemWf := by
  simp [State.start]

@[simp] theorem State.kept_startRequest (hs : s.MemWf) (ok warm : Bool) (failStep : Nat) (fenced : List CoreId) :
    Kept (s.startRequest ok warm failStep fenced) := by
  simp [State.startRequest, hs]

@[simp] theorem kept_execColdstart (hs : s.MemWf) (failStep : Nat) (fenced : List CoreId) :
    Kept (execColdstart failStep fenced s) := by
  simp [execColdstart, hs]

@[simp] theorem kept_execWarmstart (hs : s.MemWf) (failStep : Nat) (fenced : List CoreId) :
    Kept (execWarmstart failStep fenced s) := by
  simp [execWarmstart, hs]

@[simp] theorem State.memWf_startDone (r : StartRun) : (s.startDone r).MemWf ↔ s.MemWf := by
  simp [State.startDone]

@[simp] theorem State.memWf_startTick (hs : s.MemWf) : (s.startTick).MemWf := by
  unfold State.startTick
  repeat' split
  all_goals simp [hs]

@[simp] theorem kept_execFwstage (hs : s.MemWf) (image : List Byte) : Kept (execFwstage image s) := by
  simp [execFwstage, hs]

@[simp] theorem State.memWf_changeCapsule (ctx low : Nat) (k : Capsule) :
    (s.changeCapsule ctx low k).MemWf ↔ s.MemWf := by
  simp [State.changeCapsule]

@[simp] theorem kept_execActivate (hs : s.MemWf) : Kept (execActivate s) := by
  simp [execActivate, hs]

@[simp] theorem kept_execAttest (hs : s.MemWf) (nonce : List Byte) : Kept (execAttest nonce s) := by
  simp [execAttest, hs]

@[simp] theorem kept_execPowercap (hs : s.MemWf) (watts : Nat) : Kept (execPowercap watts s) := by
  simp [execPowercap, hs]

@[simp] theorem kept_execThrottleStep (hs : s.MemWf) : Kept (execThrottleStep s) := by
  simp [execThrottleStep, hs]

@[simp] theorem kept_execThermalTrip (hs : s.MemWf) : Kept (execThermalTrip s) := by
  simp [execThermalTrip, hs]

@[simp] theorem State.memWf_migrateFrame (frame : Nat) : (s.migrateFrame frame).MemWf ↔ s.MemWf := by
  simp [State.migrateFrame]

@[simp] theorem State.memWf_hbmError (pa : Nat) : (s.hbmError pa).MemWf ↔ s.MemWf := by
  simp [State.hbmError]

@[simp] theorem State.memWf_dropReplica (ctx gva stack : Nat) : (s.dropReplica ctx gva stack).MemWf ↔ s.MemWf := by
  unfold State.dropReplica
  split <;> simp

@[simp] theorem kept_execUncorrectableEccError (hs : s.MemWf) (u : EccUnit) : Kept (execUncorrectableEccError u s) := by
  unfold execUncorrectableEccError
  split <;> simp [hs]

end Checkpoints

end Sys2Proof.Machine
end

section
/-! SUPPORT. What an instruction or an event means, whatever it is. -/
namespace Sys2Proof.Machine

/-- Every instruction and every event keeps memory in canonical form. Those whose meaning is checks and updates in a row
are told by the shape of it; each other has its lemma above. -/
@[simp] theorem kept_exec {s : State} (hs : s.MemWf) (i : Instr) : Kept (exec i s) := by
  cases i <;> dsimp only [exec]
  case iadd | isub | imul | imulh | imulhz | idiv | idivz | irem | iremz | iand | ior | ixor | iandn | imin | imax |
    iminz | imaxz | isel | icmp =>
    exact kept_alu2 hs _ _ _ _ _
  case iclz | ipop =>
    exact kept_alu1 hs _ _ _ _
  case padd | psub =>
    exact kept_aluP hs _ _ _ _ _
  case pand | por | pxor | pnot =>
    exact kept_aluPred hs _ _ _ _ _
  case ishl | ishrl | ishra | irotl =>
    exact kept_aluShift hs _ _ _ _ _
  case vabs | vneg | vsqrt | vrsq | vexp2 | vlog2 =>
    exact kept_vec1 hs _ _ _ _ _
  case vadd | vsub | vmul | vmin | vmax | vdiv =>
    exact kept_vec2 hs _ _ _ _ _ _
  case vfma | vfms =>
    exact kept_vec3 hs _ _ _ _ _ _ _
  case vand | vor | vxor =>
    exact kept_vecBits hs _ _ _ _ _
  case vshl | vshr | vshra =>
    exact kept_vecShift hs _ _ _ _ _ _
  case vredadd | vredmax | vredmin =>
    exact kept_vecReduce hs _ _ _ _ _ _
  case fsqrt | fabs | fneg | fmov | fround =>
    exact kept_fl1 hs _ _ _ _ _ _ _
  case fadd | fsub | fmul | fdiv =>
    exact kept_fl2 hs _ _ _ _ _ _ _ _
  case ffma | fscalb | fcvtd | fcvts | faccv =>
    exact kept_flWrite hs _ _ _ _ _ _ (by simp) _ _
  case lfence | nop | imovi | imovhi | aadd | ifence | vcmp | vsel | vperm | vbcast | vmovs | vexts | viota | vdot |
    vcvt | vquant | vscale | vtag | frel | flen =>
    exact State.kept_runT hs _ (by simp)
  case ld | st | ldv | stv | ldvs | stvs | ldvx | stvx | ldt | stt | lwopen | lwclose | lwdue | bar | barq | chron |
    tlwait | tlread | subscribe | crd | counterZero | trap | gref | vtagq | mscl | mzero | mrowrd | mrowwr | mcolrd |
    mcolwr =>
    exact State.kept_run hs _ (by simp [hs])
  all_goals simp [hs]

end Sys2Proof.Machine
end

section
/-! SUPPORT. How a turn runs: fetch, issue and the events of the agenda. -/
namespace Sys2Proof.Machine

section Turn
variable {s : State}

@[simp] theorem State.memWf_noteIssue (before : State) (w : Who) (i : Instr) (late : Nat) :
    (s.noteIssue before w i late).MemWf ↔ s.MemWf := by
  simp [State.noteIssue]

/-- A position that may not be entered stops with a trap or a parity check. -/
theorem Stop.memWf_of_entryStop {c : Capsule} {pos : Nat} {e : Stop} (h : entryStop c pos = some e) : e.MemWf := by
  unfold entryStop at h
  split at h
  · cases h; trivial
  · split at h
    · cases h; trivial
    · split at h
      · cases h; trivial
      · obtain ⟨r, -, rfl⟩ := Option.map_eq_some_iff.1 h
        trivial

@[simp] theorem State.clean_fetch (w : Who) : Clean (s.fetch w) := by
  unfold State.fetch
  split
  · trivial
  · dsimp only
    split
    next e he =>
      split at he
      · exact Stop.memWf_of_entryStop he
      · cases he
    next =>
      split
      · trivial
      · split <;> trivial

/-- A checker's error that the retries do not clear leaves the state before the issue. -/
@[simp] theorem State.memWf_issued (hs : s.MemWf) {before : State} (hb : before.MemWf) (w : Who) (i : Instr) (late : Nat) :
    (s.issued before w i late).MemWf := by
  unfold State.issued
  split
  · exact hs
  · split
    · split <;> simp [hs]
    · dsimp only
      split <;> simp [hs, hb]

@[simp] theorem State.kept_issueNext (hs : s.MemWf) (w : Who) : Kept (s.issueNext w) := by
  unfold State.issueNext
  split
  · split <;> simp [hs]
  · have clean := s.clean_fetch w
    split
    next e he => simpa using State.memWf_stopped hs (by simpa [he] using clean)
    next i hi =>
      split
      next t ht =>
        have wf : t.MemWf := kept_exec (by simpa using hs) i t ht
        split <;> split <;> simp [hs, wf]
      next => exact fun t ht => kept_exec (by simpa using hs) i t ht

@[simp] theorem State.kept_attempt (hs : s.MemWf) (w : Who) : Kept (s.attempt w) := by
  unfold State.attempt
  extract_lets u t
  have hu : u.MemWf := hs
  split
  · split <;> simp [hu]
  · simp [hu]

@[simp] theorem State.memWf_withUpper (hs : s.MemWf) (before : State) (w : Who) : (s.withUpper before w).MemWf := by
  unfold State.withUpper
  have clean := s.clean_fetch w
  extract_lets t next
  split
  · split
    next lo hi _ _ =>
      dsimp only
      split
      next u hu =>
        have wf : u.MemWf := kept_exec hs hi u hu
        split
        · exact hs
        · split <;> simp [hs, wf]
      next => exact hs
    next e _ he => exact State.memWf_stopped hs (by simpa [he] using clean)
    next => exact hs
  · exact hs

@[simp] theorem State.memWf_turnTaken (hs : s.MemWf) (before : State) (w : Who) : (s.turnTaken before w).MemWf := by
  simp [State.turnTaken, hs]

@[simp] theorem State.kept_choose (hs : s.MemWf) (c : CoreId) (order : List Nat) (waits : List (Nat × Nat)) :
    Kept (s.choose c order waits).1 := by
  induction order generalizing s waits with
  | nil => simpa [State.choose] using hs
  | cons i r ih =>
    unfold State.choose
    extract_lets k n
    split
    · exact ih hs _
    · split
      · split
        · exact ih hs _
        next w _ _ _ _ =>
          extract_lets u
          have hu : u.MemWf := by simpa [u, k] using hs
          have kept := u.kept_attempt hu w
          split
          next t ht =>
            have wf : t.MemWf := kept t ht
            split
            · simp [wf]
            · exact ih (by simpa using wf) _
          next => exact kept
      · exact ih hs _

@[simp] theorem State.memWf_chargeAll (before : State) (c : CoreId) (tried : List (Nat × Nat)) :
    (s.chargeAll before c tried).MemWf ↔ s.MemWf :=
  State.memWf_modCore <| Core.foldl_store (k := { s.core c with cycled := true })
    (fun k i => by split <;> simp) _

@[simp] theorem State.memWf_wakeTasks (c : CoreId) : (s.wakeTasks c).MemWf ↔ s.MemWf := by
  simp [State.wakeTasks]

@[simp] theorem State.memWf_beginCycle (hs : s.MemWf) (c : CoreId) : (s.beginCycle c).MemWf := by
  refine (State.memWf_wakeTasks c).2 ?_
  split
  · exact hs.foldl _ fun u i hu => by simp [hu]
  · exact hs

@[simp] theorem State.memWf_passCycle (before : State) (c : CoreId) : (s.passCycle before c).MemWf ↔ s.MemWf := by
  simp [State.passCycle]

@[simp] theorem State.kept_issueCycle (hs : s.MemWf) (c : CoreId) : Kept (s.issueCycle c) := by
  unfold State.issueCycle
  refine .ite (fun _ => by simpa using hs) fun _ => ?_
  extract_lets u k order
  have kept : Kept (u.choose c order []).1 := State.kept_choose (s.memWf_beginCycle hs c) c order []
  split
  next t tried h => simpa using kept t (by rw [h])
  next h => simpa [h] using kept

@[simp] theorem State.memWf_idleCycle (hs : s.MemWf) (c : CoreId) : (s.idleCycle c).MemWf := by
  simp [State.idleCycle, hs]

@[simp] theorem State.memWf_scrub (hs : s.MemWf) : (s.scrub).MemWf := by
  unfold State.scrub
  dsimp only
  repeat' split
  all_goals simp [hs]

@[simp] theorem State.memWf_corrupt (which : CopySet) (i mask : Nat) : (s.corrupt which i mask).MemWf ↔ s.MemWf := by
  unfold State.corrupt
  split <;> simp

@[simp] theorem State.memWf_countCycle : s.countCycle.MemWf ↔ s.MemWf := by
  simp only [State.countCycle, State.MemWf, List.forall_mem_map]

@[simp] theorem State.memWf_tickClock (hs : s.MemWf) : s.tickClock.MemWf :=
  State.memWf_startTick <| State.memWf_settleDeferred <| State.memWf_countCycle.2 <| State.memWf_scrub <|
    hs.foldl _ fun u c hu => by simp [hu]

@[simp] theorem State.memWf_levelOne (w : Who) (src : ErrSrc) (addr : Nat) :
    (s.levelOne w src addr).MemWf ↔ s.MemWf := by
  unfold State.levelOne
  repeat' split
  all_goals simp

@[simp] theorem State.memWf_upset (hs : s.MemWf) (w : Who) (src : ErrSrc) (again : Bool) (addr : Nat) :
    (s.upset w src again addr).MemWf := by
  unfold State.upset
  repeat' split
  all_goals simp [hs]

@[simp] theorem State.memWf_strayUpset (hs : s.MemWf) (ctx q addr : Nat) : (s.strayUpset ctx q addr).MemWf := by
  simp [State.strayUpset, hs]

@[simp] theorem State.kept_turnStep (hs : s.MemWf) : Kept s.turnStep := by
  unfold State.turnStep
  extract_lets u
  have hu : u.MemWf := hs
  split
  case h_8 =>
    have kept := u.kept_issueCycle hu u.turn
    split
    next t ht => simpa using State.memWf_tickClock (kept t ht)
    next => exact kept
  all_goals simp [hu]

end Turn

end Sys2Proof.Machine
end

section
/-! What every step keeps of memory. -/
namespace Sys2Proof.Machine

/-- Settles O60: a step runs one instruction of a core or one event, and each keeps memory in canonical form. -/
theorem memoryKept : Obligations.MemoryKept := by
  unfold Obligations.MemoryKept
  exact fun s t hs ht => State.kept_turnStep hs t ht

end Sys2Proof.Machine
end

section
/-! What CWR and the counters' control word write, and what they refuse. -/
namespace Sys2Proof.Machine

section WriteControl
variable {s u : State} {h : Hdr} {a : SReg} {v : Word}

/-- The control registers that a write may reach, each under its own conditions (R348, R351). -/
def writableRegs : List Nat :=
  [0x000, 0x001, 0x002, 0x003, 0x004, 0x005, 0x020, 0x021, 0x022, 0x023, 0x038, 0x200, 0x201]

theorem State.writeReg_eq_none (s : State) {n : Nat} (hn : n ∉ writableRegs) (v : Word) : s.writeReg n v = none := by
  unfold State.writeReg
  dsimp only
  split
  case h_14 => rfl
  all_goals exact absurd (by decide) hn

/-- CWR writes its register, then its source dies where it is marked so. -/
theorem exec_cwr_of_some {reg : BitVec 10} (ho : s.on h) (hv : s.me.readS a = .ok v) (hw : s.writeReg reg.toNat v = some u) :
    exec (.cwr h a reg) s = u.becomes (u.me.killS h.dmA a) := by
  have hv : (s.ts s.who).readS a = .ok v := hv
  show execCwr h a reg s = .next ((u.modTs u.who fun t => t.killS h.dmA a).retire .seq)
  exact State.run_on ho (by simp [hv, hw, bind, Except.bind])

theorem exec_cwr_of_none {reg : BitVec 10} (ho : s.on h) (hv : s.me.readS a = .ok v) (hw : s.writeReg reg.toNat v = none) :
    exec (.cwr h a reg) s = s.traps .illegal 0 := by
  have hv : (s.ts s.who).readS a = .ok v := hv
  show execCwr h a reg s = .next (s.stopped (.trap .illegal 0))
  exact State.run_stops ho (by simp [hv, hw, bind, Except.bind])

/-- A write of a register of the thread set itself. -/
theorem exec_cwr_of_setTs {reg : BitVec 10} {t : ThreadSet} (ho : s.on h) (hv : s.me.readS a = .ok v)
    (hw : s.writeReg reg.toNat v = some (s.setTs s.who t)) : exec (.cwr h a reg) s = s.becomes (t.killS h.dmA a) := by
  rw [exec_cwr_of_some ho hv hw]
  simp [State.becomes, State.me]

theorem State.me_modCtx (s : State) (c : Nat) (f : Context → Context) : (s.modCtx c f).me = s.me := by
  unfold State.modCtx
  split <;> rfl

theorem exec_counterZero_own {t : Fin 4} (ho : s.on h) (hv : s.me.readS a = .ok v) (ht : s.setIndex = t.val) :
    exec (.counterZero h a t) s = ((s.modCore s.who.core fun k => { k with
      freeze := k.freeze.set t (v.getLsbD 1)
      counters := if v.getLsbD 0 then k.counters.set t (Vector.replicate 16 0) else k.counters }).modTs s.who fun t =>
        t.killS h.dmA a).done := by
  have hv : (s.ts s.who).readS a = .ok v := hv
  show execCounterZero h a t s = .next (State.retire _ .seq)
  exact State.run_on ho (by simp [hv, ht, bind, Except.bind])

theorem exec_counterZero_other {t : Fin 4} (ho : s.on h) (hv : s.me.readS a = .ok v) (ht : s.setIndex ≠ t.val) :
    exec (.counterZero h a t) s = s.traps .illegal 0 := by
  have hv : (s.ts s.who).readS a = .ok v := hv
  show execCounterZero h a t s = .next (s.stopped (.trap .illegal 0))
  exact State.run_stops ho (by simp [hv, ht, bind, Except.bind])

end WriteControl

/-- Settles O10: CWR does what `State.writeReg` answers, register by register, and the counters' control word asks only whether
its thread set issues. -/
theorem writeControl : Obligations.WriteControl := by
  unfold Obligations.WriteControl
  refine ⟨fun s h a v ho hv => ?_, fun s h a t v ho hv => ⟨exec_counterZero_own ho hv, exec_counterZero_other ho hv⟩⟩
  have own {reg : BitVec 10} {t : ThreadSet} (hw : s.writeReg reg.toNat v = some (s.setTs s.who t)) :
      exec (.cwr h a reg) s = s.becomes (t.killS h.dmA a) := exec_cwr_of_setTs ho hv hw
  have refused {reg : BitVec 10} (hw : s.writeReg reg.toNat v = none) : exec (.cwr h a reg) s = s.traps .illegal 0 :=
    exec_cwr_of_none ho hv hw
  refine ⟨fun lo hi => own (if_neg (by omega)), fun out => refused (if_pos out), fun lt => own (if_neg (by omega)),
    fun ge => refused (if_pos ge), own rfl, own rfl, own rfl, own rfl, own rfl, own rfl, own rfl, own rfl, ?_, ?_, ?_⟩
  · intro reg hreg
    refine refused (s.writeReg_eq_none ?_ v)
    rcases hreg with listed | counts
    · exact (by decide : ∀ n ∈ [0x010, 0x011, 0x012, 0x013, 0x014, 0x018, 0x019, 0x01A, 0x024, 0x028, 0x029, 0x02A, 0x02B,
        0x02C, 0x02D, 0x02E, 0x030, 0x031, 0x032], n ∉ writableRegs) _ listed
    · simp [writableRegs]
      omega
  · intro n core
    refine ⟨?_, fun c hc => ⟨?_, ?_⟩⟩
    · exact exec_cwr_of_some ho hv (by simp [State.writeReg, core])
    all_goals
      rw [← s.me_modCtx c]
      exact exec_cwr_of_some ho hv (by simp [State.writeReg, core, hc])
  · intro core
    refine refused ?_
    cases hc : s.who.core with
    | control n => exact absurd hc (core n)
    | _ => simp [State.writeReg, hc]

end Sys2Proof.Machine
end

section
/-! SUPPORT. Reading the state after an update: gangs, queues, and cores that are updated one after the other. -/
namespace Sys2Proof.Machine

section Tables
variable {α : Type} (t : Table α) (k j : Nat)

@[simp] theorem Table.find_drop_same : (t.drop k).find k = none := by
  unfold Table.drop
  induction t with
  | nil => rfl
  | cons e r ih =>
    by_cases h : e.1 = k
    · simpa [h] using ih
    · simp [h, Table.find, ih]

theorem Table.find_drop_other (h : j ≠ k) : (t.drop k).find j = t.find j := by
  unfold Table.drop
  induction t with
  | nil => rfl
  | cons e r ih =>
    obtain ⟨i, v⟩ := e
    by_cases hk : i = k
    · simpa [hk, Table.find, Ne.symm h] using ih
    · simp [hk, Table.find, ih]

end Tables

section Reading
variable {s t : State} {c d : CoreId}

/-- Cores are read from their tables. -/
theorem State.core_congr (hc : t.compute = s.compute) (hm : t.memory = s.memory) (hk : t.control = s.control) (c : CoreId) :
    t.core c = s.core c := by
  cases c <;> simp [State.core, *]

theorem State.core_compute_congr (h : t.compute = s.compute) (x y : Nat) : t.core (.compute x y) = s.core (.compute x y) := by
  simp [State.core, h]

@[simp] theorem State.core_modGang (g : Nat) (f : Gang → Gang) (c : CoreId) : (s.modGang g f).core c = s.core c :=
  State.core_congr (by simp) (by simp) (by simp) c

/-- Identifiers that are not apart name one entry of one table. -/
theorem State.core_eq_of_not_apart (s : State) (h : ¬ CoreId.apart c d) : s.core c = s.core d := by
  cases c <;> cases d <;> simp_all [CoreId.apart, CoreId.kind, CoreId.key, State.core]

/-- A core after an update of one: another one as it was, or itself updated. -/
theorem State.core_modCore (s : State) (c d : CoreId) (f : Core → Core) :
    (s.modCore d f).core c = s.core c ∨ (s.modCore d f).core c = f (s.core c) := by
  by_cases h : CoreId.apart c d
  · exact .inl (s.core_modCore_other d c f h)
  · rw [State.core_eq_of_not_apart _ h, State.core_eq_of_not_apart s h]
    exact .inr (by simp)

@[simp] theorem State.gang_modGang_same (s : State) (g : Nat) (f : Gang → Gang) :
    (s.modGang g f).gang g = (s.gang g).map f := by
  unfold State.modGang
  split
  next x h => simp [State.gang] at h ⊢; simp [h]
  next h => simp [h]

theorem State.gang_modGang_other {g i : Nat} (h : i ≠ g) (f : Gang → Gang) : (s.modGang g f).gang i = s.gang i := by
  unfold State.modGang
  split
  · exact Table.find_put_other _ _ _ _ h
  · rfl

theorem State.gang_congr (h : t.gangs = s.gangs) (g : Nat) : t.gang g = s.gang g := by simp [State.gang, h]

@[simp] theorem State.gang_setCore (c : CoreId) (k : Core) (g : Nat) : (s.setCore c k).gang g = s.gang g :=
  State.gang_congr (by simp) g

@[simp] theorem State.gang_setTs (w : Who) (t : ThreadSet) (g : Nat) : (s.setTs w t).gang g = s.gang g :=
  State.gang_congr (by simp) g

end Reading

section Folds

/-- What no update of a list changes. -/
theorem foldl_keeps {α β γ : Type} {f : β → α → β} {p : β → γ} (h : ∀ s a, p (f s a) = p s) (l : List α) (s : β) :
    p (l.foldl f s) = p s := by
  induction l generalizing s with
  | nil => rfl
  | cons a r ih => exact (ih _).trans (h s a)

/-- What the step of one entry of a list brings about, and the steps after it leave, holds at the end. -/
theorem foldl_reaches {α β : Type} {f : β → α → β} {q p : β → Prop} {l : List α} (kept : ∀ b, ∀ a ∈ l, q b → q (f b a)) {a : α}
    (ha : a ∈ l) (reached : ∀ b, q b → p (f b a)) (left : ∀ b, ∀ a ∈ l, p b → p (f b a)) {b : β} (hb : q b) : p (l.foldl f b) := by
  obtain ⟨before, after, rfl⟩ := List.append_of_mem ha
  rw [List.foldl_append, List.foldl_cons]
  have there : q (before.foldl f b) := List.foldlRecOn before f hb fun b hb d hd => kept b d (by simp [hd]) hb
  exact List.foldlRecOn after f (reached _ there) fun b hb d hd => left b d (by simp [hd]) hb

/-- The cores of a list are updated, each at its turn: what an update makes of a core with property q, and what those after it leave of
it, has property p. -/
theorem State.core_foldl {f : State → CoreId → State} {q p : Core → Prop} (pq : ∀ k, p k → q k) {cs : List CoreId}
    (same : ∀ s, ∀ d ∈ cs, q (s.core d) → p ((f s d).core d))
    (other : ∀ s, ∀ d ∈ cs, ∀ c, (f s d).core c = s.core c ∨ (q (s.core c) → p ((f s d).core c)))
    {s : State} {c : CoreId} (hc : c ∈ cs) (hq : q (s.core c)) : p ((cs.foldl f s).core c) := by
  refine foldl_reaches (q := fun s => q (s.core c)) (p := fun s => p (s.core c)) (fun s d hd h => ?_) hc (fun s h => same s c hc h)
    (fun s d hd h => ?_) hq
  · rcases other s d hd c with e | e
    · rwa [e]
    · exact pq _ (e h)
  · rcases other s d hd c with e | e
    · rwa [e]
    · exact e (pq _ h)

/-- The same where each update is one of the core alone. -/
theorem State.core_foldl_modCore {f : CoreId → Core → Core} {q p : Core → Prop} (pq : ∀ k, p k → q k) {cs : List CoreId}
    (hf : ∀ c k, q k → p (f c k)) {s : State} {c : CoreId} (hc : c ∈ cs) (hq : q (s.core c)) :
    p ((cs.foldl (fun s c => s.modCore c (f c)) s).core c) := by
  refine State.core_foldl pq (fun s d _ h => ?_) (fun s d _ c => ?_) hc hq
  · simpa using hf d _ h
  · exact (s.core_modCore c d (f d)).imp id fun e h => by rw [e]; exact hf d _ h

end Folds

/-- The cores of a gang are compute cores. -/
theorem Gang.exists_of_mem_rect {g : Gang} {c : CoreId} (h : c ∈ g.rect) : ∃ x y, c = .compute x y := by
  simp only [Gang.rect, List.mem_flatMap, List.mem_map] at h
  obtain ⟨y, -, x, -, rfl⟩ := h
  exact ⟨_, _, rfl⟩

end Sys2Proof.Machine
end

section
/-! What a step runs: the instruction of the thread set in turn, or an entry of the agenda. -/
namespace Sys2Proof.Machine

section Issue
variable {s s₁ t u : State} {c : CoreId} {w : Who} {i : Instr} {r : List Nat} {waits : List (Nat × Nat)}

/-- The candidate at any index of a core is one of that core. -/
theorem Core.core_of_whoAt {k : Core} {n : Nat} (h : k.whoAt c n = some w) : w.core = c := by
  unfold Core.whoAt at h
  split at h
  · obtain ⟨slot, -, rfl⟩ := Option.map_eq_some_iff.1 h
    rfl
  · cases h
    rfl

/-- The set in turn stands first while its run count or its pair lets it (R19, R187). -/
theorem Core.order_of_keepsTurn {k : Core} (n : Nat) (h : k.schedRun < 64 ∨ k.pairHold = true) :
    ∃ others, k.order n = k.sched :: others :=
  ⟨_, if_pos (by simpa using h)⟩

/-- A line that is there gives its instruction, once the checks of entering it have passed (R193, R194). -/
theorem State.fetch_eq_ok {kap : Capsule} {l : Line} (hk : s.capsuleOf w = some kap)
    (hl : kap.lineAt (s.ts w).pc.toNat = some l)
    (enter : (s.ts w).enter = true → entryStop kap (s.ts w).pc.toNat = none)
    (hd : decode w.core.kind (lineSlot l (posSlot (s.ts w).pc.toNat)) = .ok i) : s.fetch w = .ok i := by
  have entered : (if (s.ts w).enter then entryStop kap (s.ts w).pc.toNat else none) = none := by
    split
    · exact enter ‹_›
    · rfl
  unfold State.fetch
  simp only [hk, entered, hl, hd]

/-- An instruction whose line, operands and units are there issues (R18, R193). -/
theorem State.issueNext_eq_issued (absent : s.lineAbsent w = none) (fetched : s.fetch w = .ok i)
    (ran : exec i (s.modTs w fun t => { t with enter := false, lineHeld := none }) = .next t)
    (free : s.heldBy t w i [] = none) (took : tookSlot (t.issued s w i 0) = true) :
    s.issueNext w = .next (t.issued s w i 0) := by
  have evt : ¬ ((t.issued s w i 0).evt = 2 ∧ s.lockWait w = true) := by
    rintro ⟨evt, -⟩
    simp [tookSlot, evt] at took
  unfold State.issueNext
  simp only [absent, fetched, ran, free, if_neg evt]

/-- With no trap held, an attempt to issue is at the next instruction (R343). -/
theorem State.attempt_eq_issueNext (h : (s.ts w).traps = []) : s.attempt w = { s with who := w }.issueNext w := by
  have h : ({ s with who := w }.ts w).traps = [] := h
  unfold State.attempt
  dsimp only
  rw [h]

/-- The first candidate, once it takes the issue slot, ends the choice (R19). -/
theorem State.choose_cons_of_took (stands : (s.core c).whoAt c (s.core c).sched = some w) (may : s.mayIssue w = true)
    (bubbles : (s.ts w).bubbles = [])
    (tried : (s.setCore c { s.core c with schedRun := (s.core c).schedRun + s.cost w }).attempt w = .next t)
    (took : tookSlot t = true) :
    s.choose c ((s.core c).sched :: r) waits =
      (.next (t.turnTaken (s.setCore c { s.core c with schedRun := (s.core c).schedRun + s.cost w }) w),
        ((s.core c).sched, t.issueEvent s w) :: waits) := by
  unfold State.choose
  simp only [stands, may, bubbles, tried, took, if_true]

/-- A cycle in which the set in turn has issued: what it did, and the charges of the cycle (R19, R364). -/
theorem State.issueCycle_eq_of_choose {order : List Nat} (fresh : (s.core c).cycled = false)
    (hs : s.beginCycle c = s₁) (novote : (s₁.core c).voting c = false)
    (first : (s₁.core c).order (if c.isMemory then 2 else 4) = order) {tried : List (Nat × Nat)}
    (chosen : s₁.choose c order [] = (.next t, tried)) :
    s.issueCycle c = .next ((t.chargeAll s₁ c tried).passCycle s₁ c) := by
  subst hs first
  unfold State.issueCycle
  simp only [fresh, novote, Bool.false_eq_true, if_false, chosen]

end Issue

/-- With nothing on the agenda, a step is an issue cycle of the core in turn and a cycle of the clock. -/
theorem step_eq_of_issueCycle {s t : State} (ha : s.agenda = [])
    (h : { s with tick := s.tick + 1 }.issueCycle s.turn = .next t) : step s = .next t.tickClock := by
  simp only [ha] at h
  simp only [step, State.turnStep, ha, h]

/-- Settles O56: the issue cycle of the core in turn, link by link; an entry of the agenda is the turn that `State.turnStep`
names. -/
theorem stepRunsDecoded : Obligations.StepRunsDecoded := by
  unfold Obligations.StepRunsDecoded
  refine fun s => ⟨?_, ?_, ?_, ?_, ?_, ?_, ?_, ?_⟩
  · rintro c w kap l i t agenda rfl fresh
    extract_lets s0 k sc s1 pos u hold v
    intro novote keeps stands may bubbles traps capsule line enter absent decoded free ran took
    obtain ⟨others, order⟩ := k.order_of_keepsTurn (if s.turn.isMemory then 2 else 4) keeps
    have core : w.core = s.turn := Core.core_of_whoAt stands
    have fetched : s1.fetch w = .ok i := State.fetch_eq_ok capsule line enter (by rw [core]; exact decoded)
    have tried : sc.attempt w = .next u :=
      (State.attempt_eq_issueNext traps).trans (State.issueNext_eq_issued absent fetched ran free took)
    have chosen : s0.choose s.turn (k.sched :: others) [] = (.next (u.turnTaken sc w), [(k.sched, u.issueEvent s0 w)]) :=
      State.choose_cons_of_took stands may bubbles tried took
    have turn : u.turnTaken sc w = v := by
      unfold State.turnTaken
      rw [core]
      rfl
    rw [turn] at chosen
    have cycle := State.issueCycle_eq_of_choose (s := { s with tick := s.tick + 1 }) (s₁ := s0) fresh rfl novote order chosen
    exact step_eq_of_issueCycle agenda cycle
  all_goals
    intros
    unfold step State.turnStep
    simp only [*]

end Sys2Proof.Machine
end

section
/-! What a release leaves of a task whose BAR ends a pass of a loop that cannot go back. -/
namespace Sys2Proof.Machine

/-- Task slot 0 of memory core (0, 0), of gang 0, waits at a BAR in slot 1 of the one line of its capsule, whose slot 0 holds a GLD.
That slot 1 is a loop of its own with a pass to go, and it is no target slot; the capsule has no handler. -/
def loopedBarTask : State :=
  (State.reset.placeWord 0xB0002080100020000100000A).modTs { core := .memory 0 0, t := 0 } fun t => { t with
    run := .atBar, pc := 12, loops := [{ count := 2, first := 12, last := 12 }] }

theorem gang_loopedBarTask : loopedBarTask.gang 0 = some (placedGang true) := by decide +kernel

/-- The pass may not go back to its first position (R188, R234): the trap finds no handler, and the fault ends the gang (R342). -/
theorem gang_releaseTask_loopedBarTask :
    (loopedBarTask.releaseTask 0 (placedGang true) { core := .memory 0 0, t := 0 }).gang 0 = none := by decide +kernel

/-- Refutes O39: of every task that a release reaches it says that its gang is still there, but a BAR can end the pass of a loop,
and then the release of its task can raise TARGET and end the gang. -/
theorem not_releaseEvents : ¬ Obligations.ReleaseEvents := by
  unfold Obligations.ReleaseEvents
  intro ⟨_, _, taskReleased, _⟩
  obtain ⟨-, -, g, there, -⟩ := taskReleased loopedBarTask 0 (placedGang true) 0 0 0 gang_loopedBarTask (by decide)
  rw [gang_releaseTask_loopedBarTask] at there
  cases there

end Sys2Proof.Machine
end

section
/-! The reservation and the start of a gang or a tournament. -/
namespace Sys2Proof.Machine

section Reserving
variable {s : State} {ctx q ox oy : Nat} {c : Context} {x : Queue} {l : Launch} {k : Capsule} {slots : List (Nat × Nat × Nat)}

/-- A reserved core holds nothing of its last gang but what its context may see (R17, R406). -/
theorem Core.reserve_leaves (k : Core) (gid ctx handle build : Nat) : (let u := k.reserve gid ctx handle build
    u.gang = some gid ∧ u.lastCtx = some ctx ∧ u.fenced = k.fenced ∧ (∀ t ∈ u.ts.toList, t = ({} : ThreadSet)) ∧
      (k.lastCtx = some ctx → u.store = k.store ∧ u.poison = k.poison) ∧
      (k.lastCtx ≠ some ctx → (∀ a, u.store.read a = 0) ∧ u.poison = []) ∧
      (∀ l, l ∈ u.scratch ↔ l ∈ k.scratch ∧ l.capsule = handle ∧ l.build = build)) := by
  refine ⟨rfl, rfl, rfl, fun t ht => ?_, fun same => ?_, fun other => ?_, fun l => ?_⟩
  · simpa [Core.reserve] using ht
  · simp [Core.reserve, same]
  · simp [Core.reserve, other]
  · simp [Core.reserve]

/-- The rivals of a tournament, one for each bracket index (R160, R161). -/
theorem State.newGangs_of_rivals {m w0 h0 allow : Nat} (hl : l.rivals = some (m, w0, h0, allow)) (base : Nat) (tour : Option Nat) :
    (s.newGangs ctx q x c l k ox oy slots base tour).map (·.1) = (List.range (2 ^ m)).map (base + ·) ∧
    ∀ i, i < 2 ^ m → ∃ g, (s.newGangs ctx q x c l k ox oy slots base tour)[i]? = some (base + i, g) ∧ g.tour = tour ∧ g.bidx = i ∧
      g.phase = .starting ∧ g.sets = l.sets ∧ g.capsule = k.handle ∧ g.w = w0 ∧ g.h = h0 ∧ g.ox = ox + bracketX i * w0 ∧
      g.oy = oy + bracketY i * h0 ∧ g.rival = (if m = 0 then .ordinary else .running) := by
  simp only [State.newGangs, hl, List.map_map]
  refine ⟨rfl, fun i hi => ?_⟩
  rw [List.getElem?_map, List.getElem?_range hi]
  exact ⟨_, rfl, rfl, rfl, rfl, rfl, rfl, rfl, rfl, rfl, rfl, by simp⟩

end Reserving

section Starting
variable {s : State} {gid : Nat} {g : Gang} {l : Launch} {k : Capsule} {args : Option (List Byte)}

/-- From s to t nothing but poison, what is known of it and the contexts has changed. -/
def State.PoisonAlone (s t : State) : Prop := ∃ contexts lines lost records,
  t = { s with contexts := contexts, hbmPoison := lines, hbmLost := lost, poisonRecords := records }

theorem State.PoisonAlone.refl (s : State) : s.PoisonAlone s := ⟨_, _, _, _, rfl⟩

theorem State.PoisonAlone.trans {s t u : State} (h : s.PoisonAlone t) (k : t.PoisonAlone u) : s.PoisonAlone u := by
  obtain ⟨_, _, _, _, e⟩ := h
  obtain ⟨_, _, _, _, e'⟩ := k
  rw [e', e]
  exact ⟨_, _, _, _, rfl⟩

theorem State.poisonAlone_notePoison (s : State) (u : PoisonUnit) : s.PoisonAlone (s.notePoison u) := by
  unfold State.notePoison
  extract_lets kept here
  split <;> exact ⟨_, _, _, _, rfl⟩

theorem State.poisonAlone_poisonLine (s : State) (n : Nat) : s.PoisonAlone (s.poisonLine n) := by
  unfold State.poisonLine
  exact .trans ⟨_, _, _, _, rfl⟩ (State.poisonAlone_notePoison ..)

/-- What one injection does to global memory (R452). -/
def State.fired (ctx : Nat) (s : State) (i : Inject) : State :=
  match (s.ctx ctx).bind fun c => c.pa i.addr with
  | some pa => if i.kind = 3 then s.poisonLine (pa / 64) else s.corruptRecord (pa / 64)
  | none => s

/-- What a release that has fired them leaves of a gang's injections in global memory. -/
def Gang.spent (g : Gang) : List Inject :=
  g.injects.map fun (i : Inject) => if (i.kind = 3 ∨ i.kind = 6) ∧ i.step = g.sstep then { i with left := i.left - 1 } else i

theorem State.poisonAlone_fired (ctx : Nat) (s : State) (i : Inject) : s.PoisonAlone (s.fired ctx i) := by
  unfold State.fired
  split
  · split
    · exact s.poisonAlone_poisonLine _
    · exact ⟨_, _, _, _, rfl⟩
  · exact .refl s

/-- Injections in global memory change poison, and of gangs only what is left of the injections. -/
theorem State.poisonAlone_injectMemory (s : State) (gid : Nat) :
    (s.modGang gid fun g => { g with injects := g.spent }).PoisonAlone (s.injectMemory gid) := by
  cases hg : s.gang gid with
  | none => simpa [State.injectMemory, State.modGang, hg] using State.PoisonAlone.refl s
  | some g =>
    have steps : s.injectMemory gid =
        (g.injects.filter fun i => (i.kind == 3 || i.kind == 6) && decide (0 < i.left) && i.step == g.sstep).foldl
          (State.fired g.ctx) (s.modGang gid fun g => { g with injects := g.spent }) := by
      unfold State.injectMemory
      rw [hg]
      rfl
    rw [steps]
    exact List.foldlRecOn (motive := State.PoisonAlone _) _ _ (.refl _) fun t ht i _ => ht.trans (State.poisonAlone_fired g.ctx t i)

theorem State.injectMemory_leaves (s : State) (gid : Nat) : (let t := s.injectMemory gid
    t.compute = s.compute ∧ t.memory = s.memory ∧
      ∀ g, s.gang gid = some g → t.gang gid = some { g with injects := g.spent }) := by
  obtain ⟨contexts, lines, lost, records, e⟩ := s.poisonAlone_injectMemory gid
  intro t
  simp only [t, e]
  refine ⟨State.modGang_compute .., State.modGang_memory .., fun g hg => ?_⟩
  exact (State.gang_modGang_same ..).trans (congrArg _ hg)

/-- What a core is told of its gang, and where its thread sets begin (R16, R28). -/
def Core.Prepared (g : Gang) (l : Launch) (k : Capsule) (round : Word) (u : Core) : Prop :=
  (u.gdim = g.gdim ∧ u.brect = g.brect ∧ u.round = round) ∧
    ∀ i : Fin 16, i.val < l.sets → u.ts[i].pc = k.entry ∧ u.ts[i].run = .idle

theorem Core.prepared_prepare (u : Core) (gpos round : Word) : (u.prepare g l k gpos round args).Prepared g l k round := by
  refine ⟨⟨rfl, rfl, rfl⟩, fun i hi => ?_⟩
  simp [Core.prepare, hi, startedTs]

/-- The step of `State.startGang` at a core. -/
def State.prepareCore (o : Nat × Nat) (g : Gang) (l : Launch) (k : Capsule) (round : Word) (args : Option (List Byte)) (s : State)
    (c : CoreId) : State :=
  match c with
  | .compute x y =>
    let pos := BitVec.ofNat 32 ((x - o.1) / g.stride + 256 * (y - o.2))
    s.modCore c fun u => u.prepare g l k pos round args
  | _ => s

theorem State.startGang_eq : s.startGang gid g l k args =
    (let round := (g.tour.bind s.tours.find).elim 0 fun t => t.round g.bidx
    let s₁ := g.rect.foldl (State.prepareCore (s.gangOrigin g) g l k round args) s
    let s₂ := (g.tasks.zip (l.ofKind 5)).foldl (fun s e => s.prepareTask gid l e.1 e.2 args) s₁
    (s₂.modGang gid fun h => { h with
      phase := .running, rels := h.everyone
      injects := (s₂.ctx g.ctx).elim [] fun c => c.injectsFor g (s.gangOrigin g).1 (s.gangOrigin g).2 }).injectMemory gid) := rfl

theorem State.gangs_prepareCore (o : Nat × Nat) (round : Word) (s : State) (c : CoreId) :
    (State.prepareCore o g l k round args s c).gangs = s.gangs := by
  cases c <;> rfl

theorem State.gang_startGang (hg : s.gang gid = some g) :
    ∃ h, (s.startGang gid g l k args).gang gid = some h ∧ h.phase = .running ∧ h.rels = g.everyone ∧ h.rival = g.rival := by
  rw [State.startGang_eq]
  extract_lets round s₁ s₂
  have gangs : s₂.gangs = s.gangs :=
    (foldl_keeps (p := State.gangs) (by intros; rfl) _ _).trans
      (foldl_keeps (p := State.gangs) (by intros; exact State.gangs_prepareCore ..) _ _)
  have hg₂ : s₂.gang gid = some g := (State.gang_congr gangs gid).trans hg
  obtain ⟨-, -, left⟩ := State.injectMemory_leaves (s₂.modGang gid fun h => { h with
    phase := .running, rels := h.everyone
    injects := (s₂.ctx g.ctx).elim [] fun c => c.injectsFor g (s.gangOrigin g).1 (s.gangOrigin g).2 }) gid
  have h := left _ ((State.gang_modGang_same ..).trans (congrArg _ hg₂))
  exact ⟨_, h, rfl, rfl, rfl⟩

theorem State.prepared_startGang {c : CoreId} (hc : c ∈ g.rect) : ((s.startGang gid g l k args).core c).Prepared g l k
    ((g.tour.bind s.tours.find).elim 0 fun t => t.round g.bidx) := by
  rw [State.startGang_eq]
  extract_lets round s₁ s₂
  obtain ⟨x, y, rfl⟩ := Gang.exists_of_mem_rect hc
  have compute : (State.injectMemory (s₂.modGang gid fun h => { h with
      phase := .running, rels := h.everyone
      injects := (s₂.ctx g.ctx).elim [] fun c => c.injectsFor g (s.gangOrigin g).1 (s.gangOrigin g).2 }) gid).compute =
      s₁.compute := by
    refine (State.injectMemory_leaves _ gid).1.trans ((State.modGang_compute ..).trans ?_)
    exact foldl_keeps (p := State.compute) (by intros; rfl) _ _
  rw [State.core_compute_congr compute]
  refine State.core_foldl (q := fun _ => True) (fun _ _ => trivial) (fun s d hd _ => ?_) (fun s d hd c => ?_) hc trivial
  all_goals obtain ⟨a, b, rfl⟩ := Gang.exists_of_mem_rect hd
  · unfold State.prepareCore
    rw [State.core_modCore_same]
    exact Core.prepared_prepare ..
  · refine (s.core_modCore c (.compute a b) _).imp id fun e _ => ?_
    unfold State.prepareCore
    rw [e]
    exact Core.prepared_prepare ..

@[simp] theorem State.modQueue_gangs (s : State) (n q : Nat) (f : Queue → Queue) : (s.modQueue n q f).gangs = s.gangs :=
  State.modCtx_gangs ..

@[simp] theorem State.modQueue_tours (s : State) (n q : Nat) (f : Queue → Queue) : (s.modQueue n q f).tours = s.tours :=
  State.modCtx_tours ..

end Starting

/-- Settles O44: the checks of a reservation and of a start are evaluated in turn; of a start, its cores one after the other. -/
theorem gangEvents : Obligations.GangEvents := by
  unfold Obligations.GangEvents
  refine ⟨fun s => ⟨?_, ?_⟩, fun s gid g l k args hg => ?_, Core.reserve_leaves⟩
  · intro ctx q c x l k ox oy slots s0 hc hx room wants serves
    have serves : (!(s0.serves ctx q || x.resv.isSome)) = false := by
      rw [Bool.not_eq_false', Bool.or_eq_true]
      exact serves
    refine ⟨fun unbound => ?_, fun bound => ?_⟩
    · show execGangReserve ctx q s = _
      unfold execGangReserve
      simp only [s0, hc, hx, room, wants, serves, unbound]
      rfl
    · extract_lets s1 id gs kept
      refine ⟨fun single => ?_, fun m w0 h0 allow tour => ?_⟩
      · show execGangReserve ctx q s = _
        unfold execGangReserve
        simp only [s0, hc, hx, room, wants, serves, bound, single]
        rfl
      · extract_lets t
        obtain ⟨ids, rivals⟩ := State.newGangs_of_rivals (s := s1) (ctx := ctx) (q := q) (ox := ox) (oy := oy) (c := c) (x := x) (k := k)
          (slots := slots) tour (id + 1) (some id)
        refine ⟨?_, rivals⟩
        show execGangReserve ctx q s = _
        unfold execGangReserve
        simp only [s0, hc, hx, room, wants, serves, bound, tour]
        simp only [t, ← ids]
        rfl
  · intro gid g c x bs l k hg hc hx hb hl hk starting
    refine ⟨fun stands ok => ?_, fun runs => ?_, fun runs => ⟨fun single => ?_, fun id t tour found => ?_⟩⟩
    all_goals
      show execGangStart gid _ s = _
      unfold execGangStart
      simp only [hg, hc, hx, hb, hl, hk]
    · rw [if_pos (.inr stands)]
    · rw [if_neg (by simp [starting, runs])]
      rfl
    · rw [if_neg (by simp [starting, runs])]
      simp only [single, State.modQueue_gangs, Bool.not_true, Bool.false_eq_true, if_false, Option.bind_none]
    · rw [if_neg (by simp [starting, runs])]
      simp only [tour, State.modQueue_gangs, State.modQueue_tours, Option.bind_some, found]
      rfl
  · have prepared {c : CoreId} (hc : c ∈ g.rect) := State.prepared_startGang (s := s) (gid := gid) (l := l) (k := k) (args := args) hc
    exact ⟨State.gang_startGang hg, fun c hc => (prepared hc).1, fun c hc => (prepared hc).2⟩

end Sys2Proof.Machine
end

section
/-! What retirement, register instructions, stores and loads leave unchanged. -/
namespace Sys2Proof.Machine

/-- Cores of the package that are not the same share no entry of a table. -/
theorem CoreId.apart_of_ne {c d : CoreId} (hc : c.exists = true) (hd : d.exists = true) (h : c ≠ d) : CoreId.apart c d := by
  cases c <;> cases d <;> simp_all [CoreId.apart, CoreId.kind, CoreId.key, CoreId.exists] <;> omega

section Code
variable {s t : State} {w : Who}

/-- The capsule that a thread set runs is read from its core, its gang and its context. -/
theorem State.capsuleOf_congr (hg : t.gangId w = s.gangId w) (hc : t.contexts = s.contexts)
    (h : ∀ g, s.gangId w = some g → (t.gang g).map (fun x => (x.ctx, x.capsule)) = (s.gang g).map (fun x => (x.ctx, x.capsule))) :
    t.capsuleOf w = s.capsuleOf w := by
  have read (u : State) : u.capsuleOf w =
      (u.gangId w).bind fun g => ((u.gang g).map fun x => (x.ctx, x.capsule)).bind fun k => u.capsule k.1 k.2 := by
    unfold State.capsuleOf State.gangOf
    cases u.gangId w with
    | none => rfl
    | some g => cases h : u.gang g <;> simp [h]
  rw [read, read, hg]
  cases e : s.gangId w with
  | none => rfl
  | some g =>
    have same (a b : Nat) : t.capsule a b = s.capsule a b := by simp [State.capsule, State.ctx, hc]
    simp only [Option.bind_some, h g e, same]

theorem State.gangId_congr (h : t.core w.core = s.core w.core) : t.gangId w = s.gangId w := by simp [State.gangId, h]

theorem State.refusesTarget_congr (h : t.capsuleOf w = s.capsuleOf w) : t.refusesTarget w = s.refusesTarget w := by
  funext a
  simp [State.refusesTarget, h]

@[simp] theorem State.capsuleOf_setTs (s : State) (w : Who) (u : ThreadSet) : (s.setTs w u).capsuleOf w = s.capsuleOf w :=
  State.capsuleOf_congr (by simp [State.gangId]) (by simp) (by simp)

/-- A retirement counted (R166). -/
def State.counted (s : State) : State := { s.countRival s.who with evt := 1 }

theorem State.counted_eq (s : State) : ∃ gs, s.counted = { s with gangs := gs, evt := 1 } := by
  have modGang (g : Nat) (f : Gang → Gang) : ∃ gs, s.modGang g f = { s with gangs := gs } := by
    unfold State.modGang
    split <;> exact ⟨_, rfl⟩
  unfold State.counted State.countRival
  split
  · exact ⟨_, rfl⟩
  · split
    · obtain ⟨gs, e⟩ := modGang _ _
      rw [e]
      exact ⟨_, rfl⟩
    · exact ⟨_, rfl⟩

@[simp] theorem State.counted_who (s : State) : s.counted.who = s.who := by obtain ⟨gs, e⟩ := s.counted_eq; rw [e]
@[simp] theorem State.counted_hbm (s : State) : s.counted.hbm = s.hbm := by obtain ⟨gs, e⟩ := s.counted_eq; rw [e]
@[simp] theorem State.counted_contexts (s : State) : s.counted.contexts = s.contexts := by obtain ⟨gs, e⟩ := s.counted_eq; rw [e]
@[simp] theorem State.counted_packets (s : State) : s.counted.packets = s.packets := by obtain ⟨gs, e⟩ := s.counted_eq; rw [e]
@[simp] theorem State.counted_copies (s : State) : s.counted.copies = s.copies := by obtain ⟨gs, e⟩ := s.counted_eq; rw [e]

@[simp] theorem State.core_counted (s : State) (c : CoreId) : s.counted.core c = s.core c := by
  obtain ⟨gs, e⟩ := s.counted_eq
  rw [e]
  exact State.core_congr rfl rfl rfl c

@[simp] theorem State.me_counted (s : State) : s.counted.me = s.me := by simp [State.me, State.ts]

@[simp] theorem State.capsuleOf_counted (s : State) : s.counted.capsuleOf s.who = s.capsuleOf s.who := by
  refine State.capsuleOf_congr (State.gangId_congr (by simp)) (by simp) fun g hg => ?_
  have gangs : s.counted.gang g = (s.countRival s.who).gang g := rfl
  rw [gangs]
  unfold State.countRival
  split
  · rfl
  · rw [hg]
    cases e : s.gang g with
    | none => simp [e]
    | some x =>
      simp only [State.gang_modGang_same, e, Option.map_some]
      split <;> rfl

end Code

section Retiring
variable {s t u : State}

/-- Registers of the thread set that executes are all that differs. -/
theorem State.keepsRest_setTs (hc : s.who.core.exists = true) (r : State) (x : ThreadSet) (hr : ∀ c, r.core c = s.core c)
    (who : r.who = s.who) (hbm : r.hbm = s.hbm) (contexts : r.contexts = s.contexts) (packets : r.packets = s.packets)
    (copies : r.copies = s.copies) : s.keepsRest (r.setTs s.who x) := by
  refine ⟨by simpa, by simpa, by simpa, by simpa, by simpa, fun c h ne => ?_, ?_, fun i hi => ?_⟩
  · exact (r.core_modCore_other _ c _ (CoreId.apart_of_ne h hc ne)).trans (hr c)
  all_goals
    unfold State.here
    simp only [State.setTs_who, who, State.core_setTs_same, hr]
  exact Vector.getElem_set_ne _ _ (fun e => hi (Fin.ext e.symm))

theorem State.keepsRest.trans (h : s.keepsRest t) (k : t.keepsRest u) : s.keepsRest u := by
  obtain ⟨who, hbm, contexts, packets, copies, others, here, sets⟩ := h
  obtain ⟨who', hbm', contexts', packets', copies', others', here', sets'⟩ := k
  rw [who] at others' sets'
  refine ⟨who'.trans who, hbm'.trans hbm, contexts'.trans contexts, packets'.trans packets, copies'.trans copies,
    fun c hc ne => (others' c hc ne).trans (others c hc ne), ?_, fun i hi => (sets' i hi).trans (sets i hi)⟩
  rw [here', here]

/-- Where a thread set of registers u goes on after an instruction that traps nothing. -/
def ThreadSet.goesOn (u v : ThreadSet) : Prop :=
  ∃ pc enter loops, v = { u with run := .ready, pc := pc, enter := enter, loops := loops } ∧
    ((∀ l, u.loops.head? = some l → l.last ≠ u.pc) → loops = u.loops)

/-- A pass that does not end leaves the loop levels. -/
theorem loopEnd_of_head (refuses : Int → Bool) {pos : Word} {ls : List LoopLevel}
    (h : ∀ l, ls.head? = some l → l.last ≠ pos) : loopEnd refuses pos ls = .fall ls := by
  cases ls with
  | nil => rfl
  | cons l r => simp [loopEnd, h l rfl]

/-- An instruction that traps nothing as it retires changes where its thread set goes on. -/
theorem State.advance_of_passes (h : s.passes) : ∃ v, s.me.goesOn v ∧ s.advance s.who = s.setTs s.who v := by
  unfold State.advance
  extract_lets t pos
  split
  · exact ⟨_, ⟨_, _, _, rfl, fun _ => rfl⟩, rfl⟩
  next inh =>
    split
    next ls e =>
      refine ⟨_, ⟨_, _, ls, rfl, fun head => ?_⟩, rfl⟩
      cases (loopEnd_of_head _ head).symm.trans e
      rfl
    next f ls e =>
      refine ⟨_, ⟨_, _, ls, rfl, fun head => ?_⟩, rfl⟩
      cases (loopEnd_of_head _ head).symm.trans e
    next f ls e =>
      exact (h.elim inh fun allowed => allowed f ls e).elim

theorem State.passes_congr (who : t.who = s.who) (capsule : t.capsuleOf s.who = s.capsuleOf s.who) (inh : t.me.inh = s.me.inh)
    (pc : t.me.pc = s.me.pc) (loops : t.me.loops = s.me.loops) (h : s.passes) : t.passes := by
  unfold State.passes
  rw [who, inh, pc, loops, State.refusesTarget_congr capsule]
  exact h

theorem State.retire_seq (s : State) : s.retire .seq = s.counted.advance s.counted.who := by
  rw [State.counted_who]
  rfl

theorem State.retire_of_passes (hc : s.who.core.exists = true) (h : s.passes) :
    s.keepsRest (s.retire .seq) ∧ s.me.goesOn (s.retire .seq).me := by
  have passes : s.counted.passes := State.passes_congr (by simp) (by simp) (by simp) (by simp) (by simp) h
  obtain ⟨v, on, advanced⟩ := State.advance_of_passes passes
  rw [State.retire_seq, advanced]
  refine ⟨?_, ?_⟩
  · rw [State.counted_who]
    exact State.keepsRest_setTs hc s.counted v (by simp) (by simp) (by simp) (by simp) (by simp) (by simp)
  · rw [State.me_counted] at on
    simpa [State.me] using on

/-- An instruction whose whole effect is on the registers of its thread set leaves the rest of the device. -/
theorem State.becomes_of_passes (hc : s.who.core.exists = true) (h : s.passes) {u : ThreadSet} (inh : u.inh = s.me.inh)
    (pc : u.pc = s.me.pc) (loops : u.loops = s.me.loops) : ∃ t, s.becomes u = .next t ∧ s.keepsRest t ∧ u.goesOn t.me := by
  have me : (s.setTs s.who u).me = u := by simp [State.me]
  have passes : (s.setTs s.who u).passes := State.passes_congr (by simp) (by simp) (by rw [me, inh]) (by rw [me, pc]) (by rw [me, loops]) h
  obtain ⟨rest, on⟩ := State.retire_of_passes (by simpa using hc) passes
  rw [me] at on
  exact ⟨_, rfl, (State.keepsRest_setTs hc s u (fun _ => rfl) rfl rfl rfl rfl rfl).trans rest, on⟩

end Retiring

section Registers

theorem getElem_set_of_ne {α : Type} {n : Nat} (v : Vector α n) {i j : Fin n} (x : α) (h : j ≠ i) : (v.set i x)[j] = v[j] :=
  Vector.getElem_set_ne i.isLt j.isLt fun e => h (Fin.ext e.symm)

theorem ThreadSet.killS_eq (t : ThreadSet) (m : Bool) (r : SReg) : ∃ ds, t.killS m r = { t with sDead := ds } ∧
    ∀ q, q ≠ r → ds[q] = t.sDead[q] := by
  unfold ThreadSet.killS
  split
  · exact ⟨_, rfl, fun q h => getElem_set_of_ne _ _ h⟩
  · exact ⟨_, rfl, fun _ _ => rfl⟩

theorem ThreadSet.killV_eq (t : ThreadSet) (m : Bool) (r : VReg) : ∃ ds, t.killV m r = { t with vDead := ds } := by
  unfold ThreadSet.killV
  split <;> exact ⟨_, rfl⟩

theorem ThreadSet.putS_s_other (t : ThreadSet) (v : Word) {d r : SReg} (h : r ≠ d) : (t.putS d v).s[r] = t.s[r] :=
  getElem_set_of_ne _ _ h

theorem ThreadSet.putV_other (t : ThreadSet) (v : VWord) (f : Fmt) {d r : VReg} (h : r ≠ d) :
    (t.putV d v f).v[r] = t.v[r] ∧ (t.putV d v f).vTag[r] = t.vTag[r] :=
  ⟨getElem_set_of_ne _ _ h, getElem_set_of_ne _ _ h⟩

theorem ThreadSet.putPred_eq (t : ThreadSet) (d : PReg) (v : Bool) : ∃ ps, t.putPred d v = { t with p := ps } ∧
    ∀ r, r ≠ d → (t.putPred d v).pred r = t.pred r := by
  unfold ThreadSet.putPred
  split
  · exact ⟨_, rfl, fun _ _ => rfl⟩
  · refine ⟨_, rfl, fun r h => ?_⟩
    unfold ThreadSet.pred
    rw [getElem_set_of_ne _ _ h]

/-- A vector register that reads with a tag reads without. -/
theorem ThreadSet.readV_none {t : ThreadSet} {r : VReg} {f : Fmt} {x : VWord} (h : t.readV r (some f) = .ok x) :
    t.readV r none = .ok x := by
  unfold ThreadSet.readV at h ⊢
  grind

end Registers

section Scalar
variable {s : State} {h : Hdr} {d a b : SReg} {x y : Word}

/-- What a scalar instruction with destination d that ends in a result leaves unchanged. -/
def State.FramesS (s : State) (d : SReg) (sat : Bool) (r : Result) : Prop :=
  ∃ t, r = .next t ∧ s.keepsRest t ∧ s.me.keepsButS t.me ∧ (∀ r, r ≠ d → t.me.s[r] = s.me.s[r]) ∧
    (t.me.fstat = s.me.fstat ∨ sat = true ∧ t.me.fstat = s.me.fstat ||| fSAT)

/-- A scalar result written, with its flag, to a thread set whose dead marks alone have changed. -/
theorem State.framesS_becomes (hc : s.who.core.exists = true) (hp : s.passes) (sat : Bool) (ds : Vector Bool 32) (v f : Word)
    (hf : f = 0 ∨ sat = true ∧ f = fSAT) :
    s.FramesS d sat (s.becomes ((({ s.me with sDead := ds } : ThreadSet).putS d v).flag f)) := by
  obtain ⟨t, e, rest, pc, enter, loops, me, -⟩ := State.becomes_of_passes (s := s)
    (u := (({ s.me with sDead := ds } : ThreadSet).putS d v).flag f) hc hp rfl rfl rfl
  refine ⟨t, e, rest, ?_, fun r hr => ?_, ?_⟩
  all_goals rw [me]
  · rfl
  · exact ThreadSet.putS_s_other _ v hr
  · rcases hf with rfl | ⟨hs, rfl⟩
    · exact .inl BitVec.or_zero
    · exact .inr ⟨hs, rfl⟩

theorem framesS_alu2 (hc : s.who.core.exists = true) (hp : s.passes) (on : s.on h) (has : s.me.has2 d a b x y) (sat : Bool)
    {f : Word → Word → Word × Word} (hf : (f x y).2 = 0 ∨ sat = true ∧ (f x y).2 = fSAT) : s.FramesS d sat (alu2 h d a b f s) := by
  obtain ⟨ra, rb, free⟩ := has
  have ran : alu2 h d a b f s =
      s.becomes ((((s.me.killS h.dmA a).killS h.dmB b).putS d (f x y).1).flag (f x y).2) :=
    State.runT_on on (by simp [ra, rb, free, bind, Except.bind])
  obtain ⟨ds, ea, -⟩ := s.me.killS_eq h.dmA a
  obtain ⟨ds', eb, -⟩ := ThreadSet.killS_eq { s.me with sDead := ds } h.dmB b
  rw [ran, ea, eb]
  exact State.framesS_becomes hc hp sat ds' _ _ hf

theorem framesS_alu1 (hc : s.who.core.exists = true) (hp : s.passes) (on : s.on h) (has : s.me.has2 d a b x y) (sat : Bool)
    {f : Word → Word} : s.FramesS d sat (alu1 h d a f s) := by
  obtain ⟨ra, -, free⟩ := has
  have ran : alu1 h d a f s = s.becomes ((s.me.killS h.dmA a).putS d (f x)) :=
    State.runT_on on (by simp [ra, free, bind, Except.bind])
  obtain ⟨ds, ea, -⟩ := s.me.killS_eq h.dmA a
  have unflagged (t : ThreadSet) : t = t.flag 0 := by simp [ThreadSet.flag]
  rw [ran, ea, unflagged (ThreadSet.putS _ d (f x))]
  exact State.framesS_becomes hc hp sat ds _ _ (.inl rfl)

/-- The flag of a fixed-point result. -/
theorem fixS32_flag (sat : Bool) (v : Int) : (fixS32 sat v).2 = 0 ∨ sat = true ∧ (fixS32 sat v).2 = fSAT := by
  unfold fixS32 clampInt
  cases sat with
  | false => exact .inl rfl
  | true =>
    simp only [if_true, true_and]
    split
    · exact .inr rfl
    · split
      · exact .inr rfl
      · exact .inl rfl

end Scalar

theorem frames_scalar (s : State) (h : Hdr) (d a b : SReg) (p : PReg) (c : Cond) (sat : Bool) (x y : Word) (on : s.on h)
    (has : s.me.has2 d a b x y) (hc : s.who.core.exists = true) (hp : s.passes) :
    ∀ i ∈ [Instr.iadd h d a b sat, .isub h d a b sat, .imul h d a b, .imulh h d a b, .imulhz h d a b, .idiv h d a b,
        .idivz h d a b, .irem h d a b, .iremz h d a b, .iand h d a b, .ior h d a b, .ixor h d a b, .iandn h d a b,
        .imin h d a b, .imax h d a b, .iminz h d a b, .imaxz h d a b, .isel h d a b p, .icmp h c d a b, .iclz h d a,
        .ipop h d a], s.FramesS d sat (exec i s) := by
  have two (f : Word → Word → Word) : s.FramesS d sat (alu2 h d a b (fun x y => (f x y, 0)) s) :=
    framesS_alu2 hc hp on has sat (.inl rfl)
  have fixed (f : Word → Word → Int) : s.FramesS d sat (alu2 h d a b (fun x y => fixS32 sat (f x y)) s) :=
    framesS_alu2 hc hp on has sat (fixS32_flag sat _)
  have one (f : Word → Word) : s.FramesS d sat (alu1 h d a f s) := framesS_alu1 hc hp on has sat
  simp only [List.forall_mem_cons, List.not_mem_nil, false_imp_iff, implies_true, and_true]
  exact ⟨fixed _, fixed _, two _, two _, two _, two _, two _, two _, two _, two _, two _, two _, two _, two _, two _, two _, two _,
    two _, two _, one _, one _⟩

section Predicates
variable {s : State} {h : Hdr} {a b : SReg} {p : PReg}

/-- What an instruction with destination p among the predicates that ends in a result leaves unchanged. -/
def State.FramesP (s : State) (p : PReg) (a b : SReg) (r : Result) : Prop :=
  ∃ t, r = .next t ∧ s.keepsRest t ∧ (∀ r, r ≠ p → t.me.pred r = s.me.pred r) ∧
    (∀ r, r ≠ a → r ≠ b → t.me.sDead[r] = s.me.sDead[r]) ∧ t.me = { s.me with
      p := t.me.p, sDead := t.me.sDead, run := t.me.run, pc := t.me.pc, enter := t.me.enter, loops := t.me.loops } ∧
    ((∀ l, s.me.loops.head? = some l → l.last ≠ s.me.pc) → t.me.loops = s.me.loops)

theorem State.framesP_becomes (hc : s.who.core.exists = true) (hp : s.passes) (ds : Vector Bool 32) (v : Bool)
    (dead : ∀ r, r ≠ a → r ≠ b → ds[r] = s.me.sDead[r]) :
    s.FramesP p a b (s.becomes (({ s.me with sDead := ds } : ThreadSet).putPred p v)) := by
  obtain ⟨ps, put, others⟩ := ThreadSet.putPred_eq { s.me with sDead := ds } p v
  rw [put] at *
  obtain ⟨t, e, rest, pc, enter, loops, me, kept⟩ := State.becomes_of_passes (s := s)
    (u := { s.me with sDead := ds, p := ps }) hc hp rfl rfl rfl
  refine ⟨t, e, rest, fun r hr => ?_, fun r ha hb => ?_, ?_, ?_⟩
  all_goals rw [me]
  · exact others r hr
  · exact dead r ha hb
  · exact kept

theorem framesP_aluPred (hc : s.who.core.exists = true) (hp : s.passes) (on : s.on h) (q r : PReg) (f : Bool → Bool → Bool) :
    s.FramesP p a b (aluPred h p q r f s) := by
  have ran : aluPred h p q r f s = s.becomes (s.me.putPred p (f (s.me.pred q) (s.me.pred r))) := State.runT_on on rfl
  rw [ran]
  exact State.framesP_becomes hc hp s.me.sDead _ fun _ _ _ => rfl

theorem framesP_pset (hc : s.who.core.exists = true) (hp : s.passes) (on : s.on h) (c : Cond) {x y : Word}
    (ra : s.me.readS a = .ok x) (rb : s.me.readS b = .ok y) : s.FramesP p a b (execPset h p (.cmp c a b) s) := by
  have ran : execPset h p (.cmp c a b) s = s.becomes (((s.me.killS h.dmA a).killS h.dmB b).putPred p (condHolds c x y)) :=
    State.runT_on on (by simp [ra, rb, bind, Except.bind])
  obtain ⟨ds, ea, deadA⟩ := s.me.killS_eq h.dmA a
  obtain ⟨ds', eb, deadB⟩ := ThreadSet.killS_eq { s.me with sDead := ds } h.dmB b
  rw [ran, ea, eb]
  exact State.framesP_becomes hc hp ds' _ fun r ha hb => (deadB r hb).trans (deadA r ha)

end Predicates

theorem frames_predicate (s : State) (h : Hdr) (d a b : SReg) (p q : PReg) (c : Cond) (x y : Word) (on : s.on h)
    (has : s.me.has2 d a b x y) (hc : s.who.core.exists = true) (hp : s.passes) :
    ∀ i ∈ [Instr.pset h p (.cmp c a b), .pand h p p q, .por h p p q, .pxor h p p q, .pnot h p q],
      s.FramesP p a b (exec i s) := by
  obtain ⟨ra, rb, -⟩ := has
  have two (q r : PReg) (f : Bool → Bool → Bool) : s.FramesP p a b (aluPred h p q r f s) := framesP_aluPred hc hp on q r f
  simp only [List.forall_mem_cons, List.not_mem_nil, false_imp_iff, implies_true, and_true]
  exact ⟨framesP_pset hc hp on c ra rb, two _ _ _, two _ _ _, two _ _ _, two q q fun x _ => !x⟩

section Vectors
variable {s : State} {h : Hdr} {fmt : Fmt} {d a b c : VReg} {x y z : VWord}

/-- What a vector instruction with destination d that ends in a result leaves unchanged. -/
def State.FramesV (s : State) (d : VReg) (r : Result) : Prop :=
  ∃ t, r = .next t ∧ s.keepsRest t ∧ s.me.keepsButV t.me ∧
    (∀ r, r ≠ d → t.me.v[r] = s.me.v[r] ∧ t.me.vTag[r] = s.me.vTag[r]) ∧
    ∀ n, s.me.fstat.getLsbD n = true → t.me.fstat.getLsbD n = true

/-- A vector result written, with its flags, to a thread set whose dead marks alone have changed. -/
theorem State.framesV_becomes (hc : s.who.core.exists = true) (hp : s.passes) (vs : Vector Bool 32) (ss : Vector Bool 32)
    (v : VWord) (f : Word) (tag : Fmt) :
    s.FramesV d (s.becomes ((({ s.me with vDead := vs, sDead := ss } : ThreadSet).putV d v tag).flag f)) := by
  obtain ⟨t, e, rest, pc, enter, loops, me, -⟩ := State.becomes_of_passes (s := s)
    (u := (({ s.me with vDead := vs, sDead := ss } : ThreadSet).putV d v tag).flag f) hc hp rfl rfl rfl
  refine ⟨t, e, rest, ?_, fun r hr => ?_, fun n hn => ?_⟩
  all_goals rw [me]
  · rfl
  · exact ThreadSet.putV_other _ v tag hr
  · show (s.me.fstat ||| f).getLsbD n = true
    rw [BitVec.getLsbD_or, hn, Bool.true_or]

theorem framesV_vec1 (hc : s.who.core.exists = true) (hp : s.passes) (on : s.on h) (has : s.me.hasV fmt d a b x y)
    (f : ThreadSet → Nat → Coded) : s.FramesV d (vec1 h fmt d a f s) := by
  obtain ⟨ra, -, free⟩ := has
  obtain ⟨vs, ea⟩ := s.me.killV_eq h.dmA a
  unfold vec1
  rw [State.runT_on on (by simp only [ra, free, ea, bind, Except.bind]; rfl)]
  exact State.framesV_becomes hc hp vs s.me.sDead _ _ fmt

theorem framesV_vec2 (hc : s.who.core.exists = true) (hp : s.passes) (on : s.on h) (has : s.me.hasV fmt d a b x y)
    (f : ThreadSet → Nat → Nat → Coded) : s.FramesV d (vec2 h fmt d a b f s) := by
  obtain ⟨ra, rb, free⟩ := has
  obtain ⟨vs, ea⟩ := s.me.killV_eq h.dmA a
  obtain ⟨vs', eb⟩ := ThreadSet.killV_eq { s.me with vDead := vs } h.dmB b
  unfold vec2
  rw [State.runT_on on (by simp only [ra, rb, free, ea, eb, bind, Except.bind]; rfl)]
  exact State.framesV_becomes hc hp vs' s.me.sDead _ _ fmt

theorem framesV_vec3 (hc : s.who.core.exists = true) (hp : s.passes) (on : s.on h) (has : s.me.hasV fmt d a b x y)
    (rc : s.me.readV c (some fmt) = .ok z) (f : ThreadSet → Nat → Nat → Nat → Coded) : s.FramesV d (vec3 h fmt d a b c f s) := by
  obtain ⟨ra, rb, free⟩ := has
  obtain ⟨vs, ea⟩ := s.me.killV_eq h.dmA a
  obtain ⟨vs', eb⟩ := ThreadSet.killV_eq { s.me with vDead := vs } h.dmB b
  obtain ⟨vs'', ec⟩ := ThreadSet.killV_eq { s.me with vDead := vs' } h.dmC c
  unfold vec3
  rw [State.runT_on on (by simp only [ra, rb, rc, free, ea, eb, ec, bind, Except.bind]; rfl)]
  exact State.framesV_becomes hc hp vs'' s.me.sDead _ _ fmt

theorem framesV_vecBits (hc : s.who.core.exists = true) (hp : s.passes) (on : s.on h) (has : s.me.hasV fmt d a b x y)
    (f : VWord → VWord → VWord) : s.FramesV d (vecBits h d a b f s) := by
  obtain ⟨ra, rb, free⟩ := has
  obtain ⟨vs, ea⟩ := s.me.killV_eq h.dmA a
  obtain ⟨vs', eb⟩ := ThreadSet.killV_eq { s.me with vDead := vs } h.dmB b
  have unflagged (t : ThreadSet) : t = t.flag 0 := by simp [ThreadSet.flag]
  unfold vecBits
  rw [State.runT_on on (by simp only [ThreadSet.readV_none ra, ThreadSet.readV_none rb, free, ea, eb, bind, Except.bind]; rfl),
    unflagged (ThreadSet.putV _ _ _ _)]
  exact State.framesV_becomes hc hp vs' s.me.sDead _ _ _

theorem framesV_vsel (hc : s.who.core.exists = true) (hp : s.passes) (on : s.on h) (has : s.me.hasV fmt d a b x y) {m : SReg}
    {n : Word} (rm : s.me.readS m = .ok n) : s.FramesV d (execVsel h fmt d a b m s) := by
  obtain ⟨ra, rb, free⟩ := has
  obtain ⟨vs, ea⟩ := s.me.killV_eq h.dmA a
  obtain ⟨vs', eb⟩ := ThreadSet.killV_eq { s.me with vDead := vs } h.dmB b
  obtain ⟨ds, em, -⟩ := ThreadSet.killS_eq { s.me with vDead := vs' } h.dmC m
  have unflagged (t : ThreadSet) : t = t.flag 0 := by simp [ThreadSet.flag]
  unfold execVsel
  rw [State.runT_on on (by simp only [ra, rb, rm, free, ea, eb, em, bind, Except.bind]; rfl), unflagged (ThreadSet.putV _ _ _ _)]
  exact State.framesV_becomes hc hp vs' ds _ _ fmt

end Vectors

theorem frames_vector (s : State) (h : Hdr) (fmt : Fmt) (rm : RmCode) (sat : Bool) (d a b c : VReg) (m : SReg)
    (x y z : VWord) (n : Word) (on : s.on h) (has : s.me.hasV fmt d a b x y) (rc : s.me.readV c (some fmt) = .ok z)
    (rn : s.me.readS m = .ok n) (hc : s.who.core.exists = true) (hp : s.passes) :
    ∀ i ∈ [Instr.vadd h fmt rm sat d a b, .vsub h fmt rm sat d a b, .vmul h fmt rm sat d a b, .vmin h fmt rm sat d a b,
        .vmax h fmt rm sat d a b, .vabs h fmt rm sat d a, .vneg h fmt rm sat d a, .vdiv h fmt rm sat d a b,
        .vsqrt h fmt rm sat d a, .vfma h fmt rm sat d a b c, .vfms h fmt rm sat d a b c, .vand h d a b, .vor h d a b,
        .vxor h d a b, .vsel h fmt d a b m], s.FramesV d (exec i s) := by
  have one (f) : s.FramesV d (vec1 h fmt d a f s) := framesV_vec1 hc hp on has f
  have two (f) : s.FramesV d (vec2 h fmt d a b f s) := framesV_vec2 hc hp on has f
  have three (f) : s.FramesV d (vec3 h fmt d a b c f s) := framesV_vec3 hc hp on has rc f
  have bits (f) : s.FramesV d (vecBits h d a b f s) := framesV_vecBits hc hp on has f
  simp only [List.forall_mem_cons, List.not_mem_nil, false_imp_iff, implies_true, and_true]
  simp only [exec, execVadd, execVsub, execVmul, execVmin, execVmax, execVabs, execVneg, execVdiv, execVsqrt, execVfma, execVfms,
    execVand, execVor, execVxor]
  exact ⟨two _, two _, two _, two _, two _, one _, one _, two _, one _, three _, three _, bits _, bits _, bits _,
    framesV_vsel hc hp on has rn⟩

section Stores
variable {s : State} {h : Hdr}

/-- Bytes written read back. -/
theorem Mem.read_writeN_same {m : Mem} (hw : m.wf = true) (a : Nat) (bs : List Byte) {k : Nat} (hk : k < bs.length) :
    some ((m.writeN a bs).read (a + k)) = bs[k]? := by
  induction bs generalizing m a k with
  | nil => cases hk
  | cons b r ih =>
    rw [Mem.writeN]
    cases k with
    | zero => rw [Mem.read_writeN_other _ _ _ _ (.inl (by omega)), Mem.read_write _ _ _ _ hw]; simp
    | succ k =>
      have read := ih (m.wf_write a b hw) (a + 1) (k := k) (by simpa using hk)
      simpa [Nat.add_assoc, Nat.add_comm 1 k] using read

theorem ThreadSet.watch_eq (t : ThreadSet) (m : Mem) (a n : Nat) : ∃ r, t.watch m a n = { t with run := r } := by
  unfold ThreadSet.watch
  split
  · split <;> exact ⟨_, rfl⟩
  · exact ⟨_, rfl⟩

theorem Core.plateFor_eq (k : Core) (limit slot : Nat) (mates blocks : List Nat) :
    ∃ plate, (k.plateFor limit slot mates blocks).1 = { k with plate := plate } := by
  have kept : { (k.plateFor limit slot mates blocks).1 with plate := [] } = { k with plate := [] } := by
    unfold Core.plateFor
    refine foldl_keeps (p := fun acc : Core × Bool => { acc.1 with plate := [] }) (fun acc b => ?_) blocks (k, false)
    dsimp only
    split
    · rfl
    · split <;> rfl
  exact ⟨_, congrArg (fun u => { u with plate := (k.plateFor limit slot mates blocks).1.plate }) kept⟩

theorem State.modGang_eq {g : Nat} {x : Gang} (h : s.gang g = some x) (f : Gang → Gang) :
    s.modGang g f = { s with gangs := s.gangs.put g (f x) } := by
  unfold State.modGang
  rw [h]

/-- The bytes of a core's store change, and what its plate holds. -/
def State.put (s : State) (w : Who) (plate : Table (BitVec 2048)) (a : Nat) (bs : List Byte) : State :=
  s.setCore w.core (({ s.core w.core with plate := plate } : Core).putBytes a bs)

@[simp] theorem State.put_gangs (s : State) (w : Who) (plate : Table (BitVec 2048)) (a : Nat) (bs : List Byte) :
    (s.put w plate a bs).gangs = s.gangs := State.setCore_gangs ..

/-- A store changes the bytes, the plate and the marks of its core, a mark of its gang and a counter. -/
theorem State.storeBytes_eq (s : State) (w : Who) (a : Nat) (bs : List Byte) : ∃ plate gangs counters,
    s.storeBytes w a bs = { s.put w plate a bs with gangs := gangs, devCounters := counters } ∧
    ∀ g, (gangs.find g).map (fun x => (x.ctx, x.capsule)) = (s.gang g).map (fun x => (x.ctx, x.capsule)) := by
  have plain (plate : Table (BitVec 2048)) : ∃ plate' gangs counters,
      s.put w plate a bs = { s.put w plate' a bs with gangs := gangs, devCounters := counters } ∧
      ∀ g, (gangs.find g).map (fun x => (x.ctx, x.capsule)) = (s.gang g).map (fun x => (x.ctx, x.capsule)) :=
    ⟨plate, _, _, rfl, fun g => congrArg (fun t : Table Gang => (t.find g).map _) (State.put_gangs ..)⟩
  unfold State.storeBytes
  split
  next id hid =>
    split
    next g hg =>
      split
      · exact plain _
      · extract_lets k slot limit r t
        obtain ⟨plate, e⟩ := (s.core w.core).plateFor_eq limit slot (g.mates w.core) (blocksOf a bs.length)
        have stored : t = s.put w plate a bs := by
          show s.setCore w.core (r.1.putBytes a bs) = _
          rw [e]
          rfl
        split
        · have there : t.gang id = some g := (State.gang_congr (by rw [stored, State.put_gangs]) id).trans hg
          refine ⟨plate, s.gangs.put id { g with nonroll := true },
            { t.devCounters with nonroll := sat64 t.devCounters.nonroll }, ?_, fun i => ?_⟩
          · refine (congrArg (fun u : State => { u with devCounters := { t.devCounters with nonroll := sat64 t.devCounters.nonroll } })
              (State.modGang_eq there _)).trans ?_
            rw [stored, State.put_gangs]
          · by_cases hi : i = id
            · rw [hi, Table.find_put_same, hg]
              rfl
            · rw [Table.find_put_other _ _ _ _ hi]
              rfl
        · rw [stored]
          exact plain plate
    · exact plain _
  · exact plain _

/-- What a store of the thread set that executes leaves, and the bytes it puts. -/
theorem State.storeBytes_leaves (hc : s.who.core.exists = true) (a : Nat) (bs : List Byte) : (let t := s.storeBytes s.who a bs
    t.who = s.who ∧ t.hbm = s.hbm ∧ t.contexts = s.contexts ∧ t.capsuleOf s.who = s.capsuleOf s.who ∧
      (∃ r, t.ts s.who = { s.me with run := r }) ∧ (∀ c : CoreId, c.exists = true → c ≠ s.who.core → t.core c = s.core c) ∧
      (t.core s.who.core).store = s.here.store.writeN a bs) := by
  obtain ⟨plate, gangs, counters, e, same⟩ := s.storeBytes_eq s.who a bs
  have cores (c : CoreId) : (s.storeBytes s.who a bs).core c = (s.put s.who plate a bs).core c := by
    rw [e]
    exact State.core_congr rfl rfl rfl c
  have here : (s.storeBytes s.who a bs).core s.who.core = ({ s.here with plate := plate } : Core).putBytes a bs :=
    (cores _).trans (s.core_setCore_same ..)
  have contexts : (s.storeBytes s.who a bs).contexts = s.contexts := by
    rw [e]
    exact State.setCore_contexts ..
  refine ⟨?_, ?_, contexts, ?_, ?_, fun c h ne => ?_, ?_⟩
  · rw [e]
    exact State.setCore_who ..
  · rw [e]
    exact State.setCore_hbm ..
  · refine State.capsuleOf_congr ?_ contexts fun g _ => ?_
    · unfold State.gangId
      rw [here]
      rfl
    · rw [e]
      exact same g
  · obtain ⟨r, watched⟩ := s.me.watch_eq (s.here.store.writeN a bs) a bs.length
    refine ⟨r, ?_⟩
    unfold State.ts
    rw [here, ← watched]
    exact Vector.getElem_map ..
  · exact (cores c).trans (s.core_setCore_other _ c _ (CoreId.apart_of_ne h hc ne))
  · rw [here]
    rfl

theorem State.me_setTs {t : State} {w : Who} (h : t.who = w) (u : ThreadSet) : (t.setTs w u).me = u := by
  simp [State.me, h]

/-- A store that retires: the bytes it puts, and what it leaves unchanged. -/
def State.FramesStore (s : State) (a : Nat) (bs : List Byte) (r : Result) : Prop :=
  ∃ t, r = .next t ∧ t.hbm = s.hbm ∧ t.me.s = s.me.s ∧ t.me.v = s.me.v ∧ t.me.fstat = s.me.fstat ∧
    (∀ c : CoreId, c.exists = true → c ≠ s.who.core → t.core c = s.core c) ∧
    (∀ k, k < bs.length → some (t.here.store.read (a + k)) = bs[k]?) ∧
    ∀ y, y < a ∨ a + bs.length ≤ y → t.here.store.read y = s.here.store.read y

theorem State.framesStore_done (hc : s.who.core.exists = true) (hp : s.passes) (wf : s.here.store.wf = true) (a : Nat)
    (bs : List Byte) {f : ThreadSet → ThreadSet} (dead : ∀ u, ∃ ds vs, f u = { u with sDead := ds, vDead := vs }) :
    s.FramesStore a bs (((s.storeBytes s.who a bs).modTs s.who f).done) := by
  obtain ⟨who, hbm, contexts, capsule, ⟨r, ts⟩, others, store⟩ := State.storeBytes_leaves hc a bs
  obtain ⟨ds, vs, marked⟩ := dead ((s.storeBytes s.who a bs).ts s.who)
  rw [State.modTs_eq, marked, ts]
  generalize s.storeBytes s.who a bs = t at *
  have me := State.me_setTs who { s.me with run := r, sDead := ds, vDead := vs }
  have who' : (t.setTs s.who { s.me with run := r, sDead := ds, vDead := vs }).who = s.who := (State.setTs_who ..).trans who
  have passes : (t.setTs s.who { s.me with run := r, sDead := ds, vDead := vs }).passes :=
    State.passes_congr who' (by simp [capsule]) (by rw [me]; rfl) (by rw [me]) (by rw [me]) hp
  obtain ⟨rest, on⟩ := State.retire_of_passes (by rwa [who']) passes
  rw [me] at on
  obtain ⟨pc, enter, loops, left, -⟩ := on
  obtain ⟨-, hbm', -, -, -, others', here', -⟩ := rest
  rw [who'] at others'
  have read : ((t.setTs s.who { s.me with run := r, sDead := ds, vDead := vs }).retire .seq).here.store =
      s.here.store.writeN a bs := by
    rw [here', ← store]
    unfold State.here
    rw [who', State.core_setTs_same]
  refine ⟨_, rfl, hbm'.trans (by simp [hbm]), by rw [left], by rw [left], by rw [left], fun c h ne => ?_, fun k hk => ?_,
    fun y hy => ?_⟩
  · exact (others' c h ne).trans ((t.core_modCore_other _ c _ (CoreId.apart_of_ne h hc ne)).trans (others c h ne))
  · rw [read]
    exact Mem.read_writeN_same wf a bs hk
  · rw [read]
    exact Mem.read_writeN_other _ _ _ _ hy

theorem aligned_of_mod {n : Nat} {p : Int} (h : p % n = 0) : aligned n [p] = .ok () := by
  simp [aligned, Int.dvd_of_emod_eq_zero h]

theorem ThreadSet.killP_eq (t : ThreadSet) (m : Bool) (p : SPair) : ∃ ds, t.killP m p = { t with sDead := ds } := by
  obtain ⟨ds, e, -⟩ := t.killS_eq m (SPair.lo p)
  obtain ⟨ds', e', -⟩ := ThreadSet.killS_eq { t with sDead := ds } m (SPair.hi p)
  exact ⟨ds', by rw [ThreadSet.killP, e, e']⟩

theorem ThreadSet.killSt_eq (t : ThreadSet) (m : Bool) (w : StWidth) (b : SReg) : ∃ ds, t.killSt m w b = { t with sDead := ds } := by
  obtain ⟨ds, e, -⟩ := t.killS_eq m b
  obtain ⟨ds', e'⟩ := t.killP_eq m (SReg.pair b)
  cases w with
  | b64 => exact ⟨ds', e'⟩
  | b8 | b16 | b32 => exact ⟨ds, e⟩

theorem length_leBytes (n v : Nat) : (leBytes n v).length = n := by
  induction n generalizing v with
  | zero => rfl
  | succ n ih => simp [leBytes, ih]

variable {a : SPair} {imm : Imm} {x : DWord}

theorem frames_st (on : s.on h) (base : s.me.readP a = .ok x) (hc : s.who.core.exists = true) (hp : s.passes)
    (wf : s.here.store.wf = true) (w : StWidth) (b : SReg) (bs : List Byte) (src : s.me.readSt w b = .ok bs)
    (hal : ea x imm 0 % w.bytes = 0) (acc : s.access s.who [(ea x imm 0, w.bytes)] = .ok ()) :
    s.FramesStore (ea x imm 0).toNat bs (exec (.st h w b a imm) s) := by
  have base : (s.ts s.who).readP a = .ok x := base
  have src : (s.ts s.who).readSt w b = .ok bs := src
  have ran : exec (.st h w b a imm) s = ((s.storeBytes s.who (ea x imm 0).toNat bs).modTs s.who fun t =>
      (t.killP h.dmA a).killSt h.dmB w b).done := by
    show execSt h w b a imm s = _
    unfold execSt
    exact State.run_on on (by simp only [base, src, aligned_of_mod hal, acc, bind, Except.bind])
  rw [ran]
  refine State.framesStore_done hc hp wf _ bs fun u => ?_
  obtain ⟨ds, ea⟩ := u.killP_eq h.dmA a
  obtain ⟨ds', eb⟩ := ThreadSet.killSt_eq { u with sDead := ds } h.dmB w b
  exact ⟨ds', u.vDead, by rw [ea, eb]⟩

theorem frames_stv (on : s.on h) (base : s.me.readP a = .ok x) (hc : s.who.core.exists = true) (hp : s.passes)
    (wf : s.here.store.wf = true) (b : VReg) (v : VWord) (src : s.me.readV b none = .ok v) (hal : ea x imm 0 % 8 = 0)
    (acc : s.access s.who [(ea x imm 0, 32)] = .ok ()) :
    s.FramesStore (ea x imm 0).toNat (bytesOf v) (exec (.stv h false b a imm) s) := by
  have base : (s.ts s.who).readP a = .ok x := base
  have src : (s.ts s.who).readV b none = .ok v := src
  have acc : s.access s.who [(ea x imm 0, (vecImage false v).length)] = .ok () := by
    rwa [show (vecImage false v).length = 32 from length_leBytes _ _]
  have ran : exec (.stv h false b a imm) s = ((s.storeBytes s.who (ea x imm 0).toNat (bytesOf v)).modTs s.who fun t =>
      (t.killP h.dmA a).killV h.dmB b).done := by
    show execStv h false b a imm s = _
    unfold execStv
    exact State.run_on on (by
      simp only [base, src, aligned_of_mod (n := 8) hal, acc, bind, Except.bind, Bool.false_eq_true, if_false]
      rfl)
  rw [ran]
  refine State.framesStore_done hc hp wf _ _ fun u => ?_
  obtain ⟨ds, ea⟩ := u.killP_eq h.dmA a
  obtain ⟨vs, eb⟩ := ThreadSet.killV_eq { u with sDead := ds } h.dmB b
  exact ⟨ds, vs, by rw [ea, eb]⟩

/-- A value loaded is written to its register, or to the two of its pair. -/
theorem ThreadSet.putLd_leaves (t : ThreadSet) (w : LdWidth) (d : SReg) (bs : List Byte) : ∃ ss ds,
    t.putLd w d bs = { t with s := ss, sDead := ds } ∧ ∀ r : SReg, r ≠ d → ¬ (w = .b64 ∧ r.val / 2 = d.val / 2) → ss[r] = t.s[r] := by
  have pair (v : DWord) : ∃ ss ds, t.putP (SReg.pair d) v = { t with s := ss, sDead := ds } ∧
      ∀ r : SReg, r.val / 2 ≠ d.val / 2 → ss[r] = t.s[r] := by
    refine ⟨_, _, rfl, fun r hr => ?_⟩
    refine (getElem_set_of_ne _ _ fun e => ?_).trans (getElem_set_of_ne _ _ fun e => ?_)
    all_goals
      subst e
      simp only [SPair.lo, SPair.hi, SReg.pair] at hr
      omega
  cases w with
  | b64 =>
    obtain ⟨ss, ds, e, others⟩ := pair (BitVec.ofNat 64 (loadVal .b64 bs))
    exact ⟨ss, ds, e, fun r _ hr => others r fun h => hr ⟨rfl, h⟩⟩
  | b8 | b16 | b32 | sb8 | sb16 => exact ⟨_, _, rfl, fun r hr _ => ThreadSet.putS_s_other t _ hr⟩

theorem frames_ld (on : s.on h) (base : s.me.readP a = .ok x) (hc : s.who.core.exists = true) (hp : s.passes)
    (w : LdWidth) (d : SReg) (bs : List Byte) (free : s.me.freeLd w d = .ok ())
    (hal : ea x imm 0 % w.bytes = 0) (acc : s.access s.who [(ea x imm 0, w.bytes)] = .ok ())
    (loaded : s.loadBytes s.who (ea x imm 0).toNat w.bytes = .ok bs) :
    ∃ t, exec (.ld h w d a imm) s = .next t ∧ s.keepsRest t ∧ s.me.keepsButS t.me ∧ t.me.fstat = s.me.fstat ∧
      ∀ r, r ≠ d → ¬ (w = .b64 ∧ r.val / 2 = d.val / 2) → t.me.s[r] = s.me.s[r] := by
  have base : (s.ts s.who).readP a = .ok x := base
  have free : (s.ts s.who).freeLd w d = .ok () := free
  have ran : exec (.ld h w d a imm) s = s.becomes ((s.me.killP h.dmA a).putLd w d bs) := by
    show execLd h w d a imm s = _
    unfold execLd
    exact State.run_on on (by simp only [base, free, aligned_of_mod hal, acc, loaded, bind, Except.bind]; rfl)
  obtain ⟨ds, ea⟩ := s.me.killP_eq h.dmA a
  obtain ⟨ss, ds', put, others⟩ := ThreadSet.putLd_leaves { s.me with sDead := ds } w d bs
  obtain ⟨t, e, rest, pc, enter, loops, me, -⟩ := State.becomes_of_passes (s := s)
    (u := { s.me with s := ss, sDead := ds' }) hc hp rfl rfl rfl
  rw [ran, ea, put]
  refine ⟨t, e, rest, ?_, ?_, fun r hr hp => ?_⟩
  all_goals rw [me]
  · rfl
  · exact others r hr hp

end Stores

/-- Settles O58: each instruction ends in registers that differ where it says, and its retirement in where the set goes on. -/
theorem frames : Obligations.Frames := by
  unfold Obligations.Frames
  refine ⟨fun s hc hp => ?_, fun s h d a b p q c sat x y on has hc hp => ⟨?_, ?_⟩, ?_, ?_⟩
  · exact State.retire_of_passes hc hp
  · exact frames_scalar s h d a b p c sat x y on has hc hp
  · exact frames_predicate s h d a b p q c x y on has hc hp
  · exact fun s h fmt rm sat d a b c m x y z n on has rc rn hc hp =>
      frames_vector s h fmt rm sat d a b c m x y z n on has rc rn hc hp
  · exact fun s h a imm x on base hc hp wf =>
      ⟨frames_st on base hc hp wf, frames_stv on base hc hp wf, frames_ld on base hc hp⟩

end Sys2Proof.Machine
end

section
/-! SUPPORT. What the engines and the end of a gang leave unchanged. -/
namespace Sys2Proof.Machine

section Queues
variable {s : State} {f : Context → Context} {g : Queue → Queue}

theorem State.ctx_modCtx_same (c : Nat) : (s.modCtx c f).ctx c = (s.ctx c).map f := by
  unfold State.modCtx
  split
  next x h => simp [State.ctx] at h ⊢; simp [h]
  next h => simp [h]

theorem State.ctx_modCtx_other {c d : Nat} (h : d ≠ c) : (s.modCtx c f).ctx d = s.ctx d := by
  unfold State.modCtx
  split
  · exact Table.find_put_other _ _ _ _ h
  · rfl

/-- A part of a context that an update leaves is left in every context. -/
theorem State.ctx_modCtx_bind {α : Type} {p : Context → Option α} (hf : ∀ x, p (f x) = p x) (c d : Nat) :
    ((s.modCtx c f).ctx d).bind p = (s.ctx d).bind p := by
  by_cases h : d = c
  · subst h
    rw [State.ctx_modCtx_same]
    cases s.ctx d with
    | none => rfl
    | some x => exact hf x
  · rw [State.ctx_modCtx_other h]

theorem State.queue_modQueue_same (c q : Nat) : (s.modQueue c q g).queue c q = (s.queue c q).map g := by
  unfold State.modQueue State.queue
  rw [State.ctx_modCtx_same]
  cases s.ctx c with
  | none => rfl
  | some x =>
    simp only [Option.map_some, Option.bind_some]
    split
    next h => simp [h]
    next h => simp [h]

theorem State.queue_modQueue_other {c q d r : Nat} (h : (d, r) ≠ (c, q)) : (s.modQueue c q g).queue d r = s.queue d r := by
  unfold State.modQueue State.queue
  by_cases e : d = c
  · subst e
    have ne : r ≠ q := fun e => h (by rw [e])
    refine State.ctx_modCtx_bind (fun x => ?_) d d
    split
    · exact Table.find_put_other _ _ _ _ ne
    · rfl
  · rw [State.ctx_modCtx_other e]

end Queues

section Engines

/-- What the engines do to global memory, to its page tables and to the posts of a context leaves the cores, the gangs and their
records as they were. -/
structure State.EngineLeaves (s t : State) : Prop where
  compute : t.compute = s.compute
  memory : t.memory = s.memory
  control : t.control = s.control
  gangs : t.gangs = s.gangs
  tours : t.tours = s.tours
  packets : t.packets = s.packets
  qposts : t.qposts = s.qposts
  reports : t.reports = s.reports
  devCounters : t.devCounters = s.devCounters
  queue : ∀ c q, t.queue c q = s.queue c q
  capsule : ∀ c h, t.capsule c h = s.capsule c h

namespace State.EngineLeaves
variable {s t u : State}

theorem refl (s : State) : s.EngineLeaves s := ⟨rfl, rfl, rfl, rfl, rfl, rfl, rfl, rfl, rfl, fun _ _ => rfl, fun _ _ => rfl⟩

theorem trans (h : s.EngineLeaves t) (k : t.EngineLeaves u) : s.EngineLeaves u :=
  ⟨k.compute.trans h.compute, k.memory.trans h.memory, k.control.trans h.control, k.gangs.trans h.gangs, k.tours.trans h.tours,
    k.packets.trans h.packets, k.qposts.trans h.qposts, k.reports.trans h.reports, k.devCounters.trans h.devCounters,
    fun c q => (k.queue c q).trans (h.queue c q), fun c q => (k.capsule c q).trans (h.capsule c q)⟩

theorem foldl {α : Type} {f : State → α → State} (hf : ∀ s a, State.EngineLeaves s (f s a)) (l : List α) (s : State) :
    s.EngineLeaves (l.foldl f s) := by
  induction l generalizing s with
  | nil => exact refl s
  | cons a r ih => exact (hf s a).trans (ih _)

theorem core (h : s.EngineLeaves t) (c : CoreId) : t.core c = s.core c := State.core_congr h.compute h.memory h.control c

theorem gang (h : s.EngineLeaves t) (g : Nat) : t.gang g = s.gang g := State.gang_congr h.gangs g

end State.EngineLeaves

variable (s : State)

theorem State.engineLeaves_modCtx (c : Nat) {f : Context → Context} (hq : ∀ x, (f x).queues = x.queues)
    (hk : ∀ x, (f x).capsules = x.capsules) : s.EngineLeaves (s.modCtx c f) where
  compute := by simp
  memory := by simp
  control := by simp
  gangs := by simp
  tours := by simp
  packets := by simp
  qposts := by simp
  reports := by simp
  devCounters := by simp
  queue d q := State.ctx_modCtx_bind (fun x => by rw [hq]) c d
  capsule d h := State.ctx_modCtx_bind (fun x => by simp only [Context.capsule, hk]) c d

theorem State.engineLeaves_globalWrite (ctx gva : Nat) (bs : List Byte) : s.EngineLeaves (s.globalWrite ctx gva bs) := by
  unfold State.globalWrite
  split
  · exact .refl s
  · exact ⟨rfl, rfl, rfl, rfl, rfl, rfl, rfl, rfl, rfl, fun _ _ => rfl, fun _ _ => rfl⟩

theorem State.engineLeaves_repairPage (ctx gva : Nat) : s.EngineLeaves (s.repairPage ctx gva) := by
  unfold State.repairPage
  split
  · exact ⟨rfl, rfl, rfl, rfl, rfl, rfl, rfl, rfl, rfl, fun _ _ => rfl, fun _ _ => rfl⟩
  · exact .refl s

theorem State.engineLeaves_collapse (ctx gva : Nat) : s.EngineLeaves (s.collapse ctx gva) := by
  unfold State.collapse
  split
  · split
    · exact (s.engineLeaves_repairPage ctx gva).trans (State.engineLeaves_modCtx _ _ (fun _ => rfl) fun _ => rfl)
    · exact .refl s
  · exact .refl s

theorem State.engineLeaves_engineWrite (ctx gva : Nat) (bs : List Byte) : s.EngineLeaves (s.engineWrite ctx gva bs) :=
  (State.EngineLeaves.foldl (fun s a => s.engineLeaves_collapse ctx a) _ s).trans (State.engineLeaves_globalWrite _ ctx gva bs)

theorem State.engineLeaves_bumpCounter (ctx n : Nat) (ok : Bool) (e : Nat) : s.EngineLeaves (s.bumpCounter ctx n ok e) := by
  unfold State.bumpCounter
  split
  · exact .refl s
  · exact s.engineLeaves_engineWrite ..

theorem State.engineLeaves_finish (ctx number counter : Nat) (ok : Bool) (e : Nat) :
    s.EngineLeaves (s.finish ctx number counter ok e) := by
  have deferred (d : Deferred) : s.EngineLeaves { s with deferred := s.deferred ++ [d] } :=
    ⟨rfl, rfl, rfl, rfl, rfl, rfl, rfl, rfl, rfl, fun _ _ => rfl, fun _ _ => rfl⟩
  unfold State.finish
  split
  · split
    · exact (deferred _).trans (State.engineLeaves_modCtx _ _ (fun _ => rfl) fun _ => rfl)
    · exact (s.engineLeaves_bumpCounter ..).trans (State.engineLeaves_modCtx _ _ (fun _ => rfl) fun _ => rfl)
  · exact (deferred _).trans (State.engineLeaves_modCtx _ _ (fun _ => rfl) fun _ => rfl)

theorem State.engineLeaves_endPost (ctx : Nat) (p : Post) (ok : Bool) (e : Nat) : s.EngineLeaves (s.endPost ctx p ok e) :=
  s.engineLeaves_finish ..

theorem State.engineLeaves_discardPosts (ctx g : Nat) : s.EngineLeaves (s.discardPosts ctx g) := by
  unfold State.discardPosts
  split
  · exact .refl s
  · exact .foldl (fun s p => s.engineLeaves_endPost ctx p false 6) _ s

end Engines

section Settled

/-- Every entry of a gang in the commit buffer of a core drains. -/
def Core.Settled (gid : Nat) (k : Core) : Prop := ∀ c ∈ k.commit, c.gang = gid → c.draining = true

/-- Every entry of a gang drains. -/
def State.Settled (gid : Nat) (s : State) : Prop := ∀ e ∈ s.memory, e.2.Settled gid

variable {s t : State} {gid : Nat}

theorem State.Settled.congr (h : t.memory = s.memory) (hs : s.Settled gid) : t.Settled gid := by
  unfold State.Settled
  rwa [h]

theorem State.Settled.setCore (hs : s.Settled gid) {c : CoreId} {k : Core} (hk : k.commit = (s.core c).commit) :
    (s.setCore c k).Settled gid := by
  cases c with
  | memory a b =>
    refine (s.memory.forall_put_iff (p := Core.Settled gid) (a * 32 + b) (d := { }) ?_ ?_).2 hs
    · exact fun _ h => absurd h (List.not_mem_nil)
    · unfold Core.Settled
      rw [hk]
      rfl
  | compute _ _ => exact hs
  | control _ => exact hs

theorem State.Settled.modCore (hs : s.Settled gid) {c : CoreId} {f : Core → Core} (hf : (f (s.core c)).commit = (s.core c).commit) :
    (s.modCore c f).Settled gid := hs.setCore hf

theorem State.Settled.foldl {α : Type} {f : State → α → State} (hs : s.Settled gid) (l : List α)
    (hf : ∀ s a, s.Settled gid → (f s a).Settled gid) : (l.foldl f s).Settled gid := by
  induction l generalizing s with
  | nil => exact hs
  | cons a r ih => exact ih (hf s a hs)

theorem State.Settled.engine (hs : s.Settled gid) (h : s.EngineLeaves t) : t.Settled gid := hs.congr h.memory

theorem State.Settled.dropPlates (hs : s.Settled gid) (ts : List (Nat × Nat × Nat)) : (s.dropPlates ts).Settled gid :=
  hs.foldl ts fun _ _ hs => hs.modCore rfl

theorem State.Settled.killTasks (hs : s.Settled gid) (g : Gang) : (s.killTasks g).Settled gid :=
  State.Settled.dropPlates (hs.foldl g.tasks fun _ _ hs => hs.modCore rfl) _

theorem State.Settled.closeSubs (hs : s.Settled gid) (c : CoreId) : (s.closeSubs c).Settled gid := by
  unfold State.closeSubs
  split
  · exact State.Settled.foldl (hs.modCore rfl) _ fun _ _ hs => hs
  · exact hs

theorem State.Settled.leaveCores (hs : s.Settled gid) (g : Gang) (i : Nat) : (s.leaveCores g i).Settled gid := by
  refine hs.foldl _ fun s c hs => ?_
  dsimp only
  split
  · exact hs
  · have left := (hs.closeSubs c).setCore (c := c) (k := ((s.closeSubs c).core c).vacate g.ctx) rfl
    split
    · exact left.modCore rfl
    · exact left

/-- Entries that are dropped leave those of every gang that drain. -/
theorem State.Settled.dropCommits (hs : s.Settled gid) (i : Nat) : (s.dropCommits i).Settled gid := by
  simp only [State.Settled, State.dropCommits, List.forall_mem_map]
  exact fun e he c hc => hs e he c (List.mem_of_mem_filter hc)

/-- No entry of a gang that has not been committed is left once those are dropped. -/
theorem State.settled_dropCommits (s : State) (gid : Nat) : (s.dropCommits gid).Settled gid := by
  simp only [State.Settled, State.dropCommits, List.forall_mem_map]
  intro e _ c hc mine
  have kept := List.of_mem_filter hc
  simpa [mine] using kept

theorem State.Settled.releaseGang (hs : s.Settled gid) (g : Gang) (i : Nat) : (s.releaseGang g i).Settled gid := by
  have dropped := ((hs.leaveCores g i).killTasks g).dropCommits i
  unfold State.releaseGang
  exact State.Settled.engine (State.Settled.congr (by rfl) dropped) (State.engineLeaves_discardPosts ..)

theorem State.Settled.modQueue (hs : s.Settled gid) (c q : Nat) (f : Queue → Queue) : (s.modQueue c q f).Settled gid :=
  hs.congr (State.modCtx_memory ..)

theorem State.Settled.killRecord (hs : s.Settled gid) (ctx q idx err cause : Nat) (xpc xval : Word) (mark : Bool) :
    (s.killRecord ctx q idx err cause xpc xval mark).Settled gid :=
  State.Settled.modQueue (State.Settled.congr (by rfl) (hs.foldl _ fun _ (e : Nat × Gang) hs => hs.releaseGang e.2 e.1)) ctx q _

theorem State.Settled.raiseQueue (hs : s.Settled gid) (ctx q : Nat) : (s.raiseQueue ctx q).Settled gid := by
  unfold State.raiseQueue
  split <;> exact hs

theorem State.Settled.tearQueue (hs : s.Settled gid) (ctx q : Nat) : (s.tearQueue ctx q).Settled gid := by
  have dropped : (s.dropStarting ctx q).Settled gid :=
    State.Settled.congr (by rfl) (hs.foldl _ fun _ (e : Nat × Gang) hs => hs.releaseGang e.2 e.1)
  unfold State.tearQueue
  split
  · exact hs
  · exact State.Settled.raiseQueue
      (State.Settled.modQueue (dropped.foldl _ fun _ i hs => hs.killRecord ctx q i 10 0 0 0 false) ctx q _) ctx q

theorem State.Settled.teardown (hs : s.Settled gid) (ctx q fdom : Nat) : (s.teardown ctx q fdom).Settled gid :=
  State.Settled.foldl (State.Settled.congr (by rfl) hs) _ fun _ q hs => hs.tearQueue ctx q

end Settled

end Sys2Proof.Machine
end

section
/-! Arrivals at a barrier, its tokens, and its completion. -/
namespace Sys2Proof.Machine

section Completion
variable {s t : State} {gid : Nat}

theorem State.Settled.report (hs : s.Settled gid) (r : Report) : (s.report r).Settled gid := by
  unfold State.report
  dsimp only
  split
  · split <;> exact hs
  · exact hs

theorem State.Settled.unpinned (hs : s.Settled gid) (ctx q src addr : Nat) : (s.unpinned ctx q src addr).Settled gid := by
  unfold State.unpinned State.unpinnedAt
  refine State.Settled.teardown (State.Settled.report ?_ _) _ _ _
  split
  · exact hs
  · exact hs

theorem State.Settled.appendRecord (hs : s.Settled gid) (p : QPost) : (s.appendRecord p).Settled gid := by
  unfold State.appendRecord
  split
  · exact hs
  · extract_lets a behind
    split
    · exact hs
    · split
      · exact hs.unpinned _ _ _ _
      · exact State.Settled.modQueue (hs.engine (s.engineLeaves_engineWrite ..)) _ _ _

theorem State.Settled.depart (hs : s.Settled gid) (ctx : Nat) (p : Post) : (s.depart ctx p).Settled gid := by
  unfold State.depart
  split
  · split
    · have ended := hs.engine (s.engineLeaves_endPost ctx p false 8)
      unfold State.failPost
      dsimp only
      split
      · exact ended
      · exact State.Settled.modQueue (State.Settled.congr (by rfl) ended) _ _ _
    · exact hs
  · exact hs

theorem State.Settled.releasePosts (hs : s.Settled gid) (i : Nat) (g : Gang) : (s.releasePosts i g).Settled gid := by
  unfold State.releasePosts
  extract_lets mine s₁ s₂
  have appended : s₂.Settled gid := State.Settled.foldl (s := s₁) hs _ fun s p hs => hs.appendRecord p
  split
  · exact appended
  · exact State.Settled.foldl (appended.congr (State.modCtx_memory ..)) _ fun s p hs => hs.depart _ _

/-- At a commit every entry of the gang begins to drain (R143). -/
theorem State.settled_commitGang (s : State) (gid : Nat) : (s.commitGang gid).Settled gid := by
  simp only [State.Settled, Core.Settled, State.commitGang, List.forall_mem_map]
  intro e _ c _
  split
  · exact fun _ => rfl
  next h => exact fun mine => by simpa [mine] using h

theorem State.Settled.shadowTasks (hs : s.Settled gid) (i : Nat) : (s.shadowTasks i).Settled gid := by
  unfold State.shadowTasks
  split
  · exact hs
  · refine State.Settled.congr (State.modGang_memory ..) ?_
    exact State.Settled.foldl ((hs.dropPlates _).dropPlates _) _ fun s w hs => hs.modCore rfl

theorem State.Settled.settleCommit (hs : s.Settled gid) (i : Nat) : (s.settleCommit i).Settled gid := by
  unfold State.settleCommit
  split
  · exact hs
  · exact State.Settled.foldl hs _ fun s w hs => hs.modCore rfl

theorem State.settleCommit_gangs (s : State) (i : Nat) : (s.settleCommit i).gangs = s.gangs := by
  unfold State.settleCommit
  split
  · rfl
  · exact foldl_keeps (p := State.gangs) (by intros; exact State.modCore_gangs ..) _ s

/-- What the memory tasks of a gang, and its count, fall back to (R449). -/
def Gang.shadowed (g : Gang) : Gang :=
  { g with shadowTasks := g.tasks, shadowCount := g.count, shadowRival := g.rival, shadowFinal := g.final }

/-- A gang past its barrier (R33, R38, R167). -/
def Gang.passed (held : Bool) (g : Gang) : Gang :=
  { g with
    sstep := g.sstep + 1
    epoch := g.epoch + 1
    badLines := []
    toks := []
    taskAt := []
    retries := 0
    nonroll := false
    rival := if held then .held else g.rival
    rels := if held then [] else g.everyone }

theorem State.gang_shadowTasks {g : Gang} (hg : s.gang gid = some g) : (s.shadowTasks gid).gang gid = some g.shadowed := by
  have plates (s : State) (ts : List (Nat × Nat × Nat)) : (s.dropPlates ts).gangs = s.gangs :=
    foldl_keeps (p := State.gangs) (by intros; exact State.modCore_gangs ..) ts s
  unfold State.shadowTasks
  rw [hg]
  simp only [State.gang_modGang_same]
  rw [State.gang_congr (foldl_keeps (p := State.gangs) (by intros; exact State.modCore_gangs ..) _ _), State.gang_congr (plates ..),
    State.gang_congr (plates ..), hg]
  rfl

/-- A completed barrier: its gang, and the entries that drain. -/
theorem State.completeBarrier_leaves {g : Gang} (there : ((s.commitGang gid).releasePosts gid g).gang gid = some g) :
    (∃ injects, (s.completeBarrier gid g).gang gid = some { (g.passed (s.closes g)).shadowed with injects := injects }) ∧
      (s.completeBarrier gid g).Settled gid := by
  have settled := (s.settled_commitGang gid).releasePosts gid g
  have next : (((s.commitGang gid).releasePosts gid g).modGang gid (Gang.passed (s.closes g))).gang gid =
      some (g.passed (s.closes g)) := (State.gang_modGang_same ..).trans (congrArg _ there)
  have kept : (((s.commitGang gid).releasePosts gid g).modGang gid (Gang.passed (s.closes g))).Settled gid :=
    settled.congr (State.modGang_memory ..)
  have steps : s.completeBarrier gid g =
      (((((s.commitGang gid).releasePosts gid g).modGang gid (Gang.passed (s.closes g))).shadowTasks gid).injectMemory gid).settleCommit
        gid := rfl
  rw [steps]
  generalize ((s.commitGang gid).releasePosts gid g).modGang gid (Gang.passed (s.closes g)) = t at *
  obtain ⟨-, memory, left⟩ := State.injectMemory_leaves (t.shadowTasks gid) gid
  exact ⟨⟨_, (State.gang_congr (State.settleCommit_gangs ..) gid).trans (left _ (State.gang_shadowTasks next))⟩,
    State.Settled.settleCommit ((kept.shadowTasks gid).congr memory) gid⟩

end Completion

section Arriving
variable {s : State} {g : Gang}

theorem State.holdsRow_iff (x y : Nat) : s.holdsRow g x y = true ↔ (s.core (g.coreAt x y)).arrived = true ∧
    g.rels.contains (g.coreAt x y, 0) = false ∧ (x + 1 = g.w ∨ (x + 1, y, false) ∈ g.toks) := by
  simp [State.holdsRow, and_assoc]

theorem State.holdsColumn_iff (y : Nat) : s.holdsColumn g y = true ↔
    s.holdsRow g 0 y = true ∧ (y + 1 = g.h ∨ (0, y + 1, true) ∈ g.toks) := by
  simp [State.holdsColumn]

theorem Core.canArrive_of {k : Core} (sets : ∀ t ∈ k.ts.toList, t.arrivedOrRetired = true ∧ t.sends = [])
    (windows : ∀ w ∈ k.shared.windows, w.state = .due → w.arm ≠ k.sstep) : k.canArrive = true := by
  simp only [Core.canArrive, Bool.and_eq_true, List.all_eq_true]
  refine ⟨fun t ht => by simp [sets t ht], fun w hw => ?_⟩
  by_cases due : w.state = .due
  · simp [windows w hw due]
  · simp [due]

end Arriving

/-- Settles O38: each condition of an event is evaluated in turn; of a completed barrier, its gang is followed from step to step, and
of its entries that every one drains. -/
theorem barrierEvents : Obligations.BarrierEvents := by
  unfold Obligations.BarrierEvents
  refine ⟨fun s gid g hg barriers => ⟨?_, ?_, ?_, ?_, ?_, ?_, ?_⟩, fun s gid g there => ?_⟩
  · intro x y mine reached k arrived sets windows
    have can : (s.core (.compute x y)).canArrive = true := Core.canArrive_of sets windows
    have arrived : (s.core (.compute x y)).arrived = false := arrived
    show execCoreArrival x y s = _
    unfold execCoreArrival
    simp only [mine, hg, Option.bind_some, Option.map_some, barriers, reached, arrived, can]
    rfl
  · intro x y hx hw hh arrived reached row fresh
    have holds := (State.holdsRow_iff (s := s) x y).2 ⟨arrived, reached, row⟩
    show execBarrierToken gid x y false s = _
    unfold execBarrierToken
    simp [hg, barriers, hx, hw, hh, holds, fresh]
  · intro y hy hh arrived reached row column fresh
    have holds := (State.holdsColumn_iff y).2 ⟨(State.holdsRow_iff (s := s) 0 y).2 ⟨arrived, reached, row⟩, column⟩
    show execBarrierToken gid 0 y true s = _
    unfold execBarrierToken
    simp [hg, barriers, hy, hh, holds, fresh]
  · intro k n slot w mine atBar sends reached fresh
    have fresh : g.taskAt.contains (k, n, w.t.val) = false := by simpa using fresh
    show execMemoryTaskArrival k n slot s = _
    unfold execMemoryTaskArrival
    simp only [w] at mine atBar sends reached fresh
    simp only [mine, hg, Option.bind_some, Option.map_some, barriers, atBar, sends, reached, fresh]
    rfl
  · intro rels retired arrived row column tasks late
    have reached : g.rels.contains (g.coreAt 0 0, 0) = false := by simp [rels]
    have holds := (State.holdsColumn_iff 0).2 ⟨(State.holdsRow_iff (s := s) 0 0).2 ⟨arrived, reached, row⟩, column⟩
    have all : g.tasks.all g.taskAt.contains = true := by simpa using tasks
    show execBarrierComplete gid s = _
    unfold execBarrierComplete
    simp only [hg, barriers, rels, retired, holds, all, late]
    rfl
  · intro x y column reached
    have waits : s.holdsRow g x y = false := by
      rw [← Bool.not_eq_true, State.holdsRow_iff, reached]
      simp
    have ok : (if column then x == 0 && decide (0 < y) && decide (y < g.h) && s.holdsColumn g y
        else decide (0 < x) && decide (x < g.w) && decide (y < g.h) && s.holdsRow g x y) = false := by
      cases column with
      | false => simp [waits]
      | true =>
        by_cases hx : x = 0
        · subst hx
          simp [State.holdsColumn, waits]
        · simp [hx]
    show execBarrierToken gid x y column s = _
    unfold execBarrierToken
    simp only [hg, ok, Bool.and_false, Bool.false_and]
    rfl
  · refine ⟨?_, fun waits => ?_⟩
    · show execBarrierToken gid 0 0 true s = _
      unfold execBarrierToken
      simp [hg]
    · have holds : s.holdsColumn g 0 = false := by simp [State.holdsColumn, State.holdsRow, waits]
      show execBarrierComplete gid s = _
      unfold execBarrierComplete
      simp [hg, holds]
  · obtain ⟨⟨injects, left⟩, settled⟩ := State.completeBarrier_leaves there
    refine ⟨_, left, rfl, rfl, rfl, rfl, rfl, fun closes => ?_, fun closes => ?_, settled⟩
    · simp [Gang.shadowed, Gang.passed, closes]
    · simp [Gang.shadowed, Gang.passed, closes]

end Sys2Proof.Machine
end

section
/-! When the ladder, the watchdog, the allowance, the end of a round and the bound of a WAIT act. -/
namespace Sys2Proof.Machine

section Acting
variable {s : State} {gid : Nat} {g : Gang}

theorem Gang.rollable_iff (g : Gang) : g.rollable = true ↔ g.rival = .ordinary ∨ g.rival = .running ∨ g.rival = .closing := by
  simp [Gang.rollable, or_assoc]

/-- When the ladder answers (R448, R449; log entry 28). -/
theorem Gang.answered_iff (g : Gang) : (g.err.isSome && (g.lost || (g.rels.isEmpty && g.rollable))) = true ↔ g.err.isSome = true ∧
    (g.lost = true ∨ g.rels = [] ∧ (g.rival = .ordinary ∨ g.rival = .running ∨ g.rival = .closing)) := by
  simp [Gang.rollable_iff]

theorem superstepRollback_acts (hg : s.gang gid = some g) :
    (let live : Prop := g.rival = .ordinary ∨ g.rival = .running ∨ g.rival = .closing
    let due : Prop := g.rels = [] ∧ live
    (g.err.isSome = true → g.noplate = false →
      (g.lost = false → due → g.nonroll = false → g.retries < 2 →
        exec (.superstepRollback gid) s = .next (s.rollBack gid g)) ∧
      (g.lost = true ∨ due ∧ (g.nonroll = true ∨ 2 ≤ g.retries) →
        exec (.superstepRollback gid) s = .next ((s.report (g.report 3)).teardown g.ctx g.q g.fdom))) ∧
    (g.err.isSome = true → g.noplate = true → g.lost = true ∨ due → exec (.superstepRollback gid) s =
      .next (((s.makeNonroll gid).report (g.report 3)).teardown g.ctx g.q g.fdom)) ∧
    (g.err = none ∨ g.lost = false ∧ ¬ due → exec (.superstepRollback gid) s = .next s)) := by
  intro live due
  have run : exec (.superstepRollback gid) s = if (g.err.isSome && (g.lost || (g.rels.isEmpty && g.rollable))) = true then
      if (g.noplate || g.lost || g.nonroll || decide (2 ≤ g.retries)) = true then
        .next (((if g.noplate then s.makeNonroll gid else s).report (g.report 3)).teardown g.ctx g.q g.fdom)
      else .next ((if g.noplate then s.makeNonroll gid else s).rollBack gid g)
    else .next s := by
    show execSuperstepRollback gid s = _
    unfold execSuperstepRollback
    rw [hg]
  rw [run]
  refine ⟨fun err plated => ⟨fun kept ready roll tries => ?_, fun torn => ?_⟩, fun err unplated torn => ?_, fun none => ?_⟩
  · rw [if_pos ((Gang.answered_iff g).2 ⟨err, .inr ready⟩), if_neg (by simp [plated, kept, roll, tries]), plated]
    rfl
  · rw [if_pos ((Gang.answered_iff g).2 ⟨err, torn.imp_right And.left⟩), if_pos ?_, plated]
    · rfl
    · rcases torn with lost | ⟨-, nonroll | tries⟩
      · simp [lost]
      · simp [nonroll]
      · simp [tries]
  · rw [if_pos ((Gang.answered_iff g).2 ⟨err, torn⟩), if_pos (by simp [unplated]), unplated]
    rfl
  · rw [if_neg]
    rw [Gang.answered_iff]
    rintro ⟨err, lost | ready⟩
    · rcases none with none | ⟨kept, -⟩
      · simp [none] at err
      · simp [kept] at lost
    · rcases none with none | ⟨-, waits⟩
      · simp [none] at err
      · exact waits ready

theorem watchdog_runs (hg : s.gang gid = some g) (running : g.phase = .running) : exec (.watchdog gid) s =
    if s.overLimit g = true then .next (s.killRecord g.ctx g.q g.idx 2 0x0F 0xFFFFFFFF (s.watchStep g) false) else .next s := by
  show execWatchdog gid s = _
  unfold execWatchdog State.endGang
  simp only [hg, running, true_and]

theorem watchdog_acts (hg : s.gang gid = some g) (running : g.phase = .running) (single : g.tour = none) :
    (g.limit ≤ g.cycles → exec (.watchdog gid) s =
      .next (s.killRecord g.ctx g.q g.idx 2 0x0F 0xFFFFFFFF (s.core g.corner).sstep false)) ∧
    (g.cycles < g.limit → exec (.watchdog gid) s = .next s) := by
  have limit : s.overLimit g = decide (g.limit ≤ g.cycles) := by simp [State.overLimit, single]
  have step : s.watchStep g = (s.core g.corner).sstep := by simp [State.watchStep, single]
  rw [watchdog_runs hg running, limit, step]
  exact ⟨fun spent => if_pos (by simpa using spent), fun left => if_neg (by simpa using left)⟩

theorem watchdog_acts_of_tour (hg : s.gang gid = some g) {id : Nat} {t : Tour} (running : g.phase = .running) (tour : g.tour = some id)
    (found : s.tours.find id = some t) :
    (∀ r, t.limit ≤ t.cycles → (t.rivals.filterMap s.gang).head? = some r → exec (.watchdog gid) s =
      .next (s.killRecord g.ctx g.q g.idx 2 0x0F 0xFFFFFFFF (s.core r.corner).sstep false)) ∧
    (t.cycles < t.limit → exec (.watchdog gid) s = .next s) := by
  have limit : s.overLimit g = decide (t.limit ≤ t.cycles) := by simp [State.overLimit, tour, found]
  rw [watchdog_runs hg running, limit]
  refine ⟨fun r spent lowest => ?_, fun left => if_neg (by simpa using left)⟩
  have step : s.watchStep g = (s.core r.corner).sstep := by simp [State.watchStep, tour, found, lowest]
  rw [step]
  exact if_pos (by simpa using spent)

theorem allowanceExhausted_acts (hg : s.gang gid = some g) {id : Nat} {t : Tour} (tour : g.tour = some id)
    (found : s.tours.find id = some t) (running : g.rival = .running) (solo : t.solo = false) :
    (t.allow0 * 1024 * 2 ^ t.k ≤ g.count →
      exec (.allowanceExhausted gid) s = .next (s.modGang gid fun g => { g with rival := .closing })) ∧
    (g.count < t.allow0 * 1024 * 2 ^ t.k → exec (.allowanceExhausted gid) s = .next s) := by
  have closes : s.closes g = decide (t.allow0 * 1024 * 2 ^ t.k ≤ g.count) := by
    unfold State.closes
    simp only [running, tour, Option.bind_some, found, solo]
    rfl
  have run : exec (.allowanceExhausted gid) s = if s.closes g = true then
      .next (s.modGang gid fun g => { g with rival := .closing }) else .next s := by
    show execAllowanceExhausted gid s = _
    unfold execAllowanceExhausted
    simp only [hg, running, true_and]
  rw [run, closes]
  exact ⟨fun spent => if_pos (by simpa using spent), fun left => if_neg (by simpa using left)⟩

theorem roundEnd_acts {id : Nat} {t : Tour} (found : s.tours.find id = some t) (live : t.live = true) (solo : t.solo = false)
    (left : t.k < t.m) (held : ∀ r ∈ t.rivals.filterMap s.gang, (r.err = none ∨ r.lost = false) ∧ r.rels = [] ∧
      (r.rival = .held ∨ r.rival = .heldRetired ∨ r.rival = .faulted)) :
    exec (.roundEnd id) s = .next (s.endRound id t) := by
  have still : (t.rivals.filterMap s.gang).all
      (fun g => !g.erred && g.rels.isEmpty && (g.contends || g.rival == .faulted)) = true := by
    rw [List.all_eq_true]
    intro r hr
    obtain ⟨err, rels, rival⟩ := held r hr
    have clean : r.erred = false := by
      rcases err with none | kept
      · simp [Gang.erred, none]
      · simp [Gang.erred, kept]
    rcases rival with held | retired | faulted
    · simp [clean, rels, Gang.contends, held]
    · simp [clean, rels, Gang.contends, retired]
    · simp [clean, rels, faulted]
  show execRoundEnd id s = _
  unfold execRoundEnd
  simp only [found, still, live, solo, left]
  rfl

theorem waitBoundExpiry_acts (s : State) (c : CoreId) (n : Nat) (f : WaitFor) : (let w : Who := { core := c, t := Fin.ofNat 16 n }
    (s.ts w).run = .atWait f →
    (f.hit = false → past s.now f.deadline = true → exec (.waitBoundExpiry c n) s =
      ((({ s with who := w }.modTs w fun t => t.finishWait f 1).rouseTask w).done)) ∧
    (f.hit = true ∨ past s.now f.deadline = false → exec (.waitBoundExpiry c n) s = .next s)) := by
  intro w atWait
  have run : exec (.waitBoundExpiry c n) s = if (!f.hit && past s.now f.deadline) = true then
      (({ s with who := w }.modTs w fun t => t.finishWait f 1).rouseTask w).done else .next s := by
    show execWaitBoundExpiry c n s = _
    unfold execWaitBoundExpiry
    simp only [w] at atWait
    simp only [atWait]
    rfl
  rw [run]
  refine ⟨fun fresh late => if_pos (by simp [fresh, late]), fun waits => if_neg ?_⟩
  rcases waits with hit | early
  · simp [hit]
  · simp [early]

end Acting

end Sys2Proof.Machine
end

section
/-! What a rollback leaves of a store that is plated. -/
namespace Sys2Proof.Machine

section Blocks
variable {β : Type} {bytes : β → List Byte}

/-- Blocks of 256 bytes are written back, one after the other. -/
def Mem.writeBlocks (bytes : β → List Byte) (m : Mem) (l : Table β) : Mem :=
  l.foldl (fun m e => m.writeN (e.1 % 4096 * 256) (bytes e.2)) m

variable (whole : ∀ b, (bytes b).length = 256)
include whole

theorem Mem.read_writeBlocks_other {l : Table β} {a : Nat} (h : ∀ e ∈ l, a < e.1 % 4096 * 256 ∨ e.1 % 4096 * 256 + 256 ≤ a)
    (m : Mem) : (m.writeBlocks bytes l).read a = m.read a := by
  induction l generalizing m with
  | nil => rfl
  | cons e r ih =>
    rw [List.forall_mem_cons] at h
    obtain ⟨he, hr⟩ := h
    refine (ih hr _).trans (Mem.read_writeN_other _ _ _ _ ?_)
    rwa [whole]

theorem Mem.read_writeBlocks {l : Table β} (distinct : (l.map fun e => e.1 % 4096).Nodup) {m : Mem} (wf : m.wf = true)
    {e : Nat × β} (he : e ∈ l) {i : Nat} (hi : i < 256) :
    some ((m.writeBlocks bytes l).read (e.1 % 4096 * 256 + i)) = (bytes e.2)[i]? := by
  induction l generalizing m with
  | nil => cases he
  | cons d r ih =>
    rw [List.map_cons, List.nodup_cons] at distinct
    obtain ⟨fresh, distinct⟩ := distinct
    rcases List.mem_cons.1 he with rfl | he
    · have apart : ∀ d ∈ r, e.1 % 4096 * 256 + i < d.1 % 4096 * 256 ∨ d.1 % 4096 * 256 + 256 ≤ e.1 % 4096 * 256 + i := by
        intro d hd
        have ne : d.1 % 4096 ≠ e.1 % 4096 := fun h => fresh (h ▸ List.mem_map_of_mem (f := fun e => e.1 % 4096) hd)
        omega
      exact (congrArg some (Mem.read_writeBlocks_other whole apart _)).trans
        (Mem.read_writeN_same wf _ _ (by rwa [whole]))
    · exact ih distinct (m.wf_writeN _ _ wf) he

end Blocks

/-- A plated block is written back (R449). -/
def Core.writeBack (k : Core) (e : Nat × BitVec 2048) : Core :=
  let a := e.1 % 4096 * 256
  { k with
    store := k.store.writeN a (bytesOf e.2)
    poison := clearPoison k.poison a 256
    twin := k.twin.map fun (t : Twin) => { t with poison := clearPoison t.poison a 256 } }

theorem Core.writeBack_store (k : Core) (e : Nat × BitVec 2048) :
    (k.writeBack e).store = k.store.writeN (e.1 % 4096 * 256) (bytesOf e.2) := by
  simp only [Core.writeBack]

theorem Core.unplate_eq (k : Core) (mine : Nat → Bool) : k.unplate mine =
    (let r := (k.plate.filter fun e => mine (e.1 / 4096)).foldl Core.writeBack k
    { r with plate := r.plate.filter fun e => !mine (e.1 / 4096) }) := rfl

theorem Core.foldl_writeBack_store (l : Table (BitVec 2048)) (k : Core) :
    (l.foldl Core.writeBack k).store = k.store.writeBlocks bytesOf l := by
  induction l generalizing k with
  | nil => rfl
  | cons e r ih => rw [List.foldl_cons, ih, Core.writeBack_store, Mem.writeBlocks, Mem.writeBlocks, List.foldl_cons]

theorem Core.rollBack_store (k : Core) : k.rollBack.store = k.store.writeBlocks bytesOf k.plate := by
  have all : k.plate.filter (fun _ => true) = k.plate := List.filter_true ..
  have store : k.rollBack.store = (k.unplate fun _ => true).store := rfl
  rw [store, Core.unplate_eq, all]
  exact Core.foldl_writeBack_store k.plate k

theorem Core.rollBack_restores (k : Core) (wf : k.store.wf = true) (distinct : (k.plate.map fun e => e.1 % 4096).Nodup) :
    (∀ e ∈ k.plate, ∀ i, i < 256 → some (k.rollBack.store.read (e.1 % 4096 * 256 + i)) = (bytesOf e.2)[i]?) ∧
    ∀ a, (∀ e ∈ k.plate, a < e.1 % 4096 * 256 ∨ e.1 % 4096 * 256 + 256 ≤ a) →
      k.rollBack.store.read a = k.store.read a := by
  have whole (b : BitVec 2048) : (bytesOf b).length = 256 := length_leBytes _ _
  rw [Core.rollBack_store]
  exact ⟨fun e he i hi => Mem.read_writeBlocks whole distinct wf he hi, fun a h => Mem.read_writeBlocks_other whole h _⟩

end Sys2Proof.Machine
end

section
/-! What a rollback leaves of a gang, its cores and its tasks. -/
namespace Sys2Proof.Machine

section Blocks

/-- Blocks written back change a store, its marks of poison and what of these the shadow core of a pair has. -/
theorem Core.unplate_leaves (k : Core) (mine : Nat → Bool) : ∃ store poison plate twin,
    k.unplate mine = { k with store := store, poison := poison, plate := plate, twin := twin } := by
  have kept : ∃ store poison twin, (k.plate.filter fun e => mine (e.1 / 4096)).foldl Core.writeBack k =
      { k with store := store, poison := poison, twin := twin } := by
    refine List.foldlRecOn (motive := fun u : Core => ∃ store poison twin, u = { k with store := store, poison := poison, twin := twin })
      _ _ ⟨k.store, k.poison, k.twin, rfl⟩ fun u hu e _ => ?_
    obtain ⟨store, poison, twin, e⟩ := hu
    rw [e]
    exact ⟨_, _, _, rfl⟩
  obtain ⟨store, poison, twin, e⟩ := kept
  rw [Core.unplate_eq, e]
  exact ⟨_, _, _, _, rfl⟩

theorem Core.unplate_commit (k : Core) (mine : Nat → Bool) : (k.unplate mine).commit = k.commit := by
  obtain ⟨_, _, _, _, e⟩ := k.unplate_leaves mine
  rw [e]

theorem Core.unplate_shadowTs (k : Core) (mine : Nat → Bool) : (k.unplate mine).shadowTs = k.shadowTs := by
  obtain ⟨_, _, _, _, e⟩ := k.unplate_leaves mine
  rw [e]

theorem Core.rollBack_commit (k : Core) : k.rollBack.commit = k.commit :=
  k.unplate_commit fun _ => true

/-- A core that returns to its barrier (R194, R449). -/
def Core.Returned (step : Word) (shadows : Vector ThreadSet 16) (k : Core) : Prop :=
  (k.sstep = step ∧ k.shadowTs = shadows) ∧ k.arrived = false ∧ k.ts = shadows.map ThreadSet.reenter

theorem Core.returned_rollBack (k : Core) : k.rollBack.Returned k.sstep k.shadowTs := by
  obtain ⟨store, poison, plate, twin, e⟩ := k.unplate_leaves fun _ => true
  unfold Core.rollBack
  rw [e]
  exact ⟨⟨rfl, rfl⟩, rfl, rfl⟩

theorem State.returned_rect {s : State} {g : Gang} {c : CoreId} (hc : c ∈ g.rect) :
    ((g.rect.foldl (fun s c => s.modCore c Core.rollBack) s).core c).Returned (s.core c).sstep (s.core c).shadowTs := by
  refine State.core_foldl_modCore (f := fun _ => Core.rollBack)
    (q := fun k => k.sstep = (s.core c).sstep ∧ k.shadowTs = (s.core c).shadowTs) (fun k h => h.1) (fun _ k hk => ?_) hc ⟨rfl, rfl⟩
  rw [← hk.1, ← hk.2]
  exact k.returned_rollBack

end Blocks

section Shadows
variable {s t u : State}

/-- The shadow contexts of every core are the same. -/
def State.SameShadows (s t : State) : Prop := ∀ c, (t.core c).shadowTs = (s.core c).shadowTs

theorem State.SameShadows.modCore (h : s.SameShadows t) (c : CoreId) {f : Core → Core} (hf : ∀ k, (f k).shadowTs = k.shadowTs) :
    s.SameShadows (t.modCore c f) := by
  intro d
  rcases t.core_modCore d c f with e | e
  · rw [e, h d]
  · rw [e, hf, h d]

theorem Table.find_map {α : Type} (t : Table α) (f : α → α) (n : Nat) :
    Table.find (t.map fun e => (e.1, f e.2)) n = (t.find n).map f := by
  induction t with
  | nil => rfl
  | cons e r ih => by_cases h : e.1 = n <;> simp [Table.find, h, ih]

theorem State.sameShadows_dropCommits (s : State) (gid : Nat) : s.SameShadows (s.dropCommits gid) := by
  intro c
  cases c with
  | memory a b =>
    simp only [State.core, State.dropCommits, Table.find_map (f := fun k : Core =>
      { k with commit := k.commit.filter fun x => x.gang != gid || x.draining })]
    cases s.memory.find (a * 32 + b) <;> rfl
  | compute x y => rfl
  | control n => rfl

end Shadows

section Tasks

/-- A memory task that returns to its barrier, and goes on after its BAR where it stood at one (R39, R194, R449). -/
def ThreadSet.Resumed (shadow t : ThreadSet) : Prop :=
  t.enter = true ∧ t.s = shadow.s ∧ t.p = shadow.p ∧
    (shadow.run = .atBar → t.run = .ready ∧ t.pc = BitVec.ofNat 32 (nextPos shadow.pc.toNat) ∧ t.sstep = shadow.sstep + 1) ∧
    (shadow.run ≠ .atBar → t.run = shadow.run ∧ t.pc = shadow.pc ∧ t.sstep = shadow.sstep)

/-- A set in no loop passes to the next position. -/
theorem State.advance_of_loops_nil {s : State} {w : Who} (h : (s.ts w).loops = []) : ∃ loops, s.advance w =
    s.setTs w { (s.ts w).goTo (nextPos (s.ts w).pc.toNat) with run := .ready, loops := loops } := by
  unfold State.advance
  simp only [h, loopEnd]
  split
  · exact ⟨_, rfl⟩
  · exact ⟨_, rfl⟩

/-- A task slot of a core changes: its registers, and what the core records of its tasks. -/
def State.withTask (s : State) (w : Who) (hold : Bool) (tasks : Vector Task 16) (t : ThreadSet) : State :=
  s.setCore w.core { s.core w.core with pairHold := hold, tasks := tasks, ts := (s.core w.core).ts.set w.t t }

@[simp] theorem State.ts_withTask (s : State) (w : Who) (hold : Bool) (tasks : Vector Task 16) (t : ThreadSet) :
    (s.withTask w hold tasks t).ts w = t := by
  simp [State.withTask, State.ts]

@[simp] theorem State.setTs_withTask (s : State) (w : Who) (hold : Bool) (tasks : Vector Task 16) (t u : ThreadSet) :
    (s.withTask w hold tasks t).setTs w u = s.withTask w hold tasks u := by
  simp [State.withTask, State.setTs, State.modCore]

/-- What a rolled-back task takes from its shadow context. -/
def Core.refit (k : Core) (i : Fin 16) : ThreadSet :=
  { k.shadowTs[i].reenter with commitTl := max k.shadowTs[i].commitTl k.ts[i].commitTl }

/-- A rollback of a task changes its slot alone. -/
theorem State.rollTask_eq (s : State) (gid : Nat) (w : Who)
    (straight : (s.core w.core).shadowTs[w.t].run = .atBar → (s.core w.core).shadowTs[w.t].loops = []) :
    ∃ hold tasks t, s.rollTask gid w = s.withTask w hold tasks t ∧ ThreadSet.Resumed (s.core w.core).shadowTs[w.t] t := by
  obtain ⟨hold, tasks, e⟩ : ∃ hold tasks, s.rollTask gid w =
      (let s₁ := s.withTask w hold tasks ((s.core w.core).refit w.t)
      if (s₁.ts w).run = .atBar then (s₁.modTs w fun t => { t with sstep := t.sstep + 1 }).advance w else s₁) := ⟨_, _, rfl⟩
  rw [e]
  simp only [State.ts_withTask, State.modTs_eq, State.setTs_withTask]
  split
  next atBar =>
    have loops : ((s.withTask w hold tasks { (s.core w.core).refit w.t with
        sstep := ((s.core w.core).refit w.t).sstep + 1 }).ts w).loops = [] := by
      rw [State.ts_withTask]
      exact straight atBar
    obtain ⟨ls, e⟩ := State.advance_of_loops_nil loops
    rw [State.ts_withTask, State.setTs_withTask] at e
    exact ⟨hold, tasks, _, e, rfl, rfl, rfl, fun _ => ⟨rfl, rfl, rfl⟩, fun other => absurd atBar other⟩
  next other => exact ⟨hold, tasks, _, rfl, rfl, rfl, rfl, fun atBar => absurd atBar other, fun _ => ⟨rfl, rfl, rfl⟩⟩

end Tasks

section Outside

/-- From s to t what a gang has outside its cores has not changed: packets, queue records, reports and counts of the device. -/
def State.Outside (s t : State) : Prop :=
  t.packets = s.packets ∧ t.qposts = s.qposts ∧ t.reports = s.reports ∧ t.devCounters = s.devCounters

variable {s t u : State}

theorem State.Outside.refl (s : State) : s.Outside s := ⟨rfl, rfl, rfl, rfl⟩

theorem State.Outside.trans (h : s.Outside t) (k : t.Outside u) : s.Outside u := by
  obtain ⟨packets, qposts, reports, counters⟩ := h
  obtain ⟨packets', qposts', reports', counters'⟩ := k
  exact ⟨packets'.trans packets, qposts'.trans qposts, reports'.trans reports, counters'.trans counters⟩

theorem State.outside_setCore (s : State) (c : CoreId) (k : Core) : s.Outside (s.setCore c k) := by simp [State.Outside]

theorem State.outside_modCore (s : State) (c : CoreId) (f : Core → Core) : s.Outside (s.modCore c f) := s.outside_setCore ..

theorem State.outside_modGang (s : State) (g : Nat) (f : Gang → Gang) : s.Outside (s.modGang g f) := by simp [State.Outside]

theorem State.outside_foldl {α : Type} {f : State → α → State} {l : List α} (hf : ∀ s, ∀ a ∈ l, State.Outside s (f s a)) (s : State) :
    s.Outside (l.foldl f s) :=
  List.foldlRecOn (motive := s.Outside) l f (.refl s) fun t ht a ha => ht.trans (hf t a ha)

theorem State.outside_injectMemory (s : State) (gid : Nat) : s.Outside (s.injectMemory gid) := by
  obtain ⟨contexts, lines, lost, records, e⟩ := s.poisonAlone_injectMemory gid
  rw [e]
  exact s.outside_modGang ..

end Outside

section Clearing
variable (s : State) (gid : Nat) (g : Gang)

/-- What a rollback reports and takes back (R449): the packets, queue records and posts of the superstep, and what was not committed. -/
def State.takeBack : State :=
  let s := s.report (g.report 2)
  let s := { s with devCounters := { s.devCounters with l2rollback := sat64 s.devCounters.l2rollback } }
  let s := s.dropPackets gid
  let s := { s with qposts := s.qposts.filter fun p => p.gang != gid }
  (s.discardPosts g.ctx gid).dropCommits gid

/-- A report changes reports, interrupts and what has been answered. -/
theorem State.report_eq (r : Report) : ∃ answers irqs,
    s.report r = { s with reports := s.reports ++ [{ r with time := s.picos / 1000 }], answers := answers, irqs := irqs } := by
  unfold State.report
  extract_lets r' s₁
  split
  · split <;> exact ⟨_, _, rfl⟩
  · exact ⟨_, _, rfl⟩

theorem State.takeBack_leaves : (let t := s.takeBack gid g
    t.gang gid = s.gang gid ∧ (∀ x y, t.core (.compute x y) = s.core (.compute x y)) ∧ s.SameShadows t ∧ t.Settled gid ∧
      (∀ p ∈ t.packets, p.sender.gang ≠ gid) ∧ (∀ p ∈ t.qposts, p.gang ≠ gid) ∧
      t.reports = s.reports ++ [{ g.report 2 with time := s.picos / 1000 }] ∧
      t.devCounters.l2rollback = sat64 s.devCounters.l2rollback) := by
  unfold State.takeBack
  obtain ⟨answers, irqs, e⟩ := s.report_eq (g.report 2)
  rw [e]
  extract_lets s₁ n s₂ s₃ s₄ t
  have ended : s₄.EngineLeaves (s₄.discardPosts g.ctx gid) := s₄.engineLeaves_discardPosts ..
  have same (c : CoreId) : s₄.core c = s.core c := State.core_congr rfl rfl rfl c
  refine ⟨?_, fun x y => ?_, fun c => ?_, State.settled_dropCommits _ _, ?_, ?_, ?_, ?_⟩
  · exact (ended.gang gid).trans rfl
  · exact (ended.core (.compute x y)).trans (same _)
  · exact (State.sameShadows_dropCommits _ gid c).trans (by rw [ended.core c, same c])
  · intro p hp
    have hp : p ∈ s₄.packets := ended.packets ▸ hp
    simpa using List.of_mem_filter hp
  · intro p hp
    have hp : p ∈ s₄.qposts := ended.qposts ▸ hp
    simpa using List.of_mem_filter hp
  · exact ended.reports.trans rfl
  · exact congrArg (·.l2rollback) ended.devCounters

theorem State.repairLines_eq (ctx : Nat) : ∃ lines, s.repairLines ctx = { s with hbmPoison := lines } := by
  unfold State.repairLines
  split <;> exact ⟨_, rfl⟩

end Clearing

section Returning
variable {s t : State} {gid : Nat} {g : Gang}

/-- The memory tasks that a gang had at its barrier. -/
def Gang.shadowWhos (g : Gang) : List Who :=
  g.shadowTasks.map fun t => { core := .memory t.1 t.2.1, t := Fin.ofNat 16 t.2.2 }

/-- The record of a gang whose superstep is repeated (R449). -/
def Gang.repeated (g : Gang) : Gang :=
  { g with
    err := none
    lost := false
    retries := g.retries + 1
    toks := []
    taskAt := []
    lateSends := []
    tasks := g.shadowTasks
    count := g.shadowCount
    rival := g.shadowRival
    final := g.shadowFinal }

/-- A gang whose release begins its superstep again (R449). -/
def Gang.restarted (g : Gang) : Gang := { g with rels := g.everyone, restart := true }

/-- The cores of a gang return to the barrier, and the blocks of its tasks' stores. -/
def State.returnCores (s : State) (g : Gang) : State :=
  g.shadowWhos.foldl (fun s w => s.modCore w.core fun k => k.unplate fun i => g.shadowWhos.any fun v => v.core == w.core && v.t.val == i)
    (g.rect.foldl (fun s c => s.modCore c Core.rollBack) s)

/-- The tasks of a gang return to the barrier. -/
def State.returnTasks (s : State) (gid : Nat) (g : Gang) : State :=
  g.shadowWhos.foldl (fun s w => if s.goesOn gid then s.rollTask gid w else s) s

theorem State.rollBack_eq (s : State) (gid : Nat) (g : Gang) : s.rollBack gid g =
    (((((((s.takeBack gid g).returnCores g).modGang gid Gang.repeated).returnTasks gid g).modGang gid Gang.restarted).repairLines g.ctx).injectMemory gid).settleCommit gid := rfl

/-- From s to t nothing but memory cores has changed, and no entry that drains has been lost or added. -/
def State.MemoryAlone (s t : State) : Prop :=
  t.gangs = s.gangs ∧ t.compute = s.compute ∧ s.Outside t ∧ ∀ gid, s.Settled gid → t.Settled gid

theorem State.MemoryAlone.refl (s : State) : s.MemoryAlone s := ⟨rfl, rfl, .refl s, fun _ h => h⟩

theorem State.MemoryAlone.trans {u : State} (h : s.MemoryAlone t) (k : t.MemoryAlone u) : s.MemoryAlone u := by
  obtain ⟨gangs, compute, outside, settled⟩ := h
  obtain ⟨gangs', compute', outside', settled'⟩ := k
  exact ⟨gangs'.trans gangs, compute'.trans compute, outside.trans outside', fun gid h => settled' gid (settled gid h)⟩

theorem State.memoryAlone_foldl {α : Type} {f : State → α → State} {l : List α} (hf : ∀ s, ∀ a ∈ l, State.MemoryAlone s (f s a))
    (s : State) : s.MemoryAlone (l.foldl f s) :=
  List.foldlRecOn (motive := s.MemoryAlone) l f (.refl s) fun t ht a ha => ht.trans (hf t a ha)

theorem State.memoryAlone_setCore (s : State) {c : CoreId} (hc : ∃ a b, c = .memory a b) {k : Core}
    (hk : k.commit = (s.core c).commit) : s.MemoryAlone (s.setCore c k) := by
  obtain ⟨a, b, rfl⟩ := hc
  exact ⟨rfl, rfl, s.outside_setCore .., fun gid h => h.setCore hk⟩

theorem Gang.memory_of_mem_shadowWhos {w : Who} (hw : w ∈ g.shadowWhos) : ∃ a b, w.core = .memory a b := by
  obtain ⟨t, -, rfl⟩ := List.mem_map.1 hw
  exact ⟨_, _, rfl⟩

theorem Gang.memory_of_mem_taskWhos {w : Who} (hw : w ∈ g.taskWhos) : ∃ a b, w.core = .memory a b := by
  obtain ⟨t, -, rfl⟩ := List.mem_map.1 hw
  exact ⟨_, _, rfl⟩

theorem State.memoryAlone_settleCommit (s : State) (gid : Nat) : s.MemoryAlone (s.settleCommit gid) := by
  unfold State.settleCommit
  split
  · exact .refl s
  · refine State.memoryAlone_foldl (fun s w hw => ?_) s
    exact s.memoryAlone_setCore (Gang.memory_of_mem_taskWhos hw) rfl

/-- The cores of a gang have returned: those of its rectangle with their thread sets, those of its tasks but for the tasks. -/
theorem State.returnCores_leaves (s : State) (g : Gang) : (let t := s.returnCores g
    t.gangs = s.gangs ∧ s.Outside t ∧ s.SameShadows t ∧ (∀ gid, s.Settled gid → t.Settled gid) ∧
      ∀ c ∈ g.rect, (t.core c).Returned (s.core c).sstep (s.core c).shadowTs) := by
  have rect : (let t := g.rect.foldl (fun s c => s.modCore c Core.rollBack) s
      t.gangs = s.gangs ∧ s.Outside t ∧ s.SameShadows t ∧ ∀ gid, s.Settled gid → t.Settled gid) := by
    refine List.foldlRecOn (motive := fun t => t.gangs = s.gangs ∧ s.Outside t ∧ s.SameShadows t ∧ ∀ gid, s.Settled gid → t.Settled gid)
      _ _ ⟨rfl, .refl s, fun _ => rfl, fun _ h => h⟩ fun t ht c _ => ?_
    obtain ⟨gangs, outside, shadows, settled⟩ := ht
    refine ⟨(State.modCore_gangs ..).trans gangs, outside.trans (t.outside_modCore ..),
      shadows.modCore c fun k => k.returned_rollBack.1.2, fun gid h => (settled gid h).modCore (t.core c).rollBack_commit⟩
  have blocks (t : State) : t.MemoryAlone (g.shadowWhos.foldl (fun s w => s.modCore w.core fun k =>
      k.unplate fun i => g.shadowWhos.any fun v => v.core == w.core && v.t.val == i) t) := by
    refine State.memoryAlone_foldl (fun s w hw => s.memoryAlone_setCore (Gang.memory_of_mem_shadowWhos hw) ?_) t
    exact (s.core w.core).unplate_commit _
  have shadows (t : State) (h : s.SameShadows t) : s.SameShadows (g.shadowWhos.foldl (fun s w => s.modCore w.core fun k =>
      k.unplate fun i => g.shadowWhos.any fun v => v.core == w.core && v.t.val == i) t) := by
    refine List.foldlRecOn (motive := s.SameShadows) _ _ h fun t ht w _ => ht.modCore w.core fun k => k.unplate_shadowTs _
  obtain ⟨gangs, outside, same, settled⟩ := rect
  obtain ⟨gangs', compute', outside', settled'⟩ := blocks (g.rect.foldl (fun s c => s.modCore c Core.rollBack) s)
  refine ⟨gangs'.trans gangs, outside.trans outside', shadows _ same, fun gid h => settled' gid (settled gid h), fun c hc => ?_⟩
  have returned := State.returned_rect (s := s) hc
  obtain ⟨x, y, rfl⟩ := Gang.exists_of_mem_rect hc
  unfold State.returnCores
  rwa [State.core_compute_congr compute']

theorem State.core_withTask_ts (s : State) (w : Who) (hold : Bool) (tasks : Vector Task 16) (t : ThreadSet) (c : CoreId) (i : Fin 16) :
    ((s.withTask w hold tasks t).core c).ts[i] = (s.core c).ts[i] ∨
      i = w.t ∧ s.core c = s.core w.core ∧ ((s.withTask w hold tasks t).core c).ts[i] = t := by
  by_cases far : CoreId.apart c w.core
  · exact .inl (by rw [State.withTask, State.core_setCore_other _ _ _ _ far])
  · have near := State.core_eq_of_not_apart s far
    rw [State.core_eq_of_not_apart _ far, near, State.withTask, State.core_setCore_same]
    by_cases hi : i = w.t
    · subst hi
      exact .inr ⟨rfl, rfl, Vector.getElem_set_self ..⟩
    · exact .inl (getElem_set_of_ne _ _ hi)

theorem State.sameShadows_withTask (s : State) (w : Who) (hold : Bool) (tasks : Vector Task 16) (t : ThreadSet) :
    s.SameShadows (s.withTask w hold tasks t) :=
  State.SameShadows.modCore (s := s) (t := s) (fun _ => rfl) w.core (f := fun k => { k with
    pairHold := hold, tasks := tasks, ts := (s.core w.core).ts.set w.t t }) fun _ => rfl

/-- The tasks of a gang have returned, each from its shadow context. -/
theorem State.returnTasks_leaves (goes : s.goesOn gid = true)
    (straight : ∀ w ∈ g.shadowWhos, (s.core w.core).shadowTs[w.t].run = .atBar → (s.core w.core).shadowTs[w.t].loops = []) :
    s.MemoryAlone (s.returnTasks gid g) ∧
      ∀ w ∈ g.shadowWhos, ThreadSet.Resumed (s.core w.core).shadowTs[w.t] ((s.returnTasks gid g).core w.core).ts[w.t] := by
  have step (t : State) (ht : s.SameShadows t ∧ t.goesOn gid = true) (w : Who) (hw : w ∈ g.shadowWhos) : ∃ hold tasks x,
      (if t.goesOn gid then t.rollTask gid w else t) = t.withTask w hold tasks x ∧
        ThreadSet.Resumed (s.core w.core).shadowTs[w.t] x := by
    obtain ⟨shadows, goes⟩ := ht
    have rolled := t.rollTask_eq gid w (by rw [shadows]; exact straight w hw)
    rw [shadows] at rolled
    rwa [if_pos goes]
  have kept (t : State) (w : Who) (hw : w ∈ g.shadowWhos) (ht : s.SameShadows t ∧ t.goesOn gid = true) :
      s.SameShadows (if t.goesOn gid then t.rollTask gid w else t) ∧
        (if t.goesOn gid then t.rollTask gid w else t).goesOn gid = true := by
    obtain ⟨hold, tasks, x, e, -⟩ := step t ht w hw
    rw [e]
    refine ⟨fun c => (t.sameShadows_withTask w hold tasks x c).trans (ht.1 c), ?_⟩
    have gangs : (t.withTask w hold tasks x).gang gid = t.gang gid := State.gang_setCore ..
    unfold State.goesOn
    rw [gangs]
    exact ht.2
  constructor
  · refine (List.foldlRecOn (motive := fun t => (s.SameShadows t ∧ t.goesOn gid = true) ∧ s.MemoryAlone t) g.shadowWhos _
      ⟨⟨fun _ => rfl, goes⟩, .refl s⟩ fun t ht w hw => ⟨kept t w hw ht.1, ht.2.trans ?_⟩).2
    obtain ⟨hold, tasks, x, e, -⟩ := step t ht.1 w hw
    rw [e]
    exact t.memoryAlone_setCore (Gang.memory_of_mem_shadowWhos hw) rfl
  · intro w hw
    refine (foldl_reaches (q := fun t => s.SameShadows t ∧ t.goesOn gid = true)
      (p := fun t => (s.SameShadows t ∧ t.goesOn gid = true) ∧ ThreadSet.Resumed (s.core w.core).shadowTs[w.t] (t.core w.core).ts[w.t])
      kept hw (fun t ht => ⟨kept t w hw ht, ?_⟩) (fun t v hv ht => ⟨kept t v hv ht.1, ?_⟩) ⟨fun _ => rfl, goes⟩).2
    · obtain ⟨hold, tasks, x, e, resumed⟩ := step t ht w hw
      rw [e]
      have there := t.ts_withTask w hold tasks x
      unfold State.ts at there
      rwa [there]
    · obtain ⟨hold, tasks, x, e, resumed⟩ := step t ht.1 v hv
      rw [e]
      rcases t.core_withTask_ts v hold tasks x w.core w.t with same | ⟨slot, core, new⟩
      · rw [same]
        exact ht.2
      · have same : (s.core w.core).shadowTs = (s.core v.core).shadowTs := by rw [← ht.1.1, core, ht.1.1]
        rw [new, same]
        simpa only [slot] using resumed

end Returning

section Settling
variable {s : State}

theorem State.core_modTs_ts (s : State) (w : Who) (f : ThreadSet → ThreadSet) (c : CoreId) (i : Fin 16) :
    ((s.modTs w f).core c).ts[i] = (s.core c).ts[i] ∨ ((s.modTs w f).core c).ts[i] = f (s.core c).ts[i] := by
  have same : s.modTs w f = s.withTask w (s.core w.core).pairHold (s.core w.core).tasks (f (s.ts w)) := rfl
  rw [same]
  rcases s.core_withTask_ts w (s.core w.core).pairHold (s.core w.core).tasks (f (s.ts w)) c i with kept | ⟨slot, core, new⟩
  · exact .inl kept
  · refine .inr (new.trans ?_)
    subst slot
    rw [core]
    rfl

theorem State.resumed_settleCommit {shadow : ThreadSet} {c : CoreId} {i : Fin 16} (h : shadow.Resumed (s.core c).ts[i]) (gid : Nat) :
    shadow.Resumed ((s.settleCommit gid).core c).ts[i] := by
  unfold State.settleCommit
  split
  · exact h
  · refine List.foldlRecOn (motive := fun t : State => shadow.Resumed (t.core c).ts[i]) _ _ h fun t ht w _ => ?_
    rcases t.core_modTs_ts w _ c i with e | e
    · rwa [e]
    · rw [e]
      exact ht

end Settling

theorem rollBack_leaves (s : State) (gid : Nat) (g : Gang) (hg : s.gang gid = some g) (stands : g.shadowRival ≠ .faulted) :
    (let shadow (t : Nat × Nat × Nat) : ThreadSet := (s.core (.memory t.1 t.2.1)).shadowTs[Fin.ofNat 16 t.2.2]
    (∀ t ∈ g.shadowTasks, (shadow t).run = .atBar → (shadow t).loops = []) →
    (let u := s.rollBack gid g
    (∃ h, u.gang gid = some h ∧ h.sstep = g.sstep ∧ h.err = none ∧ h.lost = false ∧ h.retries = g.retries + 1 ∧ h.toks = [] ∧
      h.taskAt = [] ∧ h.tasks = g.shadowTasks ∧ h.count = g.shadowCount ∧ h.rival = g.shadowRival ∧ h.restart = true ∧
      h.rels = h.everyone) ∧
    (∀ p ∈ u.packets, p.sender.gang ≠ gid) ∧ (∀ p ∈ u.qposts, p.gang ≠ gid) ∧
    (∀ e ∈ u.memory, ∀ c ∈ e.2.commit, c.gang = gid → c.draining = true) ∧
    (∀ c ∈ g.rect, (u.core c).sstep = (s.core c).sstep ∧ (u.core c).arrived = false ∧
      (u.core c).ts = (s.core c).shadowTs.map fun t => { t with enter := true }) ∧
    (∀ t ∈ g.shadowTasks, (let v := (u.core (.memory t.1 t.2.1)).ts[Fin.ofNat 16 t.2.2]
      let f := shadow t
      v.enter = true ∧ v.s = f.s ∧ v.p = f.p ∧
      (f.run = .atBar → v.run = .ready ∧ v.pc = BitVec.ofNat 32 (nextPos f.pc.toNat) ∧ v.sstep = f.sstep + 1) ∧
      (f.run ≠ .atBar → v.run = f.run ∧ v.pc = f.pc ∧ v.sstep = f.sstep))) ∧
    u.reports = s.reports ++ [{ g.report 2 with time := s.picos / 1000 }] ∧
    u.devCounters.l2rollback = sat64 s.devCounters.l2rollback)) := by
  intro shadow straight u
  have steps : u = s.rollBack gid g := rfl
  rw [State.rollBack_eq] at steps
  obtain ⟨gang₁, compute₁, shadows₁, settled₁, packets₁, qposts₁, reports₁, counter₁⟩ := s.takeBack_leaves gid g
  generalize s.takeBack gid g = s₁ at *
  obtain ⟨gangs₂, outside₂, shadows₂, settled₂, rect₂⟩ := s₁.returnCores_leaves g
  generalize s₁.returnCores g = s₂ at *
  have gang₃ : (s₂.modGang gid Gang.repeated).gang gid = some g.repeated := by
    rw [State.gang_modGang_same, State.gang_congr gangs₂, gang₁, hg]
    rfl
  have core₃ (c : CoreId) : (s₂.modGang gid Gang.repeated).core c = s₂.core c := State.core_modGang ..
  have outside₃ := s₂.outside_modGang gid Gang.repeated
  have settled₃ : (s₂.modGang gid Gang.repeated).Settled gid := (settled₂ gid settled₁).congr (State.modGang_memory ..)
  generalize s₂.modGang gid Gang.repeated = s₃ at *
  have shadows₃ (c : CoreId) : (s₃.core c).shadowTs = (s.core c).shadowTs := by rw [core₃, shadows₂, shadows₁]
  have goes : s₃.goesOn gid = true := by
    unfold State.goesOn
    rw [gang₃]
    simpa [Gang.repeated] using stands
  obtain ⟨alone, resumed⟩ := State.returnTasks_leaves (g := g) goes fun w hw => by
    obtain ⟨t, ht, rfl⟩ := List.mem_map.1 hw
    rw [shadows₃]
    exact straight t ht
  obtain ⟨gangs₄, compute₄, outside₄, settled₄⟩ := alone
  generalize s₃.returnTasks gid g = s₄ at *
  obtain ⟨lines, repaired⟩ := (s₄.modGang gid Gang.restarted).repairLines_eq g.ctx
  have gang₅ : ((s₄.modGang gid Gang.restarted).repairLines g.ctx).gang gid = some g.repeated.restarted := by
    rw [repaired]
    refine (State.gang_modGang_same ..).trans ?_
    rw [State.gang_congr gangs₄, gang₃]
    rfl
  have core₅ (c : CoreId) : ((s₄.modGang gid Gang.restarted).repairLines g.ctx).core c = s₄.core c := by
    rw [repaired]
    exact s₄.core_modGang ..
  have outside₅ : s₄.Outside ((s₄.modGang gid Gang.restarted).repairLines g.ctx) := by
    rw [repaired]
    exact s₄.outside_modGang ..
  have settled₅ : ((s₄.modGang gid Gang.restarted).repairLines g.ctx).Settled gid := by
    rw [repaired]
    exact (settled₄ gid settled₃).congr (State.modGang_memory ..)
  generalize (s₄.modGang gid Gang.restarted).repairLines g.ctx = s₅ at *
  obtain ⟨compute₆, memory₆, gang₆⟩ := s₅.injectMemory_leaves gid
  obtain ⟨gangs₇, compute₇, outside₇, settled₇⟩ := (s₅.injectMemory gid).memoryAlone_settleCommit gid
  obtain ⟨packets, qposts, reports, counters⟩ :=
    ((((outside₂.trans outside₃).trans outside₄).trans outside₅).trans (s₅.outside_injectMemory gid)).trans outside₇
  rw [← steps] at gangs₇ compute₇ settled₇ packets qposts reports counters
  refine ⟨⟨_, (State.gang_congr gangs₇ gid).trans (gang₆ _ gang₅), rfl, rfl, rfl, rfl, rfl, rfl, rfl, rfl, rfl, rfl, rfl⟩,
    packets ▸ packets₁, qposts ▸ qposts₁, settled₇ gid (settled₅.congr memory₆), fun c hc => ?_, fun t ht => ?_,
    reports.trans reports₁, counters ▸ counter₁⟩
  · have returned := rect₂ c hc
    obtain ⟨x, y, rfl⟩ := Gang.exists_of_mem_rect hc
    have same : u.core (.compute x y) = s₂.core (.compute x y) := by
      rw [State.core_compute_congr compute₇, State.core_compute_congr compute₆, core₅, State.core_compute_congr compute₄, core₃]
    rw [compute₁] at returned
    rw [same]
    exact ⟨returned.1.1, returned.2⟩
  · have there := resumed _ (List.mem_map_of_mem ht)
    rw [shadows₃, ← core₅] at there
    have injected : (s₅.injectMemory gid).core (.memory t.1 t.2.1) = s₅.core (.memory t.1 t.2.1) := by
      simp [State.core, memory₆]
    rw [← injected] at there
    rw [steps]
    exact State.resumed_settleCommit there gid

end Sys2Proof.Machine
end

section
/-! What the end of gangs and the teardown of a fault domain leave. -/
namespace Sys2Proof.Machine

section Ending
variable {s t u : State}

/-- From s to t the gangs, the tournaments, the contexts and the counts of the device have not changed. -/
def State.SameRecords (s t : State) : Prop :=
  t.gangs = s.gangs ∧ t.tours = s.tours ∧ t.contexts = s.contexts ∧ t.devCounters = s.devCounters

theorem State.SameRecords.refl (s : State) : s.SameRecords s := ⟨rfl, rfl, rfl, rfl⟩

theorem State.SameRecords.trans (h : s.SameRecords t) (k : t.SameRecords u) : s.SameRecords u := by
  obtain ⟨gangs, tours, contexts, counters⟩ := h
  obtain ⟨gangs', tours', contexts', counters'⟩ := k
  exact ⟨gangs'.trans gangs, tours'.trans tours, contexts'.trans contexts, counters'.trans counters⟩

theorem State.sameRecords_foldl {α : Type} {f : State → α → State} (hf : ∀ s a, State.SameRecords s (f s a)) (l : List α) (s : State) :
    s.SameRecords (l.foldl f s) :=
  List.foldlRecOn (motive := s.SameRecords) l f (.refl s) fun t ht a _ => ht.trans (hf t a)

theorem State.sameRecords_setCore (s : State) (c : CoreId) (k : Core) : s.SameRecords (s.setCore c k) := by simp [State.SameRecords]

theorem State.sameRecords_modCore (s : State) (c : CoreId) (f : Core → Core) : s.SameRecords (s.modCore c f) := s.sameRecords_setCore ..

theorem State.sameRecords_closeSubs (s : State) (c : CoreId) : s.SameRecords (s.closeSubs c) := by
  unfold State.closeSubs
  split
  · refine .trans (s.sameRecords_modCore ..) (State.sameRecords_foldl (fun s u => ?_) _ _)
    exact ⟨rfl, rfl, rfl, rfl⟩
  · exact .refl s

theorem State.sameRecords_leaveCores (s : State) (g : Gang) (gid : Nat) : s.SameRecords (s.leaveCores g gid) := by
  refine State.sameRecords_foldl (fun s c => ?_) _ s
  split
  · exact .refl s
  · have left := (s.sameRecords_closeSubs c).trans ((s.closeSubs c).sameRecords_setCore c (((s.closeSubs c).core c).vacate g.ctx))
    dsimp only
    split
    · exact left.trans (State.sameRecords_modCore ..)
    · exact left

theorem State.sameRecords_dropPlates (s : State) (ts : List (Nat × Nat × Nat)) : s.SameRecords (s.dropPlates ts) :=
  State.sameRecords_foldl (fun s _ => s.sameRecords_modCore ..) ts s

theorem State.sameRecords_killTasks (s : State) (g : Gang) : s.SameRecords (s.killTasks g) :=
  (State.sameRecords_foldl (fun s _ => s.sameRecords_modCore ..) g.tasks s).trans (State.sameRecords_dropPlates ..)

theorem State.sameRecords_raiseQueue (s : State) (ctx q : Nat) : s.SameRecords (s.raiseQueue ctx q) := by
  unfold State.raiseQueue
  split <;> exact ⟨rfl, rfl, rfl, rfl⟩

theorem State.queue_congr (h : t.contexts = s.contexts) (c q : Nat) : t.queue c q = s.queue c q := by
  simp [State.queue, State.ctx, h]

/-- The end of a gang: it is gone, and no queue, no tournament and no count has changed (R425, R450). -/
theorem State.releaseGang_leaves (s : State) (g : Gang) (gid : Nat) : (let t := s.releaseGang g gid
    t.gangs = s.gangs.drop gid ∧ t.tours = s.tours ∧ t.devCounters = s.devCounters ∧ ∀ c q, t.queue c q = s.queue c q) := by
  unfold State.releaseGang
  obtain ⟨gangs, tours, contexts, counters⟩ := (s.sameRecords_leaveCores g gid).trans (State.sameRecords_killTasks _ g)
  generalize (s.leaveCores g gid).killTasks g = t at *
  extract_lets s₁ s₂ s₃
  have ended := s₃.engineLeaves_discardPosts g.ctx gid
  exact ⟨ended.gangs.trans (congrArg (Table.drop · gid) gangs), ended.tours.trans tours, ended.devCounters.trans counters,
    fun c q => (ended.queue c q).trans (State.queue_congr contexts c q)⟩

theorem Table.mem_drop {α : Type} {t : Table α} {k : Nat} {e : Nat × α} : e ∈ t.drop k ↔ e ∈ t ∧ e.1 ≠ k := by
  simp [Table.drop]

/-- The end of some gangs. -/
theorem State.releaseGangs_leaves (gs : List (Nat × Gang)) (s : State) :
    (let t := gs.foldl (fun s (e : Nat × Gang) => s.releaseGang e.2 e.1) s
    (∀ e ∈ t.gangs, e ∈ s.gangs ∧ ∀ d ∈ gs, d.1 ≠ e.1) ∧ t.tours = s.tours ∧ t.devCounters = s.devCounters ∧
      ∀ c q, t.queue c q = s.queue c q) := by
  induction gs generalizing s with
  | nil => exact ⟨fun e he => ⟨he, fun _ h => absurd h List.not_mem_nil⟩, rfl, rfl, fun _ _ => rfl⟩
  | cons d r ih =>
    obtain ⟨gangs, tours, counters, queues⟩ := s.releaseGang_leaves d.2 d.1
    obtain ⟨gangs', tours', counters', queues'⟩ := ih (s.releaseGang d.2 d.1)
    refine ⟨fun e he => ?_, tours'.trans tours, counters'.trans counters, fun c q => (queues' c q).trans (queues c q)⟩
    obtain ⟨there, others⟩ := gangs' e he
    rw [gangs, Table.mem_drop] at there
    exact ⟨there.1, List.forall_mem_cons.2 ⟨there.2.symm, others⟩⟩

variable (s : State)

/-- The record of some gangs completes with an error (R430): they are gone with their tournament, and its queue has halted. -/
theorem State.killRecord_leaves (ctx q idx err cause : Nat) (xpc xval : Word) (mark : Bool) :
    (let t := s.killRecord ctx q idx err cause xpc xval mark
    (∀ e ∈ t.gangs, e ∈ s.gangs ∧ ¬ (e.2.ctx = ctx ∧ e.2.q = q ∧ e.2.idx = idx)) ∧
      (∀ e ∈ t.tours, e ∈ s.tours ∧ ¬ (e.2.ctx = ctx ∧ e.2.q = q ∧ e.2.idx = idx)) ∧ t.devCounters = s.devCounters ∧
      (∀ c r, (c, r) ≠ (ctx, q) → t.queue c r = s.queue c r) ∧
      t.queue ctx q = (s.queue ctx q).map fun x =>
        { x.fail idx err with xcause := cause, xpc := xpc, xval := xval, handlerFail := mark }) := by
  unfold State.killRecord
  extract_lets gs s₁ s₂
  obtain ⟨gangs, tours, counters, queues⟩ := State.releaseGangs_leaves gs s
  refine ⟨fun e he => ?_, fun e he => ?_, ?_, fun c r h => ?_, ?_⟩
  · obtain ⟨there, others⟩ := gangs e (State.modQueue_gangs s₂ .. ▸ he)
    refine ⟨there, fun same => others e ?_ rfl⟩
    exact List.mem_filter.2 ⟨there, by simpa [and_assoc] using same⟩
  · have he : e ∈ s₂.tours := State.modQueue_tours s₂ .. ▸ he
    obtain ⟨he, kept⟩ := List.mem_filter.1 he
    exact ⟨tours ▸ he, fun same => by simp [same] at kept⟩
  · exact (State.modCtx_devCounters ..).trans counters
  · exact (State.queue_modQueue_other h).trans (queues c r)
  · exact (State.queue_modQueue_same ..).trans (congrArg _ (queues ctx q))

theorem State.dropStarting_leaves (ctx q : Nat) : (let t := s.dropStarting ctx q
    (∀ e ∈ t.gangs, e ∈ s.gangs) ∧ t.devCounters = s.devCounters ∧ ∀ c r, t.queue c r = s.queue c r) := by
  unfold State.dropStarting
  extract_lets gs s₁
  obtain ⟨gangs, -, counters, queues⟩ := State.releaseGangs_leaves gs s
  exact ⟨fun e he => (gangs e he).1, counters, queues⟩

end Ending

section Tearing
variable (s : State)

/-- A queue is torn down where it was not, and no gang of it runs (R411, R450). -/
def State.Torn (ctx n : Nat) (x : Queue) (t : State) : Prop :=
  ∃ y, t.queue ctx n = some y ∧ y.state = .torn ∧ (x.state ≠ .torn → y.head = y.tail ∧
    ∀ e ∈ t.gangs, e.2.ctx = ctx → e.2.q = n → e.2.phase = .retiring)

theorem State.tearQueue_leaves (ctx q : Nat) : (let t := s.tearQueue ctx q
    (∀ e ∈ t.gangs, e ∈ s.gangs) ∧ t.devCounters = s.devCounters ∧ (∀ c r, (c, r) ≠ (ctx, q) → t.queue c r = s.queue c r) ∧
      ∀ x, s.queue ctx q = some x → State.Torn ctx q x t) := by
  unfold State.tearQueue
  split
  next torn =>
    refine ⟨fun _ h => h, rfl, fun _ _ _ => rfl, fun x hx => ⟨x, hx, ?_, fun other => absurd ?_ other⟩⟩
    all_goals simpa [hx] using torn
  next =>
    extract_lets s₁ idxs s₂
    obtain ⟨gangs₁, counters₁, queues₁⟩ := s.dropStarting_leaves ctx q
    have killed : (∀ e ∈ s₂.gangs, e ∈ s₁.gangs) ∧ s₂.devCounters = s₁.devCounters ∧
        (∀ c r, (c, r) ≠ (ctx, q) → s₂.queue c r = s₁.queue c r) ∧ (s₁.queue ctx q).isSome = (s₂.queue ctx q).isSome := by
      refine List.foldlRecOn (motive := fun t : State => (∀ e ∈ t.gangs, e ∈ s₁.gangs) ∧ t.devCounters = s₁.devCounters ∧
        (∀ c r, (c, r) ≠ (ctx, q) → t.queue c r = s₁.queue c r) ∧ (s₁.queue ctx q).isSome = (t.queue ctx q).isSome) idxs _
        ⟨fun _ h => h, rfl, fun _ _ _ => rfl, rfl⟩ fun t ht i _ => ?_
      obtain ⟨gangs, counters, others, own⟩ := ht
      obtain ⟨gangs', -, counters', others', own'⟩ := t.killRecord_leaves ctx q i 10 0 0 0 false
      refine ⟨fun e he => gangs e (gangs' e he).1, counters'.trans counters, fun c r h => (others' c r h).trans (others c r h), ?_⟩
      rw [own', own, Option.isSome_map]
    have gone (e : Nat × Gang) (he : e ∈ s₂.gangs) (hc : e.2.ctx = ctx) (hq : e.2.q = q) : e.2.phase = .retiring := by
      by_contra runs
      have listed : e.2.idx ∈ idxs := by
        refine List.mem_eraseDups.2 (List.mem_map_of_mem (List.mem_filter.2 ⟨killed.1 e he, ?_⟩))
        simp [hc, hq, runs]
      refine foldl_reaches (q := fun _ : State => True) (p := fun t : State => e ∉ t.gangs) (fun _ _ _ _ => trivial) listed
        (fun t _ there => ?_) (fun t i _ absent there => absent ?_) trivial he
      · exact ((t.killRecord_leaves ctx q e.2.idx 10 0 0 0 false).1 e there).2 ⟨hc, hq, rfl⟩
      · exact ((t.killRecord_leaves ctx q i 10 0 0 0 false).1 e there).1
    obtain ⟨gangs₂, counters₂, queues₂, own⟩ := killed
    obtain ⟨gangs, -, contexts, counters⟩ := (s₂.modQueue ctx q fun x => { x.flushAll with state := .torn }).sameRecords_raiseQueue ctx q
    rw [State.modQueue_gangs] at gangs
    have queues (c r : Nat) := State.queue_congr contexts c r
    refine ⟨fun e he => gangs₁ e (gangs₂ e (gangs ▸ he)), ?_, fun c r h => ?_, fun x hx => ?_⟩
    · exact (counters.trans (State.modCtx_devCounters ..)).trans (counters₂.trans counters₁)
    · exact (queues c r).trans ((State.queue_modQueue_other h).trans ((queues₂ c r h).trans (queues₁ c r)))
    · rw [queues₁, hx] at own
      obtain ⟨y, hy⟩ := Option.isSome_iff_exists.1 own.symm
      refine ⟨{ y.flushAll with state := .torn }, ?_, rfl, fun _ => ⟨rfl, fun e he => gone e (gangs ▸ he)⟩⟩
      rw [queues, State.queue_modQueue_same, hy]
      rfl

theorem State.Torn.mono {t u : State} {ctx n : Nat} {x : Queue} (h : State.Torn ctx n x t) (queue : u.queue ctx n = t.queue ctx n)
    (gangs : ∀ e ∈ u.gangs, e ∈ t.gangs) : State.Torn ctx n x u := by
  obtain ⟨y, hy, torn, empty⟩ := h
  refine ⟨y, queue.trans hy, torn, fun was => ?_⟩
  obtain ⟨heads, retiring⟩ := empty was
  exact ⟨heads, fun e he => retiring e (gangs e he)⟩

theorem State.Torn.tearQueue {t : State} {ctx n : Nat} {x : Queue} (h : State.Torn ctx n x t) (m : Nat) :
    State.Torn ctx n x (t.tearQueue ctx m) := by
  by_cases hm : m = n
  · subst hm
    have already : t.tearQueue ctx m = t := by
      obtain ⟨y, hy, torn, -⟩ := h
      unfold State.tearQueue
      rw [if_pos (by simp [hy, torn])]
    rwa [already]
  · obtain ⟨gangs, -, others, -⟩ := t.tearQueue_leaves ctx m
    exact h.mono (others ctx n (by simpa using Ne.symm hm)) gangs

theorem teardown_leaves (ctx q fdom : Nat) : (let u := s.teardown ctx q fdom
    u.devCounters.l3teardown = sat64 s.devCounters.l3teardown ∧
    (∀ n ∈ s.domain ctx q fdom, ∀ x, s.queue ctx n = some x → State.Torn ctx n x u) ∧
    (∀ n x, n ∉ s.domain ctx q fdom → s.queue ctx n = some x → u.queue ctx n = some x) ∧
    (∀ c, s.ctx ctx = some c → q ∈ s.domain ctx q 0 ∧ ∀ n, n ∈ s.domain ctx q 2 ↔ n ∈ c.queues.map (·.1))) := by
  unfold State.teardown
  extract_lets counted s₁ u
  refine ⟨?_, fun n hn x hx => ?_, fun n x hn hx => ?_, fun c hc => ?_⟩
  · have counters : u.devCounters = s₁.devCounters :=
      foldl_keeps (p := State.devCounters) (fun t m => (t.tearQueue_leaves ctx m).2.1) _ s₁
    rw [counters]
  · refine foldl_reaches (q := fun t : State => t.queue ctx n = some x ∨ State.Torn ctx n x t) (p := State.Torn ctx n x)
      (fun t m _ h => ?_) hn (fun t h => ?_) (fun t m _ h => h.tearQueue m) (.inl hx)
    all_goals rcases h with same | torn
    · by_cases hm : m = n
      · subst hm
        exact .inr ((t.tearQueue_leaves ctx m).2.2.2 x same)
      · exact .inl (((t.tearQueue_leaves ctx m).2.2.1 ctx n (by simpa using Ne.symm hm)).trans same)
    · exact .inr (torn.tearQueue m)
    · exact (t.tearQueue_leaves ctx n).2.2.2 x same
    · exact torn.tearQueue n
  · refine List.foldlRecOn (motive := fun t : State => t.queue ctx n = some x) _ _ hx fun t ht m hm => ?_
    have ne : n ≠ m := fun e => hn (e ▸ hm)
    exact ((t.tearQueue_leaves ctx m).2.2.1 ctx n (by simpa using ne)).trans ht
  · simp [State.domain, hc]

end Tearing

end Sys2Proof.Machine
end

section
/-! The end of the last round of two rivals. -/
namespace Sys2Proof.Machine

section Wiping
variable {s u : State}

/-- The cores of a group of a round. -/
def Tour.groupCores (t : Tour) (k base : Nat) : List CoreId :=
  let r := t.groupRect k base
  (List.range r.2.2.2).flatMap fun y => (List.range r.2.2.1).map fun x => CoreId.compute (r.1 + x) (r.2.1 + y)

theorem Tour.mem_groupCores {t : Tour} {k base : Nat} {c : CoreId} : c ∈ t.groupCores k base ↔
    ∃ a b, a < (t.groupRect k base).2.2.1 ∧ b < (t.groupRect k base).2.2.2 ∧
      c = .compute ((t.groupRect k base).1 + a) ((t.groupRect k base).2.1 + b) := by
  simp only [Tour.groupCores, List.mem_flatMap, List.mem_map, List.mem_range]
  constructor
  · rintro ⟨b, hb, a, ha, rfl⟩
    exact ⟨a, b, ha, hb, rfl⟩
  · rintro ⟨a, b, ha, hb, rfl⟩
    exact ⟨b, hb, a, ha, rfl⟩

/-- What a wiped core holds, and one that is not keeps: its thread sets and its score. -/
def Core.face (k : Core) : Vector ThreadSet 16 × DWord := (k.ts, k.shared.score)

/-- What the end of a group does to its cores. -/
def State.wipeCores (s : State) (cs : List CoreId) : State := cs.foldl (fun s c => (s.closeSubs c).modCore c Core.wipe) s

theorem State.closeSubs_core (s : State) (c d : CoreId) :
    (s.closeSubs c).core d = s.core d ∨ ¬ CoreId.apart d c ∧ ((s.closeSubs c).core d).ts = (s.core d).ts := by
  unfold State.closeSubs
  split
  next x y =>
    have routers (t : State) (l : List Subscription) : (l.foldl (fun (s : State) (u : Subscription) =>
        { s with routers := s.leaveRouters u.tag x y (pushRoute u.stack u.chan x y).reverse }) t).core d = t.core d :=
      foldl_keeps (p := fun t : State => t.core d) (by intros; exact State.core_congr rfl rfl rfl d) l t
    rw [routers]
    by_cases far : CoreId.apart d (.compute x y)
    · exact .inl (s.core_modCore_other _ d _ far)
    · refine .inr ⟨far, ?_⟩
      rw [State.core_eq_of_not_apart _ far, State.core_eq_of_not_apart s far]
      unfold State.modShared
      rw [State.core_modCore_same]
  next => exact .inl rfl

theorem State.sameRecords_wipeCores (s : State) (cs : List CoreId) : s.SameRecords (s.wipeCores cs) :=
  State.sameRecords_foldl (fun s c => (s.sameRecords_closeSubs c).trans (State.sameRecords_modCore ..)) cs s

/-- The thread sets of a wiped core are as at reset (R170). -/
theorem State.ts_wipeCores {cs : List CoreId} {c : CoreId} (hc : c ∈ cs) : ((s.wipeCores cs).core c).ts = Vector.replicate 16 {} := by
  refine State.core_foldl (q := fun _ => True) (p := fun k => k.ts = Vector.replicate 16 {}) (fun _ _ => trivial) (fun s d _ _ => ?_)
    (fun s d _ c => ?_) hc trivial
  · rw [State.core_modCore_same]
    rfl
  · by_cases far : CoreId.apart c d
    · rw [State.core_modCore_other _ _ _ _ far]
      exact .inl ((s.closeSubs_core d c).resolve_right fun near => near.1 far)
    · rw [State.core_eq_of_not_apart _ far, State.core_modCore_same]
      exact .inr fun _ => rfl

/-- A core apart from those that are wiped is as it was. -/
theorem State.core_wipeCores {cs : List CoreId} {c : CoreId} (hc : ∀ d ∈ cs, CoreId.apart c d) : (s.wipeCores cs).core c = s.core c := by
  refine List.foldlRecOn (motive := fun u : State => u.core c = s.core c) _ _ rfl fun u hu d hd => ?_
  rw [State.core_modCore_other _ _ _ _ (hc d hd)]
  rcases u.closeSubs_core d c with same | ⟨near, -⟩
  · rw [same, hu]
  · exact absurd (hc d hd) near

theorem State.standing_congr (h : u.gangs = s.gangs) (t : Tour) (k base : Nat) : u.standing t k base = s.standing t k base := by
  have same : u.gang = s.gang := funext fun g => State.gang_congr h g
  simp [State.standing, same]

/-- From s to u a core keeps its thread sets and its score. -/
def State.SameFaces (s u : State) : Prop := ∀ x y, (u.core (.compute x y)).face = (s.core (.compute x y)).face

theorem State.SameFaces.congr (h : u.compute = s.compute) : s.SameFaces u := fun x y => by rw [State.core_compute_congr h]

theorem State.sameFaces_dropOverlays (s : State) (gid : Nat) : s.SameFaces (s.dropOverlays gid) := by
  unfold State.dropOverlays
  refine List.foldlRecOn (motive := s.SameFaces) _ _ (.congr rfl) fun u hu o _ => ?_
  split
  · exact hu
  · intro x y
    rcases u.core_modCore (.compute x y) (.compute o.x o.y) fun k => k.settleOverlay o.number with e | e
    · rw [e, hu]
    · rw [e]
      exact hu x y

/-- The tournament with the fault that a wiped rival leaves (R172). -/
def Tour.noteFault (u : Tour) (g : Gang) : Tour :=
  { u with faults := u.faults ++ (g.fault.toList.map fun f => (g.bidx, f)) }

/-- A tournament takes note of the fault of a rival that is wiped. -/
def State.noteFault (s : State) (id : Nat) (g : Gang) : State :=
  match g.fault with
  | some f => { s with tours := match s.tours.find id with
      | some u => s.tours.put id { u with faults := u.faults ++ [(g.bidx, f)] }
      | none => s.tours }
  | none => s

theorem State.noteFault_eq {id : Nat} {v : Tour} (found : s.tours.find id = some v) (g : Gang) : ∃ tours,
    s.noteFault id g = { s with tours := tours } ∧ tours.find id = some (v.noteFault g) := by
  unfold State.noteFault Tour.noteFault
  cases g.fault with
  | none => exact ⟨s.tours, rfl, by simpa using found⟩
  | some f =>
    refine ⟨_, rfl, ?_⟩
    simp only [found, Table.find_put_same]
    rfl

/-- What a wiped gang had outside its cores goes (R170). -/
def State.dismiss (s : State) (id i : Nat) (g : Gang) : State :=
  let s := ((s.killTasks g).dropCommits i).discardPosts g.ctx i
  let s := State.noteFault { s.dropOverlays i with qposts := s.qposts.filter fun p => p.gang != i } id g
  { s.dropPackets i with gangs := s.gangs.drop i }

theorem State.wipeGroup_eq {id l : Nat} {t : Tour} {k base : Nat} {o : Gang} (stands : s.standing t k base = some (l, o)) :
    s.wipeGroup id t k base = (s.wipeCores (t.groupCores k base)).dismiss id l o := by
  obtain ⟨gangs, -⟩ := s.sameRecords_wipeCores (t.groupCores k base)
  rw [← State.standing_congr gangs] at stands
  show (match (s.wipeCores (t.groupCores k base)).standing t k base with
    | none => s.wipeCores (t.groupCores k base)
    | some (i, g) => (s.wipeCores (t.groupCores k base)).dismiss id i g) = _
  rw [stands]

theorem State.compute_killTasks (s : State) (g : Gang) : (s.killTasks g).compute = s.compute := by
  unfold State.killTasks State.dropPlates
  exact (foldl_keeps (p := State.compute) (by intros; rfl) _ _).trans (foldl_keeps (p := State.compute) (by intros; rfl) _ _)

theorem State.sameRecords_dropOverlays (s : State) (gid : Nat) : s.SameRecords (s.dropOverlays gid) := by
  unfold State.dropOverlays
  refine List.foldlRecOn (motive := s.SameRecords) _ _ ⟨rfl, rfl, rfl, rfl⟩ fun u hu o _ => ?_
  split
  · exact hu
  · exact hu.trans (u.sameRecords_modCore ..)

theorem State.SameRecords.queue (h : s.SameRecords u) (c q : Nat) : u.queue c q = s.queue c q :=
  State.queue_congr h.2.2.1 c q

theorem State.SameRecords.capsule (h : s.SameRecords u) (c k : Nat) : u.capsule c k = s.capsule c k := by
  simp [State.capsule, State.ctx, h.2.2.1]

theorem State.dismiss_leaves {id l : Nat} {v : Tour} {o : Gang} (found : s.tours.find id = some v) : (let u := s.dismiss id l o
    u.gangs = s.gangs.drop l ∧ u.tours.find id = some (v.noteFault o) ∧ (∀ c q, u.queue c q = s.queue c q) ∧
      (∀ c h, u.capsule c h = s.capsule c h) ∧ s.SameFaces u) := by
  unfold State.dismiss
  have killed := s.sameRecords_killTasks o
  have compute := s.compute_killTasks o
  generalize s.killTasks o = s₁ at *
  have ended := (s₁.dropCommits l).engineLeaves_discardPosts o.ctx l
  generalize (s₁.dropCommits l).discardPosts o.ctx l = s₂ at *
  have dropped := s₂.sameRecords_dropOverlays l
  have faces := s₂.sameFaces_dropOverlays l
  have tours : (s₂.dropOverlays l).tours = s.tours := dropped.2.1.trans (ended.tours.trans killed.2.1)
  obtain ⟨tours', e, noted⟩ := State.noteFault_eq
    (s := { s₂.dropOverlays l with qposts := s₂.qposts.filter fun p => p.gang != l }) ((congrArg (·.find id) tours).trans found) o
  dsimp only
  rw [e]
  refine ⟨?_, noted, fun c q => ?_, fun c h => ?_, fun x y => ?_⟩
  · exact congrArg (Table.drop · l) (dropped.1.trans (ended.gangs.trans killed.1))
  · exact (dropped.queue c q).trans ((ended.queue c q).trans (killed.queue c q))
  · exact (dropped.capsule c h).trans ((ended.capsule c h).trans (killed.capsule c h))
  · exact (faces x y).trans (congrArg Core.face (State.core_compute_congr (ended.compute.trans compute) x y))

/-- A group that is wiped: its gang is gone, the fault is noted, and its cores have thread sets as at reset. -/
theorem State.wipeGroup_leaves {id l : Nat} {t v : Tour} {k base : Nat} {o : Gang} (stands : s.standing t k base = some (l, o))
    (found : s.tours.find id = some v) : (let u := s.wipeGroup id t k base
    u.gangs = s.gangs.drop l ∧ u.tours.find id = some (v.noteFault o) ∧ (∀ c q, u.queue c q = s.queue c q) ∧
      (∀ c h, u.capsule c h = s.capsule c h) ∧
      (∀ c ∈ t.groupCores k base, (u.core c).ts = Vector.replicate 16 {}) ∧
      ∀ x y, (∀ d ∈ t.groupCores k base, CoreId.apart (.compute x y) d) →
        (u.core (.compute x y)).shared.score = (s.core (.compute x y)).shared.score) := by
  rw [State.wipeGroup_eq stands]
  have wiped := s.sameRecords_wipeCores (t.groupCores k base)
  have ts {c : CoreId} (hc : c ∈ t.groupCores k base) := State.ts_wipeCores (s := s) hc
  have core {c : CoreId} (hc : ∀ d ∈ t.groupCores k base, CoreId.apart c d) := State.core_wipeCores (s := s) hc
  generalize s.wipeCores (t.groupCores k base) = s₁ at *
  obtain ⟨gangs, tours, queues, capsules, faces⟩ := State.dismiss_leaves (l := l) (o := o) ((congrArg (·.find id) wiped.2.1).trans found)
  refine ⟨gangs.trans (congrArg (Table.drop · l) wiped.1), tours, fun c q => (queues c q).trans (wiped.queue c q),
    fun c h => (capsules c h).trans (wiped.capsule c h), fun c hc => ?_, fun x y far => ?_⟩
  · have reset := ts hc
    obtain ⟨a, b, -, -, rfl⟩ := Tour.mem_groupCores.1 hc
    exact (congrArg Prod.fst (faces _ _)).trans reset
  · exact (congrArg Prod.snd (faces x y)).trans (congrArg (·.shared.score) (core far))

end Wiping
section Winning
variable {s u : State}

/-- The gang that takes a union's rectangle (R170, step 2). -/
def Gang.annexed (g : Gang) (t : Tour) (k base : Nat) (word : Word) : Gang :=
  let r := t.groupRect (k + 1) base
  { g with ox := r.1, oy := r.2.1, w := r.2.2.1, h := r.2.2.2, word := word }

theorem State.annex_leaves (s : State) (t : Tour) (k base i : Nat) (g : Gang) (word : Word) : (let u := s.annex t k base i g word
    u.gangs = s.gangs.put i (g.annexed t k base word) ∧ u.tours = s.tours ∧ (∀ c h, u.capsule c h = s.capsule c h) ∧
      (u.core (g.annexed t k base word).corner).shared.score = (s.core g.corner).shared.score ∧
      (∀ c, (u.core c).ts = (s.core c).ts) ∧ ∀ c ∈ (g.annexed t k base word).rect, (u.core c).gang = some i) := by
  obtain ⟨g', hg'⟩ : ∃ g', g' = g.annexed t k base word := ⟨_, rfl⟩
  have shape : s.annex t k base i g word = (g'.rect.foldl (fun (s : State) c => s.modCore c fun k => { k with gang := some i })
      { s with gangs := s.gangs.put i g' }).modShared g'.corner fun q => { q with score := (s.core g.corner).shared.score } := by
    rw [hg']
    rfl
  rw [shape, ← hg']
  have cores (c : CoreId) : ({ s with gangs := s.gangs.put i g' } : State).core c = s.core c := State.core_congr rfl rfl rfl c
  obtain ⟨s₁, hs₁⟩ : ∃ s₁ : State, s₁ = { s with gangs := s.gangs.put i g' } := ⟨_, rfl⟩
  rw [← hs₁] at cores ⊢
  have placed : s₁.SameRecords (g'.rect.foldl (fun s c => s.modCore c fun k => { k with gang := some i }) s₁) :=
    State.sameRecords_foldl (fun s c => s.sameRecords_modCore ..) _ _
  have ts (c : CoreId) : ((g'.rect.foldl (fun s c => s.modCore c fun k => { k with gang := some i }) s₁).core c).ts = (s.core c).ts := by
    refine List.foldlRecOn (motive := fun u : State => (u.core c).ts = (s.core c).ts) _ _ (by rw [cores]) fun u hu d _ => ?_
    rcases u.core_modCore c d fun k => { k with gang := some i } with e | e
    · rw [e, hu]
    · rw [e]
      exact hu
  have gang {c : CoreId} (hc : c ∈ g'.rect) :
      ((g'.rect.foldl (fun s c => s.modCore c fun k => { k with gang := some i }) s₁).core c).gang = some i :=
    State.core_foldl_modCore (f := fun _ k => { k with gang := some i }) (q := fun _ => True) (p := fun k : Core => k.gang = some i)
      (fun _ _ => trivial) (fun _ _ _ => rfl) hc trivial
  generalize g'.rect.foldl (fun s c => s.modCore c fun k => { k with gang := some i }) s₁ = s₂ at *
  have shared : s₂.SameRecords (s₂.modShared g'.corner fun q => { q with score := (s.core g.corner).shared.score }) :=
    s₂.sameRecords_modCore ..
  have scored (c : CoreId) := s₂.core_modCore c g'.corner fun k =>
    { k with shared := { k.shared with score := (s.core g.corner).shared.score } }
  have all := placed.trans shared
  refine ⟨all.1.trans (by rw [hs₁]), all.2.1.trans (by rw [hs₁]), fun c h => (all.capsule c h).trans (by rw [hs₁]; rfl), ?_,
    fun c => ?_, fun c hc => ?_⟩
  · unfold State.modShared
    rw [State.core_modCore_same]
  · refine Eq.trans ?_ (ts c)
    rcases scored c with e | e
    · exact (congrArg Core.ts e).trans rfl
    · exact (congrArg Core.ts e).trans rfl
  · refine Eq.trans ?_ (gang hc)
    rcases scored c with e | e
    · exact (congrArg Core.gang e).trans rfl
    · exact (congrArg Core.gang e).trans rfl

/-- A winner that goes on after the last round (R170). -/
def Gang.crowned (g : Gang) : Gang :=
  { g with
    rival := .ordinary, shadowRival := .ordinary, count := 0, shadowCount := 0, final := false, shadowFinal := false
    rels := g.everyone }

/-- A core of a winner that goes on: one that is idle is made ready. -/
def Core.rejoin (k : Core) (g : Gang) (t : Tour) (entry : Word) (like : Core) : Core :=
  let k := if k.ts[0].run = .idle then k.prepareAnnexed g t entry like else k
  { k with gdim := g.gdim, brect := g.brect, round := t.round g.bidx }

/-- An annexed core of a gang that awaits its release (R170, steps 2 and 4). -/
def Core.Annexed (i : Nat) (g : Gang) (entry : Word) (k : Core) : Prop :=
  (k.gang = some i ∧ k.ts[0].run = .idle) ∧ k.sstep = g.sstep ∧ k.gdim = g.gdim ∧ k.brect = g.brect ∧
    ∀ n : Fin 16, n.val < g.sets → k.ts[n].pc = entry ∧ k.ts[n].run = .idle

theorem Core.annexed_rejoin {k : Core} {i : Nat} (mine : k.gang = some i ∧ k.ts[0].run = .idle) (g : Gang) (t : Tour) (entry : Word)
    (like : Core) : (k.rejoin g t entry like).Annexed i g entry := by
  obtain ⟨gang, idle⟩ := mine
  have ready (n : Fin 16) (hn : n.val < g.sets) : (k.rejoin g t entry like).ts[n].pc = entry ∧ (k.rejoin g t entry like).ts[n].run = .idle := by
    simp [Core.rejoin, idle, Core.prepareAnnexed, hn, startedTs]
  have first : (k.rejoin g t entry like).ts[0].run = .idle := by
    by_cases some : 0 < g.sets
    · exact (ready 0 some).2
    · simp [Core.rejoin, idle, Core.prepareAnnexed, some]
  have same : (k.rejoin g t entry like).gang = k.gang ∧ (k.rejoin g t entry like).sstep = g.sstep := by
    simp [Core.rejoin, idle, Core.prepareAnnexed]
  exact ⟨⟨same.1.trans gang, first⟩, same.2, rfl, rfl, ready⟩

theorem Core.score_rejoin (k : Core) (g : Gang) (t : Tour) (entry : Word) (like : Core) :
    (k.rejoin g t entry like).shared.score = k.shared.score := by
  unfold Core.rejoin
  dsimp only
  split <;> rfl

theorem State.resumeWinner_leaves {t : Tour} {i : Nat} {g : Gang} (hg : s.gang i = some g) (held : g.rival = .held)
    (solo : t.solo = true) : (let u := s.resumeWinner t i
    u.gang i = some g.crowned ∧ (∀ j, j ≠ i → u.gang j = s.gang j) ∧ u.tours = s.tours ∧
      (∀ c, (u.core c).shared.score = (s.core c).shared.score) ∧
      ∀ c ∈ g.rect, (s.core c).gang = some i ∧ (s.core c).ts[0].run = .idle →
        (u.core c).Annexed i g (((s.capsule g.ctx g.capsule).map (·.annex)).getD 0)) := by
  obtain ⟨entry, hentry⟩ : ∃ entry, entry = ((s.capsule g.ctx g.capsule).map (·.annex)).getD 0 := ⟨_, rfl⟩
  obtain ⟨like, shape⟩ : ∃ like, s.resumeWinner t i =
      (g.rect.foldl (fun s c => s.modCore c fun k => k.rejoin g t entry like) s).modGang i Gang.crowned := by
    unfold State.resumeWinner
    rw [hg]
    simp only [held, solo, ← hentry]
    exact ⟨_, rfl⟩
  rw [shape, ← hentry]
  have rejoined := State.sameRecords_foldl (f := fun s c => s.modCore c fun k => k.rejoin g t entry like)
    (fun s c => s.sameRecords_modCore ..) g.rect s
  have scores (c : CoreId) : ((g.rect.foldl (fun s c => s.modCore c fun k => k.rejoin g t entry like) s).core c).shared.score =
      (s.core c).shared.score := by
    refine List.foldlRecOn (motive := fun u : State => (u.core c).shared.score = (s.core c).shared.score) _ _ rfl fun u hu d _ => ?_
    rcases u.core_modCore c d fun k => k.rejoin g t entry like with e | e
    · rw [e, hu]
    · rw [e, Core.score_rejoin, hu]
  have annexed {c : CoreId} (hc : c ∈ g.rect) (mine : (s.core c).gang = some i ∧ (s.core c).ts[0].run = .idle) :
      ((g.rect.foldl (fun s c => s.modCore c fun k => k.rejoin g t entry like) s).core c).Annexed i g entry :=
    State.core_foldl_modCore (f := fun _ k => k.rejoin g t entry like) (q := fun k => k.gang = some i ∧ k.ts[0].run = .idle)
      (fun _ h => h.1) (fun _ _ h => Core.annexed_rejoin h g t entry like) hc mine
  generalize g.rect.foldl (fun s c => s.modCore c fun k => k.rejoin g t entry like) s = s₁ at *
  refine ⟨?_, fun j hj => ?_, (State.modGang_tours ..).trans rejoined.2.1, fun c => ?_, fun c hc mine => ?_⟩
  · rw [State.gang_modGang_same, State.gang_congr rejoined.1, hg]
    rfl
  · exact (State.gang_modGang_other hj _).trans (State.gang_congr rejoined.1 j)
  · rw [State.core_modGang, scores]
  · rw [State.core_modGang]
    exact annexed hc mine

end Winning
section Rounds
variable {s : State} {id i j : Nat} {t : Tour} {x y : Gang}

/-- The tournament after its last round. -/
def Tour.finished (t : Tour) (v : Option Tour) : Tour := { v.getD t with k := t.m, solo := true }

/-- After the comparisons of a round its winners go on, or with none the record completes (R170, R172). -/
def State.settleRound (s : State) (id : Nat) (t v : Tour) : State :=
  let left := t.rivals.filter fun i => (s.gang i).isSome
  if left.isEmpty then
    let f := lowestFault v.faults
    s.killRecord t.ctx t.q t.idx 1 f.1.code f.2.1 f.2.2.1 f.2.2.2
  else left.foldl (fun s i => s.resumeWinner v i) { s with tours := s.tours.put id v }

/-- The end of the last round: one comparison, and what follows. -/
theorem State.endRound_eq (found : s.tours.find id = some t) (last : t.m = t.k + 1) : s.endRound id t =
    (s.compareGroups id t t.k 0).settleRound id t (t.finished ((s.compareGroups id t t.k 0).tours.find id)) := by
  have rounds (ends : Bool) : (if ends then (List.range (t.m - t.k)).map (t.k + ·) else [t.k]) = [t.k] := by
    cases ends <;> simp [last]
  have played : s.playRound id t.k = s.compareGroups id t t.k 0 := by
    simp [State.playRound, found, last]
  unfold State.endRound
  extract_lets gs ends rs s₁ final v v' left
  have hs₁ : s₁ = s.compareGroups id t t.k 0 := by
    simp only [s₁, rs, rounds, List.foldl_cons, List.foldl_nil, played]
  have hfinal : final = true := by simp [final, last]
  have hv : v' = t.finished (s₁.tours.find id) := by
    simp only [v', v, hfinal, if_true]
    rfl
  show s₁.settleRound id t v' = _
  rw [hv, hs₁]

theorem State.standing_low (rivals : t.rivals = [i, j]) (hi : s.gang i = some x) (low : x.bidx / 2 ^ t.k = 0) :
    s.standing t t.k 0 = some (i, x) := by
  simp [State.standing, rivals, hi, groupBase, low]

theorem State.standing_high (rivals : t.rivals = [i, j]) (hj : s.gang j = some y) (high : y.bidx / 2 ^ t.k = 1)
    (hi : ∀ x, s.gang i = some x → x.bidx / 2 ^ t.k = 0) : s.standing t t.k (2 ^ t.k) = some (j, y) := by
  have other : ¬ 0 = 2 ^ t.k := (Nat.two_pow_pos t.k).ne
  cases h : s.gang i with
  | none => simp [State.standing, rivals, h, hj, groupBase, high]
  | some x => simp [State.standing, rivals, h, hj, groupBase, high, hi x h, other]

/-- What the end of the last round leaves of its winner w, with a union of the loser's group `lost`. -/
def State.Won (s u : State) (id : Nat) (t : Tour) (why w l : Nat) (g o : Gang) (lost : Nat × Nat × Nat × Nat) : Prop :=
  u.gang l = none ∧
  (∃ v, u.tours.find id = some v ∧ v.solo = true ∧ v.k = t.m) ∧
  ∃ h, u.gang w = some h ∧ h.rival = .ordinary ∧ h.count = 0 ∧ h.rels = h.everyone ∧ h.tasks = g.tasks ∧
    (h.ox, h.oy, h.w, h.h) = t.groupRect (t.k + 1) 0 ∧ h.word = outcomeWord t.k why o.bidx ∧
    (g.ox < 32 → lost.1 + lost.2.2.1 ≤ 32 → (g.ox < lost.1 ∨ lost.1 + lost.2.2.1 ≤ g.ox ∨ g.oy < lost.2.1 ∨
      lost.2.1 + lost.2.2.2 ≤ g.oy) → (u.core h.corner).shared.score = (s.core g.corner).shared.score) ∧
    ∀ a b, a < lost.2.2.1 → b < lost.2.2.2 → CoreId.compute (lost.1 + a) (lost.2.1 + b) ∈ h.rect →
      (let k := u.core (.compute (lost.1 + a) (lost.2.1 + b))
      k.gang = some w ∧ k.sstep = g.sstep ∧ k.gdim = h.gdim ∧ k.brect = h.brect ∧
      ∀ n : Fin 16, n.val < g.sets →
        k.ts[n].pc = ((s.capsule g.ctx g.capsule).map (·.annex)).getD 0 ∧ k.ts[n].run = .idle)

/-- A core outside the group that is wiped shares no entry with it. -/
theorem Tour.apart_groupCores {k base ox oy : Nat} (here : ox < 32) (inside : (t.groupRect k base).1 + (t.groupRect k base).2.2.1 ≤ 32)
    (out : ox < (t.groupRect k base).1 ∨ (t.groupRect k base).1 + (t.groupRect k base).2.2.1 ≤ ox ∨ oy < (t.groupRect k base).2.1 ∨
      (t.groupRect k base).2.1 + (t.groupRect k base).2.2.2 ≤ oy) : ∀ d ∈ t.groupCores k base, CoreId.apart (.compute ox oy) d := by
  intro d hd
  obtain ⟨a, b, ha, hb, rfl⟩ := Tour.mem_groupCores.1 hd
  refine .inr ?_
  simp only [CoreId.key]
  omega

theorem State.won_settleRound {w l b why : Nat} {g o : Gang} (apart : w ≠ l) (held : g.rival = .held)
    (loses : s.standing t t.k b = some (l, o)) (found : s.tours.find id = some t)
    (rivals : t.rivals = [w, l] ∨ t.rivals = [l, w]) (compared : s.compareGroups id t t.k 0 =
      (s.wipeGroup id t t.k b).annex t t.k 0 w g (outcomeWord t.k why o.bidx)) :
    s.Won ((s.compareGroups id t t.k 0).settleRound id t (t.finished ((s.compareGroups id t t.k 0).tours.find id))) id t why w l g o
      (t.groupRect t.k b) := by
  obtain ⟨gangs₁, tours₁, -, capsule₁, reset, score₁⟩ := State.wipeGroup_leaves loses found
  obtain ⟨gangs₂, tours₂, capsule₂, score₂, ts₂, gang₂⟩ :=
    (s.wipeGroup id t t.k b).annex_leaves t t.k 0 w g (outcomeWord t.k why o.bidx)
  rw [compared]
  generalize s.wipeGroup id t t.k b = s₁ at *
  generalize s₁.annex t t.k 0 w g (outcomeWord t.k why o.bidx) = s₂ at *
  obtain ⟨h, hh⟩ : ∃ h, h = g.annexed t t.k 0 (outcomeWord t.k why o.bidx) := ⟨_, rfl⟩
  rw [← hh] at gangs₂ score₂ gang₂
  obtain ⟨v, hv⟩ : ∃ v, v = t.finished (s₂.tours.find id) := ⟨_, rfl⟩
  have winner : s₂.gang w = some h := by rw [State.gang, gangs₂, Table.find_put_same]
  have loser : s₂.gang l = none := by
    rw [State.gang, gangs₂, Table.find_put_other _ _ _ _ apart.symm, gangs₁, Table.find_drop_same]
  have left : t.rivals.filter (fun i => (s₂.gang i).isSome) = [w] := by
    rcases rivals with e | e
    · simp [e, winner, loser]
    · simp [e, winner, loser]
  have settled : s₂.settleRound id t v = ({ s₂ with tours := s₂.tours.put id v } : State).resumeWinner v w := by
    unfold State.settleRound
    rw [left]
    rfl
  have solo : v.solo = true := by rw [hv]; rfl
  obtain ⟨gang₃, others₃, tours₃, score₃, annexed₃⟩ := State.resumeWinner_leaves (s := { s₂ with tours := s₂.tours.put id v })
    (t := v) (i := w) (g := h) winner (by rw [hh]; exact held) solo
  rw [← hv, settled]
  have cores (c : CoreId) : ({ s₂ with tours := s₂.tours.put id v } : State).core c = s₂.core c := State.core_congr rfl rfl rfl c
  refine ⟨(others₃ l apart.symm).trans loser, ⟨v, ?_, solo, by rw [hv]; rfl⟩, h.crowned, gang₃, rfl, rfl, rfl, by rw [hh]; rfl,
    by rw [hh]; rfl, by rw [hh]; rfl, fun here inside out => ?_, fun a c ha hc mine => ?_⟩
  · rw [tours₃]
    exact Table.find_put_same ..
  · have kept := score₁ g.ox g.oy (Tour.apart_groupCores here inside out)
    exact (score₃ _).trans ((congrArg (·.shared.score) (cores _)).trans (score₂.trans kept))
  · have idle : (s₂.core (.compute ((t.groupRect t.k b).1 + a) ((t.groupRect t.k b).2.1 + c))).ts[0].run = .idle := by
      simp [ts₂, reset _ (Tour.mem_groupCores.2 ⟨a, c, ha, hc, rfl⟩)]
    obtain ⟨⟨gang, -⟩, step, gdim, brect, sets⟩ := annexed₃ _ mine ⟨by rw [cores]; exact gang₂ _ mine, by rw [cores]; exact idle⟩
    refine ⟨gang, by rw [step, hh]; rfl, gdim, brect, fun n hn => ?_⟩
    have there := sets n (by rw [hh]; exact hn)
    have same : ({ s₂ with tours := s₂.tours.put id v } : State).capsule h.ctx h.capsule = s.capsule g.ctx g.capsule := by
      refine Eq.trans ?_ ((capsule₂ g.ctx g.capsule).trans (capsule₁ g.ctx g.capsule))
      rw [hh]
      rfl
    rwa [same] at there

end Rounds

section LastRound

theorem Table.not_mem_of_find_eq_none {α : Type} {t : Table α} {k : Nat} (h : t.find k = none) (v : α) : (k, v) ∉ t := by
  induction t with
  | nil => exact List.not_mem_nil
  | cons e r ih =>
    obtain ⟨i, w⟩ := e
    rw [Table.find] at h
    split at h
    · cases h
    next other =>
      rintro (_ | ⟨_, there⟩)
      · exact other rfl
      · exact ih h there

theorem Table.find_eq_none_of_subset {α : Type} {t u : Table α} {k : Nat} (sub : ∀ e ∈ t, e ∈ u) (h : u.find k = none) :
    t.find k = none := by
  cases e : t.find k with
  | none => rfl
  | some v => exact absurd (sub _ (Table.find_mem e)) (Table.not_mem_of_find_eq_none h v)

variable {s : State} {id i j : Nat} {t : Tour} {x y : Gang}

/-- Two rivals that contend are compared by their scores, then by their counts, then by their places (R169). -/
theorem State.compareGroups_held (low : s.standing t t.k 0 = some (i, x)) (high : s.standing t t.k (2 ^ t.k) = some (j, y))
    (hx : x.rival = .held) (hy : y.rival = .held) : s.compareGroups id t t.k 0 =
      (let r := beats (s.core x.corner).shared.score.toInt (s.core y.corner).shared.score.toInt x.count y.count x.bidx y.bidx
      if r.1 then (s.wipeGroup id t t.k (2 ^ t.k)).annex t t.k 0 i x (outcomeWord t.k r.2 y.bidx)
      else (s.wipeGroup id t t.k 0).annex t t.k 0 j y (outcomeWord t.k r.2 x.bidx)) := by
  have cx : x.contends = true := by simp [Gang.contends, hx]
  have cy : y.contends = true := by simp [Gang.contends, hy]
  unfold State.compareGroups
  simp only [Nat.zero_add, low, high, Option.filter_some, cx, cy, if_true]

/-- Two faulted rivals are both wiped (R172). -/
theorem State.compareGroups_faulted (low : s.standing t t.k 0 = some (i, x)) (high : s.standing t t.k (2 ^ t.k) = some (j, y))
    (hx : x.rival = .faulted) (hy : y.rival = .faulted) :
    s.compareGroups id t t.k 0 = (s.wipeGroup id t t.k 0).wipeGroup id t t.k (2 ^ t.k) := by
  have cx : x.contends = false := by simp [Gang.contends, hx]
  have cy : y.contends = false := by simp [Gang.contends, hy]
  unfold State.compareGroups
  simp [low, high, Option.filter_some, cx, cy]

/-- The higher score wins, then the lower count, then the lower place. -/
theorem beats_eq (a b : Int) (m n p q : Nat) : beats a b m n p q =
    (decide (b < a ∨ a = b ∧ (m < n ∨ m = n ∧ p < q)), if a ≠ b then 0 else if m ≠ n then 1 else 2) := by
  unfold beats
  by_cases ab : a = b
  · by_cases mn : m = n
    · simp [ab, mn]
    · simp [ab, mn]
  · simp [ab]

theorem endRound_held (found : s.tours.find id = some t) (last : t.m = t.k + 1) (rivals : t.rivals = [i, j]) (apart : i ≠ j)
    (hi : s.gang i = some x) (hj : s.gang j = some y) (low : x.bidx / 2 ^ t.k = 0) (high : y.bidx / 2 ^ t.k = 1)
    (hx : x.rival = .held) (hy : y.rival = .held) :
    (let score (g : Gang) : Int := (s.core g.corner).shared.score.toInt
    let first : Prop := score y < score x ∨ score x = score y ∧ (x.count < y.count ∨ x.count = y.count ∧ x.bidx < y.bidx)
    let why : Nat := if score x ≠ score y then 0 else if x.count ≠ y.count then 1 else 2
    (first → s.Won (s.endRound id t) id t why i j x y (t.groupRect t.k (2 ^ t.k))) ∧
      (¬ first → s.Won (s.endRound id t) id t why j i y x (t.groupRect t.k 0))) := by
  intro score first why
  have stands := State.standing_low rivals hi low
  have falls := State.standing_high rivals hj high fun z hz => by
    rw [hi] at hz
    cases hz
    exact low
  have compared := State.compareGroups_held (id := id) stands falls hx hy
  rw [beats_eq] at compared
  rw [State.endRound_eq found last]
  refine ⟨fun wins => ?_, fun loses => ?_⟩
  · exact State.won_settleRound apart hx falls found (.inl rivals) (compared.trans (if_pos (decide_eq_true wins)))
  · refine State.won_settleRound apart.symm hy stands found (.inr rivals) (compared.trans (if_neg ?_))
    exact fun wins => loses (of_decide_eq_true wins)

theorem endRound_faulted (found : s.tours.find id = some t) (last : t.m = t.k + 1) (rivals : t.rivals = [i, j]) (apart : i ≠ j)
    (hi : s.gang i = some x) (hj : s.gang j = some y) (low : x.bidx / 2 ^ t.k = 0) (high : y.bidx / 2 ^ t.k = 1)
    (f : Cause × Word × Word × Bool) (hx : x.rival = .faulted) (hy : y.rival = .faulted) (fault : x.fault = some f) (fresh : t.faults = [])
    (order : y.bidx > x.bidx) : (let u := s.endRound id t
    u.gang i = none ∧ u.gang j = none ∧ (∀ e ∈ u.tours, ¬ (e.2.ctx = t.ctx ∧ e.2.q = t.q ∧ e.2.idx = t.idx)) ∧
    ∀ c v, s.ctx t.ctx = some c → c.queues.find t.q = some v →
      ∃ z, u.queue t.ctx t.q = some z ∧ z.err = 1 ∧ z.errIdx = t.idx ∧ z.xcause = f.1.code ∧ z.xpc = f.2.1 ∧
        z.xval = f.2.2.1) := by
  have stands := State.standing_low rivals hi low
  have falls := State.standing_high rivals hj high fun z hz => by
    rw [hi] at hz
    cases hz
    exact low
  rw [State.endRound_eq found last, State.compareGroups_faulted stands falls hx hy]
  obtain ⟨gangs₁, tours₁, queue₁, -⟩ := State.wipeGroup_leaves stands found
  generalize s.wipeGroup id t t.k 0 = s₁ at *
  have gone : s₁.gang i = none := by rw [State.gang, gangs₁, Table.find_drop_same]
  have there : s₁.gang j = some y := by
    rw [State.gang, gangs₁, Table.find_drop_other _ _ _ apart.symm]
    exact hj
  have falls : s₁.standing t t.k (2 ^ t.k) = some (j, y) := State.standing_high rivals there high fun z hz => by
    rw [gone] at hz
    cases hz
  obtain ⟨gangs₂, tours₂, queue₂, -⟩ := State.wipeGroup_leaves falls tours₁
  generalize s₁.wipeGroup id t t.k (2 ^ t.k) = s₂ at *
  have goneI : s₂.gang i = none := by
    rw [State.gang, gangs₂, Table.find_drop_other _ _ _ apart]
    exact gone
  have goneJ : s₂.gang j = none := by rw [State.gang, gangs₂, Table.find_drop_same]
  have lowest : lowestFault (t.finished (s₂.tours.find id)).faults = f := by
    rw [tours₂]
    simp only [Tour.finished, Option.getD_some, Tour.noteFault, fresh, fault, Option.toList_some, List.map_cons, List.map_nil]
    cases y.fault with
    | none => rfl
    | some f' => simp [lowestFault, Nat.not_lt.2 (Nat.le_of_lt order)]
  have settled : s₂.settleRound id t (t.finished (s₂.tours.find id)) =
      s₂.killRecord t.ctx t.q t.idx 1 f.1.code f.2.1 f.2.2.1 f.2.2.2 := by
    unfold State.settleRound
    simp [rivals, goneI, goneJ, lowest]
  rw [settled]
  obtain ⟨gangs, tours, -, -, own⟩ := s₂.killRecord_leaves t.ctx t.q t.idx 1 f.1.code f.2.1 f.2.2.1 f.2.2.2
  refine ⟨?_, ?_, fun e he => (tours e he).2, fun c v hc hv => ?_⟩
  · exact Table.find_eq_none_of_subset (fun e he => (gangs e he).1) goneI
  · exact Table.find_eq_none_of_subset (fun e he => (gangs e he).1) goneJ
  · have queue : s₂.queue t.ctx t.q = some v := by
      rw [queue₂, queue₁, State.queue, hc]
      exact hv
    rw [own, queue]
    exact ⟨_, rfl, rfl, rfl, rfl, rfl, rfl⟩

end LastRound

/-- Settles O41: when each event acts, by its conditions; what a rollback, a teardown and the end of the last round leave, each step of
them followed through. -/
theorem recoveryEvents : Obligations.RecoveryEvents := by
  unfold Obligations.RecoveryEvents
  refine ⟨fun s gid g hg => ⟨superstepRollback_acts hg, watchdog_acts hg, fun id t => watchdog_acts_of_tour hg,
    fun id t => allowanceExhausted_acts hg, fun id t => roundEnd_acts, waitBoundExpiry_acts s⟩,
    ⟨rollBack_leaves, Core.rollBack_restores⟩, teardown_leaves, ?_⟩
  intro s id i j t x y found last rivals apart hi hj low high
  refine ⟨fun hx hy => ?_, fun f hx hy fault fresh order => ?_⟩
  · exact endRound_held found last rivals apart hi hj low high hx hy
  · exact endRound_faulted found last rivals apart hi hj low high f hx hy fault fresh order

end Sys2Proof.Machine
end

section
/-! What LWOPEN, LWCLOSE and LWDUE check and do, and what a release leaves of a window. -/
namespace Sys2Proof.Machine

section Checks

theorem outside_eq_none_iff {base limit lo hi : Int} : outside base limit lo hi = none ↔ base ≤ lo ∧ hi < limit := by
  unfold outside
  split_ifs <;> simp <;> omega

theorem minOpt_some_ne_none (a : Option Int) (x : Int) : minOpt a (some x) ≠ none := by
  cases a <;> simp [minOpt]

/-- A search for the lowest of the places that a test finds in a list ends with none where the test finds nothing. -/
theorem foldl_minOpt_eq_none_iff {α : Type} {p : α → Prop} [DecidablePred p] {f : α → Int} (l : List α) (acc : Option Int) :
    l.foldl (fun acc a => if p a then minOpt acc (some (f a)) else acc) acc = none ↔ acc = none ∧ ∀ a ∈ l, ¬ p a := by
  induction l generalizing acc with
  | nil => simp
  | cons a r ih =>
    rw [List.foldl_cons, ih, List.forall_mem_cons]
    by_cases h : p a
    · simp [h, minOpt_some_ne_none]
    · simp [h]

/-- What R52 asks of a new window. -/
def State.Opens (s : State) (base : Int) (len : Nat) : Prop :=
  let b := s.windowBounds s.who
  let ws := s.here.shared.windows
  (b.1 ≤ base ∧ base + (max len 1 : Nat) - 1 < b.2) ∧ (base % 8 = 0 ∧ len % 8 = 0 ∧ len ≠ 0 ∧ len ≤ Config.lsTop) ∧
    (∀ w ∈ ws, ¬ (base < w.base + w.len ∧ (w.base : Int) < base + len)) ∧ ws.length < Config.windowEntries

theorem State.openCheck_of_opens {s : State} {base : Int} {len : Nat} (h : s.Opens base len) : s.openCheck base len = .ok () := by
  obtain ⟨inside, form, apart, room⟩ := h
  have clear := (foldl_minOpt_eq_none_iff (f := fun w : Window => (w.base : Int)) _ none).2 ⟨rfl, apart⟩
  unfold State.openCheck
  dsimp only
  rw [outside_eq_none_iff.2 inside]
  dsimp only
  rw [if_neg (by omega), show State.core s s.who.core = s.here from rfl, clear]
  exact if_neg (Nat.not_le.2 room)

/-- Each check of LWOPEN that fails is a PROT (R52, R255). -/
theorem State.openCheck_of_not_opens {s : State} {base : Int} {len : Nat} (h : ¬ s.Opens base len) :
    ∃ xval, s.openCheck base len = .error (.trap .prot xval) := by
  unfold State.openCheck
  dsimp only
  split
  next => exact ⟨_, rfl⟩
  next inside =>
    split
    next => exact ⟨_, rfl⟩
    next form =>
      split
      next => exact ⟨_, rfl⟩
      next clear =>
        split
        next => exact ⟨_, rfl⟩
        next room =>
          have apart := ((foldl_minOpt_eq_none_iff (f := fun w : Window => (w.base : Int)) _ none).1 clear).2
          exact absurd ⟨outside_eq_none_iff.1 inside, by omega, apart, Nat.not_le.1 room⟩ h

end Checks

section Windows
variable {s : State} {h : Hdr} {a : SPair} {b : SReg} {imm : Imm} {x : DWord} {n : Word} {w : Window}

theorem exec_lwopen_of_opens (now log : Bool) (on : s.on h) (base : s.me.readP a = .ok x) (len : s.me.readS b = .ok n)
    (may : s.Opens (ea x imm 0) n.toNat) :
    exec (.lwopen h now log a b imm) s = ((s.modShared s.who.core fun q => { q with windows := q.windows ++
      [{ base := (ea x imm 0).toNat, len := n.toNat, arm := if now then s.here.sstep else s.here.sstep + 1, log := log }]
      }).modTs s.who fun t => (t.killP h.dmA a).killS h.dmB b).done := by
  have base : (s.ts s.who).readP a = .ok x := base
  have len : (s.ts s.who).readS b = .ok n := len
  show execLwopen h now log a b imm s = _
  exact State.run_on on (by simp only [base, len, State.openCheck_of_opens may, bind, Except.bind, State.modShared_who]; rfl)

theorem exec_lwopen_of_not_opens (now log : Bool) (on : s.on h) (base : s.me.readP a = .ok x) (len : s.me.readS b = .ok n)
    (may : ¬ s.Opens (ea x imm 0) n.toNat) : ∃ xval, exec (.lwopen h now log a b imm) s = s.traps .prot xval := by
  have base : (s.ts s.who).readP a = .ok x := base
  have len : (s.ts s.who).readS b = .ok n := len
  obtain ⟨xval, stop⟩ := State.openCheck_of_not_opens may
  refine ⟨xval, ?_⟩
  show execLwopen h now log a b imm s = _
  exact State.run_stops on (by simp only [base, len, stop, bind, Except.bind])

theorem State.namedWindow_of_find {base : Int} (found : s.here.shared.windows.find? (fun w => (w.base : Int) == base) = some w)
    (low : (s.windowBounds s.who).1 ≤ w.base) (high : (w.base : Int) + w.len ≤ (s.windowBounds s.who).2) :
    s.namedWindow base = .ok w := by
  have found : (s.core s.who.core).shared.windows.find? (fun w => (w.base : Int) == base) = some w := found
  simp only [State.namedWindow, found, low, high, and_self, if_true]

theorem exec_lwclose_of_named (on : s.on h) (base : s.me.readP a = .ok x) (named : s.namedWindow (ea x imm 0) = .ok w)
    (closes : w.state ≠ .closing) : exec (.lwclose h a imm) s =
      ((s.modShared s.who.core fun q => q.modWindow w.base fun w =>
        if w.state = .readable then none else some { w with state := .closing, expect := none }).modTs s.who fun t =>
          t.killP h.dmA a).done := by
  have base : (s.ts s.who).readP a = .ok x := base
  show execLwclose h a imm s = _
  exact State.run_on on (by simp only [base, named, if_neg closes, bind, Except.bind, State.modShared_who])

theorem exec_lwdue_of_named (on : s.on h) (base : s.me.readP a = .ok x) (count : s.me.readS b = .ok n)
    (named : s.namedWindow (ea x imm 0) = .ok w) (accepts : w.state = .accepting)
    (may : 8 ≤ n.toNat ∧ n.toNat ≤ Config.lsTop ∧ n.toNat % 8 = 0 ∧ w.count ≤ n.toNat) : exec (.lwdue h a b imm) s =
      ((s.modShared s.who.core fun q => q.modWindow w.base fun w =>
        some { w with expect := some n.toNat, state := if w.count = n.toNat then .complete else .due }).modTs s.who
          fun t => (t.killP h.dmA a).killS h.dmB b).done := by
  have base : (s.ts s.who).readP a = .ok x := base
  have count : (s.ts s.who).readS b = .ok n := count
  have passes : ¬ (w.state ≠ .accepting ∨ n.toNat < 8 ∨ Config.lsTop < n.toNat ∨ n.toNat % 8 ≠ 0 ∨ n.toNat < w.count) := by
    rw [accepts]
    simp
    omega
  show execLwdue h a b imm s = _
  exact State.run_on on (by simp only [base, count, named, if_neg passes, bind, Except.bind, State.modShared_who])

end Windows

/-- Settles O16: LWOPEN adds its window where R52 allows it, LWCLOSE and LWDUE change the window that they name, and a release goes by
the window's state. -/
theorem landingWindows : Obligations.LandingWindows := by
  unfold Obligations.LandingWindows
  refine ⟨fun s h now log a b imm x n on base len => ?_, fun w old => ⟨fun st => ?_, ?_, ?_, ?_⟩⟩
  · extract_lets p ws lo hi step
    refine ⟨fun ⟨low, high, aligned, whole, pos, most, room, apart⟩ => ?_, fun w found low high => ?_⟩
    · refine exec_lwopen_of_opens now log on base len ⟨⟨low, ?_⟩, ⟨aligned, whole, by omega, most⟩, fun w hw meets => ?_, room⟩
      · show p + (max n.toNat 1 : Nat) - 1 < hi
        omega
      · have := apart w hw
        omega
    · have named := State.namedWindow_of_find found low high
      exact ⟨exec_lwclose_of_named on base named, fun ⟨accepts, may⟩ => exec_lwdue_of_named on base len named accepts may⟩
  · simp [Window.released, st]
  · rintro (st | st) arm <;> simp [Window.released, st, arm]
  · rintro (st | st) arm <;> simp [Window.released, st, arm]
  · rintro (st | st) <;> simp [Window.released, st]

/-- Settles O17: each of the cases is one that R52 does not allow, and LWOPEN raises PROT in all of those. -/
theorem windowRefused : Obligations.WindowRefused := by
  unfold Obligations.WindowRefused
  intro s h now log a b imm x n on base len p ws refused
  refine exec_lwopen_of_not_opens now log on base len fun ⟨⟨low, high⟩, _, apart, room⟩ => ?_
  have low : max 0 (s.me.pwbase.toNat : Int) ≤ p := low
  have high : p + (max n.toNat 1 : Nat) - 1 < min (storeTop s.who.core : Int) s.me.pwlim.toNat := high
  rcases refused with below | above | ⟨w, hw, meets⟩ | full
  · omega
  · omega
  · exact apart w hw meets
  · exact absurd room (Nat.not_lt.2 full)

end Sys2Proof.Machine
end

section
/-! How a payload is cut into packets, and what SEND and SENDOP send. -/
namespace Sys2Proof.Machine

section Cutting
variable {dst : Nat}

/-- Enough fuel to cut what is left from an offset on: one piece for each 256-byte block of the destination. -/
def CutFuel (dst fuel off left : Nat) : Prop := left = 0 ∨ left + (dst + off) % 256 ≤ 256 * fuel

/-- The first piece ends where the payload or the 256-byte block does. -/
theorem cutPackets_succ {off left : Nat} (fuel : Nat) (h : left ≠ 0) : cutPackets dst (fuel + 1) off left =
    (let n := min left (256 - (dst + off) % 256)
    (off, n) :: cutPackets dst fuel (off + n) (left - n)) := if_neg h

theorem cutFuel_next {fuel off left : Nat} (enough : CutFuel dst (fuel + 1) off left) :
    (let n := min left (256 - (dst + off) % 256)
    CutFuel dst fuel (off + n) (left - n)) := by
  unfold CutFuel at *
  omega

/-- The pieces, put together, are the payload. -/
theorem flatMap_cutPackets {α : Type} (bs : List α) {fuel off left : Nat} (enough : CutFuel dst fuel off left) :
    ((cutPackets dst fuel off left).flatMap fun c => (bs.drop c.1).take c.2) = (bs.drop off).take left := by
  induction fuel generalizing off left with
  | zero =>
    have none : left = 0 := by
      unfold CutFuel at enough
      omega
    simp [none, cutPackets]
  | succ fuel ih =>
    by_cases h : left = 0
    · simp [h, cutPackets]
    · rw [cutPackets_succ fuel h, List.flatMap_cons, ih (cutFuel_next enough), ← List.drop_drop, ← List.take_add]
      congr 1
      omega

/-- No piece is empty or crosses a multiple of 256, and each lies within the payload (R57). -/
theorem mem_cutPackets {fuel off left : Nat} {c : Nat × Nat} (hc : c ∈ cutPackets dst fuel off left) :
    0 < c.2 ∧ (dst + c.1) / 256 = (dst + c.1 + c.2 - 1) / 256 ∧ c.1 + c.2 ≤ off + left := by
  induction fuel generalizing off left with
  | zero => cases hc
  | succ fuel ih =>
    by_cases h : left = 0
    · simp [h, cutPackets] at hc
    · rw [cutPackets_succ fuel h] at hc
      obtain rfl | hc := List.mem_cons.1 hc
      · dsimp only
        omega
      · have := ih hc
        omega

/-- Each piece begins where those before it end, all but the first at a multiple of 256 (R57). -/
theorem getElem?_cutPackets {fuel off left i : Nat} {c : Nat × Nat} (hc : (cutPackets dst fuel off left)[i]? = some c) :
    c.1 = off + (((cutPackets dst fuel off left).take i).map (·.2)).sum ∧ (0 < i → (dst + c.1) % 256 = 0) := by
  induction fuel generalizing off left i with
  | zero => simp [cutPackets] at hc
  | succ fuel ih =>
    by_cases h : left = 0
    · simp [h, cutPackets] at hc
    · rw [cutPackets_succ fuel h] at hc ⊢
      cases i with
      | zero =>
        cases hc
        simp
      | succ i =>
        obtain ⟨begins, aligned⟩ := ih hc
        refine ⟨by simp [begins, Nat.add_assoc], fun _ => ?_⟩
        obtain rfl | pos := Nat.eq_zero_or_pos i
        · have := mem_cutPackets (List.mem_of_getElem? hc)
          simp only [List.take_zero, List.map_nil, List.sum_nil] at begins
          omega
        · exact aligned pos

end Cutting

section Packets
variable (snd : Sender) (number : Nat) (tag : Word) (set x y dst src : Nat) (bs : List Byte) (sendop : Bool) (op : BankOp)
  (el : Elem) (mc : Bool)

/-- The packet of a piece of a payload: its offset and its length. -/
def packetOf (c : Nat × Nat) : Packet :=
  { id := 0, sender := snd, number := number, tag := tag, untagged := false, x := x, y := y, addr := dst + c.1
    bytes := (bs.drop c.1).take c.2, src := src + c.1, sendop := sendop, op := op, el := el, set := set, mcast := mc }

/-- The pieces of a payload. -/
def payloadCuts : List (Nat × Nat) := cutPackets dst (bs.length / 256 + 2) 0 bs.length

theorem packetsTo_eq : packetsTo snd number tag set x y dst src bs sendop op el mc =
    (payloadCuts dst bs).map (packetOf snd number tag set x y dst src bs sendop op el mc) := rfl

variable {dst bs}

theorem flatMap_payloadCuts : ((payloadCuts dst bs).flatMap fun c => (bs.drop c.1).take c.2) = bs := by
  refine (flatMap_cutPackets bs (.inr ?_)).trans (by simp)
  omega

theorem length_piece {c : Nat × Nat} (hc : c ∈ payloadCuts dst bs) : ((bs.drop c.1).take c.2).length = c.2 := by
  obtain ⟨-, -, inside⟩ := mem_cutPackets hc
  rw [List.length_take, List.length_drop]
  omega

end Packets

/-- What the packets of a payload carry, and where each lies (R57). -/
theorem packetsTo_spec (snd : Sender) (number : Nat) (tag : Word) (set x y dst src : Nat) (bs : List Byte) (sendop : Bool)
    (op : BankOp) (el : Elem) (mc : Bool) :
    (let ps := packetsTo snd number tag set x y dst src bs sendop op el mc
    (ps.flatMap fun p => p.bytes) = bs ∧
    (∀ i p, ps[i]? = some p →
      (let before := ((ps.take i).map fun q => q.bytes.length).sum
      p.addr = dst + before ∧ p.src = src + before ∧ (0 < i → p.addr % 256 = 0))) ∧
    (∀ p ∈ ps, 0 < p.bytes.length ∧ p.addr / 256 = (p.addr + p.bytes.length - 1) / 256 ∧ p.src - src = p.addr - dst ∧
      p.tag = tag ∧ p.x = x ∧ p.y = y ∧ p.number = number)) := by
  intro ps
  simp only [ps, packetsTo_eq]
  refine ⟨?_, fun i p hp => ?_, fun p hp => ?_⟩
  · rw [List.flatMap_map]
    exact flatMap_payloadCuts
  · rw [List.getElem?_map] at hp
    obtain ⟨c, hc, rfl⟩ := Option.map_eq_some_iff.1 hp
    obtain ⟨begins, aligned⟩ := getElem?_cutPackets hc
    have lengths : ((((payloadCuts dst bs).map (packetOf snd number tag set x y dst src bs sendop op el mc)).take i).map
        fun q => q.bytes.length).sum = c.1 := by
      rw [← List.map_take, List.map_map, begins, Nat.zero_add]
      exact congrArg List.sum (List.map_congr_left fun c hc => length_piece (List.mem_of_mem_take hc))
    rw [lengths]
    exact ⟨rfl, rfl, aligned⟩
  · obtain ⟨c, hc, rfl⟩ := List.mem_map.1 hp
    obtain ⟨pos, within, -⟩ := mem_cutPackets hc
    rw [show (packetOf snd number tag set x y dst src bs sendop op el mc c).bytes.length = c.2 from length_piece hc]
    refine ⟨pos, within, ?_, rfl, rfl, rfl, rfl⟩
    simp only [packetOf]
    omega

section Sending
variable {s : State} {h : Hdr} {len : SendLen} {a : SPair} {b c : SReg} {imm : Imm} {x : DWord} {dst crd : Word} {n px py : Nat}
  {bs : List Byte}

/-- The length that a send names is n (R256). -/
def ThreadSet.Names (t : ThreadSet) (n : Nat) : SendLen → Prop
  | .imm v => n = 8 * (v.toNat + 1)
  | .reg d => ∃ v, t.readS d = .ok v ∧ v.toNat = n

/-- A send that every check of R256 passes, and that does not have to wait (R62), is launched. -/
theorem State.sendBody_eq (base : s.me.readP a = .ok x) (target : s.me.readS b = .ok dst) (core : s.me.readS c = .ok crd)
    (length : s.me.Names n len) (pos : 0 < n) (whole : n % 8 = 0) (most : n ≤ 65536) (srcAligned : ea x imm 0 % 8 = 0)
    (dstAligned : dst.toNat % 8 = 0) (form : crd.toNat < 65536)
    (place : s.coreNamed s.who (crd.toNat % 256) (crd.toNat / 256 % 256) = some (px, py))
    (may : s.access s.who [(ea x imm 0, n)] = .ok ()) (room : s.me.sendsFull = false)
    (loaded : s.loadBytes s.who (ea x imm 0).toNat n = .ok bs) (sendop : Bool) (op : BankOp) (el : Elem) :
    (let ps := packetsTo (s.senderOf s.who) (s.me.sendCount + 1) s.here.sstep s.who.t.val px py dst.toNat (ea x imm 0).toNat bs
      sendop op el false
    s.sendBody h len a b c imm sendop op el = .ok ((s.launch ps).modTs s.who fun t =>
      (((t.openSend ps.length false).killP h.dmA a).killS h.dmB b).killS h.dmC c, .seq)) := by
  have base : (s.ts s.who).readP a = .ok x := base
  have target : (s.ts s.who).readS b = .ok dst := target
  have core : (s.ts s.who).readS c = .ok crd := core
  have room : ¬ (s.ts s.who).sendsFull = true := by
    rw [show (s.ts s.who).sendsFull = false from room]
    simp
  have size : ¬ (n = 0 ∨ n % 8 ≠ 0 ∨ 65536 < n) := by omega
  have named : crd.toNat / 65536 = 0 := by omega
  cases len
  case' imm v => have length : 8 * (v.toNat + 1) = n := length.symm
  case' reg d =>
    obtain ⟨v, length, rfl⟩ := length
    have length : (s.ts s.who).readS d = .ok v := length
  all_goals
    simp only [State.sendBody, base, target, core, length, bind, Except.bind, if_neg size, srcAligned, dstAligned, named, place, may,
      if_neg room, loaded, ne_eq, not_true_eq_false, if_false, if_true]
    rfl

end Sending

/-- Settles O18: SEND and SENDOP are one body, and their packets are the pieces of the payload. -/
theorem sends : Obligations.Sends := by
  unfold Obligations.Sends
  refine ⟨fun s h op el len a b c imm x dst crd n px py bs on base target core length => ?_, packetsTo_spec⟩
  intro src pos whole most srcAligned dstAligned form place may room loaded ps after
  have length : s.me.Names n len := by
    cases len <;> exact length
  have sent (sendop : Bool) (op : BankOp) (el : Elem) :
      s.run h (fun s => s.sendBody h len a b c imm sendop op el) = after (ps sendop op el) :=
    State.run_on on
      (State.sendBody_eq base target core length pos whole most srcAligned dstAligned form place may room loaded sendop op el)
  exact ⟨sent false .write .b64, sent true op el⟩

end Sys2Proof.Machine
end

section
/-! Subscriptions and scores, BAR, BARQ, CHRON and the timelines. -/
namespace Sys2Proof.Machine

section Subscribing
variable {s : State} {h : Hdr} {a b : SReg} {p : SPair} {spec base : Word} {v : DWord}

theorem exec_subscribe_of_check (on : s.on h) (hspec : s.me.readS a = .ok spec) (hbase : s.me.readS b = .ok base)
    (may : s.subscribeCheck spec base = .ok ()) :
    (let tag := spec.toNat % 65536
    let chan := spec.toNat / 65536 % 32
    let stack := spec.toNat / 2 ^ 21 % 8
    exec (.subscribe h a b) s = (((s.modShared s.who.core fun q => { q with subs := q.subs ++
      [{ tag := tag, stack := stack, chan := chan, base := base.toNat, active := false, leaving := false }]
      }).launchJoin s.who tag stack chan false).modTs s.who fun t => (t.killS h.dmA a).killS h.dmB b).done) := by
  have hspec : (s.ts s.who).readS a = .ok spec := hspec
  have hbase : (s.ts s.who).readS b = .ok base := hbase
  show execSubscribe h a b s = _
  exact State.run_on on (by simp only [hspec, hbase, may, bind, Except.bind, State.modShared_who])

theorem exec_unsubscribe_of_find {e : Subscription} (on : s.on h) (hspec : s.me.readS a = .ok spec)
    (found : s.here.shared.subs.find? (fun e => e.tag == spec.toNat % 65536 && !e.leaving) = some e)
    (form : spec.toNat < 65536) : exec (.unsubscribe h a) s =
      (((s.modShared s.who.core fun q => { q with subs := q.subs.filterMap fun u =>
        if u.tag = spec.toNat % 65536 ∧ ¬ u.leaving then (if u.active then some { u with leaving := true } else none) else some u
        }).launchJoin s.who (spec.toNat % 65536) e.stack e.chan true).modTs s.who fun t => t.killS h.dmA a).done := by
  have hspec : (s.ts s.who).readS a = .ok spec := hspec
  have found : (s.core s.who.core).shared.subs.find? (fun e => e.tag == spec.toNat % 65536 && !e.leaving) = some e := found
  have form : ¬ spec.toNat / 65536 ≠ 0 := by omega
  show execUnsubscribe h a s = _
  exact State.run_on on (by simp only [hspec, found, if_neg form, bind, Except.bind, State.modShared_who])

theorem exec_tscore_of_tour {g : Gang} (on : s.on h) (value : s.me.readP p = .ok v) (mine : s.gangOf s.who = some g)
    (tour : g.tour.isSome = true) (room : s.me.sendsFull = false) :
    (let score : ScorePkt :=
      { id := s.nextId, sender := s.senderOf s.who, number := s.me.sendCount + 1, tag := s.here.sstep, x := g.ox
        y := g.oy, value := v }
    exec (.tscore h p) s = ({ s with scores := s.scores ++ [score], nextId := s.nextId + 1 }.modTs s.who fun t =>
      (t.openSend 1 false).killP h.dmA p).done) := by
  have value : (s.ts s.who).readP p = .ok v := value
  have room : ¬ (s.ts s.who).sendsFull = true := by
    rw [show (s.ts s.who).sendsFull = false from room]
    simp
  show execTscore h p s = _
  exact State.run_on on (by
    simp only [value, mine, Option.filter_some, tour, if_true, if_neg room, bind, Except.bind]
    rfl)

theorem exec_tscore_of_no_tour (on : s.on h) (value : s.me.readP p = .ok v)
    (none : ∀ g, s.gangOf s.who = some g → g.tour = none) : exec (.tscore h p) s = s.traps .illegal 7 := by
  have value : (s.ts s.who).readP p = .ok v := value
  have alone : (s.gangOf s.who).filter (fun g => g.tour.isSome) = .none := by
    rw [Option.filter_eq_none_iff]
    intro g hg
    simp [none g hg]
  show execTscore h p s = _
  exact State.run_stops on (by simp only [value, alone, bind, Except.bind])

end Subscribing

section Waiting
variable {s : State} {h : Hdr} {d a : SReg} {r : VReg} {p : SPair} {sel : Fin 8} {x : Word} {y : DWord}

theorem exec_bar (on : s.on h) (outside : s.me.inh = false) : exec (.bar h) s = .next (s.stopped (.hold .atBar)) := by
  have outside : (s.ts s.who).inh = false := outside
  show execBar h s = _
  exact State.run_stops on (by simp [outside])

theorem exec_bar_inh (on : s.on h) (inside : s.me.inh = true) : exec (.bar h) s = s.traps .illegal 5 := by
  have inside : (s.ts s.who).inh = true := inside
  show execBar h s = _
  exact State.run_stops on (by simp [inside])

theorem exec_barq (on : s.on h) (free : s.me.freeS d = .ok ()) : exec (.barq h d) s = s.becomes (s.me.putS d s.barqWord) := by
  have free : (s.ts s.who).freeS d = .ok () := free
  show execBarq h d s = _
  exact State.run_on on (by simp only [free, bind, Except.bind]; rfl)

theorem exec_chron (on : s.on h) (index : s.me.readS a = .ok x) (free : s.me.freeV r = .ok ()) :
    exec (.chron h r a) s = s.becomes ((s.me.killS h.dmA a).putV r
      (BitVec.ofNat 256 (((s.here.shared.chron.ring.find (x.toNat % 512)).getD 0).toNat
        + s.here.shared.chron.head * 2 ^ 128 + s.here.shared.chron.lost * 2 ^ 160)) .ut) := by
  have index : (s.ts s.who).readS a = .ok x := index
  have free : (s.ts s.who).freeV r = .ok () := free
  show execChron h r a s = _
  exact State.run_on on (by simp only [index, free, bind, Except.bind]; rfl)

theorem exec_tlwait_reached (on : s.on h) (value : s.me.readP p = .ok y) (reached : y.toNat ≤ s.timeline s.who sel.val) :
    exec (.tlwait h sel p) s = s.becomes ((s.me.killP h.dmA p).reached sel.val y.toNat) := by
  have value : (s.ts s.who).readP p = .ok y := value
  show execTlwait h sel p s = _
  exact State.run_on on (by simp only [value, if_pos reached, bind, Except.bind]; rfl)

theorem exec_tlwait_waits (on : s.on h) (value : s.me.readP p = .ok y) (short : s.timeline s.who sel.val < y.toNat) :
    exec (.tlwait h sel p) s = .next (s.stopped (.hold (.atTlwait sel.val y.toNat))) := by
  have value : (s.ts s.who).readP p = .ok y := value
  show execTlwait h sel p s = _
  exact State.run_stops on (by simp only [value, if_neg (Nat.not_le.2 short), bind, Except.bind])

theorem exec_tlread (on : s.on h) (free : s.me.freeP p = .ok ()) :
    exec (.tlread h sel p) s = s.becomes (s.me.putP p (BitVec.ofNat 64 (s.timeline s.who sel.val))) := by
  have free : (s.ts s.who).freeP p = .ok () := free
  show execTlread h sel p s = _
  exact State.run_on on (by simp only [free, bind, Except.bind]; rfl)

end Waiting

section BarqWord
variable {s : State}

/-- A number from its low bits, lowest first, and what stands above them. -/
def packBits : List Bool → Nat → Nat
  | [], high => high
  | b :: r, high => b.toNat + 2 * packBits r high

theorem testBit_packBits {bs : List Bool} {i : Nat} (hi : i < bs.length) (high : Nat) : (packBits bs high).testBit i = bs[i] := by
  induction bs generalizing i with
  | nil => cases hi
  | cons b r ih =>
    cases i with
    | zero => cases b <;> simp [packBits, Nat.testBit_zero]
    | succ i =>
      rw [Nat.testBit_succ, packBits, show (b.toNat + 2 * packBits r high) / 2 = packBits r high by have := b.toNat_le; omega]
      exact ih (by simpa using hi)

theorem packBits_div (bs : List Bool) (high : Nat) : packBits bs high / 2 ^ bs.length = high := by
  induction bs with
  | nil => simp [packBits]
  | cons b r ih =>
    rw [List.length_cons, Nat.pow_succ', ← Nat.div_div_eq_div_mul, packBits,
      show (b.toNat + 2 * packBits r high) / 2 = packBits r high by have := b.toNat_le; omega]
    exact ih

theorem ite_pow_eq (b : Bool) (n : Nat) : (if b = true then n else 0) = n * b.toNat := by
  cases b <;> simp

/-- The sets of a compute core that have arrived or retired, or were not started (R261). -/
def Core.arrivedSets (k : Core) : List Bool := [k.ts[0], k.ts[1], k.ts[2], k.ts[3]].map ThreadSet.arrivedOrRetired

/-- The same of a set of a memory core, through the task that it holds. -/
def Core.arrivedTask (k : Core) (i : Fin 2) : Bool :=
  match k.running[i.val] with
  | none => true
  | some slot => (k.ts.toList.getD slot { }).arrivedOrRetired

theorem State.barqWord_of_not_memory (hm : s.who.core.isMemory = false) :
    (let due := (s.here.shared.windows.filter fun w => w.state == .due).length
    let out := (s.me.sends.filter fun o => !o.join).length
    s.barqWord = BitVec.ofNat 32 (packBits s.here.arrivedSets (due * 2 ^ 12 + out * 2 ^ 4))) := by
  intro due out
  have set (i : Nat) (hi : i < 16) : s.here.ts.toList.getD i { } = s.here.ts[i] := by
    rw [List.getD_eq_getElem _ _ (by simpa using hi), Vector.getElem_toList]
  have word : s.barqWord = BitVec.ofNat 32 (due * 2 ^ 16 + out * 2 ^ 8
      + (if (s.here.ts.toList.getD 0 { }).arrivedOrRetired = true then 2 ^ 0 else 0)
      + (if (s.here.ts.toList.getD 1 { }).arrivedOrRetired = true then 2 ^ 1 else 0)
      + (if (s.here.ts.toList.getD 2 { }).arrivedOrRetired = true then 2 ^ 2 else 0)
      + (if (s.here.ts.toList.getD 3 { }).arrivedOrRetired = true then 2 ^ 3 else 0)) := by
    unfold State.barqWord
    simp only [hm, Bool.false_eq_true, if_false]
    rfl
  rw [word, set 0 (by omega), set 1 (by omega), set 2 (by omega), set 3 (by omega)]
  simp only [ite_pow_eq, Core.arrivedSets, List.map_cons, List.map_nil, packBits]
  congr 1
  omega

theorem State.barqWord_of_memory (hm : s.who.core.isMemory = true) :
    s.barqWord = BitVec.ofNat 32 (packBits [s.here.arrivedTask 0, s.here.arrivedTask 1]
      (min 255 (s.me.sends.filter fun o => o.left != 0).length * 2 ^ 6)) := by
  have holder (i : Fin 2) : s.here.running.toList.getD i.val none = s.here.running[i.val] := by
    rw [List.getD_eq_getElem _ _ (by simp; omega), Vector.getElem_toList]
  have bit (i : Fin 2) (n : Nat) : (match s.here.running.toList.getD i.val none with
      | none => n
      | some slot => if (s.here.ts.toList.getD slot { }).arrivedOrRetired = true then n else 0) =
        n * (s.here.arrivedTask i).toNat := by
    rw [holder, ← ite_pow_eq]
    unfold Core.arrivedTask
    cases s.here.running[i.val] with
    | none => rfl
    | some slot => rfl
  have word : s.barqWord = BitVec.ofNat 32 (min 255 (s.me.sends.filter fun o => o.left != 0).length * 2 ^ 8
      + 2 ^ 0 * (s.here.arrivedTask 0).toNat + 2 ^ 1 * (s.here.arrivedTask 1).toNat) := by
    rw [← bit 0, ← bit 1]
    unfold State.barqWord
    rw [if_pos hm]
    rfl
  rw [word]
  simp only [packBits]
  congr 1
  omega

/-- The low bits of a word, and what stands above them. -/
theorem packBits_word (bs : List Bool) (high : Nat) (fits : bs.length ≤ 32) : (let q := BitVec.ofNat 32 (packBits bs high)
    (∀ (i : Nat) (hi : i < bs.length), q.getLsbD i = bs[i]) ∧ q.toNat / 2 ^ bs.length = high % 2 ^ (32 - bs.length)) := by
  refine ⟨fun i hi => ?_, ?_⟩
  · rw [BitVec.getLsbD_ofNat, testBit_packBits hi, decide_eq_true (by omega), Bool.true_and]
  · rw [BitVec.toNat_ofNat, show 2 ^ 32 = 2 ^ bs.length * 2 ^ (32 - bs.length) by rw [← Nat.pow_add, Nat.add_sub_cancel' fits],
      Nat.mod_mul_right_div_self, packBits_div]

end BarqWord

section Timelines

/-- A climb ends no lower than it began, and over finished numbers alone. -/
theorem climb_between (fuel v : Nat) (done : List Nat) :
    v ≤ climb fuel v done ∧ ∀ n, v < n → n ≤ climb fuel v done → n ∈ done := by
  induction fuel generalizing v with
  | zero => exact ⟨Nat.le_refl v, fun n low high => absurd low (Nat.not_lt.2 high)⟩
  | succ fuel ih =>
    unfold climb
    split
    next finished =>
      obtain ⟨low, between⟩ := ih (v + 1)
      refine ⟨by omega, fun n above below => ?_⟩
      obtain rfl | above := Nat.eq_or_lt_of_le above
      · simpa using finished
      · exact between n above below
    next => exact ⟨Nat.le_refl v, fun n low high => absurd low (Nat.not_lt.2 high)⟩

/-- A climb that could go on has used up its fuel. -/
theorem climb_of_mem (fuel v : Nat) (done : List Nat) (more : climb fuel v done + 1 ∈ done) : climb fuel v done = v + fuel := by
  induction fuel generalizing v with
  | zero => rfl
  | succ fuel ih =>
    unfold climb at more ⊢
    split at more
    next finished => rw [if_pos finished, ih (v + 1) more]; omega
    next stop => exact absurd (by simpa using more) stop

/-- With as much fuel as there are numbers, a climb ends where the unbroken run does: going on, it would have met more numbers than
there are. -/
theorem climb_succ_not_mem (v : Nat) (done : List Nat) : climb done.length v done + 1 ∉ done := by
  intro more
  obtain ⟨-, between⟩ := climb_between done.length v done
  have full := climb_of_mem done.length v done more
  have sub : List.range' (v + 1) (done.length + 1) ⊆ done := by
    intro n hn
    obtain ⟨above, below⟩ := List.mem_range'_1.1 hn
    obtain rfl | inside : n = climb done.length v done + 1 ∨ n ≤ climb done.length v done := by omega
    · exact more
    · exact between n above inside
  have := ((List.nodup_range' 1).subperm sub).length_le
  rw [List.length_range'] at this
  omega

end Timelines

/-- Settles O19: each instruction passes the checks that its hypotheses name; the word of BARQ is read off its fields, and a timeline
climbs as far as its run of finished numbers goes. -/
theorem subscriptionsAndBarriers : Obligations.SubscriptionsAndBarriers := by
  unfold Obligations.SubscriptionsAndBarriers
  refine ⟨fun s h a b p spec base v on hspec => ⟨?_, ?_, ?_, ?_⟩,
    fun s h d a v p sel x y on => ⟨?_, ?_, fun free => ?_, ?_, ?_, ?_, ?_⟩, fun v done _ => ?_⟩
  · exact exec_subscribe_of_check on hspec
  · exact fun e found form => exec_unsubscribe_of_find on hspec found form
  · exact fun g value mine tour room => exec_tscore_of_tour on value mine tour room
  · exact fun none value => exec_tscore_of_no_tour on value none
  · exact exec_bar on
  · exact exec_bar_inh on
  · refine ⟨_, exec_barq on free, fun hm => ?_, fun hm => ?_⟩
    · rw [State.barqWord_of_not_memory hm]
      generalize (s.here.shared.windows.filter fun w => w.state == .due).length = due
      generalize (s.me.sends.filter fun o => !o.join).length = out
      obtain ⟨low, high⟩ := packBits_word s.here.arrivedSets (due * 2 ^ 12 + out * 2 ^ 4) (by simp [Core.arrivedSets])
      have high : _ / 2 ^ 4 = _ % 2 ^ 28 := high
      refine ⟨fun i => ?_, by omega, ?_⟩
      · rw [low i i.isLt]
        match i with
        | 0 | 1 | 2 | 3 => rfl
      · intro fewDue fewOut
        omega
    · rw [State.barqWord_of_memory hm]
      generalize (s.me.sends.filter fun o => o.left != 0).length = out
      obtain ⟨low, high⟩ := packBits_word [s.here.arrivedTask 0, s.here.arrivedTask 1] (min 255 out * 2 ^ 6) (by simp)
      have high : _ / 2 ^ 2 = _ % 2 ^ 30 := high
      refine ⟨fun i => ?_, by omega, by omega⟩
      rw [low i i.isLt]
      match i with
      | 0 | 1 =>
        unfold Core.arrivedTask
        rfl
  · exact exec_chron on
  · exact exec_tlwait_reached on
  · exact exec_tlwait_waits on
  · exact exec_tlread on
  · obtain ⟨low, between⟩ := climb_between done.length v done
    exact ⟨low, between, climb_succ_not_mem v done⟩

end Sys2Proof.Machine
end

section
/-! Packets that land, are refused or come back, and what a landing writes. -/
namespace Sys2Proof.Machine

section Events
variable {s : State} {id : Nat}

/-- The packets of a send to one core, and the refusals that answer for them. -/
def Packet.refusedBy (p : Packet) (r : RefusalPkt) : Bool :=
  r.sender == p.sender && r.number == p.number && r.x == p.x && r.y == p.y

/-- A refusal sets out for a packet, or an earlier one stands for it too (R60). -/
theorem State.refuse_leaves (s : State) (p : Packet) : (let t := s.refuse p
    t.packets = s.packets ∧ (∀ c, t.core c = s.core c) ∧ t.refusals.any p.refusedBy = true) := by
  unfold State.refuse
  dsimp only
  split
  next again =>
    refine ⟨rfl, State.core_congr rfl rfl rfl, ?_⟩
    obtain ⟨r, hr, same⟩ := List.any_eq_true.1 again
    refine List.any_eq_true.2 ⟨_, List.mem_map.2 ⟨r, hr, rfl⟩, ?_⟩
    rw [if_pos same]
    exact same
  next => exact ⟨rfl, State.core_congr rfl rfl rfl, by simp [Packet.refusedBy]⟩

/-- The window that takes a packet whole; none takes one that stands behind a refusal (R58, R60). -/
def State.takes (s : State) (p : Packet) : Option Window :=
  if s.refusals.any p.refusedBy then none else (s.core (.compute p.x p.y)).accepts (p.arriving s)

section Turn
variable {p : Packet} (found : s.packets.find? (fun p => p.id == id) = some p) (live : s.liveGang p.sender.gang = true)
  (first : s.firstInLine p.sender p.number p.x p.y id = true)
include found live first

theorem exec_packetArrival_of_takes {w : Window} (taken : s.takes p = some w) : exec (.packetArrival id) s =
    .next (({ s with packets := s.packets.filter fun q => q.id != id }.land (.compute p.x p.y) (p.arriving s) w).landedAt
      p.sender p.number 1) := by
  show execPacketArrival id s = _
  unfold execPacketArrival
  simp only [found, live, first, Bool.or_true, Bool.and_self, if_true]
  split
  next e =>
    cases taken.symm.trans e
    rfl
  next e => cases taken.symm.trans e

theorem exec_packetArrival_of_refused (refused : s.takes p = none) : exec (.packetArrival id) s =
    .next (({ s with packets := s.packets.filter fun q => q.id != id }.modCore (.compute p.x p.y) Core.numberPacket).refuse p) := by
  show execPacketArrival id s = _
  unfold execPacketArrival
  simp only [found, live, first, Bool.or_true, Bool.and_self, if_true]
  split
  next e => cases refused.symm.trans e
  next => rfl

end Turn

/-- A score reaches the origin core, which keeps the one before it where that belongs to its shadow (R165, R493). -/
def Core.takeScore (k : Core) (p : ScorePkt) : Core :=
  { k with
    earlyScore :=
      if (p.tag = k.sstep + 1 ∨ k.ts[0].run = RunState.idle) ∧ k.earlyScore = none then some k.shared.score else k.earlyScore
    shared := { k.shared with score := p.value } }.numberPacket

theorem exec_scoreArrival_of_first {p : ScorePkt} (found : s.scores.find? (fun p => p.id == id) = some p)
    (live : s.liveGang p.sender.gang = true)
    (packets : ∀ q ∈ s.packets, q.sender = p.sender → q.x = p.x → q.y = p.y → p.number ≤ q.number)
    (scores : ∀ q ∈ s.scores, q.sender = p.sender → p.number ≤ q.number) : exec (.scoreArrival id) s =
      .next (({ s with scores := s.scores.filter fun q => q.id != id }.modCore (.compute p.x p.y) (·.takeScore p)).landedAt
        p.sender p.number 1) := by
  have before : (s.packets.any fun q =>
      q.sender == p.sender && q.x == p.x && q.y == p.y && decide (q.number < p.number)) = false := by
    rw [List.any_eq_false]
    intro q hq
    simp only [Bool.and_eq_true, beq_iff_eq, decide_eq_true_eq]
    rintro ⟨⟨⟨sender, x⟩, y⟩, less⟩
    exact absurd less (Nat.not_lt.2 (packets q hq sender x y))
  have earlier : (s.scores.any fun q => q.sender == p.sender && decide (q.number < p.number)) = false := by
    rw [List.any_eq_false]
    intro q hq
    simp only [Bool.and_eq_true, beq_iff_eq, decide_eq_true_eq]
    rintro ⟨sender, less⟩
    exact absurd less (Nat.not_lt.2 (scores q hq sender))
  show execScoreArrival id s = _
  unfold execScoreArrival
  simp only [found, live, before, earlier, Bool.not_false, Bool.and_self, if_true]
  rfl

/-- A refusal that returns answers for what is still on its way to its core, and raises SENDREFUSED once for a send (R60). -/
theorem exec_refusalReturn_of_stays {r : RefusalPkt} {o : OpenSend} (found : s.refusals.find? (fun r => r.id == id) = some r)
    (live : s.liveGang r.sender.gang = true) (mine : s.sendOf r.sender r.number = some o)
    (stays : s.senderStays r.sender = true) :
    (let mine (p : Packet) : Bool := p.sender == r.sender && p.number == r.number && p.x == r.x && p.y == r.y
    let n := r.count + (s.packets.filter mine).length
    let back : State := { s with
      packets := s.packets.filter fun p => !mine p, refusals := s.refusals.filter fun q => q.id != id }
    let told := (back.modTs r.sender.who fun t => { t with sends := t.sends.map fun (u : OpenSend) =>
      if u.number = r.number then { u with returned := true } else u }).landedAt r.sender r.number n
    exec (.refusalReturn id) s =
      .next (if o.returned && !r.mcast then told else told.sendRefused r.sender o.xpc r.xval)) := by
  intro of n back told
  have name : r.id = id := by simpa using List.find?_some found
  have stays' : back.senderStays r.sender = true := stays
  show execRefusalReturn id s = _
  unfold execRefusalReturn State.refusalBack
  simp only [found, live, if_true, name, mine]
  simp only [back] at stays'
  rw [if_pos stays']

section Joins
variable {p : JoinPkt} {x y : Nat} (found : s.joins.find? (fun p => p.id == id) = some p) (core : p.sender.core = .compute x y)
include found core

theorem exec_joinPacket_of_leave (leave : p.leave = true) : exec (.joinPacket id) s =
    .next ({ s with
      joins := s.joins.filter fun q => q.id != id
      routers := s.leaveRouters p.tag x y (pushRoute p.stack p.chan x y).reverse }.landedAt p.sender p.number 1) := by
  show execJoinPacket id s = _
  unfold execJoinPacket
  simp only [found, core, leave, if_true]
  rfl

theorem exec_joinPacket_of_join {rs : List RouterTag} (join : p.leave = false)
    (room : joinRouters p.tag s.routers (pushRoute p.stack p.chan x y).reverse = (rs, false)) : exec (.joinPacket id) s =
      .next ({ s with joins := s.joins.filter fun q => q.id != id, routers := rs }.landedAt p.sender p.number 1) := by
  show execJoinPacket id s = _
  unfold execJoinPacket
  simp only [found, core, join, room, Bool.false_eq_true, if_false]

/-- A join that meets a full table leaves the bits that it has set, and a refusal sets out (R69). -/
theorem exec_joinPacket_of_full {rs : List RouterTag} (join : p.leave = false)
    (full : joinRouters p.tag s.routers (pushRoute p.stack p.chan x y).reverse = (rs, true)) :
    ∃ t : State, exec (.joinPacket id) s = .next t ∧ t.routers = rs ∧ t.joins = s.joins.filter (fun q => q.id != id) ∧
      (∃ r ∈ t.refusals, r.sender = p.sender ∧ r.number = p.number ∧ r.xval = BitVec.ofNat 32 p.tag) := by
  show ∃ t, execJoinPacket id s = .next t ∧ _
  unfold execJoinPacket
  simp only [found, core, join, full, Bool.false_eq_true, if_false]
  exact ⟨_, rfl, rfl, rfl, _, List.mem_append_right _ (List.mem_singleton_self _), rfl, rfl, rfl⟩

end Joins

end Events

section Landing
variable {s : State} {k : Core} {a : Arriving}

theorem length_combineWord (a : Arriving) (old : List Byte) {new : List Byte} (h : new.length = 8) :
    (combineWord a old new).length = 8 := by
  unfold combineWord
  split
  · simp only [List.length_flatMap, length_leBytes, List.map_const', List.sum_replicate, List.length_range, smul_eq_mul]
    cases a.el <;> rfl
  · exact h

/-- What a word that lands leaves of the store: the bytes of its word combined, or the store as it was where poison stops it. -/
theorem Core.landWord_store (k : Core) (a : Arriving) (off : Nat) : (k.landWord a off).store =
    if k.wordMet a off then k.store
    else k.store.writeN (a.addr + off) (combineWord a (k.store.readN (a.addr + off) 8) ((a.bytes.drop off).take 8)) := by
  simp only [Core.landWord, Core.putTwin_store]
  split
  · rfl
  · split <;> rfl

theorem Mem.writeN_append (m : Mem) (p : Nat) (bs cs : List Byte) :
    m.writeN p (bs ++ cs) = (m.writeN p bs).writeN (p + bs.length) cs := by
  induction bs generalizing m p with
  | nil => rfl
  | cons b r ih =>
    simp only [List.cons_append, Mem.writeN, ih, List.length_cons]
    congr 1
    omega

/-- The words of an arrival land in ascending order. -/
def Core.landWords (k : Core) (a : Arriving) (n : Nat) : Core := (List.range n).foldl (fun k i => k.landWord a (8 * i)) k

theorem Core.landWords_succ (k : Core) (a : Arriving) (n : Nat) : k.landWords a (n + 1) = (k.landWords a n).landWord a (8 * n) := by
  rw [Core.landWords, List.range_succ, List.foldl_append]
  rfl

variable {n : Nat} (fits : 8 * n ≤ a.bytes.length)
include fits

/-- An arrival writes no byte outside its range. -/
theorem Core.read_landWords_other (k : Core) {x : Nat} (outside : x < a.addr ∨ a.addr + 8 * n ≤ x) :
    (k.landWords a n).store.read x = k.store.read x := by
  induction n with
  | zero => rfl
  | succ n ih =>
    rw [Core.landWords_succ, Core.landWord_store]
    split
    · exact ih (by omega) (by omega)
    · rw [Mem.read_writeN_other, ih (by omega) (by omega)]
      rw [length_combineWord a _ (by rw [List.length_take, List.length_drop]; omega)]
      omega

/-- A packet that stores writes its words in order from its address (R58). -/
theorem Core.landWords_store (k : Core) (plain : a.sendop = false) :
    (k.landWords a n).store = k.store.writeN a.addr (a.bytes.take (8 * n)) := by
  induction n with
  | zero => rfl
  | succ n ih =>
    have met (k : Core) : k.wordMet a (8 * n) = false := by simp [Core.wordMet, Arriving.meets, plain]
    rw [Core.landWords_succ, Core.landWord_store, met, if_neg Bool.false_ne_true, ih (by omega), Nat.mul_succ, List.take_add,
      Mem.writeN_append, List.length_take, Nat.min_eq_left (by omega)]
    simp [combineWord, plain]

end Landing

section LandCore
variable (s : State)

/-- An error consumed marks its gang and is counted. -/
@[simp] theorem State.core_consumeAt (w : Who) (d : CoreId) (src : ErrSrc) (inject : Option Nat) (addr : Nat) (c : CoreId) :
    (s.consumeAt w d src inject addr).core c = s.core c := by
  obtain ⟨compute, memory, control⟩ : (s.consumeAt w d src inject addr).compute = s.compute ∧
      (s.consumeAt w d src inject addr).memory = s.memory ∧ (s.consumeAt w d src inject addr).control = s.control := by
    unfold State.consumeAt
    split
    · simp
    · cases src with
      | parity => dsimp only; split <;> simp
      | _ => simp
  exact State.core_congr compute memory control c

@[simp] theorem State.core_makeNonroll (g : Nat) (c : CoreId) : (s.makeNonroll g).core c = s.core c := by
  obtain ⟨compute, memory, control⟩ : (s.makeNonroll g).compute = s.compute ∧ (s.makeNonroll g).memory = s.memory ∧
      (s.makeNonroll g).control = s.control := by
    unfold State.makeNonroll
    split
    · split <;> simp
    · simp
  exact State.core_congr compute memory control c

/-- The words of an arrival are all that a landing writes to the core's store. -/
theorem State.land_store (c : CoreId) (a : Arriving) (w : Window) : ∃ k : Core, k.store = (s.core c).store ∧
    ((s.land c a w).core c).store = (k.landWords a (a.bytes.length / 8)).store := by
  unfold State.land
  extract_lets hit k₀ k₁ seq n who plated r bad unit at' k₂ k₃ k₄ s₁ s₂
  have hk₁ : k₁.store = k₀.store := Core.elim_store _ fun _ => rfl
  have hr : r.1.store = k₁.store := by
    unfold r
    split_ifs <;> simp [Core.plateFor_store]
  have hk₃ : k₃.store = k₂.store := Core.elim_store _ fun _ => rfl
  have hs₁ : s₁.core c = k₄ := s.core_setCore_same c k₄
  have hs₂ : s₂.core c = k₄ := by
    unfold s₂
    split <;> simp [hs₁]
  refine ⟨r.1, hr.trans hk₁, ?_⟩
  have hk₄ : k₄.store = k₂.store := (Core.numberPacket_store ..).trans hk₃
  split
  · split <;> simp [hs₂, hk₄, k₂, Core.landWords, n]
  · simp [hs₂, hk₄, k₂, Core.landWords, n]

end LandCore

theorem land_writes (s : State) (c : CoreId) (a : Arriving) (w : Window) (n : Nat) (wf : (s.core c).store.wf = true)
    (length : a.bytes.length = 8 * n) :
    (∀ x, x < a.addr ∨ a.addr + 8 * n ≤ x → ((s.land c a w).core c).store.read x = (s.core c).store.read x) ∧
    (a.sendop = false → ∀ i, i < 8 * n → some (((s.land c a w).core c).store.read (a.addr + i)) = a.bytes[i]?) := by
  obtain ⟨k, before, after⟩ := s.land_store c a w
  rw [after, ← before, length, Nat.mul_div_cancel_left n (by omega)]
  rw [← before] at wf
  refine ⟨fun x => Core.read_landWords_other length.ge k, fun plain i hi => ?_⟩
  rw [Core.landWords_store length.ge k plain, ← length, List.take_length]
  exact Mem.read_writeN_same wf a.addr a.bytes (length ▸ hi)

/-- Settles O37: each event, once its condition holds, is followed through; a landing writes the words of its packet and nothing else. -/
theorem packetEvents : Obligations.PacketEvents := by
  unfold Obligations.PacketEvents
  refine ⟨fun s id => ⟨fun p found live first => ?_, fun r o found live mine stays => ?_, fun p found live packets scores => ?_,
    fun p x y found core => ?_⟩, fun s c a w n wf length _ => land_writes s c a w n wf length⟩
  · refine ⟨fun w taken => exec_packetArrival_of_takes found live first taken, fun refused => ?_⟩
    refine ⟨_, exec_packetArrival_of_refused found live first refused, ?_⟩
    obtain ⟨packets, cores, answered⟩ := State.refuse_leaves
      ({ s with packets := s.packets.filter fun q => q.id != id }.modCore (.compute p.x p.y) Core.numberPacket) p
    exact ⟨packets.trans (State.modCore_packets ..), (cores _).trans (State.core_modCore_same ..), answered⟩
  · exact exec_refusalReturn_of_stays found live mine stays
  · refine ⟨_, exec_scoreArrival_of_first found live packets scores, State.modCore_scores .., ?_⟩
    rw [State.core_modCore_same]
    exact ⟨rfl, rfl, rfl⟩
  · exact ⟨exec_joinPacket_of_leave found core, fun join rs => exec_joinPacket_of_join found core join,
      fun join rs => exec_joinPacket_of_full found core join⟩

end Sys2Proof.Machine
end

section
/-! What a record holds of a Flinum, and how it reads back. -/
namespace Sys2Proof.Machine

section Fields

theorem leNat_leBytes (n x : Nat) : leNat (leBytes n x) = x % 256 ^ n := by
  induction n generalizing x with
  | zero => simp [leBytes, leNat, Nat.mod_one]
  | succ n ih =>
    rw [leBytes, leNat, ih, BitVec.toNat_ofNat, pow_succ' 256 n]
    exact (Nat.mod_mul ..).symm

theorem bytesAt_append_middle (p q r : List Byte) : bytesAt (p ++ (q ++ r)) p.length q.length = q := by
  refine List.ext_getElem (by simp [bytesAt]) fun i _ hi => ?_
  have inside : (p ++ (q ++ r))[p.length + i]? = q[i]? := by
    rw [List.getElem?_append_right (by omega), Nat.add_sub_cancel_left, List.getElem?_append_left hi]
  simp [bytesAt, inside, hi]

/-- A field reads back from its place in a list of bytes. -/
theorem fieldAt_append_leBytes {p : List Byte} {a : Nat} (at_ : p.length = a) (n x : Nat) (r : List Byte) :
    fieldAt (p ++ (leBytes n x ++ r)) a n = x % 256 ^ n := by
  have field := bytesAt_append_middle p (leBytes n x) r
  rw [at_, length_leBytes] at field
  rw [fieldAt, field, leNat_leBytes]

end Fields

section Limbs
variable {v : Flinum}

/-- A number is put together again from its digits to the base 2^32, the most significant first. -/
theorem foldl_digits {L n : Nat} (h : n < 2 ^ (32 * L)) {k : Nat} (hk : k ≤ L) :
    (List.range k).foldl (fun acc i => acc * 2 ^ 32 + n / 2 ^ (32 * (L - 1 - i)) % 2 ^ 32) 0 = n / 2 ^ (32 * (L - k)) := by
  induction k with
  | zero => exact (Nat.div_eq_of_lt h).symm
  | succ k ih =>
    have place : 32 * (L - k) = 32 * (L - (k + 1)) + 32 := by omega
    have next : L - 1 - k = L - (k + 1) := by omega
    rw [List.range_succ, List.foldl_append, ih (by omega), place, Nat.pow_add, ← Nat.div_div_eq_div_mul]
    simp only [List.foldl_cons, List.foldl_nil, next]
    exact Nat.div_add_mod' _ _

/-- Limb i of the significand, limb 0 its most significant (R96). -/
def Flinum.limb (v : Flinum) (i : Nat) : Nat := v.sig / 2 ^ (32 * (v.limbs - 1 - i)) % 2 ^ 32

/-- The first word of a record (R108). -/
def Flinum.header (v : Flinum) : Nat :=
  v.exp.toNat + (v.limbs - 1) % 16 * 2 ^ 24 + v.cls.code * 2 ^ 28 + (if v.neg then 2 ^ 31 else 0)

/-- Some of the limbs as a record holds them (R108). -/
def Flinum.limbBytes (v : Flinum) (is : List Nat) : List Byte := is.flatMap fun i => leBytes 4 (v.limb i)

theorem flRecord_eq (v : Flinum) : flRecord v = leBytes 4 v.header ++ v.limbBytes (List.range v.limbs) := rfl

theorem Flinum.length_limbBytes (v : Flinum) (is : List Nat) : (v.limbBytes is).length = 4 * is.length := by
  induction is with
  | nil => rfl
  | cons i is ih => simp [Flinum.limbBytes, length_leBytes] at ih ⊢; omega

theorem length_flRecord (v : Flinum) : (flRecord v).length = 4 + 4 * v.limbs := by
  simp [flRecord_eq, length_leBytes, Flinum.length_limbBytes]

theorem fieldAt_flRecord_limb {i : Nat} (hi : i < v.limbs) : fieldAt (flRecord v) (4 + 4 * i) 4 = v.limb i := by
  obtain ⟨k, hk⟩ := Nat.exists_eq_add_of_lt hi
  have split : List.range v.limbs = List.range i ++ i :: (List.range k).map (i + 1 + ·) := by
    rw [hk, Nat.add_right_comm, List.range_add, List.range_succ, List.append_assoc, List.singleton_append]
  have record : flRecord v = (leBytes 4 v.header ++ v.limbBytes (List.range i)) ++
      (leBytes 4 (v.limb i) ++ v.limbBytes ((List.range k).map (i + 1 + ·))) := by
    simp [flRecord_eq, split, Flinum.limbBytes]
  rw [record, fieldAt_append_leBytes (by simp [length_leBytes, Flinum.length_limbBytes])]
  exact Nat.mod_mod _ _

/-- The limbs of a record make up the significand (R108). -/
theorem sig_of_flRecord (h : v.sig < 2 ^ (32 * v.limbs)) :
    (List.range v.limbs).foldl (fun acc i => acc * 2 ^ 32 + fieldAt (flRecord v) (4 + 4 * i) 4) 0 = v.sig := by
  rw [List.foldl_ext _ (fun acc i => acc * 2 ^ 32 + v.limb i) 0 fun acc i hi => by
    rw [fieldAt_flRecord_limb (List.mem_range.1 hi)]]
  exact (foldl_digits h le_rfl).trans (by simp)

end Limbs

section Header
variable (v : Flinum)

theorem FClass.ofCode_code (c : FClass) : FClass.ofCode c.code = some c := by cases c <;> rfl

/-- CLASS has three bits (R108). -/
theorem FClass.code_lt (c : FClass) : c.code < 8 := by cases c <;> decide

theorem Flinum.header_lt : v.header < 2 ^ 32 := by
  have exp := v.exp.isLt
  have cls := v.cls.code_lt
  unfold Flinum.header
  split <;> omega

theorem Flinum.header_exp : v.header % 2 ^ 24 = v.exp.toNat := by
  have exp := v.exp.isLt
  unfold Flinum.header
  split <;> omega

theorem Flinum.header_limbs (low : 1 ≤ v.limbs) (high : v.limbs ≤ 16) : v.header / 2 ^ 24 % 16 + 1 = v.limbs := by
  have exp := v.exp.isLt
  unfold Flinum.header
  split <;> omega

theorem Flinum.header_class : v.header / 2 ^ 28 % 8 = v.cls.code := by
  have exp := v.exp.isLt
  have cls := v.cls.code_lt
  unfold Flinum.header
  split <;> omega

theorem Flinum.header_sign : v.header.testBit 31 = v.neg := by
  have exp := v.exp.isLt
  have cls := v.cls.code_lt
  rw [Nat.testBit_eq_decide_div_mod_eq]
  unfold Flinum.header
  cases v.neg <;> simp <;> omega

theorem fieldAt_flRecord_header : fieldAt (flRecord v) 0 4 = v.header := by
  have field := fieldAt_append_leBytes (p := []) rfl 4 v.header (v.limbBytes (List.range v.limbs))
  rw [flRecord_eq]
  exact field.trans (Nat.mod_eq_of_lt v.header_lt)

variable {v}

theorem headLimbs_flRecord (low : 1 ≤ v.limbs) (high : v.limbs ≤ 16) : headLimbs (flRecord v) = v.limbs := by
  have bytes : leBytes 4 v.header = leBytes 3 v.header ++ leBytes 1 (v.header / 2 ^ 24) := by
    simp [leBytes, Nat.div_div_eq_div_mul]
  rw [headLimbs, flRecord_eq, bytes, List.append_assoc, fieldAt_append_leBytes (length_leBytes 3 _)]
  have limbs := v.header_limbs low high
  omega

end Header

section Reading
variable {v : Flinum} {bs : List Byte}

/-- The fields of a record (R108) are those of v. -/
structure Flinum.IsHeldIn (v : Flinum) (bs : List Byte) : Prop where
  sign : (fieldAt bs 0 4).testBit 31 = v.neg
  code : fieldAt bs 0 4 / 2 ^ 28 % 8 = v.cls.code
  limbs : headLimbs bs = v.limbs
  exp : fieldAt bs 0 4 % 2 ^ 24 = v.exp.toNat
  sig : (List.range v.limbs).foldl (fun acc i => acc * 2 ^ 32 + fieldAt bs (4 + 4 * i) 4) 0 = v.sig

theorem Flinum.isHeldIn_flRecord (low : 1 ≤ v.limbs) (high : v.limbs ≤ 16) (fits : v.sig < 2 ^ (32 * v.limbs)) :
    v.IsHeldIn (flRecord v) where
  sign := (congrArg (Nat.testBit · 31) (fieldAt_flRecord_header v)).trans v.header_sign
  code := (congrArg (· / 2 ^ 28 % 8) (fieldAt_flRecord_header v)).trans v.header_class
  limbs := headLimbs_flRecord low high
  exp := (congrArg (· % 2 ^ 24) (fieldAt_flRecord_header v)).trans v.header_exp
  sig := sig_of_flRecord fits

theorem Flinum.IsHeldIn.parse_normal (h : v.IsHeldIn bs) (cls : v.cls = .normal) (exp : v.exp ≠ 0)
    (lead : 2 ^ (32 * v.limbs - 1) ≤ v.sig) : parseRecord bs = .ok v := by
  obtain ⟨sign, code, limbs, ex, sig⟩ := h
  unfold parseRecord
  simp only [sign, code, limbs, ex, sig, FClass.ofCode_code]
  obtain ⟨neg, _, e, L, n⟩ := v
  subst cls
  have field : ¬ (e.toNat = 0 ∨ n < 2 ^ (32 * L - 1)) := by
    rintro (zero | short)
    · exact exp (BitVec.eq_of_toNat_eq zero)
    · exact absurd lead (Nat.not_le.2 short)
  simp [if_neg field]

/-- A value that is not normal has neither exponent nor significand, and a quiet NaN no sign (R96). -/
theorem Flinum.IsHeldIn.parse_special (h : v.IsHeldIn bs) (cls : v.cls ≠ .normal) (exp : v.exp = 0) (zero : v.sig = 0)
    (quiet : v.cls = .qnan → v.neg = false) : parseRecord bs = .ok v := by
  obtain ⟨sign, code, limbs, ex, sig⟩ := h
  unfold parseRecord
  simp only [sign, code, limbs, ex, sig, FClass.ofCode_code]
  obtain ⟨neg, c, _, L, _⟩ := v
  subst exp zero
  cases c with
  | normal => exact absurd rfl cls
  | qnan => simpa [flSpecial] using quiet
  | zero | inf | snan => simp [flSpecial]

end Reading

end Sys2Proof.Machine
end

section
/-! The window of the Flinum registers, FPREC, FREL and FLEN, and the records that LDF, FLDC and STF move. -/
namespace Sys2Proof.Machine

section Slots
variable {s : State} {w : Who} {t : ThreadSet} {a d : FReg} {k i n : Nat} {v y : Flinum}

theorem State.refill_of_resident (resident : (s.ts w).f[a] = .resident k v) (skip : List FReg) :
    s.refill w skip [a] = .ok s := by
  simp only [State.refill, resident]

theorem ThreadSet.valF_of_resident (resident : t.f[a] = .resident k v) : t.valF a = v := by
  simp only [ThreadSet.valF, resident]

theorem ThreadSet.checkF_of_resident (resident : t.f[a] = .resident k v) : t.checkF a = .ok () := by
  simp only [ThreadSet.checkF, resident]

theorem ThreadSet.checkF_of_dead (dead : t.f[a] = .dead) :
    t.checkF a = if t.deadZero then .ok () else .error (.trap .deadread (BitVec.ofNat 32 a.val)) := by
  simp only [ThreadSet.checkF, dead]

theorem ThreadSet.flNum_valF_of_dead (dead : t.f[a] = .dead) : flNum (t.valF a) = .fin false 0 0 := by
  simp only [ThreadSet.valF, dead]
  rfl

/-- The run that first fit finds lies in the window and meets no resident register's. -/
theorem ThreadSet.firstFit_spec (fit : t.firstFit n = some i) :
    i + n ≤ 256 ∧ ∀ r ∈ t.runs, i + n ≤ r.1 ∨ r.1 + r.2 ≤ i := by
  have free := List.find?_some fit
  have window : i < 256 + 1 - n := List.mem_range.1 (List.mem_of_find?_eq_some fit)
  exact ⟨by omega, fun r hr => by simpa using List.all_eq_true.1 free r hr⟩

/-- Where a run is free, nothing is spilled. -/
theorem State.allocate_of_firstFit (fit : (s.ts w).firstFit n = some i) (skip rs : List FReg) :
    s.allocate w skip n rs = .ok (s, i) := by
  cases rs with
  | nil => simp only [State.allocate, fit, Option.getD_some]
  | cons r rs => simp only [State.allocate, fit]

theorem State.writeF_of_firstFit {srcs : List (FReg × Bool)}
    (fit : ((s.ts w).release (some d) srcs).firstFit y.limbs = some i) :
    s.writeF w d srcs y = .ok (s.setTs w { (s.ts w).release (some d) srcs with
      f := ((s.ts w).release (some d) srcs).f.set d (.resident i y) }) := by
  have found : ((s.setTs w ((s.ts w).release (some d) srcs)).ts w).firstFit y.limbs = some i := by
    rwa [State.ts_setTs_same]
  simp only [State.writeF, State.modTs_eq, State.allocate_of_firstFit found, State.ts_setTs_same, State.setTs_setTs, bind,
    Except.bind]

end Slots

section Spilling

theorem State.storeBytes_who (s : State) (w : Who) (a : Nat) (bs : List Byte) : (s.storeBytes w a bs).who = s.who := by
  obtain ⟨_, _, _, e, -⟩ := s.storeBytes_eq w a bs
  rw [e]
  exact State.setCore_who ..

/-- Spilling, allocating and refilling leave the thread set that executes in place. -/
theorem State.spill_who (s : State) (w : Who) (r : FReg) : Safe (·.who = s.who) (s.spill w r) := by
  unfold State.spill
  dsimp only
  split
  · exact .after (by simp) fun _ => (State.setTs_who ..).trans (s.storeBytes_who ..)
  · exact rfl

theorem State.allocate_who (s : State) (w : Who) (skip : List FReg) (n : Nat) (rs : List FReg) :
    Safe (·.1.who = s.who) (s.allocate w skip n rs) := by
  induction rs generalizing s with
  | nil => exact rfl
  | cons r rs ih =>
    unfold State.allocate
    split
    · exact rfl
    · split
      · exact ih s
      · exact (s.spill_who w r).bind fun u same => same ▸ ih u

theorem State.refill_who (s : State) (w : Who) (skip rs : List FReg) : Safe (·.who = s.who) (s.refill w skip rs) := by
  induction rs generalizing s with
  | nil => exact rfl
  | cons r rs ih =>
    unfold State.refill
    split
    · refine .after (by simp) fun _ => .after (by simp) fun _ => .after (by simp) fun _ => .after (by simp) fun _ => ?_
      split
      · trivial
      · exact (s.allocate_who ..).bind fun u same => same ▸ State.setTs_who u.1 .. ▸ ih _
    · exact ih s

theorem State.who_of_refill {s t : State} {w : Who} {skip rs : List FReg} (ran : s.refill w skip rs = .ok t) :
    t.who = s.who := by
  have same := s.refill_who w skip rs
  rwa [ran] at same

end Spilling

section Registers
variable {s : State} {h : Hdr} {d a : FReg} {q : SReg} {n : Word}

theorem exec_fprec_imm (on : s.on h) (k : Fin 1024) :
    exec (.fprec h (.imm k)) s = s.becomes { s.me with prec := BitVec.ofNat 32 k.val } := by
  show execFprec h (.imm k) s = _
  unfold execFprec
  exact State.runT_on on rfl

theorem precOk_iff (p : Nat) : precOk p = true ↔ 8 ≤ p ∧ p ≤ 512 := by
  simp [precOk]

theorem exec_fprec_reg_of_ok (on : s.on h) (read : s.me.readS q = .ok n) (ok : precOk n.toNat = true) :
    exec (.fprec h (.reg q)) s = s.becomes { s.me.killS h.dmA q with prec := n } := by
  show execFprec h (.reg q) s = _
  unfold execFprec
  exact State.runT_on on (by simp [read, ok, bind, Except.bind])

theorem exec_fprec_reg_of_bad (on : s.on h) (read : s.me.readS q = .ok n) (bad : ¬ precOk n.toNat = true) :
    exec (.fprec h (.reg q)) s = s.traps .illegal n := by
  show execFprec h (.reg q) s = _
  unfold execFprec
  exact State.runT_stops on (by simp [read, bad, bind, Except.bind])

/-- The registers once a range of them is released (R306). -/
def ThreadSet.released (t : ThreadSet) (first last : Nat) : Vector FSlot 32 :=
  t.f.mapFinIdx fun i x _ => if first ≤ i ∧ i ≤ last then .dead else x

theorem ThreadSet.released_getElem (t : ThreadSet) (first last : Nat) (i : FReg) :
    (t.released first last)[i] = if first ≤ i.val ∧ i.val ≤ last then .dead else t.f[i] :=
  Vector.getElem_mapFinIdx ..

theorem exec_frel_range (on : s.on h) (d a : FReg) :
    exec (.frel h d (some a)) s = s.becomes { s.me with f := s.me.released d.val a.val } := by
  show execFrel h d (some a) s = _
  unfold execFrel
  exact State.runT_on on rfl

theorem exec_frel_one (on : s.on h) (d : FReg) :
    exec (.frel h d none) s = s.becomes { s.me with f := s.me.released d.val d.val } := by
  show execFrel h d none s = _
  unfold execFrel
  exact State.runT_on on rfl

theorem exec_flen (on : s.on h) (free : s.me.freeS q = .ok ()) (a : FReg) :
    exec (.flen h q a) s = s.becomes (s.me.putS q (flenWord s.me.f[a])) := by
  show execFlen h q a s = _
  unfold execFlen
  exact State.runT_on on (by simp [free, bind, Except.bind])

end Registers

section Moving
variable {s t : State} {h : Hdr} {rm : RmCode} {x sat : Bool} {d a : FReg} {p : SPair} {imm : Imm} {base : DWord}
  {v : Flinum} {bs : List Byte}

theorem exec_ldf (on : s.on h) (read : s.me.readP p = .ok base) {hd : List Byte} (hal : ea base imm 0 % 4 = 0)
    (head : s.access s.who [(ea base imm 0, 4)] = .ok ()) (loadedHead : s.loadBytes s.who (ea base imm 0).toNat 4 = .ok hd)
    (whole : s.access s.who [(ea base imm 0, 4 + 4 * headLimbs hd)] = .ok ())
    (loaded : s.loadBytes s.who (ea base imm 0).toNat (4 + 4 * headLimbs hd) = .ok bs) (parsed : parseRecord bs = .ok v)
    (put : s.putRecord d rm x false true v = .ok t) :
    exec (.ldf h rm x d p imm) s = (t.modTs t.who fun u => u.killP h.dmA p).done := by
  have read : (s.ts s.who).readP p = .ok base := read
  show execLdf h rm x d p imm s = _
  unfold execLdf
  exact State.run_on on (by
    simp only [read, aligned_of_mod (n := 4) hal, head, loadedHead, whole, loaded, parsed, put, bind, Except.bind])

theorem exec_fldc_literal (on : s.on h) {c : Capsule} {lines : BitVec 21} {off : Fin 60}
    (capsule : s.capsuleOf s.who = some c)
    (record : litRecord c (((s.me.pc.toNat / 64 : Nat) : Int) + lines.toInt) off.val = .ok bs)
    (parsed : parseRecord bs = .ok v) (put : s.putRecord d rm x sat false v = .ok t) :
    exec (.fldc h rm x sat d (.literal lines off)) s = t.done := by
  have record : litRecord c ((((s.ts s.who).pc.toNat / 64 : Nat) : Int) + lines.toInt) off.val = .ok bs := record
  show execFldc h rm x sat d (.literal lines off) s = _
  unfold execFldc
  exact State.run_on on (by simp only [capsule, record, parsed, put, bind, Except.bind])

theorem exec_stf (on : s.on h) (read : s.me.readP p = .ok base) {s1 : State} {u : ThreadSet}
    (source : s.flinumIn [(a, h.dmB)] s1 u) (hal : ea base imm 0 % 4 = 0)
    (access : s1.access s.who [(ea base imm 0, (flRecord (u.valF a)).length)] = .ok ()) :
    exec (.stf h a p imm) s = ((s1.storeBytes s.who (ea base imm 0).toNat (flRecord (u.valF a))).modTs s.who fun t =>
      (t.killP h.dmA p).release none [(a, h.dmB)]).done := by
  have read : (s.ts s.who).readP p = .ok base := read
  obtain ⟨live, refilled, rfl⟩ := source
  have live : (s.ts s.who).checkF a = .ok () := live (a, h.dmB) List.mem_cons_self
  have refilled : s.refill s.who [a] [a] = .ok s1 := refilled
  have who := State.who_of_refill refilled
  show execStf h a p imm s = _
  unfold execStf
  exact State.run_on on (by
    simp only [read, live, refilled, who, aligned_of_mod (n := 4) hal, access, State.storeBytes_who, bind, Except.bind])

end Moving

/-- Settles O29: a run that is free is taken where it is found; a record's fields read back one by one; each instruction
passes the checks that its hypotheses name. -/
theorem flinumRegisters : Obligations.FlinumRegisters := by
  unfold Obligations.FlinumRegisters
  refine ⟨fun s d a skip srcs y i k v => ?_, fun v low high => ?_, fun s h rm x d a q p imm n k base sat on read => ?_⟩
  · refine ⟨fun resident => ?_, fun dead zero => ?_, fun dead live => ?_, State.writeF_of_firstFit,
      ThreadSet.firstFit_spec⟩
    · exact ⟨State.refill_of_resident resident skip, ThreadSet.valF_of_resident resident,
        ThreadSet.checkF_of_resident resident⟩
    · exact ⟨(ThreadSet.checkF_of_dead dead).trans (if_pos zero), ThreadSet.flNum_valF_of_dead dead⟩
    · exact (ThreadSet.checkF_of_dead dead).trans (if_neg (by simp [live]))
  · refine ⟨fun cls exp lead fits => ?_, fun cls exp zero quiet => ?_, length_flRecord v⟩
    · exact (Flinum.isHeldIn_flRecord low high fits).parse_normal cls exp lead
    · have fits : v.sig < 2 ^ (32 * v.limbs) := zero ▸ Nat.two_pow_pos _
      exact (Flinum.isHeldIn_flRecord low high fits).parse_special cls exp zero quiet
  · refine ⟨fun _ _ => exec_fprec_imm on k, fun value low high => ?_, fun value bad => ?_,
      fun _ => ⟨_, exec_frel_range on d a, s.me.released_getElem d.val a.val⟩, ⟨_, exec_frel_one on d, fun i => ?_⟩,
      fun free => exec_flen on free a, fun hd bs v t => exec_ldf on read, fun c lines off bs v t => exec_fldc_literal on,
      fun s1 t => exec_stf on read⟩
    · exact exec_fprec_reg_of_ok on value ((precOk_iff _).2 ⟨low, high⟩)
    · exact exec_fprec_reg_of_bad on value (by rw [precOk_iff]; omega)
    · have one : d.val ≤ i.val ∧ i.val ≤ d.val ↔ i = d :=
        ⟨fun ⟨low, high⟩ => Fin.ext (Nat.le_antisymm high low), fun same => same ▸ ⟨le_rfl, le_rfl⟩⟩
      rw [ThreadSet.released_getElem]
      exact if_congr one rfl rfl

end Sys2Proof.Machine
end

section
/-! What the rows of a tile and the bits of a row read back after a part of them is replaced. -/
namespace Sys2Proof.Machine

section Rows
variable {t : Tile} {r : BitVec 512}

/-- The bits of row i are those of the row put there, and every other bit stays. -/
theorem Tile.getLsbD_setRow (i n : Nat) (inside : n < 16384) : (t.setRow i r).bits.getLsbD n =
    if 512 * i ≤ n ∧ n < 512 * i + 512 then r.getLsbD (n - 512 * i) else t.bits.getLsbD n := by
  have mask : (BitVec.ofNat 16384 (2 ^ 512 - 1)).getLsbD (n - 512 * i) = decide (n - 512 * i < 512) := by
    rw [BitVec.getLsbD_ofNat, Nat.testBit_two_pow_sub_one, ← Bool.decide_and]
    exact decide_eq_decide.2 (by omega)
  unfold Tile.setRow
  simp only [BitVec.getLsbD_or, BitVec.getLsbD_and, BitVec.getLsbD_not, BitVec.getLsbD_shiftLeft, BitVec.getLsbD_setWidth, mask]
  split
  next row => simp [inside, show ¬ n < 512 * i by omega, show n - 512 * i < 512 by omega, show n - 512 * i < 16384 by omega]
  next other =>
    by_cases below : n < 512 * i
    · simp [inside, below]
    · simp [inside, below, show ¬ n - 512 * i < 512 by omega, BitVec.getLsbD_of_ge r (n - 512 * i) (by omega)]

theorem Tile.row_setRow {i k : Nat} (hk : k < 32) : (t.setRow i r).row k = if k = i then r else t.row k := by
  refine BitVec.eq_of_getLsbD_eq fun n hn => ?_
  simp only [Tile.row, BitVec.getLsbD_extractLsb', hn, decide_true, Bool.true_and]
  rw [Tile.getLsbD_setRow _ _ (by omega)]
  split
  next within =>
    obtain rfl : k = i := by omega
    rw [if_pos rfl, Nat.add_sub_cancel_left]
  next outside =>
    rw [if_neg (by omega), BitVec.getLsbD_extractLsb']
    simp [hn]

/-- Of a row, the bits from `lo` on are those of the value put there, and the others stay. -/
theorem getLsbD_setBits (lo w v n : Nat) (inside : n < 512) : (setBits r lo w v).getLsbD n =
    if lo ≤ n ∧ n < lo + w then v.testBit (n - lo) else r.getLsbD n := by
  have mask : ((2 ^ w - 1) * 2 ^ lo).testBit n = decide (lo ≤ n ∧ n < lo + w) := by
    rw [Nat.testBit_mul_two_pow, Nat.testBit_two_pow_sub_one, ← Bool.decide_and]
    exact decide_eq_decide.2 (by omega)
  unfold setBits
  simp only [BitVec.getLsbD_or, BitVec.getLsbD_and, BitVec.getLsbD_not, BitVec.getLsbD_ofNat, mask, Nat.testBit_mul_two_pow,
    Nat.testBit_mod_two_pow, inside, decide_true, Bool.true_and]
  split
  next within => simp [within, show n - lo < w by omega]
  next outside =>
    by_cases below : n < lo
    · simp [show ¬ lo ≤ n by omega]
    · simp [show ¬ n < lo + w by omega, show ¬ n - lo < w by omega]

theorem extractLsb'_setBits {lo w : Nat} (v : Nat) (fits : lo + w ≤ 512) :
    (setBits r lo w v).extractLsb' lo w = BitVec.ofNat w v := by
  refine BitVec.eq_of_getLsbD_eq fun n hn => ?_
  rw [BitVec.getLsbD_extractLsb', getLsbD_setBits lo w v _ (by omega), if_pos (by omega), Nat.add_sub_cancel_left,
    BitVec.getLsbD_ofNat]

end Rows

end Sys2Proof.Machine
end

section
/-! Matrix descriptors, metadata and scales, accumulators and their drain, and the ports of a tile register. -/
namespace Sys2Proof.Machine

section Records
variable {s : State} {h : Hdr} {a : SPair} {imm : Imm} {x : DWord} {bs : List Byte}

/-- The `n` bytes from an aligned address are read for use. -/
def State.ReadsRecord (s : State) (p : Int) (n : Nat) (bs : List Byte) : Prop :=
  p % 8 = 0 ∧ s.access s.who [(p, n)] = .ok () ∧ s.loadBytes s.who p.toNat n = .ok bs

/-- The instruction retires with the shared state of its core updated, and the pair of its address marked. -/
def State.holds (s : State) (h : Hdr) (a : SPair) (f : Shared → Shared) : Result :=
  ((s.modShared s.who.core f).modTs s.who fun t => t.killP h.dmA a).done

theorem exec_mdesc_of_good (on : s.on h) (base : s.me.readP a = .ok x) (record : s.ReadsRecord (ea x imm 0) 32 bs)
    (good : descBad (ofBytes 256 bs) = none) :
    exec (.mdesc h a imm) s = s.holds h a fun q => { q with desc := ofBytes 256 bs } := by
  have base : (s.ts s.who).readP a = .ok x := base
  obtain ⟨hal, access, loaded⟩ := record
  show execMdesc h a imm s = _
  exact State.run_on on (by simp only [base, aligned_of_mod (n := 8) hal, access, loaded, good, bind, Except.bind])

theorem exec_mdesc_of_bad {i : Nat} (on : s.on h) (base : s.me.readP a = .ok x)
    (record : s.ReadsRecord (ea x imm 0) 32 bs) (bad : descBad (ofBytes 256 bs) = some i) :
    exec (.mdesc h a imm) s = s.traps .prot (BitVec.ofInt 32 (ea x imm 0 + 4 * i)) := by
  have base : (s.ts s.who).readP a = .ok x := base
  obtain ⟨hal, access, loaded⟩ := record
  show execMdesc h a imm s = _
  exact State.run_stops on (by simp only [base, aligned_of_mod (n := 8) hal, access, loaded, bad, bind, Except.bind]; rfl)

theorem exec_mmeta_of_good (on : s.on h) (base : s.me.readP a = .ok x) (record : s.ReadsRecord (ea x imm 0) 256 bs)
    (good : metaBad (ofBytes 2048 bs) = none) :
    exec (.mmeta h a imm) s = s.holds h a fun q => { q with smeta := ofBytes 2048 bs } := by
  have base : (s.ts s.who).readP a = .ok x := base
  obtain ⟨hal, access, loaded⟩ := record
  show execMmeta h a imm s = _
  exact State.run_on on (by simp only [base, aligned_of_mod (n := 8) hal, access, loaded, good, bind, Except.bind])

theorem exec_mmeta_of_bad {i : Nat} (on : s.on h) (base : s.me.readP a = .ok x)
    (record : s.ReadsRecord (ea x imm 0) 256 bs) (bad : metaBad (ofBytes 2048 bs) = some i) :
    exec (.mmeta h a imm) s = s.traps .illegal (BitVec.ofNat 32 i) := by
  have base : (s.ts s.who).readP a = .ok x := base
  obtain ⟨hal, access, loaded⟩ := record
  show execMmeta h a imm s = _
  exact State.run_stops on (by simp only [base, aligned_of_mod (n := 8) hal, access, loaded, bad, bind, Except.bind])

theorem exec_mscl (bset : Bool) (on : s.on h) (base : s.me.readP a = .ok x) (record : s.ReadsRecord (ea x imm 0) 64 bs) :
    exec (.mscl h bset a imm) s = s.holds h a fun q =>
      if bset then { q with bScale := ofBytes 512 bs } else { q with aScale := ofBytes 512 bs } := by
  have base : (s.ts s.who).readP a = .ok x := base
  obtain ⟨hal, access, loaded⟩ := record
  show execMscl h bset a imm s = _
  exact State.run_on on (by
    simp only [base, aligned_of_mod (n := 8) hal, access, loaded, State.modShared_who, bind, Except.bind])

end Records

section Accumulators
variable {s : State} {h : Hdr}

theorem exec_mzero (fp64 : Bool) {d : CReg} (on : s.on h) (free : s.here.accFree d = .ok ()) : exec (.mzero h fp64 d) s =
    (s.modShared s.who.core fun q => { q with
      accs := q.accs.set d { bits := 0, tag := if fp64 then .fp64 else .fp32 } }).done := by
  have free : (s.core s.who.core).accFree d = .ok () := free
  show execMzero h fp64 d s = _
  exact State.run_on on (by simp only [free, bind, Except.bind])

theorem pitchOk_of_mod {pitch : Word} (h : pitch.toNat % 8 = 0) : pitchOk pitch = .ok () := if_pos h

@[simp] theorem State.storeAll_who (s : State) (w : Who) (xs : List (Int × List Byte)) : (s.storeAll w xs).who = s.who :=
  foldl_keeps (p := State.who) (fun s _ => s.storeBytes_who ..) xs s

/-- The rows that MDRAIN stores, each with its address and its flags (R316). -/
def drainRows (acc : Acc) (dst : Fmt) (mode : RmCode) (sat : Bool) (first : Nat) (ps : List Int) :
    List (Int × List Byte × Word) :=
  ps.zipIdx.map fun e => (e.1, drainRow acc.tag dst mode sat (acc.row (first + e.2)))

/-- The state once the rows have been stored and, where the form asks for it, emptied (R316). -/
def State.drained (s : State) (shape : DrainShape) (c : CReg) (acc : Acc) (rows : List (Int × List Byte × Word)) : State :=
  let stored := s.storeAll s.who (rows.map fun e => (e.1, e.2.1))
  if shape.z then stored.modShared s.who.core fun q => { q with
    accs := q.accs.set c ((List.range (shape.cnt.val + 1)).foldl (fun (m : Acc) j => m.setRow (shape.row.val + j) 0) acc) }
  else stored

theorem exec_mdrain {rm : RmCode} {sat : Bool} {shape : DrainShape} {a : SPair} {b : SReg} {c : CReg} {imm : Imm}
    {x : DWord} {pitch : Word} {acc : Acc} {rows : List (Int × List Byte × Word)} (on : s.on h)
    (free : s.here.accFree c = .ok ()) (base : s.me.readP a = .ok x) (stride : s.me.readS b = .ok pitch)
    (tagged : s.here.readAcc c (some (drainTag s.here.shared.accs[c].tag shape.dst)) = .ok acc)
    (whole : pitch.toNat % 8 = 0)
    (converted : rows = drainRows acc shape.dst (s.me.mode rm) sat shape.row.val (rowAddrs x imm pitch (shape.cnt.val + 1)))
    (hal : aligned 8 (rowAddrs x imm pitch (shape.cnt.val + 1)) = .ok ())
    (access : s.access s.who (rows.map fun e => (e.1, e.2.1.length)) = .ok ()) :
    exec (.mdrain h rm sat shape a b c imm) s = ((s.drained shape c acc rows).modTs s.who fun t =>
      ((t.flag (rows.foldl (fun f e => f ||| e.2.2) 0)).killP h.dmA a).killS h.dmB b).done := by
  subst converted
  simp only [State.here, State.me, drainRows] at free base stride tagged access
  show execMdrain h rm sat shape a b c imm s = _
  refine State.run_on on ?_
  simp only [free, base, stride, tagged, pitchOk_of_mod whole, hal, access, bind, Except.bind]
  unfold State.drained
  cases shape.z
  · simp only [Bool.false_eq_true, if_false, State.storeAll_who]
    rfl
  · simp only [if_true, State.modShared_who, State.storeAll_who]
    rfl

end Accumulators

section Ports
variable {s : State} {h : Hdr} {v : VReg} {m : MReg} {x : VWord}

theorem exec_mrowrd (half : Bool) (row : Fin 32) (on : s.on h) (free : s.me.freeV v = .ok ()) :
    exec (.mrowrd h half v m row) s = s.becomes (s.me.putV v (maskTag s.here.shared.tiles[m].tag
      ((s.here.shared.tiles[m].row row.val).extractLsb' (if half then 256 else 0) 256)) s.here.shared.tiles[m].tag) := by
  have free : (s.ts s.who).freeV v = .ok () := free
  show execMrowrd h half v m row s = _
  exact State.run_on on (by simp only [free, bind, Except.bind]; rfl)

theorem exec_mcolrd (w : ColWidth) (j : Fin 128) (q : Fin 8) (on : s.on h) (free : s.me.freeV v = .ok ()) :
    exec (.mcolrd h w v m j q) s = s.becomes (s.me.putV v (maskTag s.here.shared.tiles[m].tag (ofLanes 256 (colBits w)
      ((List.range (colRows w)).map fun i => laneAt (s.here.shared.tiles[m].row (q.val * colRows w + i)) (colBits w) j.val)))
      s.here.shared.tiles[m].tag) := by
  have free : (s.ts s.who).freeV v = .ok () := free
  show execMcolrd h w v m j q s = _
  exact State.run_on on (by simp only [free, bind, Except.bind]; rfl)

/-- A port writes a tile register, which takes the tag of the vector register it comes from. -/
def State.putTile (s : State) (h : Hdr) (v : VReg) (m : MReg) (t : Tile) : Result :=
  ((s.modShared s.who.core fun k => { k with tiles := k.tiles.set m { t with tag := s.me.tagV v } }).modTs s.who fun t =>
    t.killV h.dmA v).done

theorem exec_mrowwr (half : Bool) (row : Fin 32) (on : s.on h) (source : s.me.readV v none = .ok x)
    (free : s.here.tileFree m = .ok ()) : exec (.mrowwr h half m v row) s = s.putTile h v m
      (s.here.shared.tiles[m].setRow row.val (setBits (s.here.shared.tiles[m].row row.val) (if half then 256 else 0) 256
        (maskTag (s.me.tagV v) x).toNat)) := by
  have source : (s.ts s.who).readV v none = .ok x := source
  have free : (s.core s.who.core).tileFree m = .ok () := free
  show execMrowwr h half m v row s = _
  exact State.run_on on (by simp only [source, free, bind, Except.bind, State.modShared_who]; rfl)

theorem exec_mcolwr (w : ColWidth) (j : Fin 128) (q : Fin 8) (on : s.on h) (source : s.me.readV v none = .ok x)
    (free : s.here.tileFree m = .ok ()) : exec (.mcolwr h w m v j q) s = s.putTile h v m
      ((List.range (colRows w)).foldl (fun (t : Tile) i =>
        t.setRow (q.val * colRows w + i) (setBits (t.row (q.val * colRows w + i)) (colBits w * j.val) (colBits w)
          (maskLane (s.me.tagV v) (colBits w) j.val (laneAt x (colBits w) i)))) s.here.shared.tiles[m]) := by
  have source : (s.ts s.who).readV v none = .ok x := source
  have free : (s.core s.who.core).tileFree m = .ok () := free
  show execMcolwr h w m v j q s = _
  exact State.run_on on (by simp only [source, free, bind, Except.bind, State.modShared_who]; rfl)

end Ports

/-- Settles O30: each instruction passes the checks that its hypotheses name; a row that is replaced reads back, and no
other row with it. -/
theorem matrixAndTiles : Obligations.MatrixAndTiles := by
  unfold Obligations.MatrixAndTiles
  refine ⟨fun s h a imm x bset fp64 d bs on base => ⟨?_, exec_mzero fp64 on⟩,
    fun s h rm sat shape a b c imm x pitch acc on free base stride tagged whole hal access =>
      exec_mdrain on free base stride tagged whole rfl hal access,
    fun s h half v m row w j q x on => ⟨⟨fun free => ?_, fun source free => ?_⟩, fun t r i k _ => Tile.row_setRow,
      fun r lo y fits => extractLsb'_setBits y (by omega)⟩⟩
  · exact ⟨exec_mdesc_of_good on base, fun i => exec_mdesc_of_bad on base, exec_mmeta_of_good on base,
      fun i => exec_mmeta_of_bad on base, exec_mscl bset on base⟩
  · exact ⟨exec_mrowrd half row on free, exec_mcolrd w j q on free⟩
  · exact ⟨exec_mrowwr half row on source free, exec_mcolwr w j q on source free⟩

end Sys2Proof.Machine
end

section
/-! MGANG, and the joint operation that it takes part in. -/
namespace Sys2Proof.Machine

section Issuing
variable {s : State} {h : Hdr} {shape : GangShape} {d : CReg} {a : MReg} {b c : SReg} {r k0 : Word} {x y : Nat} {g : Gang}

/-- The entry that MGANG makes of what it captures (R114, R313), A still unread. -/
def State.captured (s : State) (shape : GangShape) (d : CReg) (a : MReg) (first : Nat) (r k0 : Word) : JointOp :=
  { number := s.here.shared.matrixCount + 1, ts := s.who.t.val, xpc := s.me.pc, shape := shape, acc := d, tile := a
    first := first, row0 := r.toNat, k0 := k0.toNat, desc := s.here.shared.desc, aScale := s.here.shared.aScale
    bScale := s.here.shared.bScale, smeta := s.here.shared.smeta, step := s.here.sstep, joined := false, feed := none
    fed := false }

/-- MGANG retires with an entry at the end of the joint queue, the matrix count moved (R114). -/
def State.queues (s : State) (h : Hdr) (b c : SReg) (j : JointOp) : Result :=
  ((s.modShared s.who.core fun q => { q with joint := q.joint ++ [j], matrixCount := q.matrixCount + 1 }).modTs s.who
    fun t => (t.killS h.dmB b).killS h.dmC c).done

/-- MGANG's registers can be read, and hold what its format asks for (R313). -/
structure State.Feeds (s : State) (shape : GangShape) (d : CReg) (a : MReg) (b c : SReg) (r k0 : Word) : Prop where
  row : (s.ts s.who).readS b = .ok r
  depth : (s.ts s.who).readS c = .ok k0
  tile : (s.core s.who.core).readTile a (some shape.fmt) = .ok (s.core s.who.core).shared.tiles[a]
  acc : (s.core s.who.core).readAcc d (some (accTag shape.fmt)) = .ok (s.core s.who.core).shared.accs[d]

/-- The checks of R114 and R313 on the segment, the first depth and the joint queue pass. -/
structure State.Accepts (s : State) (shape : GangShape) (g : Gang) (x y : Nat) (k0 : Word) : Prop where
  outside : (s.ts s.who).inh = false
  narrow : ¬ (g.lock = true ∧ 2 ^ shape.nlog.val = 16)
  inside : g.segOutside (g.segFirst x (2 ^ shape.nlog.val)) (2 ^ shape.nlog.val) y = false
  step : k0.toNat % kStep shape.fmt shape.sp = 0
  scale : ¬ (shape.scl = true ∧ k0.toNat % 32 ≠ 0)
  room : ¬ Config.jointEntries ≤ (s.core s.who.core).shared.joint.length

section Checked
variable (on : s.on h) (feeds : s.Feeds shape d a b c r k0)
include on feeds

theorem exec_mgang_of_inh (inside : s.me.inh = true) : exec (.mgang h shape d a b c) s = s.traps .illegal 5 := by
  obtain ⟨row, depth, tile, acc⟩ := feeds
  have inside : (s.ts s.who).inh = true := inside
  show execMgang h shape d a b c s = _
  exact State.run_stops on (by simp only [row, depth, tile, acc, inside, bind, Except.bind, if_true])

variable (core : s.who.core = .compute x y) (gang : s.gangOf s.who = some g)
include core gang

theorem exec_mgang_of_lockstep16 (outside : s.me.inh = false) (lock : g.lock = true) (wide : 2 ^ shape.nlog.val = 16) :
    exec (.mgang h shape d a b c) s = s.traps .illegal 8 := by
  obtain ⟨row, depth, tile, acc⟩ := feeds
  have outside : (s.ts s.who).inh = false := outside
  simp only [core] at tile acc
  show execMgang h shape d a b c s = _
  exact State.run_stops on (by
    simp only [core, row, depth, tile, acc, outside, gang, lock, wide, bind, Except.bind, Bool.false_eq_true, and_self,
      if_false, if_true])

variable (accepts : s.Accepts shape g x y k0)
include accepts

theorem exec_mgang_away (away : g.segFirst x (2 ^ shape.nlog.val) ≠ x) : exec (.mgang h shape d a b c) s =
    s.queues h b c (s.captured shape d a (g.segFirst x (2 ^ shape.nlog.val)) r k0) := by
  obtain ⟨row, depth, tile, acc⟩ := feeds
  obtain ⟨outside, narrow, inside, step, scale, room⟩ := accepts
  simp only [core] at tile acc room
  show execMgang h shape d a b c s = _
  refine State.run_on on ?_
  simp only [core, row, depth, tile, acc, outside, gang, narrow, inside, step, scale, away, room, bind, Except.bind,
    Bool.false_eq_true, if_false, ne_eq, not_true]
  simp only [State.captured, State.here, State.me, core]

theorem exec_mgang_here (here : g.segFirst x (2 ^ shape.nlog.val) = x) (good : descBad s.here.shared.desc = none)
    (mine : s.footprintCheck s.who (s.captured shape d a (g.segFirst x (2 ^ shape.nlog.val)) r k0) = .ok ()) :
    exec (.mgang h shape d a b c) s = s.queues h b c { s.captured shape d a (g.segFirst x (2 ^ shape.nlog.val)) r k0 with
      feed := some ((s.captured shape d a (g.segFirst x (2 ^ shape.nlog.val)) r k0).readA s.here.store) } := by
  rw [here] at mine ⊢
  obtain ⟨row, depth, tile, acc⟩ := feeds
  obtain ⟨outside, narrow, inside, step, scale, room⟩ := accepts
  simp only [State.captured, State.here, State.me, core] at tile acc room good mine
  show execMgang h shape d a b c s = _
  refine State.run_on on ?_
  rw [here] at inside
  simp only [core, row, depth, tile, acc, outside, gang, narrow, inside, step, scale, here, good, mine, room, bind, Except.bind,
    Bool.false_eq_true, if_false, ne_eq, not_true, if_true, Option.isSome_none]
  simp only [State.captured, State.here, State.me, core]

end Checked

end Issuing

section Joining
variable {s : State} {x y nlog n m id : Nat} {c : CoreId} {j : JointOp} {q : Shared}

/-- The cores of a segment that begins at (x, y). -/
def State.segment (s : State) (x y nlog : Nat) : List CoreId := segCores (s.strideAt (.compute x y)) x y (2 ^ nlog)

/-- The heads of the cores of a segment, where they name it (R115). -/
def State.heads (s : State) (x y nlog : Nat) : List (CoreId × JointOp) :=
  ((s.segment x y nlog).map fun c => (c, s.headFor c x nlog)).filterMap fun e => e.2.map fun j => (e.1, j)

theorem State.mem_heads {e : CoreId × JointOp} :
    e ∈ s.heads x y nlog ↔ e.1 ∈ s.segment x y nlog ∧ s.headFor e.1 x nlog = some e.2 := by
  obtain ⟨c, j⟩ := e
  simp [State.heads]

/-- The entry of a number joins an operation (R115). -/
def Shared.join (id n : Nat) (q : Shared) : Shared :=
  { q with joint := q.joint.map fun j => if j.number = n then { j with joined := true, join := id } else j }

/-- A joint queue holds an entry of a number. -/
def Shared.Lists (n : Nat) (q : Shared) : Prop := ∃ i ∈ q.joint, i.number = n

/-- A joint queue holds an entry of a number that has joined. -/
def Shared.Joined (n : Nat) (q : Shared) : Prop := ∃ i ∈ q.joint, i.number = n ∧ i.joined = true

theorem Shared.Lists.join (h : q.Lists n) (id m : Nat) : (q.join id m).Lists n := by
  obtain ⟨i, listed, number⟩ := h
  refine ⟨_, List.mem_map_of_mem listed, ?_⟩
  split <;> exact number

theorem Shared.Joined.join (h : q.Joined n) (id m : Nat) : (q.join id m).Joined n := by
  obtain ⟨i, listed, number, joined⟩ := h
  refine ⟨_, List.mem_map_of_mem listed, ?_⟩
  split
  · exact ⟨number, rfl⟩
  · exact ⟨number, joined⟩

theorem Shared.Lists.join_same (h : q.Lists n) (id : Nat) : (q.join id n).Joined n := by
  obtain ⟨i, listed, number⟩ := h
  refine ⟨_, List.mem_map_of_mem listed, ?_⟩
  rw [if_pos number]
  exact ⟨number, rfl⟩

theorem State.lists_of_headFor (head : s.headFor c x nlog = some j) : (s.core c).shared.Lists j.number := by
  obtain ⟨i, found, named⟩ := Option.bind_eq_some_iff.1 head
  obtain rfl : i = j := by
    split at named
    · exact Option.some.inj named
    · cases named
  exact ⟨i, List.mem_of_find?_eq_some found, rfl⟩

/-- After an update of a core's shared state, those of any core are as they were or are updated. -/
theorem State.shared_modShared (s : State) (c d : CoreId) (f : Shared → Shared) :
    ((s.modShared d f).core c).shared = (s.core c).shared ∨ ((s.modShared d f).core c).shared = f (s.core c).shared :=
  (s.core_modCore c d _).imp (congrArg Core.shared) (congrArg Core.shared)

/-- What every join keeps of a core's shared state. -/
theorem State.shared_modShared_join {p : Shared → Prop} (kept : ∀ q, p q → ∀ id m, p (q.join id m))
    (h : p (s.core c).shared) (d : CoreId) (id m : Nat) : p ((s.modShared d (Shared.join id m)).core c).shared := by
  rcases s.shared_modShared c d (Shared.join id m) with same | joined
  · rwa [same]
  · rw [joined]
    exact kept _ h id m

/-- The entries named, each of its core, join one operation (R115). -/
def State.joinAll (s : State) (es : List (CoreId × JointOp)) : State :=
  es.foldl (fun u e => u.modShared e.1 (Shared.join s.nextId e.2.number)) { s with nextId := s.nextId + 1 }

theorem State.joined_joinAll {es : List (CoreId × JointOp)} (listed : (s.core c).shared.Lists j.number) (he : (c, j) ∈ es) :
    ((s.joinAll es).core c).shared.Joined j.number := by
  refine foldl_reaches (q := fun u : State => (u.core c).shared.Lists j.number)
    (p := fun u : State => (u.core c).shared.Joined j.number)
    (fun u e _ h => State.shared_modShared_join (fun _ => Shared.Lists.join) h _ _ _) he (fun u h => ?_)
    (fun u e _ h => State.shared_modShared_join (fun _ => Shared.Joined.join) h _ _ _) ?_
  · show ((u.modCore c _).core c).shared.Joined j.number
    rw [State.core_modCore_same]
    exact h.join_same _
  · rwa [State.core_congr rfl rfl rfl]

theorem exec_jointJoin_of_agree {f : JointOp} (short : nlog ≤ 4)
    (live : ((s.core (.compute x y)).gang).elim false s.gangLive = true)
    (head : s.headFor (.compute x y) x nlog = some f)
    (join : joinable ((s.segment x y nlog).map fun c => (c, s.headFor c x nlog)) f.step = true)
    (agree : headsAgree f ((s.heads x y nlog).map (·.2)) = true) :
    exec (.jointJoin x y nlog) s = .next (s.joinAll (s.heads x y nlog)) := by
  have goes : nlog ≤ 4 ∧ ((s.core (.compute x y)).gang).elim false s.gangLive = true ∧
      joinable ((segCores (s.strideAt (.compute x y)) x y (2 ^ nlog)).map fun c => (c, s.headFor c x nlog)) f.step = true :=
    ⟨short, live, join⟩
  show execJointJoin x y nlog s = _
  unfold execJointJoin
  simp only [head]
  rw [if_pos goes]
  exact if_pos agree

end Joining

section Completing
variable {s : State} {x y : Nat} {g : Nat} {v : Gang} {j : JointOp} {a : List Nat}

theorem State.residue_of_no_injects (gang : s.gang g = some v) (quiet : v.injects = []) (c : CoreId) (j : JointOp) :
    s.residue c g j = (s, false) := by
  simp [State.residue, gang, quiet]

theorem State.opLive_of_no_error (gang : s.gang g = some v) (clean : v.err = none) (stands : v.rival ≠ .faulted) (step : Word) :
    s.opLive g step = true := by
  simp [State.opLive, gang, clean, stands]

theorem State.gangLive_of_no_error (gang : s.gang g = some v) (clean : v.err = none) (stands : v.rival ≠ .faulted) :
    s.gangLive g = true := by
  simp [State.gangLive, gang, clean, stands]

theorem exec_jointOpComplete_of_fed (mine : (s.core (.compute x y)).gang = some g) (gang : s.gang g = some v) (clean : v.err = none)
    (stands : v.rival ≠ .faulted) (quiet : v.injects = []) (oldest : (s.core (.compute x y)).shared.joint.head? = some j)
    (joined : j.joined = true) (fed : j.fed = true) (read : j.feed = some a) :
    exec (.jointOpComplete x y) s = .next (s.modShared (.compute x y) fun q =>
      { q with accs := q.accs.set j.acc (j.result a q.tiles[j.tile] q.accs[j.acc]) }.finishJoint j.number) := by
  show execJointOpComplete x y s = _
  simp only [execJointOpComplete, mine, oldest, joined, fed, read, State.opLive_of_no_error gang clean stands, and_self, if_true,
    State.finishOp, State.residue_of_no_injects gang quiet, Bool.false_eq_true, if_false]

end Completing

/-- Settles O31: MGANG passes the checks that its hypotheses name; each head that joins stays joined while the others do; an
operation that is fed finishes. -/
theorem jointOperations : Obligations.JointOperations := by
  unfold Obligations.JointOperations
  refine ⟨fun s h shape d a b c r k0 x y g on core gang row depth tile acc => ?_, fun s x y nlog => ⟨?_, ?_⟩⟩
  · have feeds : s.Feeds shape d a b c r k0 := ⟨row, depth, if_pos tile, if_pos acc⟩
    refine ⟨fun outside narrow inside step scale room => ?_, exec_mgang_of_inh on feeds,
      exec_mgang_of_lockstep16 on feeds core gang⟩
    have accepts : s.Accepts shape g x y k0 := ⟨outside, by rintro ⟨lock, wide⟩; simp [lock, wide] at narrow, inside, step,
      fun ⟨scaled, odd⟩ => odd (scale scaled), Nat.not_le.2 room⟩
    exact ⟨exec_mgang_away on feeds core gang accepts, exec_mgang_here on feeds core gang accepts⟩
  · rintro f short ⟨g, v, mine, gang, clean, stands⟩ head named same
    have live : ((s.core (.compute x y)).gang).elim false s.gangLive = true := by
      rw [mine]
      exact State.gangLive_of_no_error gang clean stands
    have join : joinable ((s.segment x y nlog).map fun c => (c, s.headFor c x nlog)) f.step = true := by
      simp only [joinable, List.all_map, List.all_eq_true]
      intro c hc
      obtain ⟨j, head, step, -⟩ := same c hc
      simp [head, step]
    have agree : headsAgree f ((s.heads x y nlog).map (·.2)) = true := by
      simp only [headsAgree, named, beq_self_eq_true, Bool.true_and, List.all_map, List.all_eq_true]
      intro e he
      obtain ⟨hc, at_⟩ := State.mem_heads.1 he
      obtain ⟨j, head, -, agrees⟩ := same _ hc
      obtain rfl : j = e.2 := Option.some.inj (head.symm.trans at_)
      simpa [and_assoc] using agrees
    refine ⟨_, exec_jointJoin_of_agree short live head join agree, fun c hc j head => ?_⟩
    exact State.joined_joinAll (State.lists_of_headFor head) (State.mem_heads.2 ⟨hc, head⟩)
  · exact fun g v j a => exec_jointOpComplete_of_fed

end Sys2Proof.Machine
end

section
/-! Accesses of global memory that are let through, atomics, fences and pushes. -/
namespace Sys2Proof.Machine

section Through
variable {s : State}

@[simp] theorem State.through_who : s.through.who = s.who := State.modCore_who ..

@[simp] theorem State.through_nextId : s.through.nextId = s.nextId := State.modCore_nextId ..

@[simp] theorem State.ts_through : s.through.ts s.who = s.me := by
  simp [State.through, State.ts, State.me]

@[simp] theorem State.me_through : s.through.me = s.me := by
  simp [State.me]

@[simp] theorem State.gangId_through : s.through.gangId s.who = s.gangId s.who := by
  simp [State.gangId, State.through]

@[simp] theorem State.gangOf_through : s.through.gangOf s.who = s.gangOf s.who := by
  have gang : s.through.gang = s.gang := funext fun g => State.gang_congr (State.modCore_gangs ..) g
  simp [State.gangOf, gang]

theorem State.gangOf_of_reaches {g : Gang} {gva n : Nat} {wr : Bool} (h : s.reaches g gva n wr) : s.gangOf s.who = some g := h.1

/-- An access that the walk, the rights and migrations let through goes on (R438, R442). -/
theorem State.reach_of_reaches {g : Gang} {gva n : Nat} {wr : Bool} (h : s.reaches g gva n wr)
    (go : State → Except Stop (State × Next)) : s.reach gva n wr go = go s.through := by
  obtain ⟨mine, there, still⟩ := h
  have may : (wr && s.rangeMigrating g.ctx gva n) = false := by cases wr <;> simp [still]
  simp only [State.reach, mine, there, may, Bool.false_eq_true, if_false]
  rfl

end Through

section Atomics
variable {s t : State} {h : Hdr} {op : BankOp} {el : Elem} {r b : SReg} {a : SPair} {c : Fin 32} {imm : Imm} {x new cmp : DWord}
  {g : Gang} {id gva : Nat}

theorem casReg_eq (el : Elem) (b : SReg) : casReg el b = if el.width = 64 then b + 2 else b + 1 := by
  unfold casReg
  split <;> (ext; simp [Fin.val_add, Fin.ofNat])

/-- The dead marks of a GATOM (R179, R325). -/
def ThreadSet.killAtom (t : ThreadSet) (h : Hdr) (op : BankOp) (el : Elem) (a : SPair) (b : SReg) : ThreadSet :=
  if op = .cas then ((t.killP h.dmA a).killElem h.dmB el b).killElem h.dmB el (casReg el b)
  else (t.killP h.dmA a).killElem h.dmB el b

/-- What a GATOM does once it is let through: it waits in the commit buffer, or is performed at once and its answer awaited
(R147). -/
def State.atomActs (s : State) (w : Who) (op : BankOp) (el : Elem) (d : Option SReg) (new cmp : DWord) (gva : Nat) :
    Except Stop State :=
  match d with
  | none => s.buffer w (.atom op el new) gva (leBytes (el.width / 8) 0)
  | some r => (s.atomNow w op el new cmp gva).map fun e =>
      e.1.awaitAnswer w (.old (el.width == 64) r) gva (el.width / 8) (e.2.map some) none

/-- The operands and the reference of a GATOM pass their checks, and its access is let through. -/
structure State.AtomReady (s : State) (op : BankOp) (el : Elem) (a : SPair) (b : SReg) (c : Fin 32) (imm : Imm) (x new cmp : DWord)
    (g : Gang) (gva : Nat) : Prop where
  base : s.me.readP a = .ok x
  operand : s.me.readElem el b = .ok new
  compare : if op = .cas then s.me.readElem el (casReg el b) = .ok cmp else cmp = 0
  acquired : s.me.afterAcquire = .ok ()
  ref : s.refcheck s.who c.val (.width (el.width / 8)) true true (ea x imm 0) (el.width / 8 : Nat) (el.width / 8) = .ok gva
  reach : s.reaches g gva (el.width / 8) true

theorem exec_gatom_of_acts {d : Option SReg} (on : s.on h) (ready : s.AtomReady op el a b c imm x new cmp g gva)
    (free : ∀ r, d = some r → s.me.freeElem el r = .ok ())
    (acts : s.through.atomActs s.who op el d new cmp gva = .ok t) :
    exec (.gatom h op el d a b c imm) s = (t.modTs s.who fun t => t.killAtom h op el a b).done := by
  obtain ⟨base, operand, compare, acquired, ref, reach⟩ := ready
  have base : (s.ts s.who).readP a = .ok x := base
  have operand : (s.ts s.who).readElem el b = .ok new := operand
  have acquired : (s.ts s.who).afterAcquire = .ok () := acquired
  have compared : op = .cas ∧ (s.ts s.who).readElem el (casReg el b) = .ok cmp ∨ op ≠ .cas ∧ cmp = 0 := by
    split at compare
    next cas => exact .inl ⟨cas, compare⟩
    next cas => exact .inr ⟨cas, compare⟩
  show execGatom h op el d a b c imm s = _
  refine State.run_on on ?_
  cases d with
  | none =>
    have put : s.through.buffer s.who (.atom op el new) gva (leBytes (el.width / 8) 0) = .ok t := acts
    rcases compared with ⟨rfl, compared⟩ | ⟨cas, rfl⟩
    · simp only [base, operand, compared, acquired, globalOff, ref, State.reach_of_reaches reach, put, bind, Except.bind, if_true]
      rfl
    · simp only [base, operand, if_neg cas, acquired, globalOff, ref, State.reach_of_reaches reach, put, bind, Except.bind]
      simp only [ThreadSet.killAtom, if_neg cas]
  | some r =>
    have free : (s.ts s.who).freeElem el r = .ok () := free r rfl
    have acts : (s.through.atomNow s.who op el new cmp gva).map (fun e =>
      e.1.awaitAnswer s.who (.old (el.width == 64) r) gva (el.width / 8) (e.2.map some) none) = .ok t := acts
    cases now : s.through.atomNow s.who op el new cmp gva with
    | error e => simp [now, Except.map] at acts
    | ok e =>
      rw [now] at acts
      cases acts
      rcases compared with ⟨rfl, compared⟩ | ⟨cas, rfl⟩
      · simp only [base, operand, compared, free, acquired, globalOff, ref, State.reach_of_reaches reach, now, bind, Except.bind,
          if_true]
        rfl
      · simp only [base, operand, if_neg cas, free, acquired, globalOff, ref, State.reach_of_reaches reach, now, bind, Except.bind]
        simp only [ThreadSet.killAtom, if_neg cas]

/-- A returning atomic that waits for no drain and meets no poison is performed (R143, R147). -/
theorem State.atomNow_of_ready (there : s.gangId s.who = some id) (mine : s.gangOf s.who = some g)
    (drained : s.undrained g.ctx gva (el.width / 8) = false) (sound : s.globalPoison g.ctx gva (el.width / 8) = false) :
    (let n := el.width / 8
    let ready := ((s.makeNonroll id).repair g.ctx gva n).loadsBefore s.who g.ctx s.me.sstep ((List.range n).map (gva + ·))
    let old := ready.globalRead g.ctx gva (List.replicate n none)
    s.atomNow s.who op el new cmp gva =
      .ok (ready.engineWrite g.ctx gva (leBytes n (atomResult op el (leNat old) new cmp)), old)) := by
  unfold State.atomNow
  simp only [there, mine, drained, sound, Bool.false_eq_true, if_false]
  rfl

end Atomics

section Fences
variable {s : State} {h : Hdr} {sc : Scope}

theorem exec_gfence_of_nothing (on : s.on h) (performed : s.me.performed sc = .ok ())
    (nothing : sc = .task ∨ s.gangOf s.who = none) :
    exec (.gfence h sc) s = s.done := by
  have performed : (s.ts s.who).performed sc = .ok () := performed
  show execGfence h sc s = _
  refine State.run_on on ?_
  simp only [performed, bind, Except.bind]
  rcases nothing with rfl | none
  · rfl
  · rw [none]
    split
    · rfl
    · contradiction
    · rfl

theorem exec_gfence_of_gang {id : Nat} {g : Gang} (on : s.on h) (performed : s.me.performed sc = .ok ()) (wide : sc ≠ .task)
    (there : s.gangId s.who = some id) (mine : s.gangOf s.who = some g) :
    exec (.gfence h sc) s = (s.putLine s.who id g.ctx s.me.sstep .release 0 []).done := by
  have performed : (s.ts s.who).performed sc = .ok () := performed
  show execGfence h sc s = _
  refine State.run_on on ?_
  simp only [performed, there, mine, bind, Except.bind]
  rfl

end Fences

section Pushes
variable {s : State} {h : Hdr} {a : SPair} {imm : Imm} {x : DWord} {bs : List Byte}

theorem exec_gref_of_free {f : GrefField} {d : SReg} {c : Fin 32} (on : s.on h) (free : s.me.freeS d = .ok ()) :
    exec (.gref h f d c) s = s.becomes (s.me.putS d (refField (s.refOf s.who c.val) f)) := by
  have free : (s.ts s.who).freeS d = .ok () := free
  show execGref h f d c s = _
  exact State.run_on on (by simp only [free, bind, Except.bind]; rfl)

theorem exec_dpat_of_good (on : s.on h) (base : s.me.readP a = .ok x) (hal : ea x imm 0 % 8 = 0)
    (acc : s.access s.who [(ea x imm 0, 16)] = .ok ()) (loaded : s.loadBytes s.who (ea x imm 0).toNat 16 = .ok bs)
    (good : s.patternBad s.who (ofBytes 128 bs) = none) :
    exec (.dpat h a imm) s = s.becomes { s.me.killP h.dmA a with pattern := ofBytes 128 bs } := by
  have base : (s.ts s.who).readP a = .ok x := base
  show execDpat h a imm s = _
  exact State.run_on on (by
    simp only [base, aligned_of_mod (n := 8) hal, acc, loaded, good, bind, Except.bind]
    rfl)

theorem exec_dpat_of_bad {i : Nat} (on : s.on h) (base : s.me.readP a = .ok x) (hal : ea x imm 0 % 8 = 0)
    (acc : s.access s.who [(ea x imm 0, 16)] = .ok ()) (loaded : s.loadBytes s.who (ea x imm 0).toNat 16 = .ok bs)
    (bad : s.patternBad s.who (ofBytes 128 bs) = some i) :
    exec (.dpat h a imm) s = s.traps .prot (BitVec.ofInt 32 (ea x imm 0 + 4 * i)) := by
  have base : (s.ts s.who).readP a = .ok x := base
  show execDpat h a imm s = _
  exact State.run_stops on (by
    simp only [base, aligned_of_mod (n := 8) hal, acc, loaded, bad, bind, Except.bind]
    rfl)

theorem exec_push_of_packets {form : PushForm} {m : BitVec 13} {o : Word × Word × Word} {ps : List Packet} (on : s.on h)
    (base : s.me.readP a = .ok x) (operands : s.pushOperands form (ea x imm 0) = .ok o)
    (acc : s.access s.who [(ea x imm 0, 8 * (m.toNat + 1))] = .ok ()) (room : s.me.sendsFull = false)
    (loaded : s.loadBytes s.who (ea x imm 0).toNat (8 * (m.toNat + 1)) = .ok bs)
    (packets : s.pushPackets form (ea x imm 0).toNat bs o.1 o.2.1 o.2.2 = some ps) :
    exec (.push h form a imm m) s = ((s.launch ps).modTs s.who fun t =>
      ((t.openSend ps.length false).settleSends.killP h.dmA a).killPush h form).done := by
  have base : (s.ts s.who).readP a = .ok x := base
  have room : (s.ts s.who).sendsFull = false := room
  show execPush h form a imm m s = _
  exact State.run_on on (by
    simp only [base, operands, acc, room, loaded, packets, bind, Except.bind, Bool.false_eq_true, if_false])

end Pushes

/-- Settles O33: each instruction passes the checks that its hypotheses name; a GATOM with a result is performed in the state that its
access is let through in. -/
theorem atomicsAndPushes : Obligations.AtomicsAndPushes := by
  unfold Obligations.AtomicsAndPushes
  intro s t h op el sc r d b a c imm f x new cmp g id gva on base
  extract_lets n cas kill
  have casReg : casReg el b = cas := casReg_eq el b
  have killed : (fun t => ThreadSet.killAtom t h op el a b) = kill := by
    unfold ThreadSet.killAtom
    rw [casReg]
  refine ⟨fun acquired operand compare ref reach there => ⟨fun put => ?_, fun free drained sound => ?_⟩,
    exec_gfence_of_nothing on, exec_gfence_of_gang on, exec_gref_of_free on,
    fun bs hal acc loaded => ⟨exec_dpat_of_good on base hal acc loaded, fun i => exec_dpat_of_bad on base hal acc loaded⟩,
    fun form m o bs ps operands acc room loaded packets => exec_push_of_packets on base operands acc room loaded packets⟩
  all_goals
    have ready : s.AtomReady op el a b c imm x new cmp g gva :=
      ⟨base, operand, by rw [casReg]; exact compare, acquired, ref, reach⟩
  · exact killed ▸ exec_gatom_of_acts on ready (by simp) put
  · have now := State.atomNow_of_ready (op := op) (new := new) (cmp := cmp) (s := s.through) (by simpa using there)
      (by simpa using State.gangOf_of_reaches reach) drained sound
    simp only [State.through_who, State.me_through] at now
    refine killed ▸ exec_gatom_of_acts on ready (fun _ e => Option.some.inj e ▸ free) ?_
    exact congrArg (Except.map _) now

end Sys2Proof.Machine
end

section
/-! How global memory answers a load, and how the words of a block load land. -/
namespace Sys2Proof.Machine

section Answering
variable {s : State} {core : CoreId} {slot id : Nat} {g : Gang}

theorem exec_globalResponse_of_goes {a : PendGlobal} (mine : s.gangOf { core := core, t := Fin.ofNat 16 slot } = some g)
    (clean : g.err = none)
    (found : (s.ts { core := core, t := Fin.ofNat 16 slot }).answers.find? (fun a => a.id == id) = some a)
    (whole : s.brokenAhead g.ctx a.gva a.own = false)
    (goes : s.accessWaits { core := core, t := Fin.ofNat 16 slot } g.ctx id a.gva a.own = false)
    (sound : s.poisonAhead g.ctx a.gva a.own = false) :
    exec (.globalResponse core slot id) s = .next (s.answerGlobal { core := core, t := Fin.ofNat 16 slot } g.ctx a) := by
  show execGlobalResponse core slot id s = _
  simp only [execGlobalResponse, mine, found, clean, whole, goes, sound, Option.isSome_none, Bool.false_eq_true, if_false]

/-- What a block load has still to read: words that have landed are no longer read. -/
def BlockLoad.unread (l : BlockLoad) : List (Option Byte) :=
  l.own.zipIdx.map fun e => if l.done.contains (e.2 / 8) then some (e.1.getD 0) else e.1

theorem exec_blockLoadComplete_of_goes {l : BlockLoad} (mine : s.gangOf { core := core, t := Fin.ofNat 16 slot } = some g)
    (clean : g.err = none)
    (found : (s.ts { core := core, t := Fin.ofNat 16 slot }).loads.find? (fun l => l.number == id && !l.landed) = some l)
    (whole : s.brokenAhead g.ctx l.gva l.unread = false)
    (goes : s.accessWaits { core := core, t := Fin.ofNat 16 slot } g.ctx l.id l.gva l.unread = false)
    (sound : s.poisonAhead g.ctx l.gva l.unread = false) :
    exec (.blockLoadComplete core slot id) s =
      .next ((s.landWords { core := core, t := Fin.ofNat 16 slot } l l.rest).modTs { core := core, t := Fin.ofNat 16 slot }
        fun t => { t with loads := t.loads.map fun (x : BlockLoad) =>
          if x.number = id then { x with landed := true } else x }.settleLoads) := by
  unfold BlockLoad.unread at *
  show execBlockLoadComplete core slot id s = _
  simp only [execBlockLoadComplete, mine, found, clean, whole, goes, sound, Option.isSome_none, Bool.false_eq_true, if_false]

end Answering

section Landing
variable (s : State) (w : Who)

/-- A repair clears marks of poisoned lines, and nothing else (R440). -/
@[simp] theorem State.core_repair (ctx gva n : Nat) (c : CoreId) : (s.repair ctx gva n).core c = s.core c := by
  unfold State.repair
  split
  · rfl
  · dsimp only
    split <;> exact State.core_congr rfl rfl rfl c

theorem State.storeBytes_store (a : Nat) (bs : List Byte) :
    ((s.storeBytes w a bs).core w.core).store = (s.core w.core).store.writeN a bs := by
  obtain ⟨plate, gangs, counters, e, -⟩ := s.storeBytes_eq w a bs
  have here : (s.storeBytes w a bs).core w.core = (s.put w plate a bs).core w.core := by
    rw [e]
    exact State.core_congr rfl rfl rfl w.core
  rw [here, State.put, State.core_setCore_same]
  rfl

/-- Words of a block, by their numbers, written from an address on. -/
def Mem.writeWords (m : Mem) (dst : Nat) (bs : List Byte) (words : List Nat) : Mem :=
  words.foldl (fun m i => m.writeN (dst + 8 * i) (bytesAt bs (8 * i) 8)) m

theorem State.landWords_store (l : BlockLoad) (words : List Nat) : ((s.landWords w l words).core w.core).store =
    (s.core w.core).store.writeWords l.dst (s.globalRead ((s.gangOf w).elim 0 (·.ctx)) l.gva l.own) words := by
  have stored (bs : List Byte) (t : State) :
      ((words.foldl (fun s i => s.storeBytes w (l.dst + 8 * i) (bytesAt bs (8 * i) 8)) t).core w.core).store =
        (t.core w.core).store.writeWords l.dst bs words := by
    induction words generalizing t with
    | nil => rfl
    | cons i r ih => rw [List.foldl_cons, ih, State.storeBytes_store]; rfl
  unfold State.landWords
  dsimp only
  rw [stored]
  simp

end Landing

theorem Mem.read_writeWord {m : Mem} (wf : m.wf = true) (dst : Nat) (bs : List Byte) (i x : Nat) :
    (m.writeN (dst + 8 * i) (bytesAt bs (8 * i) 8)).read x =
      if dst ≤ x ∧ (x - dst) / 8 = i then bs.getD (x - dst) 0 else m.read x := by
  have length : (bytesAt bs (8 * i) 8).length = 8 := by simp [bytesAt]
  split
  next inside =>
    obtain ⟨k, hk, rfl⟩ : ∃ k, k < 8 ∧ x = dst + 8 * i + k := ⟨x - (dst + 8 * i), by omega, by omega⟩
    have read := Mem.read_writeN_same wf (dst + 8 * i) (bytesAt bs (8 * i) 8) (k := k) (by omega)
    have byte : (bytesAt bs (8 * i) 8)[k]? = some (bs.getD (8 * i + k) 0) := by
      simp only [bytesAt, List.getElem?_map, List.getElem?_range hk, Option.map_some]
    rw [byte] at read
    rw [Option.some.inj read]
    congr 1
    omega
  next outside => exact Mem.read_writeN_other _ _ _ _ (by omega)

theorem Mem.read_writeWords {m : Mem} (wf : m.wf = true) (dst : Nat) (bs : List Byte) (words : List Nat) (x : Nat) :
    (m.writeWords dst bs words).read x =
      if dst ≤ x ∧ (x - dst) / 8 ∈ words then bs.getD (x - dst) 0 else m.read x := by
  induction words generalizing m with
  | nil => simp [Mem.writeWords]
  | cons i r ih =>
    have rest : m.writeWords dst bs (i :: r) = (m.writeN (dst + 8 * i) (bytesAt bs (8 * i) 8)).writeWords dst bs r := rfl
    rw [rest, ih (m.wf_writeN _ _ wf), Mem.read_writeWord wf]
    split_ifs <;> simp_all

/-- Settles O34: each answer, once nothing keeps it waiting, is given; the words of a block load land in the store one by one. -/
theorem globalAnswers : Obligations.GlobalAnswers := by
  unfold Obligations.GlobalAnswers
  refine fun s core slot id g mine clean => ⟨fun a found drained first there whole sound => ?_,
    fun l found goes whole sound => ?_, fun l words x wf _ _ => ?_⟩
  · have goes : s.accessWaits { core := core, t := Fin.ofNat 16 slot } g.ctx id a.gva a.own = false := by
      simp only [State.accessWaits, drained, first, there, Bool.or_self]
    exact exec_globalResponse_of_goes mine clean found whole goes sound
  · exact exec_blockLoadComplete_of_goes mine clean found whole goes sound
  · have landed := State.landWords_store s { core := core, t := Fin.ofNat 16 slot } l words
    rw [mine] at landed
    exact (congrArg (Mem.read · x) landed).trans (Mem.read_writeWords wf ..)

end Sys2Proof.Machine
end

section
/-! Drains of memory cores, the tasks that their thread sets take, and the pages and lines that are supplied. -/
namespace Sys2Proof.Machine

section Draining
variable {s u : State} {k n id : Nat} {e : CommitEntry}

theorem exec_commitEntryDrain_of_locksFirst (found : (s.core (.memory k n)).commit.find? (fun e => e.id == id) = some e)
    (draining : e.draining = true) (free : s.entryHeld (.memory k n) e = false) (locks : s.locksFirst e = true) :
    exec (.commitEntryDrain k n id) s = .next (s.lockEntry (.memory k n) id) := by
  show execCommitEntryDrain k n id s = _
  simp only [execCommitEntryDrain, found, draining, free, locks, Bool.not_false, Bool.and_self, if_true]

theorem exec_commitEntryDrain_of_performs (found : (s.core (.memory k n)).commit.find? (fun e => e.id == id) = some e)
    (draining : e.draining = true) (free : s.entryHeld (.memory k n) e = false) (locked : s.locksFirst e = false)
    (performs : s.performEntry (.memory k n) e = some u) :
    exec (.commitEntryDrain k n id) s = .next ((u.settleCommit e.gang).finishRetiring e.gang).settleDeferred := by
  show execCommitEntryDrain k n id s = _
  simp only [execCommitEntryDrain, found, draining, free, locked, performs, Bool.not_false, Bool.and_self, if_true,
    Bool.false_eq_true, if_false]

end Draining

section Supplying
variable {s : State} {k n slot : Nat}

theorem exec_taskFrameLoad_of_ready {t : Nat} (set : t < 2) (within : slot < 16)
    (idle : (s.core (.memory k n)).running.toList.getD t (some 0) = none)
    (oldest : (s.core (.memory k n)).oldestReady = some slot) :
    exec (.taskFrameLoad k n slot t) s =
      .next (s.setCore (.memory k n) ((s.core (.memory k n)).giveSet t slot)) := by
  show execTaskFrameLoad k n slot t s = _
  have takes : t < 2 ∧ slot < 16 ∧ ((s.core (.memory k n)).running.toList.getD t (some 0)).isNone ∧
      (s.core (.memory k n)).oldestReady = some slot := ⟨set, within, by rw [idle]; rfl, oldest⟩
  exact if_pos takes

/-- The first page that a parked task waits for is away, and is put into the frame that firmware gives (R432, R438). -/
theorem State.supplyTask_of_absent {w : Who} {frame gva : Nat} {left : List Nat} {bytes : List Byte} {g : Gang} {x : Context}
    (waits : (s.core w.core).tasks[w.t].faultPages = gva :: left) (mine : s.gangOf w = some g) (ctx : s.ctx g.ctx = some x)
    (absent : x.walk gva = .absent) (fits : s.frameOk 0 frame = true) :
    s.supplyTask w frame bytes =
      (s.placePage g.ctx gva frame ((x.backing.find (gva / 2 ^ 16)).getD bytes)).unpark w g.ctx := by
  simp only [State.supplyTask, waits, mine, ctx, absent, fits, Option.map_some, if_true]

theorem exec_demandFetch_of_wants {core : CoreId} {line : Nat} {w : Who} {l : ScratchLine}
    (wants : s.wantsLine core line = some (w, l)) (clean : s.fetchPoison w l = none) :
    exec (.demandFetch core line) s = .next ((s.demandLine w l).modTs w fun t => t.delay 9 1) := by
  show execDemandFetch core line s = _
  simp only [execDemandFetch, wants, clean]

end Supplying

/-- Settles O40: each event, once its conditions hold, does what it says. -/
theorem memoryCoreEvents : Obligations.MemoryCoreEvents := by
  unfold Obligations.MemoryCoreEvents
  refine fun s k n => ⟨fun id e u found draining free => ⟨?_, ?_⟩, fun slot t set within idle oldest => ?_,
    fun slot frame bytes gva left g x waits mine ctx absent fits => ?_, fun core line w l wants clean => ?_⟩
  · exact exec_commitEntryDrain_of_locksFirst found draining free
  · exact exec_commitEntryDrain_of_performs found draining free
  · exact exec_taskFrameLoad_of_ready set within idle oldest
  · exact congrArg (fun t : State => (.next t.settleDeferred : Result)) (State.supplyTask_of_absent waits mine ctx absent fits)
  · exact exec_demandFetch_of_wants wants clean

end Sys2Proof.Machine
end

section
/-! Loads and stores of global memory that are let through. -/
namespace Sys2Proof.Machine

/-- A load or a store passes the checks of its reference and is let through (R321, R322, R438). -/
structure State.Goes (s : State) (c : Fin 32) (fmt : Fmt) (rd wr : Bool) (off : Int) (g : Gang) (gva n align : Nat) : Prop where
  ref : s.refcheck s.who c.val (.fmt fmt) rd wr off n align = .ok gva
  reach : s.reaches g gva n wr

section Loads
variable {s : State} {h : Hdr} {fmt : Fmt} {d : SReg} {a : SPair} {c : Fin 32} {imm : Imm} {x : DWord} {g : Gang} {gva : Nat}

/-- A load is under way, and its register awaits the answer (R140). -/
def State.awaits (s : State) (h : Hdr) (a : SPair) (reg : AnswerReg) (gva n : Nat) (acquire : Option Scope) : Result :=
  ((s.through.awaitAnswer s.who reg gva n (s.through.ownStores s.who gva n) acquire).modTs s.who fun t => t.killP h.dmA a).done

theorem exec_gld_scalar {w : LdWidth} (on : s.on h) (base : s.me.readP a = .ok x) (acquired : s.me.afterAcquire = .ok ())
    (free : s.me.freeLd w d = .ok ()) (goes : s.Goes c fmt true false (ea x imm 0) g gva w.bytes w.bytes) :
    exec (.gld h fmt (.scalar w d) a c imm) s = s.awaits h a (.scalar w d) gva w.bytes none := by
  obtain ⟨ref, reach⟩ := goes
  have base : (s.ts s.who).readP a = .ok x := base
  have acquired : (s.ts s.who).afterAcquire = .ok () := acquired
  have free : (s.ts s.who).freeLd w d = .ok () := free
  show execGld h fmt (.scalar w d) a c imm s = _
  exact State.run_on on (by
    simp only [base, acquired, free, globalOff, ref, State.reach_of_reaches reach, bind, Except.bind])

theorem exec_gld_vec {v : VReg} (on : s.on h) (base : s.me.readP a = .ok x) (acquired : s.me.afterAcquire = .ok ())
    (free : s.me.freeV v = .ok ()) (goes : s.Goes c fmt true false (ea x imm 0) g gva 32 8) :
    exec (.gld h fmt (.vec v) a c imm) s = s.awaits h a (.vec fmt v) gva 32 none := by
  obtain ⟨ref, reach⟩ := goes
  have base : (s.ts s.who).readP a = .ok x := base
  have acquired : (s.ts s.who).afterAcquire = .ok () := acquired
  have free : (s.ts s.who).freeV v = .ok () := free
  show execGld h fmt (.vec v) a c imm s = _
  exact State.run_on on (by
    simp only [base, acquired, free, globalOff, ref, State.reach_of_reaches reach, bind, Except.bind])

theorem exec_gacq {wide : Bool} {sc : Scope} (on : s.on h) (base : s.me.readP a = .ok x)
    (acquired : s.me.afterAcquire = .ok ()) (free : s.me.freeLd (if wide then .b64 else .b32) d = .ok ())
    (goes : s.Goes c fmt true false (ea x imm 0) g gva (LdWidth.bytes (if wide then .b64 else .b32))
      (LdWidth.bytes (if wide then .b64 else .b32))) :
    exec (.gacq h wide sc fmt d a c imm) s = s.awaits h a (.scalar (if wide then .b64 else .b32) d) gva
      (LdWidth.bytes (if wide then .b64 else .b32)) (some sc) := by
  obtain ⟨ref, reach⟩ := goes
  have base : (s.ts s.who).readP a = .ok x := base
  have acquired : (s.ts s.who).afterAcquire = .ok () := acquired
  have free : (s.ts s.who).freeLd (if wide then .b64 else .b32) d = .ok () := free
  show execGacq h wide sc fmt d a c imm s = _
  exact State.run_on on (by
    simp only [base, acquired, free, globalOff, ref, State.reach_of_reaches reach, bind, Except.bind])

theorem exec_gld_blk {cnt : BitVec 13} {p : Word} (on : s.on h) (base : s.me.readP a = .ok x)
    (acquired : s.me.afterAcquire = .ok ()) (target : s.me.readS d = .ok p) (hal : p.toNat % 8 = 0)
    (acc : s.access s.who [((p.toNat : Int), 8 * (cnt.toNat + 1))] = .ok ())
    (goes : s.Goes c fmt true false (ea x imm 0) g gva (8 * (cnt.toNat + 1)) 8) :
    exec (.gld h fmt (.blk d cnt) a c imm) s = (({ s.through with nextId := s.nextId + 1 } : State).setTs s.who
      { s.me.killP h.dmA a with
        loadCount := s.me.loadCount + 1
        loads := s.me.loads ++ [{ id := s.nextId, number := s.me.loadCount + 1, gva := gva, dst := p.toNat, n := 8 * (cnt.toNat + 1)
                                  own := s.through.ownStores s.who gva (8 * (cnt.toNat + 1)), step := s.me.sstep
                                  landed := false }] }).done := by
  obtain ⟨ref, reach⟩ := goes
  have base : (s.ts s.who).readP a = .ok x := base
  have acquired : (s.ts s.who).afterAcquire = .ok () := acquired
  have target : (s.ts s.who).readS d = .ok p := target
  have ts : ({ s.through with nextId := s.nextId + 1 } : State).ts s.who = s.me := State.ts_through
  have aligns : aligned 8 [(p.toNat : Int)] = .ok () := aligned_of_mod (by omega)
  show execGld h fmt (.blk d cnt) a c imm s = _
  refine State.run_on on ?_
  simp only [base, acquired, target, globalOff, ref, aligns, acc, State.reach_of_reaches reach, bind, Except.bind]
  rw [State.modTs_eq, State.through_nextId, ts]

end Loads

section Stores
variable {s t : State} {h : Hdr} {fmt : Fmt} {b : SReg} {a : SPair} {c : Fin 32} {imm : Imm} {x : DWord} {g : Gang} {gva : Nat}
  {bs : List Byte}

theorem exec_gst_scalar {w : StWidth} (on : s.on h) (base : s.me.readP a = .ok x) (acquired : s.me.afterAcquire = .ok ())
    (source : s.me.readSt w b = .ok bs) (goes : s.Goes c fmt false true (ea x imm 0) g gva w.bytes w.bytes)
    (put : s.through.buffer s.who .bytes gva bs = .ok t) :
    exec (.gst h fmt (.scalar w b) a c imm) s = (t.modTs s.who fun u => (u.killP h.dmA a).killSt h.dmB w b).done := by
  obtain ⟨ref, reach⟩ := goes
  have base : (s.ts s.who).readP a = .ok x := base
  have acquired : (s.ts s.who).afterAcquire = .ok () := acquired
  have source : (s.ts s.who).readSt w b = .ok bs := source
  show execGst h fmt (.scalar w b) a c imm s = _
  exact State.run_on on (by
    simp only [base, acquired, source, globalOff, ref, State.reach_of_reaches reach, put, bind, Except.bind])

theorem exec_gst_vec {v : VReg} {y : VWord} (on : s.on h) (base : s.me.readP a = .ok x)
    (acquired : s.me.afterAcquire = .ok ()) (source : s.me.readV v (some fmt) = .ok y)
    (goes : s.Goes c fmt false true (ea x imm 0) g gva 32 8) (put : s.through.buffer s.who .bytes gva (bytesOf y) = .ok t) :
    exec (.gst h fmt (.vec v) a c imm) s = (t.modTs s.who fun u => (u.killP h.dmA a).killV h.dmB v).done := by
  obtain ⟨ref, reach⟩ := goes
  have base : (s.ts s.who).readP a = .ok x := base
  have acquired : (s.ts s.who).afterAcquire = .ok () := acquired
  have source : (s.ts s.who).readV v (some fmt) = .ok y := source
  show execGst h fmt (.vec v) a c imm s = _
  exact State.run_on on (by
    simp only [base, acquired, source, globalOff, ref, State.reach_of_reaches reach, put, bind, Except.bind])

theorem exec_gst_blk {cnt : BitVec 13} {p : Word} (on : s.on h) (base : s.me.readP a = .ok x)
    (acquired : s.me.afterAcquire = .ok ()) (source : s.me.readS b = .ok p) (hal : p.toNat % 8 = 0)
    (acc : s.access s.who [((p.toNat : Int), 8 * (cnt.toNat + 1))] = .ok ())
    (goes : s.Goes c fmt false true (ea x imm 0) g gva (8 * (cnt.toNat + 1)) 8)
    (loaded : s.through.loadBytes s.who p.toNat (8 * (cnt.toNat + 1)) = .ok bs)
    (put : s.through.buffer s.who .bytes gva bs = .ok t) :
    exec (.gst h fmt (.blk b cnt) a c imm) s = (t.modTs s.who fun u => (u.killP h.dmA a).killS h.dmB b).done := by
  obtain ⟨ref, reach⟩ := goes
  have base : (s.ts s.who).readP a = .ok x := base
  have acquired : (s.ts s.who).afterAcquire = .ok () := acquired
  have source : (s.ts s.who).readS b = .ok p := source
  have aligns : aligned 8 [(p.toNat : Int)] = .ok () := aligned_of_mod (by omega)
  show execGst h fmt (.blk b cnt) a c imm s = _
  exact State.run_on on (by
    simp only [base, acquired, source, globalOff, ref, aligns, acc, State.reach_of_reaches reach, loaded, put, bind, Except.bind])

theorem exec_grel {wide : Bool} {sc : Scope} (on : s.on h) (base : s.me.readP a = .ok x)
    (acquired : s.me.afterAcquire = .ok ()) (source : s.me.readSt (if wide then .b64 else .b32) b = .ok bs)
    (performed : s.me.performed sc = .ok ())
    (goes : s.Goes c fmt false true (ea x imm 0) g gva (StWidth.bytes (if wide then .b64 else .b32))
      (StWidth.bytes (if wide then .b64 else .b32)))
    (put : s.through.buffer s.who .release gva bs = .ok t) :
    exec (.grel h wide sc fmt a b c imm) s =
      (t.modTs s.who fun u => (u.killP h.dmA a).killSt h.dmB (if wide then .b64 else .b32) b).done := by
  obtain ⟨ref, reach⟩ := goes
  have base : (s.ts s.who).readP a = .ok x := base
  have acquired : (s.ts s.who).afterAcquire = .ok () := acquired
  have source : (s.ts s.who).readSt (if wide then .b64 else .b32) b = .ok bs := source
  have performed : (s.ts s.who).performed sc = .ok () := performed
  show execGrel h wide sc fmt a b c imm s = _
  exact State.run_on on (by
    simp only [base, acquired, source, performed, globalOff, ref, State.reach_of_reaches reach, put, bind, Except.bind])

end Stores

end Sys2Proof.Machine
end

section
/-! A task's own bytes in its commit buffer (R141, R142): a buffer whose entries hold bytes of their lines alone gives a load what a
store has put there, as long as it has room. -/
namespace Sys2Proof.Machine

section Counting
variable {α : Type} [BEq α] [LawfulBEq α]

/-- A list without its repetitions is no longer than one that holds all of its members. -/
theorem length_eraseDups_le {l m : List α} (h : l ⊆ m) : l.eraseDups.length ≤ m.length := by
  induction hn : l.length using Nat.strongRecOn generalizing l m with
  | ind n ih =>
    cases l with
    | nil => simp
    | cons a r =>
      have fewer : (r.filter fun b => !b == a).length < n := by
        have := List.length_filter_le (fun b => !b == a) r
        simp only [List.length_cons] at hn
        omega
      have rest : (r.filter fun b => !b == a) ⊆ m.erase a := fun b hb => by
        obtain ⟨mem, ne⟩ := List.mem_filter.1 hb
        exact (List.mem_erase_of_ne (by simpa using ne)).2 (h (List.mem_cons_of_mem a mem))
      have mine : a ∈ m := h List.mem_cons_self
      have shorter := List.length_erase_of_mem mine
      have pos := List.length_pos_of_mem mine
      have := ih _ fewer rest rfl
      rw [List.eraseDups_cons, List.length_cons]
      omega

end Counting

/-- An entry that is no deferred atomic. -/
def CommitEntry.plain (e : CommitEntry) : Bool :=
  match e.kind with
  | .atom _ _ _ => false
  | _ => true

section Entries
variable {e : CommitEntry} {gang slot : Nat} {step : Word} {a : Nat}

/-- What an entry gives a load of its task's own stores of a superstep, of a byte (R142). -/
def CommitEntry.gives (e : CommitEntry) (gang slot : Nat) (step : Word) (a : Nat) : Option Byte :=
  if (e.gang == gang && e.slot == slot && e.step == step && !e.draining && e.plain) && e.mask.contains a then some (e.bytes.read a)
  else none

/-- Bytes of its line enter an entry (R141). -/
def CommitEntry.merge (e : CommitEntry) (bs : List (Nat × Byte)) : CommitEntry :=
  { e with
    bytes := bs.foldl (fun m b => m.write b.1 b.2) e.bytes
    mask := e.mask ++ (bs.map (·.1)).filter fun a => !e.mask.contains a }

theorem CommitEntry.mem_mask_merge (bs : List (Nat × Byte)) : a ∈ (e.merge bs).mask ↔ a ∈ e.mask ∨ a ∈ bs.map (·.1) := by
  simp only [CommitEntry.merge, List.mem_append, List.mem_filter, List.contains_eq_mem, Bool.not_eq_true', decide_eq_false_iff_not]
  tauto

/-- Bytes that are written one by one, each with the value that a function gives its address. -/
theorem Mem.read_foldl_write {m : Mem} (wf : m.wf = true) {f : Nat → Byte} {bs : List (Nat × Byte)}
    (hf : ∀ b ∈ bs, b.2 = f b.1) :
    (bs.foldl (fun m b => m.write b.1 b.2) m).wf = true ∧
      (bs.foldl (fun m b => m.write b.1 b.2) m).read a = if a ∈ bs.map (·.1) then f a else m.read a := by
  induction bs generalizing m with
  | nil => simp [wf]
  | cons b r ih =>
    obtain ⟨value, rest⟩ := List.forall_mem_cons.1 hf
    obtain ⟨wf', read⟩ := ih (m.wf_write b.1 b.2 wf) rest
    refine ⟨wf', ?_⟩
    rw [List.foldl_cons, read, Mem.read_write _ _ _ _ wf, value, List.map_cons]
    by_cases h : a = b.1 <;> simp [h]

/-- Of the bytes that enter an entry of the task's superstep a load brings the new ones, of the others what it brought before. -/
theorem CommitEntry.gives_merge (wf : e.bytes.wf = true) {f : Nat → Byte} {bs : List (Nat × Byte)} (hf : ∀ b ∈ bs, b.2 = f b.1)
    (mine : (e.gang == gang && e.slot == slot && e.step == step && !e.draining && e.plain) = true) :
    (e.merge bs).gives gang slot step a = if a ∈ bs.map (·.1) then some (f a) else e.gives gang slot step a := by
  have mine' : ((e.merge bs).gang == gang && (e.merge bs).slot == slot && (e.merge bs).step == step && !(e.merge bs).draining &&
    (e.merge bs).plain) = true := mine
  have read : (e.merge bs).bytes.read a = _ := (Mem.read_foldl_write wf hf).2
  have mask := CommitEntry.mem_mask_merge (e := e) (a := a) bs
  simp only [CommitEntry.gives, mine, mine', Bool.true_and, List.contains_eq_mem, decide_eq_true_eq, mask, read]
  by_cases h : a ∈ bs.map (·.1)
  · simp only [h, or_true, if_true]
  · simp only [h, or_false, if_false]

end Entries

section Buffers
variable {es pre post : List CommitEntry} {e : CommitEntry} {gang slot : Nat} {step : Word} {a line n : Nat}

/-- What a task's own stores of a superstep give for a byte: the last entry that holds it (R142). -/
def ownByte (es : List CommitEntry) (gang slot : Nat) (step : Word) (a : Nat) : Option Byte :=
  es.foldl (fun acc e => (e.gives gang slot step a).or acc) none

theorem Core.ownBytes_eq (k : Core) (gang slot : Nat) (step : Word) (gva n : Nat) :
    k.ownBytes gang slot step gva n = (List.range n).map fun i => ownByte k.commit gang slot step (gva + i) := by
  unfold Core.ownBytes ownByte
  refine List.map_congr_left fun i _ => ?_
  rw [List.foldl_filter]
  refine congrArg (fun f => List.foldl f none k.commit) (funext fun acc => funext fun e => ?_)
  show (if (e.gang == gang && e.slot == slot && e.step == step && !e.draining && e.plain) = true then _ else acc) = _
  unfold CommitEntry.gives
  split_ifs <;> simp_all

/-- Entries that give nothing of a byte leave what those before them give. -/
theorem ownByte_append_of_none (h : ∀ e ∈ post, e.gives gang slot step a = none) :
    ownByte (pre ++ post) gang slot step a = ownByte pre gang slot step a := by
  unfold ownByte
  rw [List.foldl_append]
  generalize List.foldl _ none pre = acc
  induction post with
  | nil => rfl
  | cons e r ih =>
    obtain ⟨none, rest⟩ := List.forall_mem_cons.1 h
    rw [List.foldl_cons, none, Option.none_or]
    exact ih rest

theorem ownByte_concat : ownByte (pre ++ [e]) gang slot step a = (e.gives gang slot step a).or (ownByte pre gang slot step a) := by
  simp [ownByte]

/-- Entries with ids of their own below a number, whose bytes are in form and lie in their lines. -/
structure SoundBuffer (es : List CommitEntry) (n : Nat) : Prop where
  wf : ∀ e ∈ es, e.bytes.wf = true
  inLine : ∀ e ∈ es, ∀ a ∈ e.mask, a / 64 * 64 = e.line
  fresh : ∀ e ∈ es, e.id < n
  ids : (es.map (·.id)).Nodup

/-- The last entry of a task for a line, which takes bytes of a superstep: no later one of the task is for the line (R141). -/
structure TakesLine (e : CommitEntry) (post : List CommitEntry) (gang slot : Nat) (step : Word) (line : Nat) : Prop where
  mine : (e.gang == gang && e.slot == slot && e.step == step && !e.draining && e.plain) = true
  forLine : e.line = line
  last : ∀ x ∈ post, x.gang = gang → x.slot = slot → x.line ≠ line

theorem mergeable_eq_some {id : Nat} (h : mergeable es gang slot step line = some id) :
    ∃ pre e post, es = pre ++ e :: post ∧ e.id = id ∧ TakesLine e post gang slot step line := by
  unfold mergeable at h
  dsimp only at h
  split at h
  next e found =>
    split at h
    next takes =>
      obtain ⟨kind, at_, step, open_⟩ := takes
      rw [List.find?_filter, List.find?_eq_some_iff_append] at found
      obtain ⟨mine, after, before, split, none⟩ := found
      refine ⟨before.reverse, e, after.reverse, by simpa using congrArg List.reverse split, Option.some.inj h, ?_, at_,
        fun x hx gang slot same => ?_⟩
      · simp only [decide_eq_true_eq, Bool.and_eq_true, beq_iff_eq] at mine
        obtain ⟨⟨gang, slot⟩, -⟩ := mine
        simp [gang, slot, step, open_, CommitEntry.plain, kind]
      · have := none x (List.mem_reverse.1 hx)
        simp [gang, slot, same] at this
    · cases h
  · cases h

/-- The keys that the entries of a buffer count under (R135, R141). -/
theorem mem_commitKeys {k : Nat × Word × Nat} :
    k ∈ commitKeys es ↔ ∃ e ∈ es, e.mask ≠ [] ∧ e.plain = true ∧ (e.gang, e.step, e.line) = k := by
  have keys : commitKeys es = ((es.filter fun e => !e.mask.isEmpty && e.plain).map fun e => (e.gang, e.step, e.line)).eraseDups := rfl
  rw [keys, List.mem_eraseDups, List.mem_map]
  simp [List.mem_filter, and_assoc]

theorem commitCount_eq (es : List CommitEntry) : commitCount es = (commitKeys es).length + es.countP fun e => !e.plain := by
  unfold commitCount
  rw [List.countP_eq_length_filter]
  congr 3
  funext e
  cases kind : e.kind <;> simp [CommitEntry.plain, kind]

theorem length_commitKeys_le {ks : List (Nat × Word × Nat)} (h : commitKeys es ⊆ ks) : (commitKeys es).length ≤ ks.length :=
  length_eraseDups_le fun _ hk => h (List.mem_eraseDups.2 hk)

section Merging
variable {bs : List (Nat × Byte)} (takes : TakesLine e post gang slot step line)
include takes

/-- A merge adds no key to those of a buffer but that of its line. -/
theorem commitKeys_merge : commitKeys (pre ++ e.merge bs :: post) ⊆ (gang, step, line) :: commitKeys (pre ++ e :: post) := by
  obtain ⟨mine, forLine, -⟩ := takes
  simp only [Bool.and_eq_true, beq_iff_eq] at mine
  obtain ⟨⟨⟨⟨hg, -⟩, hs⟩, -⟩, -⟩ := mine
  intro k hk
  obtain ⟨x, hx, full, plain, rfl⟩ := mem_commitKeys.1 hk
  rcases List.mem_append.1 hx with hx | hx
  · exact List.mem_cons_of_mem _ (mem_commitKeys.2 ⟨x, by simp [hx], full, plain, rfl⟩)
  · rcases List.mem_cons.1 hx with rfl | hx
    · refine List.mem_cons.2 (.inl ?_)
      rw [← hg, ← hs, ← forLine]
      rfl
    · exact List.mem_cons_of_mem _ (mem_commitKeys.2 ⟨x, by simp [hx], full, plain, rfl⟩)

omit takes in
theorem commitKeys_subset_merge : commitKeys (pre ++ e :: post) ⊆ commitKeys (pre ++ e.merge bs :: post) := by
  intro k hk
  obtain ⟨x, hx, full, plain, rfl⟩ := mem_commitKeys.1 hk
  rcases List.mem_append.1 hx with hx | hx
  · exact mem_commitKeys.2 ⟨x, by simp [hx], full, plain, rfl⟩
  · rcases List.mem_cons.1 hx with rfl | hx
    · exact mem_commitKeys.2 ⟨x.merge bs, by simp, by simp [CommitEntry.merge, full], plain, rfl⟩
    · exact mem_commitKeys.2 ⟨x, by simp [hx], full, plain, rfl⟩

/-- What a line takes of the buffer it leaves for the lines after it. -/
theorem commitCount_merge (lines : List Nat) : commitCount (pre ++ e.merge bs :: post) +
    needed (pre ++ e.merge bs :: post) gang step .bytes lines ≤
      commitCount (pre ++ e :: post) + needed (pre ++ e :: post) gang step .bytes (line :: lines) := by
  have grown := commitKeys_subset_merge (e := e) (pre := pre) (post := post) (bs := bs)
  have most := commitKeys_merge (bs := bs) (pre := pre) takes
  have atoms : (pre ++ e.merge bs :: post).countP (fun e => !e.plain) = (pre ++ e :: post).countP fun e => !e.plain := by
    simp only [List.countP_append, List.countP_cons]
    rfl
  have later : needed (pre ++ e.merge bs :: post) gang step .bytes lines ≤ needed (pre ++ e :: post) gang step .bytes lines := by
    simp only [needed, ← List.countP_eq_length_filter]
    refine List.countP_mono_left fun l _ away => ?_
    simp only [Bool.not_eq_true', List.contains_eq_mem, decide_eq_false_iff_not] at away ⊢
    exact fun there => away (grown there)
  simp only [commitCount_eq, atoms]
  by_cases there : (gang, step, line) ∈ commitKeys (pre ++ e :: post)
  · have same := length_commitKeys_le fun k hk => (List.mem_cons.1 (most hk)).elim (fun eq => eq ▸ there) id
    have counted : needed (pre ++ e :: post) gang step .bytes (line :: lines) = needed (pre ++ e :: post) gang step .bytes lines := by
      simp [needed, there]
    omega
  · have one := length_commitKeys_le most
    have counted : needed (pre ++ e :: post) gang step .bytes (line :: lines) =
        needed (pre ++ e :: post) gang step .bytes lines + 1 := by
      simp [needed, there]
    simp only [List.length_cons] at one
    omega

variable (sound : SoundBuffer (pre ++ e :: post) n) {f : Nat → Byte} (bytes : ∀ b ∈ bs, b.1 / 64 * 64 = line ∧ b.2 = f b.1)
include sound bytes

theorem SoundBuffer.merge : SoundBuffer (pre ++ e.merge bs :: post) n := by
  obtain ⟨wf, inLine, fresh, ids⟩ := sound
  have split (p : CommitEntry → Prop) (h : ∀ x ∈ pre ++ e :: post, p x) (merged : p e → p (e.merge bs)) :
      ∀ x ∈ pre ++ e.merge bs :: post, p x := by
    simp only [List.forall_mem_append, List.forall_mem_cons] at h ⊢
    exact ⟨h.1, merged h.2.1, h.2.2⟩
  refine ⟨split _ wf fun wf => (Mem.read_foldl_write (a := 0) wf fun b hb => (bytes b hb).2).1,
    split _ inLine fun inLine a ha => ?_, split _ fresh id, ?_⟩
  · rcases (CommitEntry.mem_mask_merge bs).1 ha with ha | ha
    · exact inLine a ha
    · obtain ⟨b, hb, rfl⟩ := List.mem_map.1 ha
      exact (bytes b hb).1.trans takes.forLine.symm
  · have same : (e.merge bs).id = e.id := rfl
    simpa [same] using ids

/-- A load brings the bytes that a merge has put, and of others what it brought before (R142). -/
theorem ownByte_merge : ownByte (pre ++ e.merge bs :: post) gang slot step a =
    if a ∈ bs.map (·.1) then some (f a) else ownByte (pre ++ e :: post) gang slot step a := by
  have gives := CommitEntry.gives_merge (a := a) (sound.wf e (by simp)) (fun b hb => (bytes b hb).2) takes.mine
  split
  next new =>
    rw [if_pos new] at gives
    have none : ∀ x ∈ post, x.gives gang slot step a = none := fun x hx => by
      obtain ⟨b, hb, rfl⟩ := List.mem_map.1 new
      refine if_neg fun gave => ?_
      simp only [Bool.and_eq_true, beq_iff_eq, List.contains_eq_mem, decide_eq_true_eq] at gave
      obtain ⟨⟨⟨⟨⟨hg, hs⟩, -⟩, -⟩, -⟩, mem⟩ := gave
      exact takes.last x hx hg hs ((sound.inLine x (by simp [hx]) _ mem).symm.trans (bytes b hb).1)
    rw [List.append_cons, ownByte_append_of_none none, ownByte_concat, gives, Option.some_or]
  next old =>
    rw [if_neg old] at gives
    simp only [ownByte, List.foldl_append, List.foldl_cons, gives]

end Merging

/-- Where entries have ids of their own, a merge changes the one that it finds. -/
theorem SoundBuffer.map_merge (sound : SoundBuffer (pre ++ e :: post) n) (bs : List (Nat × Byte)) :
    ((pre ++ e :: post).map fun x => if x.id = e.id then x.merge bs else x) = pre ++ e.merge bs :: post := by
  have ids := sound.ids
  simp only [List.map_append, List.map_cons, List.nodup_append, List.nodup_cons, List.mem_map, List.mem_cons] at ids
  obtain ⟨-, ⟨after, -⟩, before⟩ := ids
  have same {l : List CommitEntry} (h : ∀ x ∈ l, x.id ≠ e.id) : (l.map fun x => if x.id = e.id then x.merge bs else x) = l :=
    (List.map_congr_left fun x hx => if_neg (h x hx)).trans (List.map_id' l)
  rw [List.map_append, List.map_cons, if_pos rfl, same fun x hx => before _ ⟨x, hx, rfl⟩ _ (.inl rfl),
    same fun x hx eq => after ⟨x, hx, eq⟩]

/-- An entry that holds no byte yet. -/
structure Blank (e : CommitEntry) (n : Nat) : Prop where
  mask : e.mask = []
  bytes : e.bytes = []
  id : e.id = n
  plain : e.plain = true

theorem SoundBuffer.concat_blank (sound : SoundBuffer es n) (blank : Blank e n) : SoundBuffer (es ++ [e]) (n + 1) := by
  obtain ⟨wf, inLine, fresh, ids⟩ := sound
  obtain ⟨mask, bytes, rfl, -⟩ := blank
  refine ⟨List.forall_mem_append.2 ⟨wf, List.forall_mem_singleton.2 (by rw [bytes]; rfl)⟩,
    List.forall_mem_append.2 ⟨inLine, List.forall_mem_singleton.2 (by simp [mask])⟩,
    List.forall_mem_append.2 ⟨fun x hx => Nat.lt_succ_of_lt (fresh x hx), List.forall_mem_singleton.2 (Nat.lt_succ_self _)⟩, ?_⟩
  simpa [List.nodup_append, ids] using fun x hx => Nat.ne_of_lt (fresh x hx)

theorem ownByte_concat_blank (blank : Blank e n) : ownByte (es ++ [e]) gang slot step a = ownByte es gang slot step a := by
  rw [ownByte_concat, CommitEntry.gives, blank.mask]
  simp

theorem commitKeys_concat_blank (blank : Blank e n) : commitKeys (es ++ [e]) = commitKeys es := by
  simp [commitKeys, blank.mask]

theorem commitCount_concat_blank (blank : Blank e n) : commitCount (es ++ [e]) = commitCount es := by
  simp [commitCount_eq, commitKeys_concat_blank blank, blank.plain]

end Buffers

section Putting
variable {s t : State} {w : Who} {g ctx n line : Nat} {step : Word} {bs : List (Nat × Byte)} {f : Nat → Byte}

/-- What bytes of a line do to the buffer that they enter (R141, R142): what a load brings then, and what they take of its room. -/
theorem State.putLine_spec (sound : SoundBuffer (s.core w.core).commit s.nextId)
    (bytes : ∀ b ∈ bs, b.1 / 64 * 64 = line ∧ b.2 = f b.1) :
    (let t := s.putLine w g ctx step .bytes line bs
    let es := (s.core w.core).commit
    let es' := (t.core w.core).commit
    SoundBuffer es' t.nextId ∧
    (∀ a, ownByte es' g w.t.val step a = if a ∈ bs.map (·.1) then some (f a) else ownByte es g w.t.val step a) ∧
    ∀ lines, commitCount es' + needed es' g step .bytes lines ≤ commitCount es + needed es g step .bytes (line :: lines)) := by
  unfold State.putLine
  dsimp only
  rw [if_pos rfl]
  split
  next id found =>
    obtain ⟨pre, e, post, split, rfl, takes⟩ := mergeable_eq_some found
    rw [State.modCore_nextId, State.core_modCore_same]
    rw [split] at sound ⊢
    have merged : ((pre ++ e :: post).map fun x => if x.id = e.id then
      { x with bytes := bs.foldl (fun m b => m.write b.1 b.2) x.bytes
               mask := x.mask ++ (bs.map (·.1)).filter fun a => !x.mask.contains a } else x) = pre ++ e.merge bs :: post :=
      sound.map_merge bs
    rw [merged]
    exact ⟨SoundBuffer.merge takes sound bytes, fun a => ownByte_merge takes sound bytes, commitCount_merge takes⟩
  next =>
    rw [State.modCore_nextId, State.core_modCore_same]
    obtain ⟨e, blank, takes, entered⟩ : ∃ e, Blank e s.nextId ∧ TakesLine e [] g w.t.val step line ∧ e.merge bs =
        { id := s.nextId, ctx := ctx, gang := g, q := (s.gang g).elim 0 (·.q), slot := w.t.val, step := step
          epoch := (s.gang g).elim 0 (·.epoch), line := line, bytes := bs.foldl (fun m b => m.write b.1 b.2) []
          mask := bs.map (·.1), kind := .bytes, draining := false, order := 0 } := by
      refine ⟨{ id := s.nextId, ctx := ctx, gang := g, q := (s.gang g).elim 0 (·.q), slot := w.t.val, step := step
                epoch := (s.gang g).elim 0 (·.epoch), line := line, bytes := [], mask := [], kind := .bytes, draining := false
                order := 0 }, ⟨rfl, rfl, rfl, rfl⟩, ⟨by simp [CommitEntry.plain], rfl, by simp⟩, ?_⟩
      simp [CommitEntry.merge]
    have core : ({ s with nextId := s.nextId + 1 } : State).core w.core = s.core w.core := State.core_congr rfl rfl rfl _
    simp only [core, ← entered]
    have sound' := sound.concat_blank blank
    have counted := commitCount_merge (bs := bs) (pre := (s.core w.core).commit) takes
    simp only [needed, commitCount_concat_blank blank, commitKeys_concat_blank blank] at counted ⊢
    refine ⟨SoundBuffer.merge takes sound' bytes, fun a => ?_, counted⟩
    rw [ownByte_merge takes sound' bytes, ownByte_concat_blank blank]

theorem State.makeRoom_of_room {fuel : Nat}
    (room : commitCount (s.core w.core).commit + needed (s.core w.core).commit g step .bytes [line] ≤ Config.commitEntries) :
    s.makeRoom w g step .bytes line (fuel + 1) = (s, true) := if_pos room

/-- While there is room for all lines of a store, each byte of it is what a load brings (R142). -/
theorem State.putLines_own {ps : List (Nat × List (Nat × Byte))} (sound : SoundBuffer (s.core w.core).commit s.nextId)
    (bytes : ∀ p ∈ ps, ∀ b ∈ p.2, b.1 / 64 * 64 = p.1 ∧ b.2 = f b.1)
    (room : commitCount (s.core w.core).commit + needed (s.core w.core).commit g step .bytes (ps.map (·.1)) ≤ Config.commitEntries)
    (put : s.putLines w g ctx step .bytes ps = (t, true)) (a : Nat) : ownByte (t.core w.core).commit g w.t.val step a =
      if a ∈ ps.flatMap (fun p => p.2.map (·.1)) then some (f a) else ownByte (s.core w.core).commit g w.t.val step a := by
  induction ps generalizing s with
  | nil =>
    cases put
    simp
  | cons p r ih =>
    obtain ⟨mine, rest⟩ := List.forall_mem_cons.1 bytes
    obtain ⟨sound', own, room'⟩ := s.putLine_spec (g := g) (ctx := ctx) (step := step) sound mine
    have fits : commitCount (s.core w.core).commit + needed (s.core w.core).commit g step .bytes [p.1] ≤ Config.commitEntries := by
      refine Nat.le_trans (Nat.add_le_add_left ?_ _) room
      simp only [needed, List.map_cons, List.filter_cons, List.filter_nil]
      split <;> simp
    rw [State.putLines, State.makeRoom_of_room fits] at put
    dsimp only at put
    split at put
    · cases put
    · rw [ih sound' rest ((room' _).trans room) put, own, List.flatMap_cons]
      by_cases later : a ∈ r.flatMap fun p => p.2.map (·.1)
      · rw [if_pos later, if_pos (List.mem_append_right _ later)]
      · simp only [List.mem_append, later, or_false, if_false]

end Putting

section Lines
variable {gva i : Nat} {bs : List Byte}

/-- The bytes of a store by lines: each lies in its line, and is the store's byte of its address. -/
theorem byLine_bytes : ∀ p ∈ byLine gva bs, ∀ b ∈ p.2, b.1 / 64 * 64 = p.1 ∧ b.2 = bs.getD (b.1 - gva) 0 := by
  unfold byLine
  split
  · simp
  · intro p hp b hb
    obtain ⟨i, -, rfl⟩ := List.mem_map.1 hp
    obtain ⟨mem, inside⟩ := List.mem_filter.1 hb
    obtain ⟨e, he, rfl⟩ := List.mem_map.1 mem
    have byte := List.mem_zipIdx_iff_getElem?.1 he
    simp only [Bool.and_eq_true, decide_eq_true_eq] at inside
    refine ⟨by dsimp only; omega, ?_⟩
    simp [List.getD_eq_getElem?_getD, byte]

/-- Every byte of a store is in one of its lines. -/
theorem mem_byLine (h : i < bs.length) : gva + i ∈ (byLine gva bs).flatMap fun p => p.2.map (·.1) := by
  have some : bs.isEmpty = false := by
    cases bs with
    | nil => cases h
    | cons => rfl
  have byte : (bs[i], i) ∈ bs.zipIdx := List.mem_zipIdx_iff_getElem?.2 (List.getElem?_eq_getElem h)
  have line : gva / 64 + ((gva + i) / 64 - gva / 64) = (gva + i) / 64 := by omega
  simp only [byLine, some, Bool.false_eq_true, if_false, List.mem_flatMap, List.mem_map, List.mem_range]
  refine ⟨_, ⟨(gva + i) / 64 - gva / 64, by omega, rfl⟩, (gva + i, bs[i]), ?_, rfl⟩
  refine List.mem_filter.2 ⟨List.mem_map.2 ⟨_, byte, rfl⟩, ?_⟩
  simp only [line, Bool.and_eq_true, decide_eq_true_eq]
  omega

end Lines

/-- What a store has put into a buffer with room for it is what a load of the range brings (R142). -/
theorem State.ownBytes_of_buffer {s t : State} {w : Who} {g gva : Nat} {bs : List Byte} (mine : s.gangId w = some g)
    (sound : SoundBuffer (s.core w.core).commit s.nextId)
    (room : commitCount (s.core w.core).commit +
      needed (s.core w.core).commit g (s.ts w).sstep .bytes ((byLine gva bs).map (·.1)) ≤ Config.commitEntries)
    (put : s.buffer w .bytes gva bs = .ok t) :
    (t.core w.core).ownBytes g w.t.val (s.ts w).sstep gva bs.length = bs.map some := by
  unfold State.buffer at put
  rw [mine] at put
  split at put
  next gg there _ =>
    cases there
    split at put
    next u lines =>
      cases put
      have own := State.putLines_own (f := fun a => bs.getD (a - gva) 0) sound byLine_bytes room lines
      rw [Core.ownBytes_eq]
      refine List.ext_getElem (by simp) fun i hi _ => ?_
      have hi : i < bs.length := by simpa using hi
      simp only [List.getElem_map, List.getElem_range, own, if_pos (mem_byLine hi), Nat.add_sub_cancel_left]
      simp [hi]
    next => cases put
  next => cases put

end Sys2Proof.Machine
end

section
/-! What loads and stores of global memory leaves open is whether a task reads its own stores, which a stray byte in a buffer
defeats. -/
namespace Sys2Proof.Machine

/-- The clause on own stores: while a buffer whose entries hold bytes in canonical form has room, the bytes that a store gave a range
are what a load of the range brings (R142). `State.ownBytes_of_buffer` is that of a buffer whose entries are sound. -/
def ReadsOwnStores : Prop :=
  ∀ (s t : State) (w : Who) (g : Nat) (gva : Nat) (bs : List Byte), s.gangId w = some g → (s.gangOf w).isSome = true →
    (∀ e ∈ (s.core w.core).commit, e.bytes.wf = true) →
    commitCount (s.core w.core).commit +
      needed (s.core w.core).commit g (s.ts w).sstep .bytes ((byLine gva bs).map (·.1)) ≤ 8192 →
    s.buffer w .bytes gva bs = .ok t →
    (t.core w.core).ownBytes g w.t.val (s.ts w).sstep gva bs.length = bs.map some

/-- Loads and stores of global memory do what O32 says of them: what is left of it is the clause on own stores. -/
theorem globalAccesses_iff : Obligations.GlobalAccesses ↔ ReadsOwnStores := by
  unfold Obligations.GlobalAccesses
  refine ⟨fun ⟨_, _, own⟩ => own, fun own => ⟨?_, ?_, own⟩⟩
  · intro s h fmt w wide sc d v cnt a c imm x g gva on base acquired
    exact ⟨fun ⟨ref, reach⟩ free => exec_gld_scalar on base acquired free ⟨ref, reach⟩,
      fun ⟨ref, reach⟩ free => exec_gld_vec on base acquired free ⟨ref, reach⟩,
      fun p ⟨ref, reach⟩ target hal acc => exec_gld_blk on base acquired target hal acc ⟨ref, reach⟩,
      fun ⟨ref, reach⟩ free => exec_gacq on base acquired free ⟨ref, reach⟩⟩
  · intro s t h fmt w wide sc b v cnt a c imm x g gva on base acquired
    exact ⟨fun bs ⟨ref, reach⟩ source put => exec_gst_scalar on base acquired source ⟨ref, reach⟩ put,
      fun y ⟨ref, reach⟩ source put => exec_gst_vec on base acquired source ⟨ref, reach⟩ put,
      fun p bs ⟨ref, reach⟩ source hal acc loaded put => exec_gst_blk on base acquired source hal acc ⟨ref, reach⟩ loaded put,
      fun bs ⟨ref, reach⟩ source performed put => exec_grel on base acquired source performed ⟨ref, reach⟩ put⟩

/-- Bytes 0 of a task of gang 0 in task slot 0, in its superstep 0, that wait for a line. -/
def waitingBytes (id line : Nat) (mask : List Nat) : CommitEntry :=
  { id := id, ctx := 0, gang := 0, q := 0, slot := 0, step := 0, epoch := 0, line := line, bytes := [], mask := mask, kind := .bytes
    draining := false, order := 0 }

/-- Task slot 0 of memory core (0, 0), of gang 0, at a GLD; an entry of its buffer for line 0, and a later one for line 64 whose mask
names byte 0, which is not in that line. No run makes such an entry. -/
def strayBuffer : State :=
  (State.reset.placeWord 0xB0002080100020000100000A).modCore (.memory 0 0) fun k =>
    { k with commit := [waitingBytes 0 0 [], waitingBytes 1 64 [0]] }

/-- A store of 1 to byte 0 goes into the first entry, and the later one, which holds 0 there, is what a load brings. -/
theorem buffer_strayBuffer : ∃ t, strayBuffer.buffer { core := .memory 0 0, t := 0 } .bytes 0 [1] = .ok t ∧
    (t.core (.memory 0 0)).ownBytes 0 0 0 0 1 = [some 0] := by
  have stored : (match strayBuffer.buffer { core := .memory 0 0, t := 0 } .bytes 0 [1] with
    | .ok t => decide ((t.core (.memory 0 0)).ownBytes 0 0 0 0 1 = [some 0])
    | .error _ => false) = true := by decide +kernel
  split at stored
  next t e => exact ⟨t, e, of_decide_eq_true stored⟩
  next => cases stored

/-- Refutes O32: it asks of the buffer's entries that their bytes are in canonical form, not that their masks lie in their lines; a
store goes into the last entry for its line, and a byte that a later entry for another line holds of it is what a load brings. -/
theorem not_globalAccesses : ¬ Obligations.GlobalAccesses := by
  rw [globalAccesses_iff]
  intro ownStores
  obtain ⟨t, stored, read⟩ := buffer_strayBuffer
  have brought := ownStores strayBuffer t { core := .memory 0 0, t := 0 } 0 0 [1] (by decide +kernel) (by decide +kernel)
    (by decide +kernel) (by decide +kernel) stored
  have step : (strayBuffer.ts { core := .memory 0 0, t := 0 }).sstep = 0 := by decide +kernel
  rw [step] at brought
  exact absurd (read.symm.trans brought) (by decide)

end Sys2Proof.Machine
end

section
/-! The decoder: what the encoder writes reads back, and what words decode to. -/
namespace Sys2Proof.Laws

section RoundTrips
open RoundTrip

/-- Each instruction has its round trip, and an event row has no encoding. -/
theorem RoundTrip.statement_all (i : Instr) : Statement i := by
  cases i with
  | nop => apply nop | iadd => apply iadd | isub => apply isub | imul => apply imul
  | imulh => apply imulh | imulhz => apply imulhz | idiv => apply idiv | idivz => apply idivz
  | irem => apply irem | iremz => apply iremz | iand => apply iand | ior => apply ior
  | ixor => apply ixor | iandn => apply iandn | ishl => apply ishl | ishrl => apply ishrl
  | ishra => apply ishra | irotl => apply irotl | imin => apply imin | imax => apply imax
  | iminz => apply iminz | imaxz => apply imaxz | iclz => apply iclz | ipop => apply ipop
  | isel => apply isel | iaddi => apply iaddi | imovi => apply imovi | imovhi => apply imovhi
  | icmp => apply icmp | padd => apply padd | psub => apply psub | aadd => apply aadd
  | aadds => apply aadds | pset => apply pset | pand => apply pand | por => apply por
  | pxor => apply pxor | pnot => apply pnot | br => apply br | jmp => apply jmp | call => apply call
  | callInd => apply callInd | ret => apply ret | loop => apply loop | loopi => apply loopi
  | halt => apply halt | yield => apply yield | crd => apply crd | cwr => apply cwr
  | counterZero => apply counterZero | trap => apply trap | xret => apply xret | ifence => apply ifence
  | brk => apply brk | wait => apply wait | capbuild => apply capbuild | ld => apply ld | st => apply st
  | ldv => apply ldv | stv => apply stv | ldvs => apply ldvs | stvs => apply stvs | ldvx => apply ldvx
  | stvx => apply stvx | ldt => apply ldt | stt => apply stt | ldf => apply ldf | stf => apply stf
  | lamo => apply lamo | lfence => apply lfence | lwopen => apply lwopen | lwclose => apply lwclose
  | lwdue => apply lwdue | send => apply send | sendop => apply sendop | subscribe => apply subscribe
  | unsubscribe => apply unsubscribe | bar => apply bar | barq => apply barq | chron => apply chron
  | tlwait => apply tlwait | tlread => apply tlread | vadd => apply vadd | vsub => apply vsub
  | vmul => apply vmul | vfma => apply vfma | vfms => apply vfms | vmin => apply vmin
  | vmax => apply vmax | vabs => apply vabs | vneg => apply vneg | vdiv => apply vdiv
  | vsqrt => apply vsqrt | vrsq => apply vrsq | vexp2 => apply vexp2 | vlog2 => apply vlog2
  | vcmp => apply vcmp | vsel => apply vsel | vand => apply vand | vor => apply vor | vxor => apply vxor
  | vshl => apply vshl | vshr => apply vshr | vshra => apply vshra | vperm => apply vperm
  | vbcast => apply vbcast | vshuf => apply vshuf | vredadd => apply vredadd | vredmax => apply vredmax
  | vredmin => apply vredmin | vdot => apply vdot | vmovs => apply vmovs | vexts => apply vexts
  | viota => apply viota | vcvt => apply vcvt | vquant => apply vquant | vdeq => apply vdeq
  | vscale => apply vscale | vtag => apply vtag | vtagq => apply vtagq | fadd => apply fadd
  | fsub => apply fsub | fmul => apply fmul | ffma => apply ffma | fdiv => apply fdiv
  | fsqrt => apply fsqrt | fabs => apply fabs | fneg => apply fneg | fmov => apply fmov
  | fround => apply fround | fscalb => apply fscalb | fcmp => apply fcmp | fcvtd => apply fcvtd
  | fcvts => apply fcvts | ftod => apply ftod | ftos => apply ftos | faccv => apply faccv
  | fprec => apply fprec | fldc => apply fldc | frel => apply frel | flen => apply flen
  | fexp => apply fexp | mgang => apply mgang | mdesc => apply mdesc | mzero => apply mzero
  | mdrain => apply mdrain | mmeta => apply mmeta | mscl => apply mscl | mrowrd => apply mrowrd
  | mrowwr => apply mrowwr | mcolrd => apply mcolrd | mcolwr => apply mcolwr | gld => apply gld
  | gst => apply gst | gatom => apply gatom | gfence => apply gfence | gacq => apply gacq
  | grel => apply grel | push => apply push | dpat => apply dpat | gref => apply gref
  | cpypost => apply cpypost | ovlpost => apply ovlpost | nwpost => apply nwpost | qpost => apply qpost
  | tscore => apply tscore | tdone => apply tdone | tround => apply tround
  | _ => exact event rfl

end RoundTrips

section Unassigned
variable {k : CoreKind} {w : IWord}

/-- A word of ones, or of opcode zero, is reason 0x100 (R193). -/
theorem decode_of_blank (h : (Fields.ofWord w).op = 0 ∨ w = BitVec.allOnes 96) : decode k w = .error (.illegal 0x100) :=
  if_pos h

/-- A word whose opcode no entry has is reason 0x101 (R192). -/
theorem decode_of_unassigned (h0 : (Fields.ofWord w).op ≠ 0) (h1 : w ≠ BitVec.allOnes 96)
    (hc : opClass (Fields.ofWord w).op.toNat = none) : decode k w = .error (.illegal 0x101) :=
  (if_neg (not_or.2 ⟨h0, h1⟩)).trans (if_pos hc)

end Unassigned

/-- Settles O54: the round trip of each instruction. -/
theorem decodeEncode : Obligations.DecodeEncode := by
  unfold Obligations.DecodeEncode
  exact fun k i => RoundTrip.statement_all i k

/-- Settles O55: the words of the spec are decoded as they stand; the two reasons come before the form of a word is looked at. -/
theorem decodeWords : Obligations.DecodeWords := by
  unfold Obligations.DecodeWords
  refine ⟨?words, fun k w => ⟨decode_of_blank, decode_of_unassigned⟩⟩
  case words =>
    exact ⟨rfl, rfl, rfl, rfl, rfl, rfl, rfl, rfl, rfl, rfl, rfl, rfl, rfl, rfl, rfl, rfl, rfl, rfl, rfl⟩

end Sys2Proof.Laws
end

section
/-! Transfers: where control may pass, what a transfer does, and the levels that it leaves. -/
namespace Sys2Proof.Machine

section Transferring
variable {s : State} {h : Hdr} {d a : SReg} {x : Word} {p : Int}

/-- What an allowed transfer costs its thread set (R231). -/
def State.slowed (s : State) (reg : Bool) : ThreadSet := s.me.delay 9 (if reg || !s.me.native then 2 else 0)

theorem State.transfer_of_allowed (allowed : s.refusesTarget s.who p = false) (leaves reg : Bool) :
    s.transfer p leaves reg = .ok (s.setTs s.who (s.slowed reg), .jump p.toNat leaves) := by
  simp only [State.transfer, allowed, Bool.false_eq_true, if_false]
  rfl

theorem State.transfer_of_refused (refused : s.refusesTarget s.who p = true) (leaves reg : Bool) :
    s.transfer p leaves reg = .error (.trap .target (BitVec.ofInt 32 p)) := by
  simp only [State.transfer, refused, if_true]

theorem exec_br_of_allowed (on : s.on h) (e : RelTarget) (allowed : s.refusesTarget s.who (relPos s.me.pc.toNat e) = false) :
    exec (.br h e) s = (s.setTs s.who (s.slowed false)).goes (relPos s.me.pc.toNat e).toNat true :=
  show execBr h e s = _ from State.run_on on (State.transfer_of_allowed allowed _ _)

theorem exec_br_of_refused (on : s.on h) (e : RelTarget) (refused : s.refusesTarget s.who (relPos s.me.pc.toNat e) = true) :
    exec (.br h e) s = s.traps .target (BitVec.ofInt 32 (relPos s.me.pc.toNat e)) :=
  show execBr h e s = _ from State.run_stops on (State.transfer_of_refused refused _ _)

theorem exec_call_of_allowed (on : s.on h) (e : RelTarget) (free : s.me.freeS d = .ok ())
    (allowed : s.refusesTarget s.who (relPos s.me.pc.toNat e) = false) :
    exec (.call h d e) s = (s.setTs s.who ((s.slowed false).putS d (BitVec.ofNat 32 (nextPos s.me.pc.toNat)))).goes
      (relPos s.me.pc.toNat e).toNat false := by
  show execCall h d e s = _
  refine State.run_on on ?_
  have free : (s.ts s.who).freeS d = .ok () := free
  have went := State.transfer_of_allowed allowed false false
  simp only [State.me] at went
  simp [free, went, State.pos, bind, Except.bind, State.me]

theorem exec_call_of_refused (on : s.on h) (e : RelTarget) (free : s.me.freeS d = .ok ())
    (refused : s.refusesTarget s.who (relPos s.me.pc.toNat e) = true) :
    exec (.call h d e) s = s.traps .target (BitVec.ofInt 32 (relPos s.me.pc.toNat e)) := by
  show execCall h d e s = _
  refine State.run_stops on ?_
  have free : (s.ts s.who).freeS d = .ok () := free
  have stopped := State.transfer_of_refused refused false false
  simp only [State.me] at stopped
  simp [free, stopped, State.pos, bind, Except.bind, State.me]

/-- JMP and RET (R230). -/
theorem State.run_jumpReg_of_allowed (on : s.on h) (reads : s.me.readS a = .ok x) (allowed : s.refusesTarget s.who x.toNat = false) :
    (s.run h fun s => s.jumpReg h a) = (s.setTs s.who ((s.slowed true).killS h.dmA a)).goes x.toNat true := by
  refine State.run_on on ?_
  have reads : (s.ts s.who).readS a = .ok x := reads
  simp [State.jumpReg, reads, State.transfer_of_allowed allowed, bind, Except.bind]

theorem State.run_jumpReg_of_refused (on : s.on h) (reads : s.me.readS a = .ok x) (refused : s.refusesTarget s.who x.toNat = true) :
    (s.run h fun s => s.jumpReg h a) = s.traps .target x := by
  refine State.run_stops on ?_
  have reads : (s.ts s.who).readS a = .ok x := reads
  simp [State.jumpReg, reads, State.transfer_of_refused refused, bind, Except.bind]

theorem exec_callInd_of_allowed (on : s.on h) (has : s.me.has1 d a x) (allowed : s.refusesTarget s.who x.toNat = false) :
    exec (.callInd h d a) s = (s.setTs s.who (((s.slowed true).killS h.dmA a).putS d
      (BitVec.ofNat 32 (nextPos s.me.pc.toNat)))).goes x.toNat false := by
  obtain ⟨reads, free⟩ := has
  show execCallInd h d a s = _
  refine State.run_on on ?_
  have reads : (s.ts s.who).readS a = .ok x := reads
  have free : (s.ts s.who).freeS d = .ok () := free
  simp [reads, free, State.transfer_of_allowed allowed, State.pos, bind, Except.bind, State.me]

theorem exec_callInd_of_refused (on : s.on h) (has : s.me.has1 d a x) (refused : s.refusesTarget s.who x.toNat = true) :
    exec (.callInd h d a) s = s.traps .target x := by
  obtain ⟨reads, free⟩ := has
  show execCallInd h d a s = _
  refine State.run_stops on ?_
  have reads : (s.ts s.who).readS a = .ok x := reads
  have free : (s.ts s.who).freeS d = .ok () := free
  simp [reads, free, State.transfer_of_refused refused, bind, Except.bind]

end Transferring

section Leaving

/-- A level's range holds a position (R236). -/
def LoopLevel.holds (l : LoopLevel) (n : Nat) : Prop := l.first.toNat ≤ n ∧ n ≤ l.last.toNat

/-- The levels that a transfer ends are the innermost ones that it leaves (R236). -/
theorem loopExit_ends (pos t : Nat) (ls : List LoopLevel) :
    (∃ ended, ls = ended ++ loopExit pos t ls ∧ ∀ l ∈ ended, l.holds pos ∧ ¬ l.holds t) ∧
      ∀ l, (loopExit pos t ls).head? = some l → l.holds pos → l.holds t := by
  induction ls with
  | nil => exact ⟨⟨[], rfl, by simp⟩, by simp [loopExit]⟩
  | cons l r ih =>
    obtain ⟨⟨ended, split, left⟩, inner⟩ := ih
    unfold loopExit
    split
    next leaves =>
      obtain ⟨first, last, past⟩ := leaves
      refine ⟨⟨l :: ended, congrArg (l :: ·) split, ?_⟩, inner⟩
      exact List.forall_mem_cons.2 ⟨⟨⟨first, last⟩, past⟩, left⟩
    next stays =>
      refine ⟨⟨[], rfl, by simp⟩, fun m head holds => ?_⟩
      cases Option.some.inj head
      exact Classical.not_not.1 fun past => stays ⟨holds.1, holds.2, past⟩

/-- Where control passes, and which levels are still active there. -/
theorem State.me_retire_jump (s : State) (p : Nat) (leaves : Bool) : (s.retire (.jump p leaves)).me = { s.me with
    run := .ready, pc := BitVec.ofNat 32 p, enter := true
    loops := if leaves && !s.me.inh then loopExit s.me.pc.toNat p s.me.loops else s.me.loops } := by
  have counted : s.counted.ts s.who = s.me := by simp [State.ts, State.me]
  have retired : s.retire (.jump p leaves) = s.counted.setTs s.who { s.counted.ts s.who with
      run := .ready, pc := BitVec.ofNat 32 p, enter := true
      loops := if leaves && !(s.counted.ts s.who).inh then loopExit (s.counted.ts s.who).pc.toNat p (s.counted.ts s.who).loops
        else (s.counted.ts s.who).loops } := rfl
  rw [retired, counted]
  exact State.me_setTs (by simp) _

theorem State.goes_leaves (s : State) (p : Nat) (leaves : Bool) : ∃ u : State, s.goes p leaves = .next u ∧
    u.me = { s.me with run := .ready, pc := BitVec.ofNat 32 p, enter := true, loops := u.me.loops } ∧
    (leaves = false ∨ s.me.inh = true → u.me.loops = s.me.loops) ∧
    (leaves = true → s.me.inh = false →
      (∃ ended, s.me.loops = ended ++ u.me.loops ∧ ∀ l ∈ ended, l.holds s.me.pc.toNat ∧ ¬ l.holds p) ∧
        ∀ l, u.me.loops.head? = some l → l.holds s.me.pc.toNat → l.holds p) := by
  refine ⟨_, rfl, ?_⟩
  rw [State.me_retire_jump]
  refine ⟨rfl, fun stays => ?_, fun leaves inh => ?_⟩
  · rcases stays with rfl | inh
    · rfl
    · simp [inh]
  · simpa [leaves, inh] using loopExit_ends s.me.pc.toNat p s.me.loops

end Leaving

section Targets
variable {c : Capsule} {p : Nat} {l : Line}

/-- The positions of a line's five slots (R175). -/
theorem posOk_iff (p : Nat) : posOk p = true ↔ p % 64 ∈ [0, 12, 24, 36, 48] := by
  simp only [posOk, Bool.and_eq_true, beq_iff_eq, decide_eq_true_eq, List.mem_cons, List.not_mem_nil, or_false]
  omega

theorem Capsule.refuses_eq_false_iff (hl : c.lines[p / 64]? = some l) : c.refuses p = false ↔
    p % 64 ∈ [0, 12, 24, 36, 48] ∧
      (lineTarget l (p % 64 / 12) = true ∨ (lineBadEntry l).isSome = true ∨ lineParityOk l = false) := by
  rw [← posOk_iff]
  have notNeg : ¬ (p : Int) < 0 := by omega
  simp only [Capsule.refuses, notNeg, if_false, Int.toNat_natCast, Capsule.lineAt, hl, posSlot]
  cases posOk p <;> cases (lineBadEntry l).isSome <;> cases lineParityOk l <;> simp

theorem Capsule.refuses_of_neg {t : Int} (ht : t < 0) : c.refuses t = true := if_pos ht

theorem Capsule.refuses_of_past {t : Nat} (ht : c.lines.length ≤ t / 64) : c.refuses t = true := by
  have notNeg : ¬ (t : Int) < 0 := by omega
  have noLine : c.lines[t / 64]? = none := List.getElem?_eq_none ht
  simp only [Capsule.refuses, notNeg, Int.toNat_natCast, Capsule.lineAt, noLine, ite_self]

end Targets

/-- Settles O5: each instruction is its transfer, allowed or refused, with its operands read; the levels that a transfer ends are
counted off from the innermost; a target is refused check by check. -/
theorem transfers : Obligations.Transfers := by
  unfold Obligations.Transfers
  refine ⟨fun s h d a e x on has => ⟨?_, State.goes_leaves s⟩, fun c p l hl =>
    ⟨Capsule.refuses_eq_false_iff hl, fun _ => Capsule.refuses_of_neg, fun _ => Capsule.refuses_of_past⟩⟩
  have ⟨reads, free⟩ := has
  refine ⟨fun allowed => ⟨exec_br_of_allowed on e allowed, exec_call_of_allowed on e free allowed⟩,
    fun refused => ⟨exec_br_of_refused on e refused, exec_call_of_refused on e free refused⟩, fun allowed => ?_, fun refused => ?_⟩
  · have jumps := State.run_jumpReg_of_allowed on reads allowed
    exact ⟨jumps, jumps, exec_callInd_of_allowed on has allowed⟩
  · have stops := State.run_jumpReg_of_refused on reads refused
    exact ⟨stops, stops, exec_callInd_of_refused on has refused⟩

end Sys2Proof.Machine
end

section
/-! Every instruction and every event answers a next state, and so does every step; an instruction whose guard fails only retires. -/
namespace Sys2Proof.Machine

/-- A result that is a next state. -/
def GoesOn (r : Result) : Prop := ∃ t, r = .next t

@[simp] theorem goesOn_next (t : State) : GoesOn (.next t) := ⟨t, rfl⟩

section Guards
variable (s : State) (h : Hdr)

/-- What every instruction with a header comes to: it goes on, and where its guard fails it only retires (R176). -/
def State.Guards (r : Result) : Prop := GoesOn r ∧ (s.me.guard h = false → r = s.done)

theorem State.guards_run (b : State → Except Stop (State × Next)) : s.Guards h (s.run h b) :=
  ⟨s.run_next h b, fun off => State.run_off off b⟩

theorem State.guards_runT (b : ThreadSet → Except Stop ThreadSet) : s.Guards h (s.runT h b) :=
  ⟨s.runT_next h b, fun off => State.runT_off off b⟩

/-- The meaning looks at the guard itself. -/
theorem State.guards_ite {r : Result} (hr : GoesOn r) : s.Guards h (if s.me.guard h then r else .next (s.retire .seq)) := by
  refine ⟨?_, fun off => ?_⟩
  · split
    · exact hr
    · exact goesOn_next _
  · rw [off]
    rfl

theorem guards_alu1 (d a : SReg) (f : Word → Word) : s.Guards h (alu1 h d a f s) := s.guards_runT h _
theorem guards_alu2 (d a b : SReg) (f : Word → Word → Word × Word) : s.Guards h (alu2 h d a b f s) := s.guards_runT h _
theorem guards_aluShift (d a : SReg) (n : ShiftAmt) (f : Word → Nat → Word) : s.Guards h (aluShift h d a n f s) := s.guards_runT h _
theorem guards_aluP (d a b : SPair) (f : DWord → DWord → DWord) : s.Guards h (aluP h d a b f s) := s.guards_runT h _
theorem guards_aluPred (d a b : PReg) (f : Bool → Bool → Bool) : s.Guards h (aluPred h d a b f s) := s.guards_runT h _
theorem guards_vec1 (fmt : Fmt) (d a : VReg) (f : ThreadSet → Nat → Coded) : s.Guards h (vec1 h fmt d a f s) := s.guards_runT h _
theorem guards_vec2 (fmt : Fmt) (d a b : VReg) (f : ThreadSet → Nat → Nat → Coded) : s.Guards h (vec2 h fmt d a b f s) :=
  s.guards_runT h _
theorem guards_vec3 (fmt : Fmt) (d a b c : VReg) (f : ThreadSet → Nat → Nat → Nat → Coded) : s.Guards h (vec3 h fmt d a b c f s) :=
  s.guards_runT h _
theorem guards_vecBits (d a b : VReg) (f : VWord → VWord → VWord) : s.Guards h (vecBits h d a b f s) := s.guards_runT h _

theorem guards_vecShift (fmt : Fmt) (d a : VReg) (n : VShiftAmt) (f : Nat → Nat → Nat) : s.Guards h (vecShift h fmt d a n f s) := by
  cases n with
  | reg b => exact guards_vec2 s h fmt d a b _
  | imm k => exact guards_vec1 s h fmt d a _

theorem guards_vecReduce (fmt : Fmt) (d : SReg) (a : VReg) (ints : List Int → Coded) (node : ThreadSet → Nat → Nat → Coded) :
    s.Guards h (vecReduce h fmt d a ints node s) := s.guards_runT h _

section Flinums
variable (rm : RmCode) (x sat : Bool) (d a : FReg)

theorem guards_flWrite (srcs : List (FReg × Bool)) (extra : ThreadSet → Except Stop Unit) (kill : ThreadSet → ThreadSet)
    (form : ThreadSet → RmCode → List Num → Exact) : s.Guards h (flWrite h rm x sat d srcs extra kill form s) := s.guards_run h _

theorem guards_flRead (srcs : List (FReg × Bool)) (extra : ThreadSet → Except Stop Unit)
    (put : ThreadSet → List Flinum → Except Stop ThreadSet) : s.Guards h (flRead h srcs extra put s) := s.guards_run h _

theorem guards_fl1 (op : RmCode → Num → Exact) : s.Guards h (fl1 h rm x sat d a op s) := guards_flWrite s h rm x sat d _ _ _ _

theorem guards_fl2 (b : FReg) (op : RmCode → Num → Num → Exact) : s.Guards h (fl2 h rm x sat d a b op s) :=
  guards_flWrite s h rm x sat d _ _ _ _

end Flinums

theorem guards_execIaddi (f : AddiForm) (imm : Imm) : s.Guards h (execIaddi h f imm s) := by
  cases f <;> dsimp only [execIaddi] <;> exact s.guards_runT h _

theorem guards_execFldc (rm : RmCode) (x sat : Bool) (d : FReg) (src : LdcSrc) : s.Guards h (execFldc h rm x sat d src s) := by
  cases src <;> dsimp only [execFldc]
  case imm => exact guards_flWrite s h rm x sat d _ _ _ _
  case literal => exact s.guards_run h _

theorem guards_execXret (next : Bool) : s.Guards h (execXret h next s) := by
  refine s.guards_ite h ?_
  dsimp only
  repeat' (split <;> try simp only [goesOn_next])

theorem guards_execBrk (imm : Imm) : s.Guards h (execBrk h imm s) := by
  refine s.guards_ite h ?_
  dsimp only
  repeat' (split <;> try simp only [goesOn_next])

theorem guards_execYield : s.Guards h (execYield h s) := s.guards_ite h (goesOn_next _)

/-- The header of a word is that of the instruction. -/
theorem State.Guards.of_fields {s : State} {h : Hdr} {r : Result} {f g : Fields} (guards : s.Guards h r) (hf : some g = some f)
    (hh : g.hdr = h) : s.Guards f.hdr r := by
  cases hf
  rwa [hh]

end Guards

/-- Each instruction but AADDS and CAPBUILD looks at its guard before anything else (R176). -/
theorem exec_guards {i : Instr} {f : Fields} (hf : i.fields = some f) (s : State)
    (notAadds : ∀ h d a b k imm, i ≠ .aadds h d a b k imm) (notCapbuild : ∀ h d a, i ≠ .capbuild h d a) :
    s.Guards f.hdr (exec i s) := by
  cases i <;> dsimp only [exec]
  case nop | imovi | imovhi | aadd | ifence | lfence | vcmp | vsel | vperm | vbcast | vdot | vmovs | vexts | viota |
    vcvt | vquant | vdeq | vscale | vtag | flen =>
    exact (s.guards_runT _ _).of_fields hf (Laws.hdr_of _ ..)
  case iadd | isub | imul | imulh | imulhz | idiv | idivz | irem | iremz | iand | ior | ixor | iandn | imin | imax |
    iminz | imaxz | isel | icmp =>
    exact (guards_alu2 s _ _ _ _ _).of_fields hf (Laws.hdr_of _ ..)
  case iclz | ipop =>
    exact (guards_alu1 s _ _ _ _).of_fields hf (Laws.hdr_of _ ..)
  case padd | psub =>
    exact (guards_aluP s _ _ _ _ _).of_fields hf (Laws.hdr_of _ ..)
  case pand | por | pxor | pnot =>
    exact (guards_aluPred s _ _ _ _ _).of_fields hf (Laws.hdr_of _ ..)
  case br | jmp | call | callInd | ret | loop | loopi | halt | crd | cwr | counterZero | trap | wait | ld | st | ldv |
    stv | ldvs | stvs | ldvx | stvx | ldt | stt | ldf | stf | lwopen | lwclose | lwdue | subscribe | unsubscribe | bar
    | barq | chron | tlwait | tlread | mgang | mdesc | mzero | mdrain | mmeta | mscl | mrowrd | mrowwr | mcolrd |
    mcolwr | gfence | gacq | grel | dpat | gref | cpypost | ovlpost | nwpost | qpost | tscore | tdone | tround =>
    exact (s.guards_run _ _).of_fields hf (Laws.hdr_of _ ..)
  case vadd | vsub | vmul | vmin | vmax | vdiv =>
    exact (guards_vec2 s _ _ _ _ _ _).of_fields hf (Laws.hdr_of _ ..)
  case vfma | vfms =>
    exact (guards_vec3 s _ _ _ _ _ _ _).of_fields hf (Laws.hdr_of _ ..)
  case vabs | vneg | vsqrt | vrsq | vexp2 | vlog2 =>
    exact (guards_vec1 s _ _ _ _ _).of_fields hf (Laws.hdr_of _ ..)
  case vand | vor | vxor =>
    exact (guards_vecBits s _ _ _ _ _).of_fields hf (Laws.hdr_of _ ..)
  case vredadd | vredmax | vredmin =>
    exact (guards_vecReduce s _ _ _ _ _ _).of_fields hf (Laws.hdr_of _ ..)
  case fadd | fsub | fmul | fdiv =>
    exact (guards_fl2 s _ _ _ _ _ _ _ _).of_fields hf (Laws.hdr_of _ ..)
  case ffma | fscalb | fcvtd | faccv =>
    exact (guards_flWrite s _ _ _ _ _ _ _ _ _).of_fields hf (Laws.hdr_of _ ..)
  case fsqrt | fabs | fneg | fmov | fround =>
    exact (guards_fl1 s _ _ _ _ _ _ _).of_fields hf (Laws.hdr_of _ ..)
  case fcmp | ftod | fexp =>
    exact (guards_flRead s _ _ _ _).of_fields hf (Laws.hdr_of _ ..)
  case ishl h d a n | ishrl h d a n | ishra h d a n | irotl h d a n =>
    cases n <;> exact (guards_aluShift s _ _ _ _ _).of_fields hf (Laws.hdr_of _ ..)
  case vshl h fmt d a n | vshr h fmt d a n | vshra h fmt d a n =>
    cases n <;> exact (guards_vecShift s _ _ _ _ _ _).of_fields hf (Laws.hdr_of _ ..)
  case iaddi h form imm => cases form <;> exact (guards_execIaddi s _ _ _).of_fields hf (Laws.hdr_of _ ..)
  case pset h d src => cases src <;> exact (s.guards_runT _ _).of_fields hf (Laws.hdr_of _ ..)
  case vshuf h fmt pat d a => cases pat <;> exact (s.guards_runT _ _).of_fields hf (Laws.hdr_of _ ..)
  case fprec h p => cases p <;> exact (s.guards_runT _ _).of_fields hf (Laws.hdr_of _ ..)
  case frel h d upto => cases upto <;> exact (s.guards_runT _ _).of_fields hf (Laws.hdr_of _ ..)
  case fcvts h rm x sat d a => cases a <;> exact (guards_flWrite s _ _ _ _ _ _ _ _ _).of_fields hf (Laws.hdr_of _ ..)
  case ftos h rm x d a => cases d <;> exact (guards_flRead s _ _ _ _).of_fields hf (Laws.hdr_of _ ..)
  case fldc h rm x sat d src => cases src <;> exact (guards_execFldc s _ _ _ _ _ _).of_fields hf (Laws.hdr_of _ ..)
  case lamo h op el d a b imm => cases d <;> exact (s.guards_run _ _).of_fields hf (Laws.hdr_of _ ..)
  case gatom h op el d a b c imm => cases d <;> exact (s.guards_run _ _).of_fields hf (Laws.hdr_of _ ..)
  case send h len a b c imm => cases len <;> exact (s.guards_run _ _).of_fields hf (Laws.hdr_of _ ..)
  case sendop h op el len a b c imm => cases len <;> exact (s.guards_run _ _).of_fields hf (Laws.hdr_of _ ..)
  case vtagq h d src => cases src <;> exact (s.guards_run _ _).of_fields hf (Laws.hdr_of _ ..)
  case gld h fmt dst a c imm => cases dst <;> exact (s.guards_run _ _).of_fields hf (Laws.hdr_of _ ..)
  case gst h fmt src a c imm => cases src <;> exact (s.guards_run _ _).of_fields hf (Laws.hdr_of _ ..)
  case push h form a imm n => cases form <;> exact (s.guards_run _ _).of_fields hf (Laws.hdr_of _ ..)
  case xret => exact (guards_execXret s _ _).of_fields hf (Laws.hdr_of _ ..)
  case brk => exact (guards_execBrk s _ _).of_fields hf (Laws.hdr_of _ ..)
  case yield => exact (guards_execYield s _).of_fields hf (Laws.hdr_of _ ..)
  case aadds => exact (notAadds _ _ _ _ _ _ rfl).elim
  case capbuild => exact (notCapbuild _ _ _ rfl).elim
  -- an event row has no header
  all_goals exact nomatch hf

section Events
variable (s : State)

theorem State.goesOn_request (ctx : Nat) (r : Except Nat State) : GoesOn (s.request ctx r) := by
  unfold State.request
  dsimp only
  repeat' (split <;> try simp only [goesOn_next])

theorem State.goesOn_atHead (ctx q kind : Nat) (go : Context → Queue → List Byte → State) : GoesOn (s.atHead ctx q kind go) := by
  unfold State.atHead
  dsimp only
  repeat' (split <;> try simp only [goesOn_next])

theorem State.goesOn_dispatch (ctx q kind : Nat) (go : State → Context → Queue → List Byte → State) :
    GoesOn (s.dispatch ctx q kind go) := s.goesOn_atHead ctx q kind _

theorem State.goesOn_startRequest (ok warm : Bool) (failStep : Nat) (fenced : List CoreId) :
    GoesOn (s.startRequest ok warm failStep fenced) := by
  unfold State.startRequest
  repeat' (split <;> try simp only [goesOn_next])

theorem goesOn_execInstall (ctx : Nat) (object : List Byte) (test : Bool) : GoesOn (execInstall ctx object test s) := by
  unfold execInstall
  extract_lets fn refuse
  repeat' (split <;> try simp only [goesOn_next])

end Events

/-- An event row asks for its conditions in turn; where one does not hold it changes nothing (log entry 7). -/
theorem goesOn_exec_event {i : Instr} (e : i.fields = none) (s : State) : GoesOn (exec i s) := by
  cases i <;> dsimp only [exec]
  case resume | flush | quiesce | unquiesce | sackReceived | retransmitTimeout =>
    exact goesOn_next _
  case uninstall | queueCreate | map | unmap | setKind | peerTableSet | remoteBufferRegister | errorInject =>
    exact s.goesOn_request _ _
  case launchRecord | tlwaitRecordComplete =>
    exact s.goesOn_atHead _ _ _ _
  case tlwaitRecord | tlsignal | copyRecord | cond | loopRecord =>
    exact s.goesOn_dispatch _ _ _ _
  case waitBoundExpiry | jointJoin | jointOpComplete | globalResponse | blockLoadComplete | packetArrival |
    refusalReturn | scoreArrival | joinPacket | coreArrival | barrierToken | memoryTaskArrival | barrierComplete |
    barrierRelease | commitEntryDrain | retirementSweep | taskFrameLoad | pageSupplied | demandFetch |
    superstepRollback | watchdog | allowanceExhausted | roundEnd =>
    dsimp only [execWaitBoundExpiry, execJointJoin, execJointOpComplete, execGlobalResponse, execBlockLoadComplete,
      execPacketArrival, execRefusalReturn, execScoreArrival, execJoinPacket, execCoreArrival, execBarrierToken,
      execMemoryTaskArrival, execBarrierComplete, execBarrierRelease, execCommitEntryDrain, execRetirementSweep,
      execTaskFrameLoad, execPageSupplied, execDemandFetch, execSuperstepRollback, execWatchdog,
      execAllowanceExhausted, execRoundEnd]
    repeat' (split <;> try simp only [goesOn_next])
  case doorbellTailUpdate | gangReserve | gangStart | copyComplete | overlayLoadComplete =>
    dsimp only [execDoorbellTailUpdate, execGangReserve, execGangStart, execCopyComplete, execOverlayLoadComplete]
    repeat' (split <;> try simp only [goesOn_next])
  case networkPacketArrival | networkAck | negativeAck | apertureAccess | configAccess | rebuildRequest | buildStart |
    buildComplete | createContext | regionEdit | migrate | migrationSwitch | pageEviction | apertureMap | debugRead |
    debugResume | checkpointGroupCreate | checkpointWrite | checkpointManifest | checkpointRestore | fwstage |
    activate | attest | powercap | throttleStep | thermalTrip | uncorrectableEccError | engineSourceRead =>
    dsimp only [execNetworkPacketArrival, execNetworkAck, execNegativeAck, execApertureAccess, execConfigAccess,
      execRebuildRequest, execBuildStart, execBuildComplete, execCreateContext, execRegionEdit, execMigrate,
      execMigrationSwitch, execPageEviction, execApertureMap, execDebugRead, execDebugResume,
      execCheckpointGroupCreate, execCheckpointWrite, execCheckpointManifest, execCheckpointRestore, execFwstage,
      execActivate, execAttest, execPowercap, execThrottleStep, execThermalTrip, execUncorrectableEccError,
      execEngineSourceRead]
    repeat' (split <;> try simp only [goesOn_next])
  case install =>
    exact goesOn_execInstall s _ _ _
  case coldstart | warmstart =>
    exact s.goesOn_startRequest _ _ _ _
  case iaddi _ x _ | pset _ _ x | vshuf _ _ x _ _ | vtagq _ _ x | fcvts _ _ _ _ _ x | ftos _ _ _ x _ | fprec _ x | fldc _ _ _ _ _ x |
    frel _ _ x | lamo _ _ _ x _ _ _ | gatom _ _ _ x _ _ _ _ | gld _ _ x _ _ _ | gst _ _ x _ _ _ | push _ x _ _ _ =>
    cases x <;> exact nomatch e
  all_goals exact nomatch e

theorem goesOn_execAadds (s : State) (h : Hdr) (d a : SPair) (b : SReg) (k : Fin 8) (imm : Imm) : GoesOn (execAadds h d a b k imm s) := by
  unfold execAadds
  split <;> exact State.run_next _ _ _

theorem goesOn_execCapbuild (s : State) (h : Hdr) (d a : SReg) : GoesOn (execCapbuild h d a s) := by
  unfold execCapbuild
  split
  · exact State.run_next _ _ _
  · exact goesOn_next _

/-- Every instruction and every event answers a next state (R338, R448). -/
theorem goesOn_exec (i : Instr) (s : State) : GoesOn (exec i s) := by
  cases e : i.fields with
  | none => exact goesOn_exec_event e s
  | some f =>
    by_cases aadds : ∃ h d a b k imm, i = .aadds h d a b k imm
    · obtain ⟨h, d, a, b, k, imm, rfl⟩ := aadds
      exact goesOn_execAadds s h d a b k imm
    by_cases capbuild : ∃ h d a, i = .capbuild h d a
    · obtain ⟨h, d, a, rfl⟩ := capbuild
      exact goesOn_execCapbuild s h d a
    exact (exec_guards e s (fun h d a b k imm same => aadds ⟨h, d, a, b, k, imm, same⟩)
      fun h d a same => capbuild ⟨h, d, a, same⟩).1

section Steps
variable (s : State)

theorem State.goesOn_issueNext (w : Who) : GoesOn (s.issueNext w) := by
  unfold State.issueNext
  split
  · split <;> exact goesOn_next _
  · split
    · exact goesOn_next _
    next i _ =>
      obtain ⟨t, ht⟩ := goesOn_exec i (s.modTs w fun t => { t with enter := false, lineHeld := none })
      rw [ht]
      exact goesOn_next _

theorem State.goesOn_attempt (w : Who) : GoesOn (s.attempt w) := by
  unfold State.attempt
  extract_lets u t
  split
  · split
    · exact u.goesOn_issueNext w
    · exact goesOn_next _
  · exact u.goesOn_issueNext w

theorem State.goesOn_choose (c : CoreId) (order : List Nat) (waits : List (Nat × Nat)) : GoesOn (s.choose c order waits).1 := by
  induction order generalizing s waits with
  | nil => exact goesOn_next s
  | cons i r ih =>
    unfold State.choose
    extract_lets k n
    split
    · exact ih s _
    next w _ =>
      split
      · split
        · exact ih s _
        · extract_lets u
          obtain ⟨t, ht⟩ := u.goesOn_attempt w
          rw [ht]
          dsimp only
          split
          · exact goesOn_next _
          · exact ih _ _
      · exact ih s _

theorem State.goesOn_issueCycle (c : CoreId) : GoesOn (s.issueCycle c) := by
  unfold State.issueCycle
  split
  · exact goesOn_next _
  · extract_lets u k order
    obtain ⟨t, ht⟩ := u.goesOn_choose c order []
    rcases chosen : u.choose c order [] with ⟨r, tried⟩
    rw [chosen] at ht
    obtain rfl : r = .next t := ht
    exact goesOn_next _

/-- Whoever moves next, there is a next state. -/
theorem goesOn_step : GoesOn (step s) := by
  unfold step State.turnStep
  extract_lets u
  split
  case h_1 => exact goesOn_exec _ _
  case h_2 => exact State.goesOn_issueCycle _ _
  case h_8 =>
    obtain ⟨t, ht⟩ := u.goesOn_issueCycle u.turn
    rw [ht]
    exact goesOn_next _
  all_goals exact goesOn_next _

end Steps

/-- Settles O57: each instruction by the shape of its meaning, each event by its conditions, and a step by who moves in it. -/
theorem machineGoesOn : Obligations.MachineGoesOn := by
  unfold Obligations.MachineGoesOn
  exact ⟨⟨goesOn_exec, goesOn_step⟩, fun i s f hf off notAadds notCapbuild => (exec_guards hf s notAadds notCapbuild).2 off⟩

end Sys2Proof.Machine
end

section
/-! Power, heat and errors of the hardware: what each of their events does. -/
namespace Sys2Proof.Machine

section Reports
variable (s : State) (r : Report)

@[simp] theorem State.report_reports : (s.report r).reports = s.reports ++ [{ r with time := s.picos / 1000 }] := by
  obtain ⟨_, _, e⟩ := s.report_eq r
  rw [e]

/-- What is read of no report, interrupt or answer is as it was before a report. -/
theorem State.report_leaves {α : Type} (f : State → α)
    (blind : ∀ reports answers irqs, f { s with reports := reports, answers := answers, irqs := irqs } = f s) :
    f (s.report r) = f s := by
  obtain ⟨_, _, e⟩ := s.report_eq r
  rw [e, blind]

@[simp] theorem State.report_contexts : (s.report r).contexts = s.contexts := s.report_leaves r State.contexts fun _ _ _ => rfl
@[simp] theorem State.report_gangs : (s.report r).gangs = s.gangs := s.report_leaves r State.gangs fun _ _ _ => rfl
@[simp] theorem State.report_clockMhz : (s.report r).clockMhz = s.clockMhz := s.report_leaves r State.clockMhz fun _ _ _ => rfl
@[simp] theorem State.report_devClass : (s.report r).devClass = s.devClass := s.report_leaves r State.devClass fun _ _ _ => rfl
@[simp] theorem State.report_devCounters : (s.report r).devCounters = s.devCounters := s.report_leaves r State.devCounters fun _ _ _ => rfl
@[simp] theorem State.report_hbm : (s.report r).hbm = s.hbm := s.report_leaves r State.hbm fun _ _ _ => rfl
@[simp] theorem State.report_hbmPoison : (s.report r).hbmPoison = s.hbmPoison := s.report_leaves r State.hbmPoison fun _ _ _ => rfl
@[simp] theorem State.report_retired : (s.report r).retired = s.retired := s.report_leaves r State.retired fun _ _ _ => rfl

end Reports

section Limits
variable {s : State} {w : Nat}

theorem exec_powercap_of_taken (serving : s.serving = true) (low : 900 ≤ w) (high : w ≤ 1800) :
    exec (.powercap w) s = .next ({ s with powerCap := w }.answer 0 fun n => .status n 0) := by
  show execPowercap w s = _
  simp [execPowercap, serving, low, high]

theorem exec_powercap_of_refused (serving : s.serving = true) (out : w < 900 ∨ 1800 < w) :
    exec (.powercap w) s = .next (s.answer 0 fun n => .status n 1) := by
  have beyond : ¬ (900 ≤ w ∧ w ≤ 1800) := by omega
  show execPowercap w s = _
  simp only [execPowercap, serving, Bool.not_true, Bool.false_eq_true, if_false, beyond]

theorem State.reading_of_sensed {n : Nat} {v : Word} (sensed : s.sensed.find n = some v) : s.reading n = v := by
  simp [State.reading, sensed]

theorem State.someReading_iff (s : State) (first n : Nat) (bad : Int → Bool) :
    s.someReading first n bad = true ↔ ∃ i, i < n ∧ bad (s.reading (first + i)).toInt = true := by
  simp [State.someReading]

theorem State.mustThrottle_iff (s : State) : s.mustThrottle = true ↔
    (∃ i, i < 192 ∧ 9500 ≤ (s.reading i).toInt) ∨ (∃ i, i < 8 ∧ 8800 ≤ (s.reading (192 + i)).toInt) ∨
      (∃ i, i < 32 ∧ (s.reading (200 + i)).toInt < 5700) ∨ 10 * (s.powerCap : Int) < (s.reading 296).toInt := by
  simp [State.mustThrottle, State.someReading_iff, Config.stackTemps, Config.railVolts, Config.packagePower, Config.oscillators, or_assoc]

theorem State.mustTrip_iff (s : State) : s.mustTrip = true ↔
    (∃ i, i < 192 ∧ 10500 ≤ (s.reading i).toInt) ∨ (∃ i, i < 8 ∧ 9500 ≤ (s.reading (192 + i)).toInt) ∨
      (∃ i, i < 32 ∧ ((s.reading (200 + i)).toInt < 5400 ∨ 6600 < (s.reading (200 + i)).toInt)) := by
  simp [State.mustTrip, State.someReading_iff, Config.stackTemps, Config.railVolts, or_assoc]

theorem exec_throttleStep_of_high (fast : 1000 < s.clockMhz) (high : s.mustThrottle = true) :
    ∃ t : State, exec .throttleStep s = .next t ∧ t.clockMhz = s.clockMhz - 100 ∧ t.contexts = s.contexts ∧
      ∃ r ∈ t.reports, r.src = 11 ∧ r.addr = s.clockMhz - 100 := by
  have step : ¬ (s.clockMhz ≤ 1000 || !s.mustThrottle) = true := by simp [high, fast]
  show ∃ t : State, execThrottleStep s = .next t ∧ _
  rw [execThrottleStep, if_neg step]
  exact ⟨_, rfl, by simp, by simp, by simp⟩

theorem exec_throttleStep_of_low (low : s.clockMhz ≤ 1000 ∨ s.mustThrottle = false) : exec .throttleStep s = .next s :=
  show execThrottleStep s = _ from if_pos (by simpa using low)

/-- Device fatal leaves no gang, and its class is fatal. -/
theorem State.fatal_ends (s : State) (src detail addr : Nat) :
    (s.fatal src detail addr).devClass = .fatal ∧ (s.fatal src detail addr).gangs = [] := by
  unfold State.fatal
  extract_lets
  exact ⟨State.report_devClass .., State.report_gangs ..⟩

theorem exec_thermalTrip_of_high (rails : s.railsOff = false) (high : s.mustTrip = true) :
    ∃ t : State, exec .thermalTrip s = .next t ∧ t.devClass = .fatal ∧ t.railsOff = true ∧ t.gangs = [] := by
  obtain ⟨fatal, gone⟩ := s.fatal_ends Config.tripSource 2 0
  show ∃ t : State, execThermalTrip s = .next t ∧ _
  rw [execThermalTrip, if_neg (by simp [rails, high])]
  exact ⟨_, rfl, fatal, rfl, gone⟩

theorem exec_thermalTrip_of_low (low : s.railsOff = true ∨ s.mustTrip = false) : exec .thermalTrip s = .next s :=
  show execThermalTrip s = _ from if_pos (by simpa using low)

end Limits

section Memory
variable {s : State}

@[simp] theorem State.core_notePoison (s : State) (u : PoisonUnit) (c : CoreId) : (s.notePoison u).core c = s.core c := by
  obtain ⟨_, _, _, _, e⟩ := s.poisonAlone_notePoison u
  rw [e]
  exact State.core_congr rfl rfl rfl c

theorem mem_listed (xs : List Nat) (n : Nat) : n ∈ listed xs n := by
  unfold listed
  split <;> simp_all

theorem exec_storeError {x y a : Nat} (hx : x < 32) (hy : y < 32) (ha : a < Config.lsTop) :
    exec (.uncorrectableEccError (.store (.compute x y) a)) s = .next (s.poisonWord (.compute x y) (a / 8 * 8)) := by
  show execUncorrectableEccError (.store (.compute x y) a) s = _
  simp [execUncorrectableEccError, CoreId.exists, CoreId.kind, storeTop, hx, hy, ha]

/-- A word of a core that leads itself is poisoned in its store, which holds what it held. -/
theorem State.poisonWord_of_leads {c : CoreId} (leads : s.leaderOf c = c) (a : Nat) :
    a ∈ ((s.poisonWord c a).core c).poison ∧ ((s.poisonWord c a).core c).store = (s.core c).store := by
  simp only [State.poisonWord, leads, if_true, State.core_notePoison, State.core_modCore_same]
  exact ⟨mem_listed .., trivial⟩

/-- A word of a shadow core is poisoned in its own store, which the core of its leader keeps. -/
theorem State.poisonWord_of_shadow {c d : CoreId} {u : Twin} (led : s.leaderOf c = d) (shadow : d ≠ c)
    (twin : (s.core d).twin = some u) (a : Nat) : ∃ v, ((s.poisonWord c a).core d).twin = some v ∧
      a ∈ v.poison ∧ v.bytes = u.bytes ∧ ((s.poisonWord c a).core d).poison = (s.core d).poison := by
  simp only [State.poisonWord, led, shadow, if_false, State.core_notePoison, State.core_modCore_same, twin, Option.map_some]
  exact ⟨_, rfl, mem_listed .., rfl, trivial⟩

/-- A line that becomes poisoned is poisoned; memory, its frames and the time stay as they were. -/
theorem State.poisonLine_leaves (s : State) (l : Nat) : l ∈ (s.poisonLine l).hbmPoison ∧ (s.poisonLine l).hbm = s.hbm ∧
    (s.poisonLine l).eccSeen = s.eccSeen ∧ (s.poisonLine l).picos = s.picos ∧
      (s.poisonLine l).retiredFrames = s.retiredFrames := by
  unfold State.poisonLine State.notePoison
  extract_lets kept here
  split <;> exact ⟨mem_listed .., rfl, rfl, rfl, rfl⟩

@[simp] theorem copyValues_append {α : Type} [DecidableEq α] (xs ys : List (Copies α)) :
    copyValues (xs ++ ys) = copyValues xs ++ copyValues ys := List.filterMap_append ..

@[simp] theorem copyValues_of {α : Type} [DecidableEq α] (x : α) : copyValues [Copies.of x] = [x] := by
  simp [copyValues, Copies.of, Copies.value]

/-- An error of memory poisons its line and leaves memory; the second within a day in a frame retires it. -/
theorem State.hbmError_poisons (s : State) (pa : Nat) : pa / 64 ∈ (s.hbmError pa).hbmPoison ∧ (s.hbmError pa).hbm = s.hbm ∧
    ((∃ u, s.eccSeen.find (pa / 65536) = some u ∧ s.picos - u ≤ dayPicos) →
      (s.retired.filter fun f => paStack (f * 65536) == paStack pa).length < 8192 →
      pa / 65536 ∈ (s.hbmError pa).retired) := by
  obtain ⟨poisoned, hbm, eccSeen, picos, frames⟩ := s.poisonLine_leaves (pa / 64)
  unfold State.hbmError
  extract_lets l frame s₁ second s₂ here s₃
  have retired : s₂.retired = s.retired := congrArg copyValues frames
  split
  · refine ⟨by rw [State.report_hbmPoison]; exact poisoned, by rw [State.report_hbm]; exact hbm, fun _ _ => ?_⟩
    rw [State.report_retired]
    show frame ∈ copyValues (s₁.retiredFrames ++ [Copies.of frame])
    simp
  next keeps =>
    refine ⟨poisoned, hbm, fun ⟨u, seen, soon⟩ room => ?_⟩
    have again : second = true := by
      show (s₁.eccSeen.find frame).any (fun t => decide (s₁.picos - t ≤ dayPicos)) = true
      rw [show s₁.eccSeen = s.eccSeen from eccSeen, show s₁.picos = s.picos from picos, seen]
      exact decide_eq_true soon
    have fits : here < 8192 := by simpa only [here, retired] using room
    have known : s₂.retired.contains frame = true := by simpa [again, fits] using keeps
    exact List.contains_iff_mem.mp known

theorem exec_hbmError {pa : Nat} (inside : paOk pa = true) : exec (.uncorrectableEccError (.hbm pa)) s = .next (s.hbmError pa) :=
  show execUncorrectableEccError (.hbm pa) s = _ from if_pos inside

theorem State.hbm_repairPage (s : State) (ctx gva : Nat) : (s.repairPage ctx gva).hbm = s.hbm := by
  unfold State.repairPage
  split <;> rfl

/-- A replica that fails is counted; memory stays as it was. -/
theorem State.dropReplica_counts {ctx gva stack l : Nat} {c : Context} {p : DWord} (there : s.ctx ctx = some c)
    (leaf : c.walk gva = .leaf l p) (kind : pteKind p = 2) (held : (pteRmask p).testBit stack = true)
    (away : stack ≠ paStack (pteAddr p)) :
    (s.dropReplica ctx gva stack).devCounters.repldrop = sat64 s.devCounters.repldrop ∧
      (s.dropReplica ctx gva stack).hbm = s.hbm := by
  have page : ((s.ctx ctx).bind fun c => c.page gva) = some (l, p, gva / pageBytes l * pageBytes l) := by
    simp [there, Context.page, leaf]
  have replica : pteKind p = 2 ∧ (pteRmask p).testBit stack ∧ stack ≠ paStack (pteAddr p) := ⟨kind, held, away⟩
  simp only [State.dropReplica, page, if_pos replica]
  split
  · simp [(s.engineLeaves_repairPage ctx gva).devCounters, s.hbm_repairPage]
  · simp

end Memory

section Upsets
variable {s : State} {w : Who}

/-- A vote that fails once counts, and the instruction runs again (R181). -/
theorem State.upset_vote {i : Instr} (issues : s.mayIssue w = true) (voted : (s.wordAt w).any slotVote = true)
    (fetched : s.fetch w = .ok i) : s.upset w .vote false 0 =
      State.modTs { s with devCounters := { s.devCounters with l1retry := sat64 s.devCounters.l1retry } } w fun t =>
        t.delay 0x0B (latency (s.ts w) (s.litLimbs w i) i + 3) := by
  have strikes : s.canErr w .vote = true := by simp [State.canErr, issues, voted]
  have once : s.upset w .vote false 0 = s.levelOne w .vote 0 := by simp [State.upset, strikes]
  rw [once, State.levelOne, fetched]
  rfl

theorem State.gangOf_modGang {id : Nat} (mine : s.gangId w = some id) (f : Gang → Gang) :
    (s.modGang id f).gangOf w = (s.gangOf w).map f := by
  have same : (s.modGang id f).gangId w = some id := (State.gangId_congr (s.core_modGang id f _)).trans mine
  simp [State.gangOf, same, mine]

/-- A mismatch of a lockstep pair is counted, and its gang consumes it (R473). -/
theorem State.upset_lockstep {g : Gang} (compute : w.core.kind = .compute) (mine : s.gangOf w = some g)
    (issues : g.issues = true) (lock : g.lock = true) :
    (s.upset w .lockstep false 0).devCounters = { s.devCounters with lockmiss := sat64 s.devCounters.lockmiss } ∧
      ∃ h, (s.upset w .lockstep false 0).gangOf w = some h ∧ h.err = some .lockstep := by
  have strikes : s.canErr w .lockstep = true := by simp [State.canErr, compute, mine, issues, lock]
  have consumed : s.upset w .lockstep false 0 = s.consumeAt w w.core .lockstep none 0 := by
    simp [State.upset, strikes, compute, State.consume]
  obtain ⟨id, hid, -⟩ := Option.bind_eq_some_iff.mp mine
  simp only [consumed, State.consumeAt, hid]
  exact ⟨by simp, _, (State.gangOf_modGang hid _).trans (congrArg _ mine), rfl⟩

end Upsets

/-- Settles O53: each event of the device by its cases, then the errors of stores and memory, and of thread sets. -/
theorem powerAndErrors : Obligations.PowerAndErrors := by
  unfold Obligations.PowerAndErrors
  refine fun s => ⟨fun w serving => ⟨exec_powercap_of_taken serving, exec_powercap_of_refused serving⟩,
    ⟨fun n v => State.reading_of_sensed, fun fast high => exec_throttleStep_of_high fast (s.mustThrottle_iff.mpr high),
      fun low => exec_throttleStep_of_low (low.imp_right fun h => Bool.eq_false_iff.mpr (h ∘ s.mustThrottle_iff.mp)),
      fun rails high => exec_thermalTrip_of_high rails (s.mustTrip_iff.mpr high),
      fun low => exec_thermalTrip_of_low (low.imp_right fun h => Bool.eq_false_iff.mpr (h ∘ s.mustTrip_iff.mp))⟩,
    fun x y a hx hy ha leads => ⟨_, exec_storeError hx hy ha, State.poisonWord_of_leads leads _⟩,
    fun x y a hx hy ha shadow u twin => ?_,
    fun pa inside => ⟨_, exec_hbmError inside, s.hbmError_poisons pa⟩,
    fun ctx gva stack c l p there leaf kind held away =>
      ⟨_, rfl, State.dropReplica_counts there leaf kind held away⟩,
    fun w i => State.upset_vote, fun x y t g => State.upset_lockstep rfl⟩
  obtain ⟨v, poisoned⟩ := State.poisonWord_of_shadow rfl shadow twin (a / 8 * 8)
  exact ⟨_, v, exec_storeError hx hy ha, poisoned⟩

end Sys2Proof.Machine
end

section
/-! How a scalar instruction with its operands read and its destination free runs: its registers, its predicates and its flag. -/
namespace Sys2Proof.Machine

@[simp] theorem ThreadSet.flag_zero (t : ThreadSet) : t.flag 0 = t := by simp [ThreadSet.flag]

section Shapes
variable {s : State} {h : Hdr} {d a b : SReg} {x y : Word}

theorem alu2_of_has2 (on : s.on h) (has : s.me.has2 d a b x y) (f : Word → Word → Word × Word) :
    alu2 h d a b f s = s.becomes (((s.me.dead2 h a b).putS d (f x y).1).flag (f x y).2) := by
  obtain ⟨readA, readB, free⟩ := has
  exact State.runT_on on (by simp [readA, readB, free, bind, Except.bind, ThreadSet.dead2])

/-- A result that sets no flag. -/
theorem alu2_of_has2_unflagged (on : s.on h) (has : s.me.has2 d a b x y) (f : Word → Word → Word) {v : Word} (hv : f x y = v) :
    alu2 h d a b (fun x y => (f x y, 0)) s = s.becomes ((s.me.dead2 h a b).putS d v) := by
  rw [alu2_of_has2 on has, ThreadSet.flag_zero, hv]

theorem alu1_of_has1 (on : s.on h) (has : s.me.has1 d a x) (f : Word → Word) :
    alu1 h d a f s = s.becomes ((s.me.killS h.dmA a).putS d (f x)) := by
  obtain ⟨reads, free⟩ := has
  exact State.runT_on on (by simp [reads, free, bind, Except.bind])

theorem aluShift_of_has1 {n : ShiftAmt} {k : Nat} (on : s.on h) (has : s.me.has1 d a x) (amount : s.me.readAmt n = .ok k)
    (f : Word → Nat → Word) {v : Word} (hv : f x k = v) :
    aluShift h d a n f s = s.becomes (((s.me.killS h.dmA a).killAmt h.dmB n).putS d v) := by
  obtain ⟨reads, free⟩ := has
  exact State.runT_on on (by simp [reads, amount, free, hv, bind, Except.bind])

theorem aluP_of_hasP {d a b : SPair} {x y : DWord} (on : s.on h) (has : s.me.hasP d a b x y) (f : DWord → DWord → DWord) :
    aluP h d a b f s = s.becomes (((s.me.killP h.dmA a).killP h.dmB b).putP d (f x y)) := by
  obtain ⟨readA, readB, free⟩ := has
  exact State.runT_on on (by simp [readA, readB, free, bind, Except.bind])

theorem aluPred_of_on {d p q : PReg} (on : s.on h) (f : Bool → Bool → Bool) {v : Bool} (hv : f (s.me.pred p) (s.me.pred q) = v) :
    aluPred h d p q f s = s.becomes (s.me.putPred d v) :=
  State.runT_on on (by rw [hv])

end Shapes

section Saturation

/-- A fixed-point sum, limited where the word's signed addition or subtraction overflows: to the limit of x's sign (R214). -/
theorem fixS32_true_eq {v : Int} {x z : Word} {overflows : Bool}
    (limits : overflows = (decide (2 ^ 31 ≤ v) || decide (v < -2 ^ 31))) (sign : overflows = true → (x.msb = true ↔ v < 0))
    (exact : z = BitVec.ofInt 32 v) :
    fixS32 true v = if overflows then (if x.msb then 0x80000000 else 0x7FFFFFFF, fSAT) else (z, 0) := by
  subst exact
  cases he : overflows with
  | false =>
    have within : ¬ v < -2 ^ 31 ∧ ¬ 2 ^ 31 - 1 < v := by simp [he] at limits; omega
    simp only [fixS32, clampInt, if_true, within, if_false]
    rfl
  | true =>
    have sign := sign he
    cases hx : x.msb with
    | true =>
      have low : v < -2 ^ 31 := by simp [hx] at sign; simp [he] at limits; omega
      simp only [fixS32, clampInt, if_true, low]
      rfl
    | false =>
      have high : ¬ v < -2 ^ 31 ∧ 2 ^ 31 - 1 < v := by simp [hx] at sign; simp [he] at limits; omega
      simp only [fixS32, clampInt, if_true, high, if_false]
      rfl

/-- The bounds of a signed word, and its sign. -/
theorem toInt_bounds (x : Word) : -2 ^ 31 ≤ x.toInt ∧ x.toInt < 2 ^ 31 ∧ (x.msb = true ↔ x.toInt < 0) := by
  refine ⟨BitVec.le_toInt x, BitVec.toInt_lt, ?_⟩
  rw [BitVec.msb_eq_toInt, decide_eq_true_iff]

theorem fixS32_true_add (x y : Word) : fixS32 true (x.toInt + y.toInt) =
    if x.saddOverflow y then (if x.msb then 0x80000000 else 0x7FFFFFFF, fSAT) else (x + y, 0) := by
  refine fixS32_true_eq rfl (fun overflows => ?_) (by rw [BitVec.ofInt_add, BitVec.ofInt_toInt, BitVec.ofInt_toInt])
  obtain ⟨lowX, highX, signX⟩ := toInt_bounds x
  obtain ⟨lowY, highY, -⟩ := toInt_bounds y
  rw [signX]
  simp [BitVec.saddOverflow] at overflows
  omega

theorem fixS32_true_sub (x y : Word) : fixS32 true (x.toInt - y.toInt) =
    if x.ssubOverflow y then (if x.msb then 0x80000000 else 0x7FFFFFFF, fSAT) else (x - y, 0) := by
  refine fixS32_true_eq rfl (fun overflows => ?_) ?_
  · obtain ⟨lowX, highX, signX⟩ := toInt_bounds x
    obtain ⟨lowY, highY, -⟩ := toInt_bounds y
    rw [signX]
    simp [BitVec.ssubOverflow] at overflows
    omega
  · rw [Int.sub_eq_add_neg, BitVec.ofInt_add, BitVec.ofInt_neg, BitVec.ofInt_toInt, BitVec.ofInt_toInt, BitVec.sub_eq_add_neg]

theorem fixS32_false_add (x y : Word) : fixS32 false (x.toInt + y.toInt) = (x + y, 0) := by
  simp [fixS32, BitVec.ofInt_add]

theorem fixS32_false_sub (x y : Word) : fixS32 false (x.toInt - y.toInt) = (x - y, 0) := by
  simp [fixS32, Int.sub_eq_add_neg, BitVec.ofInt_add, BitVec.ofInt_neg, BitVec.sub_eq_add_neg]

/-- A result and its flag written, by whether the result was limited. -/
theorem ThreadSet.putS_flag_ite (t : ThreadSet) (d : SReg) (overflows : Prop) [Decidable overflows] (v w f : Word) :
    (t.putS d (if overflows then (v, f) else (w, 0)).1).flag (if overflows then (v, f) else (w, 0)).2 =
      if overflows then (t.putS d v).flag f else t.putS d w := by
  split
  · rfl
  · exact ThreadSet.flag_zero _

end Saturation

end Sys2Proof.Machine
end

section
/-! Sums, products and quotients of scalars. -/
namespace Sys2Proof.Machine

section Words

/-- The high word of the signed product (R218). -/
theorem imulh_value (x y : Word) : BitVec.ofInt 32 (x.toInt * y.toInt / 2 ^ 32) =
    (x.signExtend 64 * y.signExtend 64).extractLsb' 32 32 := by
  have wide : x.signExtend 64 * y.signExtend 64 = BitVec.ofInt 64 (x.toInt * y.toInt) := by
    rw [BitVec.ofInt_mul]
    rfl
  apply BitVec.eq_of_toNat_eq
  rw [wide]
  simp only [BitVec.extractLsb'_toNat, BitVec.toNat_ofInt, Nat.shiftRight_eq_div_pow]
  generalize x.toInt * y.toInt = p
  omega

/-- The high word of the unsigned product (R218). -/
theorem imulhz_value (x y : Word) : BitVec.ofNat 32 (x.toNat * y.toNat / 2 ^ 32) =
    (x.zeroExtend 64 * y.zeroExtend 64).extractLsb' 32 32 := by
  have wide : x.zeroExtend 64 * y.zeroExtend 64 = BitVec.ofNat 64 (x.toNat * y.toNat) := by
    simp [BitVec.ofNat_mul]
  apply BitVec.eq_of_toNat_eq
  rw [wide]
  simp only [BitVec.extractLsb'_toNat, BitVec.toNat_ofNat, Nat.shiftRight_eq_div_pow]
  generalize x.toNat * y.toNat = p
  omega

theorem idivVal_eq (level : Nat) (x y : Word) : idivVal level x y = if y = 0 then divZero level else x.sdiv y := by
  have quotient : BitVec.ofInt 32 (x.toInt.tdiv y.toInt) = x.sdiv y := by
    apply BitVec.eq_of_toInt_eq
    rw [BitVec.toInt_sdiv, BitVec.toInt_ofInt]
  rw [idivVal, quotient]

theorem idivzVal_eq (level : Nat) (x y : Word) : idivzVal level x y = if y = 0 then divZero level else x / y := by
  rw [idivzVal, BitVec.udiv_def]

theorem iremVal_eq (x y : Word) : iremVal x y = if y = 0 then x else x.srem y := by
  rw [iremVal, ← BitVec.toInt_srem, BitVec.ofInt_toInt]

theorem iremzVal_eq (x y : Word) : iremzVal x y = if y = 0 then x else x % y := by
  rw [iremzVal, BitVec.umod_def]

end Words

/-- Settles O1: each instruction is the two-source shape of its value, and that value is the word's own operation. -/
theorem integerArithmetic : Obligations.IntegerArithmetic := by
  unfold Obligations.IntegerArithmetic
  refine ⟨fun s h d a b x y on has => ?_, fun s h d a b x y on has => ?_, fun s h d a b x y on has => ?_⟩
  · have run (f : Word → Word → Word × Word) := alu2_of_has2 on has f
    refine ⟨(run _).trans ?_, (run _).trans ?_, alu2_of_has2_unflagged on has _ rfl, (run _).trans ?_, (run _).trans ?_⟩
    · rw [fixS32_false_add, ThreadSet.flag_zero]
    · rw [fixS32_false_sub, ThreadSet.flag_zero]
    · rw [fixS32_true_add, ThreadSet.putS_flag_ite]
    · rw [fixS32_true_sub, ThreadSet.putS_flag_ite]
  · exact ⟨alu2_of_has2_unflagged on has _ (imulh_value x y), alu2_of_has2_unflagged on has _ (imulhz_value x y)⟩
  · exact ⟨alu2_of_has2_unflagged on has _ (idivVal_eq _ x y), alu2_of_has2_unflagged on has _ (idivzVal_eq _ x y),
      alu2_of_has2_unflagged on has _ (iremVal_eq x y), alu2_of_has2_unflagged on has _ (iremzVal_eq x y)⟩

end Sys2Proof.Machine
end

section
/-! Comparisons, selections and shifts of scalars. -/
namespace Sys2Proof.Machine

section Choosing

theorem condHolds_eq_condSays (c : Cond) (x y : Word) : condHolds c x y = condSays c x y := by
  cases c with
  | eq => exact beq_eq_decide x y
  | ne => simp [condHolds, condSays, bne, beq_eq_decide]
  | lt | ge | le | gt | ltz | gez | lez | gtz => rfl

/-- Where a tie makes no difference, a choice by `<` is one by `≤`. -/
theorem ite_lt_eq_ite_le {α β : Type} [LinearOrder β] {p q : β} {u v : α} (tie : p = q → u = v) :
    (if p < q then u else v) = if p ≤ q then u else v := by
  rcases lt_trichotomy p q with lt | eq | gt
  · simp [lt, lt.le]
  · simp [tie eq]
  · simp [gt.not_gt, gt.not_ge]

end Choosing

section Shifting

theorem shlVal_eq (x : Word) (m : Nat) : shlVal x m = BitVec.ofNat 32 (x.toNat * 2 ^ m) := by
  unfold shlVal
  apply BitVec.eq_of_toNat_eq
  split
  next far =>
    have out : 2 ^ 32 ∣ x.toNat * 2 ^ m := dvd_mul_of_dvd_right (Nat.pow_dvd_pow 2 far) _
    simpa using (Nat.mod_eq_zero_of_dvd out).symm
  next => simp [Nat.shiftLeft_eq]

theorem shrlVal_eq (x : Word) (m : Nat) : shrlVal x m = BitVec.ofNat 32 (x.toNat / 2 ^ m) := by
  unfold shrlVal
  apply BitVec.eq_of_toNat_eq
  split
  next far =>
    have out : x.toNat / 2 ^ m = 0 := Nat.div_eq_of_lt (x.isLt.trans_le (Nat.pow_le_pow_right (by decide) far))
    simp [out]
  next =>
    have small : x.toNat / 2 ^ m < 2 ^ 32 := (Nat.div_le_self ..).trans_lt x.isLt
    rw [BitVec.toNat_ushiftRight, BitVec.toNat_ofNat, Nat.mod_eq_of_lt small, Nat.shiftRight_eq_div_pow]

/-- From the sign bit on a shift leaves the sign. -/
theorem ediv_two_pow_eq_sign {v : Int} {m : Nat} (low : -2 ^ 31 ≤ v) (high : v < 2 ^ 31) (far : 31 ≤ m) :
    v / 2 ^ m = if v < 0 then -1 else 0 := by
  have big : (2 : Int) ^ 31 ≤ 2 ^ m := pow_le_pow_right₀ (by decide) far
  split
  next neg => rw [Int.ediv_eq_iff_of_pos (by positivity)]; constructor <;> omega
  next => exact Int.ediv_eq_zero_of_lt (by omega) (by omega)

theorem shraVal_eq (x : Word) (m : Nat) : shraVal x m = BitVec.ofInt 32 (x.toInt / 2 ^ m) := by
  unfold shraVal
  rw [BitVec.sshiftRight_eq, Int.shiftRight_eq_div_pow]
  by_cases near : m ≤ 31
  · simp [near]
  · have far : 31 ≤ m := by omega
    obtain ⟨low, high, -⟩ := toInt_bounds x
    rw [Nat.min_eq_right far, ediv_two_pow_eq_sign low high far]
    exact congrArg _ (ediv_two_pow_eq_sign low high le_rfl)

end Shifting

/-- Settles O2: each instruction is the two-source or the shift shape of its value; minima and maxima differ from the statement's
only where both words are the same. -/
theorem bitsAndShifts : Obligations.BitsAndShifts := by
  unfold Obligations.BitsAndShifts
  refine ⟨fun s h d a b x y on has => ?_, fun s h d a n x k on has amount => ?_⟩
  · have run (f : Word → Word → Word) {v : Word} (hv : f x y = v) := alu2_of_has2_unflagged on has f hv
    have signed : x.toInt = y.toInt → x = y := BitVec.eq_of_toInt_eq
    have unsigned : x.toNat = y.toNat → x = y := BitVec.eq_of_toNat_eq
    refine ⟨run _ rfl, run _ rfl, run _ rfl, run _ rfl, run _ ?_, run _ ?_, run _ ?_, run _ ?_, fun c => run _ rfl,
      fun c => run _ ?_⟩
    · simpa [BitVec.slt] using ite_lt_eq_ite_le signed
    · simpa [BitVec.slt] using ite_lt_eq_ite_le fun tie => (signed tie).symm
    · simpa [BitVec.ult] using ite_lt_eq_ite_le unsigned
    · simpa [BitVec.ult] using ite_lt_eq_ite_le fun tie => (unsigned tie).symm
    · rw [condHolds_eq_condSays]
  · have run (f : Word → Nat → Word) {v : Word} (hv : f x k = v) := aluShift_of_has1 on has amount f hv
    exact ⟨run _ (shlVal_eq ..), run _ (shrlVal_eq ..), run _ (shraVal_eq ..), run _ rfl⟩

end Sys2Proof.Machine
end

section
/-! Counts of bits, immediates, pairs and addresses. -/
namespace Sys2Proof.Machine

section Counting

theorem foldl_count {α : Type} (p : α → Bool) (l : List α) (n : Nat) :
    l.foldl (fun n a => if p a then n + 1 else n) n = n + (l.filter p).length := by
  induction l generalizing n with
  | nil => rfl
  | cons a r ih =>
    cases h : p a with
    | true => simp [h, ih, Nat.add_right_comm, Nat.add_assoc]
    | false => simp [h, ih]

theorem popVal_toNat (x : Word) : (popVal x).toNat = ((List.range 32).filter fun i => x.getLsbD i).length := by
  have few : ((List.range 32).filter fun i => x.getLsbD i).length ≤ 32 := List.length_filter_le ..
  unfold popVal
  rw [foldl_count, Nat.zero_add, BitVec.toNat_ofNat, Nat.mod_eq_of_lt (few.trans_lt (by decide))]

/-- A number of 32 bits has n zeros above its highest set bit, and n is 32 where none is set. -/
def LeadingZeros (v n : Nat) : Prop := n ≤ 32 ∧ v < 2 ^ (32 - n) ∧ (n < 32 → 2 ^ (31 - n) ≤ v)

theorem leadingZeros_foldl (x : Word) {k : Nat} (hk : k ≤ 32) : LeadingZeros (x.toNat % 2 ^ k)
    ((List.range k).foldl (fun n i => if x.getLsbD i then 31 - i else n) 32) := by
  induction k with
  | zero => simp [LeadingZeros, Nat.mod_one]
  | succ k ih =>
    have split : x.toNat % 2 ^ (k + 1) = x.toNat % 2 ^ k + 2 ^ k * (x.toNat / 2 ^ k % 2) := Nat.mod_pow_succ
    have low : x.toNat % 2 ^ k < 2 ^ k := Nat.mod_lt _ (by positivity)
    rw [List.range_succ, List.foldl_append, List.foldl_cons, List.foldl_nil, split]
    have bit : x.getLsbD k = decide (x.toNat / 2 ^ k % 2 = 1) := by
      rw [← BitVec.testBit_toNat, Nat.testBit_eq_decide_div_mod_eq]
    cases h : x.getLsbD k with
    | true =>
      have one : x.toNat / 2 ^ k % 2 = 1 := by simpa [bit] using h
      have below : 31 - (31 - k) = k ∧ 32 - (31 - k) = k + 1 := by omega
      rw [one]
      simp only [LeadingZeros, if_true, below]
      exact ⟨by omega, by omega, fun _ => by omega⟩
    | false =>
      have zero : x.toNat / 2 ^ k % 2 = 0 := by simp [bit] at h; omega
      rw [zero]
      simpa using ih (by omega)

theorem clzVal_leadingZeros (x : Word) : LeadingZeros x.toNat (clzVal x).toNat := by
  have fold := leadingZeros_foldl x le_rfl
  have few := fold.1
  rw [Nat.mod_eq_of_lt x.isLt] at fold
  unfold clzVal
  rwa [BitVec.toNat_ofNat, Nat.mod_eq_of_lt (by omega)]

end Counting

section Immediates
variable {s : State} {h : Hdr} {d a : SReg} {x : Word}

theorem exec_iaddi_w32 (on : s.on h) (has : s.me.has1 d a x) (sat : Bool) (imm : Imm) : exec (.iaddi h (.w32 d a sat) imm) s =
    s.becomes (((s.me.killS h.dmA a).putS d (fixS32 sat (x.toInt + (imm.signExtend 32).toInt)).1).flag
      (fixS32 sat (x.toInt + (imm.signExtend 32).toInt)).2) := by
  obtain ⟨reads, free⟩ := has
  show execIaddi h (.w32 d a sat) imm s = _
  rw [BitVec.toInt_signExtend_of_le (by decide), execIaddi]
  exact State.runT_on on (by simp [reads, free, bind, Except.bind])

theorem exec_iaddi_w64 {d a : SPair} {x : DWord} (on : s.on h) (reads : s.me.readP a = .ok x) (free : s.me.freeP d = .ok ())
    (imm : Imm) : exec (.iaddi h (.w64 d a) imm) s = s.becomes ((s.me.killP h.dmA a).putP d (x + imm.signExtend 64)) := by
  show execIaddi h (.w64 d a) imm s = _
  rw [execIaddi]
  exact State.runT_on on (by simp [reads, free, bind, Except.bind])

theorem exec_imovi (on : s.on h) (free : s.me.freeS d = .ok ()) (imm : Imm) :
    exec (.imovi h d imm) s = s.becomes (s.me.putS d (imm.signExtend 32)) :=
  show execImovi h d imm s = _ from State.runT_on on (by simp [free, sext24, bind, Except.bind])

theorem exec_imovhi (on : s.on h) (reads : s.me.readS a = .ok x) (hi : BitVec 16) :
    exec (.imovhi h a hi) s = s.becomes (s.me.putS a (hi ++ x.extractLsb' 0 16)) :=
  show execImovhi h a hi s = _ from State.runT_on on (by simp [reads, bind, Except.bind])

theorem exec_nop (on : s.on h) : exec (.nop h) s = s.becomes s.me :=
  show execNop h s = _ from State.runT_on on rfl

end Immediates

section Addresses
variable {s : State} {h : Hdr} {d a : SPair} {i : SReg} {x : DWord} {z : Word}

/-- A thread set with an address v written to pair d, limited to the addresses there are (R225). -/
def ThreadSet.putAddress (t : ThreadSet) (d : SPair) (v : Int) : ThreadSet :=
  if v < 0 then (t.putP d 0).flag fSAT
  else if 2 ^ 64 ≤ v then (t.putP d (BitVec.allOnes 64)).flag fSAT
  else t.putP d (BitVec.ofInt 64 v)

theorem ThreadSet.putP_clampInt (t : ThreadSet) (d : SPair) (v : Int) :
    (t.putP d (BitVec.ofInt 64 (clampInt v 0 (2 ^ 64 - 1)).1)).flag (clampInt v 0 (2 ^ 64 - 1)).2 = t.putAddress d v := by
  have limit : 2 ^ 64 - 1 < v ↔ 2 ^ 64 ≤ v := by omega
  simp only [clampInt, ThreadSet.putAddress, limit]
  split
  · rfl
  · split
    · rfl
    · exact ThreadSet.flag_zero _

theorem aaddBody_of_reads {t : ThreadSet} (base : t.readP a = .ok x) (index : t.readS i = .ok z) (free : t.freeP d = .ok ())
    (k : Nat) (sat : Bool) (imm : Imm) : aaddBody h d a i k sat imm t =
      .ok ((((t.killP h.dmA a).killS h.dmB i).putP d (aaddVal sat k x z imm).1).flag (aaddVal sat k x z imm).2) := by
  simp [aaddBody, base, index, free, bind, Except.bind]

/-- The exact address, wrapped (R225). -/
theorem aaddBody_wraps {t : ThreadSet} (base : t.readP a = .ok x) (index : t.readS i = .ok z) (free : t.freeP d = .ok ())
    (k : Nat) (imm : Imm) : aaddBody h d a i k false imm t =
      .ok (((t.killP h.dmA a).killS h.dmB i).putP d (BitVec.ofInt 64 ((x.toNat : Int) + z.toInt * 2 ^ k + imm.toInt))) := by
  rw [aaddBody_of_reads base index free]
  exact congrArg Except.ok (ThreadSet.flag_zero _)

/-- The exact address, limited (R225). -/
theorem aaddBody_saturates {t : ThreadSet} (base : t.readP a = .ok x) (index : t.readS i = .ok z) (free : t.freeP d = .ok ())
    (k : Nat) (imm : Imm) : aaddBody h d a i k true imm t =
      .ok (((t.killP h.dmA a).killS h.dmB i).putAddress d ((x.toNat : Int) + z.toInt * 2 ^ k + imm.toInt)) := by
  rw [aaddBody_of_reads base index free]
  exact congrArg Except.ok (ThreadSet.putP_clampInt _ d _)

theorem exec_aadd_of_body {t : ThreadSet} (on : s.on h) {k : Fin 8} {sat : Bool} {imm : Imm}
    (body : aaddBody h d a i k.val sat imm s.me = .ok t) : exec (.aadd h d a i k sat imm) s = s.becomes t :=
  show execAadd h d a i k sat imm s = _ from State.runT_on on body

/-- AADDS is counted (R191). -/
theorem exec_aadds_of_body {t : ThreadSet} (on : s.on h) {k : Fin 8} {imm : Imm}
    (body : aaddBody h d a i k.val true imm s.me = .ok t) :
    exec (.aadds h d a i k imm) s = ((s.setTs s.who t).deprecate).done := by
  have guard : (s.ts s.who).guard h = true := on
  have body : aaddBody h d a i k.val true imm (s.ts s.who) = .ok t := body
  show execAadds h d a i k imm s = _
  rw [execAadds, if_pos guard]
  exact State.run_on on (by simp [body, bind, Except.bind])

end Addresses

/-- Settles O3: each instruction is its shape with its operands read; of a count, what the fold over the bits has counted, and of an
address, whether it is wrapped or limited. -/
theorem immediatesAndAddresses : Obligations.ImmediatesAndAddresses := by
  unfold Obligations.ImmediatesAndAddresses
  refine ⟨fun s h d a x imm on has => ?_, fun s h d a b x y i z k imm on has index => ?_⟩
  · have ⟨reads, free⟩ := has
    refine ⟨⟨_, alu1_of_has1 on has _, clzVal_leadingZeros x⟩, ⟨_, alu1_of_has1 on has _, popVal_toNat x⟩, ?_, ?_,
      exec_imovi on free imm, exec_imovhi on reads, exec_nop on⟩
    · rw [exec_iaddi_w32 on has, fixS32_false_add, ThreadSet.flag_zero]
    · rw [exec_iaddi_w32 on has, fixS32_true_add, ThreadSet.putS_flag_ite]
  · have ⟨base, _, free⟩ := has
    exact ⟨aluP_of_hasP on has _, aluP_of_hasP on has _, exec_iaddi_w64 on base free imm,
      exec_aadd_of_body on (aaddBody_wraps base index free _ imm), exec_aadd_of_body on (aaddBody_saturates base index free _ imm),
      exec_aadds_of_body on (aaddBody_saturates base index free _ imm)⟩

end Sys2Proof.Machine
end

section
/-! Predicates. -/
namespace Sys2Proof.Machine

section Tests
variable {s : State} {h : Hdr} {d : PReg} {a b : SReg} {x y : Word}

/-- A predicate that tests one scalar register (R226). -/
theorem runT_test1 (on : s.on h) (reads : s.me.readS a = .ok x) (f : Word → Bool) {v : Bool} (hv : f x = v) :
    (s.runT h fun t => do
      let x ← t.readS a
      .ok ((t.killS h.dmA a).putPred d (f x))) = s.becomes ((s.me.killS h.dmA a).putPred d v) :=
  State.runT_on on (by simp [reads, hv, bind, Except.bind])

theorem exec_pset_cmp (on : s.on h) (readA : s.me.readS a = .ok x) (readB : s.me.readS b = .ok y) (c : Cond) :
    exec (.pset h d (.cmp c a b)) s = s.becomes ((s.me.dead2 h a b).putPred d (condSays c x y)) := by
  show execPset h d (.cmp c a b) s = _
  exact State.runT_on on (by simp [readA, readB, condHolds_eq_condSays, bind, Except.bind, ThreadSet.dead2])

theorem exec_pset_const (on : s.on h) (v : Bool) : exec (.pset h d (.const v)) s = s.becomes (s.me.putPred d v) :=
  show execPset h d (.const v) s = _ from State.runT_on on rfl

end Tests

/-- Settles O4: each form reads what it tests and writes one predicate; p0 reads as true, and a write to it is none. -/
theorem predicates : Obligations.Predicates := by
  unfold Obligations.Predicates
  refine fun s h d p q a b x y imm n on readA readB => ⟨⟨exec_pset_cmp on readA readB, ?_, ?_, ?_, ?_, ?_, exec_pset_const on,
    aluPred_of_on on _ rfl, aluPred_of_on on _ rfl, aluPred_of_on on _ ?_, aluPred_of_on (q := p) on (fun x _ => !x) rfl⟩,
    rfl, fun v => rfl⟩
  · exact runT_test1 on readA (fun x => x == sext24 imm) (beq_eq_decide ..)
  · exact runT_test1 on readA (fun x => x != sext24 imm) (by simp [bne, beq_eq_decide, sext24])
  · exact runT_test1 on readA (fun x => x.slt (sext24 imm)) rfl
  · exact runT_test1 on readA (fun x => (sext24 imm).sle x) rfl
  · exact runT_test1 on readA (fun x => x.getLsbD n.val) rfl
  · exact congrFun (congrFun Bool.bne_eq_xor _) _

end Sys2Proof.Machine
end

section
/-! Hardware loops: LOOP and LOOPI, and the end of a pass. -/
namespace Sys2Proof.Machine

section Starting
variable {s u : State} {h : Hdr} {a : SReg} {n : Word} {c : Capsule} {e : RelTarget} {k : BitVec 20} {r : Nat} {nx : Next} {st : Stop}

/-- A thread set with a loop level of n iterations opened, from the position after its own to a relative one (R233). -/
def State.opened (s : State) (e : RelTarget) (n : Word) : ThreadSet :=
  { s.me with loops := { count := n, first := BitVec.ofNat 32 (nextPos s.me.pc.toNat)
                         last := BitVec.ofInt 32 (relPos s.me.pc.toNat e) } :: s.me.loops }

theorem State.startLoop_of_inh (inside : s.me.inh = true) (e : RelTarget) (n : Word) :
    s.startLoop e n = .error (.trap .illegal 5) := if_pos inside

theorem State.startLoop_of_refused (outside : s.me.inh = false) (capsule : s.capsuleOf s.who = some c)
    (form : c.loopForm s.me.loops (nextPos s.me.pc.toNat) (relPos s.me.pc.toNat e) = some r) (n : Word) :
    s.startLoop e n = .error (.trap .loopform (BitVec.ofNat 32 r)) := by
  simp only [State.me] at outside form
  simp [State.startLoop, State.pos, outside, capsule, form]

theorem State.startLoop_of_zero (outside : s.me.inh = false) (capsule : s.capsuleOf s.who = some c)
    (form : c.loopForm s.me.loops (nextPos s.me.pc.toNat) (relPos s.me.pc.toNat e) = none) (zero : n = 0) :
    s.startLoop e n = .ok (s, .jump (nextPos (relPos s.me.pc.toNat e).toNat) false) := by
  simp only [State.me] at outside form
  simp [State.startLoop, State.pos, outside, capsule, form, zero, State.me]

theorem State.startLoop_of_opens (outside : s.me.inh = false) (capsule : s.capsuleOf s.who = some c)
    (form : c.loopForm s.me.loops (nextPos s.me.pc.toNat) (relPos s.me.pc.toNat e) = none) (more : n ≠ 0) :
    s.startLoop e n = .ok (s.setTs s.who (s.opened e n), .jump (nextPos s.me.pc.toNat) false) := by
  simp only [State.me] at outside form
  have more : ¬ n = 0#32 := more
  simp [State.startLoop, State.pos, outside, capsule, form, more, State.me, State.opened]

theorem exec_loop_of_starts (on : s.on h) (reads : s.me.readS a = .ok n) (starts : s.startLoop e n = .ok (u, nx)) :
    exec (.loop h a e) s = .next ((u.modTs s.who fun t => t.killS h.dmA a).retire nx) := by
  show execLoop h a e s = _
  have reads : (s.ts s.who).readS a = .ok n := reads
  exact State.run_on on (by simp [reads, starts, bind, Except.bind])

theorem exec_loop_of_stops (on : s.on h) (reads : s.me.readS a = .ok n) (stops : s.startLoop e n = .error st) :
    exec (.loop h a e) s = .next (s.stopped st) := by
  show execLoop h a e s = _
  have reads : (s.ts s.who).readS a = .ok n := reads
  exact State.run_stops on (by simp [reads, stops, bind, Except.bind])

theorem exec_loopi_of_starts (on : s.on h) (starts : s.startLoop e (k.zeroExtend 32) = .ok (u, nx)) :
    exec (.loopi h e k) s = .next (u.retire nx) :=
  show execLoopi h e k s = _ from State.run_on on starts

theorem exec_loopi_of_stops (on : s.on h) (stops : s.startLoop e (k.zeroExtend 32) = .error st) :
    exec (.loopi h e k) s = .next (s.stopped st) :=
  show execLoopi h e k s = _ from State.run_stops on stops

/-- A count widened is zero only if it was. -/
theorem zeroExtend_eq_zero_iff (k : BitVec 20) : (k.zeroExtend 32 : Word) = 0 ↔ k = 0 := by
  rw [← BitVec.toNat_inj, ← BitVec.toNat_inj, BitVec.toNat_setWidth, Nat.mod_eq_of_lt (k.isLt.trans (by decide))]
  rfl

theorem exec_loop_of_form (on : s.on h) (reads : s.me.readS a = .ok n) (outside : s.me.inh = false)
    (capsule : s.capsuleOf s.who = some c)
    (form : c.loopForm s.me.loops (nextPos s.me.pc.toNat) (relPos s.me.pc.toNat e) = none) : exec (.loop h a e) s =
      if n = 0 then (s.setTs s.who (s.me.killS h.dmA a)).goes (nextPos (relPos s.me.pc.toNat e).toNat) false
      else (s.setTs s.who ((s.opened e n).killS h.dmA a)).goes (nextPos s.me.pc.toNat) false := by
  split
  next zero => exact exec_loop_of_starts on reads (State.startLoop_of_zero outside capsule form zero)
  next more =>
    rw [exec_loop_of_starts on reads (State.startLoop_of_opens outside capsule form more)]
    simp [State.goes]

theorem exec_loopi_of_form (on : s.on h) (outside : s.me.inh = false) (capsule : s.capsuleOf s.who = some c)
    (form : c.loopForm s.me.loops (nextPos s.me.pc.toNat) (relPos s.me.pc.toNat e) = none) : exec (.loopi h e k) s =
      if k = 0 then s.goes (nextPos (relPos s.me.pc.toNat e).toNat) false
      else (s.setTs s.who (s.opened e (k.zeroExtend 32))).goes (nextPos s.me.pc.toNat) false := by
  split
  next zero =>
    exact exec_loopi_of_starts on (State.startLoop_of_zero outside capsule form ((zeroExtend_eq_zero_iff k).2 zero))
  next more =>
    exact exec_loopi_of_starts on (State.startLoop_of_opens outside capsule form (mt (zeroExtend_eq_zero_iff k).1 more))

end Starting

section Passing
variable {s : State} {w : Who} {l : LoopLevel} {ls left : List LoopLevel} {f pos : Word} {refuses : Int → Bool}

/-- The last pass of a level ends it (R234). -/
theorem loopEnd_of_last_pass (ends : l.last = pos) (last : l.count = 1) : loopEnd refuses pos (l :: ls) = loopEnd refuses pos ls := by
  simp [loopEnd, ends, last]

theorem loopEnd_of_back (ends : l.last = pos) (more : l.count ≠ 1) (allowed : refuses l.first.toNat = false) :
    loopEnd refuses pos (l :: ls) = .back l.first ({ l with count := l.count - 1 } :: ls) := by
  rw [loopEnd, if_neg (not_not.2 ends), if_pos more, allowed]
  rfl

theorem loopEnd_of_refused (ends : l.last = pos) (more : l.count ≠ 1) (refused : refuses l.first.toNat = true) :
    loopEnd refuses pos (l :: ls) = .refused l.first (l :: ls) := by
  rw [loopEnd, if_neg (not_not.2 ends), if_pos more, refused]
  rfl

theorem loopEnd_of_none (refuses : Int → Bool) (none : ∀ l ∈ ls, l.last ≠ pos) : loopEnd refuses pos ls = .fall ls :=
  loopEnd_of_head refuses fun l head => none l (List.mem_of_head? head)

theorem State.advance_of_inh (inside : (s.ts w).inh = true) :
    s.advance w = s.setTs w { (s.ts w).goTo (nextPos (s.ts w).pc.toNat) with run := .ready } := if_pos inside

theorem State.advance_of_fall (outside : (s.ts w).inh = false) (loops : (s.ts w).loops = ls)
    (falls : loopEnd (s.refusesTarget w) (s.ts w).pc ls = .fall left) :
    s.advance w = s.setTs w { (s.ts w).goTo (nextPos (s.ts w).pc.toNat) with run := .ready, loops := left } := by
  simp [State.advance, outside, loops, falls]

/-- A position that ends no pass (R234). -/
theorem State.advance_of_within (outside : (s.ts w).inh = false) (loops : (s.ts w).loops = l :: ls) (within : l.last ≠ (s.ts w).pc) :
    s.advance w = s.setTs w { (s.ts w).goTo (nextPos (s.ts w).pc.toNat) with run := .ready } := by
  have falls : loopEnd (s.refusesTarget w) (s.ts w).pc (s.ts w).loops = .fall (s.ts w).loops := by
    rw [loops, loopEnd, if_pos within]
  exact State.advance_of_fall outside rfl falls

theorem State.advance_of_back (outside : (s.ts w).inh = false) (loops : (s.ts w).loops = ls)
    (back : loopEnd (s.refusesTarget w) (s.ts w).pc ls = .back f left) :
    s.advance w = s.setTs w { s.ts w with run := .ready, loops := left, pc := f, enter := true } := by
  simp [State.advance, outside, loops, back]

theorem State.advance_of_refused (outside : (s.ts w).inh = false) (loops : (s.ts w).loops = ls)
    (refused : loopEnd (s.refusesTarget w) (s.ts w).pc ls = .refused f ls) :
    s.advance w = (s.setTs w { s.ts w with run := .ready }).takeTrap w .target (s.ts w).pc f (s.ts w).pc := by
  subst loops
  simp [State.advance, outside, refused]

end Passing

end Sys2Proof.Machine
end

section
/-! HALT and YIELD: the slot that a task frees, and the task that a thread set passes to. -/
namespace Sys2Proof.Machine

section Oldest
variable {k : Core} {n slot set : Nat}

/-- The task of a slot. -/
def Core.taskAt (k : Core) (i : Nat) : Task := k.tasks.toList.getD i { }

theorem Core.taskAt_fin (k : Core) (i : Fin 16) : k.taskAt i.val = k.tasks[i] := by
  simp [Core.taskAt, List.getD]

/-- Of the slots below a bound, one whose task has been ready longest, or none where no task is ready. -/
def Core.oldestBelow (k : Core) (bound : Nat) : Option Nat → Prop
  | none => ∀ i < bound, (k.taskAt i).state ≠ .ready
  | some j => j < bound ∧ (k.taskAt j).state = .ready ∧
      ∀ i < bound, (k.taskAt i).state = .ready → (k.taskAt j).since ≤ (k.taskAt i).since

/-- The slot of the longest ready task once one more is looked at. -/
def Core.older (k : Core) (best : Option Nat) (i : Nat) : Option Nat :=
  if (k.taskAt i).state = .ready then
    match best with
    | some j => if (k.taskAt i).since < (k.taskAt j).since then some i else best
    | none => some i
  else best

theorem Core.oldestBelow_older {best : Option Nat} (h : k.oldestBelow n best) : k.oldestBelow (n + 1) (k.older best n) := by
  unfold Core.older
  cases best with
  | none =>
    split
    next ready => exact ⟨by omega, ready, Nat.forall_lt_succ_right.2 ⟨fun i hi readyI => absurd readyI (h i hi), fun _ => le_rfl⟩⟩
    next idle => exact Nat.forall_lt_succ_right.2 ⟨h, idle⟩
  | some j =>
    obtain ⟨hj, readyJ, least⟩ := h
    dsimp only
    split
    next ready =>
      split
      next before =>
        exact ⟨by omega, ready, Nat.forall_lt_succ_right.2
          ⟨fun i hi readyI => before.le.trans (least i hi readyI), fun _ => le_rfl⟩⟩
      next after => exact ⟨by omega, readyJ, Nat.forall_lt_succ_right.2 ⟨least, fun _ => Nat.le_of_not_lt after⟩⟩
    next idle => exact ⟨by omega, readyJ, Nat.forall_lt_succ_right.2 ⟨least, fun ready => absurd ready idle⟩⟩

theorem Core.oldestBelow_foldl (k : Core) (n : Nat) : k.oldestBelow n ((List.range n).foldl k.older none) := by
  induction n with
  | zero => exact fun i hi => absurd hi (Nat.not_lt_zero i)
  | succ n ih =>
    rw [List.range_succ, List.foldl_append]
    exact Core.oldestBelow_older ih

/-- Where a task is ready, one that has been so longest is found (R137). -/
theorem Core.oldestReady_of_ready {x : Task} (there : x ∈ k.tasks.toList) (ready : x.state = .ready) : ∃ n : Fin 16,
    k.oldestReady = some n.val ∧ k.tasks[n].state = .ready ∧
      ∀ y ∈ k.tasks.toList, y.state = .ready → k.tasks[n].since ≤ y.since := by
  have slots {y : Task} (hy : y ∈ k.tasks.toList) : ∃ i < 16, k.taskAt i = y := by
    obtain ⟨i, hi, e⟩ := List.mem_iff_getElem.1 hy
    exact ⟨i, by simpa using hi, by simp [Core.taskAt, List.getD, List.getElem?_eq_getElem hi, e]⟩
  have found : k.oldestBelow 16 k.oldestReady := k.oldestBelow_foldl 16
  cases e : k.oldestReady with
  | none =>
    obtain ⟨i, hi, rfl⟩ := slots there
    rw [e] at found
    exact absurd ready (found i hi)
  | some j =>
    rw [e] at found
    obtain ⟨hj, readyJ, least⟩ := found
    have at_j := k.taskAt_fin ⟨j, hj⟩
    simp only at at_j
    refine ⟨⟨j, hj⟩, rfl, at_j ▸ readyJ, fun y hy readyY => ?_⟩
    obtain ⟨i, hi, rfl⟩ := slots hy
    exact at_j ▸ least i hi readyY

/-- A memory core has two thread sets (R137). -/
theorem Core.lt_of_setOf (on : k.setOf slot = some set) : set < 2 := by
  unfold Core.setOf at on
  split at on
  · cases on; decide
  · split at on
    · cases on; decide
    · cases on

theorem Core.giveSet_running (k : Core) (within : set < 2) (slot : Nat) :
    (k.giveSet set slot).running.toList.getD set none = some slot := by
  simp [Core.giveSet, List.getD, within]

theorem Core.giveSet_state_same (k : Core) (set : Nat) (n : Fin 16) : (k.giveSet set n.val).tasks[n].state = .running := by
  simp [Core.giveSet]

theorem Core.giveSet_tasks_other (k : Core) (set : Nat) {n i : Fin 16} (other : i ≠ n) : (k.giveSet set n.val).tasks[i] = k.tasks[i] := by
  have away : n.val ≠ i.val := fun e => other (Fin.ext e.symm)
  simp [Core.giveSet, away]

@[simp] theorem Core.giveSet_schedRun (k : Core) (set slot : Nat) : (k.giveSet set slot).schedRun = k.schedRun := rfl

end Oldest

section Halting
variable {s : State} {h : Hdr} {g : Nat}

theorem ThreadSet.drained_of_landed {t : ThreadSet} (answers : t.answers = []) (landed : ∀ l ∈ t.loads, l.landed = true) :
    t.drained = .ok () := by
  have none : t.loads.any (fun l => !l.landed) = false := by simpa using landed
  simp [ThreadSet.drained, answers, none]

/-- The state once the thread set that executes has retired (R238). -/
def State.halted (s : State) : State := s.setTs s.who { s.me with run := .retired, loops := [] }

theorem exec_halt_of_set (on : s.on h) (drained : s.me.drained = .ok ()) (set : s.who.core.isMemory = false) :
    exec (.halt h) s = .next (s.halted.retire .stay) := by
  show execHalt h s = _
  have drained : (s.ts s.who).drained = .ok () := drained
  exact State.run_on on (by simp [drained, set, bind, Except.bind, State.halted, State.me])

theorem exec_halt_of_task (on : s.on h) (drained : s.me.drained = .ok ()) (memory : s.who.core.isMemory = true)
    (mine : s.gangId s.who = some g) : ∃ f : Gang → Gang, exec (.halt h) s =
      .next (((s.halted.modCore s.who.core fun k => k.haltTask s.who.t.val).modGang g f).retire .stay) := by
  show ∃ f : Gang → Gang, execHalt h s = _
  have drained : (s.ts s.who).drained = .ok () := drained
  have mine : s.halted.gangId s.who = some g := by simpa [State.halted, State.gangId] using mine
  simp only [State.halted, State.me] at mine ⊢
  exact ⟨_, State.run_on on (by simp [drained, memory, mine, bind, Except.bind]; rfl)⟩

/-- A retirement in place changes no core. -/
theorem State.retire_stay_core (s : State) (c : CoreId) : (s.retire .stay).core c = s.core c := s.core_counted c

theorem Core.haltTask_frees (k : Core) (i : Fin 16) : (k.haltTask i.val).tasks[i] = { } ∧ (k.haltTask i.val).ts[i] = { } ∧
    (k.haltTask i.val).setOf i.val = none := by
  refine ⟨by simp [Core.haltTask], by simp [Core.haltTask], ?_⟩
  have none (j : Nat) : (k.haltTask i.val).running.toList.getD j none ≠ some i.val := by
    simp only [Core.haltTask, Vector.toList_map, List.getD, List.getElem?_map]
    cases k.running.toList[j]? with
    | none => simp
    | some r => by_cases mine : r = some i.val <;> simp [mine]
  unfold Core.setOf
  rw [if_neg (none 0), if_neg (none 1)]

theorem exec_halt_frees (on : s.on h) (drained : s.me.drained = .ok ()) (memory : s.who.core.isMemory = true)
    (mine : s.gangId s.who = some g) : ∃ s', exec (.halt h) s = .next s' ∧ (s'.core s.who.core).tasks[s.who.t] = { } ∧
      (s'.core s.who.core).ts[s.who.t] = { } ∧ (s'.core s.who.core).setOf s.who.t.val = none := by
  obtain ⟨f, ran⟩ := exec_halt_of_task on drained memory mine
  refine ⟨_, ran, ?_⟩
  simp only [State.retire_stay_core, State.core_modGang, State.core_modCore_same]
  exact Core.haltTask_frees _ _

end Halting

section Yielding
variable {s r : State} {h : Hdr} {k : Core} {set : Nat}

theorem exec_yield_of_set (on : s.on h) (other : s.who.core.isMemory = false) :
    exec (.yield h) s = .next ((s.retire .seq).modCore s.who.core fun k => { k with schedRun := 64 }) := by
  show execYield h s = _
  have on : (s.ts s.who).guard h = true := on
  simp only [execYield, on, other]
  rfl

/-- A task of the gang of the task in a slot is ready. -/
def Core.hasMate (k : Core) (i : Fin 16) : Prop := ∃ x ∈ k.tasks.toList, x.state = .ready ∧ x.gang = k.tasks[i].gang

theorem Core.any_mate_iff (k : Core) (i : Fin 16) :
    (k.tasks.toList.any fun x => x.state == .ready && x.gang == k.tasks[i].gang) = true ↔ k.hasMate i := by
  simp only [List.any_eq_true, Bool.and_eq_true, beq_iff_eq]
  rfl

/-- A core whose task in a slot yields its thread set to the task of another (R239). -/
def Core.yieldTo (k : Core) (i : Fin 16) (now set n : Nat) : Core :=
  { k with schedRun := 64, tasks := k.tasks.set! i.val { k.tasks[i] with state := .ready, since := now } }.giveSet set n

theorem exec_yield_of_mate (on : s.on h) (memory : s.who.core.isMemory = true) (hr : s.retire .seq = r)
    (mate : (r.core s.who.core).hasMate s.who.t) (running : (r.core s.who.core).setOf s.who.t.val = some set) :
    exec (.yield h) s = .next (r.setCore s.who.core ((r.core s.who.core).yieldTo s.who.t r.now set
      ((r.core s.who.core).oldestReady.getD s.who.t.val))) := by
  subst hr
  show execYield h s = _
  have on : (s.ts s.who).guard h = true := on
  have mate := (Core.any_mate_iff _ _).2 mate
  simp only [execYield, on, memory, if_true]
  split
  next now mate' running' =>
    cases running.symm.trans running'
    rfl
  next neither => exact (neither set mate running).elim

theorem exec_yield_of_stays (on : s.on h) (memory : s.who.core.isMemory = true) (hr : s.retire .seq = r)
    (stays : (r.core s.who.core).setOf s.who.t.val = none ∨ ¬ (r.core s.who.core).hasMate s.who.t) :
    exec (.yield h) s = .next (r.setCore s.who.core { r.core s.who.core with schedRun := 64 }) := by
  subst hr
  show execYield h s = _
  have on : (s.ts s.who).guard h = true := on
  simp only [execYield, on, memory, if_true]
  split
  next set mate running =>
    exact absurd ((Core.any_mate_iff _ _).1 mate) (stays.resolve_left fun none => nomatch none.symm.trans running)
  next => rfl

theorem exec_yield_passes (on : s.on h) (memory : s.who.core.isMemory = true) (hr : s.retire .seq = r) (hk : r.core s.who.core = k)
    (mate : k.hasMate s.who.t) (running : k.tasks[s.who.t].state = .running) (hset : k.setOf s.who.t.val = some set) :
    ∃ s', ∃ n : Fin 16, exec (.yield h) s = .next s' ∧ k.tasks[n].state = .ready ∧
      (∀ x ∈ k.tasks.toList, x.state = .ready → k.tasks[n].since ≤ x.since) ∧
      (s'.core s.who.core).running.toList.getD set none = some n.val ∧ (s'.core s.who.core).tasks[n].state = .running ∧
      (s'.core s.who.core).tasks[s.who.t].state = .ready ∧ (s'.core s.who.core).schedRun = 64 := by
  subst hk
  have ⟨x, there, ready, _⟩ := mate
  obtain ⟨n, oldest, readyN, least⟩ := Core.oldestReady_of_ready there ready
  have apart : s.who.t ≠ n := by
    rintro rfl
    cases running.symm.trans readyN
  refine ⟨_, n, exec_yield_of_mate on memory hr mate hset, readyN, least, ?_⟩
  rw [State.core_setCore_same, oldest, Option.getD_some]
  refine ⟨Core.giveSet_running _ (Core.lt_of_setOf hset) _, Core.giveSet_state_same .., ?_, rfl⟩
  rw [Core.yieldTo, Core.giveSet_tasks_other _ _ apart]
  simp

end Yielding

/-- Settles O6: a loop is opened or refused as R235 says; the end of a pass goes by what `loopEnd` makes of the levels, innermost
first; HALT and YIELD go by the kind of core, and of a task by the slots of its core. -/
theorem loopsAndHalt : Obligations.LoopsAndHalt := by
  unfold Obligations.LoopsAndHalt
  refine ⟨fun s h a e k n c on reads capsule => ⟨fun outside form => ?_, fun inside => ?_, fun r outside form => ?_⟩,
    fun s w l r loops => ?_, fun s h on answers landed => ?_⟩
  · exact ⟨exec_loop_of_form on reads outside capsule form, exec_loopi_of_form on outside capsule form⟩
  · exact ⟨exec_loop_of_stops on reads (State.startLoop_of_inh inside e n),
      exec_loopi_of_stops on (State.startLoop_of_inh inside e _)⟩
  · exact ⟨exec_loop_of_stops on reads (State.startLoop_of_refused outside capsule form n),
      exec_loopi_of_stops on (State.startLoop_of_refused outside capsule form _)⟩
  · refine ⟨fun out ends more allowed => State.advance_of_back out loops (loopEnd_of_back ends more allowed),
      fun out ends more refused => State.advance_of_refused out loops (loopEnd_of_refused ends more refused),
      fun out ends last none => State.advance_of_fall out loops ((loopEnd_of_last_pass ends last).trans (loopEnd_of_none _ none)),
      fun m r' around out ends last ends' => ?_, fun out within => State.advance_of_within out loops within, State.advance_of_inh⟩
    subst around
    have inner := loopEnd_of_last_pass (refuses := s.refusesTarget w) (ls := m :: r') ends last
    exact ⟨fun last' none =>
        State.advance_of_fall out loops (inner.trans ((loopEnd_of_last_pass ends' last').trans (loopEnd_of_none _ none))),
      fun more allowed => State.advance_of_back out loops (inner.trans (loopEnd_of_back ends' more allowed))⟩
  · have drained := ThreadSet.drained_of_landed answers landed
    refine ⟨fun set => ⟨exec_halt_of_set on drained set, exec_yield_of_set on set⟩, fun memory g mine =>
      ⟨exec_halt_frees on drained memory mine, fun set running state mate => ?_, fun stays => ?_⟩⟩
    · exact exec_yield_passes on memory rfl rfl mate state running
    · exact exec_yield_of_stays on memory rfl stays

end Sys2Proof.Machine
end

section
/-! The checks of an access: the store, the protection window and the landing windows, alignment, and a typed reference. -/
namespace Sys2Proof.Machine

section Ranges
variable {s : State} {w : Who} {a : Int} {n : Nat}

@[simp] theorem minOpt_none (o : Option Int) : minOpt none o = o := by cases o <;> rfl

/-- Of one range the lowest offending address is the range's own. -/
theorem lowest_singleton (bad : Int → Int → Option Int) (pos : 0 < n) : lowest bad [(a, n)] = bad a (a + n - 1) := by
  simp [lowest, Nat.ne_of_gt pos]

theorem inWindow_eq_none_iff (ws : List Window) (lo hi : Int) : inWindow ws lo hi = none ↔
    ∀ v ∈ ws, ¬ (v.state ≠ .readable ∧ lo < v.base + v.len ∧ v.base ≤ hi) := by
  unfold inWindow
  rw [foldl_minOpt_eq_none_iff]
  exact and_iff_right rfl

/-- An access goes through where none of the three checks of R240 finds an offending byte. -/
theorem State.access_eq_ok_iff (rs : List (Int × Nat)) : s.access w rs = .ok () ↔
    lowest (outside 0 (storeTop w.core)) rs = none ∧ lowest (outside (s.ts w).pwbase.toNat (s.ts w).pwlim.toNat) rs = none ∧
      lowest (inWindow (s.core w.core).shared.windows) rs = none := by
  unfold State.access
  dsimp only
  split
  next top => simp [top]
  next top =>
    split
    next window => simp [window]
    next window => split <;> simp [*]

/-- The store's own bounds are checked before all else (R240). -/
theorem State.access_of_outside {rs : List (Int × Nat)} {x : Int} (top : lowest (outside 0 (storeTop w.core)) rs = some x) :
    s.access w rs = .error (protAt x) := by
  simp only [State.access, top]

theorem State.access_singleton_iff (pos : 0 < n) : s.access w [(a, n)] = .ok () ↔
    0 ≤ a ∧ a + n ≤ storeTop w.core ∧ ((s.ts w).pwbase.toNat : Int) ≤ a ∧ a + n ≤ (s.ts w).pwlim.toNat ∧
      ∀ v ∈ (s.core w.core).shared.windows, v.state = .readable ∨ a + n ≤ v.base ∨ (v.base : Int) + v.len ≤ a := by
  have apart (v : Window) : ¬ (v.state ≠ .readable ∧ a < v.base + v.len ∧ v.base ≤ a + n - 1) ↔
      v.state = .readable ∨ a + n ≤ v.base ∨ (v.base : Int) + v.len ≤ a := by
    by_cases readable : v.state = .readable
    · simp [readable]
    · simp only [readable, ne_eq, not_false_eq_true, true_and, false_or]
      omega
  rw [State.access_eq_ok_iff, lowest_singleton _ pos, lowest_singleton _ pos, lowest_singleton _ pos, outside_eq_none_iff,
    outside_eq_none_iff, inWindow_eq_none_iff]
  simp only [apart]
  constructor
  · exact fun ⟨⟨low, top⟩, ⟨base, limit⟩, clear⟩ => ⟨low, by omega, base, by omega, clear⟩
  · exact fun ⟨low, top, base, limit, clear⟩ => ⟨⟨low, by omega⟩, ⟨base, by omega⟩, clear⟩

theorem State.access_of_below (pos : 0 < n) (below : a < 0) : s.access w [(a, n)] = .error (protAt a) := by
  refine State.access_of_outside ?_
  rw [lowest_singleton _ pos, outside, if_pos below]

theorem State.access_of_above (pos : 0 < n) (low : 0 ≤ a) (above : (storeTop w.core : Int) < a + n) :
    s.access w [(a, n)] = .error (protAt (max a (storeTop w.core))) := by
  refine State.access_of_outside ?_
  rw [lowest_singleton _ pos, outside, if_neg (by omega), if_pos (by omega)]

theorem aligned_singleton (m : Nat) (a : Int) : aligned m [a] = if a % m = 0 then .ok () else .error (protAt a) := by
  simp only [aligned, List.foldl_cons, List.foldl_nil, minOpt_none]
  by_cases whole : a % m = 0
  · simp only [if_pos whole]
  · simp only [if_neg whole]

theorem aligned_of_not_mod {m : Nat} (off : a % m ≠ 0) : aligned m [a] = .error (protAt a) := by
  rw [aligned_singleton, if_neg off]

end Ranges

section References
variable {s : State} {w : Who} {c n align : Nat} {f : Fmt} {r wr : Bool} {off : Int} {v : Ref}

theorem State.refcheck_of_unbound (unbound : s.refOf w c = none) (want : RefWant) :
    s.refcheck w c want r wr off n align = .error (reftype c 0 2) := by
  simp only [State.refcheck, unbound]

theorem State.refcheck_of_other_fmt (bound : s.refOf w c = some v) (other : v.fmt ≠ f) :
    s.refcheck w c (.fmt f) r wr off n align = .error (reftype c v.fmt.code 1) := by
  simp only [State.refcheck, bound, if_neg other]

theorem State.refcheck_of_other_width {b : Nat} (bound : s.refOf w c = some v) (other : v.fmt.width ≠ 8 * b) :
    s.refcheck w c (.width b) r wr off n align = .error (reftype c v.fmt.code 3) := by
  simp only [State.refcheck, bound, if_neg other]

/-- The rights that an access needs are the reference's. -/
def Ref.Permits (v : Ref) (r wr : Bool) : Prop := (r = true → v.r = true) ∧ (wr = true → v.w = true)

theorem Ref.permits_iff : v.Permits r wr ↔ ¬ ((r && !v.r) || (wr && !v.w)) = true := by
  unfold Ref.Permits
  cases r <;> cases wr <;> simp

theorem State.refcheck_of_no_right (bound : s.refOf w c = some v) (same : v.fmt = f) (lacks : ¬ v.Permits r wr) :
    s.refcheck w c (.fmt f) r wr off n align = .error (reftype c v.fmt.code 2) := by
  rw [Ref.permits_iff, not_not] at lacks
  simp only [State.refcheck, bound, if_pos same, lacks, if_true]

/-- What is left to check once format, right and alignment are as they should be is the reference's size (R322). -/
theorem State.refcheck_of_permits (bound : s.refOf w c = some v) (same : v.fmt = f) (may : v.Permits r wr)
    (whole : off % align = 0) : s.refcheck w c (.fmt f) r wr off n align =
      if off < 0 then .error (.trap .refbound (BitVec.ofInt 32 off))
      else if (v.size : Int) < off + n then .error (.trap .refbound (BitVec.ofInt 32 (max off v.size)))
      else .ok (v.base + off.toNat) := by
  rw [Ref.permits_iff] at may
  simp only [State.refcheck, bound, if_pos same, if_neg may, whole, ne_eq, not_true_eq_false, if_false]

end References

/-- Settles O12: each check finds no offending byte where the statement's condition holds, and else the lowest one; a typed
reference meets its checks in their order. -/
theorem accessRules : Obligations.AccessRules := by
  unfold Obligations.AccessRules
  refine ⟨fun s w a n pos => ⟨State.access_singleton_iff pos, State.access_of_below pos, State.access_of_above pos, fun m _ =>
      ⟨⟨fun passes => ?_, aligned_of_mod⟩, aligned_of_not_mod⟩⟩,
    fun s w c n align f r wr off v _ => ⟨fun unbound => State.refcheck_of_unbound unbound _, fun bound =>
      ⟨State.refcheck_of_other_fmt bound, State.refcheck_of_other_width bound, fun same lacks => ?_,
        fun same reads writes whole low => ⟨fun inside => ?_, fun past => ?_⟩, fun same reads writes whole below => ?_⟩⟩⟩
  · by_contra off
    rw [aligned_of_not_mod off] at passes
    cases passes
  · refine State.refcheck_of_no_right bound same fun may => ?_
    obtain ⟨reads, writes⟩ := may
    rcases lacks with ⟨read, no⟩ | ⟨write, no⟩
    · simp [reads read] at no
    · simp [writes write] at no
  all_goals rw [State.refcheck_of_permits bound same ⟨reads, writes⟩ whole]
  · rw [if_neg (by omega), if_neg (by omega)]
  · rw [if_neg (by omega), if_pos past]
  · rw [if_pos below]

end Sys2Proof.Machine
end

section
/-! What a load from a core's store brings, and the loads of scalars, vectors and tiles. -/
namespace Sys2Proof.Machine

section Bytes
variable {s : State} {w : Who} {g : Gang} {a n : Nat}

theorem wordsHit_nil (a n : Nat) : wordsHit [] a n = [] := rfl

/-- A read for use meets no poison and no injection. -/
structure State.ReadsClean (s : State) (w : Who) (g : Gang) : Prop where
  gang : s.gangOf w = some g
  quiet : g.injects = []
  sound : (s.core w.core).poison = []

theorem State.readBytes_of_clean (clean : s.ReadsClean w g) (a n : Nat) :
    s.readBytes w a n = .ok ((s.core w.core).store.readN a n) := by
  obtain ⟨gang, quiet, sound⟩ := clean
  simp [State.readBytes, Core.poisoned, wordsHit, sound, gang, Gang.readInject, quiet]

theorem Core.twinPoison_eq_nil {k : Core} (sound : ∀ t, k.twin = some t → t.poison = []) : k.twinPoison = [] := by
  unfold Core.twinPoison
  cases twin : k.twin with
  | none => rfl
  | some t => exact sound t twin

theorem State.bankBytes_of_clean (clean : s.ReadsClean w g) (sound : ∀ t, (s.core w.core).twin = some t → t.poison = [])
    (a n : Nat) : s.bankBytes w a n = .ok ((s.core w.core).store.readN a n) := by
  simp only [State.bankBytes, State.readBytes_of_clean clean, Core.twinPoison_eq_nil sound, wordsHit_nil]

/-- The cores of a pair hold unlike bytes in a range of their stores (R473). -/
def Core.Unlike (k : Core) (a n : Nat) : Prop := ∃ t, k.twin = some t ∧ ∃ e ∈ t.bytes, a ≤ e.1 ∧ e.1 < a + n

theorem Core.unlike_iff {k : Core} : k.Unlike a n ↔
    (k.twin.any fun t => t.bytes.any fun e => decide (a ≤ e.1) && decide (e.1 < a + n)) = true := by
  cases twin : k.twin <;> simp [Core.Unlike, twin]

theorem State.loadBytes_of_alike (clean : s.ReadsClean w g) (sound : ∀ t, (s.core w.core).twin = some t → t.poison = [])
    (alike : ¬ (s.core w.core).Unlike a n) : s.loadBytes w a n = .ok ((s.core w.core).store.readN a n) := by
  rw [Core.unlike_iff] at alike
  simp only [State.loadBytes, State.bankBytes_of_clean clean sound, if_neg alike]

theorem State.loadBytes_of_unlike (clean : s.ReadsClean w g) (sound : ∀ t, (s.core w.core).twin = some t → t.poison = [])
    (unlike : (s.core w.core).Unlike a n) : s.loadBytes w a n = .error (.check .lockstep none 0) := by
  rw [Core.unlike_iff] at unlike
  simp only [State.loadBytes, State.bankBytes_of_clean clean sound, if_pos unlike]

end Bytes

section Values

/-- A code of a width as a signed integer is the bit vector's. -/
theorem toSigned_eq_toInt {w : Nat} (pos : 0 < w) (n : Nat) : toSigned w n = (BitVec.ofNat w n).toInt := by
  have half : 2 ^ w = 2 * 2 ^ (w - 1) := by rw [← pow_succ', Nat.sub_add_cancel pos]
  rw [BitVec.toInt_eq_toNat_cond, BitVec.toNat_ofNat, toSigned]
  exact ite_congr (propext (by omega)) (fun _ => rfl) fun _ => rfl

theorem ofInt_eq_toNat (w : Nat) (v : Int) : ofInt w v = (BitVec.ofInt w v).toNat := (BitVec.toNat_ofInt ..).symm

/-- Sign extension of a byte or a half word (R244). -/
theorem ofNat_ofInt_toSigned {w : Nat} (pos : 0 < w) (n : Nat) :
    BitVec.ofNat 32 (ofInt 32 (toSigned w n)) = (BitVec.ofNat w n).signExtend 32 := by
  rw [ofInt_eq_toNat, BitVec.ofNat_toNat, BitVec.setWidth_eq, toSigned_eq_toInt pos]
  rfl

/-- The loads that extend the sign (R244); every other one writes what it reads. -/
theorem ThreadSet.putLd_sb8 (t : ThreadSet) (d : SReg) (bs : List Byte) :
    t.putLd .sb8 d bs = t.putS d ((BitVec.ofNat 8 (leNat bs)).signExtend 32) :=
  congrArg (t.putS d) (ofNat_ofInt_toSigned (by decide) _)

theorem ThreadSet.putLd_sb16 (t : ThreadSet) (d : SReg) (bs : List Byte) :
    t.putLd .sb16 d bs = t.putS d ((BitVec.ofNat 16 (leNat bs)).signExtend 32) :=
  congrArg (t.putS d) (ofNat_ofInt_toSigned (by decide) _)

theorem vecOfImage_eq (fmt : Fmt) (bs : List Byte) :
    vecOfImage fmt bs = if fmt = .t6 then ofLanes 256 8 (unpackT6 32 bs) else ofBytes 256 bs := by
  cases fmt <;> rfl

end Values

/-- The thread set that executes, and its core, under their names. -/
theorem State.ts_who (s : State) : s.ts s.who = s.me := rfl
theorem State.core_who (s : State) : s.core s.who.core = s.here := rfl

section Scalars
variable {s : State} {h : Hdr} {w : LdWidth} {d : SReg} {a : SPair} {imm : Imm} {x : DWord} {bs : List Byte}

theorem exec_ld_of_loads (on : s.on h) (base : s.me.readP a = .ok x) (free : s.me.freeLd w d = .ok ())
    (whole : ea x imm 0 % w.bytes = 0) (access : s.access s.who [(ea x imm 0, w.bytes)] = .ok ())
    (loaded : s.loadBytes s.who (ea x imm 0).toNat w.bytes = .ok bs) :
    exec (.ld h w d a imm) s = s.becomes ((s.me.killP h.dmA a).putLd w d bs) := by
  show execLd h w d a imm s = _
  exact State.run_on on (by
    simp only [State.ts_who, base, free, aligned_of_mod whole, access, loaded, bind, Except.bind]
    rfl)

theorem exec_ld_of_misaligned (on : s.on h) (base : s.me.readP a = .ok x) (free : s.me.freeLd w d = .ok ())
    (off : ea x imm 0 % w.bytes ≠ 0) : exec (.ld h w d a imm) s = s.traps .prot (BitVec.ofInt 32 (ea x imm 0)) := by
  show execLd h w d a imm s = _
  exact State.run_stops on (by simp only [State.ts_who, base, free, aligned_of_not_mod off, bind, Except.bind]; rfl)

theorem exec_ld_of_refused {e : Stop} (on : s.on h) (base : s.me.readP a = .ok x) (free : s.me.freeLd w d = .ok ())
    (whole : ea x imm 0 % w.bytes = 0) (refused : s.access s.who [(ea x imm 0, w.bytes)] = .error e) :
    exec (.ld h w d a imm) s = .next (s.stopped e) := by
  show execLd h w d a imm s = _
  exact State.run_stops on (by simp only [State.ts_who, base, free, aligned_of_mod whole, refused, bind, Except.bind])

end Scalars

/-- A list of places of one length is aligned and may be accessed (R240, R241). -/
structure State.Covers (s : State) (align len : Nat) (ps : List Int) : Prop where
  aligned : aligned align ps = .ok ()
  access : s.access s.who (ps.map fun p => (p, len)) = .ok ()

section Vectors
variable {s : State} {h : Hdr} {fmt : Fmt} {d : VReg} {a : SPair} {imm : Imm} {x : DWord}

theorem exec_ldv_of_loads {bs : List Byte} (on : s.on h) (base : s.me.readP a = .ok x) (free : s.me.freeV d = .ok ())
    (may : s.Covers 8 (if fmt = .t6 then 24 else 32) [ea x imm 0])
    (loaded : s.loadBytes s.who (ea x imm 0).toNat (if fmt = .t6 then 24 else 32) = .ok bs) :
    exec (.ldv h fmt d a imm) s = s.becomes ((s.me.killP h.dmA a).putV d (vecOfImage fmt bs) fmt) := by
  obtain ⟨aligns, access⟩ := may
  rw [List.map_singleton] at access
  show execLdv h fmt d a imm s = _
  exact State.run_on on (by simp only [State.ts_who, base, free, aligns, access, loaded, bind, Except.bind]; rfl)

variable {ls : List (List Byte)}

theorem exec_ldvs_of_loads {b : SReg} {st : Word} (on : s.on h) (base : s.me.readP a = .ok x) (stride : s.me.readS b = .ok st)
    (free : s.me.freeV d = .ok ()) (may : s.Covers (fmt.width / 8) (fmt.width / 8) (strideAddrs x imm st (32 / (fmt.width / 8))))
    (loaded : s.loadAll s.who ((strideAddrs x imm st (32 / (fmt.width / 8))).map fun p => (p, fmt.width / 8)) = .ok ls) :
    exec (.ldvs h fmt d a b imm) s =
      s.becomes (((s.me.killP h.dmA a).killS h.dmB b).putV d (ofBytes 256 ls.flatten) fmt) := by
  obtain ⟨aligns, access⟩ := may
  show execLdvs h fmt d a b imm s = _
  exact State.run_on on (by simp only [State.ts_who, base, stride, free, aligns, access, loaded, bind, Except.bind]; rfl)

theorem exec_ldvx_of_loads {b : VReg} {k : Fin 8} {ix : VWord} (on : s.on h) (base : s.me.readP a = .ok x)
    (index : s.me.readV b (some .s32) = .ok ix) (free : s.me.freeV d = .ok ())
    (may : s.Covers (fmt.width / 8) (fmt.width / 8) (indexAddrs x imm ix k.val (32 / (fmt.width / 8))))
    (loaded : s.loadAll s.who ((indexAddrs x imm ix k.val (32 / (fmt.width / 8))).map fun p => (p, fmt.width / 8)) = .ok ls) :
    exec (.ldvx h fmt k d a b imm) s =
      s.becomes (((s.me.killP h.dmA a).killV h.dmB b).putV d (ofBytes 256 ls.flatten) fmt) := by
  obtain ⟨aligns, access⟩ := may
  show execLdvx h fmt k d a b imm s = _
  exact State.run_on on (by simp only [State.ts_who, base, index, free, aligns, access, loaded, bind, Except.bind]; rfl)

/-- The bytes of a row of a tile in memory (R248). -/
def rowBytes (fmt : Fmt) : Nat := if fmt = .t6 then 48 else 64

/-- A tile register with rows brought in from one on, and their tag (R248). -/
def Tile.withRows (t : Tile) (fmt : Fmt) (first : Nat) (ls : List (List Byte)) : Tile :=
  { ls.zipIdx.foldl (fun (u : Tile) e => u.setRow (first + e.2) (rowOfImage fmt e.1)) t with tag := fmt }

theorem exec_ldt_of_loads {m : MReg} {b : SReg} {rows : TileRows} {st : Word} (on : s.on h) (base : s.me.readP a = .ok x)
    (pitch : s.me.readS b = .ok st) (free : s.here.tileFree m = .ok ()) (whole : st.toNat % 8 = 0)
    (may : s.Covers 8 (rowBytes fmt) (rowAddrs x imm st (rows.cnt.val + 1)))
    (loaded : s.loadAll s.who ((rowAddrs x imm st (rows.cnt.val + 1)).map fun p => (p, rowBytes fmt)) = .ok ls) :
    exec (.ldt h fmt m a b imm rows) s = ((s.modShared s.who.core fun q => { q with
      tiles := q.tiles.set m (q.tiles[m].withRows fmt rows.row.val ls) }).modTs s.who fun t =>
        (t.killP h.dmA a).killS h.dmB b).done := by
  obtain ⟨aligns, access⟩ := may
  unfold rowBytes at access loaded
  show execLdt h fmt m a b imm rows s = _
  exact State.run_on on (by
    simp only [State.ts_who, State.core_who, base, pitch, free, pitchOk_of_mod whole, aligns, access, loaded, State.modShared_who,
      bind, Except.bind]
    rfl)

end Vectors

/-- Settles O13: each load passes the checks that its hypotheses name; what it brings are the bytes of the store, unless the other
core of a pair holds other ones. -/
theorem loads : Obligations.Loads := by
  unfold Obligations.Loads
  refine ⟨fun s h w d a imm x on base free => ⟨fun bs whole access loaded => ?_, exec_ld_of_misaligned on base free,
      fun e => exec_ld_of_refused on base free⟩,
    fun s w a n g gang quiet sound twin => ?_,
    fun s h fmt d a b bv m k imm rows x st ix on base stride index free => ⟨fun bs may loaded => ?_, fun ls may loaded => ?_,
      fun ls may loaded => ?_, fun ls free whole may loaded => ?_⟩⟩
  · rw [exec_ld_of_loads on base free whole access loaded]
    cases w with
    | sb8 => rw [ThreadSet.putLd_sb8]
    | sb16 => rw [ThreadSet.putLd_sb16]
    | b8 | b16 | b32 | b64 => rfl
  · have clean : s.ReadsClean w g := ⟨gang, quiet, sound⟩
    exact ⟨State.loadBytes_of_alike clean twin, State.loadBytes_of_unlike clean twin⟩
  · rw [exec_ldv_of_loads on base free ⟨may.1, may.2⟩ loaded, vecOfImage_eq]
  · exact exec_ldvs_of_loads on base stride free ⟨may.1, may.2⟩ loaded
  · exact exec_ldvx_of_loads on base index free ⟨may.1, may.2⟩ loaded
  · exact exec_ldt_of_loads on base stride free whole ⟨may.1, may.2⟩ loaded

end Sys2Proof.Machine
end

section
/-! Stores of scalars, vectors and tiles to a core's store. -/
namespace Sys2Proof.Machine

section Images

theorem length_vecImage (t6 : Bool) (v : VWord) : (vecImage t6 v).length = if t6 then 24 else 32 := by
  cases t6 with
  | true => exact (length_leBytes ..).trans (by simp [lanesOf])
  | false => exact length_leBytes ..

/-- The bytes that a store of a scalar takes, by its width (R244). -/
theorem ThreadSet.readSt_of_readS {t : ThreadSet} {w : StWidth} {b : SReg} {y : Word} (single : w ≠ .b64)
    (source : t.readS b = .ok y) : t.readSt w b = .ok (leBytes w.bytes y.toNat) := by
  cases w with
  | b64 => exact absurd rfl single
  | b8 | b16 | b32 => simp only [ThreadSet.readSt, source, bind, Except.bind]

theorem ThreadSet.readSt_of_readP {t : ThreadSet} {b : SReg} {y : DWord} (source : t.readP (SReg.pair b) = .ok y) :
    t.readSt .b64 b = .ok (leBytes 8 y.toNat) := by
  simp only [ThreadSet.readSt, source, bind, Except.bind]

theorem ThreadSet.killSt_of_ne {w : StWidth} (single : w ≠ .b64) (t : ThreadSet) (mark : Bool) (b : SReg) :
    t.killSt mark w b = t.killS mark b := by
  cases w with
  | b64 => exact absurd rfl single
  | b8 | b16 | b32 => rfl

end Images

section Stores
variable {s : State} {h : Hdr} {a : SPair} {imm : Imm} {x : DWord}

theorem exec_st_of_covers {w : StWidth} {b : SReg} {bs : List Byte} (on : s.on h) (base : s.me.readP a = .ok x)
    (source : s.me.readSt w b = .ok bs) (may : s.Covers w.bytes w.bytes [ea x imm 0]) :
    exec (.st h w b a imm) s = ((s.storeBytes s.who (ea x imm 0).toNat bs).modTs s.who fun t =>
      (t.killP h.dmA a).killSt h.dmB w b).done := by
  obtain ⟨aligns, access⟩ := may
  rw [List.map_singleton] at access
  show execSt h w b a imm s = _
  exact State.run_on on (by simp only [State.ts_who, base, source, aligns, access, bind, Except.bind])

theorem exec_stv_of_covers {t6 : Bool} {b : VReg} {v : VWord} (on : s.on h) (base : s.me.readP a = .ok x)
    (source : s.me.readV b (if t6 then some .t6 else none) = .ok v)
    (may : s.Covers 8 (if t6 then 24 else 32) [ea x imm 0]) :
    exec (.stv h t6 b a imm) s = ((s.storeBytes s.who (ea x imm 0).toNat (vecImage t6 v)).modTs s.who fun t =>
      (t.killP h.dmA a).killV h.dmB b).done := by
  obtain ⟨aligns, access⟩ := may
  rw [List.map_singleton, ← length_vecImage t6 v] at access
  show execStv h t6 b a imm s = _
  exact State.run_on on (by simp only [State.ts_who, base, source, aligns, access, bind, Except.bind])

theorem exec_stvs_of_covers {fmt : Fmt} {b : VReg} {c : SReg} {v : VWord} {st : Word} (on : s.on h)
    (base : s.me.readP a = .ok x) (source : s.me.readV b none = .ok v) (stride : s.me.readS c = .ok st)
    (may : s.Covers (fmt.width / 8) (fmt.width / 8) (strideAddrs x imm st (32 / (fmt.width / 8)))) :
    exec (.stvs h fmt b a c imm) s = ((s.storeAll s.who
      (laneBytes v (fmt.width / 8) (strideAddrs x imm st (32 / (fmt.width / 8))))).modTs s.who fun t =>
        ((t.killP h.dmA a).killV h.dmB b).killS h.dmC c).done := by
  obtain ⟨aligns, access⟩ := may
  show execStvs h fmt b a c imm s = _
  exact State.run_on on (by simp only [State.ts_who, base, source, stride, aligns, access, bind, Except.bind])

theorem exec_stvx_of_covers {fmt : Fmt} {k : Fin 8} {b c : VReg} {v ix : VWord} (on : s.on h)
    (base : s.me.readP a = .ok x) (source : s.me.readV b none = .ok v) (index : s.me.readV c (some .s32) = .ok ix)
    (may : s.Covers (fmt.width / 8) (fmt.width / 8) (indexAddrs x imm ix k.val (32 / (fmt.width / 8)))) :
    exec (.stvx h fmt k b a c imm) s = ((s.storeAll s.who
      (laneBytes v (fmt.width / 8) (indexAddrs x imm ix k.val (32 / (fmt.width / 8))))).modTs s.who fun t =>
        ((t.killP h.dmA a).killV h.dmB b).killV h.dmC c).done := by
  obtain ⟨aligns, access⟩ := may
  show execStvx h fmt k b a c imm s = _
  exact State.run_on on (by simp only [State.ts_who, base, source, index, aligns, access, bind, Except.bind])

/-- The rows of a tile that a store writes, each with its address (R248). -/
def Tile.rowImages (u : Tile) (t6 : Bool) (first : Nat) (ps : List Int) : List (Int × List Byte) :=
  ps.zipIdx.map fun e => (e.1, rowImage t6 (u.row (first + e.2)))

theorem exec_stt_of_access {t6 : Bool} {m : MReg} {c : SReg} {rows : TileRows} {st : Word} {u : Tile}
    {xs : List (Int × List Byte)} (images : xs = u.rowImages t6 rows.row.val (rowAddrs x imm st (rows.cnt.val + 1))) (on : s.on h)
    (base : s.me.readP a = .ok x) (source : s.here.readTile m (if t6 then some .t6 else none) = .ok u)
    (pitch : s.me.readS c = .ok st) (whole : st.toNat % 8 = 0)
    (aligns : aligned 8 (rowAddrs x imm st (rows.cnt.val + 1)) = .ok ())
    (access : s.access s.who (xs.map fun e => (e.1, e.2.length)) = .ok ()) :
    exec (.stt h t6 m a c imm rows) s =
      ((s.storeAll s.who xs).modTs s.who fun t => (t.killP h.dmA a).killS h.dmC c).done := by
  subst images
  unfold Tile.rowImages at access
  show execStt h t6 m a c imm rows s = _
  exact State.run_on on (by
    simp only [State.ts_who, State.core_who, base, source, pitch, pitchOk_of_mod whole, aligns, access, bind, Except.bind]
    rfl)

end Stores

/-- Settles O14: each store passes the checks that its hypotheses name; what it writes are the bytes of its source, lane by lane
or row by row. -/
theorem stores : Obligations.Stores := by
  unfold Obligations.Stores
  intro s h w fmt t6 b c bv cv m k a imm rows x st v ix u on base stride source index one n strided indexed tiled image ok
  have covers {align len : Nat} {ps : List Int} (may : ok align len ps) : s.Covers align len ps := ⟨may.1, may.2⟩
  refine ⟨fun y single scalar may => ?_,
    fun y pair may => exec_st_of_covers on base (ThreadSet.readSt_of_readP pair) (covers may),
    fun may => exec_stv_of_covers (t6 := false) on base source (covers may),
    fun packed may => exec_stv_of_covers (t6 := true) on base packed (covers may),
    fun may => exec_stvs_of_covers on base source stride (covers may),
    fun may => exec_stvx_of_covers on base source index (covers may),
    fun tile whole aligns access => exec_stt_of_access rfl on base tile stride whole aligns access⟩
  rw [exec_st_of_covers on base (ThreadSet.readSt_of_readS single scalar) (covers may)]
  simp only [ThreadSet.killSt_of_ne single]
  rfl

end Sys2Proof.Machine
end

section
/-! LAMO, LFENCE, and the operations of the bank units. -/
namespace Sys2Proof.Machine

section Writing

theorem leBytes_mod (n v : Nat) : leBytes n (v % 256 ^ n) = leBytes n v := by
  induction n generalizing v with
  | zero => rfl
  | succ n ih =>
    have low : BitVec.ofNat 8 (v % 256 ^ (n + 1)) = BitVec.ofNat 8 v := by
      apply BitVec.eq_of_toNat_eq
      rw [BitVec.toNat_ofNat, BitVec.toNat_ofNat, pow_succ']
      exact Nat.mod_mul_right_mod ..
    have rest : v % 256 ^ (n + 1) / 256 = v / 256 % 256 ^ n := by
      rw [pow_succ']
      exact Nat.mod_mul_right_div_self ..
    rw [leBytes, leBytes, low, rest, ih]

theorem Elem.two_pow_width (el : Elem) : 2 ^ el.width = 256 ^ (el.width / 8) := by cases el <;> rfl

theorem bankResult_write (el : Elem) (old new : Nat) : bankResult .write el old new = new % 2 ^ el.width := by
  unfold bankResult
  cases el.ieee <;> rfl

/-- A WRITE stores its operand, whatever stood there (R63). -/
theorem leBytes_bankResult_write (el : Elem) (old new : Nat) :
    leBytes (el.width / 8) (bankResult .write el old new) = leBytes (el.width / 8) new := by
  rw [bankResult_write, Elem.two_pow_width, leBytes_mod]

end Writing

theorem State.modTs_modTs (s : State) (w : Who) (f g : ThreadSet → ThreadSet) :
    (s.modTs w f).modTs w g = s.modTs w fun t => g (f t) := by
  simp only [State.modTs_eq, State.ts_setTs_same, State.setTs_setTs]

section Atomics
variable {s : State} {h : Hdr} {op : BankOp} {el : Elem} {a : SPair} {b : SReg} {imm : Imm} {x y : DWord} {old : List Byte}

/-- LAMO reads its address and its operand, and its element is aligned and may be accessed (R251). -/
structure State.LamoReady (s : State) (el : Elem) (a : SPair) (b : SReg) (imm : Imm) (x y : DWord) : Prop where
  base : s.me.readP a = .ok x
  operand : s.me.readElem el b = .ok y
  whole : ea x imm 0 % (el.width / 8 : Nat) = 0
  access : s.access s.who [(ea x imm 0, el.width / 8)] = .ok ()

/-- What a bank unit makes of the bytes of an element (R63). -/
def combinedBytes (op : BankOp) (el : Elem) (y : DWord) (old : List Byte) : List Byte :=
  leBytes (el.width / 8) (bankResult op el (leNat old) y.toNat)

/-- Bytes are stored, and the shadow core of a pair combines what it holds itself (R473). -/
def State.stored (s : State) (op : BankOp) (el : Elem) (y : DWord) (p : Nat) (bs : List Byte) : State :=
  (s.storeBytes s.who p bs).modCore s.who.core fun k => k.putTwin p (combinedBytes op el y (s.here.twinBytes p (el.width / 8)))

theorem combinedBytes_write (el : Elem) (y : DWord) (old : List Byte) :
    combinedBytes .write el y old = leBytes (el.width / 8) y.toNat :=
  leBytes_bankResult_write el _ _

theorem exec_lamo_write (on : s.on h) (ready : s.LamoReady el a b imm x y) : exec (.lamo h .write el none a b imm) s =
    ((s.stored .write el y (ea x imm 0).toNat (leBytes (el.width / 8) y.toNat)).modTs s.who fun t =>
      (t.killP h.dmA a).killElem h.dmB el b).done := by
  obtain ⟨base, operand, whole, access⟩ := ready
  rw [← combinedBytes_write el y (List.replicate (el.width / 8) 0)]
  show execLamo h .write el none a b imm s = _
  exact State.run_on on (by
    simp only [State.ts_who, base, operand, aligned_of_mod whole, access, Option.isSome_none, Bool.false_eq_true, if_false,
      if_true, State.modCore_who, State.storeBytes_who, bind, Except.bind]
    rfl)

theorem exec_lamo_of_bank (on : s.on h) (ready : s.LamoReady el a b imm x y)
    (read : s.bankBytes s.who (ea x imm 0).toNat (el.width / 8) = .ok old) : exec (.lamo h op el none a b imm) s =
      ((s.stored op el y (ea x imm 0).toNat (combinedBytes op el y old)).modTs s.who fun t =>
        (t.killP h.dmA a).killElem h.dmB el b).done := by
  by_cases write : op = .write
  · subst write
    rw [exec_lamo_write on ready, combinedBytes_write]
  · obtain ⟨base, operand, whole, access⟩ := ready
    show execLamo h op el none a b imm s = _
    exact State.run_on on (by
      simp only [State.ts_who, base, operand, aligned_of_mod whole, access, if_neg write, read, Option.isSome_none,
        Bool.false_eq_true, if_false, State.modCore_who, State.storeBytes_who, bind, Except.bind]
      rfl)

theorem exec_lamo_of_load {d : SReg} (on : s.on h) (ready : s.LamoReady el a b imm x y)
    (read : s.loadBytes s.who (ea x imm 0).toNat (el.width / 8) = .ok old) (free : s.me.freeElem el d = .ok ()) :
    exec (.lamo h op el (some d) a b imm) s =
      (((s.stored op el y (ea x imm 0).toNat (combinedBytes op el y old)).modTs s.who fun t =>
        (t.killP h.dmA a).killElem h.dmB el b).modTs s.who fun t => t.putElem el d (leNat old)).done := by
  obtain ⟨base, operand, whole, access⟩ := ready
  rw [State.modTs_modTs]
  show execLamo h op el (some d) a b imm s = _
  exact State.run_on on (by
    simp only [State.ts_who, base, operand, free, aligned_of_mod whole, access, read, Option.isSome_some, if_true,
      State.modCore_who, State.storeBytes_who, bind, Except.bind]
    rfl)

theorem exec_lfence (on : s.on h) : exec (.lfence h) s = s.becomes s.me :=
  show execLfence h s = _ from State.runT_on on rfl

end Atomics

section Words
variable (x y : Word)

theorem elemInt_z32 : elemInt .z32 x.toNat = x.toNat := congrArg Nat.cast (Nat.mod_eq_of_lt x.isLt)

theorem elemInt_s32 : elemInt .s32 x.toNat = x.toInt :=
  (toSigned_eq_toInt (w := 32) (by decide) _).trans (by rw [BitVec.ofNat_toNat, BitVec.setWidth_eq])

theorem bankResult_write_z32 : bankResult .write .z32 x.toNat y.toNat = y.toNat := Nat.mod_eq_of_lt y.isLt

theorem bankResult_add_z32 : bankResult .add .z32 x.toNat y.toNat = (x + y).toNat := (BitVec.toNat_add x y).symm

/-- The element that a bank unit takes where it compares the new one with the old one. -/
theorem mod_ite_eq (p : Prop) [Decidable p] :
    (if p then y.toNat % 2 ^ 32 else x.toNat % 2 ^ 32) = (if p then y else x).toNat := by
  rw [Nat.mod_eq_of_lt x.isLt, Nat.mod_eq_of_lt y.isLt, apply_ite BitVec.toNat]

theorem bankResult_min_z32 : bankResult .min .z32 x.toNat y.toNat = min x.toNat y.toNat := by
  have choice : bankResult .min .z32 x.toNat y.toNat = (if (y.toNat : Int) < x.toNat then y else x).toNat := by
    rw [← mod_ite_eq, ← elemInt_z32, ← elemInt_z32]
    rfl
  rw [choice]
  split <;> omega

theorem bankResult_max_z32 : bankResult .max .z32 x.toNat y.toNat = max x.toNat y.toNat := by
  have choice : bankResult .max .z32 x.toNat y.toNat = (if (x.toNat : Int) < y.toNat then y else x).toNat := by
    rw [← mod_ite_eq, ← elemInt_z32, ← elemInt_z32]
    rfl
  rw [choice]
  split <;> omega

theorem bankResult_min_s32 : bankResult .min .s32 x.toNat y.toNat = (if y.toInt < x.toInt then y else x).toNat := by
  rw [← mod_ite_eq, ← elemInt_s32, ← elemInt_s32]
  rfl

theorem bankResult_max_s32 : bankResult .max .s32 x.toNat y.toNat = (if x.toInt < y.toInt then y else x).toNat := by
  rw [← mod_ite_eq, ← elemInt_s32, ← elemInt_s32]
  rfl

/-- The operations on the bits of a word (R63). -/
theorem bankResult_bits : bankResult .and .z32 x.toNat y.toNat = (x &&& y).toNat ∧
    bankResult .or .z32 x.toNat y.toNat = (x ||| y).toNat ∧ bankResult .xor .z32 x.toNat y.toNat = (x ^^^ y).toNat := by
  have whole (v : Word) : v.toNat % 2 ^ 32 = v.toNat := Nat.mod_eq_of_lt v.isLt
  rw [BitVec.toNat_and, BitVec.toNat_or, BitVec.toNat_xor]
  exact ⟨congrArg₂ Nat.land (whole x) (whole y), congrArg₂ Nat.lor (whole x) (whole y),
    congrArg₂ Nat.xor (whole x) (whole y)⟩

theorem bankResult_adds_z32 : bankResult .adds .z32 x.toNat y.toNat = min (x.toNat + y.toNat) (2 ^ 32 - 1) := by
  have limited : bankResult .adds .z32 x.toNat y.toNat = ofInt 32 (clampInt ((x.toNat : Int) + y.toNat) 0 (2 ^ 32 - 1)).1 := by
    rw [← elemInt_z32, ← elemInt_z32]
    rfl
  rw [limited, ofInt, clampInt, if_neg (by omega)]
  split <;> omega

/-- Saturation of a signed element is that of a scalar sum (R63, R214). -/
theorem bankResult_adds_s32 : bankResult .adds .s32 x.toNat y.toNat = (fixS32 true (x.toInt + y.toInt)).1.toNat := by
  rw [← elemInt_s32, ← elemInt_s32]
  exact ofInt_eq_toNat ..

end Words

/-- Settles O15: LAMO stores what its bank unit makes of the element read, of which a WRITE needs none; on words each operation
is that of the bit vectors. -/
theorem localAtomics : Obligations.LocalAtomics := by
  unfold Obligations.LocalAtomics
  refine ⟨fun s h op el d b a imm x y old on base operand => ⟨fun whole access => ?_, exec_lfence on⟩, fun x y => ?_⟩
  · have ready : s.LamoReady el a b imm x y := ⟨base, operand, whole, access⟩
    exact ⟨exec_lamo_of_bank on ready, fun write => write ▸ exec_lamo_write on ready, exec_lamo_of_load on ready⟩
  · obtain ⟨and, or, xor⟩ := bankResult_bits x y
    refine ⟨bankResult_write_z32 x y, bankResult_add_z32 x y, bankResult_min_z32 x y, bankResult_max_z32 x y,
      bankResult_min_s32 x y, bankResult_max_s32 x y, and, or, xor, bankResult_adds_z32 x y, fun fits => ?_, fun overflows => ?_⟩
    · rw [bankResult_adds_s32, fixS32_true_add, if_neg (by simp [fits])]
    · rw [bankResult_adds_s32, fixS32_true_add, if_pos overflows]
      split <;> rfl

end Sys2Proof.Machine
end

section
/-! The lanes of a vector register: what a lane of a register made of codes reads, and what an integer result comes to. -/
namespace Sys2Proof.Machine

section Lanes

/-- A digit of the number that digits of w bits make, lowest first. -/
theorem digit_foldr (w : Nat) (ls : List Nat) (i : Nat) :
    ls.foldr (fun x acc => x % 2 ^ w + 2 ^ w * acc) 0 / 2 ^ (w * i) % 2 ^ w = ls.getD i 0 % 2 ^ w := by
  induction ls generalizing i with
  | nil => simp
  | cons x ls ih =>
    cases i with
    | zero => simp [Nat.add_mul_mod_self_left]
    | succ i =>
      have pos : 0 < 2 ^ w := Nat.two_pow_pos w
      rw [List.foldr_cons, Nat.mul_succ, Nat.add_comm (w * i), pow_add, ← Nat.div_div_eq_div_mul,
        Nat.add_mul_div_left _ _ pos, Nat.div_eq_of_lt (Nat.mod_lt _ pos), Nat.zero_add, ih]
      rfl

theorem laneAt_ofLanes {n w i : Nat} (ls : List Nat) (inside : w * i + w ≤ n) :
    laneAt (ofLanes n w ls) w i = ls.getD i 0 % 2 ^ w := by
  have split : 2 ^ n = 2 ^ (w * i) * 2 ^ (n - w * i) := by rw [← pow_add]; congr 1; omega
  rw [laneAt, ofLanes, BitVec.toNat_ofNat, split, Nat.mod_mul_right_div_self,
    Nat.mod_mod_of_dvd _ (Nat.pow_dvd_pow 2 (by omega)), digit_foldr]

theorem laneAt_lt {n : Nat} (v : BitVec n) (w i : Nat) : laneAt v w i < 2 ^ w := Nat.mod_lt _ (Nat.two_pow_pos w)

theorem Fmt.width_pos (f : Fmt) : 0 < f.width := by cases f <;> decide
theorem Fmt.width_mul_lanes (f : Fmt) : f.width * f.lanes = 256 := by cases f <;> rfl
theorem Fmt.lanes_even (f : Fmt) : f.lanes = 2 * (f.lanes / 2) := by cases f <;> rfl

/-- A lane of a register made of codes; of a T6 container the low six bits are kept (R81, R266). -/
theorem laneAt_vecOf {f : Fmt} (codes : List Nat) {i : Nat} (hi : i < f.lanes) :
    laneAt (vecOf f codes) f.width i = codes.getD i 0 % 2 ^ Fmt.elementBits f := by
  have inside : f.width * i + f.width ≤ 256 := by
    rw [← Nat.mul_succ, ← Fmt.width_mul_lanes f]
    exact Nat.mul_le_mul_left _ hi
  rw [vecOf, laneAt_ofLanes _ inside, Fmt.elementBits]
  split
  next t6 =>
    subst t6
    show (codes.map (· % 64)).getD i (0 % 64) % 256 = _
    rw [List.getD_map]
    omega
  · rfl

theorem getD_map_range {α : Type} {n i : Nat} (g : Nat → α) (e : α) (hi : i < n) :
    ((List.range n).map g).getD i e = g i := by
  simp [List.getD, hi]

theorem laneAt_vecOf_range {f : Fmt} (g : Nat → Nat) {i : Nat} (hi : i < f.lanes) :
    laneAt (vecOf f ((List.range f.lanes).map g)) f.width i = g i % 2 ^ Fmt.elementBits f := by
  rw [laneAt_vecOf _ hi, getD_map_range _ _ hi]

theorem getD_vecLanes {f : Fmt} (v : VWord) {i : Nat} (hi : i < f.lanes) : (vecLanes f v).getD i 0 = laneAt v f.width i :=
  getD_map_range _ _ hi

theorem length_vecLanes (f : Fmt) (v : VWord) : (vecLanes f v).length = f.lanes := by simp [vecLanes, lanesOf]

end Lanes

section Integers
variable (f : Fmt) (v : Int)

/-- An integer code reads as the bit vector of its format does (R75). -/
theorem intVal_ofInt : intVal f (ofInt f.width v) =
    if f.isSigned then (BitVec.ofInt f.width v).toInt else (BitVec.ofInt f.width v).toNat := by
  rw [intVal, toSigned_eq_toInt (Fmt.width_pos f), ofInt_eq_toNat, BitVec.ofNat_toNat, BitVec.setWidth_eq,
    Nat.mod_eq_of_lt (BitVec.isLt _)]

theorem intVal_ofInt_emod : intVal f (ofInt f.width v) % 2 ^ f.width = v % 2 ^ f.width := by
  rw [intVal_ofInt]
  split
  · rw [BitVec.toInt_ofInt]
    exact_mod_cast Int.bmod_emod
  · rw [BitVec.toNat_ofInt, Int.toNat_of_nonneg (Int.emod_nonneg _ (by positivity))]
    push_cast
    exact Int.emod_emod_of_dvd _ dvd_rfl

/-- An integer in the format's range reads back. -/
theorem intVal_ofInt_of_mem (low : intMin f.isSigned f.width ≤ v) (high : v ≤ intMax f.isSigned f.width) :
    intVal f (ofInt f.width v) = v := by
  rw [intVal_ofInt]
  unfold intMin at low
  unfold intMax at high
  split
  next signed =>
    simp only [signed, if_true] at low high
    exact BitVec.toInt_ofInt_eq_self (Fmt.width_pos f) low (by omega)
  next unsigned =>
    simp only [unsigned, Bool.false_eq_true, if_false] at low high
    rw [BitVec.toNat_ofInt, Int.toNat_of_nonneg (Int.emod_nonneg _ (by positivity))]
    exact Int.emod_eq_of_lt low (by push_cast; omega)

theorem intMin_le_intMax (signed : Bool) (w : Nat) : intMin signed w ≤ intMax signed w := by
  have half : (0 : Int) < 2 ^ (w - 1) := by positivity
  have whole : (0 : Int) < 2 ^ w := by positivity
  cases signed with
  | true =>
    show -(2 ^ (w - 1) : Int) ≤ 2 ^ (w - 1) - 1
    omega
  | false =>
    show (0 : Int) ≤ 2 ^ w - 1
    omega

theorem fixInt_true : fixInt f true v = (ofInt f.width (clampInt v (intMin f.isSigned f.width) (intMax f.isSigned f.width)).1,
    (clampInt v (intMin f.isSigned f.width) (intMax f.isSigned f.width)).2) := rfl

theorem fixInt_true_of_mem {f : Fmt} {v : Int} (low : intMin f.isSigned f.width ≤ v) (high : v ≤ intMax f.isSigned f.width) :
    intVal f (fixInt f true v).1 = v ∧ (fixInt f true v).2 = 0 := by
  rw [fixInt_true, clampInt, if_neg (by omega), if_neg (by omega)]
  exact ⟨intVal_ofInt_of_mem f v low high, rfl⟩

theorem fixInt_true_of_lt {f : Fmt} {v : Int} (below : v < intMin f.isSigned f.width) :
    intVal f (fixInt f true v).1 = intMin f.isSigned f.width ∧ (fixInt f true v).2 = fSAT := by
  rw [fixInt_true, clampInt, if_pos below]
  exact ⟨intVal_ofInt_of_mem f _ le_rfl (intMin_le_intMax _ _), rfl⟩

theorem fixInt_true_of_gt {f : Fmt} {v : Int} (above : intMax f.isSigned f.width < v) :
    intVal f (fixInt f true v).1 = intMax f.isSigned f.width ∧ (fixInt f true v).2 = fSAT := by
  have limits := intMin_le_intMax f.isSigned f.width
  rw [fixInt_true, clampInt, if_neg (by omega), if_pos above]
  exact ⟨intVal_ofInt_of_mem f _ limits le_rfl, rfl⟩

end Integers

end Sys2Proof.Machine
end

section
/-! How a vector instruction with its operands read and its destination free runs: each lane of its result from lanes of its
sources. -/
namespace Sys2Proof.Machine

section Results
variable {s : State} {t : ThreadSet} {fmt : Fmt} {d : VReg} {r : Result}

/-- A result given by its coded lanes. -/
theorem State.lanewise_of_coded {g : Nat → Coded} (ran : r = s.becomes ((t.putV d
    (vecOf fmt (((List.range fmt.lanes).map g).map (·.1))) fmt).flag (lanesFlags ((List.range fmt.lanes).map g)))) :
    s.lanewise r t fmt d g := by
  rw [List.map_map, lanesFlags, List.foldl_map] at ran
  exact ⟨_, ran, fun i hi => laneAt_vecOf_range _ hi⟩

/-- A result given by its lanes, which record no flag. -/
theorem State.lanewise_of_lanes {codes : List Nat} {f : Nat → Coded} (ran : r = s.becomes (t.putV d (vecOf fmt codes) fmt))
    (gives : ∀ i, i < fmt.lanes → f i = (codes.getD i 0, 0)) : s.lanewise r t fmt d f := by
  have unflagged : (List.range fmt.lanes).foldl (fun fl i => fl ||| (f i).2) 0 = 0 := by
    refine List.foldlRecOn _ (motive := fun fl : Word => fl = 0) _ rfl fun fl zero i hi => ?_
    simp [gives i (List.mem_range.mp hi), zero]
  exact ⟨vecOf fmt codes, by rw [unflagged, ThreadSet.flag_zero, ran], fun i hi => by rw [laneAt_vecOf _ hi, gives i hi]⟩

/-- Lanes that agree in the bits that are kept, and record no flag. -/
theorem State.lanewise_congr {g k : Nat → Nat} (result : s.lanewise r t fmt d fun i => (g i, 0))
    (agree : ∀ i, i < fmt.lanes → g i % 2 ^ Fmt.elementBits fmt = k i % 2 ^ Fmt.elementBits fmt) :
    s.lanewise r t fmt d fun i => (k i, 0) := by
  obtain ⟨v, ran, lanes⟩ := result
  exact ⟨v, ran, fun i hi => (lanes i hi).trans (agree i hi)⟩

end Results

section Shapes
variable {s : State} {h : Hdr} {fmt : Fmt} {d a b c : VReg} {x y z : VWord}

theorem lanewise_vec1 (on : s.on h) (reads : s.me.readV a (some fmt) = .ok x) (free : s.me.freeV d = .ok ())
    (f : ThreadSet → Nat → Coded) :
    s.lanewise (vec1 h fmt d a f s) (s.me.killV h.dmA a) fmt d fun i => f s.me (laneAt x fmt.width i) :=
  State.lanewise_of_coded (State.runT_on on (by
    simp only [reads, free, vecLanes, lanesOf, List.map_map, bind, Except.bind]
    rfl))

theorem lanewise_vec2 (on : s.on h) (has : s.me.hasV fmt d a b x y) (f : ThreadSet → Nat → Nat → Coded) :
    s.lanewise (vec2 h fmt d a b f s) ((s.me.killV h.dmA a).killV h.dmB b) fmt d fun i =>
      f s.me (laneAt x fmt.width i) (laneAt y fmt.width i) := by
  obtain ⟨readA, readB, free⟩ := has
  exact State.lanewise_of_coded (State.runT_on on (by
    simp only [readA, readB, free, vecLanes, lanesOf, List.zipWith_map, List.zipWith_self, bind, Except.bind]))

theorem lanewise_vec3 (on : s.on h) (has : s.me.hasV fmt d a b x y) (readC : s.me.readV c (some fmt) = .ok z)
    (f : ThreadSet → Nat → Nat → Nat → Coded) :
    s.lanewise (vec3 h fmt d a b c f s) (((s.me.killV h.dmA a).killV h.dmB b).killV h.dmC c) fmt d fun i =>
      f s.me (laneAt x fmt.width i) (laneAt y fmt.width i) (laneAt z fmt.width i) := by
  obtain ⟨readA, readB, free⟩ := has
  exact State.lanewise_of_coded (State.runT_on on (by
    simp only [readA, readB, readC, free, vecLanes, lanesOf, List.zip_map', List.zipWith_map, List.zipWith_self, bind,
      Except.bind]))

end Shapes

/-- Settles O20: each instruction is the shape of its sources with its lane operation, and an integer result is the exact one
wrapped or limited. -/
theorem vectorArithmetic : Obligations.VectorArithmetic := by
  unfold Obligations.VectorArithmetic
  refine ⟨fun s h fmt rm sat d a b c x y z on has readC => ?_, fun f v _ => ?_⟩
  · have two := lanewise_vec2 on has
    have one := lanewise_vec1 on has.1 has.2.2
    have three := lanewise_vec3 on has readC
    simp only [exec, execVadd, execVsub, execVmul, execVmin, execVmax, execVabs, execVneg, execVdiv, execVsqrt, execVfma,
      execVfms]
    exact ⟨two _, two _, two _, two _, two _, one _, one _, two _, one _, three _, three _⟩
  · exact ⟨intVal_ofInt_emod f v, rfl, fixInt_true_of_mem, fixInt_true_of_lt, fixInt_true_of_gt⟩

end Sys2Proof.Machine
end

section
/-! FP32 results that are exact, and VRSQ, VEXP2 and VLOG2. -/
namespace Sys2Proof.Machine

section Exactness

theorem bitLen_mul_two_pow {n : Nat} (pos : n ≠ 0) (j : Nat) : bitLen (n * 2 ^ j) = bitLen n + j := by
  obtain ⟨low, high⟩ := (Nat.log2_eq_iff pos).mp rfl
  have product : n * 2 ^ j ≠ 0 := Nat.mul_ne_zero pos (Nat.two_pow_pos j).ne'
  have log : (n * 2 ^ j).log2 = n.log2 + j := by
    refine (Nat.log2_eq_iff product).mpr ⟨?_, ?_⟩
    · rw [pow_add]
      exact Nat.mul_le_mul_right _ low
    · rw [Nat.add_right_comm, pow_add]
      exact Nat.mul_lt_mul_of_pos_right high (Nat.two_pow_pos j)
  rw [bitLen, bitLen, if_neg product, if_neg pos, log]
  omega

/-- A significand brought to 24 bits has its leading bit at the front. -/
theorem significand_bounds {n : Nat} (pos : n ≠ 0) (short : bitLen n ≤ 24) :
    2 ^ 23 ≤ n * 2 ^ (24 - bitLen n) ∧ n * 2 ^ (24 - bitLen n) < 2 ^ 24 := by
  have length : bitLen (n * 2 ^ (24 - bitLen n)) = 24 := by
    rw [bitLen_mul_two_pow pos]
    omega
  have product : n * 2 ^ (24 - bitLen n) ≠ 0 := Nat.mul_ne_zero pos (Nat.two_pow_pos _).ne'
  rw [bitLen, if_neg product] at length
  exact (Nat.log2_eq_iff product).mp (by omega)

/-- A value that is a multiple of the quantum is exact. -/
theorem roundQuantum_of_multiple (mode : RmCode) (neg : Bool) (n j : Nat) {e q : Int} (multiple : q ≤ e + j) :
    roundQuantum mode neg (n * 2 ^ j) e q = (n * 2 ^ (e + j - q).toNat, false) := by
  unfold roundQuantum
  split
  next above =>
    rw [Nat.mul_assoc, ← pow_add]
    congr 3
    omega
  next below =>
    have split : n * 2 ^ j = n * 2 ^ (e + j - q).toNat * 2 ^ (q - e).toNat := by
      rw [Nat.mul_assoc, ← pow_add]
      congr 2
      omega
    simp only [split, Nat.mul_div_cancel _ (Nat.two_pow_pos _), Nat.mul_mod_left, if_true]

/-- A value of at most 24 significant bits in the normal range of FP32, with biased exponent x, is exact (R85). -/
theorem rnd_fp32_of_short (mode : RmCode) (sat neg : Bool) {n x : Nat} (j : Nat) {e : Int} (pos : n ≠ 0)
    (short : bitLen n ≤ 24) (low : 1 ≤ x) (high : x ≤ 254) (exponent : e + j + bitLen n = x - 126) :
    rnd .fp32 mode sat (.fin neg (n * 2 ^ j) e) = (withSign neg 32 ((x - 1) * 2 ^ 23 + n * 2 ^ (24 - bitLen n)), 0) := by
  obtain ⟨-, below⟩ := significand_bounds pos short
  have quantum : max (e + (bitLen n + j : Nat) - (23 + 1 : Nat)) (2 - 2 ^ (8 - 1) - (23 : Nat)) = (x : Int) - 150 := by omega
  have shift : (e + j - ((x : Int) - 150)).toNat = 24 - bitLen n := by omega
  have place : ((x : Int) - 150 - (2 - 2 ^ (8 - 1) - (23 : Nat))).toNat = x - 1 := by omega
  have rounded : roundIeee 8 23 mode sat neg (n * 2 ^ j) e = ((x - 1) * 2 ^ 23 + n * 2 ^ (24 - bitLen n), 0) := by
    unfold roundIeee
    simp only [bitLen_mul_two_pow pos, quantum, roundQuantum_of_multiple mode neg n j (show (x : Int) - 150 ≤ e + j by omega),
      shift, place]
    rw [if_neg (by omega)]
    simp [inexact]
  show (if n * 2 ^ j = 0 then _ else _) = _
  rw [if_neg (Nat.mul_ne_zero pos (Nat.two_pow_pos j).ne'), rounded]

theorem codeVal_fp32 (code : Nat) : codeVal .fp32 code = ieeeVal 8 23 code := rfl

/-- What a normal code of FP32 reads, with biased exponent x and significand f (R76). -/
theorem codeVal_fp32_of_normal (neg : Bool) {x f : Nat} (low : 1 ≤ x) (high : x ≤ 254) (front : 2 ^ 23 ≤ f)
    (short : f < 2 ^ 24) :
    codeVal .fp32 (withSign neg 32 ((x - 1) * 2 ^ 23 + f)) = .fin neg f (x - 150) := by
  have sign : (withSign neg 32 ((x - 1) * 2 ^ 23 + f) / 2 ^ (8 + 23) % 2 == 1) = neg := by
    cases neg <;> simp [withSign] <;> omega
  have exponent : withSign neg 32 ((x - 1) * 2 ^ 23 + f) / 2 ^ 23 % 2 ^ 8 = x := by
    unfold withSign
    split <;> omega
  have fraction : withSign neg 32 ((x - 1) * 2 ^ 23 + f) % 2 ^ 23 = f - 2 ^ 23 := by
    unfold withSign
    split <;> omega
  rw [codeVal_fp32]
  unfold ieeeVal
  simp only [sign, exponent, fraction]
  rw [if_neg (by omega), if_neg (by omega)]
  exact congrArg₂ (Num.fin neg) (by omega) (by omega)

/-- The code of a power of two, exact in FP32. -/
theorem rnd_fp32_two_pow (mode : RmCode) (sat : Bool) (j : Nat) {e k : Int} (power : e + j = k) (low : -126 ≤ k)
    (high : k ≤ 127) :
    rnd .fp32 mode sat (.fin false (2 ^ j) e) = (((k + 127) * 2 ^ 23).toNat, 0) := by
  have one : bitLen 1 = 1 := rfl
  rw [← Nat.one_mul (2 ^ j), rnd_fp32_of_short mode sat false j (x := (k + 127).toNat) one_ne_zero (by omega) (by omega)
    (by omega) (by omega)]
  refine Prod.ext ?_ rfl
  show ((k + 127).toNat - 1) * 2 ^ 23 + 1 * 2 ^ 23 = _
  omega

theorem codeVal_fp32_two_pow {k : Int} (low : -126 ≤ k) (high : k ≤ 127) :
    codeVal .fp32 ((k + 127) * 2 ^ 23).toNat = .fin false (2 ^ 23) (k - 23) := by
  have code : ((k + 127) * 2 ^ 23).toNat = withSign false 32 (((k + 127).toNat - 1) * 2 ^ 23 + 2 ^ 23) := by
    simp only [withSign, Bool.false_eq_true, if_false]
    omega
  rw [code, codeVal_fp32_of_normal false (by omega) (by omega) le_rfl (by omega)]
  congr 1
  omega

/-- A nonzero integer of at most 24 bits is exact in FP32, and its code reads back. -/
theorem rnd_fp32_whole (mode : RmCode) (sat : Bool) {k : Int} (nonzero : k ≠ 0) (short : bitLen k.natAbs ≤ 24) : ∃ c,
    rnd .fp32 mode sat (Num.ofIntAt k 0) = (c, 0) ∧
      codeVal .fp32 c = .fin (k < 0) (k.natAbs * 2 ^ (24 - bitLen k.natAbs)) (bitLen k.natAbs - 24) := by
  have pos : k.natAbs ≠ 0 := Int.natAbs_ne_zero.mpr nonzero
  have length : 1 ≤ bitLen k.natAbs := by
    rw [bitLen, if_neg pos]
    omega
  obtain ⟨front, below⟩ := significand_bounds pos short
  have rounds := rnd_fp32_of_short mode sat (k < 0) (x := bitLen k.natAbs + 126) (e := 0) 0 pos short (by omega) (by omega)
    (by push_cast; omega)
  rw [Nat.pow_zero, Nat.mul_one] at rounds
  refine ⟨_, rounds, ?_⟩
  rw [codeVal_fp32_of_normal _ (by omega) (by omega) front below]
  exact congrArg _ (by push_cast; omega)

end Exactness

section Functions
variable {op a c : Nat} {sat : Bool} {v x : Num} {fl : Word}

/-- A result that is representable is the rounded one, with the flags of the function (R274). -/
theorem fnFp32_of_exact (arg : codeVal .fp32 a = v) (value : fnNum op v = (x, fl)) (exact : rnd .fp32 .rne sat x = (c, 0)) :
    fnFp32 op sat a = (c, fl) := by
  simp [fnFp32, arg, value, exact]

/-- 2 to an integer is a power of two. -/
theorem exp2Mag_of_whole (neg : Bool) {n j : Nat} (pos : n ≠ 0) (small : bitLen n ≤ 12) (whole : 0 < j) :
    exp2Mag neg (n * 2 ^ j) (-j) = (1, if neg then -(n : Int) else n) := by
  have signed : (if neg then -((n * 2 ^ j : Nat) : Int) else (n * 2 ^ j : Nat)) =
      (if neg then -(n : Int) else n) * (2 ^ j : Nat) := by
    split <;> push_cast <;> ring
  have shift : (-(-(j : Int))).toNat = j := by omega
  have nonzero : ((2 ^ j : Nat) : Int) ≠ 0 := by positivity
  unfold exp2Mag
  rw [bitLen_mul_two_pow pos, if_neg (by omega), if_neg (by omega), if_neg (by omega)]
  simp only [shift, signed, Int.mul_emod_left, Int.mul_ediv_cancel _ nonzero, Int.toNat_zero, if_true]

theorem log2Num_two_pow (k : Int) : log2Num (2 ^ 23) (k - 23) = Num.ofIntAt k 0 := by
  have length : bitLen (2 ^ 23) = 24 := rfl
  unfold log2Num
  simp only [length, if_true]
  congr 1
  omega

/-- A reciprocal root whose square is exact, of a value with an odd exponent. -/
theorem rsqrtMag_of_square {m k r : Nat} {e : Int} (odd : e % 2 ≠ 0) (place : wideBits + bitLen (2 * m) = k)
    (root : isqrt (2 ^ (2 * k) / (2 * m)) = r) (square : r * r * (2 * m) = 2 ^ (2 * k)) :
    rsqrtMag m e = (r, -(k : Int) - (e - 1) / 2) := by
  unfold rsqrtMag
  simp only [if_neg odd, place, root, square, beq_self_eq_true, jam, if_true]

/-- The reciprocal root of 4^k, its significand 2^77. -/
theorem rsqrtMag_four_pow (k : Int) : rsqrtMag (2 ^ 23) (2 * k - 23) = (2 ^ 77, -77 - k) := by
  rw [rsqrtMag_of_square (k := 89) (r := 2 ^ 77) (by omega) rfl (by decide +kernel) (by decide +kernel)]
  congr 1
  omega

/-- VRSQ of 4^k is exact (R274). -/
theorem fnFp32_rsqrt_four_pow {k : Int} (low : -63 ≤ k) (high : k ≤ 63) :
    fnFp32 0 false ((2 * k + 127) * 2 ^ 23).toNat = (((127 - k) * 2 ^ 23).toNat, 0) := by
  have rounds := rnd_fp32_two_pow .rne false 77 (e := -77 - k) (k := -k) (by omega) (by omega) (by omega)
  rw [show -k + 127 = 127 - k by omega] at rounds
  refine fnFp32_of_exact (codeVal_fp32_two_pow (by omega) (by omega)) ?_ rounds
  simp only [fnNum, rsqrtMag_four_pow]
  rfl

theorem fnFp32_log2_two_pow {k : Int} (low : -126 ≤ k) (high : k ≤ 127)
    (exact : rnd .fp32 .rne false (Num.ofIntAt k 0) = (c, 0)) :
    fnFp32 2 false ((k + 127) * 2 ^ 23).toNat = (c, 0) := by
  refine fnFp32_of_exact (codeVal_fp32_two_pow low high) ?_ exact
  simp only [fnNum, log2Num_two_pow]
  rfl

theorem bitLen_le_of_lt {m b : Nat} (short : m < 2 ^ b) : bitLen m ≤ b := by
  unfold bitLen
  split
  · exact Nat.zero_le b
  next pos => exact (Nat.log2_lt pos).mpr short

/-- VEXP2 of an integer and VLOG2 of a power of two are exact (R274). -/
theorem fnFp32_functions_two_pow {k : Int} (low : -126 ≤ k) (high : k ≤ 127) :
    fnFp32 1 false (rnd .fp32 .rne false (Num.ofIntAt k 0)).1 = (((k + 127) * 2 ^ 23).toNat, 0) ∧
      fnFp32 2 false ((k + 127) * 2 ^ 23).toNat = ((rnd .fp32 .rne false (Num.ofIntAt k 0)).1, 0) := by
  by_cases zero : k = 0
  · subst zero
    exact ⟨fnFp32_of_exact rfl rfl rfl, fnFp32_log2_two_pow low high rfl⟩
  have pos : k.natAbs ≠ 0 := Int.natAbs_ne_zero.mpr zero
  have short : bitLen k.natAbs ≤ 7 := bitLen_le_of_lt (by omega)
  obtain ⟨c, exact, reads⟩ := rnd_fp32_whole .rne false zero (by omega)
  rw [exact]
  refine ⟨fnFp32_of_exact reads (x := .fin false (2 ^ 0) k) ?_ (rnd_fp32_two_pow .rne false 0 (by omega) low high),
    fnFp32_log2_two_pow low high exact⟩
  have product : k.natAbs * 2 ^ (24 - bitLen k.natAbs) ≠ 0 := Nat.mul_ne_zero pos (Nat.two_pow_pos _).ne'
  have shift : (bitLen k.natAbs : Int) - 24 = -((24 - bitLen k.natAbs : Nat) : Int) := by omega
  have signed : (if decide (k < 0) = true then -(k.natAbs : Int) else k.natAbs) = k := by
    simp only [decide_eq_true_eq]
    split <;> omega
  have power := exp2Mag_of_whole (k < 0) pos (j := 24 - bitLen k.natAbs) (by omega) (by omega)
  simp only [fnNum, product, if_false, shift, power, signed]
  rfl

end Functions

/-- A result that R274 leaves free: a place between the ends of the bound, whichever it is. -/
theorem fnFp32_of_inexact {op a : Nat} {sat : Bool} {arg x w : Num} {lo hi : Int} (ha : codeVal .fp32 a = arg)
    (hx : (fnNum op arg).1 = x) (hw : fnBound op arg x = w)
    (hlo : fp32Ord (rnd .fp32 .rup false (subNum .rne x w).1).1 = lo)
    (hhi : fp32Ord (rnd .fp32 .rdn false (addNum .rne x w).1).1 = hi)
    (inexact : (rnd .fp32 .rne sat x).2 &&& fINX ≠ 0) (fits : (rnd .fp32 .rne sat x).2 &&& fOFL = 0) :
    ∃ i : Nat, lo + i ≤ max lo hi ∧ fnFp32 op sat a =
      (fp32OfOrd (lo + i), fINX ||| (if fp32OfOrd (lo + i) % 2 ^ 31 < 2 ^ 23 then fUFL else 0)) := by
  have place : Config.approxPick op (BitVec.ofNat 32 a) % ((hi - lo).toNat + 1) < (hi - lo).toNat + 1 :=
    Nat.mod_lt _ (Nat.succ_pos _)
  refine ⟨Config.approxPick op (BitVec.ofNat 32 a) % ((hi - lo).toNat + 1), by omega, ?_⟩
  unfold fnFp32
  simp only [ha, hx, hw, hlo, hhi]
  exact if_neg (not_or.mpr ⟨inexact, not_not.mpr fits⟩)

/-- Settles O21: FP16 and BF16 lanes round the function; an FP32 lane is the rounded result where that is exact or overflows, else
within the bound; the special operands are evaluated, and in the exact cases the function's value has few significant bits. -/
theorem approximateFunctions : Obligations.ApproximateFunctions := by
  unfold Obligations.ApproximateFunctions
  refine ⟨fun s h fmt rm sat d a x on reads free => ?lanes, fun op a sat _ _ => ⟨fun exact => if_pos exact,
      fun inexact fits => fnFp32_of_inexact rfl rfl rfl rfl rfl inexact fits⟩,
    ?_, ?_, ?_, fun k low high => fnFp32_functions_two_pow low high, fun k low high => fnFp32_rsqrt_four_pow low high⟩
  case lanes =>
    have one := lanewise_vec1 on reads free
    simp only [exec, execVrsq, execVexp2, execVlog2]
    refine ⟨fun half => ?_, fun single => ?_⟩
    · rcases half with rfl | rfl <;> exact ⟨one _, one _, one _⟩
    · subst single
      exact ⟨one _, one _, one _⟩
  all_goals
    simp only [List.forall_mem_cons, List.not_mem_nil, false_imp_iff, implies_true, and_true]
    and_intros
    all_goals exact fnFp32_of_exact rfl rfl rfl

end Sys2Proof.Machine
end

section
/-! Comparison, selection, bitwise operations and shifts of lanes. -/
namespace Sys2Proof.Machine

section Selection
variable {s : State} {h : Hdr} {fmt : Fmt} {d a b : VReg} {x y u v : VWord}

/-- The mask that verdicts make, the first lowest (R276). -/
def verdictMask (rs : List (Bool × Word)) : Nat := rs.foldr (fun r acc => (if r.1 then 1 else 0) + 2 * acc) 0

theorem testBit_verdictMask (rs : List (Bool × Word)) (i : Nat) : (verdictMask rs).testBit i = (rs.getD i (false, 0)).1 := by
  induction rs generalizing i with
  | nil => simp [verdictMask]
  | cons r rs ih =>
    have step : verdictMask (r :: rs) = r.1.toNat + 2 * verdictMask rs := by cases hr : r.1 <;> simp [verdictMask, hr]
    cases i with
    | zero =>
      rw [Nat.testBit_zero, step, Nat.add_mul_mod_self_left, List.getD_cons_zero]
      cases r.1 <;> rfl
    | succ i =>
      have rest : (r.1.toNat + 2 * verdictMask rs) / 2 = verdictMask rs := by
        have := r.1.toNat_le
        omega
      rw [Nat.testBit_succ, step, rest, ih, List.getD_cons_succ]

/-- VCMP writes a bit for each lane, and records the flags of all (R276). -/
theorem exec_vcmp_of_reads {r : SReg} (c : FCond) (on : s.on h) (readA : s.me.readV a (some fmt) = .ok x)
    (readB : s.me.readV b (some fmt) = .ok y) (free : s.me.freeS r = .ok ()) :
    (let verdict (i : Nat) := fcondHolds c (codeVal fmt (laneAt x fmt.width i)) (codeVal fmt (laneAt y fmt.width i))
    let rs := (List.range fmt.lanes).map verdict
    exec (.vcmp h fmt c r a b) s = s.becomes ((((s.me.killV h.dmA a).killV h.dmB b).putS r
      (BitVec.ofNat 32 (verdictMask rs))).flag
        ((List.range fmt.lanes).foldl (fun fl i => fl ||| (verdict i).2) 0))) := by
  show execVcmp h fmt c r a b s = _
  exact State.runT_on on (by
    simp only [readA, readB, free, vecLanes, lanesOf, List.zipWith_map, List.zipWith_self, List.foldl_map, bind, Except.bind]
    rfl)

/-- The lanes that VSEL chooses (R277). -/
def selected (fmt : Fmt) (m : Word) (x y : VWord) : List Nat :=
  (List.range fmt.lanes).map fun i => if m.getLsbD i then laneAt x fmt.width i else laneAt y fmt.width i

theorem exec_vsel_of_reads {q : SReg} {m : Word} (on : s.on h) (has : s.me.hasV fmt d a b x y) (mask : s.me.readS q = .ok m) :
    exec (.vsel h fmt d a b q) s = s.becomes ((((s.me.killV h.dmA a).killV h.dmB b).killS h.dmC q).putV d
      (vecOf fmt (selected fmt m x y)) fmt) := by
  obtain ⟨readA, readB, free⟩ := has
  have choice : ((vecLanes fmt x).zip (vecLanes fmt y)).zipIdx.map (fun e => if m.getLsbD e.2 then e.1.1 else e.1.2) =
      selected fmt m x y :=
    List.ext_getElem (by simp [selected, vecLanes, lanesOf]) fun i _ _ => by simp [selected, vecLanes, lanesOf]
  show execVsel h fmt d a b q s = _
  exact State.runT_on on (by simp only [readA, readB, mask, free, choice, bind, Except.bind])

theorem laneAt_selected {m : Word} {i : Nat} (hi : i < fmt.lanes) : laneAt (vecOf fmt (selected fmt m x y)) fmt.width i =
    (if m.getLsbD i then laneAt x fmt.width i else laneAt y fmt.width i) % 2 ^ Fmt.elementBits fmt :=
  laneAt_vecOf_range _ hi

theorem vecBits_of_reads (on : s.on h) (readA : s.me.readV a none = .ok u) (readB : s.me.readV b none = .ok v)
    (free : s.me.freeV d = .ok ()) (f : VWord → VWord → VWord) : vecBits h d a b f s =
      s.becomes (((s.me.killV h.dmA a).killV h.dmB b).putV d (maskTag (s.me.tagV a) (f u v)) (s.me.tagV a)) :=
  State.runT_on on (by simp only [readA, readB, free, bind, Except.bind])

theorem maskTag_of_ne {f : Fmt} (other : f ≠ .t6) (v : VWord) : maskTag f v = v := if_neg other

theorem laneAt_maskTag_t6 (v : VWord) {i : Nat} (hi : i < 32) : laneAt (maskTag .t6 v) 8 i = laneAt v 8 i % 64 :=
  laneAt_vecOf_range (f := .t6) _ hi

end Selection

section Shifts
variable (fmt : Fmt)

theorem Fmt.elementBits_le_width : Fmt.elementBits fmt ≤ fmt.width := by cases fmt <;> decide

/-- A shift to the left by the width or more leaves zero, as the exact product does (R279). -/
theorem shl_mod (x k : Nat) : (if fmt.width ≤ k then 0 else x * 2 ^ k % 2 ^ fmt.width) % 2 ^ Fmt.elementBits fmt =
    x * 2 ^ k % 2 ^ Fmt.elementBits fmt := by
  have bits := Fmt.elementBits_le_width fmt
  split
  next far =>
    have multiple : 2 ^ Fmt.elementBits fmt ∣ x * 2 ^ k := (Nat.pow_dvd_pow 2 (bits.trans far)).mul_left x
    rw [Nat.zero_mod, Nat.mod_eq_zero_of_dvd multiple]
  · exact Nat.mod_mod_of_dvd _ (Nat.pow_dvd_pow 2 bits)

theorem shr_eq {w x : Nat} (lane : x < 2 ^ w) (k : Nat) : (if w ≤ k then 0 else x / 2 ^ k) = x / 2 ^ k := by
  split
  next far => exact (Nat.div_eq_of_lt (lane.trans_le (Nat.pow_le_pow_right (by decide) far))).symm
  · rfl

/-- A shift of a signed value by more than its width leaves its sign alone. -/
theorem ediv_two_pow_eq_sign_of_width {w : Nat} {v : Int} (low : -2 ^ w ≤ v) (high : v < 2 ^ w) {k : Nat} (far : w ≤ k) :
    v / 2 ^ k = if v < 0 then -1 else 0 := by
  have big : (2 : Int) ^ w ≤ 2 ^ k := pow_le_pow_right₀ (by decide) far
  split
  next neg => rw [Int.ediv_eq_iff_of_pos (by positivity)]; constructor <;> omega
  next => exact Int.ediv_eq_zero_of_lt (by omega) (by omega)

theorem shra_eq (w n k : Nat) : toSigned w n / 2 ^ min k w = toSigned w n / 2 ^ k := by
  have code : n % 2 ^ w < 2 ^ w := Nat.mod_lt _ (Nat.two_pow_pos w)
  obtain near | far := le_total k w
  · rw [Nat.min_eq_left near]
  · have whole : ((2 ^ w : Nat) : Int) = 2 ^ w := by push_cast; rfl
    have low : -2 ^ w ≤ toSigned w n := by unfold toSigned; split <;> omega
    have high : toSigned w n < 2 ^ w := by unfold toSigned; split <;> omega
    rw [Nat.min_eq_right far, ediv_two_pow_eq_sign_of_width low high le_rfl, ediv_two_pow_eq_sign_of_width low high far]

variable {fmt} {s : State} {h : Hdr} {d a b : VReg} {x y : VWord}

theorem lanewise_vecShift_reg (on : s.on h) (has : s.me.hasV fmt d a b x y) {f g : Nat → Nat → Nat}
    (agree : ∀ n k, n < 2 ^ fmt.width → f n k % 2 ^ Fmt.elementBits fmt = g n k % 2 ^ Fmt.elementBits fmt) :
    s.lanewise (vecShift h fmt d a (.reg b) f s) ((s.me.killV h.dmA a).killV h.dmB b) fmt d
      fun i => (g (laneAt x fmt.width i) (laneAt y fmt.width i), 0) :=
  State.lanewise_congr (lanewise_vec2 on has _) fun _ _ => agree _ _ (laneAt_lt ..)

theorem lanewise_vecShift_imm (on : s.on h) (reads : s.me.readV a (some fmt) = .ok x) (free : s.me.freeV d = .ok ())
    (k : Fin 32) {f g : Nat → Nat → Nat}
    (agree : ∀ n k, n < 2 ^ fmt.width → f n k % 2 ^ Fmt.elementBits fmt = g n k % 2 ^ Fmt.elementBits fmt) :
    s.lanewise (vecShift h fmt d a (.imm k) f s) (s.me.killV h.dmA a) fmt d fun i => (g (laneAt x fmt.width i) k.val, 0) :=
  State.lanewise_congr (lanewise_vec1 on reads free _) fun _ _ => agree _ _ (laneAt_lt ..)

end Shifts

/-- The opcode that stands in the word of encoded fields (R173). -/
theorem extract_op_toWord (f : Fields) : f.toWord.extractLsb' 88 8 = f.op :=
  congrArg Fields.op (Laws.fields_ofWord_toWord f)

theorem ThreadSet.putV_vTag_same (t : ThreadSet) (d : VReg) (v : VWord) (f : Fmt) : (t.putV d v f).vTag[d] = f :=
  Vector.getElem_set_self _

/-- Settles O23: the first source that does not read stops the instruction; with both read and the mask, each lane is chosen by
its bit. -/
theorem vectorSelect : Obligations.VectorSelect := by
  unfold Obligations.VectorSelect
  refine fun s h fmt d a b c on => ⟨extract_op_toWord _, fun e readA => ?_, fun x e readA readB => ?_, fun x y m has mask =>
    ⟨_, exec_vsel_of_reads on has mask, fun u => u.putV_vTag_same d _ fmt, fun i hi => laneAt_selected hi⟩⟩
  all_goals show execVsel h fmt d a b c s = _
  · exact State.runT_stops on (by simp only [readA, bind, Except.bind])
  · exact State.runT_stops on (by simp only [readA, readB, bind, Except.bind])

end Sys2Proof.Machine
end

section
/-! The movement of lanes: by index, by pattern, from and to a scalar. -/
namespace Sys2Proof.Machine

section Movement
variable {s : State} {h : Hdr} {fmt : Fmt} {d a b c : VReg} {x y z t v : VWord}

theorem lanewise_vperm (on : s.on h) (readA : s.me.readV a none = .ok x) (readB : s.me.readV b none = .ok y)
    (readC : s.me.readV c none = .ok z) (free : s.me.freeV d = .ok ()) :
    s.lanewise (exec (.vperm h fmt d a b c) s) (((s.me.killV h.dmA a).killV h.dmB b).killV h.dmC c) fmt d (fun i =>
      let j := laneAt y 8 i
      if 128 ≤ j then (0, 0) else if j % (2 * fmt.lanes) < fmt.lanes then (laneAt x fmt.width (j % (2 * fmt.lanes)), 0)
        else (laneAt z fmt.width (j % (2 * fmt.lanes) - fmt.lanes), 0)) := by
  refine State.lanewise_of_lanes (show execVperm h fmt d a b c s = _ from State.runT_on on (by
    simp only [readA, readB, readC, free, lanesOf, List.map_map, bind, Except.bind]
    rfl)) fun i hi => ?_
  have nonempty : 0 < fmt.lanes := by omega
  rw [getD_map_range _ _ hi]
  dsimp only [Function.comp_apply]
  split
  · rfl
  · split
    next first => rw [List.getD_append _ _ _ _ (by rwa [length_vecLanes]), getD_vecLanes _ first]
    next second =>
      have inside : laneAt y 8 i % (2 * fmt.lanes) < 2 * fmt.lanes := Nat.mod_lt _ (by omega)
      rw [List.getD_append_right _ _ _ _ (by rw [length_vecLanes]; omega), length_vecLanes, getD_vecLanes _ (by omega)]

theorem lanewise_vbcast {p : SReg} {e : Nat} (on : s.on h) (reads : s.me.readLane fmt p = .ok e) (free : s.me.freeV d = .ok ()) :
    s.lanewise (exec (.vbcast h fmt d p) s) (s.me.killLane h.dmA fmt p) fmt d fun _ => (e, 0) :=
  State.lanewise_of_lanes (show execVbcast h fmt d p s = _ from State.runT_on on (by
    simp only [reads, free, bind, Except.bind]
    rfl)) fun _ hi => by rw [List.getD_replicate _ hi]

/-- A pattern of two sources (R282). -/
theorem lanewise_vshuf_two {pat : ShufPat} {f : Nat → Coded} (on : s.on h) (second : shufSecond pat = some b)
    (readA : s.me.readV a none = .ok x) (readB : s.me.readV b none = .ok y) (free : s.me.freeV d = .ok ())
    (gives : ∀ i, i < fmt.lanes → f i = ((shufLanes fmt.lanes (vecLanes fmt x) (vecLanes fmt y) pat).getD i 0, 0)) :
    s.lanewise (exec (.vshuf h fmt pat d a) s) ((s.me.killV h.dmA a).killV h.dmB b) fmt d f :=
  State.lanewise_of_lanes (show execVshuf h fmt pat d a s = _ from State.runT_on on (by
    simp only [second, readA, readB, free, bind, Except.bind])) gives

/-- A pattern of one source (R282). -/
theorem lanewise_vshuf_one {pat : ShufPat} {f : Nat → Coded} (on : s.on h) (single : shufSecond pat = none)
    (readA : s.me.readV a none = .ok x) (free : s.me.freeV d = .ok ())
    (gives : ∀ i, i < fmt.lanes → f i = ((shufLanes fmt.lanes (vecLanes fmt x) (vecLanes fmt 0) pat).getD i 0, 0)) :
    s.lanewise (exec (.vshuf h fmt pat d a) s) (s.me.killV h.dmA a) fmt d f :=
  State.lanewise_of_lanes (show execVshuf h fmt pat d a s = _ from State.runT_on on (by
    simp only [single, readA, free, bind, Except.bind])) gives

section Patterns
variable (x y) {i : Nat} (hi : i < fmt.lanes)
include hi

theorem getD_shufLanes_ilo : (shufLanes fmt.lanes (vecLanes fmt x) (vecLanes fmt y) (.ilo b)).getD i 0 =
    if i % 2 = 0 then laneAt x fmt.width (i / 2) else laneAt y fmt.width (i / 2) := by
  rw [shufLanes, getD_map_range _ _ hi, getD_vecLanes _ (by omega), getD_vecLanes _ (by omega)]

theorem getD_shufLanes_ihi : (shufLanes fmt.lanes (vecLanes fmt x) (vecLanes fmt y) (.ihi b)).getD i 0 =
    if i % 2 = 0 then laneAt x fmt.width (fmt.lanes / 2 + i / 2) else laneAt y fmt.width (fmt.lanes / 2 + i / 2) := by
  have even := Fmt.lanes_even fmt
  rw [shufLanes, getD_map_range _ _ hi, getD_vecLanes _ (by omega), getD_vecLanes _ (by omega)]

theorem getD_shufLanes_even : (shufLanes fmt.lanes (vecLanes fmt x) (vecLanes fmt y) (.even b)).getD i 0 =
    if i < fmt.lanes / 2 then laneAt x fmt.width (2 * i) else laneAt y fmt.width (2 * (i - fmt.lanes / 2)) := by
  have even := Fmt.lanes_even fmt
  rw [shufLanes, getD_map_range _ _ hi]
  split <;> rw [getD_vecLanes _ (by omega)]

theorem getD_shufLanes_odd : (shufLanes fmt.lanes (vecLanes fmt x) (vecLanes fmt y) (.odd b)).getD i 0 =
    if i < fmt.lanes / 2 then laneAt x fmt.width (2 * i + 1) else laneAt y fmt.width (2 * (i - fmt.lanes / 2) + 1) := by
  have even := Fmt.lanes_even fmt
  rw [shufLanes, getD_map_range _ _ hi]
  split <;> rw [getD_vecLanes _ (by omega)]

theorem getD_shufLanes_rev : (shufLanes fmt.lanes (vecLanes fmt x) (vecLanes fmt y) .rev).getD i 0 =
    laneAt x fmt.width (fmt.lanes - 1 - i) := by
  rw [shufLanes, List.getD_reverse _ (by rwa [length_vecLanes]), length_vecLanes, getD_vecLanes _ (by omega)]

theorem getD_shufLanes_rot (k : Fin 32) : (shufLanes fmt.lanes (vecLanes fmt x) (vecLanes fmt y) (.rot k)).getD i 0 =
    laneAt x fmt.width ((i + k.val) % fmt.lanes) := by
  rw [shufLanes, getD_map_range _ _ hi, getD_vecLanes _ (Nat.mod_lt _ (by omega))]

end Patterns

theorem lanewise_vmovs {p : SReg} {e : Nat} {lane : Fin 32} (on : s.on h) (reads : s.me.readLane fmt p = .ok e)
    (old : s.me.readV d none = .ok t) : s.lanewise (exec (.vmovs h fmt d p lane) s) (s.me.killLane h.dmA fmt p) fmt d
      fun i => if i = lane.val then (e, 0) else (laneAt t fmt.width i, 0) := by
  refine State.lanewise_of_lanes (show execVmovs h fmt d p lane s = _ from State.runT_on on (by
    simp only [reads, old, bind, Except.bind]
    rfl)) fun i hi => ?_
  rw [List.getD_eq_getElem _ _ (by rwa [List.length_set, length_vecLanes]), List.getElem_set]
  split
  next here => rw [if_pos here.symm]
  next other => rw [if_neg fun e => other e.symm, ← List.getD_eq_getElem _ 0, getD_vecLanes _ hi]

/-- The lanes of VIOTA (R284). -/
def iota (fmt : Fmt) (sat : Bool) (n : Word) (imm : Imm) (i : Nat) : Coded := fixInt fmt sat (n.toInt + i * imm.toInt)

theorem exec_viota_of_reads {sat : Bool} {q : SReg} {n : Word} {imm : Imm} (on : s.on h) (reads : s.me.readS q = .ok n)
    (free : s.me.freeV d = .ok ()) : exec (.viota h fmt sat d q imm) s = s.becomes (((s.me.killS h.dmA q).putV d
      (vecOf fmt (((List.range fmt.lanes).map (iota fmt sat n imm)).map (·.1))) fmt).flag
        (lanesFlags ((List.range fmt.lanes).map (iota fmt sat n imm)))) := by
  show execViota h fmt sat d q imm s = _
  exact State.runT_on on (by
    simp only [reads, free, bind, Except.bind]
    rfl)

/-- The value that VEXTS gives: T6 codes in six bits, S8 and S16 with their sign, every other code as it is (R283). -/
theorem exec_vexts_of_reads {q : SReg} {lane : Fin 32} (on : s.on h) (reads : s.me.readV a (some fmt) = .ok v)
    (free : s.me.freeWide (fmt == .fp64) q = .ok ()) : exec (.vexts h fmt q a lane) s = s.becomes ((s.me.killV h.dmA a).putWide
      (fmt == .fp64) q (if fmt = .t6 then laneAt v fmt.width lane.val % 64
        else if fmt = .s8 ∨ fmt = .s16 then ofInt 32 (toSigned fmt.width (laneAt v fmt.width lane.val))
        else laneAt v fmt.width lane.val)) := by
  have whole (n : Nat) (hn : n < 2 ^ 32) : ofInt 32 (toSigned 32 n) = n := by
    rw [toSigned_eq_toInt (by decide), ofInt_eq_toNat, BitVec.ofInt_toInt, BitVec.toNat_ofNat, Nat.mod_eq_of_lt hn]
  show execVexts h fmt q a lane s = _
  exact State.runT_on on (by
    simp only [reads, free, bind, Except.bind]
    cases fmt with
    | s32 => exact congrArg (fun n => Except.ok ((s.me.killV h.dmA a).putWide false q n)) (whole _ (laneAt_lt v 32 lane.val))
    | _ => rfl)

end Movement

/-- Settles O24: the lanes of the progression, each brought into the format. -/
theorem indexVector : Obligations.IndexVector := by
  unfold Obligations.IndexVector
  refine fun s h fmt sat d a imm x on reads free => ⟨extract_op_toWord _, _, _, exec_viota_of_reads on reads free,
    fun u => u.putV_vTag_same d _ fmt, fun i hi => ?_⟩
  rw [List.map_map, laneAt_vecOf_range _ hi]
  rfl

/-- Settles O22: the mask of a comparison bit by bit, a bitwise result by the tag of its first source, and the lanes of each
shift and movement. -/
theorem vectorSelectionAndMovement : Obligations.VectorSelectionAndMovement := by
  unfold Obligations.VectorSelectionAndMovement
  refine ⟨fun s h fmt c d a b r q x y u v m k on has readA readB freeR mask => ?selection,
    fun s h fmt d a b c p q x y z t v e n imm sat lane on readA readB readC reads free old scalar start => ?movement⟩
  case selection =>
    have ⟨taggedA, taggedB, free⟩ := has
    have bits := vecBits_of_reads on readA readB free
    have reg {f g} := lanewise_vecShift_reg (f := f) (g := g) on has
    have imm {f g} := lanewise_vecShift_imm (f := f) (g := g) on taggedA free k
    have left (n k : Nat) (_ : n < 2 ^ fmt.width) := shl_mod fmt n k
    have right (n k : Nat) (lane : n < 2 ^ fmt.width) := congrArg (· % 2 ^ Fmt.elementBits fmt) (shr_eq lane k)
    have arithmetic (n k : Nat) (_ : n < 2 ^ fmt.width) :=
      congrArg (fun v => ofInt fmt.width v % 2 ^ Fmt.elementBits fmt) (shra_eq fmt.width n k)
    refine ⟨⟨_, exec_vcmp_of_reads c on taggedA taggedB freeR, fun i hi small => ?_, fun i hi => ?_⟩,
      State.lanewise_of_lanes (exec_vsel_of_reads on has mask) fun i hi => ?_,
      fun other => ?_, fun t6 => ?_, ?_⟩
    · rw [BitVec.getLsbD_ofNat, testBit_verdictMask, getD_map_range _ _ hi, decide_eq_true small, Bool.true_and]
    · rw [BitVec.getLsbD_ofNat, testBit_verdictMask, List.getD_eq_default _ _ (by simpa using hi), Bool.and_false]
    · rw [selected, getD_map_range _ _ hi]
    · have bits (f) := (bits f).trans (by rw [maskTag_of_ne other])
      exact ⟨bits _, bits _, bits _⟩
    · simp only [List.forall_mem_cons, List.not_mem_nil, false_imp_iff, implies_true, and_true]
      rw [t6] at bits
      have masked (f) : ∃ z, vecBits h d a b f s = s.becomes (((s.me.killV h.dmA a).killV h.dmB b).putV d z .t6) ∧
          ∀ i, i < 32 → laneAt z 8 i = laneAt (f u v) 8 i % 64 := ⟨_, bits f, fun i hi => laneAt_maskTag_t6 _ hi⟩
      exact ⟨masked _, masked _, masked _⟩
    · simp only [exec, execVshl, execVshr, execVshra]
      exact ⟨reg left, imm left, reg right, imm right, reg arithmetic, imm arithmetic⟩
  case movement =>
    have code (p : Prop) [Decidable p] (m n : Nat) : (if p then ((m, 0) : Coded) else (n, 0)) = (if p then m else n, 0) := by
      split <;> rfl
    refine ⟨lanewise_vperm on readA readB readC free, lanewise_vbcast on scalar free,
      lanewise_vshuf_two on rfl readA readB free fun i hi => ?_, lanewise_vshuf_two on rfl readA readB free fun i hi => ?_,
      lanewise_vshuf_two on rfl readA readB free fun i hi => ?_, lanewise_vshuf_two on rfl readA readB free fun i hi => ?_,
      lanewise_vshuf_one on rfl readA free fun i hi => ?_, lanewise_vshuf_one on rfl readA free fun i hi => ?_,
      lanewise_vmovs on scalar old, State.lanewise_of_coded (exec_viota_of_reads on start free),
      fun wide => exec_vexts_of_reads on reads wide⟩
    · rw [code, getD_shufLanes_ilo x y hi]
    · rw [code, getD_shufLanes_ihi x y hi]
    · rw [code, getD_shufLanes_even x y hi]
    · rw [code, getD_shufLanes_odd x y hi]
    · rw [getD_shufLanes_rev x 0 hi]
    · rw [getD_shufLanes_rot x 0 hi]

end Sys2Proof.Machine
end

section
/-! Reductions of the lanes of a register, and the dot product. -/
namespace Sys2Proof.Machine

section Integers

theorem foldl_add_eq_sum (xs : List Int) (c : Int) : xs.foldl (· + ·) c = xs.sum + c := by
  induction xs generalizing c with
  | nil => simp
  | cons x xs ih => rw [List.foldl_cons, ih, List.sum_cons]; ring

/-- The greatest integer of a list that is not empty; the least below. -/
theorem foldl_max_headD {xs : List Int} (nonempty : xs ≠ []) :
    xs.foldl max (xs.headD 0) ∈ xs ∧ ∀ u ∈ xs, u ≤ xs.foldl max (xs.headD 0) := by
  obtain ⟨x, r, rfl⟩ := List.exists_cons_of_ne_nil nonempty
  rw [List.headD_cons, List.foldl_cons, max_self]
  exact List.max?_eq_some_iff.mp List.max?_cons'

theorem foldl_min_headD {xs : List Int} (nonempty : xs ≠ []) :
    xs.foldl min (xs.headD 0) ∈ xs ∧ ∀ u ∈ xs, xs.foldl min (xs.headD 0) ≤ u := by
  obtain ⟨x, r, rfl⟩ := List.exists_cons_of_ne_nil nonempty
  rw [List.headD_cons, List.foldl_cons, min_self]
  exact List.min?_eq_some_iff.mp List.min?_cons'

theorem ofNat_ofInt (v : Int) : BitVec.ofNat 32 (ofInt 32 v) = BitVec.ofInt 32 v := by
  rw [ofInt_eq_toNat, BitVec.ofNat_toNat, BitVec.setWidth_eq]

theorem vecLanes_ne_nil (f : Fmt) (v : VWord) : (vecLanes f v).map (intVal f) ≠ [] := by
  have nonempty : 0 < f.lanes := by cases f <;> decide
  exact List.ne_nil_of_length_pos (by rwa [List.length_map, length_vecLanes])

theorem Fmt.ne_fp64_of_isInt {f : Fmt} (int : f.isInt = true) : (f == .fp64) = false :=
  beq_eq_false_iff_ne.mpr fun e => by rw [e] at int; cases int

end Integers

section Reductions
variable {s : State} {h : Hdr} {fmt : Fmt} {d : SReg} {a : VReg} {x : VWord}

theorem vecReduce_of_int (int : fmt.isInt = true) (on : s.on h) (reads : s.me.readV a (some fmt) = .ok x)
    (free : s.me.freeWide (fmt == .fp64) d = .ok ()) {ints : List Int → Coded} (node : ThreadSet → Nat → Nat → Coded)
    {r : Coded} (value : ints ((vecLanes fmt x).map (intVal fmt)) = r) : vecReduce h fmt d a ints node s =
      s.becomes (((s.me.killV h.dmA a).putS d (BitVec.ofNat 32 r.1)).flag r.2) :=
  State.runT_on on (by
    simp only [reads, free, int, value, if_true, bind, Except.bind]
    rw [Fmt.ne_fp64_of_isInt int]
    rfl)

theorem vecReduce_of_float (float : fmt.isInt = false) (on : s.on h) (reads : s.me.readV a (some fmt) = .ok x)
    (free : s.me.freeWide (fmt == .fp64) d = .ok ()) (ints : List Int → Coded) (node : ThreadSet → Nat → Nat → Coded) :
    vecReduce h fmt d a ints node s = (let q := treeReduce (node s.me) 4 (vecLanes fmt x)
      s.becomes (((s.me.killV h.dmA a).putWide (fmt == .fp64) d (q.1.headD 0)).flag q.2)) :=
  State.runT_on on (by
    simp only [reads, free, float, Bool.false_eq_true, if_false, bind, Except.bind])

end Reductions

section Dots
variable {s : State} {h : Hdr} {fmt : Fmt}

/-- The lanes of a source that lane j of VDOT takes (R286). -/
def dotGroup (fmt : Fmt) (x : VWord) (j : Nat) : List Nat :=
  (List.range (32 / fmt.width)).map fun i => laneAt x fmt.width (32 / fmt.width * j + i)

theorem take_drop_vecLanes (x : VWord) {g j : Nat} (inside : g * j + g ≤ fmt.lanes) :
    ((vecLanes fmt x).drop (g * j)).take g = (List.range g).map fun i => laneAt x fmt.width (g * j + i) := by
  have count : min g (fmt.lanes - g * j) = g := by omega
  exact List.ext_getElem (by simp [vecLanes, lanesOf, count]) fun i _ _ => by simp [vecLanes, lanesOf]

theorem dotAcc_width (f : Fmt) : (dotAcc f).width = 32 := by cases f <;> rfl
theorem dotAcc_lanes (f : Fmt) : (dotAcc f).lanes = 8 := by cases f <;> rfl
theorem dotAcc_of_float {f : Fmt} (float : f.isInt = false) : dotAcc f = .fp32 := by
  revert float
  cases f <;> decide

/-- The eight groups of VDOT are lanes of its sources (R286). -/
theorem dotGroup_inside (f : Fmt) {j : Nat} (hj : j < 8) : 32 / f.width * j + 32 / f.width ≤ f.lanes := by
  have groups : 32 / f.width * 8 ≤ f.lanes := by cases f <;> decide
  exact le_trans (by rw [← Nat.mul_succ]; exact Nat.mul_le_mul_left _ hj) groups

theorem dotLane_of_int (int : fmt.isInt = true) (m : RmCode) (sat : Bool) (p q : Nat → Nat) (g c : Nat) :
    dotLane fmt m sat ((List.range g).map p) ((List.range g).map q) c = fixInt (dotAcc fmt) sat
      (((List.range g).map fun i => intVal fmt (p i) * intVal fmt (q i)).sum + intVal (dotAcc fmt) c) := by
  rw [dotLane, if_pos int, List.zipWith_map, List.zipWith_self, foldl_add_eq_sum]

theorem dotLane_of_float (float : fmt.isInt = false) (m : RmCode) (sat : Bool) (p q : Nat → Nat) (g c : Nat) :
    dotLane fmt m sat ((List.range g).map p) ((List.range g).map q) c = rndWith .fp32 m sat
      (dotNum m ((List.range g).map fun i => (codeVal fmt (p i), codeVal fmt (q i))) (codeVal .fp32 c)) := by
  rw [dotLane, if_neg (by rw [float]; exact Bool.false_ne_true), List.map_map, List.map_map, List.zip_map']
  rfl

theorem lanewise_vdot {rm : RmCode} {sat : Bool} {d a b c : VReg} {x y z : VWord} {f : Nat → Coded} (on : s.on h)
    (has : s.me.hasV fmt d a b x y) (readC : s.me.readV c (some (dotAcc fmt)) = .ok z)
    (gives : ∀ j, dotLane fmt (s.me.mode rm) sat (dotGroup fmt x j) (dotGroup fmt y j) (laneAt z 32 j) = f j) :
    s.lanewise (exec (.vdot h fmt rm sat d a b c) s) (((s.me.killV h.dmA a).killV h.dmB b).killV h.dmC c) (dotAcc fmt) d f := by
  obtain ⟨readA, readB, free⟩ := has
  have lanes : ((List.range 8).map fun j => dotLane fmt (s.me.mode rm) sat (((vecLanes fmt x).drop (32 / fmt.width * j)).take
      (32 / fmt.width)) (((vecLanes fmt y).drop (32 / fmt.width * j)).take (32 / fmt.width)) (laneAt z 32 j)) =
      (List.range (dotAcc fmt).lanes).map f := by
    rw [dotAcc_lanes]
    refine List.map_congr_left fun j hj => ?_
    have inside := dotGroup_inside fmt (List.mem_range.mp hj)
    rw [take_drop_vecLanes x inside, take_drop_vecLanes y inside]
    exact gives j
  exact State.lanewise_of_coded (show execVdot h fmt rm sat d a b c s = _ from State.runT_on on (by
    simp only [readA, readB, readC, free, lanes, bind, Except.bind]))

end Dots

/-- Settles O25: an integer reduction gives the sum or an extreme of its lanes, one of floats the tree, and a lane of VDOT the sum
of its group. -/
theorem reductionsAndDots : Obligations.ReductionsAndDots := by
  unfold Obligations.ReductionsAndDots
  refine ⟨fun s h fmt rm sat d a x on reads free => ⟨fun int => ?_, fun float => ?_⟩,
    fun s h fmt rm sat d a b c x y z on has readC => ⟨fun int => lanewise_vdot on has readC fun j => dotLane_of_int int ..,
      fun float => ?_⟩⟩
  · obtain ⟨most, above⟩ := foldl_max_headD (vecLanes_ne_nil fmt x)
    obtain ⟨least, below⟩ := foldl_min_headD (vecLanes_ne_nil fmt x)
    have run {ints node r} := vecReduce_of_int int on reads free (ints := ints) node (r := r)
    simp only [exec, execVredadd, execVredmax, execVredmin]
    refine ⟨run (by rw [foldl_add_eq_sum, Int.add_zero]; rfl), ⟨_, most, above, ?_⟩, ⟨_, least, below, ?_⟩⟩
    all_goals rw [run rfl, ThreadSet.flag_zero, ofNat_ofInt]
  · have run (ints node) := vecReduce_of_float float on reads free ints node
    simp only [exec, execVredadd, execVredmax, execVredmin]
    exact ⟨run _ _, run _ _, run _ _⟩
  · have result := lanewise_vdot (rm := rm) (sat := sat) on has readC fun j => dotLane_of_float float ..
    rwa [dotAcc_of_float float] at result

end Sys2Proof.Machine
end

section
/-! Conversions of lanes, tags, and the quantisation of blocks. -/
namespace Sys2Proof.Machine

section Converting
variable {s : State} {h : Hdr} {dst src : Fmt} {rm : RmCode} {sat : Bool} {part : Fin 8} {d a : VReg} {x u : VWord}

/-- Codes from a place on, zero elsewhere (R287). -/
def placedCodes (n place : Nat) (codes : List Nat) : List Nat :=
  (List.range n).map fun i => if place ≤ i then codes.getD (i - place) 0 else 0

theorem lanesFlags_map_range (n : Nat) (f : Nat → Coded) :
    lanesFlags ((List.range n).map f) = (List.range n).foldl (fun fl i => fl ||| (f i).2) 0 := List.foldl_map

theorem laneAt_placedCodes {n place i : Nat} (f : Nat → Coded) (hi : i < dst.lanes) :
    laneAt (vecOf dst (placedCodes dst.lanes place (((List.range n).map f).map (·.1)))) dst.width i =
      if place ≤ i ∧ i < place + n then (f (i - place)).1 % 2 ^ Fmt.elementBits dst else 0 := by
  rw [placedCodes, laneAt_vecOf_range _ hi, List.map_map]
  by_cases from_place : place ≤ i
  · by_cases within : i < place + n
    · rw [if_pos from_place, if_pos ⟨from_place, within⟩, getD_map_range _ _ (by omega)]
      rfl
    · rw [if_pos from_place, if_neg (fun both => within both.2), List.getD_eq_default _ _ (by simp; omega), Nat.zero_mod]
  · rw [if_neg from_place, if_neg (fun both => from_place both.1), Nat.zero_mod]

/-- VCVT converts k lanes from one on, and puts them from a place on: into the part that it names where it widens, from that
part where it narrows (R287). -/
theorem exec_vcvt_of_reads {k first place : Nat} {f : Nat → Coded} (on : s.on h) (reads : s.me.readV a (some src) = .ok x)
    (free : s.me.freeV d = .ok ()) (count : min src.lanes dst.lanes = k)
    (starts : (if src.lanes ≤ dst.lanes then 0 else part.val * k) = first)
    (lands : (if src.lanes ≤ dst.lanes then part.val * k else 0) = place)
    (gives : ∀ i, convert dst src (s.me.mode rm) sat (laneAt x src.width (first + i)) = f i) :
    ∃ v, exec (.vcvt h dst src rm sat part d a) s = s.becomes (((s.me.killV h.dmA a).putV d v dst).flag
        ((List.range k).foldl (fun fl i => fl ||| (f i).2) 0)) ∧
      ∀ i, i < dst.lanes → laneAt v dst.width i =
        if place ≤ i ∧ i < place + k then (f (i - place)).1 % 2 ^ Fmt.elementBits dst else 0 := by
  subst count starts lands
  refine ⟨_, ?_, fun i hi => laneAt_placedCodes f hi⟩
  rw [← lanesFlags_map_range]
  show execVcvt h dst src rm sat part d a s = _
  exact State.runT_on on (by
    simp only [reads, free, gives, bind, Except.bind]
    rfl)

theorem ThreadSet.awaitsV_of_readV {t : ThreadSet} {r : VReg} {f : Option Fmt} (reads : t.readV r f = .ok x) :
    t.awaitsV r = false := by
  by_contra waits
  unfold ThreadSet.readV at reads
  rw [if_pos (by simpa using waits)] at reads
  cases reads

theorem exec_vtag_of_reads (on : s.on h) (reads : s.me.readV a none = .ok u) (free : s.me.freeV d = .ok ()) :
    exec (.vtag h dst d a) s = s.becomes ((s.me.killV h.dmA a).putV d u dst) := by
  show execVtag h dst d a s = _
  exact State.runT_on on (by simp only [reads, free, bind, Except.bind])

theorem exec_vtagq_of_tag {r : SReg} {origin : TagSrc} {c : Nat} (on : s.on h) (tag : s.tagOf origin = .ok c)
    (free : s.me.freeS r = .ok ()) : exec (.vtagq h r origin) s = s.becomes (s.me.putS r (BitVec.ofNat 32 c)) := by
  show execVtagq h r origin s = _
  exact State.run_on on (by
    simp only [State.ts_who, tag, free, bind, Except.bind]
    rfl)

theorem State.tagOf_vec (reads : s.me.readV a (some src) = .ok x) (live : s.me.vDead[a] = false) :
    s.tagOf (.vec a) = .ok s.me.vTag[a].code := by
  simp [State.tagOf, State.ts_who, ThreadSet.awaitsV_of_readV reads, live]

theorem State.tagOf_tile {m : MReg} (free : s.here.tileFree m = .ok ()) :
    s.tagOf (.tile m) = .ok s.here.shared.tiles[m].tag.code := by
  simp [State.tagOf, State.core_who, free, bind, Except.bind]

theorem State.tagOf_acc {k : CReg} (free : s.here.accFree k = .ok ()) :
    s.tagOf (.acc k) = .ok s.here.shared.accs[k].tag.code := by
  simp [State.tagOf, State.core_who, free, bind, Except.bind]

end Converting

section Blocks
variable {s : State} {h : Hdr} {qf : Fmt} {wf : WideFmt} {d a : VReg} {b : SReg} {vs : List VWord} {c : Word}

theorem exec_vquant_of_reads (on : s.on h) (reads : s.me.readGroup wf.fmt (groupRegs a wf.group) = .ok vs)
    (free : s.me.freeV d = .ok ()) (freeB : s.me.freeS b = .ok ()) :
    (let q := quantBlock qf ((groupLanes vs wf.fmt.width).map (codeVal wf.fmt))
    exec (.vquant h qf wf d a b) s = s.becomes ((((
      (groupRegs a wf.group).foldl (fun t r => t.killV h.dmA r) s.me).putV d (blockVec qf q.2.1) qf).putS b
        (BitVec.ofNat 32 q.1)).flag q.2.2)) := by
  show execVquant h qf wf d a b s = _
  exact State.runT_on on (by simp only [reads, free, freeB, bind, Except.bind])

theorem exec_vscale_of_reads (on : s.on h) (reads : s.me.readGroup wf.fmt (groupRegs a wf.group) = .ok vs)
    (free : s.me.freeV d = .ok ()) (scale : s.me.readS b = .ok c) :
    (let wide := (groupLanes vs wf.fmt.width).map (codeVal wf.fmt)
    exec (.vscale h qf wf d a b) s = s.becomes (((((
      groupRegs a wf.group).foldl (fun t r => t.killV h.dmA r) s.me).killS h.dmB b).putV d
        (blockVec qf (wide.map fun v => (quantAgainst qf (c.toNat % 256) v).1)) qf).flag
          (lanesFlags (wide.map (quantAgainst qf (c.toNat % 256)))))) := by
  show execVscale h qf wf d a b s = _
  exact State.runT_on on (by
    simp only [reads, free, scale, List.map_map, bind, Except.bind]
    rfl)

theorem ThreadSet.forM_freeV {t : ThreadSet} {rs : List VReg} (free : ∀ r ∈ rs, t.freeV r = .ok ()) :
    (rs.forM fun r => t.freeV r) = .ok () := by
  induction rs with
  | nil => rfl
  | cons r rs ih =>
    obtain ⟨head, tail⟩ := List.forall_mem_cons.mp free
    show (t.freeV r >>= fun _ => rs.forM fun r => t.freeV r) = _
    rw [head]
    exact ih tail

theorem exec_vdeq_of_reads {rm : RmCode} {sat : Bool} {x : VWord} (on : s.on h) (reads : s.me.readV a (some qf) = .ok x)
    (scale : s.me.readS b = .ok c) (free : ∀ r ∈ groupRegs d wf.group, s.me.freeV r = .ok ()) :
    (let cs := (lanesOf x qf.width 32).map fun q => rnd wf.fmt (s.me.mode rm) sat (scaled qf q (c.toNat % 256))
    let n := 256 / wf.fmt.width
    exec (.vdeq h qf wf rm sat d a b) s = s.becomes (((groupRegs d wf.group).zipIdx.foldl (fun (t : ThreadSet) e =>
      t.putV e.1 (vecOf wf.fmt (((cs.map (·.1)).drop (n * e.2)).take n)) wf.fmt)
        ((s.me.killV h.dmA a).killS h.dmB b)).flag (lanesFlags cs))) := by
  show execVdeq h qf wf rm sat d a b s = _
  exact State.runT_on on (by
    simp only [reads, scale, ThreadSet.forM_freeV free, bind, Except.bind]
    rfl)

end Blocks

/-- Settles O26: a conversion by the part it fills or takes, a tag by the register it is of, and a block by what is
written of it. -/
theorem conversions : Obligations.Conversions := by
  unfold Obligations.Conversions
  refine ⟨fun s h dst src rm sat part d a r m k x u on reads free plain freeR live =>
    ⟨⟨fun narrows inside => ?narrow, fun widens inside => ?wide⟩, exec_vtag_of_reads on plain free,
      exec_vtagq_of_tag on (State.tagOf_vec reads live) freeR, fun idle => exec_vtagq_of_tag on (State.tagOf_tile idle) freeR,
      fun idle => exec_vtagq_of_tag on (State.tagOf_acc idle) freeR⟩,
    fun s h qf wf rm sat d a b vs x c on => ⟨fun reads free =>
      ⟨exec_vquant_of_reads on reads free, exec_vscale_of_reads on reads free⟩, exec_vdeq_of_reads on⟩⟩
  case narrow =>
    have first : (if src.lanes ≤ dst.lanes then 0 else part.val * dst.lanes) = part.val * dst.lanes := by split <;> omega
    have place : (if src.lanes ≤ dst.lanes then part.val * dst.lanes else 0) = 0 := by split <;> omega
    obtain ⟨v, ran, lanes⟩ := exec_vcvt_of_reads on reads free (min_eq_right narrows) first place fun _ => rfl
    exact ⟨v, ran, fun i hi => (lanes i hi).trans (if_pos ⟨i.zero_le, by omega⟩)⟩
  case wide =>
    exact exec_vcvt_of_reads on reads free (min_eq_left widens) (if_pos widens) (if_pos widens) fun _ => by rw [Nat.zero_add]

end Sys2Proof.Machine
end

section
/-! How a value is rounded to PREC: one of at most PREC significant bits is exact, a longer one is not. -/
namespace Sys2Proof.Machine

section Significance
variable {m n j p : Nat}

/-- A number that has a bit set is an odd one shifted by its trailing zeros. -/
theorem eq_odd_mul_trailing (pos : m ≠ 0) (short : m < 2 ^ n) : ∃ k, m = k * 2 ^ trailing m n ∧ k % 2 = 1 := by
  induction n generalizing m with
  | zero => omega
  | succ n ih =>
    unfold trailing
    split
    next odd => exact ⟨m, (Nat.mul_one m).symm, odd⟩
    next even =>
      obtain ⟨k, half, odd⟩ := ih (m := m / 2) (by omega) (by omega)
      refine ⟨k, ?_, odd⟩
      rw [pow_succ, ← Nat.mul_assoc, ← half]
      omega

theorem lt_two_pow_bitLen (m : Nat) : m < 2 ^ bitLen m := by
  unfold bitLen
  split
  next zero => simp [zero]
  next => exact Nat.lt_log2_self

/-- The significant bits of a number are those of its odd part (R102). -/
theorem exists_odd_part (pos : m ≠ 0) : ∃ n j, m = n * 2 ^ j ∧ n % 2 = 1 ∧ sigBits m = bitLen n := by
  obtain ⟨n, parts, odd⟩ := eq_odd_mul_trailing pos (lt_two_pow_bitLen m)
  have length : bitLen m = bitLen n + trailing m (bitLen m) := by
    conv_lhs => rw [parts]
    exact bitLen_mul_two_pow (by omega) _
  refine ⟨n, _, parts, odd, ?_⟩
  rw [sigBits, if_neg pos]
  omega

/-- An odd number below a quantum is no multiple of it. -/
theorem roundQuantum_of_odd (mode : RmCode) (neg : Bool) {e q : Int} (odd : n % 2 = 1) (below : e + j < q) :
    ∃ r, roundQuantum mode neg (n * 2 ^ j) e q = (r, true) ∧ r ≤ n * 2 ^ j / 2 ^ (q - e).toNat + 1 := by
  have rest : n * 2 ^ j % 2 ^ (q - e).toNat ≠ 0 := by
    intro multiple
    have divides : 2 ^ (j + 1) ∣ n * 2 ^ j :=
      (pow_dvd_pow 2 (by omega)).trans (Nat.dvd_of_mod_eq_zero multiple)
    rw [pow_succ, Nat.mul_comm n] at divides
    have even := Nat.dvd_of_mul_dvd_mul_left (Nat.two_pow_pos j) divides
    omega
  unfold roundQuantum
  simp only [if_neg (show ¬ q ≤ e by omega), if_neg rest]
  exact ⟨_, rfl, by split <;> omega⟩

end Significance

section Rounding
variable {p n j : Nat} {e : Int}

/-- A value in range whose odd part has at most p bits is written as it is (R97, R99). -/
theorem flRound_of_short (mode : RmCode) (sat neg : Bool) (pos : n ≠ 0) (short : bitLen n ≤ p)
    (low : -flMaxExp ≤ leadExp (n * 2 ^ j) e) (high : leadExp (n * 2 ^ j) e ≤ flMaxExp) :
    flRound p mode sat neg (n * 2 ^ j) e =
      (flNormal neg p (n * 2 ^ (p - bitLen n)) (leadExp (n * 2 ^ j) e), 0, false) := by
  have length : bitLen (n * 2 ^ j) = bitLen n + j := bitLen_mul_two_pow pos j
  have rounded : roundQuantum mode neg (n * 2 ^ j) e (e + bitLen (n * 2 ^ j) - p) = (n * 2 ^ (p - bitLen n), false) := by
    rw [roundQuantum_of_multiple mode neg n j (by omega), length]
    congr 3
    omega
  have lead : leadExp (n * 2 ^ (p - bitLen n)) (e + bitLen (n * 2 ^ j) - p) = leadExp (n * 2 ^ j) e := by
    unfold leadExp
    rw [bitLen_mul_two_pow pos (p - bitLen n)]
    omega
  unfold flRound
  simp only [if_neg (Int.not_lt.mpr low), rounded, lead, if_neg (Int.not_lt.mpr high)]
  rfl

/-- A value whose odd part has more than p bits is inexact; a carry out of its leading bit stays in range where its
exponent is not the greatest (R99). -/
theorem flRound_of_long (mode : RmCode) (sat neg : Bool) (odd : n % 2 = 1) (long : p < bitLen n)
    (low : -flMaxExp ≤ leadExp (n * 2 ^ j) e) (high : leadExp (n * 2 ^ j) e < flMaxExp) :
    ∃ r l, flRound p mode sat neg (n * 2 ^ j) e = (flNormal neg p r l, fINX, false) := by
  have length : bitLen (n * 2 ^ j) = bitLen n + j := bitLen_mul_two_pow (by omega) j
  obtain ⟨r, rounded, bound⟩ := roundQuantum_of_odd mode neg (n := n) (j := j) (e := e)
    (q := e + bitLen (n * 2 ^ j) - p) odd (by omega)
  have fits : r ≤ 2 ^ p := by
    have below : n * 2 ^ j / 2 ^ (e + bitLen (n * 2 ^ j) - p - e).toNat < 2 ^ p := by
      refine Nat.div_lt_of_lt_mul ?_
      rw [← pow_add]
      exact (lt_two_pow_bitLen _).trans_eq (congrArg (2 ^ ·) (by omega))
    omega
  have carried : bitLen r ≤ p + 1 := bitLen_le_of_lt (fits.trans_lt (Nat.pow_lt_pow_right one_lt_two p.lt_succ_self))
  have inRange : ¬ flMaxExp < leadExp r (e + bitLen (n * 2 ^ j) - p) := by
    unfold leadExp at high ⊢
    omega
  refine ⟨r, leadExp r (e + bitLen (n * 2 ^ j) - p), ?_⟩
  unfold flRound
  simp only [if_neg (Int.not_lt.mpr low), rounded, if_neg inRange]
  rfl

theorem flNormal_sig_of_short (neg : Bool) (l : Int) (pos : n ≠ 0) (short : bitLen n ≤ p) :
    (flNormal neg p (n * 2 ^ (p - bitLen n)) l).sig = n * 2 ^ (32 * flLimbs p - bitLen n) := by
  have room : p ≤ 32 * flLimbs p := by
    unfold flLimbs
    omega
  have length : bitLen (n * 2 ^ (p - bitLen n)) = p := by
    rw [bitLen_mul_two_pow pos]
    omega
  have shift : n * 2 ^ (p - bitLen n) * 2 ^ (32 * flLimbs p) = n * 2 ^ (32 * flLimbs p - bitLen n) * 2 ^ p := by
    rw [Nat.mul_assoc, Nat.mul_assoc, ← pow_add, ← pow_add]
    congr 2
    omega
  rw [flNormal, length, shift, Nat.mul_div_cancel _ (Nat.two_pow_pos p)]

/-- The significand written is the value's, brought to the limbs of PREC (R97). -/
theorem flNormal_sig_mul (neg : Bool) (l : Int) (j : Nat) (pos : n ≠ 0) (short : bitLen n ≤ p) :
    (flNormal neg p (n * 2 ^ (p - bitLen n)) l).sig * 2 ^ bitLen (n * 2 ^ j) = n * 2 ^ j * 2 ^ (32 * flLimbs p) := by
  have room : p ≤ 32 * flLimbs p := by
    unfold flLimbs
    omega
  rw [flNormal_sig_of_short neg l pos short, bitLen_mul_two_pow pos, Nat.mul_assoc, Nat.mul_assoc, ← pow_add, ← pow_add]
  congr 2
  omega

theorem flNormal_exp (neg : Bool) (r : Nat) {l : Int} (low : -flMaxExp ≤ l) (high : l ≤ flMaxExp) :
    ((flNormal neg p r l).exp.toNat : Int) = l + 0x800000 := by
  have field : 0 ≤ l + 0x800000 ∧ l + 0x800000 < 2 ^ 24 := by
    unfold flMaxExp at low high
    omega
  show ((BitVec.ofInt 24 (l + 0x800000)).toNat : Int) = _
  rw [BitVec.toNat_ofInt, Int.toNat_of_nonneg (Int.emod_nonneg _ (by decide))]
  exact Int.emod_eq_of_lt field.1 field.2

end Rounding

section Finishing
variable {p m : Nat} {mode : RmCode} {x sat neg : Bool} {e : Int} {f : Word} {y : Flinum} {out : Bool}

/-- A finite result that rounds without loss is written with the flags of the operation. -/
theorem flFinish_of_exact (pos : m ≠ 0) (rounds : flRound p mode sat neg m e = (y, 0, out)) :
    flFinish p mode x sat { x := .fin neg m e, flags := f } = .ok (y, f) := by
  simp [flFinish, pos, rounds]

/-- One that loses bits raises INX. -/
theorem flFinish_of_inexact (pos : m ≠ 0) (rounds : flRound p mode sat neg m e = (y, fINX, out)) :
    flFinish p mode false sat { x := .fin neg m e, flags := f } = .ok (y, f ||| fINX) := by
  simp [flFinish, pos, rounds]

/-- In exact mode it traps PXH with the bits that it needs (R101, R102). -/
theorem flFinish_of_inexact_exactMode (pos : m ≠ 0) (rounds : flRound p mode sat neg m e = (y, fINX, false)) :
    flFinish p mode true sat { x := .fin neg m e, flags := f } = .error (.pxh (BitVec.ofNat 32 (sigBits m))) := by
  have raised : ¬ fINX = 0#32 := by decide
  simp [flFinish, pos, rounds, raised]

end Finishing

end Sys2Proof.Machine
end

section
/-! How a Flinum instruction whose sources are at hand runs: what a refill leaves, and the two shapes with and without a
Flinum result. -/
namespace Sys2Proof.Machine

section Refilling

theorem Safe.imp {α : Type} {p q : α → Prop} {r : Except Stop α} (safe : Safe p r) (weaker : ∀ a, p a → q a) : Safe q r := by
  cases r with
  | ok a => exact weaker a safe
  | error e => exact safe

variable {s s1 : State} {w : Who} {t u v : ThreadSet} {skip rs : List FReg}

/-- From t to u nothing of a thread set has changed but its Flinum registers, whether it waits, and its bubbles. -/
def ThreadSet.movesF (t u : ThreadSet) : Prop := ∃ f r b, u = { t with f := f, run := r, bubbles := b }

theorem ThreadSet.movesF_refl (t : ThreadSet) : t.movesF t := ⟨t.f, t.run, t.bubbles, rfl⟩

theorem ThreadSet.movesF.trans (first : t.movesF u) (second : u.movesF v) : t.movesF v := by
  obtain ⟨_, _, _, rfl⟩ := first
  obtain ⟨f, r, b, rfl⟩ := second
  exact ⟨f, r, b, rfl⟩

/-- A record that moves between a register and its slot costs port cycles. -/
theorem ThreadSet.movesF_slot (t : ThreadSet) (f : Vector FSlot 32) (evt n : Nat) :
    t.movesF ({ t with f := f }.delay evt n) := ⟨f, t.run, _, rfl⟩

theorem ThreadSet.movesF.readS (moves : t.movesF u) (q : SReg) : u.readS q = t.readS q := by
  obtain ⟨_, _, _, rfl⟩ := moves
  rfl

theorem ThreadSet.movesF.readP (moves : t.movesF u) (p : SPair) : u.readP p = t.readP p := by
  obtain ⟨_, _, _, rfl⟩ := moves
  rfl

theorem ThreadSet.movesF.readV (moves : t.movesF u) (b : VReg) (want : Option Fmt) : u.readV b want = t.readV b want := by
  obtain ⟨_, _, _, rfl⟩ := moves
  rfl

theorem State.movesF_storeBytes (s : State) (w : Who) (a : Nat) (bs : List Byte) :
    (s.ts w).movesF ((s.storeBytes w a bs).ts w) := by
  obtain ⟨plate, gangs, counters, stored, -⟩ := s.storeBytes_eq w a bs
  have there : (s.storeBytes w a bs).core w.core = ({ s.core w.core with plate := plate } : Core).putBytes a bs := by
    rw [stored]
    exact (State.core_congr rfl rfl rfl _).trans (s.core_setCore_same ..)
  obtain ⟨r, watched⟩ := (s.ts w).watch_eq ((s.core w.core).store.writeN a bs) a bs.length
  refine ⟨(s.ts w).f, r, (s.ts w).bubbles, ?_⟩
  unfold State.ts at watched ⊢
  rw [there, ← watched]
  exact Vector.getElem_map ..

theorem State.movesF_spill (s : State) (w : Who) (r : FReg) :
    Safe (fun u => (s.ts w).movesF (u.ts w)) (s.spill w r) := by
  unfold State.spill
  dsimp only
  split
  · refine .after (by simp) fun _ => ?_
    rw [safe_ok, State.modTs_eq, State.ts_setTs_same]
    exact (s.movesF_storeBytes ..).trans (ThreadSet.movesF_slot ..)
  · exact (s.ts w).movesF_refl

theorem State.movesF_allocate (s : State) (w : Who) (skip : List FReg) (n : Nat) (rs : List FReg) :
    Safe (fun q => (s.ts w).movesF (q.1.ts w)) (s.allocate w skip n rs) := by
  induction rs generalizing s with
  | nil => exact (s.ts w).movesF_refl
  | cons r rs ih =>
    unfold State.allocate
    split
    · exact (s.ts w).movesF_refl
    · split
      · exact ih s
      · exact (s.movesF_spill w r).bind fun u moves => (ih u).imp fun _ rest => moves.trans rest

/-- Refilling spilled sources moves Flinum registers alone. -/
theorem State.movesF_refill (s : State) (w : Who) (skip rs : List FReg) :
    Safe (fun u => (s.ts w).movesF (u.ts w)) (s.refill w skip rs) := by
  induction rs generalizing s with
  | nil => exact (s.ts w).movesF_refl
  | cons r rs ih =>
    unfold State.refill
    split
    · refine .after (by simp) fun _ => .after (by simp) fun _ => .after (by simp) fun _ => .after (by simp) fun _ => ?_
      split
      · trivial
      · refine (s.movesF_allocate ..).bind fun q moves => (ih _).imp fun _ rest => ?_
        rw [State.modTs_eq, State.ts_setTs_same] at rest
        exact (moves.trans (ThreadSet.movesF_slot ..)).trans rest
    · exact ih s

theorem State.movesF_of_refill (ran : s.refill w skip rs = .ok s1) : (s.ts w).movesF (s1.ts w) := by
  have moves := s.movesF_refill w skip rs
  rwa [ran] at moves

end Refilling

section Shapes
variable {s s1 t : State} {h : Hdr} {rm : RmCode} {x sat : Bool} {d a b : FReg} {srcs : List (FReg × Bool)} {fl : Word}
  {extra : ThreadSet → Except Stop Unit} {u v : ThreadSet}

theorem forM_eq_ok {α : Type} {check : α → Except Stop Unit} {l : List α} (pass : ∀ e ∈ l, check e = .ok ()) :
    l.forM check = .ok () := by
  induction l with
  | nil => rfl
  | cons e l ih =>
    obtain ⟨head, tail⟩ := List.forall_mem_cons.mp pass
    show (check e >>= fun _ => l.forM check) = _
    rw [head]
    exact ih tail

theorem snanFlag_singleton (z : Num) : snanFlag [z] = if z.isSnan then fINV else 0 := by
  simp [snanFlag]

/-- An instruction that writes a Flinum: the exact result that it forms is the one that is rounded (R297). What it reads
besides is as it was before the refill. -/
theorem flWrite_of_flinum {kill : ThreadSet → ThreadSet} {form : ThreadSet → RmCode → List Num → Exact}
    {result : RmCode → List Num → Exact} (on : s.on h) (runs : s.flinum d srcs rm x sat result fl t)
    (pass : extra s.me = .ok ()) (agree : ∀ u m, s.me.movesF u →
      form u m (srcs.map fun e => flNum (u.valF e.1)) = result m (srcs.map fun e => flNum (u.valF e.1))) :
    flWrite h rm x sat d srcs extra kill form s = (t.modTs t.who fun u => (kill u).flag fl).done := by
  obtain ⟨s1, y, live, refilled, rounded, written⟩ := runs
  have live : (srcs.forM fun e => (s.ts s.who).checkF e.1) = .ok () := forM_eq_ok live
  have pass : extra (s.ts s.who) = .ok () := pass
  have formed := agree (s1.ts s.who) ((s1.ts s.who).mode rm) (State.movesF_of_refill refilled)
  simp only [List.any_map, Function.comp_def] at rounded
  unfold flWrite
  refine State.run_on on ?_
  simp only [live, pass, refilled, State.who_of_refill refilled, formed, rounded, written, bind, Except.bind]

/-- An instruction that reads Flinums and writes none (R103). -/
theorem flRead_of_flinumIn {put : ThreadSet → List Flinum → Except Stop ThreadSet} (on : s.on h)
    (source : s.flinumIn srcs s1 u) (pass : extra s.me = .ok ()) (puts : put u (srcs.map fun e => u.valF e.1) = .ok v) :
    flRead h srcs extra put s = (s1.setTs s1.who (v.release none srcs)).done := by
  obtain ⟨live, refilled, rfl⟩ := source
  have live : (srcs.forM fun e => (s.ts s.who).checkF e.1) = .ok () := forM_eq_ok live
  have pass : extra (s.ts s.who) = .ok () := pass
  unfold flRead
  refine State.run_on on ?_
  simp only [live, pass, refilled, State.who_of_refill refilled, puts, bind, Except.bind]

theorem flRead_stops {put : ThreadSet → List Flinum → Except Stop ThreadSet} {st : Stop} (on : s.on h)
    (source : s.flinumIn srcs s1 u) (pass : extra s.me = .ok ()) (stops : put u (srcs.map fun e => u.valF e.1) = .error st) :
    flRead h srcs extra put s = .next (s.stopped st) := by
  obtain ⟨live, refilled, rfl⟩ := source
  have live : (srcs.forM fun e => (s.ts s.who).checkF e.1) = .ok () := forM_eq_ok live
  have pass : extra (s.ts s.who) = .ok () := pass
  unfold flRead
  refine State.run_stops on ?_
  simp only [live, pass, refilled, State.who_of_refill refilled, stops, bind, Except.bind]

theorem fl2_of_flinum (op : RmCode → Num → Num → Exact) (on : s.on h)
    (runs : s.flinum d [(a, h.dmA), (b, h.dmB)] rm x sat (fun m vs => op m (vs.getD 0 .nav) (vs.getD 1 .nav)) fl t) :
    fl2 h rm x sat d a b op s = (t.modTs t.who fun u => u.flag fl).done :=
  flWrite_of_flinum on runs rfl fun _ _ _ => rfl

theorem fl1_of_flinum (op : RmCode → Num → Exact) (on : s.on h)
    (runs : s.flinum d [(a, h.dmA)] rm x sat (fun m vs => op m (vs.getD 0 .nav)) fl t) :
    fl1 h rm x sat d a op s = (t.modTs t.who fun u => u.flag fl).done :=
  flWrite_of_flinum on runs rfl fun _ _ _ => rfl

/-- An operation that changes no more than sign, exponent or fraction raises INV for a signalling NaN alone (R300). -/
theorem exactOf_signOp (f : Num → Num) (z : Num) :
    Exact.of (signOp f z) = { x := f z, flags := if z.isSnan then fINV else 0 } := by
  rw [← snanFlag_singleton]
  rfl

theorem fl1_signOp_of_flinum (f : RmCode → Num → Num) (on : s.on h)
    (runs : s.flinum d [(a, h.dmA)] rm x sat (fun m vs =>
      { x := f m (vs.getD 0 .nav), flags := if (vs.getD 0 .nav).isSnan then fINV else 0 }) fl t) :
    fl1 h rm x sat d a (fun m z => Exact.of (signOp (f m) z)) s = (t.modTs t.who fun u => u.flag fl).done :=
  flWrite_of_flinum on runs rfl fun _ _ _ => exactOf_signOp ..

end Shapes

end Sys2Proof.Machine
end

section
/-! Flinum arithmetic, and the rounding of its results to PREC. -/
namespace Sys2Proof.Machine

theorem exec_ffma_of_flinum {s t : State} {h : Hdr} {rm : RmCode} {x sat : Bool} {d a b c : FReg} {fl : Word} (on : s.on h)
    (runs : s.flinum d [(a, h.dmA), (b, h.dmB), (c, h.dmC)] rm x sat
      (fun m vs => Exact.of (fmaNum m (vs.getD 0 .nav) (vs.getD 1 .nav) (vs.getD 2 .nav))) fl t) :
    exec (.ffma h rm x sat d a b c) s = (t.modTs t.who fun u => u.flag fl).done := by
  show execFfma h rm x sat d a b c s = _
  exact flWrite_of_flinum on runs rfl fun _ _ _ => rfl

theorem exec_fscalb_of_flinum {s t : State} {h : Hdr} {rm : RmCode} {x sat : Bool} {d a : FReg} {q : SReg} {n fl : Word}
    (on : s.on h) (read : s.me.readS q = .ok n) (runs : s.flinum d [(a, h.dmA)] rm x sat (fun _ vs =>
      { x := scaleNum n.toInt (vs.getD 0 .nav), flags := if (vs.getD 0 .nav).isSnan then fINV else 0 }) fl t) :
    exec (.fscalb h rm x sat d a q) s = (t.modTs t.who fun u => (u.killS h.dmB q).flag fl).done := by
  show execFscalb h rm x sat d a q s = _
  refine flWrite_of_flinum on runs (by simp only [read, bind, Except.bind]) fun u m moves => ?_
  rw [moves.readS, read]
  exact exactOf_signOp ..

/-- Settles O27: each instruction is the shape of its sources with its exact result, and a value is an odd number shifted,
which PREC holds whole or not. -/
theorem flinumArithmetic : Obligations.FlinumArithmetic := by
  unfold Obligations.FlinumArithmetic
  refine ⟨fun s t h rm x sat d a b c q n fl on => ?instructions, fun p mode x sat neg m e f low8 high512 pos low high => ?rounding⟩
  case instructions =>
    exact ⟨fl2_of_flinum (fun m u v => Exact.of (addNum m u v)) on, fl2_of_flinum (fun m u v => Exact.of (subNum m u v)) on,
      fl2_of_flinum (fun _ u v => Exact.of (mulNum u v)) on, fl2_of_flinum (fun _ => flDiv) on, exec_ffma_of_flinum on,
      fl1_of_flinum (fun _ => flSqrt) on, fl1_signOp_of_flinum (fun _ => Num.abs) on,
      fl1_signOp_of_flinum (fun _ => Num.negate) on, fl1_signOp_of_flinum (fun _ => id) on,
      fl1_signOp_of_flinum roundToInt on, exec_fscalb_of_flinum on⟩
  case rounding =>
    obtain ⟨n, j, rfl, odd, bits⟩ := exists_odd_part pos
    have odd_ne : n ≠ 0 := by omega
    have inexact (long : p < bitLen n) := flRound_of_long mode sat neg odd long low high
    rw [bits]
    refine ⟨fun short => ?_, fun long => ?_, fun long => ?_⟩
    · have rounds := flRound_of_short mode sat neg odd_ne short low high.le
      exact ⟨_, flFinish_of_exact pos rounds, rfl, rfl, rfl, flNormal_exp _ _ low high.le,
        flNormal_sig_mul neg _ j odd_ne short⟩
    · obtain ⟨r, l, rounds⟩ := inexact long
      exact ⟨_, flFinish_of_inexact pos rounds, rfl, rfl, rfl⟩
    · obtain ⟨r, l, rounds⟩ := inexact long
      exact bits ▸ flFinish_of_inexact_exactMode pos rounds

end Sys2Proof.Machine
end

section
/-! Conversions of other formats into Flinums, and what is read of a Flinum: comparison, conversion and exponent. -/
namespace Sys2Proof.Machine

section Into
variable {s t : State} {h : Hdr} {rm : RmCode} {x sat : Bool} {d a : FReg} {p : SPair} {q : SReg} {b : VReg} {v : DWord}
  {n fl : Word} {w : VWord}

theorem exec_fcvtd_of_flinum (on : s.on h) (read : s.me.readP p = .ok v) (runs : s.flinum d [] rm x sat (fun _ _ =>
      { x := codeVal .fp64 v.toNat, flags := if (codeVal .fp64 v.toNat).isSnan then fINV else 0,
        inf := (codeVal .fp64 v.toNat).isInf }) fl t) :
    exec (.fcvtd h rm x sat d p) s = (t.modTs t.who fun u => (u.killP h.dmA p).flag fl).done := by
  show execFcvtd h rm x sat d p s = _
  refine flWrite_of_flinum on runs (by simp only [read, bind, Except.bind]) fun u m moves => ?_
  simp only [moves.readP, read, Except.toOption, Option.getD_some, snanFlag_singleton]

/-- The value of an integer operand is written rounded (R302), whatever its width. -/
theorem execFcvts_of_flinum {r : IntReg} {k : Int} (on : s.on h) (read : ∀ u, s.me.movesF u → u.readInt r = .ok k)
    (runs : s.flinum d [] rm x sat (fun _ _ => { x := Num.ofIntAt k 0, flags := 0 }) fl t) :
    execFcvts h rm x sat d r s = (t.modTs t.who fun u => (u.killInt h.dmA r).flag fl).done := by
  refine flWrite_of_flinum on runs (by simp only [read _ s.me.movesF_refl, bind, Except.bind]) fun u m moves => ?_
  simp only [read u moves, Except.toOption, Option.getD_some]

theorem exec_fcvts_w32_of_flinum (on : s.on h) (read : s.me.readS q = .ok n)
    (runs : s.flinum d [] rm x sat (fun _ _ => { x := Num.ofIntAt n.toInt 0, flags := 0 }) fl t) :
    exec (.fcvts h rm x sat d (.w32 q)) s = (t.modTs t.who fun u => (u.killS h.dmA q).flag fl).done := by
  show execFcvts h rm x sat d (.w32 q) s = _
  exact execFcvts_of_flinum on (fun u moves => by simp only [ThreadSet.readInt, moves.readS, read, bind, Except.bind]) runs

theorem exec_fcvts_w64_of_flinum (on : s.on h) (read : s.me.readP p = .ok v)
    (runs : s.flinum d [] rm x sat (fun _ _ => { x := Num.ofIntAt v.toInt 0, flags := 0 }) fl t) :
    exec (.fcvts h rm x sat d (.w64 p)) s = (t.modTs t.who fun u => (u.killP h.dmA p).flag fl).done := by
  show execFcvts h rm x sat d (.w64 p) s = _
  exact execFcvts_of_flinum on (fun u moves => by simp only [ThreadSet.readInt, moves.readP, read, bind, Except.bind]) runs

theorem exec_fldc_imm_of_flinum {imm : Imm} (on : s.on h)
    (runs : s.flinum d [] rm x sat (fun _ _ => { x := Num.ofIntAt imm.toInt 0, flags := 0 }) fl t) :
    exec (.fldc h rm x sat d (.imm imm)) s = (t.modTs t.who fun u => u.flag fl).done := by
  show flWrite h rm x sat d [] noExtra id (fun _ _ _ => { x := Num.ofIntAt imm.toInt 0, flags := 0 }) s = _
  exact flWrite_of_flinum on runs rfl fun _ _ _ => rfl

/-- The result of FACCV before rounding (R302): the exact sum of a Flinum and the lanes, with INV for a lane that is a NaN
and for infinities of both signs. -/
def accumulated (lanes : List Num) (m : RmCode) (vs : List Num) : Exact :=
  let all := vs ++ lanes
  let sum := lanes.foldl (fun (acc : Num × Word) z => ((addNum m acc.1 z).1, acc.2 ||| (addNum m acc.1 z).2))
    (vs.headD .nav, 0)
  if all.any Num.isNan then
    { x := .nan false
      flags := snanFlag all ||| (if lanes.any Num.isNan || (all.contains (.inf false) && all.contains (.inf true))
        then fINV else 0) }
  else { x := sum.1, flags := sum.2, inf := all.any Num.isInf }

theorem exec_faccv_of_flinum (on : s.on h) (read : s.me.readV b (some .fp64) = .ok w)
    (runs : s.flinum d [(a, h.dmA)] rm x sat
      (accumulated ((List.range 4).map fun i => codeVal .fp64 (laneAt w 64 i))) fl t) :
    exec (.faccv h rm x sat d a b) s = (t.modTs t.who fun u => (u.killV h.dmB b).flag fl).done := by
  show execFaccv h rm x sat d a b s = _
  refine flWrite_of_flinum on runs (by simp only [read, bind, Except.bind]) fun u m moves => ?_
  have lanes : (vecLanes .fp64 ((u.readV b (some .fp64)).toOption.getD 0)).map (codeVal .fp64) =
      (List.range 4).map fun i => codeVal .fp64 (laneAt w 64 i) := by
    rw [moves.readV, read]
    exact List.map_map ..
  simp only [lanes]
  rfl

end Into

section OutOf
variable {s s1 : State} {h : Hdr} {rm : RmCode} {x sat : Bool} {a b : FReg} {d : SReg} {p : SPair} {q : PReg} {t : ThreadSet}

theorem exec_fcmp_of_flinumIn (c : FCond) (on : s.on h) (source : s.flinumIn [(a, h.dmA), (b, h.dmB)] s1 t) :
    exec (.fcmp h c q a b) s = (s1.setTs s1.who (((t.putPred q
      (fcondHolds c (flNum (t.valF a)) (flNum (t.valF b))).1).flag
        (fcondHolds c (flNum (t.valF a)) (flNum (t.valF b))).2).release none [(a, h.dmA), (b, h.dmB)])).done := by
  show execFcmp h c q a b s = _
  exact flRead_of_flinumIn on source rfl rfl

theorem exec_fexp_of_flinumIn (on : s.on h) (source : s.flinumIn [(a, h.dmA)] s1 t) (free : s.me.freeS d = .ok ()) :
    exec (.fexp h d a) s = (s1.setTs s1.who ((t.putS d (match (t.valF a).cls with
      | .normal => BitVec.ofInt 32 ((t.valF a).exp.toNat - 0x800000)
      | _ => 0x80000000)).release none [(a, h.dmA)])).done := by
  show execFexp h d a s = _
  exact flRead_of_flinumIn on source free rfl

theorem exec_ftod_of_flinumIn {r : Coded} (on : s.on h) (source : s.flinumIn [(a, h.dmA)] s1 t)
    (free : s.me.freeP p = .ok ()) (rounds : rnd .fp64 (t.mode rm) sat (flNum (t.valF a)) = r)
    (allowed : x = false ∨ r.2 &&& fINX = 0) :
    exec (.ftod h rm x sat p a) s = (s1.setTs s1.who (((t.putP p (BitVec.ofNat 64 r.1)).flag
      (r.2 ||| if (flNum (t.valF a)).isSnan then fINV else 0)).release none [(a, h.dmA)])).done := by
  have quiet : ¬ (x && r.2 &&& fINX != 0) = true := by
    rcases allowed with off | exact
    · simp [off]
    · simp [exact]
  subst rounds
  show execFtod h rm x sat p a s = _
  refine flRead_of_flinumIn on source free ?_
  rw [← snanFlag_singleton]
  exact if_neg quiet

/-- In exact mode a conversion that loses bits traps PXH with nothing to report (R302). -/
theorem exec_ftod_of_inexact (on : s.on h) (source : s.flinumIn [(a, h.dmA)] s1 t) (free : s.me.freeP p = .ok ())
    (lost : (rnd .fp64 (t.mode rm) sat (flNum (t.valF a))).2 &&& fINX ≠ 0) :
    exec (.ftod h rm true sat p a) s = .next (s.stopped (.pxh 0)) := by
  show execFtod h rm true sat p a s = _
  exact flRead_stops on source free (if_pos (bne_iff_ne.mpr lost))

/-- The width of an integer operand. -/
def intBits : IntReg → Nat
  | .w32 _ => 32
  | .w64 _ => 64

/-- The check of an integer destination. -/
def ThreadSet.freeInt (t : ThreadSet) : IntReg → Except Stop Unit
  | .w32 r => t.freeS r
  | .w64 r => t.freeP r

/-- The write of an integer destination. -/
def ThreadSet.putInt (t : ThreadSet) (n : Nat) : IntReg → ThreadSet
  | .w32 r => t.putS r (BitVec.ofNat 32 n)
  | .w64 r => t.putP r (BitVec.ofNat 64 n)

theorem exec_ftos_of_flinumIn {k : IntReg} {r : Coded} (on : s.on h) (source : s.flinumIn [(a, h.dmA)] s1 t)
    (free : s.me.freeInt k = .ok ()) (rounds : rndIntW true (intBits k) (t.mode rm) (flNum (t.valF a)) = r)
    (allowed : x = false ∨ r.2 = 0) :
    exec (.ftos h rm x k a) s =
      (s1.setTs s1.who (((t.putInt r.1 k).flag r.2).release none [(a, h.dmA)])).done := by
  have quiet : ¬ (x && r.2 != 0) = true := by
    rcases allowed with off | exact
    · simp [off]
    · simp [exact]
  subst rounds
  show execFtos h rm x k a s = _
  cases k with
  | w32 k => exact flRead_of_flinumIn on source free (if_neg quiet)
  | w64 k => exact flRead_of_flinumIn on source free (if_neg quiet)

theorem exec_ftos_of_inexact {k : IntReg} (on : s.on h) (source : s.flinumIn [(a, h.dmA)] s1 t)
    (free : s.me.freeInt k = .ok ()) (lost : (rndIntW true (intBits k) (t.mode rm) (flNum (t.valF a))).2 ≠ 0) :
    exec (.ftos h rm true k a) s = .next (s.stopped (.pxh 0)) := by
  show execFtos h rm true k a s = _
  cases k with
  | w32 k => exact flRead_stops on source free (if_pos (bne_iff_ne.mpr lost))
  | w64 k => exact flRead_stops on source free (if_pos (bne_iff_ne.mpr lost))

end OutOf

/-- Settles O28: each conversion into Flinums is the shape that writes one, each conversion out of them, FCMP and FEXP the
shape that writes none. -/
theorem flinumConversions : Obligations.FlinumConversions := by
  unfold Obligations.FlinumConversions
  refine ⟨fun s t h rm x sat d a p q b v n w imm fl on readP readS readV => ?into,
    fun s s1 h rm x sat c a b d p q t on => ?outOf⟩
  case into =>
    exact ⟨exec_fcvtd_of_flinum on readP, exec_fcvts_w32_of_flinum on readS, exec_fcvts_w64_of_flinum on readP,
      exec_fldc_imm_of_flinum on, exec_faccv_of_flinum on readV⟩
  case outOf =>
    refine ⟨exec_fcmp_of_flinumIn c on, fun source free => ⟨exec_ftod_of_flinumIn on source free rfl,
      exec_ftod_of_inexact on source free⟩, fun source free => ⟨?_, ?_, exec_fexp_of_flinumIn on source free⟩,
      fun source free => ⟨?_, ?_⟩⟩
    · exact exec_ftos_of_flinumIn (k := .w32 d) on source free rfl
    · exact exec_ftos_of_inexact (k := .w32 d) on source free
    · exact exec_ftos_of_flinumIn (k := .w64 p) on source free rfl
    · exact exec_ftos_of_inexact (k := .w64 p) on source free

end Sys2Proof.Machine
end

section
/-! The device right after reset. -/
namespace Sys2Proof.Machine

/-- No core is listed at reset, so each is as it comes. -/
theorem State.core_reset (c : CoreId) : State.reset.core c = {} := by cases c <;> rfl

theorem State.ts_reset (w : Who) : State.reset.ts w = {} := by
  rw [State.ts, State.core_reset]
  exact Vector.getElem_replicate _

theorem State.memWf_reset : State.reset.MemWf :=
  ⟨rfl, fun _ h => absurd h List.not_mem_nil, fun _ h => absurd h List.not_mem_nil, fun _ h => absurd h List.not_mem_nil⟩

/-- Settles O59: nothing is listed in any table of the state at reset. -/
theorem resetState : Obligations.ResetState := by
  unfold Obligations.ResetState
  refine ⟨State.memWf_reset, rfl, rfl, rfl, fun c => ?core, fun w => ?set, rfl, rfl, rfl⟩
  case core =>
    rw [State.core_reset]
    exact ⟨rfl, fun _ => rfl⟩
  case set =>
    rw [State.ts_reset]
    exact ⟨rfl, rfl⟩

end Sys2Proof.Machine
end

section
/-! Trap entry, and TRAP, BRK, XRET and IFENCE. -/
namespace Sys2Proof.Machine

section Entering
variable {s : State} {w : Who} {c : Capsule} {cause : Cause} {xpc xval xrpc : Word} {l : Line}

/-- The thread set as a trap leaves it before it goes anywhere (R342). -/
def ThreadSet.trapped (t : ThreadSet) (cause : Cause) (xpc xval xrpc : Word) : ThreadSet :=
  { t with run := .ready, xcause := BitVec.ofNat 32 cause.code, xpc := xpc, xval := xval, xrpc := xrpc }

/-- The handler of a cause: its own, or that of entry 0 (R342). -/
def Capsule.handler (c : Capsule) (cause : Cause) : Word :=
  if c.traps.getD cause.code 0xFFFFFFFF = 0xFFFFFFFF then c.traps.getD 0 0xFFFFFFFF else c.traps.getD cause.code 0xFFFFFFFF

theorem State.takeTrap_of_handler (outside : (s.ts w).inh = false) (capsule : s.capsuleOf w = some c)
    (delivered : cause.delivered = true) (there : c.handler cause ≠ 0xFFFFFFFF)
    (line : c.lineAt (c.handler cause).toNat = some l) (parity : lineParityOk l = true) (sound : lineBadEntry l = none)
    (slot : posOk (c.handler cause).toNat = true) (target : lineTarget l (posSlot (c.handler cause).toNat) = true) :
    s.takeTrap w cause xpc xval xrpc = s.setTs w { (s.ts w).trapped cause xpc xval xrpc with
      xstat := (s.ts w).xstat ||| 1, pc := c.handler cause, enter := true } := by
  unfold Capsule.handler at *
  unfold State.takeTrap
  simp only [outside, capsule, delivered, beq_eq_false_iff_ne.mpr there, line, parity, sound, slot, target, Bool.not_true,
    Bool.or_self, Option.isSome_none, Bool.false_eq_true, if_false, State.modTs_eq, State.setTs_setTs, State.ts_setTs_same]
  rfl

theorem State.takeTrap_of_fault {g : Nat} (mine : s.gangId w = some g)
    (none : (s.ts w).inh = true ∨ cause.delivered = false) :
    s.takeTrap w cause xpc xval xrpc =
      (s.setTs w ((s.ts w).trapped cause xpc xval xrpc)).programFault g cause xpc xval false := by
  unfold State.takeTrap
  simp only [mine]
  split
  · rfl
  next outside =>
    have undelivered := none.resolve_left outside
    split
    · rfl
    · simp only [undelivered, Bool.not_false, Bool.true_or, if_true]
      rfl

theorem Cause.not_delivered_of_mem (h : cause ∈ [Cause.blretired, .watchdog, .copyfail]) : cause.delivered = false := by
  simp only [List.mem_cons, List.not_mem_nil, or_false] at h
  rcases h with rfl | rfl | rfl <;> rfl

theorem posOk_of_mem {p : Nat} (h : p % 64 ∈ [0, 12, 24, 36, 48]) : posOk p = true := by
  simp only [List.mem_cons, List.not_mem_nil, or_false] at h
  rcases h with e | e | e | e | e <;> simp [posOk, e]

end Entering

/-- Settles O7: a trap outside a handler goes to the handler that the trap table names, any other is a program fault. -/
theorem trapEntry : Obligations.TrapEntry := by
  unfold Obligations.TrapEntry
  refine ⟨fun s w c cause xpc xval xrpc l outside capsule delivered there line parity sound slot target =>
    State.takeTrap_of_handler outside capsule delivered there line parity sound (posOk_of_mem slot) target,
    fun s w g cause xpc xval xrpc mine none =>
      State.takeTrap_of_fault mine (none.imp_right Cause.not_delivered_of_mem)⟩

section Instructions
variable {s : State} {h : Hdr} {nx : Bool} {c : Capsule} {l : Line} {imm : Imm}

theorem exec_trap (on : s.on h) (imm : Imm) : exec (.trap h imm) s = s.traps .user (imm.zeroExtend 32) := by
  show execTrap h imm s = _
  exact State.run_stops on rfl

/-- The driver debugs the context of the gang that executes (KCTL.DBG, R351, R396). -/
def State.debugsHere (s : State) : Bool := ((s.gangOf s.who).bind fun g => s.ctx g.ctx).any fun c => c.kctl.getLsbD 1

theorem exec_brk_of_on (on : s.on h) (imm : Imm) : exec (.brk h imm) s =
    if s.debugsHere then .next { s.modTs s.who fun t => { t with run := .stopped } with
      evt := 0x0F
      answers := s.answers ++ [.stopped ((s.gangOf s.who).elim 0 (·.ctx)) ((s.gangOf s.who).elim 0 (·.capsule)) s.who.core
        s.setIndex s.me.pc.toNat] }
    else s.traps .break (imm.zeroExtend 32) := by
  have on : (s.ts s.who).guard h = true := on
  show execBrk h imm s = _
  unfold execBrk State.debugsHere
  simp only [on, if_true]
  cases (s.gangOf s.who).bind fun g => s.ctx g.ctx <;> rfl

theorem exec_ifence (on : s.on h) : exec (.ifence h) s =
    s.becomes { s.me with enter := true, lineHeld := none, ovlFenced := s.me.ovlWaited } := by
  show execIfence h s = _
  exact State.runT_on on rfl

/-- Where XRET resumes (R345). -/
def ThreadSet.resumeAt (t : ThreadSet) (nx : Bool) : Nat := if nx then nextPos t.xrpc.toNat else t.xrpc.toNat

/-- The state once XRET has left the handler. -/
def State.leftHandler (s : State) : State := s.setTs s.who { s.me with xstat := s.me.xstat &&& ~~~1#32 }

/-- XRET enters no instruction: TARGET at its own position (R345). -/
def State.xretTarget (s : State) (nx : Bool) : Result :=
  .next { s.leftHandler.takeTrap s.who .target s.me.pc (BitVec.ofNat 32 (s.me.resumeAt nx)) s.me.pc with evt := 0x11 }

theorem exec_xret_of_outside (on : s.on h) (outside : s.me.inh = false) : exec (.xret h nx) s = s.traps .illegal 6 := by
  have on : (s.ts s.who).guard h = true := on
  have outside : (s.ts s.who).inh = false := outside
  show execXret h nx s = _
  unfold execXret
  simp only [on, outside, Bool.not_false, if_true]
  rfl

theorem exec_xret_of_line (on : s.on h) (inside : s.me.inh = true) (capsule : s.capsuleOf s.who = some c)
    (line : c.lineAt (s.me.resumeAt nx) = some l) (parity : lineParityOk l = true) : exec (.xret h nx) s =
      match lineBadEntry l with
      | some r => .next { s.leftHandler.takeTrap s.who .lineform (BitVec.ofNat 32 (s.me.resumeAt nx)) (BitVec.ofNat 32 r)
          (BitVec.ofNat 32 (s.me.resumeAt nx)) with evt := 0x11 }
      | none => if posOk (s.me.resumeAt nx) then s.leftHandler.goes (s.me.resumeAt nx) false else s.xretTarget nx := by
  have on : (s.ts s.who).guard h = true := on
  have inside : (s.ts s.who).inh = true := inside
  unfold ThreadSet.resumeAt State.me at line
  show execXret h nx s = _
  unfold execXret
  simp only [on, inside, capsule, Option.bind_some, line, parity, Bool.not_true, Bool.false_eq_true, if_true, if_false]
  rfl

theorem exec_xret_of_no_line (on : s.on h) (inside : s.me.inh = true) (capsule : s.capsuleOf s.who = some c)
    (past : c.lineAt (s.me.resumeAt nx) = none) : exec (.xret h nx) s = s.xretTarget nx := by
  have on : (s.ts s.who).guard h = true := on
  have inside : (s.ts s.who).inh = true := inside
  unfold ThreadSet.resumeAt State.me at past
  show execXret h nx s = _
  unfold execXret
  simp only [on, inside, capsule, Option.bind_some, past, Bool.not_true, Bool.false_eq_true, if_true, if_false]
  rfl

end Instructions

/-- Settles O8: each instruction by its own rule, XRET by the line that it would enter. -/
theorem trapInstructions : Obligations.TrapInstructions := by
  unfold Obligations.TrapInstructions
  refine fun s h imm nx on => ⟨exec_trap on imm, fun plain => ?plain, fun debugged => ?debugged, exec_xret_of_outside on,
    fun inside c capsule => ⟨fun l line parity => ⟨fun sound slot => ?goes, fun r bad => ?lineform, fun sound off => ?target⟩,
      fun past => exec_xret_of_no_line on inside capsule (List.getElem?_eq_none past)⟩, exec_ifence on⟩
  case plain => exact (exec_brk_of_on on imm).trans (if_neg (Bool.eq_false_iff.mp plain))
  case debugged =>
    refine ⟨_, (exec_brk_of_on on imm).trans (if_pos debugged), ?_, List.length_append⟩
    exact State.me_setTs (t := s) rfl _
  case goes =>
    rw [exec_xret_of_line on inside capsule line parity, sound]
    exact if_pos slot
  case lineform => rw [exec_xret_of_line on inside capsule line parity, bad]; rfl
  case target =>
    rw [exec_xret_of_line on inside capsule line parity, sound]
    exact if_neg (Bool.eq_false_iff.mp off)

end Sys2Proof.Machine
end

section
/-! CRD and the map of the control registers. -/
namespace Sys2Proof.Machine

section Reading
variable {s : State} {h : Hdr} {d : SReg} {reg : BitVec 10}

theorem exec_crd_narrow (on : s.on h) (open_ : s.needsTour reg.toNat = false) (narrow : regWide reg.toNat = false)
    (free : s.me.freeS d = .ok ()) :
    exec (.crd h d reg) s = s.becomes (s.me.putS d ((s.readReg reg.toNat).extractLsb' 0 32)) := by
  have free : (s.ts s.who).freeS d = .ok () := free
  show execCrd h d reg s = _
  exact State.run_on on (by simp only [open_, narrow, free, Bool.false_eq_true, if_false, bind, Except.bind]; rfl)

theorem exec_crd_wide (on : s.on h) (open_ : s.needsTour reg.toNat = false) (wide : regWide reg.toNat = true)
    (free : s.me.freeP (SReg.pair d) = .ok ()) :
    exec (.crd h d reg) s = s.becomes (s.me.putP (SReg.pair d) (s.readReg reg.toNat)) := by
  have free : (s.ts s.who).freeP (SReg.pair d) = .ok () := free
  show execCrd h d reg s = _
  exact State.run_on on (by simp only [open_, wide, free, Bool.false_eq_true, if_true, if_false, bind, Except.bind]; rfl)

theorem exec_crd_of_needsTour (on : s.on h) (closed : s.needsTour reg.toNat = true) :
    exec (.crd h d reg) s = s.traps .illegal 7 := by
  show execCrd h d reg s = _
  exact State.run_stops on (if_pos closed)

theorem State.needsTour_of_no_tour {n : Nat} (tours : n ∈ [0x030, 0x031, 0x032])
    (none : ∀ g, s.gangOf s.who = some g → g.tour = none) : s.needsTour n = true := by
  have outside : ((s.gangOf s.who).bind (·.tour)).isNone = true := by
    cases mine : s.gangOf s.who with
    | none => rfl
    | some g => simp [none g mine]
  simp only [List.mem_cons, List.not_mem_nil, or_false] at tours
  rcases tours with rfl | rfl | rfl <;> simpa [State.needsTour] using outside

end Reading

section Map
variable {s : State}

theorem getD_toList_fin {α : Type} {n : Nat} (v : Vector α n) (i : Fin n) (d : α) : v.toList.getD i.val d = v[i] := by
  simp

/-- What is read of the counts: a control word with FREEZE, and the halves of each count (R367, R368). -/
def Core.countReg (k : Core) (n : Nat) : DWord :=
  let set := (n - 0x100) / 0x40 % 4
  let off := (n - 0x100) % 0x40
  let v := (k.counters.toList.getD set (Vector.replicate 16 0)).toList.getD (off / 2) 0
  if off = 0 then if k.freeze.toList.getD set false then 2 else 0
  else if off % 2 = 0 then BitVec.ofNat 64 v else BitVec.ofNat 64 (v / 2 ^ 32)

theorem State.readReg_count {n : Nat} (low : 0x100 ≤ n) (high : n < 0x200) : s.readReg n = s.here.countReg n := by
  unfold State.readReg
  split
  case h_33 => rfl
  all_goals omega

theorem Core.countReg_control (k : Core) (t : Fin 4) : k.countReg (0x100 + 0x40 * t.val) = if k.freeze[t] then 2 else 0 := by
  have set : (0x100 + 0x40 * t.val - 0x100) / 0x40 % 4 = t.val := by omega
  have off : (0x100 + 0x40 * t.val - 0x100) % 0x40 = 0 := by omega
  simp only [Core.countReg, set, off, if_true, getD_toList_fin]

theorem Core.countReg_count (k : Core) (t : Fin 4) (e : Fin 16) (upper : Fin 2) (counted : e.val ≠ 0) :
    k.countReg (0x100 + 0x40 * t.val + 2 * e.val + upper.val) =
      BitVec.ofNat 64 (if upper.val = 0 then (k.counters[t])[e] else (k.counters[t])[e] / 2 ^ 32) := by
  have set : (0x100 + 0x40 * t.val + 2 * e.val + upper.val - 0x100) / 0x40 % 4 = t.val := by omega
  have off : (0x100 + 0x40 * t.val + 2 * e.val + upper.val - 0x100) % 0x40 = 2 * e.val + upper.val := by omega
  have event : (2 * e.val + upper.val) / 2 = e.val := by omega
  have half : (2 * e.val + upper.val) % 2 = upper.val := by omega
  have past : 2 * e.val + upper.val ≠ 0 := by omega
  have count : ((k.counters.toList.getD t.val (Vector.replicate 16 0)).toList.getD e.val 0) = (k.counters[t])[e] := by
    rw [getD_toList_fin, getD_toList_fin]
  simp only [Core.countReg, set, off, event, half, past, count, if_false]
  split <;> rfl

end Map

section Scopes
variable {s : State} {g : Gang} {c : Context}

/-- What is left of an allowance (R164): all ones for a rival that runs alone, else in units of 1,024 instructions. -/
theorem State.allowLeft_of_tour {id : Nat} {u : Tour} (tour : g.tour = some id) (found : s.tours.find id = some u) :
    s.allowLeft g = if u.solo then BitVec.allOnes 32 else BitVec.ofNat 32 ((u.allow0 * 1024 * 2 ^ u.k - g.count) / 1024) := by
  simp only [State.allowLeft, tour, Option.bind_some, found]

theorem State.readReg_allow (mine : s.gangOf s.who = some g) : s.readReg 0x031 = (s.allowLeft g).zeroExtend 64 := by
  show (s.gangOf s.who).elim 0 _ = _
  rw [mine]
  rfl

theorem State.readReg_score (mine : s.gangOf s.who = some g) : s.readReg 0x030 = (s.core g.corner).shared.score := by
  show (s.gangOf s.who).elim 0 _ = _
  rw [mine]
  rfl

theorem State.regContext_of_gang (compute : s.who.core.kind = .compute) (mine : s.gangOf s.who = some g)
    (ctx : s.ctx g.ctx = some c) : s.regContext = some c := by
  unfold State.regContext State.regCtx
  cases who : s.who.core with
  | compute x y => simp only [mine, Option.map_some, Option.bind_some, ctx]
  | memory k n => rw [who] at compute; cases compute
  | control n => rw [who] at compute; cases compute

theorem State.regContext_of_control (control : s.who.core.kind = .control) (ctx : s.ctx (s.kctx.toNat % 65536) = some c) :
    s.regContext = some c := by
  unfold State.regContext State.regCtx
  cases who : s.who.core with
  | compute x y => rw [who] at control; cases control
  | memory k n => rw [who] at control; cases control
  | control n => exact ctx

theorem State.readReg_depcount (mine : s.regContext = some c) : s.readReg 0x038 = c.depcount.zeroExtend 64 := by
  show s.regContext.elim 0 _ = _
  rw [mine]
  rfl

theorem State.readReg_kctl (mine : s.regContext = some c) : s.readReg 0x201 = c.kctl.zeroExtend 64 := by
  show s.regContext.elim 0 _ = _
  rw [mine]
  rfl

/-- A register that a memory task reads of its gang, its set or its frame is the core's or the set's own elsewhere. -/
theorem State.own_of_not_memory (other : s.who.core.isMemory = false) (task own : Word) :
    (if s.who.core.isMemory = true then task else own).setWidth 64 = own.zeroExtend 64 := by
  rw [if_neg (Bool.eq_false_iff.mp other)]

theorem State.readReg_of_not_memory (other : s.who.core.isMemory = false) :
    s.readReg 0x010 = s.me.tidx.zeroExtend 64 ∧ s.readReg 0x012 = s.here.gdim.zeroExtend 64 ∧
      s.readReg 0x013 = s.here.brect.zeroExtend 64 ∧ s.readReg 0x014 = s.here.sstep.zeroExtend 64 ∧
      s.readReg 0x032 = s.here.round.zeroExtend 64 :=
  ⟨State.own_of_not_memory other .., State.own_of_not_memory other .., State.own_of_not_memory other ..,
    State.own_of_not_memory other .., State.own_of_not_memory other ..⟩

end Scopes

/-- Settles O9: each register by its case of the map, the counts by what a control word and a half of a count read. -/
theorem readControl : Obligations.ReadControl := by
  unfold Obligations.ReadControl
  refine ⟨fun s h d reg on => ⟨exec_crd_narrow on, exec_crd_wide on, fun tours none =>
    exec_crd_of_needsTour on (State.needsTour_of_no_tour tours none)⟩, fun s other => ?map⟩
  obtain ⟨tidx, gdim, brect, sstep, round⟩ := s.readReg_of_not_memory other
  refine ⟨rfl, rfl, rfl, rfl, rfl, rfl, tidx, rfl, gdim, brect, sstep, rfl, rfl, rfl, rfl, rfl, rfl, rfl, rfl, BitVec.toNat_ofNat ..,
    ⟨rfl, rfl, rfl, rfl, rfl, rfl⟩, round, rfl, fun g mine => ⟨State.readReg_score mine, fun id u tour found => ⟨fun solo => ?solo,
      fun shared => ?shared⟩⟩, fun g c compute mine ctx => State.readReg_depcount (State.regContext_of_gang compute mine ctx),
    fun c control ctx => ⟨State.readReg_depcount (State.regContext_of_control control ctx),
      State.readReg_kctl (State.regContext_of_control control ctx)⟩, fun t => ⟨?controlWord, fun e counted => ⟨?low, ?high⟩⟩⟩
  case solo =>
    rw [State.readReg_allow mine, State.allowLeft_of_tour tour found, if_pos solo]
    rfl
  case shared =>
    rw [State.readReg_allow mine, State.allowLeft_of_tour tour found, if_neg (Bool.eq_false_iff.mp shared)]
    simp only [BitVec.toNat_setWidth, BitVec.toNat_ofNat]
    omega
  case controlWord =>
    rw [State.readReg_count (by omega) (by omega), Core.countReg_control]
  case low =>
    rw [State.readReg_count (by omega) (by omega)]
    exact s.here.countReg_count t e 0 counted
  case high =>
    rw [State.readReg_count (by omega) (by omega)]
    exact s.here.countReg_count t e 1 counted
end Sys2Proof.Machine
end

section
/-! WAIT, CAPBUILD, and the instructions of a tournament. -/
namespace Sys2Proof.Machine

section Waiting
variable {s : State} {h : Hdr} {d : SReg} {a b : SPair} {imm : Imm} {bound : BitVec 20}

/-- A WAIT that begins now: what it waits for (R353). -/
def State.waitFor (s : State) (h : Hdr) (d : SReg) (a b : SPair) (addr : Nat) (y : DWord) (bound : BitVec 20) : WaitFor where
  addr := addr
  cmp := y
  hit := false
  d := d
  deadline := if bound = 0 then none else some (s.now + 64 * bound.toNat)
  markA := if h.dmA then some a else none
  markB := if h.dmB then some b else none

theorem ThreadSet.finishWait_waitFor (t : ThreadSet) (addr : Nat) (y : DWord) (v : Word) :
    t.finishWait (s.waitFor h d a b addr y bound) v = { ((t.killP h.dmA a).killP h.dmB b).putS d v with run := .ready } := by
  unfold ThreadSet.finishWait State.waitFor
  cases h.dmA <;> cases h.dmB <;> rfl

theorem ThreadSet.finishWait_leaves (t : ThreadSet) (f : WaitFor) (v : Word) :
    (t.finishWait f v).run = .ready ∧ (t.finishWait f v).s = t.s.set f.d v := by
  unfold ThreadSet.finishWait
  cases f.markA <;> cases f.markB <;> simp [ThreadSet.putS]

/-- A WAIT that begins: its word is read, and either differs or is waited for (R353). -/
theorem exec_wait_of_ready {x y : DWord} {bs : List Byte} (on : s.on h) (ready : s.me.run = .ready) (base : s.me.readP a = .ok x)
    (value : s.me.readP b = .ok y) (free : s.me.freeS d = .ok ()) (hal : ea x imm 0 % 8 = 0)
    (within : s.access s.who [(ea x imm 0, 8)] = .ok ()) (word : s.loadBytes s.who (ea x imm 0).toNat 8 = .ok bs) :
    exec (.wait h d a b imm bound) s =
      if BitVec.ofNat 64 (leNat bs) ≠ y then
        s.becomes (s.me.finishWait (s.waitFor h d a b (ea x imm 0).toNat y bound) 0)
      else .next (s.stopped (.hold (.atWait (s.waitFor h d a b (ea x imm 0).toNat y bound)))) := by
  have ready : (s.ts s.who).run = .ready := ready
  have base : (s.ts s.who).readP a = .ok x := base
  have value : (s.ts s.who).readP b = .ok y := value
  have free : (s.ts s.who).freeS d = .ok () := free
  have on : (s.ts s.who).guard h = true := on
  show execWait h d a b imm bound s = _
  unfold execWait State.run
  simp only [on, ready, base, value, free, aligned_of_mod hal, within, word, bind, Except.bind, if_true]
  by_cases differs : BitVec.ofNat 64 (leNat bs) ≠ y
  · simp only [if_pos differs]
    rfl
  · simp only [if_neg differs]
    rfl

theorem exec_wait_of_waits {f : WaitFor} (on : s.on h) (waits : s.me.run = .atWait f) {v : Word}
    (ends : if f.hit then v = 0 else past s.now f.deadline = true ∧ v = 1) :
    exec (.wait h d a b imm bound) s = s.becomes (s.me.finishWait f v) := by
  have waits : (s.ts s.who).run = .atWait f := waits
  have on : (s.ts s.who).guard h = true := on
  show execWait h d a b imm bound s = _
  unfold execWait State.run
  simp only [on, waits, if_true]
  cases hit : f.hit with
  | true =>
    obtain rfl : v = 0 := by simpa [hit] using ends
    rfl
  | false =>
    obtain ⟨due, rfl⟩ : past s.now f.deadline = true ∧ v = 1 := by simpa [hit] using ends
    simp only [due, Bool.false_eq_true, if_false, if_true]
    rfl

end Waiting

section Building

theorem State.ts_modCtx (s : State) (c : Nat) (f : Context → Context) (w : Who) : (s.modCtx c f).ts w = s.ts w := by
  unfold State.modCtx
  split <;> rfl

variable {s : State} {h : Hdr} {d a : SReg} {x : Word} {n : Nat} {c : Capsule}

theorem exec_capbuild_of_control (core : s.who.core = .control n) (on : s.on h) (has : s.me.has1 d a x) :
    (let r := s.requestBuild (s.kctx.toNat % 65536) x.toNat
    exec (.capbuild h d a) s = (r.2.modTs s.who fun t => (t.killS h.dmA a).putS d (BitVec.ofNat 32 r.1)).done) := by
  obtain ⟨read, free⟩ := has
  have read : (s.ts s.who).readS a = .ok x := read
  have free : (s.ts s.who).freeS d = .ok () := free
  have on : (s.ts s.who).guard h = true := on
  show execCapbuild h d a s = _
  unfold execCapbuild State.run
  rw [core]
  simp only [on, read, free, bind, Except.bind, if_true]
  rfl

theorem exec_capbuild_of_other (other : ∀ n, s.who.core ≠ .control n) : exec (.capbuild h d a) s = s.traps .privilege 0 := by
  show execCapbuild h d a s = _
  unfold execCapbuild
  split
  next n core => exact absurd core (other n)
  · rfl

theorem State.requestBuild_of_some {ctx k : Nat} (found : s.capsule ctx k = some c) (shown : c.withheld = false) :
    s.requestBuild ctx k = ((buildRequest c).1, s.modCapsule ctx k fun c => (buildRequest c).2) := by
  simp only [State.requestBuild, found, shown, Bool.false_eq_true, if_false]

/-- A request to build a capsule that is found changes the capsule alone. -/
theorem exec_capbuild_of_found (core : s.who.core = .control n) (on : s.on h) (has : s.me.has1 d a x)
    (found : s.capsule (s.kctx.toNat % 65536) x.toNat = some c) (shown : c.withheld = false) :
    ∃ t : State, exec (.capbuild h d a) s = t.becomes ((s.me.killS h.dmA a).putS d (BitVec.ofNat 32 (buildRequest c).1)) := by
  have asked := exec_capbuild_of_control core on has
  rw [State.requestBuild_of_some found shown] at asked
  refine ⟨s.modCapsule (s.kctx.toNat % 65536) x.toNat fun c => (buildRequest c).2, asked.trans ?_⟩
  simp only [State.becomes, State.modTs_eq, State.modCapsule, State.modCtx_who, State.ts_modCtx]
  rfl

end Building

section Tournament
variable {s : State} {h : Hdr} {d : SReg} {g : Nat} {x : Gang}

theorem State.gangOf_of_gang (mine : s.gangId s.who = some g) (gang : s.gang g = some x) : s.gangOf s.who = some x := by
  rw [State.gangOf, mine, Option.bind_some, gang]

theorem exec_tround_of_tour (on : s.on h) (mine : s.gangOf s.who = some x) (tour : x.tour.isSome = true)
    (free : s.me.freeS d = .ok ()) : exec (.tround h d) s = s.becomes (s.me.putS d x.word) := by
  have free : (s.ts s.who).freeS d = .ok () := free
  have some : x.tour.isNone = false := by rw [← Option.not_isSome, tour]; rfl
  show execTround h d s = _
  exact State.run_on on (by simp only [mine, some, Bool.false_eq_true, if_false, free, bind, Except.bind]; rfl)

theorem exec_tround_of_no_tour (on : s.on h) (mine : s.gangOf s.who = some x) (none : x.tour = none) :
    exec (.tround h d) s = s.traps .illegal 7 := by
  show execTround h d s = _
  exact State.run_stops on (by simp only [mine, none, Option.isNone_none, if_true])

theorem exec_tdone_of_tour {id : Nat} (fin : Bool) (on : s.on h) (there : s.gangId s.who = some g)
    (mine : s.gangOf s.who = some x) (tour : x.tour = some id) : exec (.tdone h fin) s = (s.modGang g fun x =>
      if x.rival = .running ∨ x.rival = .closing then { x with rival := .closing, final := x.final || fin } else x).done := by
  show execTdone h fin s = _
  exact State.run_on on (by simp only [there, mine, Option.bind_some, tour])

theorem exec_tdone_of_no_tour (fin : Bool) (on : s.on h) (there : s.gangId s.who = some g) (mine : s.gangOf s.who = some x)
    (none : x.tour = none) : exec (.tdone h fin) s = s.traps .illegal 7 := by
  show execTdone h fin s = _
  exact State.run_stops on (by simp only [there, mine, Option.bind_some, none])

end Tournament

/-- Settles O11: a WAIT by how it stands, CAPBUILD by its core and its capsule, TDONE and TROUND by whether a tournament
runs. -/
theorem waitsAndRequests : Obligations.WaitsAndRequests := by
  unfold Obligations.WaitsAndRequests
  refine ⟨fun s h d a b imm bound on => ⟨fun x y bs ready base value free hal within word => ?begins,
    fun f waits => ⟨fun hit => ?met, fun unmet due => ?bound⟩⟩, fun s h d a x => ⟨fun n core on has => ?control,
    exec_capbuild_of_other⟩, fun s h d fin g x on there gang => ?tournament⟩
  case begins =>
    have wait := exec_wait_of_ready (bound := bound) on ready base value free hal within word
    refine ⟨fun differs => ?_, fun same => ⟨_, rfl, rfl, rfl, rfl, wait.trans (if_neg (not_not_intro same))⟩⟩
    rw [wait, if_pos differs, ThreadSet.finishWait_waitFor]
  case met =>
    obtain ⟨run, regs⟩ := s.me.finishWait_leaves f 0
    exact ⟨_, run, regs, exec_wait_of_waits on waits (by rw [hit]; rfl)⟩
  case bound =>
    obtain ⟨run, regs⟩ := s.me.finishWait_leaves f 1
    exact ⟨_, run, regs, exec_wait_of_waits on waits (by rw [unmet]; exact ⟨due, rfl⟩)⟩
  case control =>
    refine ⟨exec_capbuild_of_control core on has, fun unknown => ?_, fun c found shown native => ?_,
      fun c found shown portable built idle => ?_⟩
    · rw [exec_capbuild_of_control core on has]
      simp only [State.requestBuild, unknown]
      rfl
    · obtain ⟨t, asked⟩ := exec_capbuild_of_found core on has found shown
      exact ⟨t, asked.trans (by simp only [buildRequest, native]; rfl)⟩
    · obtain ⟨t, asked⟩ := exec_capbuild_of_found core on has found shown
      exact ⟨t, asked.trans (by simp only [buildRequest, portable, built, idle, Bool.false_eq_true, if_false]; rfl)⟩
  case tournament =>
    have mine := State.gangOf_of_gang there gang
    refine ⟨fun tour free => ⟨exec_tround_of_tour on mine tour free, ?_⟩,
      fun none => ⟨exec_tround_of_no_tour on mine none, exec_tdone_of_no_tour fin on there mine none⟩⟩
    obtain ⟨id, tour⟩ := Option.isSome_iff_exists.mp tour
    exact exec_tdone_of_tour fin on there mine tour
end Sys2Proof.Machine
end

section
/-! Engine posts: how a command that is read and passes its checks is taken. -/
namespace Sys2Proof.Machine

section Posting
variable {s : State} {h : Hdr} {d a : SPair} {imm : Imm} {gid cmd : Nat} {g : Gang} {c : Context} {bs : List Byte}

theorem engineFull_of_room {n : Nat} (room : n < 16) : engineFull n = .ok () :=
  if_neg (Nat.not_le.mpr room)

/-- A command that is read had its address read (R331). -/
theorem State.readP_of_command {size : Nat} (read : s.command a imm size = .ok (cmd, bs)) : ∃ x, s.me.readP a = .ok x := by
  show ∃ x, (s.ts s.who).readP a = .ok x
  unfold State.command at read
  cases base : (s.ts s.who).readP a with
  | ok x => exact ⟨x, rfl⟩
  | error e =>
    rw [base] at read
    cases read

/-- An accepted post returns its number and marks its address (R331). -/
def State.given (s : State) (h : Hdr) (d a : SPair) (t : State) (n : Nat) : Result :=
  (t.modTs s.who fun u => (u.killP h.dmA a).putP d (BitVec.ofNat 64 n)).done

/-- The posts of an engine that the poster holds: copies. -/
def State.heldCopies (s : State) (gid : Nat) : Nat :=
  (s.copies.filter fun j => j.gang == some gid && j.poster == some (s.who.core, s.who.t.val)).length

section Copying
variable (on : s.on h) (there : s.gangId s.who = some gid) (mine : s.gangOf s.who = some g) (ctx : s.ctx g.ctx = some c)
  (free : s.me.freeP d = .ok ()) (read : s.command a imm 40 = .ok (cmd, bs))
include on there mine ctx free read

theorem exec_cpypost_of_bad {i : Nat} (bad : c.copyBad bs = some i) :
    exec (.cpypost h d a imm) s = s.traps .prot (BitVec.ofNat 32 (cmd + 4 * i)) := by
  have free : (s.ts s.who).freeP d = .ok () := free
  show execCpypost h d a imm s = _
  exact State.run_stops on (by simp only [free, read, there, mine, ctx, bad, bind, Except.bind]; rfl)

theorem exec_cpypost_of_sealed {x : Nat} (good : c.copyBad bs = none) (sealed_ : c.sealed bs = some x) :
    exec (.cpypost h d a imm) s = s.traps .bodysealed (BitVec.ofNat 32 x) := by
  have free : (s.ts s.who).freeP d = .ok () := free
  show execCpypost h d a imm s = _
  exact State.run_stops on (by simp only [free, read, there, mine, ctx, good, sealed_, bind, Except.bind])

theorem exec_cpypost_of_good (good : c.copyBad bs = none) (open_ : c.sealed bs = none) (room : s.heldCopies gid < 16) :
    (let n := (s.queue g.ctx g.q).elim 0 (·.copyCount) + 1
    exec (.cpypost h d a imm) s = s.given h d a (s.startCopy { copyJobOf bs s.nextId g.ctx g.q n (some gid) g.idx s.me.pc
      (some (s.who.core, s.who.t.val)) with tour := g.tour }) n) := by
  have free : (s.ts s.who).freeP d = .ok () := free
  have room := engineFull_of_room room
  unfold State.heldCopies at room
  show execCpypost h d a imm s = _
  exact State.run_on on (by simp only [free, read, there, mine, ctx, good, open_, room, bind, Except.bind]; rfl)

end Copying

/-- A job to load the lines that a command names. -/
def State.overlayJob (s : State) (gid x y : Nat) (bs : List Byte) : OverlayJob where
  id := s.nextId
  gang := gid
  x := x
  y := y
  number := (s.core (.compute x y)).overlayCount + 1
  line := cmdWord bs 0 / 64
  lines := cmdWord bs 1 % 65536
  poster := s.who.core
  ts := s.who.t.val
  finished := false

theorem exec_ovlpost_of_good {x y : Nat} (on : s.on h) (there : s.gangId s.who = some gid) (free : s.me.freeP d = .ok ())
    (read : s.command a imm 16 = .ok (cmd, bs))
    (good : s.overlayBad ((s.capsuleOf s.who).elim 0 (·.lines.length)) bs = none)
    (core : s.coreNamed s.who (cmdWord bs 2 % 256) (cmdWord bs 2 / 256 % 256) = some (x, y))
    (room : (s.overlays.filter fun o => o.gang == gid && o.poster == s.who.core && o.ts == s.who.t.val).length < 16) :
    exec (.ovlpost h d a imm) s = s.given h d a ({ s with
      overlays := s.overlays ++ [s.overlayJob gid x y bs], nextId := s.nextId + 1 }.modCore (.compute x y) fun k => { k with
        overlayCount := (s.core (.compute x y)).overlayCount + 1 }) ((s.core (.compute x y)).overlayCount + 1) := by
  have free : (s.ts s.who).freeP d = .ok () := free
  have room := engineFull_of_room room
  show execOvlpost h d a imm s = _
  exact State.run_on on (by simp only [free, read, good, there, core, room, bind, Except.bind]; rfl)

/-- The post that a work request makes (R334, R335). -/
def State.netPost (s : State) (gid : Nat) (g : Gang) (n : Nat) (bs : List Byte) : Post where
  number := n
  gang := gid
  q := g.q
  idx := g.idx
  poster := s.who.core
  ts := s.who.t.val
  step := if s.who.core.isMemory then s.me.sstep else s.here.sstep
  opc := cmdWord bs 0 % 16
  aop := cmdWord bs 0 / 16 % 16
  elem := cmdWord bs 0 / 256 % 8
  ccnt := cmdWord bs 1 % 65536
  rcnt := cmdWord bs 10 % 65536
  peer := cmdWord bs 2
  rkey := cmdWord bs 3
  roff := fieldAt bs 16 8
  laddr := cmdWord bs 6 % 2 ^ 24
  len := cmdWord bs 7 % 2 ^ 17
  opnd := BitVec.ofNat 64 (fieldAt bs 32 8)
  src := if cmdWord bs 0 % 16 == 2 then [] else s.here.store.readN (cmdWord bs 6 % 2 ^ 24) (cmdWord bs 7 % 2 ^ 17)
  read := cmdWord bs 0 % 16 == 2
  released := false
  ended := false
  tries := []
  tour := g.tour

theorem State.modCtx_of_ctx {n : Nat} (ctx : s.ctx n = some c) (f : Context → Context) :
    s.modCtx n f = { s with contexts := s.contexts.put n (f c) } := by
  simp only [State.modCtx, ctx]

theorem exec_nwpost_of_good (on : s.on h) (there : s.gangId s.who = some gid) (mine : s.gangOf s.who = some g)
    (ctx : s.ctx g.ctx = some c) (free : s.me.freeP d = .ok ()) (read : s.command a imm 48 = .ok (cmd, bs))
    (good : netBad bs = none)
    (within : cmdWord bs 0 % 16 ≠ 2 → s.access s.who [((cmdWord bs 6 % 2 ^ 24 : Nat), cmdWord bs 7 % 2 ^ 17)] = .ok ())
    (room : (c.posts.filter fun p => p.gang == gid && p.poster == s.who.core && p.ts == s.who.t.val).length < 16) :
    exec (.nwpost h d a imm) s = s.given h d a (s.modCtx g.ctx fun x => { x with
      netCount := x.netCount + 1, posts := x.posts ++ [s.netPost gid g (c.netCount + 1) bs] }) (c.netCount + 1) := by
  have free : (s.ts s.who).freeP d = .ok () := free
  have room := engineFull_of_room room
  show execNwpost h d a imm s = _
  refine State.run_on on (t := (s.modCtx g.ctx fun x => { x with
    netCount := c.netCount + 1, posts := x.posts ++ [s.netPost gid g (c.netCount + 1) bs] }).modTs s.who fun u =>
      (u.killP h.dmA a).putP d (BitVec.ofNat 64 (c.netCount + 1))) (nx := .seq) ?_ |>.trans ?_
  · simp only [free, read, good, there, mine, ctx, Option.elim_some, room, bind, Except.bind, State.netPost]
    split
    · rfl
    next put =>
      rw [within (by simpa using put)]
      rfl
  · simp only [State.modCtx_of_ctx ctx]
    rfl

/-- The record that QPOST would post. -/
def State.queuePost (s : State) (gid : Nat) (g : Gang) (q : Nat) (bs : List Byte) : QPost where
  id := s.nextId
  ctx := g.ctx
  q := q
  gang := gid
  poster := s.who.core
  ts := s.who.t.val
  record := bs

theorem exec_qpost_of_command {e b : SReg} {q : Word} (on : s.on h) (there : s.gangId s.who = some gid)
    (mine : s.gangOf s.who = some g) (free : s.me.freeS e = .ok ()) (queue : s.me.readS b = .ok q)
    (read : s.command a imm 64 = .ok (cmd, bs)) :
    (let st := s.qpostStatus g.ctx q.toNat
    let t := if st = 0 then { s with qposts := s.qposts ++ [s.queuePost gid g q.toNat bs], nextId := s.nextId + 1 } else s
    exec (.qpost h e a b imm) s = (t.modTs s.who fun u =>
      ((u.killP h.dmA a).killS h.dmB b).putS e (BitVec.ofNat 32 st)).done) := by
  obtain ⟨x, base⟩ := State.readP_of_command read
  have base : (s.ts s.who).readP a = .ok x := base
  have queue : (s.ts s.who).readS b = .ok q := queue
  have free : (s.ts s.who).freeS e = .ok () := free
  show execQpost h e a b imm s = _
  exact State.run_on on (by simp only [base, queue, free, read, there, mine, bind, Except.bind]; rfl)

end Posting

/-- Settles O35: each post by its command, read, checked and taken. -/
theorem enginePosts : Obligations.EnginePosts := by
  unfold Obligations.EnginePosts
  refine fun s h d a e b imm gid g c cmd bs q on there mine ctx freeP freeS queue => ⟨fun read => ⟨fun i =>
    exec_cpypost_of_bad on there mine ctx freeP read, fun good x => exec_cpypost_of_sealed on there mine ctx freeP read good,
      exec_cpypost_of_good on there mine ctx freeP read⟩, fun x y => exec_ovlpost_of_good on there freeP,
    fun read good within room => ⟨s.netPost gid g (c.netCount + 1) bs, rfl, rfl, rfl, rfl, rfl, rfl, rfl, rfl, rfl, rfl, rfl,
      exec_nwpost_of_good on there mine ctx freeP read good within room⟩,
    exec_qpost_of_command on there mine freeS queue⟩

end Sys2Proof.Machine
end

section
/-! The ends of engine work: copies, overlay loads, and the engines' reads of their sources. -/
namespace Sys2Proof.Machine

section Copies
variable {s : State} {id : Nat}

/-- Nothing holds a copy back: the bytes of its ranges have drained, no page that migrated when it was accepted still does,
and its source holds no poison (R143, R442, R446). -/
structure State.CopyReady (s : State) (j : CopyJob) (c : Context) : Prop where
  source : j.sk = 0 → j.src = none → s.undrained j.ctx j.saddr j.len = false ∧ s.globalPoison j.ctx j.saddr j.len = false
  target : j.dk = 0 → s.undrained j.ctx j.daddr j.len = false
  digest : j.dig = true → s.undrained j.ctx j.digaddr 32 = false
  moved : j.late.any c.migrating = false

theorem State.CopyReady.unread {j : CopyJob} {c : Context} (ready : s.CopyReady j c) :
    (j.sk == 0 && j.src.isNone && s.undrained j.ctx j.saddr j.len) = false ∧
      (j.sk == 0 && j.src.isNone && s.globalPoison j.ctx j.saddr j.len) = false := by
  cases unread : (j.sk == 0 && j.src.isNone) with
  | false => exact ⟨rfl, rfl⟩
  | true =>
    simp only [Bool.and_eq_true, beq_iff_eq, Option.isNone_iff_eq_none] at unread
    exact ready.source unread.1 unread.2

theorem State.CopyReady.unheld {j : CopyJob} {c : Context} (ready : s.CopyReady j c) :
    ((j.sk == 0 && j.src.isNone && s.undrained j.ctx j.saddr j.len) || (j.dk == 0 && s.undrained j.ctx j.daddr j.len)
      || (j.dig && s.undrained j.ctx j.digaddr 32)) = false := by
  have target : (j.dk == 0 && s.undrained j.ctx j.daddr j.len) = false := by
    cases global : (j.dk == 0) with
    | false => rfl
    | true => exact ready.target (by simpa using global)
  have digest : (j.dig && s.undrained j.ctx j.digaddr 32) = false := by
    cases dig : j.dig with
    | false => rfl
    | true => exact ready.digest dig
  rw [ready.unread.1, target, digest]
  rfl

theorem exec_copyComplete_of_ready {e : CopyEnd} {j : CopyJob} {c : Context}
    (found : s.copies.find? (fun j => j.id == id && !j.finished) = some j) (ctx : s.ctx j.ctx = some c)
    (ends : j.endOk e = true) (ready : s.CopyReady j c) (goes : j.stop c e = none) :
    exec (.copyComplete id e) s = .next (s.copyDone j (j.src.getD (s.copySource j (copyOutside e)))) := by
  show execCopyComplete id e s = _
  unfold execCopyComplete
  simp only [found, ctx, ready.unheld, ready.unread.2, ready.moved, ends, goes, Bool.not_true, Bool.or_self,
    Bool.false_eq_true, if_false]

theorem exec_engineSourceRead_copy {j : CopyJob} {outside : List Byte}
    (found : s.copies.find? (fun x => x.id == id && x.ctx == j.ctx && !x.finished) = some j) :
    exec (.engineSourceRead j.ctx (.copy id outside)) s = .next (s.readCopy j outside) := by
  show execEngineSourceRead j.ctx (.copy id outside) s = _
  unfold execEngineSourceRead
  simp only [found]

theorem State.readCopy_of_readable {j : CopyJob} {c : Context} {outside : List Byte} (unread : j.src = none)
    (ctx : s.ctx j.ctx = some c) (bytes : outside.length = if j.sk = 0 then 0 else j.len)
    (ready : j.sk = 0 → c.copyStop j.saddr j.len false = none ∧ s.undrained j.ctx j.saddr j.len = false ∧
      s.globalPoison j.ctx j.saddr j.len = false) :
    s.readCopy j outside = { s with copies := s.copies.map fun (x : CopyJob) =>
      if x.id = j.id then { x with src := some (s.copySource j outside) } else x } := by
  have goes : (j.sk == 0 && ((s.ctx j.ctx).bind fun c => c.copyStop j.saddr j.len false).isSome) = false := by
    cases global : (j.sk == 0) with
    | false => rfl
    | true => simp [ctx, (ready (by simpa using global)).1]
  have clean : (j.sk == 0 && (s.undrained j.ctx j.saddr j.len || s.globalPoison j.ctx j.saddr j.len)) = false := by
    cases global : (j.sk == 0) with
    | false => rfl
    | true => simp [(ready (by simpa using global)).2]
  simp only [State.readCopy, unread, goes, clean, bytes, Option.isSome_none, Bool.or_self, bne_self_eq_false, Bool.false_eq_true,
    if_false]

end Copies

section Overlays
variable {s : State} {id : Nat} {o : OverlayJob} {g : Gang} {k : Capsule}

theorem exec_overlayLoadComplete_of_clean (found : s.overlays.find? (fun o => o.id == id && !o.finished) = some o)
    (holds : (s.core (.compute o.x o.y)).gang = some o.gang) (gang : s.gang o.gang = some g)
    (capsule : s.capsule g.ctx g.capsule = some k)
    (clean : s.codePoison g.ctx k (k.runId (s.core (.compute o.x o.y)).ts[0].native) o.line o.lines = none) :
    ∃ t, exec (.overlayLoadComplete id) s = .next t ∧ t.core (.compute o.x o.y) =
      ((List.range o.lines).foldl (fun u i =>
        u.install (k.tagOf (k.runId (s.core (.compute o.x o.y)).ts[0].native) (o.line + i) o.number))
          (s.core (.compute o.x o.y))).settleOverlay o.number := by
  show ∃ t, execOverlayLoadComplete id s = .next t ∧ _
  unfold execOverlayLoadComplete
  simp only [found, holds, gang, capsule, Option.bind_some, clean, ne_eq, not_true_eq_false, if_false]
  exact ⟨_, rfl, (State.core_compute_congr (s := s.modCore _ _) rfl o.x o.y).trans (s.core_modCore_same ..)⟩

end Overlays

section NetworkPosts
variable {s : State} {ctx id : Nat} {c : Context} {p : Post}

/-- The bytes that the network engine reads for a post: each as it was accepted, or as it stands now (R331). -/
def State.postBytes (s : State) (p : Post) : List Byte :=
  p.src.zipIdx.map fun e =>
    if Config.seesOld s.tick ((p.laddr + e.2) / 8) then e.1 else (s.core p.poster).store.read (p.laddr + e.2)

theorem State.postBytes_getElem? (i : Nat) (h : i < (s.postBytes p).length) : (s.postBytes p)[i]? = p.src[i]? ∨
    (s.postBytes p)[i]? = some ((s.core p.poster).store.read (p.laddr + i)) := by
  have within : i < p.src.length := by simpa [State.postBytes] using h
  simp only [State.postBytes, List.getElem?_map, List.getElem?_zipIdx, List.getElem?_eq_getElem within, Option.map_some,
    Nat.zero_add]
  split
  · exact .inl rfl
  · exact .inr rfl

theorem State.readPost_of_clean (clean : (s.core p.poster).poison = [])
    (quiet : ∀ g, s.gang p.gang = some g → g.readInject s p.poster p.laddr p.len = none) :
    s.readPost ctx p = (s.modCtx ctx fun c => { c with
      posts := c.posts.map fun (x : Post) => if x.number = p.number then { p with src := s.postBytes p, read := true } else x }).depart
        ctx { p with src := s.postBytes p, read := true } := by
  have sound : (s.core p.poster).poisoned p.laddr p.len = false := by
    rw [Core.poisoned, clean]
    rfl
  have hit : ((s.gang p.gang).bind fun g => (g.readInject s p.poster p.laddr p.len).map fun i => (i, g.injectWord i)) = none := by
    cases gang : s.gang p.gang with
    | none => rfl
    | some g => simp [quiet g gang]
  simp only [State.readPost, sound, hit, Option.isSome_none, Bool.or_self, Bool.false_eq_true, if_false]
  rfl

theorem exec_engineSourceRead_network (there : s.ctx ctx = some c)
    (found : c.posts.find? (fun p => p.number == id && !p.read) = some p) :
    exec (.engineSourceRead ctx (.network id)) s = .next (s.readPost ctx p) := by
  show execEngineSourceRead ctx (.network id) s = _
  unfold execEngineSourceRead
  simp only [there, Option.bind_some, found]

end NetworkPosts

/-- Settles O36: each end of engine work where nothing holds it back. -/
theorem engineEvents : Obligations.EngineEvents := by
  unfold Obligations.EngineEvents
  refine fun s id => ⟨fun e j c found ctx ends source target digest moved goes => ?copy,
    fun o g k found holds gang capsule clean => exec_overlayLoadComplete_of_clean found holds gang capsule clean,
    fun ctx c p there found clean quiet => ?post, fun j c outside found unread ctx bytes ready => ?read⟩
  case copy =>
    rw [exec_copyComplete_of_ready found ctx ends ⟨source, target, digest, moved⟩ goes]
    simp only [State.copyDone]
    cases j.gang <;> rfl
  case post =>
    obtain rfl : p.number = id := by
      have named := List.find?_some found
      simp only [Bool.and_eq_true, beq_iff_eq] at named
      exact named.1
    refine ⟨s.postBytes p, by simp [State.postBytes], State.postBytes_getElem?, ?_⟩
    rw [exec_engineSourceRead_network there found, State.readPost_of_clean clean quiet]
  case read =>
    obtain rfl : j.id = id := by
      have named := List.find?_some found
      simp only [Bool.and_eq_true, beq_iff_eq] at named
      exact named.1.1
    rw [exec_engineSourceRead_copy found, State.readCopy_of_readable unread ctx bytes ready]

end Sys2Proof.Machine
end

section
/-! Requests that firmware answers, and the install, removal and building of capsules. -/
namespace Sys2Proof.Machine

section Requests
variable {s t : State} {ctx : Nat} {c : Context}

theorem State.fnOf_of_ctx (there : s.ctx ctx = some c) : s.fnOf ctx = c.fn := by
  rw [State.fnOf, there]
  rfl

/-- A request that firmware takes is answered on the function of its context (R453, R454). -/
theorem State.request_of_ok (serves : s.serving = true) (there : s.ctx ctx = some c) {r : Except Nat State} (ok : r = .ok t) :
    s.request ctx r = .next (t.answer c.fn fun n => .status n 0) := by
  simp only [State.request, serves, ok, State.fnOf_of_ctx there, Bool.not_true, Bool.false_eq_true, if_false]

theorem State.request_of_error (serves : s.serving = true) (there : s.ctx ctx = some c) {r : Except Nat State} {e : Nat}
    (refused : r = .error e) : s.request ctx r = .next (s.answer c.fn fun n => .status n e) := by
  simp only [State.request, serves, refused, State.fnOf_of_ctx there, Bool.not_true, Bool.false_eq_true, if_false]

end Requests

section Installing
variable {s : State} {ctx : Nat} {c : Context} {bs : List Byte} {test : Bool} {o : Obj}

theorem exec_install_of_form (serves : s.serving = true) (there : s.ctx ctx = some c) (bad : parseObject bs = none) :
    exec (.install ctx bs test) s = .next (s.answer c.fn fun n => .status n 1) := by
  show execInstall ctx bs test s = _
  simp only [execInstall, serves, there, bad, State.fnOf_of_ctx there, Bool.not_true, Bool.false_eq_true, if_false]

theorem exec_install_of_error (serves : s.serving = true) (there : s.ctx ctx = some c) (form : parseObject bs = some o)
    (bad : s.objectError o test ≠ 0) :
    exec (.install ctx bs test) s = .next (s.answer c.fn fun n => .status n (s.objectError o test)) := by
  show execInstall ctx bs test s = _
  simp only [execInstall, serves, there, form, State.fnOf_of_ctx there, Bool.not_true, Bool.false_eq_true, if_false]

theorem exec_install_of_full (serves : s.serving = true) (there : s.ctx ctx = some c) (form : parseObject bs = some o)
    (good : s.objectError o test = 0) (full : s.place ctx c o test = none) :
    exec (.install ctx bs test) s = .next (s.answer c.fn fun n => .status n 9) := by
  show execInstall ctx bs test s = _
  simp only [execInstall, serves, there, form, good, full, State.fnOf_of_ctx there, Bool.not_true, Bool.false_eq_true, if_false]

theorem exec_install_of_placed {t : State} {h : Nat} (serves : s.serving = true) (there : s.ctx ctx = some c)
    (form : parseObject bs = some o) (good : s.objectError o test = 0) (placed : s.place ctx c o test = some (t, h)) :
    exec (.install ctx bs test) s = if o.level < 3 then .next ({ t with nextId := t.nextId + 1 }.modCtx ctx fun c =>
        { c with installs := c.installs ++ [(t.nextId, h)] })
      else .next (t.answer c.fn fun n => .handle n 0 h) := by
  show execInstall ctx bs test s = _
  simp only [execInstall, serves, there, form, good, placed, State.fnOf_of_ctx there, Bool.not_true, Bool.false_eq_true, if_false]

end Installing

section Found
variable {s : State} {ctx h : Nat} {c : Context} {k : Capsule}

/-- The handle names one capsule of the context, and requests may name it (R386). -/
structure Context.Shows (c : Context) (h : Nat) (k : Capsule) : Prop where
  only : c.capsules.filter (fun x => x.handle == h) = [k]
  shown : k.withheld = false

theorem Context.Shows.capsule (found : c.Shows h k) : c.capsule h = some k := by
  rw [Context.capsule, ← List.head?_filter, found.only]
  rfl

theorem Context.Shows.handle (found : c.Shows h k) : k.handle = h := by
  have named := List.find?_some found.capsule
  simpa using named

theorem Context.Shows.eq (found : c.Shows h k) {x : Capsule} (there : x ∈ c.capsules) (named : x.handle = h) : x = k := by
  have mem : x ∈ c.capsules.filter fun x => x.handle == h := List.mem_filter.mpr ⟨there, by simpa using named⟩
  rw [found.only] at mem
  exact List.mem_singleton.mp mem

theorem State.capsule_of_shows (there : s.ctx ctx = some c) (found : c.Shows h k) : s.capsule ctx h = some k := by
  rw [State.capsule, there, Option.bind_some, found.capsule]

/-- An update of the one capsule of a handle is known by what it makes of that capsule. -/
theorem State.modCapsule_congr (there : s.ctx ctx = some c) (found : c.Shows h k) {f g : Capsule → Capsule} (same : f k = g k) :
    s.modCapsule ctx h f = s.modCapsule ctx h g := by
  have maps : (c.capsules.map fun x => if x.handle = h then f x else x) =
      c.capsules.map fun x => if x.handle = h then g x else x :=
    List.map_congr_left fun x mem => by
      split
      next named => rw [found.eq mem named, same]
      · rfl
  simp only [State.modCapsule, State.modCtx, there, maps]

theorem exec_uninstall_of_shows (serves : s.serving = true) (there : s.ctx ctx = some c) (found : c.Shows h k) :
    exec (.uninstall ctx h) s = .next (if s.capsuleBusy ctx c h then s.answer c.fn fun n => .status n 1
      else (s.modCtx ctx fun c => c.removeCapsule h).answer c.fn fun n => .status n 0) := by
  show execUninstall ctx h s = _
  split
  next busy =>
    exact State.request_of_error serves there (by
      simp only [there, found.capsule, found.shown, busy, Bool.false_eq_true, if_false, if_true])
  next idle =>
    exact State.request_of_ok serves there (by
      simp only [there, found.capsule, found.shown, idle, Bool.false_eq_true, if_false])

theorem exec_rebuildRequest_of_shows (serves : s.serving = true) (there : s.ctx ctx = some c) (found : c.Shows h k) :
    exec (.rebuildRequest ctx h) s = .next ((s.modCapsule ctx h fun _ => (buildRequest k).2).answer c.fn fun n =>
      .status n (buildRequest k).1) := by
  show execRebuildRequest ctx h s = _
  have same := State.modCapsule_congr there found (f := fun x => (buildRequest x).2) (g := fun _ => (buildRequest k).2) rfl
  simp only [execRebuildRequest, serves, State.requestBuild_of_some (State.capsule_of_shows there found) found.shown, same,
    State.fnOf_of_ctx there, Bool.not_true, Bool.false_eq_true, if_false]

theorem exec_buildStart_of_queued (serves : s.serving = true) (there : s.ctx ctx = some c) (found : c.Shows h k)
    (queued : k.queued = true) (portable : k.state = .portable) : exec (.buildStart ctx h) s =
      .next (s.modCapsule ctx h fun k => { k with state := .rebuilding, queued := false }) := by
  show execBuildStart ctx h s = _
  rw [execBuildStart, serves]
  exact congrArg Host.Outcome.next (State.modCapsule_congr there found (by rw [queued, portable]; rfl))

theorem exec_buildComplete_of_rebuilding (serves : s.serving = true) (there : s.ctx ctx = some c) (found : c.Shows h k)
    (runs : k.state = .rebuilding) (started : k.queued = false) (len : Nat) : exec (.buildComplete ctx h len) s =
      .next (if len ≤ k.bodyLen then s.modCapsule ctx h fun k =>
          { k with state := .native, buildId := s.buildIdentity, withheld := false }
        else s.modCapsule ctx k.handle fun k => { k with state := .voided, buildId := 0, queued := false }) := by
  show execBuildComplete ctx h len s = _
  simp only [execBuildComplete, State.capsule_of_shows there found, serves, runs, started, bne_self_eq_false, Bool.not_true,
    Bool.or_self, Bool.false_eq_true, if_false, State.finishBuild, State.failBuild, found.shown, found.handle]
  split <;> rfl

end Found

/-- Settles O47: each request by the checks that its object or its capsule passes. -/
theorem capsuleRequests : Obligations.CapsuleRequests := by
  unfold Obligations.CapsuleRequests
  refine fun s ctx c serves there => ⟨fun bs test => ⟨exec_install_of_form serves there, fun o form =>
    ⟨exec_install_of_error serves there form, exec_install_of_full serves there form, fun t h good placed => ?placed⟩⟩,
    fun h k only shown => ?capsule⟩
  case placed =>
    rw [exec_install_of_placed serves there form good placed]
    exact ⟨fun level => if_neg (Nat.not_lt.mpr level), fun level => if_pos level⟩
  case capsule =>
    have found : c.Shows h k := ⟨only, shown⟩
    have uninstall := exec_uninstall_of_shows serves there found
    have rebuild := exec_rebuildRequest_of_shows serves there found
    refine ⟨fun idle => ?_, fun busy => ?_, fun portable built idle => ?_, fun native => ?_,
      exec_buildStart_of_queued serves there found, fun len runs started => ?_⟩
    · rw [uninstall, idle]; rfl
    · rw [uninstall, busy]; rfl
    · have asked : buildRequest k = (0, { k with queued := true }) := by
        simp only [buildRequest, portable, built, idle, Bool.false_eq_true, if_false]
      rw [rebuild, asked, State.modCapsule_congr there found (g := fun k => { k with queued := true }) rfl]
    · have asked : buildRequest k = (1, k) := by simp only [buildRequest, native]
      rw [rebuild, asked]
      exact congrArg (fun t : State => Host.Outcome.next (t.answer c.fn fun n => .status n 1))
        (State.modCapsule_congr there found (f := fun _ => k) (g := id) rfl)
    · have ends := exec_buildComplete_of_rebuilding serves there found runs started len
      exact ⟨fun fits => ends.trans (congrArg _ (if_pos fits)), fun long => ends.trans (congrArg _ (if_neg (Nat.not_le.mpr long)))⟩

end Sys2Proof.Machine
end

section
/-! Contexts, nodes of the region tree, and queues. -/
namespace Sys2Proof.Machine

section Contexts
variable {s : State} {ctx fn counters i : Nat} {inj : Bool}

/-- A context as it is created, its page table an empty table (R434, R453). -/
def newContext (fn counters : Nat) (inj : Bool) (i : Nat) : Context where
  fn := fn
  local_ := i
  counters := counters
  injection := inj
  root := Config.tableRoot fn i
  tables := [((4, 0), Config.tableRoot fn i)]

theorem exec_createContext_of_free (serves : s.serving = true) (low : ctx < 0xFFFF) (function : fn < 32)
    (fresh : s.ctx ctx = none) (index : i < 16) (free : ∀ e ∈ s.contexts, e.2.fn = fn → e.2.local_ ≠ i)
    (held : ∀ j, j < i → ∃ e ∈ s.contexts, e.2.fn = fn ∧ e.2.local_ = j) :
    exec (.createContext ctx fn counters inj) s = .next ({ s with contexts := s.contexts.put ctx (newContext fn counters inj i) }.answer
      fn fun n => .handle n 0 i) := by
  have lowest : ((List.range 16).find? fun j =>
      !((s.contexts.filter fun e => e.2.fn == fn).map fun e => e.2.local_).contains j) = some i := by
    simp only [List.find?_range_eq_some, List.mem_range, Bool.not_eq_true', List.contains_eq_mem, decide_eq_false_iff_not,
      decide_eq_true_eq, Bool.not_not, List.mem_map, List.mem_filter, beq_iff_eq, index, true_and]
    exact ⟨fun ⟨e, ⟨mem, mine⟩, at_⟩ => free e mem mine at_, fun j below =>
      let ⟨e, mem, mine, at_⟩ := held j below
      ⟨e, ⟨mem, mine⟩, at_⟩⟩
  show execCreateContext ctx fn counters inj s = _
  simp only [execCreateContext, serves, lowest, fresh, Nat.not_le.mpr low, Nat.not_le.mpr function, Option.isSome_none,
    Bool.not_true, Bool.false_eq_true, or_self, if_false]
  rfl

end Contexts

section Regions
variable {s t : State} {handle : Nat} {node : List Byte} {x : Region}

/-- The node that an edit makes: it keeps the tournament that it stands for (R412). -/
def Region.edited (x : Region) (handle : Nat) (node : List Byte) : Region := { regionOf handle node with tour := x.tour }

/-- The region tree with a node in the place of the one of its handle. -/
def State.withNode (s : State) (r : Region) : State :=
  { s with regions := (s.regions.filter fun (x : Region) => x.handle != r.handle) ++ [r] }

theorem exec_regionEdit_of_admitted (serves : s.serving = true) (named : handle ≠ 0) (there : s.region handle = some x)
    (kind : x.kind = (regionOf handle node).kind) (form : regionForm node (x.edited handle node) = true)
    (placed : s.regionPlaced (x.edited handle node) = true) : exec (.regionEdit handle node) s =
      .next (if (s.withNode (x.edited handle node)).lockedTournament then s.answer 0 fun n => .status n 4
        else (s.withNode (x.edited handle node)).regionGangs.answer 0 fun n => .handle n 0 handle) := by
  have same : (x.kind == (regionOf handle node).kind) = true := beq_iff_eq.mpr kind
  unfold Region.edited at form placed
  show execRegionEdit handle node s = _
  simp only [execRegionEdit, serves, named, there, Option.bind_some, Option.any_some, same, form, placed, Bool.not_true,
    Bool.false_eq_true, Bool.and_self, if_false, if_true]
  exact (apply_ite Host.Outcome.next ((s.withNode (x.edited handle node)).lockedTournament = true) ..).symm

theorem exec_regionEdit_of_refused (serves : s.serving = true) (named : handle ≠ 0) (there : s.region handle = some x)
    (bad : regionForm node (x.edited handle node) = false ∨ s.regionPlaced (x.edited handle node) = false) :
    exec (.regionEdit handle node) s = .next (s.answer 0 fun n => .status n 1) := by
  unfold Region.edited at bad
  show execRegionEdit handle node s = _
  simp only [execRegionEdit, serves, named, there, Option.bind_some, Bool.not_true, Bool.false_eq_true, if_false]
  rw [if_neg]
  simp only [Bool.and_eq_true, not_and, Bool.not_eq_true]
  exact fun ⟨_, form⟩ => bad.resolve_left (by rw [form]; exact Bool.noConfusion)

theorem State.regionChain_congr (h : t.regions = s.regions) (n k : Nat) : t.regionChain n k = s.regionChain n k := by
  induction n generalizing k with
  | zero => rfl
  | succ n ih => simp only [State.regionChain, State.region, h, ih]

/-- The nodes above a gang are known from the region tree and the queues. -/
theorem State.gangChain_congr (regions : t.regions = s.regions) (contexts : t.contexts = s.contexts) (g : Gang) :
    t.gangChain g = s.gangChain g := by
  simp only [State.gangChain, State.chainOf, State.regionChain_congr regions, regions, State.queue_congr contexts]

theorem State.gang_makeNonroll_same (s : State) (i : Nat) :
    (s.makeNonroll i).gang i = (s.gang i).map fun g => { g with nonroll := true } := by
  unfold State.makeNonroll
  split
  next g there =>
    split
    next already => rw [there, Option.map_some, ← already]
    · exact s.gang_modGang_same i _
  next none => rw [none, Option.map_none]

theorem State.makeNonroll_leaves (s : State) (i : Nat) : (s.makeNonroll i).regions = s.regions ∧
    (s.makeNonroll i).contexts = s.contexts ∧ ∀ j, j ≠ i → (s.makeNonroll i).gang j = s.gang j := by
  unfold State.makeNonroll
  split
  · split
    · exact ⟨rfl, rfl, fun _ _ => rfl⟩
    · exact ⟨s.modGang_regions i _, s.modGang_contexts i _, fun j other => s.gang_modGang_other other _⟩
  · exact ⟨rfl, rfl, fun _ _ => rfl⟩

/-- A gang with what the nodes above it say; one that loses its freedom from plates cannot be rolled back. -/
def Gang.under (g : Gang) (noplated : Bool) (cs : List Region) : Gang :=
  { g with nonroll := g.nonroll || noplated && !effNoplate cs, noplate := effNoplate cs, fdom := effFdom cs }

theorem State.regionGang_leaves (s : State) (e : Nat × Gang) : (s.regionGang e).regions = s.regions ∧
    (s.regionGang e).contexts = s.contexts ∧ (∀ j, j ≠ e.1 → (s.regionGang e).gang j = s.gang j) ∧
    (s.regionGang e).gang e.1 = (s.gang e.1).map fun g => g.under e.2.noplate (s.gangChain e.2) := by
  unfold State.regionGang Gang.under
  cases loses : (e.2.noplate && !effNoplate (s.gangChain e.2)) with
  | false =>
    simp only [loses, Bool.false_eq_true, if_false]
    refine ⟨s.modGang_regions .., s.modGang_contexts .., fun j other => s.gang_modGang_other other _, ?_⟩
    simp only [Bool.or_false]
    exact s.gang_modGang_same ..
  | true =>
    simp only [loses, if_true]
    obtain ⟨regions, contexts, others⟩ := s.makeNonroll_leaves e.1
    refine ⟨((s.makeNonroll e.1).modGang_regions ..).trans regions, ((s.makeNonroll e.1).modGang_contexts ..).trans contexts,
      fun j other => ((s.makeNonroll e.1).gang_modGang_other other _).trans (others j other), ?_⟩
    refine ((s.makeNonroll e.1).gang_modGang_same ..).trans ?_
    rw [s.gang_makeNonroll_same, Option.map_map]
    simp only [Bool.or_true]
    rfl

/-- The region tree and the queues of s, and the pairing of a gang's cores, still stand. -/
def State.TreeStands (s : State) (gid : Nat) (g : Gang) (u : State) : Prop :=
  u.regions = s.regions ∧ u.contexts = s.contexts ∧ ∃ h, u.gang gid = some h ∧ h.lock = g.lock

/-- And the gang has what the nodes above it say. -/
def State.TreeReached (s : State) (gid : Nat) (g : Gang) (u : State) : Prop :=
  u.regions = s.regions ∧ u.contexts = s.contexts ∧ ∃ h, u.gang gid = some h ∧ h.lock = g.lock ∧
    h.noplate = effNoplate (s.gangChain g) ∧ h.fdom = effFdom (s.gangChain g) ∧ (g.noplate = true → h.noplate = false → h.nonroll = true)

theorem State.TreeReached.stands {u : State} {gid : Nat} {g : Gang} (h : s.TreeReached gid g u) : s.TreeStands gid g u := by
  obtain ⟨regions, contexts, k, there, lock, -⟩ := h
  exact ⟨regions, contexts, k, there, lock⟩

theorem State.TreeStands.reached {u : State} {gid : Nat} {g : Gang} (h : s.TreeStands gid g u) :
    s.TreeReached gid g (u.regionGang (gid, g)) := by
  obtain ⟨regions, contexts, k, there, lock⟩ := h
  obtain ⟨regions', contexts', -, same⟩ := u.regionGang_leaves (gid, g)
  rw [there, Option.map_some, State.gangChain_congr regions contexts] at same
  refine ⟨regions'.trans regions, contexts'.trans contexts, _, same, lock, rfl, rfl, fun bare plated => ?_⟩
  have plated : effNoplate (s.gangChain g) = false := plated
  simp [Gang.under, bare, plated]

theorem State.TreeStands.other {u : State} {gid : Nat} {g : Gang} (h : s.TreeStands gid g u) {e : Nat × Gang} (other : gid ≠ e.1) :
    s.TreeStands gid g (u.regionGang e) := by
  obtain ⟨regions, contexts, k, there, lock⟩ := h
  obtain ⟨regions', contexts', others, -⟩ := u.regionGang_leaves e
  exact ⟨regions'.trans regions, contexts'.trans contexts, k, (others gid other).trans there, lock⟩

theorem State.TreeReached.other {u : State} {gid : Nat} {g : Gang} (h : s.TreeReached gid g u) {e : Nat × Gang}
    (other : gid ≠ e.1) : s.TreeReached gid g (u.regionGang e) := by
  obtain ⟨regions, contexts, k, there, rest⟩ := h
  obtain ⟨regions', contexts', others, -⟩ := u.regionGang_leaves e
  exact ⟨regions'.trans regions, contexts'.trans contexts, k, (others gid other).trans there, rest⟩

/-- An edit of the region tree reaches a gang that no other gang's entry names (R412). -/
theorem State.regionGangs_reach {gid : Nat} {g : Gang} (there : s.gang gid = some g)
    (only : ∀ e ∈ s.gangs, e.1 = gid → e.2 = g) : s.TreeReached gid g s.regionGangs := by
  have entry {e : Nat × Gang} (mem : e ∈ s.gangs) : e = (gid, g) ∨ gid ≠ e.1 :=
    (eq_or_ne e.1 gid).imp (fun named => Prod.ext named (only e mem named)) Ne.symm
  unfold State.regionGangs
  refine foldl_reaches (q := s.TreeStands gid g) (fun u e mem h => ?_) (Table.find_mem there) (fun u h => h.reached)
    (fun u e mem h => ?_) ⟨rfl, rfl, g, there, rfl⟩
  · rcases entry mem with rfl | other
    · exact h.reached.stands
    · exact h.other other
  · rcases entry mem with rfl | other
    · exact h.stands.reached
    · exact h.other other

end Regions

section Queues
variable {s : State} {ctx q ring log2n : Nat} {prod : Bool} {group : Nat} {c : Context}

/-- A queue's fields are in their limits, and its group is one of its context (R412, R413). -/
structure State.QueueForm (s : State) (ctx q ring log2n group : Nat) : Prop where
  number : q < 64
  low : 6 ≤ log2n
  high : log2n ≤ 16
  aligned : ring % 65536 = 0
  above : Config.gvaLow ≤ ring
  below : ring + 64 * 2 ^ log2n ≤ Config.gvaHigh + 1
  group : s.groupOf ctx group = true

theorem State.QueueForm.passes (form : s.QueueForm ctx q ring log2n group) :
    (decide (q < 64) && decide (6 ≤ log2n) && decide (log2n ≤ 16) && ring % 65536 == 0 && decide (Config.gvaLow ≤ ring)
      && decide (ring + 64 * 2 ^ log2n ≤ Config.gvaHigh + 1) && s.groupOf ctx group) = true := by
  obtain ⟨number, low, high, aligned, above, below, group⟩ := form
  simp only [number, low, high, aligned, above, below, group, decide_true, beq_self_eq_true, Bool.and_self]

variable (serves : s.serving = true) (there : s.ctx ctx = some c) (form : s.QueueForm ctx q ring log2n group)
include serves there form

theorem exec_queueCreate_of_sealed (sealed_ : c.sealedRange ring (64 * 2 ^ log2n) = true) :
    exec (.queueCreate ctx q ring log2n prod group) s = .next (s.answer c.fn fun n => .status n 1) := by
  show execQueueCreate ctx q ring log2n prod group s = _
  exact State.request_of_error serves there (by simp only [there, form.passes, sealed_, Bool.not_true, Bool.not_false, Bool.and_false,
    if_true])

theorem exec_queueCreate_of_fresh (open_ : c.sealedRange ring (64 * 2 ^ log2n) = false) (fresh : c.queues.find q = none)
    (room : s.queueCount < 1024) : exec (.queueCreate ctx q ring log2n prod group) s =
      .next ((s.modCtx ctx fun c => { c with queues := c.queues.put q { ring := ring, log2n := log2n, prod := prod, group := group } }).answer
        c.fn fun n => .status n 0) := by
  show execQueueCreate ctx q ring log2n prod group s = _
  exact State.request_of_ok serves there (by
    simp only [there, form.passes, open_, fresh, Nat.not_le.mpr room, Bool.and_true, Bool.not_false, Bool.not_true,
      Bool.false_eq_true, if_false])

theorem exec_queueCreate_of_torn (open_ : c.sealedRange ring (64 * 2 ^ log2n) = false) {x : Queue} (found : c.queues.find q = some x)
    (torn : x.state = .torn) : exec (.queueCreate ctx q ring log2n prod group) s =
      .next ((s.modQueue ctx q fun x => x.recreate ring log2n group prod).answer c.fn fun n => .status n 0) := by
  show execQueueCreate ctx q ring log2n prod group s = _
  exact State.request_of_ok serves there (by
    simp only [there, form.passes, open_, found, torn, Bool.and_true, Bool.not_false, Bool.not_true, Bool.false_eq_true,
      if_false, if_true])

theorem exec_queueCreate_of_stands {x : Queue} (found : c.queues.find q = some x) (stands : x.state ≠ .torn) :
    exec (.queueCreate ctx q ring log2n prod group) s = .next (s.answer c.fn fun n => .status n 1) := by
  show execQueueCreate ctx q ring log2n prod group s = _
  exact State.request_of_error serves there (by simp only [there, form.passes, found, stands, if_false, ite_self])

end Queues

/-- Settles O48: a context by the indices that are held, a node by its form and its place, a gang by the nodes above it, a
queue by its form and by what has its number. -/
theorem contextRequests : Obligations.ContextRequests := by
  unfold Obligations.ContextRequests
  refine fun s serves => ⟨fun ctx fn counters inj i low function fresh index free held =>
    exec_createContext_of_free serves low function fresh index free held,
    fun handle node x named there kind => ⟨exec_regionEdit_of_admitted serves named there kind,
      exec_regionEdit_of_refused serves named there⟩, fun gid g there only => ?gang,
    fun ctx q ring log2n prod group c there number low high aligned above below group' => ?queue⟩
  case gang =>
    obtain ⟨-, -, h, found, lock, noplate, fdom, bare⟩ := State.regionGangs_reach there only
    exact ⟨h, found, noplate, fdom, lock, bare⟩
  case queue =>
    have form : s.QueueForm ctx q ring log2n group := ⟨number, low, high, aligned, above, below, group'⟩
    exact ⟨exec_queueCreate_of_sealed serves there form, exec_queueCreate_of_fresh serves there form,
      fun x open_ => exec_queueCreate_of_torn serves there form open_, fun x => exec_queueCreate_of_stands serves there form⟩

end Sys2Proof.Machine
end

section
/-! Error injection, and what a debugger asks. -/
namespace Sys2Proof.Machine

section Injecting
variable {s : State} {ctx : Nat} {c : Context} {bs : List Byte}

/-- The error that a record of an injection request arms (R452). -/
def injectOf (bs : List Byte) : Inject where
  kind := fieldAt bs 0 1
  left := fieldAt bs 1 1
  step := BitVec.ofNat 32 (fieldAt bs 8 4)
  tgt := fieldAt bs 2 1
  col := fieldAt bs 12 1
  row := fieldAt bs 13 1
  addr := fieldAt bs 16 8

theorem exec_errorInject_of_ok (serves : s.serving = true) (there : s.ctx ctx = some c) (may : c.injection = true)
    (form : injectOk bs = true) (launch : (c.launch (fieldAt bs 4 4)).isSome = true) : exec (.errorInject ctx bs) s =
      .next ((s.modCtx ctx fun c => { c with injects := c.injects ++ [(fieldAt bs 4 4, injectOf bs)] }).answer c.fn fun n =>
        .status n 0) := by
  show execErrorInject ctx bs s = _
  exact State.request_of_ok serves there (by
    simp only [there, may, form, launch, Bool.and_self, Bool.not_true, Bool.false_eq_true, if_false]; rfl)

end Injecting

section Debugging
variable {s : State} {item : DebugItem} {core : CoreId} {t : Nat}

theorem exec_debugRead_of_hidden (serves : s.serving = true) (set : itemSet item = some (core, t))
    (hidden : s.visible (s.debugWho core t) = false) : exec (.debugRead item) s = .next (s.answer 0 fun n => .status n 1) := by
  show execDebugRead item s = _
  simp only [execDebugRead, serves, set, hidden, Bool.not_true, Bool.false_eq_true, if_false]

theorem exec_debugRead_of_visible {bs : List Byte} (serves : s.serving = true) (set : itemSet item = some (core, t))
    (visible : s.visible (s.debugWho core t) = true) (seen : s.debugSet (s.debugWho core t) item = some bs) :
    exec (.debugRead item) s = .next (s.answer 0 fun n => .data n bs) := by
  show execDebugRead item s = _
  simp only [execDebugRead, serves, set, visible, seen, Bool.not_true, Bool.false_eq_true, if_false, if_true]

theorem exec_debugRead_of_core {bs : List Byte} (serves : s.serving = true) (set : itemSet item = none)
    (seen : s.debugCore item = some bs) : exec (.debugRead item) s = .next (s.answer 0 fun n => .data n bs) := by
  show execDebugRead item s = _
  simp only [execDebugRead, serves, set, seen, Bool.not_true, Bool.false_eq_true, if_false]

theorem State.debugCore_storeByte (a : Nat) : s.debugCore (.storeByte core a) =
    some (if s.leaderOf core = core then [(s.core core).store.read a] else (s.core (s.leaderOf core)).twinBytes a 1) := by
  show some (if s.leaderOf core = core then [(s.core (s.leaderOf core)).store.read a] else _) = _
  split
  · next leads => rw [leads]
  · rfl

theorem exec_debugResume_eq : exec (.debugResume core t) s =
    if (s.ts (s.debugWho core t)).run = .stopped then .next ({ s with who := s.debugWho core t }.retire .seq) else .next s := rfl

end Debugging

/-- Settles O50: a record by its limits, what is read by whether it may be seen, a set by whether it is stopped. -/
theorem injectionAndDebug : Obligations.InjectionAndDebug := by
  unfold Obligations.InjectionAndDebug
  refine fun s => ⟨fun ctx c bs serves there may form launch => exec_errorInject_of_ok serves there may form launch,
    fun core t r serves => ⟨exec_debugRead_of_hidden serves rfl, fun visible =>
      ⟨_, exec_debugRead_of_visible serves rfl visible rfl, rfl⟩⟩, fun core a serves => exec_debugRead_of_core serves rfl (State.debugCore_storeByte a),
    fun core t stopped => exec_debugResume_eq.trans (if_pos stopped), fun core t goes => exec_debugResume_eq.trans (if_neg goes)⟩

end Sys2Proof.Machine
end

section
/-! The host link: aperture windows, configuration space, BAR 0, peers and buffers for remote access. -/
namespace Sys2Proof.Machine

section Aperture
variable {s : State} {fn addr len : Nat} {a : Aperture} {c : Context} {d : List Byte}

theorem exec_apertureAccess_of_fatal (fatal : s.devClass = .fatal) :
    exec (.apertureAccess fn addr len none) s = .next (s.reply fun n => .data n (List.replicate len 0xFF)) ∧
      ∀ d, exec (.apertureAccess fn addr len (some d)) s = .next s :=
  ⟨if_pos fatal, fun _ => if_pos fatal⟩

theorem exec_apertureAccess_of_outside (works : s.devClass ≠ .fatal) (outside : s.apertureFor fn addr len = none)
    (d : Option (List Byte)) : exec (.apertureAccess fn addr len d) s = .next (s.reply .unsupported) := by
  show execApertureAccess fn addr len d s = _
  simp only [execApertureAccess, works, outside, if_false]

variable (works : s.devClass ≠ .fatal) (window : s.apertureFor fn addr len = some a) (there : s.ctx a.ctx = some c)
  (some_ : 0 < len)
include works window there some_

theorem exec_apertureAccess_read (allowed : c.apertureDenied (a.gva + (addr - a.off)) len false = false)
    (drained : s.undrained a.ctx (a.gva + (addr - a.off)) len = false) :
    (let t := s.repair a.ctx (a.gva + (addr - a.off)) len
    exec (.apertureAccess fn addr len none) s =
      .next (t.reply fun n => .data n (t.apertureBytes a.ctx c (a.gva + (addr - a.off)) len))) := by
  show execApertureAccess fn addr len none s = _
  simp only [execApertureAccess, works, window, there, some_.ne', allowed, drained, Option.any_none, Option.isSome_none,
    Bool.false_and, Bool.or_self, Bool.false_eq_true, or_self, if_false]

theorem exec_apertureAccess_denied (denied : c.apertureDenied (a.gva + (addr - a.off)) len false = true) :
    exec (.apertureAccess fn addr len none) s = .next ((s.modCtx a.ctx fun c =>
      { c with denied := c.denied ++ [(a.gva + (addr - a.off), false)] }).reply .unsupported) := by
  show execApertureAccess fn addr len none s = _
  simp only [execApertureAccess, works, window, there, some_.ne', denied, Option.any_none, Option.isSome_none,
    Bool.false_eq_true, or_self, if_false, if_true]

theorem exec_apertureAccess_write (whole : d.length = len)
    (allowed : c.apertureDenied (a.gva + (addr - a.off)) len true = false)
    (drained : s.undrained a.ctx (a.gva + (addr - a.off)) len = false)
    (stays : s.rangeMigrating a.ctx (a.gva + (addr - a.off)) len = false) :
    exec (.apertureAccess fn addr len (some d)) s = .next (s.engineWrite a.ctx (a.gva + (addr - a.off)) d) := by
  show execApertureAccess fn addr len (some d) s = _
  simp only [execApertureAccess, works, window, there, some_.ne', allowed, drained, stays, whole, Option.any_some,
    Option.isSome_some, bne_self_eq_false, Bool.and_false, Bool.or_self, Bool.false_eq_true, or_self, if_false]

end Aperture

section Bar0
variable {s : State} {fn off len : Nat}

theorem exec_configAccess_bar0 : exec (.configAccess fn (.bar0 off len)) s =
    .next (s.reply fun n => .data n (s.bar0Bytes fn off len)) := rfl

theorem State.bar0Bytes_of_fatal (fatal : s.devClass = .fatal) (other : fn ≠ 0 ∨ off ≠ 0xFF8 ∨ len ≠ 4) :
    s.bar0Bytes fn off len = List.replicate len 0xFF := by
  have status : ¬ (fn = 0 ∧ off = 0xFF8 ∧ len = 4) := by omega
  simp only [State.bar0Bytes, status, fatal, if_false, if_true]

theorem State.bar0Bytes_counter (works : s.devClass ≠ .fatal) {i v : Nat} (there : s.devCounters.list[i]? = some v) :
    s.bar0Bytes 0 (0x2000 + 8 * i) 8 = leBytes 8 v := by
  have counter : (0 = 0 ∧ 0x2000 ≤ 0x2000 + 8 * i ∧ (0x2000 + 8 * i) % 8 = 0 ∧ 8 = 8) := by omega
  have index : (0x2000 + 8 * i - 0x2000) / 8 = i := by omega
  have status : ¬ (0 = 0 ∧ 0x2000 + 8 * i = 0xFF8 ∧ 8 = 4) := by omega
  rw [State.bar0Bytes, if_neg status, if_neg works, if_pos counter, index, there]

theorem State.bar0Bytes_reading (works : s.devClass ≠ .fatal) {i : Nat} (within : i < Config.readings) :
    s.bar0Bytes 0 (0x3000 + 4 * i) 4 = leBytes 4 (s.reading i).toNat := by
  have counter : ¬ (0 = 0 ∧ 0x2000 ≤ 0x3000 + 4 * i ∧ (0x3000 + 4 * i) % 8 = 0 ∧ 4 = 8) := by omega
  have index : (0x3000 + 4 * i - 0x3000) / 4 = i := by omega
  have status : ¬ (0 = 0 ∧ 0x3000 + 4 * i = 0xFF8 ∧ 4 = 4) := by omega
  have reading : 0 = 0 ∧ 0x3000 ≤ 0x3000 + 4 * i ∧ (0x3000 + 4 * i) % 4 = 0 ∧ 4 = 4 ∧
    0x3000 + 4 * i < 0x3000 + 4 * Config.readings := by omega
  rw [State.bar0Bytes, if_neg status, if_neg works, if_neg counter]
  dsimp only
  rw [if_pos reading, index]

end Bar0

section Windows
variable {s : State} {fn off ctx gva len : Nat} {c : Context}

theorem exec_apertureMap_of_apart (serves : s.serving = true) (there : s.ctx ctx = some c) (own : c.fn = fn) (some_ : 0 < len)
    (fits : off + len ≤ 2 ^ 36) (mapped : gva + len ≤ Config.gvaHigh + 1)
    (apart : ∀ a ∈ s.apertures, a.fn = fn → off + len ≤ a.off ∨ a.off + a.len ≤ off) :
    exec (.apertureMap fn off ctx gva len) s = .next ({ s with
      apertures := s.apertures ++ [({ fn := fn, off := off, ctx := ctx, gva := gva, len := len } : Aperture)] }.answer fn fun n => .status n 0) := by
  have clear : (s.apertures.any fun a => a.fn == fn && meets off len a.off a.len) = false := by
    simp only [List.any_eq_false, Bool.and_eq_true, beq_iff_eq, meets, decide_eq_true_eq, not_and]
    intro a mem mine first last
    have := apart a mem mine
    omega
  have whole : (len != 0) = true := bne_iff_ne.mpr some_.ne'
  show execApertureMap fn off ctx gva len s = _
  simp only [execApertureMap, serves, there, own, whole, fits, mapped, clear, Option.any_some, beq_self_eq_true, decide_true,
    Bool.not_true, Bool.not_false, Bool.and_self, Bool.false_eq_true, if_false, if_true]

theorem exec_peerTableSet_of_index {index addr port target : Nat} {own : Bool} (serves : s.serving = true)
    (there : s.ctx ctx = some c) (low : index < 2 ^ 32) : exec (.peerTableSet ctx index addr port target own) s =
      .next ((s.modCtx ctx fun c => { c with peers := c.peers.put index { addr := addr, port := port, target := target, own := own } }).answer
        c.fn fun n => .status n 0) := by
  show execPeerTableSet ctx index addr port target own s = _
  exact State.request_of_ok serves there (if_neg (by simp only [there, Option.isNone_some, Bool.false_eq_true, false_or]; omega))

theorem exec_remoteBufferRegister_of_ok {rkey : Nat} {k : RemoteKind} (serves : s.serving = true) (there : s.ctx ctx = some c)
    (low : rkey < 2 ^ 32) (form : remoteOk k = true) : exec (.remoteBufferRegister ctx rkey k) s =
      .next ((s.modCtx ctx fun c => { c with
        remotes := (c.remotes.filter fun (r : Remote) => r.rkey != rkey) ++ [{ rkey := rkey, kind := k, used := 0 }] }).answer c.fn
          fun n => .status n 0) := by
  show execRemoteBufferRegister ctx rkey k s = _
  exact State.request_of_ok serves there (if_neg (by simp only [there, form, Option.isNone_some, Bool.false_eq_true, not_true, false_or, or_false]; omega))

end Windows

/-- Settles O46: an access by its window and its class, a read of BAR 0 by its offset, a request by its limits. -/
theorem hostAccess : Obligations.HostAccess := by
  unfold Obligations.HostAccess
  refine fun s fn => ⟨fun addr len => exec_apertureAccess_of_fatal, fun addr len a c works window there some_ =>
    ⟨exec_apertureAccess_read works window there some_, fun denied =>
      ⟨_, exec_apertureAccess_denied works window there some_ denied, State.modCtx_hbm ..⟩,
      fun d whole => exec_apertureAccess_write works window there some_ whole⟩,
    fun addr len d works outside => exec_apertureAccess_of_outside works outside d, fun off => rfl, rfl,
    fun i v works there => ?counter, fun i works within => ?reading, fun off len fatal other => ?fatal,
    fun off ctx gva len c serves there own some_ fits mapped apart =>
      exec_apertureMap_of_apart serves there own some_ fits mapped apart, fun ctx c serves there =>
      ⟨fun index addr port target own => exec_peerTableSet_of_index serves there,
        fun rkey k => exec_remoteBufferRegister_of_ok serves there⟩⟩
  case counter => rw [exec_configAccess_bar0, State.bar0Bytes_counter works there]
  case reading => rw [exec_configAccess_bar0, State.bar0Bytes_reading works within]
  case fatal => rw [exec_configAccess_bar0, State.bar0Bytes_of_fatal fatal other]

end Sys2Proof.Machine
end

section
/-! Pages: mapping, change of kind, migration and eviction. -/
namespace Sys2Proof.Machine

theorem Context.page_of_leaf {c : Context} {gva l : Nat} {p : DWord} (leaf : c.walk gva = .leaf l p) :
    c.page gva = some (l, p, gva / pageBytes l * pageBytes l) := by
  rw [Context.page, leaf]

section Mapping
variable {s : State} {ctx gva : Nat} {c : Context}

theorem exec_map_of_ok {level pa kind rmask : Nat} {r w : Bool} (serves : s.serving = true) (there : s.ctx ctx = some c)
    (may : s.mapOk c gva level pa kind rmask = true) :
    (let rights := (if r then 16 else 0) + (if w then 32 else 0)
    exec (.map ctx gva level pa kind rmask r w) s = .next (((s.loseLines pa (pageBytes level)).modCtx ctx fun c =>
      (c.withTables level gva).setPte level gva
        (pteWith (BitVec.ofNat 64 (pa + rights + 3)) kind (homeMask kind rmask pa))).settleDeferred.answer c.fn
          fun n => .status n 0)) := by
  show execMap ctx gva level pa kind rmask r w s = _
  exact State.request_of_ok serves there (by
    simp only [there, may, Bool.not_true, Bool.false_eq_true, if_false])

theorem exec_unmap_of_page {level : Nat} (serves : s.serving = true) (there : s.ctx ctx = some c) (low : level ≤ 2)
    (aligned : gva % pageBytes level = 0) (mapped : c.pte level gva ≠ 0)
    (leaf : pteLeaf (c.pte level gva) = true ∨ level = 0) (free : c.sealedRange gva (pageBytes level) = false) :
    exec (.unmap ctx gva level) s = .next ((s.modCtx ctx fun c => { c.setPte level gva 0 with
      backing := c.backing.drop (gva / 65536) }).answer c.fn fun n => .status n 0) := by
  show execUnmap ctx gva level s = _
  refine State.request_of_ok serves there ?_
  simp only [there]
  refine if_neg ?_
  rintro (high | shifted | none | inner | sealed)
  · omega
  · exact shifted aligned
  · exact mapped none
  · exact inner leaf
  · simp [free] at sealed

theorem exec_setKind_of_leaf {l : Nat} {p : DWord} {kind rmask : Nat} (serves : s.serving = true) (there : s.ctx ctx = some c)
    (leaf : c.walk gva = .leaf l p) (known : kind ≤ 2) (mask : rmask < 256) (plain : kind = 0 → rmask = 0)
    (free : c.sealedRange gva 1 = false) : exec (.setKind ctx gva kind rmask) s =
      .next (((s.copyPage ctx gva).modCtx ctx fun c => c.setPte l gva
        (pteWith p kind (homeMask kind rmask (pteAddr p)))).answer c.fn fun n => .status n 0) := by
  show execSetKind ctx gva kind rmask s = _
  refine State.request_of_ok serves there ?_
  simp only [there, leaf]
  refine if_neg ?_
  rintro (high | wide | ⟨zero, bits⟩ | sealed)
  · omega
  · omega
  · exact bits (plain zero)
  · simp [free] at sealed

end Mapping

section Moving
variable {s : State} {ctx gva : Nat} {c : Context} {l lo : Nat} {p : DWord}

theorem exec_migrate_of_page (serves : s.serving = true) (there : s.ctx ctx = some c) (page : c.page gva = some (l, p, lo))
    (rests : pteMig p = false) : exec (.migrate ctx gva) s = .next ({ s with nextId := s.nextId + 1 }.modCtx ctx fun c =>
      { c.setPte l gva (p ||| 0x100#64) with migrates := c.migrates ++ [(s.nextId, lo)] }) := by
  show execMigrate ctx gva s = _
  simp only [execMigrate, serves, there, Option.bind_some, page, rests, Bool.not_true, Bool.false_eq_true, if_false]

/-- The migrations that a context waits for, of the contexts of a state. -/
def State.migratesOf (s : State) (ctx : Nat) : Option (List (Nat × Nat)) := (s.ctx ctx).map (·.migrates)

theorem State.migratesOf_of_contexts {t : State} (same : t.contexts = s.contexts) : t.migratesOf ctx = s.migratesOf ctx := by
  simp only [State.migratesOf, State.ctx, same]

theorem State.contexts_notePoison (u : PoisonUnit) : (s.notePoison u).contexts = s.contexts := by
  unfold State.notePoison
  extract_lets kept here
  split <;> rfl

/-- What a poisoned line leaves of a context: only its lost lines change (R446). -/
def Context.losing (x : Nat) (c : Context) : Context :=
  if c.tables.any fun t => decide (t.2 / 64 ≤ x) && decide (x < (t.2 + Config.tableBytes) / 64) then
    { c with lost := listed c.lost x } else c

theorem Context.migrates_losing (x : Nat) (c : Context) : (c.losing x).migrates = c.migrates := by
  unfold Context.losing
  split <;> rfl

theorem State.ctx_poisonLine (x : Nat) : (s.poisonLine x).ctx ctx = (s.ctx ctx).map (Context.losing x) := by
  have each : (s.poisonLine x).contexts = s.contexts.map fun e => (e.1, e.2.losing x) := by
    refine (State.contexts_notePoison _).trans (List.map_congr_left fun e _ => ?_)
    unfold Context.losing
    split <;> rfl
  rw [State.ctx, each]
  exact Table.find_map s.contexts (Context.losing x) ctx

theorem State.migratesOf_poisonLine (x : Nat) : (s.poisonLine x).migratesOf ctx = s.migratesOf ctx := by
  simp only [State.migratesOf, State.ctx_poisonLine, Option.map_map, Function.comp_def, Context.migrates_losing]

theorem State.migratesOf_moveBytes (src dst n : Nat) : (s.moveBytes src dst n).migratesOf ctx = s.migratesOf ctx := by
  unfold State.moveBytes
  extract_lets inSrc inDst moved bad
  refine (foldl_keeps (p := fun t => State.migratesOf t ctx) (fun t e => ?_) bad _).trans (State.migratesOf_of_contexts rfl)
  exact (State.migratesOf_of_contexts rfl).trans (State.migratesOf_poisonLine e.2)

theorem State.migratesOf_repairPage (a : Nat) : (s.repairPage ctx a).migratesOf ctx = s.migratesOf ctx := by
  refine State.migratesOf_of_contexts ?_
  unfold State.repairPage
  split <;> rfl

/-- A migration that no request has begun is one that no answer waits for. -/
theorem State.migration_unanswered (there : s.ctx ctx = some c) (none_ : ∀ e ∈ c.migrates, e.2 ≠ lo) (old pa n : Nat) :
    ((((s.repairPage ctx gva).moveBytes old pa n).ctx ctx).bind fun c => c.migrates.find? fun e => e.2 == lo) = none := by
  have same : ((s.repairPage ctx gva).moveBytes old pa n).migratesOf ctx = s.migratesOf ctx :=
    (State.migratesOf_moveBytes ..).trans (State.migratesOf_repairPage ..)
  simp only [State.migratesOf, there, Option.map_some] at same
  obtain ⟨c', there', kept⟩ := Option.map_eq_some_iff.mp same
  rw [there', Option.bind_some, kept, List.find?_eq_none]
  exact fun e mem equal => none_ e mem (beq_iff_eq.mp equal)

theorem exec_migrationSwitch_of_unpinned {pa : Nat} (there : s.ctx ctx = some c) (page : c.page gva = some (l, p, lo))
    (moves : pteMig p = true) (loose : s.pinned ctx lo (pageBytes l) false = false) (fits : s.frameOk l pa = true)
    (none_ : ∀ e ∈ c.migrates, e.2 ≠ lo) :
    (let n := pageBytes l
    let old := pteAddr p
    let mask := if pteKind p = 0 then 0 else (pteRmask p &&& (255 - 2 ^ paStack old)) ||| 2 ^ paStack pa
    exec (.migrationSwitch ctx gva pa) s = .next ((((s.repairPage ctx gva).moveBytes old pa n).modCtx ctx fun c =>
      { c.setPte l gva (pteWith (BitVec.ofNat 64 (pa + p.toNat % 64)) (pteKind p) mask) with
        migrates := c.migrates.filter fun (e : Nat × Nat) => e.2 != lo }).copiesBack ctx lo n).settleDeferred) := by
  show execMigrationSwitch ctx gva pa s = _
  simp only [execMigrationSwitch, there, Option.bind_some, page, moves, loose, fits, Bool.not_true, Bool.or_self,
    Bool.false_eq_true, if_false, State.migration_unanswered there none_, Option.map_none]

theorem exec_migrationSwitch_of_pinned (there : s.ctx ctx = some c) (page : c.page gva = some (l, p, lo)) (pa : Nat)
    (pinned : s.pinned ctx lo (pageBytes l) false = true) : exec (.migrationSwitch ctx gva pa) s = .next s := by
  show execMigrationSwitch ctx gva pa s = _
  simp only [execMigrationSwitch, there, Option.bind_some, page, pinned, Bool.or_true, Bool.true_or, if_true]

theorem State.evictable_of_sound (free : c.sealedRange lo (pageBytes l) = false) (rests : pteMig p = false)
    (sound : ∀ x ∈ s.hbmPoison, meets (pteAddr p) (pageBytes l) (64 * x) 64 = false) : s.evictable c l p lo = true := by
  have clean : (s.hbmPoison.any fun x => meets (pteAddr p) (pageBytes l) (64 * x) 64) = false :=
    List.any_eq_false.mpr fun x mem => Bool.eq_false_iff.mp (sound x mem)
  simp only [State.evictable, free, rests, clean, Bool.or_self, Bool.not_false]

/-- The candidates of an eviction: of the pages named, those that firmware may evict (R443). -/
def State.candidates (s : State) (c : Context) (gvas : List Nat) : List (Nat × DWord × Nat) :=
  (gvas.filterMap c.page).filter fun e => s.evictable c e.1 e.2.1 e.2.2

theorem State.candidates_cons (page : c.page gva = some (l, p, lo)) (may : s.evictable c l p lo = true) (more : List Nat) :
    s.candidates c (gva :: more) = (l, p, lo) :: s.candidates c more := by
  rw [State.candidates, List.filterMap_cons_some page]
  exact List.filter_cons_of_pos may

theorem State.mem_candidates {gvas : List Nat} {e : Nat × DWord × Nat} (mem : e ∈ s.candidates c gvas) :
    ∃ a ∈ gvas, c.page a = some e ∧ s.evictable c e.1 e.2.1 e.2.2 = true := by
  obtain ⟨named, may⟩ := List.mem_filter.mp mem
  obtain ⟨a, mem, page⟩ := List.mem_filterMap.mp named
  exact ⟨a, mem, page, may⟩

theorem exec_pageEviction_of_loose {gvas : List Nat} (there : s.ctx ctx = some c)
    (first : (s.candidates c gvas).find? (fun e => !s.pinned ctx e.2.2 (pageBytes e.1) true) = some (l, p, lo)) :
    exec (.pageEviction ctx gvas) s = .next (s.modCtx ctx fun c => c.evict l p lo s.hbm.read) := by
  rw [State.candidates] at first
  show execPageEviction ctx gvas s = _
  simp only [execPageEviction, there, first]

theorem exec_pageEviction_of_pinned {gvas : List Nat} (there : s.ctx ctx = some c)
    (every : (s.candidates c gvas).find? (fun e => !s.pinned ctx e.2.2 (pageBytes e.1) true) = none)
    (some_ : (s.candidates c gvas).isEmpty = false) : exec (.pageEviction ctx gvas) s =
      .next { s with devCounters := { s.devCounters with evpinwait := sat64 s.devCounters.evpinwait } } := by
  rw [State.candidates] at every some_
  show execPageEviction ctx gvas s = _
  simp only [execPageEviction, there, every, some_, Bool.false_eq_true, if_false]

end Moving

/-- Settles O49: a request by its limits, a migration and an eviction by what pins the page. -/
theorem pageRequests : Obligations.PageRequests := by
  unfold Obligations.PageRequests
  refine fun s ctx gva c there => ⟨fun level pa kind rmask r w serves => exec_map_of_ok serves there, fun level serves =>
    exec_unmap_of_page serves there, fun l p leaf => ?_⟩
  have page := Context.page_of_leaf leaf
  refine ⟨fun kind rmask serves => exec_setKind_of_leaf serves there leaf, fun serves => exec_migrate_of_page serves there page,
    fun pa moves loose fits none_ => exec_migrationSwitch_of_unpinned there page moves loose fits none_,
    exec_migrationSwitch_of_pinned there page, fun free rests sound => ?_⟩
  have first := State.candidates_cons (s := s) page (State.evictable_of_sound free rests sound)
  refine ⟨fun loose more => exec_pageEviction_of_loose there ?loose, fun pinned more others =>
    exec_pageEviction_of_pinned there ?every ?some⟩
  case loose => rw [first, List.find?_cons_of_pos (by simp [loose])]
  case every =>
    rw [first, List.find?_cons_of_neg (by simp [pinned]), List.find?_eq_none]
    intro e mem
    obtain ⟨a, named, paged, may⟩ := State.mem_candidates mem
    simp [others a named _ _ _ paged may]
  case some => rw [first]; rfl

end Sys2Proof.Machine
end

section
/-! Doorbells and what the host asks of a queue. -/
namespace Sys2Proof.Machine

section Congruence
variable {s : State} {ctx q : Nat} {x : Queue}

theorem State.modCtx_congr {c : Context} (there : s.ctx ctx = some c) {f g : Context → Context} (same : f c = g c) :
    s.modCtx ctx f = s.modCtx ctx g := by
  simp only [State.modCtx, there, same]

theorem State.modQueue_congr (there : s.queue ctx q = some x) {f g : Queue → Queue} (same : f x = g x) :
    s.modQueue ctx q f = s.modQueue ctx q g := by
  obtain ⟨c, in_, found⟩ := Option.bind_eq_some_iff.mp there
  exact State.modCtx_congr in_ (by simp only [found, same])

end Congruence

section Flushed

theorem mem_of_mem_freeSlots {u : Slot} : ∀ {l : List Slot}, u ∈ freeSlots l → u ∈ l
  | [], mem => mem
  | x :: r, mem => by
    rw [freeSlots] at mem
    split at mem
    · exact List.mem_cons_of_mem _ (mem_of_mem_freeSlots mem)
    · exact mem

theorem mem_freeSlots_of_not_done {u : Slot} (waits : u.done = false) : ∀ {l : List Slot}, u ∈ l → u ∈ freeSlots l
  | x :: r, mem => by
    rw [freeSlots]
    split
    · next free =>
      have other : u ≠ x := by
        rintro rfl
        simp [waits] at free
      exact mem_freeSlots_of_not_done waits (List.mem_of_ne_of_mem other mem)
    · exact mem

variable (x : Queue)

theorem Queue.pending_flushAll : x.flushAll.pending = 0 := by
  show (x.tail + x.size - x.tail) % x.size = 0
  rw [Nat.add_sub_cancel_left, Nat.mod_self]

theorem Queue.hold_of_mem_flushAll {u : Slot} (mem : u ∈ x.flushAll.slots) : u.hold = false := by
  obtain ⟨v, _, rfl⟩ := List.mem_map.mp (mem_of_mem_freeSlots mem)
  rfl

theorem Queue.mem_flushAll {u : Slot} (mem : u ∈ x.slots) (waits : u.done = false) :
    { u with hold := false } ∈ x.flushAll.slots := by
  have kept (more : List Slot) : { u with hold := false } ∈ (x.slots ++ more).map fun (v : Slot) => { v with hold := false } :=
    List.mem_map_of_mem (List.mem_append_left _ mem)
  exact mem_freeSlots_of_not_done (u := { u with hold := false }) waits (kept _)

end Flushed

section Tail
variable {x : Queue} {tail n t : Nat}

theorem Queue.moveTail_forward (size : n = 2 ^ x.log2n) (at_ : t = tail % 65536 % n) (takes : x.prod = false)
    (behind : (t + n - x.tail % n) % n ≤ (x.free + n - 1 - x.tail % n) % n) : x.moveTail tail =
      if x.state = .torn then { Queue.flushAll { x with tail := t } with state := .torn } else { x with tail := t } := by
  subst at_ size
  exact if_neg (by simp only [takes, Bool.false_eq_true, false_or, Queue.size]; omega)

theorem Queue.moveTail_past (size : n = 2 ^ x.log2n) (at_ : t = tail % 65536 % n)
    (past : x.prod = true ∨ (x.free + n - 1 - x.tail % n) % n < (t + n - x.tail % n) % n) : x.moveTail tail = x := by
  subst at_ size
  exact if_pos past

end Tail

/-- What a doorbell's write asks of a queue, by its command (R414). -/
def State.rung (s : State) (ctx q : Nat) (word : DWord) : Nat → Host.Outcome State Fault Refusal
  | 0 => .next (s.modQueue ctx q fun x => x.moveTail word.toNat)
  | 1 => .next (s.resumeQueue ctx q)
  | 2 => .next (s.flushQueue ctx q)
  | 3 => .next (s.quiesceQueue ctx q)
  | 4 => .next (s.unquiesceQueue ctx q)
  | _ => .next s

section Doorbells
variable {s : State} {ctx q fn off : Nat} {x : Queue}

theorem State.rings_of_works (works : s.devClass ≠ .fatal) : s.rings = true := bne_iff_ne.mpr works

theorem exec_doorbell_of_width (bell : s.doorbellAt fn off = some (ctx, q)) {d : BarWrite} (other : d.width ≠ 64) :
    exec (.doorbellTailUpdate fn off d) s = .next s := by
  show execDoorbellTailUpdate fn off d s = _
  simp only [execDoorbellTailUpdate, bell, bne_iff_ne.mpr other, Bool.or_true, if_true]

variable (works : s.devClass ≠ .fatal)
include works

theorem exec_resume_of_works : exec (.resume ctx q) s = .next (s.resumeQueue ctx q) := by
  show execResume ctx q s = _
  rw [execResume, if_pos (State.rings_of_works works)]

theorem exec_flush_of_works : exec (.flush ctx q) s = .next (s.flushQueue ctx q) := by
  show execFlush ctx q s = _
  rw [execFlush, if_pos (State.rings_of_works works)]

theorem exec_quiesce_of_works : exec (.quiesce ctx q) s = .next (s.quiesceQueue ctx q) := by
  show execQuiesce ctx q s = _
  rw [execQuiesce, if_pos (State.rings_of_works works)]

theorem exec_unquiesce_of_works : exec (.unquiesce ctx q) s = .next (s.unquiesceQueue ctx q) := by
  show execUnquiesce ctx q s = _
  rw [execUnquiesce, if_pos (State.rings_of_works works)]

theorem exec_doorbell_of_command (bell : s.doorbellAt fn off = some (ctx, q)) (word : DWord) :
    exec (.doorbellTailUpdate fn off ⟨64, word⟩) s = s.rung ctx q word (word.toNat / 65536 % 8) := by
  show execDoorbellTailUpdate fn off ⟨64, word⟩ s = _
  simp only [execDoorbellTailUpdate, bell, State.rings_of_works works, bne_self_eq_false, Bool.not_true, Bool.or_self,
    Bool.false_eq_true, if_false]
  rfl

variable (there : s.queue ctx q = some x)
include there

theorem exec_doorbell_tail (bell : s.doorbellAt fn off = some (ctx, q)) {word : DWord}
    (command : word.toNat / 65536 % 8 = 0) {f : Queue → Queue} (moved : x.moveTail word.toNat = f x) :
    exec (.doorbellTailUpdate fn off ⟨64, word⟩) s = .next (s.modQueue ctx q f) := by
  rw [exec_doorbell_of_command works bell, command]
  exact congrArg _ (State.modQueue_congr there moved)

theorem exec_resume_of_halted (halted : x.state = .halted) : exec (.resume ctx q) s =
    .next (s.modQueue ctx q fun x => { x with state := .running }).takeReservations := by
  rw [exec_resume_of_works works, State.resumeQueue]
  congr 2
  exact State.modQueue_congr there (if_pos halted)

theorem exec_unquiesce_of_quiesced (quiesced : x.state = .quiesced) : exec (.unquiesce ctx q) s =
    .next (s.modQueue ctx q fun x => { x with state := .running }).takeReservations := by
  rw [exec_unquiesce_of_works works, State.unquiesceQueue]
  congr 2
  exact State.modQueue_congr there (if_pos quiesced)

theorem exec_flush_of_whole (whole : x.state ≠ .torn) : exec (.flush ctx q) s =
    .next ((s.dropStarting ctx q).modQueue ctx q fun x => { x.flushAll with state := .running }).takeReservations := by
  rw [exec_flush_of_works works, State.flushQueue, there, Option.any_some, if_pos (bne_iff_ne.mpr whole)]

theorem exec_quiesce_of_state (goes : x.state = .running ∨ x.state = .halted) : exec (.quiesce ctx q) s =
    .next (((s.returnDep ctx q).dropStarting ctx q).modQueue ctx q fun x =>
      { x with state := if x.state = .running then .quiesced else x.state, resv := none, checked := false }).takeReservations := by
  rw [exec_quiesce_of_works works, State.quiesceQueue, there, Option.any_some, if_pos (by simpa using goes)]

end Doorbells

/-- Settles O42: a doorbell's write by its command, a request by the state of the queue. -/
theorem queueRequests : Obligations.QueueRequests := by
  unfold Obligations.QueueRequests
  refine ⟨fun s ctx q x works there => ⟨fun fn off bell => ⟨fun word n t command size at_ => ⟨fun takes behind => ?forward,
    fun past => ?past⟩, fun word => ⟨?one, ?two, ?three, ?four, ?others⟩, fun d => exec_doorbell_of_width bell⟩,
    exec_resume_of_halted works there, exec_flush_of_whole works there, exec_quiesce_of_state works there,
    exec_unquiesce_of_quiesced works there⟩,
    fun x => ⟨rfl, rfl, x.pending_flushAll, fun u => x.hold_of_mem_flushAll, fun u => x.mem_flushAll⟩⟩
  case forward => exact exec_doorbell_tail works there bell command (Queue.moveTail_forward size at_ takes behind)
  case past => exact exec_doorbell_tail works there bell command (Queue.moveTail_past size at_ past)
  case one => exact fun command => by rw [exec_doorbell_of_command works bell, command, exec_resume_of_works works]; rfl
  case two => exact fun command => by rw [exec_doorbell_of_command works bell, command, exec_flush_of_works works]; rfl
  case three => exact fun command => by rw [exec_doorbell_of_command works bell, command, exec_quiesce_of_works works]; rfl
  case four => exact fun command => by rw [exec_doorbell_of_command works bell, command, exec_unquiesce_of_works works]; rfl
  case others =>
    intro high
    rw [exec_doorbell_of_command works bell]
    obtain five | six | seven : word.toNat / 65536 % 8 = 5 ∨ word.toNat / 65536 % 8 = 6 ∨ word.toNat / 65536 % 8 = 7 := by omega
    · rw [five]; rfl
    · rw [six]; rfl
    · rw [seven]; rfl

end Sys2Proof.Machine
end

section
/-! The record at the head of a queue. -/
namespace Sys2Proof.Machine

/-- A queue dispatches its head (R416): it runs, it holds a record, and no gang of it waits for its start. -/
structure State.Dispatches (s : State) (ctx q : Nat) (c : Context) (x : Queue) : Prop where
  inCtx : s.ctx ctx = some c
  queued : s.queue ctx q = some x
  runs : x.state = .running
  pending : x.pending ≠ 0
  free : s.launching ctx q = false

section Heads
variable {s : State} {ctx q kind : Nat} {c : Context} {x : Queue} {bs : List Byte} {go : Context → Queue → List Byte → State}

theorem State.Dispatches.atHead (h : s.Dispatches ctx q c x) (seen : s.headRecord ctx x = some bs) :
    s.atHead ctx q kind go =
      if x.skip ≠ 0 then .next (s.modQueue ctx q fun x => { x.pass bs with skip := x.skip - 1 })
      else if s.globalPoison ctx (x.ring + 64 * x.head) 64 then .next (s.unpinned ctx q 5 (x.ring + 64 * x.head))
      else if c.recordBad x bs then .next (s.modQueue ctx q fun x => x.reject bs)
      else if fieldAt bs 0 1 ≠ kind then .next s
      else .next (go c x bs) := by
  obtain ⟨ctx_, queue_, runs, pending, free⟩ := h
  have goes : ¬ (x.state ≠ .running ∨ x.pending = 0 ∨ s.launching ctx q) := by simp [runs, pending, free]
  simp only [State.atHead, ctx_, queue_, if_neg goes, seen]

theorem State.Dispatches.atHead_broken (h : s.Dispatches ctx q c x) (away : s.headRecord ctx x = none)
    (broken : s.walkBroken ctx (x.ring + 64 * x.head) = true) :
    s.atHead ctx q kind go = .next (s.unpinned ctx q 6 (x.ring + 64 * x.head)) := by
  obtain ⟨ctx_, queue_, runs, pending, free⟩ := h
  have goes : ¬ (x.state ≠ .running ∨ x.pending = 0 ∨ s.launching ctx q) := by simp [runs, pending, free]
  simp only [State.atHead, ctx_, queue_, if_neg goes, away, broken, if_true]

theorem State.Dispatches.atHead_skipped (h : s.Dispatches ctx q c x) (seen : s.headRecord ctx x = some bs) (skips : x.skip ≠ 0) :
    s.atHead ctx q kind go = .next (s.modQueue ctx q fun x => { x.pass bs with skip := x.skip - 1 }) :=
  (h.atHead seen).trans (if_pos skips)

theorem State.Dispatches.atHead_bad (h : s.Dispatches ctx q c x) (seen : s.headRecord ctx x = some bs) (counts : x.skip = 0)
    (sound : s.globalPoison ctx (x.ring + 64 * x.head) 64 = false) (bad : c.recordBad x bs = true) :
    s.atHead ctx q kind go = .next (s.modQueue ctx q fun x => x.reject bs) := by
  rw [h.atHead seen, if_neg (not_not.mpr counts), if_neg (Bool.eq_false_iff.mp sound), if_pos bad]

theorem State.atHead_of_head (h : s.head ctx q kind c x bs) : s.atHead ctx q kind go = .next (go c x bs) := by
  obtain ⟨ctx_, queue_, runs, pending, free, seen, counts, sound, good, isKind⟩ := h
  rw [State.Dispatches.atHead ⟨ctx_, queue_, runs, pending, free⟩ seen, if_neg (not_not.mpr counts),
    if_neg (Bool.eq_false_iff.mp sound), if_neg (Bool.eq_false_iff.mp good), if_neg (not_not.mpr isKind)]

theorem State.dispatch_of_head {go : State → Context → Queue → List Byte → State} (h : s.head ctx q kind c x bs)
    (serves : s.serves ctx q = true) : s.dispatch ctx q kind go = .next (go (s.noteServed ctx q) c x bs) := by
  rw [State.dispatch, State.atHead_of_head h, if_pos serves]

/-- What a record does, whatever its kind, begins at the head. -/
theorem exec_record_atHead {i : Instr} (mem : i ∈ [Instr.launchRecord ctx q, .tlwaitRecord ctx q, .tlwaitRecordComplete ctx q,
    .tlsignal ctx q, .copyRecord ctx q, .cond ctx q, .loopRecord ctx q]) : ∃ kind go, exec i s = s.atHead ctx q kind go := by
  simp only [List.mem_cons, List.not_mem_nil, or_false] at mem
  obtain rfl | rfl | rfl | rfl | rfl | rfl | rfl := mem <;> exact ⟨_, _, rfl⟩

end Heads

section Launching
variable {s : State} {ctx q : Nat} {c : Context} {x : Queue} {bs : List Byte} (h : s.head ctx q 1 c x bs) (new : x.checked = false)
include h new

theorem exec_launchRecord_of_good {l : Launch} {k : Capsule} (good : s.launchError c x bs = 0) (names : c.launchOf bs = some (l, k)) :
    exec (.launchRecord ctx q) s =
      .next (s.modQueue ctx q fun x => { x.countBody k with checked := true }).takeReservations := by
  show execLaunchRecord ctx q s = _
  rw [execLaunchRecord, State.atHead_of_head h, if_neg (Bool.eq_false_iff.mp new)]
  simp only [good, names]

theorem exec_launchRecord_of_error (bad : s.launchError c x bs ≠ 0) : exec (.launchRecord ctx q) s =
    .next (s.modQueue ctx q fun x => x.refuse bs (s.launchError c x bs)) := by
  show execLaunchRecord ctx q s = _
  obtain ⟨e, positive⟩ := Nat.exists_eq_succ_of_ne_zero bad
  rw [execLaunchRecord, State.atHead_of_head h, if_neg (Bool.eq_false_iff.mp new)]
  simp only [positive]
  obtain ⟨_, queued, _⟩ := h
  exact congrArg _ (State.modQueue_congr queued (by rw [positive]))

end Launching

section Waiting
variable {s : State} {ctx q : Nat} {c : Context} {x : Queue} {bs : List Byte} (h : s.head ctx q 2 c x bs)
include h

theorem exec_tlwaitRecord_of_serves (serves : s.serves ctx q = true) : exec (.tlwaitRecord ctx q) s =
    .next ((s.noteServed ctx q).modQueue ctx q fun x =>
      { x with waitTl := some (fieldAt bs 4 1, fieldAt bs 6 2, fieldAt bs 8 8) }) := by
  show execTlwaitRecord ctx q s = _
  rw [execTlwaitRecord, State.dispatch_of_head h serves]

theorem exec_tlwaitRecordComplete_eq {sel qi v : Nat} (waits : x.waitTl = some (sel, qi, v)) :
    exec (.tlwaitRecordComplete ctx q) s =
      .next (if v ≤ c.recordTl sel qi then s.modQueue ctx q fun x => x.pass bs else s) := by
  show execTlwaitRecordComplete ctx q s = _
  rw [execTlwaitRecordComplete, State.atHead_of_head h, waits]

end Waiting

section Signalling
variable {s : State} {ctx q : Nat} {c : Context} {x : Queue} {bs : List Byte} (h : s.head ctx q 3 c x bs)
  (serves : s.serves ctx q = true) (reached : (s.noteServed ctx q).recordDenied ctx q bs = none)
include h serves reached

theorem exec_tlsignal_of_late (late : fieldAt bs 8 8 ≤ x.signalTl) : exec (.tlsignal ctx q) s =
    .next ((s.noteServed ctx q).modQueue ctx q fun x => x.refuse bs 11) := by
  show execTlsignal ctx q s = _
  rw [execTlsignal, State.dispatch_of_head h serves]
  simp only [reached, late, if_true]

theorem exec_tlsignal_of_ahead (ahead : x.signalTl < fieldAt bs 8 8) :
    (let s1 := (s.noteServed ctx q).modQueue ctx q fun x => { x with signalTl := fieldAt bs 8 8 }
    let s2 := if fieldAt bs 16 8 = 0 then s1 else s1.engineWrite ctx (fieldAt bs 16 8) (bytesAt bs 24 8)
    let s3 := if fieldAt bs 4 1 = 1 then s2.raiseQueue ctx q else s2
    exec (.tlsignal ctx q) s = .next (s3.modQueue ctx q fun x => x.pass bs)) := by
  show execTlsignal ctx q s = _
  rw [execTlsignal, State.dispatch_of_head h serves]
  simp only [reached, Nat.not_le.mpr ahead, if_false]

end Signalling

section Copying
variable {s : State} {ctx q : Nat} {c : Context} {x : Queue} {bs : List Byte} (h : s.head ctx q 4 c x bs)
  (serves : s.serves ctx q = true)
include h serves

theorem exec_copyRecord_eq :
    (let cmd := bytesAt bs 8 40
    let s1 := (s.noteServed ctx q).modQueue ctx q fun x => x.take 4 (holds bs)
    let j := copyJobOf cmd (s.noteServed ctx q).nextId ctx q (x.copyCount + 1) none x.head 0 none
    exec (.copyRecord ctx q) s = .next
      ((c.sealed cmd).elim (s1.startCopy j) fun _ => ((s1.startCopy j).settleCopy j).copyFailed j 0)) := by
  show execCopyRecord ctx q s = _
  rw [execCopyRecord, State.dispatch_of_head h serves]
  dsimp only
  cases c.sealed (bytesAt bs 8 40) <;> rfl

end Copying

section Testing
variable {s : State} {ctx q : Nat} {c : Context} {x : Queue} {bs : List Byte}

theorem exec_cond_of_reached (h : s.head ctx q 5 c x bs) (serves : s.serves ctx q = true)
    (reached : (s.noteServed ctx q).recordDenied ctx q bs = none) : exec (.cond ctx q) s =
      .next ((s.noteServed ctx q).modQueue ctx q fun x => { x.pass bs with
        skip := if (s.noteServed ctx q).testWord ctx bs then 0 else fieldAt bs 4 2 }) := by
  show execCond ctx q s = _
  rw [execCond, State.dispatch_of_head h serves]
  simp only [reached]

variable (h : s.head ctx q 6 c x bs) (serves : s.serves ctx q = true)
include h serves

theorem exec_loopRecord_of_free
    (free : ∀ u ∈ x.slots, u.idx = (x.head + x.size - fieldAt bs 4 2) % x.size → u.hold = false) :
    exec (.loopRecord ctx q) s = .next ((s.noteServed ctx q).modQueue ctx q fun x => x.refuse bs 12) := by
  have none_ : (x.slots.any fun u => u.idx == (x.head + x.size - fieldAt bs 4 2) % x.size && u.hold) = false := by
    simpa only [List.any_eq_false, Bool.and_eq_true, beq_iff_eq, not_and, Bool.not_eq_true] using free
  show execLoopRecord ctx q s = _
  rw [execLoopRecord, State.dispatch_of_head h serves]
  simp only [none_, Bool.not_false, if_true]

theorem exec_loopRecord_of_held
    (held : ∃ u ∈ x.slots, u.idx = (x.head + x.size - fieldAt bs 4 2) % x.size ∧ u.hold = true)
    (reached : (s.noteServed ctx q).recordDenied ctx q bs = none) :
    (let t := s.noteServed ctx q
    let target := (x.head + x.size - fieldAt bs 4 2) % x.size
    let i := (x.iters.find x.head).getD 0
    exec (.loopRecord ctx q) s =
      .next (if t.testWord ctx bs ∧ (fieldAt bs 24 4 = 0 ∨ i + 1 < fieldAt bs 24 4) then
        t.modQueue ctx q fun x => x.goBack bs target (i + 1)
      else t.modQueue ctx q fun x => x.fallThrough bs target)) := by
  have there : (x.slots.any fun u => u.idx == (x.head + x.size - fieldAt bs 4 2) % x.size && u.hold) = true := by
    simpa only [List.any_eq_true, Bool.and_eq_true, beq_iff_eq] using held
  show execLoopRecord ctx q s = _
  rw [execLoopRecord, State.dispatch_of_head h serves]
  simp only [there, reached, Bool.not_true, Bool.false_eq_true, if_false]

end Testing

/-- Settles O43: the record at the head by its form, then by what its kind does. -/
theorem recordEvents : Obligations.RecordEvents := by
  unfold Obligations.RecordEvents
  refine fun s ctx q c x bs => ⟨fun i mem there queued runs pending free => ?any,
    fun h new => ⟨fun l k => exec_launchRecord_of_good h new, exec_launchRecord_of_error h new⟩,
    fun h => ⟨exec_tlwaitRecord_of_serves h, fun sel qi v waits =>
      ⟨fun reached => (exec_tlwaitRecordComplete_eq h waits).trans (congrArg _ (if_pos reached)),
        fun before => (exec_tlwaitRecordComplete_eq h waits).trans (congrArg _ (if_neg (Nat.not_le.mpr before)))⟩⟩,
    fun h serves reached => ⟨exec_tlsignal_of_late h serves reached, exec_tlsignal_of_ahead h serves reached⟩,
    fun h serves => ⟨fun open_ => (exec_copyRecord_eq h serves).trans (by rw [open_]; rfl),
      fun a met => (exec_copyRecord_eq h serves).trans (by rw [met]; rfl)⟩,
    exec_cond_of_reached, fun h serves => ⟨exec_loopRecord_of_free h serves, fun held reached =>
      ⟨fun holds_ more => (exec_loopRecord_of_held h serves held reached).trans (congrArg _ (if_pos ⟨holds_, more⟩)),
        fun ends => (exec_loopRecord_of_held h serves held reached).trans (congrArg _ (if_neg ?ends))⟩⟩⟩
  case any =>
    have h : s.Dispatches ctx q c x := ⟨there, queued, runs, pending, free⟩
    obtain ⟨kind, go, e⟩ := exec_record_atHead (s := s) mem
    rw [e]
    exact ⟨h.atHead_broken, fun seen => ⟨h.atHead_skipped seen, h.atHead_bad seen⟩⟩
  case ends =>
    rintro ⟨holds_, more⟩
    obtain fails | ⟨bound, reached⟩ := ends
    · exact absurd holds_ (Bool.eq_false_iff.mp fails)
    · omega

end Sys2Proof.Machine
end

section
/-! The network engine: packets that arrive, and how posts end. -/
namespace Sys2Proof.Machine

section Refusing
variable {s : State} {c : Context} {p : NetPacketIn} {last : Bool} {r : Remote}

theorem State.netRefusal_of_torn (torn : c.torn = true) : s.netRefusal c p last = some 5 := if_pos torn

variable (whole : c.torn = false)
include whole

theorem State.netRefusal_of_unknown (unknown : c.remotes.find? (fun r => r.rkey == p.rkey) = none) :
    s.netRefusal c p last = some 2 := by
  simp only [State.netRefusal, whole, unknown, Bool.false_eq_true, if_false]

variable (known : c.remotes.find? (fun r => r.rkey == p.rkey) = some r)
include known

theorem State.netRefusal_send_global {gva size : Nat} {w : Bool} (kind : r.kind = .global gva size w) (send : p.opc = 1) :
    s.netRefusal c p last = some 2 := by
  simp only [State.netRefusal, whole, known, kind, send, Bool.false_eq_true, if_false]

theorem State.netRefusal_readOnly {gva size : Nat} (kind : r.kind = .global gva size false) : s.netRefusal c p last = some 2 := by
  simp only [State.netRefusal, whole, known, kind, Bool.false_eq_true, if_false]
  generalize p.opc = opc
  obtain _ | _ | _ | _ := opc <;> rfl

theorem State.netRefusal_write_global {gva size : Nat} (kind : r.kind = .global gva size true) (write : p.opc = 0 ∨ p.opc = 2) :
    s.netRefusal c p last = if size < p.start + p.total then some 3 else none := by
  obtain put | atomic := write
  · simp only [State.netRefusal, whole, known, kind, put, Bool.not_true, Bool.false_eq_true, if_false]
  · simp only [State.netRefusal, whole, known, kind, atomic, Bool.not_true, Bool.false_eq_true, if_false]

theorem State.netRefusal_write_ring {gva slot n : Nat} (kind : r.kind = .ring gva slot n) (write : p.opc = 0 ∨ p.opc = 2) :
    s.netRefusal c p last = some 2 := by
  obtain put | atomic := write
  · simp only [State.netRefusal, whole, known, kind, put, Bool.false_eq_true, if_false]
  · simp only [State.netRefusal, whole, known, kind, atomic, Bool.false_eq_true, if_false]

theorem State.netRefusal_send_ring {gva slot n : Nat} (kind : r.kind = .ring gva slot n) (send : p.opc = 1) :
    s.netRefusal c p last = if slot < p.total then some 3 else if last = true ∧ n ≤ r.used then some 4 else none := by
  simp only [State.netRefusal, whole, known, kind, send, Bool.false_eq_true, if_false, Bool.and_eq_true, decide_eq_true_eq]

end Refusing

section Arriving
variable {s : State} {ctx : Nat} {c : Context} {p : NetPacketIn}

theorem exec_networkPacketArrival_of_peer {o : Nat} (there : s.ctx ctx = some c) (works : s.devClass ≠ .fatal)
    (peer : p.origin = .peer o) : exec (.networkPacketArrival ctx p) s = .next (s.netPacket ctx c p) := by
  show execNetworkPacketArrival ctx p s = _
  simp only [execNetworkPacketArrival, works, peer, there, if_false]

theorem State.netPacket_of_placed (old : (c.inboundOf p.origin p.message).err ≠ 0 ∨
    (c.inboundOf p.origin p.message).complete = true ∨ p.seq ∈ (c.inboundOf p.origin p.message).placed) :
    s.netPacket ctx c p = s :=
  if_pos (by simpa only [List.contains_iff_mem] using old)

/-- With a packet its message has all that it needs (R460). -/
def Inbound.ends (i : Inbound) (p : NetPacketIn) : Bool := { i with placed := p.seq :: i.placed }.whole p.lastSeq

/-- A packet is new to its message: it has not failed, it is not complete, and the packet has not been placed (R460). -/
structure Inbound.Takes (i : Inbound) (p : NetPacketIn) : Prop where
  sound : i.err = 0
  opened : i.complete = false
  fresh : p.seq ∉ i.placed

theorem Inbound.Takes.not_placed {i : Inbound} (new : i.Takes p) : ¬ (i.err ≠ 0 ∨ i.complete ∨ i.placed.contains p.seq) := by
  obtain ⟨sound, opened, fresh⟩ := new
  simp [sound, opened, fresh]

/-- What an error at the completion counter does: a message of a peer fails and its poison is counted (R448, R476). -/
theorem State.netTorn_peer {o : Nat} (peer : p.origin = .peer o) (src addr : Nat) :
    (s.netTorn p src addr).hbm = s.hbm ∧ (s.netTorn p src addr).contexts = s.contexts := by
  rw [State.netTorn, peer]
  dsimp only
  split <;> exact ⟨rfl, rfl⟩

variable (new : (c.inboundOf p.origin p.message).Takes p)
include new

theorem State.netPacket_of_refusal {e : Nat} (refused : s.netRefusal c p ((c.inboundOf p.origin p.message).ends p) = some e)
    (counts : e ≠ 7) : s.netPacket ctx c p =
      s.modCtx ctx fun d => d.setInbound { c.inboundOf p.origin p.message with err := e } := by
  rw [Inbound.ends] at refused
  rw [State.netPacket, if_neg new.not_placed]
  simp only [refused]
  split
  · next known refused' _ =>
    cases refused'
    split
    · exact absurd rfl counts
    · rfl
  · next refused' _ => rw [Option.some.inj refused']
  · next none_ _ => cases none_
  · next none_ _ => cases none_

variable {r : Remote} (passes : s.netRefusal c p ((c.inboundOf p.origin p.message).ends p) = none)
  (known : c.remotes.find? (fun r => r.rkey == p.rkey) = some r)
  (reached : c.netReach (netTargets p r ((c.inboundOf p.origin p.message).ends p)) = .ok)
  (clear : ∀ t ∈ netTargets p r ((c.inboundOf p.origin p.message).ends p), s.undrained ctx t.1 t.2 = false ∧
    s.rangeMigrating ctx t.1 t.2 = false ∧ s.globalPoison ctx t.1 t.2 = false)
  (ready : (c.inboundOf p.origin p.message).ends p = true → s.counterReady ctx p.rcnt = true)
include passes known reached clear ready

/-- A packet that passes, with its targets in reach, is placed unless its counter meets an error. -/
theorem State.netPacket_of_clear : s.netPacket ctx c p =
    (if (c.inboundOf p.origin p.message).ends p then s.counterError ctx p.rcnt else none).elim
      (s.takePacket ctx p r (c.inboundOf p.origin p.message)) fun e =>
        (s.modCtx ctx fun d => d.setInbound { c.inboundOf p.origin p.message with err := 5 }).netTorn p e.1 e.2 := by
  rw [State.netPacket, if_neg new.not_placed]
  generalize ends : (c.inboundOf p.origin p.message).ends p = last at *
  rw [Inbound.ends] at ends
  have loose : ((netTargets p r last).any fun t => s.undrained ctx t.1 t.2 || s.rangeMigrating ctx t.1 t.2) = false := by
    rw [List.any_eq_false]
    intro t mem
    obtain ⟨drained, stays, _⟩ := clear t mem
    simp [drained, stays]
  have sound : ((netTargets p r last).any fun t => s.globalPoison ctx t.1 t.2) = false := by
    rw [List.any_eq_false]
    intro t mem
    obtain ⟨_, _, clean⟩ := clear t mem
    simp [clean]
  have counts : (last && !s.counterReady ctx p.rcnt) = false := by
    cases last
    · rfl
    · simp [ready rfl]
  simp only [ends, passes, known, reached, loose, sound, counts, Bool.and_false, Bool.or_self, Bool.false_eq_true, if_false]
  cases (if last then s.counterError ctx p.rcnt else none) <;> rfl

end Arriving

section Ending
variable {s : State} {ctx n : Nat} {c : Context} {p : Post}

theorem State.ownOutcome_of_peer (there : s.ctx ctx = some c) (peer : ∀ e, c.peers.find p.peer = some e → e.own = false) :
    s.ownOutcome ctx p = none := by
  rw [State.ownOutcome, there, Option.bind_some]
  cases found : c.peers.find p.peer with
  | none => rfl
  | some e => simp only [peer e found, Bool.false_eq_true, if_false]

theorem exec_networkAck_of_flying (flies : s.flying ctx n = some p) (elsewhere : s.ownOutcome ctx p = none) :
    exec (.networkAck ctx n) s = .next { s.endPost ctx p true 0 with
      wire := (s.endPost ctx p true 0).wire.filter fun w => !(w.ctx == ctx && w.number == n) } := by
  show execNetworkAck ctx n s = _
  simp only [execNetworkAck, flies, elsewhere, if_true]

theorem exec_negativeAck_of_flying {e : Nat} (flies : s.flying ctx n = some p) (elsewhere : s.ownOutcome ctx p = none)
    (low : 2 ≤ e) (high : e ≤ 7) (reason : e ≠ 6) : exec (.negativeAck ctx n e) s = .next (s.failPost ctx p e) := by
  show execNegativeAck ctx n e s = _
  simp only [execNegativeAck, flies, elsewhere, low, high, bne_iff_ne.mpr reason, decide_true, Bool.and_self, if_true]

theorem exec_sackReceived_one (q : Nat) : exec (.sackReceived ctx n [q]) s = exec (.retransmitTimeout ctx n q) s := rfl

theorem exec_retransmitTimeout_of_flying {q : Nat} (flies : s.flying ctx n = some p)
    (sent : (s.wire.any fun w => w.ctx == ctx && w.number == n && w.seq == q) = true) :
    (let k := (p.tries.find q).getD 0
    exec (.retransmitTimeout ctx n q) s = .next (if k < 7 then s.modCtx ctx fun c =>
        { c with posts := c.posts.map fun (x : Post) => if x.number = n then { x with tries := x.tries.put q (k + 1) } else x }
      else s.failPost ctx p 1)) := by
  show execRetransmitTimeout ctx n q s = _
  simp only [execRetransmitTimeout, State.retry, flies, sent, Bool.not_true, Bool.false_eq_true, if_false]
  split
  · next done => rw [if_neg (Nat.not_lt.mpr done)]
  · next more => rw [if_pos (Nat.not_le.mp more)]

end Ending

/-- Settles O45: a packet by what its message lacks and what refuses it, a post by what comes back, a refusal by its key. -/
theorem networkEvents : Obligations.NetworkEvents := by
  unfold Obligations.NetworkEvents
  refine ⟨fun s ctx c there => ⟨fun p o works peer => ?arrives, fun n p flies peers => ?posts⟩,
    fun s c p last => ⟨State.netRefusal_of_torn, State.netRefusal_of_unknown, fun r gva size w whole known kind =>
      ⟨?global, fun write may => State.netRefusal_write_global whole known (may ▸ kind) write⟩,
      fun r gva slot n whole known kind => ⟨State.netRefusal_write_ring whole known kind,
        State.netRefusal_send_ring whole known kind⟩⟩⟩
  case arrives =>
    simp only [exec_networkPacketArrival_of_peer there works peer]
    refine ⟨fun old => congrArg _ (State.netPacket_of_placed old), fun sound opened fresh =>
      ⟨fun r passes known reached clear ready => ?_, fun e refused counts =>
        congrArg _ (State.netPacket_of_refusal ⟨sound, opened, fresh⟩ refused counts)⟩⟩
    have rule := State.netPacket_of_clear ⟨sound, opened, fresh⟩ passes known reached clear ready
    refine ⟨fun counts => congrArg _ (rule.trans ?_), fun e ends error => ⟨_, rfl, ?_⟩⟩
    · split
      · next ends => rw [counts ends]; rfl
      · rfl
    · rw [rule, if_pos (show Inbound.ends _ p = true from ends), error, Option.elim_some]
      obtain ⟨hbm, contexts⟩ := State.netTorn_peer
        (s := s.modCtx ctx fun d => d.setInbound { c.inboundOf p.origin p.message with err := 5 }) peer e.1 e.2
      exact ⟨hbm.trans (State.modCtx_hbm ..), contexts⟩
  case posts =>
    have elsewhere := State.ownOutcome_of_peer there peers
    refine ⟨exec_networkAck_of_flying flies elsewhere, fun e mem => ?_, fun q sent =>
      ⟨exec_retransmitTimeout_of_flying flies sent, (exec_sackReceived_one q).trans (exec_retransmitTimeout_of_flying flies sent)⟩⟩
    simp only [List.mem_cons, List.not_mem_nil, or_false] at mem
    exact exec_negativeAck_of_flying flies elsewhere (by omega) (by omega) (by omega)
  case global =>
    rintro (send | readOnly)
    · exact State.netRefusal_send_global whole known kind send
    · exact State.netRefusal_readOnly whole known (readOnly ▸ kind)

end Sys2Proof.Machine
end

section
/-! What the engines, teardowns and reports of a cycle leave of a start that runs. -/
namespace Sys2Proof.Machine

section Standing
variable (s : State)

/-- How the device stands: the start that runs, and its class (R482, R483). -/
def State.startPart (s : State) : Option StartRun × DevClass := (s.starting, s.devClass)

@[simp] theorem State.startPart_setCore (c : CoreId) (k : Core) : (s.setCore c k).startPart = s.startPart := by
  simp only [State.startPart, State.setCore_starting, State.setCore_devClass]

@[simp] theorem State.startPart_modCore (c : CoreId) (f : Core → Core) : (s.modCore c f).startPart = s.startPart :=
  s.startPart_setCore c _

@[simp] theorem State.startPart_modCtx (n : Nat) (f : Context → Context) : (s.modCtx n f).startPart = s.startPart := by
  simp only [State.startPart, State.modCtx_starting, State.modCtx_devClass]

@[simp] theorem State.startPart_modQueue (n q : Nat) (f : Queue → Queue) : (s.modQueue n q f).startPart = s.startPart :=
  s.startPart_modCtx n _

theorem State.startPart_globalWrite (ctx gva : Nat) (bs : List Byte) : (s.globalWrite ctx gva bs).startPart = s.startPart := by
  unfold State.globalWrite
  split <;> rfl

theorem State.startPart_repairPage (ctx gva : Nat) : (s.repairPage ctx gva).startPart = s.startPart := by
  unfold State.repairPage
  split <;> rfl

theorem State.startPart_collapse (ctx gva : Nat) : (s.collapse ctx gva).startPart = s.startPart := by
  unfold State.collapse
  split
  · split
    · exact (State.startPart_modCtx ..).trans (s.startPart_repairPage ..)
    · rfl
  · rfl

theorem State.startPart_engineWrite (ctx gva : Nat) (bs : List Byte) : (s.engineWrite ctx gva bs).startPart = s.startPart :=
  (State.startPart_globalWrite ..).trans (foldl_keeps (p := State.startPart) (fun t a => t.startPart_collapse ctx a) _ s)

theorem State.startPart_bumpCounter (ctx n : Nat) (ok : Bool) (e : Nat) : (s.bumpCounter ctx n ok e).startPart = s.startPart := by
  unfold State.bumpCounter
  split
  · rfl
  · exact s.startPart_engineWrite ..

theorem State.startPart_finish (ctx number counter : Nat) (ok : Bool) (e : Nat) :
    (s.finish ctx number counter ok e).startPart = s.startPart := by
  unfold State.finish
  split
  · split
    · exact State.startPart_modCtx ..
    · exact (State.startPart_modCtx ..).trans (s.startPart_bumpCounter ..)
  · exact State.startPart_modCtx ..

theorem State.startPart_discardPosts (ctx g : Nat) : (s.discardPosts ctx g).startPart = s.startPart := by
  unfold State.discardPosts
  split
  · rfl
  · exact foldl_keeps (p := State.startPart) (fun t (p : Post) => t.startPart_finish ctx p.number p.ccnt false 6) _ s

theorem State.startPart_closeSubs (c : CoreId) : (s.closeSubs c).startPart = s.startPart := by
  unfold State.closeSubs
  split
  · exact (foldl_keeps (p := State.startPart) (by exact fun _ _ => rfl) _ _).trans (s.startPart_modCore ..)
  · rfl

theorem State.startPart_leaveCores (g : Gang) (gid : Nat) : (s.leaveCores g gid).startPart = s.startPart := by
  refine foldl_keeps (p := State.startPart) (fun t c => ?_) g.rect s
  dsimp only
  split
  · rfl
  · have left : ((t.closeSubs c).setCore c (((t.closeSubs c).core c).vacate g.ctx)).startPart = t.startPart :=
      (State.startPart_setCore ..).trans (t.startPart_closeSubs c)
    split
    · exact (State.startPart_modCore ..).trans left
    · exact left

theorem State.startPart_killTasks (g : Gang) : (s.killTasks g).startPart = s.startPart :=
  (foldl_keeps (p := State.startPart) (fun _ _ => State.startPart_modCore ..) g.shadowTasks _).trans
    (foldl_keeps (p := State.startPart) (fun _ _ => State.startPart_modCore ..) g.tasks s)

theorem State.startPart_releaseGang (g : Gang) (gid : Nat) : (s.releaseGang g gid).startPart = s.startPart := by
  unfold State.releaseGang
  refine (State.startPart_discardPosts ..).trans ?_
  exact (State.startPart_killTasks _ g).trans (s.startPart_leaveCores g gid)

theorem State.startPart_releaseGangs (gs : List (Nat × Gang)) :
    (gs.foldl (fun s (e : Nat × Gang) => s.releaseGang e.2 e.1) s).startPart = s.startPart :=
  foldl_keeps (f := fun s (e : Nat × Gang) => s.releaseGang e.2 e.1) (p := State.startPart)
    (fun t e => t.startPart_releaseGang e.2 e.1) gs s

theorem State.startPart_killRecord (ctx q idx err cause : Nat) (xpc xval : Word) (mark : Bool) :
    (s.killRecord ctx q idx err cause xpc xval mark).startPart = s.startPart :=
  (State.startPart_modQueue ..).trans (s.startPart_releaseGangs _)

theorem State.startPart_raiseQueue (ctx q : Nat) : (s.raiseQueue ctx q).startPart = s.startPart := by
  unfold State.raiseQueue
  split <;> rfl

theorem State.startPart_report (r : Report) : (s.report r).startPart = s.startPart := by
  obtain ⟨answers, irqs, e⟩ := s.report_eq r
  rw [e]
  rfl

theorem State.startPart_tearQueue (ctx q : Nat) : (s.tearQueue ctx q).startPart = s.startPart := by
  have dropped : (s.dropStarting ctx q).startPart = s.startPart := s.startPart_releaseGangs _
  unfold State.tearQueue
  split
  · rfl
  · refine (State.startPart_raiseQueue ..).trans <| (State.startPart_modQueue ..).trans ?_
    exact (foldl_keeps (p := State.startPart) (fun t i => t.startPart_killRecord ctx q i 10 0 0 0 false) _ _).trans dropped

theorem State.startPart_unpinned (ctx q src addr : Nat) : (s.unpinned ctx q src addr).startPart = s.startPart := by
  unfold State.unpinned State.unpinnedAt State.teardown
  refine (foldl_keeps (p := State.startPart) (fun t n => t.startPart_tearQueue ctx n) _ _).trans ?_
  refine (State.startPart_report ..).trans ?_
  split <;> rfl

theorem State.startPart_appendRecord (p : QPost) : (s.appendRecord p).startPart = s.startPart := by
  unfold State.appendRecord
  split
  · rfl
  · extract_lets a behind
    split
    · rfl
    · split
      · exact s.startPart_unpinned ..
      · exact (State.startPart_modQueue ..).trans (s.startPart_engineWrite ..)

theorem State.startPart_settleDeferred : s.settleDeferred.startPart = s.startPart := by
  refine foldl_keeps (p := State.startPart) (fun t d => ?_) s.deferred { s with deferred := [] }
  cases d with
  | record p => exact t.startPart_appendRecord p
  | finish ctx number counter ok lasterr => exact t.startPart_finish ..
  | tear ctx q src addr => exact t.startPart_unpinned ..

theorem State.startPart_idleCycle (c : CoreId) : (s.idleCycle c).startPart = s.startPart := by
  unfold State.idleCycle
  split
  · rfl
  · exact (State.startPart_modCore ..).trans (s.startPart_modCore ..)

theorem State.devClass_fatal (src detail addr : Nat) : (s.fatal src detail addr).devClass = .fatal :=
  State.report_devClass ..

/-- A read of the containment structures leaves a start that runs, or ends it with the device (R447, R451). -/
theorem State.startPart_scrub : s.scrub.devClass = .fatal ∨ s.scrub.startPart = s.startPart := by
  unfold State.scrub
  split
  · exact .inr rfl
  · dsimp only
    split
    · exact .inl (s.devClass_fatal ..)
    · exact .inr rfl

/-- The last of a cycle of the clock is the step of a start that runs (R483). -/
theorem State.tickClock_eq : ∃ u : State, s.tickClock = u.startTick ∧ (u.devClass = .fatal ∨ u.starting = s.starting) := by
  refine ⟨_, rfl, ?_⟩
  have idle : (s.coreIds.foldl (fun s c => s.idleCycle c) s).startPart = s.startPart :=
    foldl_keeps (p := State.startPart) State.startPart_idleCycle _ s
  generalize s.coreIds.foldl (fun s c => s.idleCycle c) s = t at idle ⊢
  have counted : t.scrub.countCycle.settleDeferred.startPart = t.scrub.startPart := State.startPart_settleDeferred _
  obtain fatal | same := t.startPart_scrub
  · exact .inl ((congrArg Prod.snd counted).trans fatal)
  · exact .inr (congrArg Prod.fst (counted.trans (same.trans idle)))

end Standing

end Sys2Proof.Machine
end

section
/-! Starts of the device, firmware slots and attestation. -/
namespace Sys2Proof.Machine

section Requests
variable {s : State} {n : Nat} {fenced : List CoreId}

/-- The start that a request begins (R483, R484). -/
def State.startRun (s : State) (warm : Bool) (n : Nat) (fenced : List CoreId) : StartRun :=
  let other := !warm && decide (3 ≤ s.failedStarts)
  let slot := if other then 1 - s.fwActive else s.fwActive
  { warm := warm
    fail := if !s.bootable slot && (n == 0 || decide (2 < n)) then 2 else n
    fenced := fenced, slot := slot, other := other, todo := startSteps warm }

theorem State.start_eq (warm : Bool) : s.start warm n fenced = { s.still with
    devClass := .starting
    devDetail := if warm then 2 else 1
    starting := some (s.startRun warm n fenced) } := rfl

theorem State.startRequest_start {warm : Bool} (step : n = 0 ∨ n ∈ startSteps warm) (rests : s.starting = none) :
    s.startRequest true warm n fenced = .next (s.start warm n fenced) := by
  have known : (!(startSteps warm).contains n && n != 0) = false := by
    obtain rfl | mem := step
    · exact Bool.and_false _
    · simp only [List.contains_iff_mem.mpr mem, Bool.not_true, Bool.false_and]
  simp only [State.startRequest, known, rests, Option.isSome_none, Bool.not_true, Bool.or_self, Bool.false_eq_true, if_false]

theorem State.startRequest_busy {warm ok : Bool} (step : n = 0 ∨ n ∈ startSteps warm)
    (busy : s.starting.isSome = true ∨ ok = false) :
    s.startRequest ok warm n fenced = .next (s.answer 0 fun n => .status n 1) := by
  have known : (!(startSteps warm).contains n && n != 0) = false := by
    obtain rfl | mem := step
    · exact Bool.and_false _
    · simp only [List.contains_iff_mem.mpr mem, Bool.not_true, Bool.false_and]
  have refused : (s.starting.isSome || !ok) = true := by
    obtain runs | refused := busy
    · simp only [runs, Bool.true_or]
    · simp only [refused, Bool.not_false, Bool.or_true]
  simp only [State.startRequest, known, refused, Bool.false_eq_true, if_false, if_true]

theorem coldStep_of_le (low : n ≤ 8) : n = 0 ∨ n ∈ startSteps false := by
  simp only [startSteps, Bool.false_eq_true, if_false, List.mem_cons, List.not_mem_nil, or_false]
  omega

theorem warmStep_of_mem (mem : n ∈ [0, 2, 4, 5, 8]) : n = 0 ∨ n ∈ startSteps true := List.mem_cons.mp mem

theorem exec_coldstart_of_rest (low : n ≤ 8) (rests : s.starting = none) :
    exec (.coldstart n fenced) s = .next (s.start false n fenced) := State.startRequest_start (coldStep_of_le low) rests

theorem exec_coldstart_of_busy (low : n ≤ 8) (runs : s.starting.isSome = true) :
    exec (.coldstart n fenced) s = .next (s.answer 0 fun n => .status n 1) :=
  State.startRequest_busy (coldStep_of_le low) (.inl runs)

/-- A warm start may be asked for (R483, R488). -/
def State.MayWarm (s : State) : Prop := (s.devClass = .ready ∨ s.devClass = .failed ∨ s.devClass = .fatal) ∧ s.railsOff = false

theorem State.mayWarm_iff : ((s.devClass == .ready || s.devClass == .failed || s.devClass == .fatal) && !s.railsOff) = true ↔
    s.MayWarm := by
  simp only [State.MayWarm, Bool.and_eq_true, Bool.or_eq_true, beq_iff_eq, Bool.not_eq_true', or_assoc]

theorem exec_warmstart_of_rest (step : n ∈ [0, 2, 4, 5, 8]) (rests : s.starting = none) (may : s.MayWarm) :
    exec (.warmstart n fenced) s = .next (s.start true n fenced) := by
  show s.startRequest _ true n fenced = _
  rw [State.mayWarm_iff.mpr may]
  exact State.startRequest_start (warmStep_of_mem step) rests

theorem exec_warmstart_of_busy (step : n ∈ [0, 2, 4, 5, 8]) (busy : s.starting.isSome = true ∨ ¬ s.MayWarm) :
    exec (.warmstart n fenced) s = .next (s.answer 0 fun n => .status n 1) :=
  State.startRequest_busy (warmStep_of_mem step) (busy.imp_right fun no => Bool.eq_false_iff.mpr fun may => no (State.mayWarm_iff.mp may))

/-- Where a start fails: at step 2 where its slot holds no image that the boot ROM accepts, unless it fails before (R486). -/
theorem State.startRun_fail (slot : Nat) : (if !s.bootable slot && (n == 0 || decide (2 < n)) then 2 else n) =
    if s.bootable slot = false ∧ (n = 0 ∨ 2 < n) then 2 else n := by
  simp only [Bool.and_eq_true, Bool.not_eq_true', Bool.or_eq_true, beq_iff_eq, decide_eq_true_eq]

end Requests

section Ticks
variable {s : State} {r : StartRun} {n d : Nat} {rest : List Nat}

theorem State.startTick_fails (runs : s.starting = some r) (next_ : r.todo = n :: rest) (fails : r.fail = n) :
    s.startTick = { s with
      starting := none, devClass := .failed, devDetail := n, failedStarts := s.failedStarts + 1 } := by
  simp only [State.startTick, runs, next_, fails, if_true]

theorem State.startTick_more {m : Nat} {more : List Nat} (runs : s.starting = some r) (next_ : r.todo = n :: m :: more)
    (goes : r.fail ≠ n) :
    s.startTick = { s.startStep r.warm r.fenced n with starting := some { r with todo := m :: more }, devDetail := m } := by
  simp only [State.startTick, runs, next_, goes, if_false]

theorem State.startTick_last (runs : s.starting = some r) (next_ : r.todo = [n]) (goes : r.fail ≠ n) :
    s.startTick = (s.startStep r.warm r.fenced n).startDone r := by
  simp only [State.startTick, runs, next_, goes, if_false]

/-- A state in which a start has steps to take, and STATUS shows the next of them. -/
def State.startingAt (s : State) (r : StartRun) (todo : List Nat) (detail : Nat) : State :=
  { s with starting := some { r with todo := todo }, devDetail := detail }

/-- A report as function 0 has it (R475). -/
def State.told (s : State) (e : Report) : State :=
  { s with reports := s.reports ++ [{ e with time := s.picos / 1000 }] }.deliver 0 { e with time := s.picos / 1000 }

theorem State.report_elim (e : Report) : s.report e = (s.ctx e.ctx).elim (s.told e) fun c =>
    if c.fn = 0 then s.told e else (s.told e).deliver c.fn { e with time := s.picos / 1000 } := by
  unfold State.report
  extract_lets e' u
  have same : u.ctx e'.ctx = s.ctx e.ctx := rfl
  rw [same]
  cases s.ctx e.ctx <;> rfl

theorem State.report_startingAt (e : Report) (todo : List Nat) :
    (s.startingAt r todo d).report e = (s.report e).startingAt r todo d := by
  have told : (s.startingAt r todo d).ctx e.ctx = s.ctx e.ctx := rfl
  rw [State.report_elim, State.report_elim, told]
  cases s.ctx e.ctx with
  | none => rfl
  | some c =>
    rw [Option.elim_some, Option.elim_some]
    split <;> rfl

theorem State.fence_startingAt (c : CoreId) (todo : List Nat) :
    (s.startingAt r todo d).fence c = (s.fence c).startingAt r todo d := by
  have core : (s.startingAt r todo d).modCore c (fun k => { k with fenced := true }) =
      (s.modCore c fun k => { k with fenced := true }).startingAt r todo d := by cases c <;> rfl
  unfold State.fence
  rw [core, State.report_startingAt]

/-- What a step of a start does is blind to the start that runs. -/
theorem State.startStep_startingAt (warm : Bool) (fenced : List CoreId) (todo : List Nat) :
    (s.startingAt r todo d).startStep warm fenced n = (s.startStep warm fenced n).startingAt r todo d := by
  have fences (cs : List CoreId) (t : State) :
      cs.foldl State.fence (t.startingAt r todo d) = (cs.foldl State.fence t).startingAt r todo d := by
    induction cs generalizing t with
    | nil => rfl
    | cons c cs ih => rw [List.foldl_cons, State.fence_startingAt, ih, List.foldl_cons]
  unfold State.startStep
  split
  case h_4 => exact fences _ { s with compute := [], memory := [], control := [] }
  case h_3 => split <;> rfl
  all_goals rfl

/-- The device after some of a start's steps (R483). -/
def State.stepped (s : State) (r : StartRun) (l : List Nat) : State := l.foldl (fun t n => t.startStep r.warm r.fenced n) s

theorem State.startTick_startingAt {m : Nat} {more : List Nat} (goes : r.fail ≠ n) :
    (s.startingAt r (n :: m :: more) d).startTick = (s.stepped r [n]).startingAt r (m :: more) m := by
  rw [State.startTick_more (r := { r with todo := n :: m :: more }) rfl rfl goes, State.startStep_startingAt]
  rfl

/-- A start that fails at none of its steps takes them all and is done. -/
theorem State.ticks_done (some_ : rest ≠ []) (goes : r.fail ∉ rest) :
    State.startTick^[rest.length] (s.startingAt r rest d) = (s.stepped r rest).startDone r := by
  induction rest generalizing s d with
  | nil => exact absurd rfl some_
  | cons n rest ih =>
    obtain ⟨first, later⟩ := not_or.mp (List.mem_cons.not.mp goes)
    rw [List.length_cons, Function.iterate_succ_apply]
    cases rest with
    | nil =>
      rw [State.startTick_last (r := { r with todo := [n] }) rfl rfl first, State.startStep_startingAt]
      rfl
    | cons m more =>
      rw [State.startTick_startingAt first, ih (List.cons_ne_nil m more) later]
      rfl

/-- A start that fails at a step takes those before it. -/
theorem State.ticks_failed {before : List Nat} (goes : r.fail ∉ before) (fails : r.fail = n) :
    (let t := s.stepped r before
    State.startTick^[before.length + 1] (s.startingAt r (before ++ n :: rest) d) = { t with
      starting := none, devClass := .failed, devDetail := n, failedStarts := t.failedStarts + 1 }) := by
  induction before generalizing s d with
  | nil => exact State.startTick_fails (s := s.startingAt r (n :: rest) d) (r := { r with todo := n :: rest }) rfl rfl fails
  | cons k before ih =>
    obtain ⟨first, later⟩ := not_or.mp (List.mem_cons.not.mp goes)
    rw [List.length_cons, Function.iterate_succ_apply]
    cases before with
    | nil =>
      rw [List.cons_append, List.nil_append, State.startTick_startingAt first]
      exact ih later
    | cons m more =>
      rw [List.cons_append, List.cons_append, State.startTick_startingAt first]
      exact ih later

end Ticks

section Fences
variable {s : State} {c : CoreId}

/-- A fence changes the cores and what is reported. -/
theorem State.fences_eq (cs : List CoreId) (s : State) : ∃ compute memory control reports answers irqs, cs.foldl State.fence s =
    { s with compute := compute, memory := memory, control := control, reports := reports, answers := answers, irqs := irqs } := by
  induction cs generalizing s with
  | nil => exact ⟨_, _, _, _, _, _, rfl⟩
  | cons c cs ih =>
    obtain ⟨_, _, _, _, _, _, later⟩ := ih (s.fence c)
    obtain ⟨_, _, first⟩ := State.report_eq (s.modCore c fun k => { k with fenced := true })
      { level := 0, src := 12, ctx := 0xFFFF, queue := 0xFFFF, whereIs := coreWhere c, sstep := 0, retry := 0, addr := 0, time := 0 }
    rw [List.foldl_cons, later, State.fence, first]
    cases c <;> exact ⟨_, _, _, _, _, _, rfl⟩

theorem State.core_fence_same : ((s.fence c).core c).fenced = true := by
  obtain ⟨_, _, e⟩ := State.report_eq (s.modCore c fun k => { k with fenced := true })
    { level := 0, src := 12, ctx := 0xFFFF, queue := 0xFFFF, whereIs := coreWhere c, sstep := 0, retry := 0, addr := 0, time := 0 }
  rw [State.fence, e]
  exact congrArg Core.fenced (State.core_modCore_same s c _)

theorem State.core_fence_other {d : CoreId} (apart : CoreId.apart c d) : (s.fence d).core c = s.core c := by
  obtain ⟨_, _, e⟩ := State.report_eq (s.modCore d fun k => { k with fenced := true })
    { level := 0, src := 12, ctx := 0xFFFF, queue := 0xFFFF, whereIs := coreWhere d, sstep := 0, retry := 0, addr := 0, time := 0 }
  rw [State.fence, e]
  exact State.core_modCore_other s d c _ apart

theorem State.fenced_fences {cs : List CoreId} (real : ∀ d ∈ cs, d.exists = true) (here : c.exists = true) (s : State) :
    ((cs.foldl State.fence s).core c).fenced = ((s.core c).fenced || cs.contains c) := by
  induction cs generalizing s with
  | nil => simp
  | cons d cs ih =>
    rw [List.foldl_cons, ih fun e mem => real e (List.mem_cons_of_mem d mem)]
    by_cases same : c = d
    · subst same
      simp [State.core_fence_same]
    · have apart : CoreId.apart c d := CoreId.apart_of_ne here (real d List.mem_cons_self) same
      simp [State.core_fence_other apart, same]

/-- Step 5 leaves every core as at reset, fenced where the test finds it unfit (R483, R484). -/
theorem State.fenced_startStep_five {warm : Bool} {fenced : List CoreId} (kind : c.kind ≠ .control) (here : c.exists = true) :
    ((s.startStep warm fenced 5).core c).fenced = fenced.contains c := by
  have fresh : (State.core { s with compute := [], memory := [], control := [] } c).fenced = false := by cases c <;> rfl
  refine (State.fenced_fences (fun d mem => ?_) here { s with compute := [], memory := [], control := [] }).trans ?_
  · have unfit := List.of_mem_filter mem
    simp only [Bool.and_eq_true] at unfit
    exact unfit.1
  · rw [fresh, Bool.false_or, Bool.eq_iff_iff, List.contains_iff_mem, List.contains_iff_mem, List.mem_filter]
    simp [here, kind]

theorem State.startStep_five_eq (warm : Bool) (fenced : List CoreId) : ∃ compute memory control reports answers irqs,
    s.startStep warm fenced 5 =
      { s with compute := compute, memory := memory, control := control, reports := reports, answers := answers, irqs := irqs } :=
  State.fences_eq _ { s with compute := [], memory := [], control := [] }

end Fences

section Whole
variable {s : State} {fenced : List CoreId} {n : Nat}

/-- A device that a start has stopped, before its first step (R483). -/
def State.quieted (s : State) : State := { s.still with devClass := .starting }

theorem State.start_cold : s.start false n fenced =
    s.quieted.startingAt (s.startRun false n fenced) (startSteps false) 1 := rfl

theorem State.start_warm : s.start true n fenced =
    s.quieted.startingAt (s.startRun true n fenced) (startSteps true) 2 := rfl

theorem State.ticks_eq (n : Nat) (u : State) :
    (List.range n).foldl (fun (v : State) _ => v.startTick) u = State.startTick^[n] u := by
  rw [List.foldl_const, List.length_range]

theorem startSteps_split (low : 1 ≤ n) (high : n ≤ 8) : ∃ before rest, startSteps false = before ++ n :: rest ∧
    before.length + 1 = n ∧ n ∉ before := by
  refine ⟨List.range' 1 (n - 1), List.range' (n + 1) (8 - n), ?_⟩
  interval_cases n <;> decide

/-- A start of the active slot (R484, R486). -/
def State.activeRun (s : State) (warm : Bool) (n : Nat) (fenced : List CoreId) : StartRun where
  warm := warm
  fail := n
  fenced := fenced
  slot := s.fwActive
  other := false
  todo := startSteps warm

theorem copyValues_map_of {α : Type} [DecidableEq α] (xs : List α) : copyValues (xs.map Copies.of) = xs := by
  induction xs with
  | nil => rfl
  | cons x xs ih => exact (copyValues_append [Copies.of x] (xs.map Copies.of)).trans (by rw [copyValues_of, ih]; rfl)

/-- What runs, and the starts that have failed, no step of a start changes. -/
theorem State.startStep_leaves (warm : Bool) (k : Nat) :
    ((s.startStep warm fenced k).gangs, (s.startStep warm fenced k).failedStarts) = (s.gangs, s.failedStarts) := by
  by_cases five : k = 5
  · obtain ⟨_, _, _, _, _, _, e⟩ := s.startStep_five_eq warm fenced
    rw [five, e]
  · unfold State.startStep
    split
    case h_3 => split <;> rfl
    case h_4 => exact absurd rfl five
    all_goals rfl

theorem State.stepped_leaves (r : StartRun) (l : List Nat) (t : State) :
    ((t.stepped r l).gangs, (t.stepped r l).failedStarts) = (t.gangs, t.failedStarts) :=
  foldl_keeps (p := fun u : State => (u.gangs, u.failedStarts)) (fun u k => u.startStep_leaves r.warm k) l t

variable (accepted : s.bootable s.fwActive = true) (few : s.failedStarts < 3)
include accepted few

theorem State.startRun_active (warm : Bool) : s.startRun warm n fenced = s.activeRun warm n fenced := by
  have own : (!warm && decide (3 ≤ s.failedStarts)) = false := by
    rw [decide_eq_false (Nat.not_le.mpr few), Bool.and_false]
  simp only [State.startRun, State.activeRun, own, accepted, Bool.not_true, Bool.false_and, Bool.false_eq_true, if_false]

theorem State.coldstart_ticks : State.startTick^[8] (s.start false 0 fenced) =
    (s.quieted.stepped (s.activeRun false 0 fenced) [1, 2, 3, 4, 5, 6, 7, 8]).startDone (s.activeRun false 0 fenced) := by
  rw [State.start_cold, State.startRun_active accepted few]
  exact State.ticks_done (rest := startSteps false) (List.cons_ne_nil _ _) (show 0 ∉ startSteps false by decide)

theorem State.warmstart_ticks : State.startTick^[4] (s.start true 0 fenced) =
    (s.quieted.stepped (s.activeRun true 0 fenced) [2, 4, 5, 8]).startDone (s.activeRun true 0 fenced) := by
  rw [State.start_warm, State.startRun_active accepted few]
  exact State.ticks_done (rest := startSteps true) (List.cons_ne_nil _ _) (show 0 ∉ startSteps true by decide)

theorem State.coldstart_done : (let t := State.startTick^[8] (s.start false 0 fenced)
    t.devClass = .ready ∧ t.devDetail = s.fwActive ∧ t.starting = none ∧
      t.failedStarts = 0 ∧ t.gangs = [] ∧ t.contexts = [] ∧ t.hbm = [] ∧ t.clockMhz = 2000 ∧ t.powerCap = 1800 ∧
      t.railsOff = false ∧ t.hbmPoison = [] ∧ t.poisonRecords = [] ∧ t.retired = s.flashRetired ∧
      t.remaps = s.flashRemaps.map Copies.of ∧
      ∀ c, c.kind ≠ .control → c.exists = true → (t.core c).fenced = fenced.contains c) := by
  have loaded (c : CoreId) := State.fenced_startStep_five (c := c) (warm := false) (fenced := fenced)
    (s := s.quieted.stepped (s.activeRun false 0 fenced) [1, 2, 3, 4])
  obtain ⟨_, _, _, _, _, _, e⟩ :=
    (s.quieted.stepped (s.activeRun false 0 fenced) [1, 2, 3, 4]).startStep_five_eq false fenced
  have steps : s.quieted.stepped (s.activeRun false 0 fenced) [1, 2, 3, 4, 5, 6, 7, 8] =
      ((s.quieted.stepped (s.activeRun false 0 fenced) [1, 2, 3, 4]).startStep false fenced 5).stepped
        (s.activeRun false 0 fenced) [6, 7, 8] := rfl
  rw [State.coldstart_ticks accepted few, steps]
  simp only [e] at loaded ⊢
  exact ⟨rfl, rfl, rfl, rfl, rfl, rfl, rfl, rfl, rfl, rfl, rfl, rfl, copyValues_map_of s.flashRetired, rfl,
    fun c kind here => (congrArg Core.fenced (State.core_congr rfl rfl rfl c)).trans (loaded c kind here)⟩

theorem State.warmstart_done : (let t := State.startTick^[4] (s.start true 0 fenced)
    t.devClass = .ready ∧ t.devDetail = s.fwActive ∧ t.gangs = [] ∧ t.contexts = [] ∧ t.hbm = s.hbm ∧
      t.hbmPoison = s.hbmPoison ∧ t.ckGroups = s.ckGroups ∧ t.retired = s.flashRetired ∧
      t.remaps = s.flashRemaps.map Copies.of ∧
      ∀ e, e ∈ t.poisonRecords ↔ e ∈ s.poisonRecords ∧ e.value.isSome = true) := by
  obtain ⟨_, _, _, _, _, _, e⟩ := (s.quieted.stepped (s.activeRun true 0 fenced) [2, 4]).startStep_five_eq true fenced
  have steps : s.quieted.stepped (s.activeRun true 0 fenced) [2, 4, 5, 8] =
      ((s.quieted.stepped (s.activeRun true 0 fenced) [2, 4]).startStep true fenced 5).stepped
        (s.activeRun true 0 fenced) [8] := rfl
  rw [State.warmstart_ticks accepted few, steps, e]
  exact ⟨rfl, rfl, rfl, rfl, rfl, rfl, rfl, copyValues_map_of s.flashRetired, rfl, fun e => List.mem_filter⟩

theorem State.coldstart_failed (low : 1 ≤ n) (high : n ≤ 8) : (let t := State.startTick^[n] (s.start false n fenced)
    t.devClass = .failed ∧ t.devDetail = n ∧ t.failedStarts = s.failedStarts + 1 ∧ t.gangs = []) := by
  obtain ⟨before, rest, split_, index, fresh⟩ := startSteps_split low high
  have ticks := State.ticks_failed (s := s.quieted) (r := s.activeRun false n fenced) (n := n) (d := 1) (rest := rest)
    fresh rfl
  rw [index, ← split_] at ticks
  have left := State.stepped_leaves (s.activeRun false n fenced) before s.quieted
  obtain ⟨gangs, failed⟩ := Prod.mk.inj left
  rw [State.start_cold, State.startRun_active accepted few, ticks]
  exact ⟨rfl, rfl, congrArg (· + 1) failed, gangs⟩

end Whole

section Firmware
variable {s : State}

theorem exec_fwstage_of_serves {image : List Byte} (serves : s.serving = true) :
    (let good : Bool := !image.isEmpty && Config.lmsHolds image && decide (s.fwLeaf < Config.fwLeafOf image) &&
      Config.fwSteppingOk image
    let f : FwSlot := { image := image, leaf := Config.fwLeafOf image }
    let s1 : State := if s.fwActive = 0 then { s with fwB := f } else { s with fwA := f }
    exec (.fwstage image) s = .next (if good then { s1 with fwLeaf := Config.fwLeafOf image }.answer 0 fun n => .status n 0
      else s.answer 0 fun n => .status n 1)) := by
  have refused : (image.isEmpty || !Config.lmsHolds image || decide (Config.fwLeafOf image ≤ s.fwLeaf) ||
      !Config.fwSteppingOk image) = !(!image.isEmpty && Config.lmsHolds image && decide (s.fwLeaf < Config.fwLeafOf image) &&
        Config.fwSteppingOk image) := by
    simp only [Bool.not_and, Bool.not_not, ← decide_not, Nat.not_lt]
  show execFwstage image s = _
  simp only [execFwstage, serves, refused, Bool.not_true, Bool.false_eq_true, if_false]
  cases (!image.isEmpty && Config.lmsHolds image && decide (s.fwLeaf < Config.fwLeafOf image) && Config.fwSteppingOk image) <;> rfl

theorem exec_activate_of_quiesced (serves : s.serving = true) (quiesced : ∀ e ∈ s.contexts, s.quiesced e.1 e.2 = true) :
    (let slot := 1 - s.fwActive
    let s1 : State := { s with fwActive := slot, devDetail := slot }
    let ks := s.contexts.flatMap fun e => e.2.capsules.map fun k => (e.1, k)
    exec .activate s = .next ((ks.foldl (fun (s : State) e => s.changeCapsule e.1 s.lowestLevel e.2) s1).answer 0
      fun n => .status n 0)) := by
  have every : (s.contexts.all fun e => s.quiesced e.1 e.2) = true := List.all_eq_true.mpr quiesced
  show execActivate s = _
  simp only [execActivate, serves, every, Bool.not_true, Bool.false_eq_true, if_false]

theorem exec_attest_of_index {nonce : List Byte} (serves : s.serving = true) (long : nonce.length = 32)
    (left : s.attestIndex < 2 ^ 20) : exec (.attest nonce) s = .next ({ s with attestIndex := s.attestIndex + 1 }.answer 0
      fun n => .data n (s.attestation nonce ++ Config.hssSign s.attestIndex (s.attestation nonce))) := by
  have signs : ¬ (nonce.length ≠ 32 ∨ 2 ^ 20 ≤ s.attestIndex) := by omega
  show execAttest nonce s = _
  simp only [execAttest, serves, if_neg signs, Bool.not_true, Bool.false_eq_true, if_false]

theorem exec_attest_of_spent {nonce : List Byte} (serves : s.serving = true) (spent : 2 ^ 20 ≤ s.attestIndex) :
    exec (.attest nonce) s = .next (s.answer 0 fun n => .status n 4) := by
  show execAttest nonce s = _
  rw [execAttest, if_neg (by simp [serves]), if_pos (.inr spent)]

end Firmware

/-- Settles O52: a start request by what runs, a start by induction on its steps, firmware and attestation by their checks. -/
theorem bringUp : Obligations.BringUp := by
  unfold Obligations.BringUp
  refine fun s => ⟨fun fenced n => ⟨fun low rests => ⟨_, exec_coldstart_of_rest low rests, rfl, rfl, rfl, ?cold⟩,
    fun step rests may => ⟨_, exec_warmstart_of_rest step rests may, rfl, rfl, rfl, ?warm⟩, exec_coldstart_of_busy,
    exec_warmstart_of_busy⟩, s.tickClock_eq, fun r n rest runs next_ => ⟨State.startTick_fails runs next_,
      fun goes => ⟨fun m more rest_ => ?more, fun rest_ => State.startTick_last runs (rest_ ▸ next_) goes⟩⟩,
    fun fenced rests accepted few => ?whole, fun image => exec_fwstage_of_serves, exec_activate_of_quiesced,
    fun nonce serves long => ⟨exec_attest_of_index serves long, exec_attest_of_spent serves⟩⟩
  case cold => rw [State.start_eq]; simp only [State.startRun, State.startRun_fail]; rfl
  case warm => rw [State.start_eq]; simp only [State.startRun, State.startRun_fail]; rfl
  case more =>
    subst rest_
    exact State.startTick_more runs next_ goes
  case whole =>
    simp only [State.ticks_eq]
    refine ⟨⟨_, exec_coldstart_of_rest (Nat.zero_le 8) rests, State.coldstart_done accepted few⟩, fun n low high =>
      ⟨_, exec_coldstart_of_rest high rests, State.coldstart_failed accepted few low high⟩, fun class_ rails =>
      ⟨_, exec_warmstart_of_rest (List.mem_cons_self) rests ⟨class_, rails⟩, State.warmstart_done accepted few⟩⟩

end Sys2Proof.Machine
end

section
/-! Checkpoints: groups, shards, manifests, restores, and what a stripe survives. -/
namespace Sys2Proof.Machine

section Stripes

/-- The exclusive or of one byte of each of some shards. -/
def xorAt (j : Nat) (xs : List (List Byte)) : Byte := xs.foldl (fun b x => b ^^^ x.getD j 0) 0

theorem foldl_xor (j : Nat) (ys : List (List Byte)) (b : Byte) :
    ys.foldl (fun b x => b ^^^ x.getD j 0) b = b ^^^ xorAt j ys := by
  induction ys generalizing b with
  | nil => simp [xorAt]
  | cons y ys ih =>
    show ys.foldl (fun b x => b ^^^ x.getD j 0) (b ^^^ y.getD j 0) = b ^^^ ys.foldl (fun b x => b ^^^ x.getD j 0) (0 ^^^ y.getD j 0)
    rw [ih, ih]
    simp [BitVec.xor_assoc]

theorem xorAt_cons (j : Nat) (x : List Byte) (xs : List (List Byte)) : xorAt j (x :: xs) = x.getD j 0 ^^^ xorAt j xs := by
  rw [xorAt, List.foldl_cons, foldl_xor]
  simp

/-- A shard taken out of a stripe leaves the exclusive or without it. -/
theorem xorAt_eraseIdx {j i : Nat} {y : List Byte} {xs : List (List Byte)} (at_ : xs[i]? = some y) :
    xorAt j xs = y.getD j 0 ^^^ xorAt j (xs.eraseIdx i) := by
  induction xs generalizing i with
  | nil => simp at at_
  | cons x xs ih =>
    cases i with
    | zero =>
      cases at_
      exact xorAt_cons ..
    | succ i =>
      rw [List.eraseIdx_cons_succ, xorAt_cons, xorAt_cons, ih at_, ← BitVec.xor_assoc, ← BitVec.xor_assoc,
        BitVec.xor_comm (x.getD j 0)]

theorem getD_xorBytes {z j : Nat} (within : j < z) (xs : List (List Byte)) : (xorBytes z xs).getD j 0 = xorAt j xs := by
  simp [xorBytes, xorAt, List.getD, within]

/-- The exclusive or of a stripe's parity and all its shards but one gives that one back (R477, R480). -/
theorem xorBytes_parity {z i : Nat} {xs : List (List Byte)} {y : List Byte} (at_ : xs[i]? = some y) (long : y.length = z) :
    xorBytes z (xorBytes z xs :: xs.eraseIdx i) = y := by
  refine List.ext_getElem (by simp [xorBytes, long]) fun j here there => ?_
  have within : j < z := long ▸ there
  have byte : xorAt j (xorBytes z xs :: xs.eraseIdx i) = y.getD j 0 := by
    rw [xorAt_cons, getD_xorBytes within, xorAt_eraseIdx at_, BitVec.xor_assoc, BitVec.xor_self, BitVec.xor_zero]
  calc (xorBytes z (xorBytes z xs :: xs.eraseIdx i))[j]
      = (xorBytes z (xorBytes z xs :: xs.eraseIdx i)).getD j 0 := (List.getD_eq_getElem _ _ here).symm
    _ = y.getD j 0 := (getD_xorBytes within _).trans byte
    _ = y[j] := List.getD_eq_getElem _ _ there

end Stripes

section Groups
variable {s : State} {group devices self ctx area len : Nat}

theorem exec_checkpointGroupCreate_of_free (serves : s.serving = true) (new : s.ckGroup group = none) (three : 3 ≤ devices)
    (sixteen : devices ≤ 16) (own : self < devices) (there : (s.ctx ctx).isSome = true) (aligned : area % 64 = 0)
    (some_ : len ≠ 0) (first : paOk area = true) (last : paOk (area + len - 1) = true)
    (stack : area / 2 ^ 36 = (area + len - 1) / 2 ^ 36) (free : s.frameFree area len = true) :
    exec (.checkpointGroupCreate group devices self ctx area len) s = .next ({ s with ckGroups := s.ckGroups ++
      [({ group := group, devices := devices, self := self, ctx := ctx, area := area, areaLen := len } : CkGroup)] }.answer 0
        fun n => .status n 0) := by
  show execCheckpointGroupCreate group devices self ctx area len s = _
  rw [execCheckpointGroupCreate, if_neg (by simp [serves])]
  refine if_pos ?_
  simp only [new, three, sixteen, own, there, aligned, first, last, free, bne_iff_ne.mpr some_, beq_iff_eq.mpr stack,
    Option.isNone_none, decide_true, beq_self_eq_true, Bool.and_self]

end Groups

section Writing
variable {s : State} {group step longest : Nat} {buffers : List (Nat × Nat)} {peers : PeerShards} {g : CkGroup} {c : Context}

/-- The size of a shard of a checkpoint of a group (R477). -/
def CkGroup.shardSize (g : CkGroup) (buffers : List (Nat × Nat)) (longest : Nat) : Nat :=
  ckZ g.devices (max longest (buffers.foldl (fun n b => n + b.2) 0))

/-- A checkpoint whose data shards have left (R477). -/
def State.sentShards (s : State) (g : CkGroup) (step z : Nat) (buffers : List (Nat × Nat)) : State :=
  { s with ckOut := s.ckOut ++ g.puts step z (s.ckImage g.ctx buffers) }

variable (serves : s.serving = true) (known : s.ckGroup group = some g) (there : s.ctx g.ctx = some c)
include serves known there

theorem exec_checkpointWrite_eq : exec (.checkpointWrite group step buffers longest peers) s =
    (let z := g.shardSize buffers longest
    let t := s.sentShards g step z buffers
    let ps := g.payloads z (s.ckImage g.ctx buffers) peers.shards
    if !s.quiesced g.ctx c then .next (s.ckAnswer 1)
    else if c.ckSealed buffers then .next (s.ckAnswer 4)
    else if g.areaLen < ckAreaLen g.devices z then .next (s.ckAnswer 2)
    else if !s.buffersReady g.ctx buffers false then .next s
    else if peers.failed.isEmpty && (peers.shards.length + 1 != g.devices || peers.shards.any fun p => p.length != z) then .next s
    else if !peers.failed.isEmpty then .next (t.ckAnswer 3)
    else .next ((t.writeShards g (t.ckTarget g) step z ps).ckAnswerWith 0 (ps.flatMap sha256))) := by
  show execCheckpointWrite group step buffers longest peers s = _
  simp only [execCheckpointWrite, serves, known, there, Bool.not_true, Bool.false_eq_true, if_false]
  rfl

theorem exec_checkpointWrite_of_busy (busy : s.quiesced g.ctx c = false) :
    exec (.checkpointWrite group step buffers longest peers) s = .next (s.ckAnswer 1) :=
  (exec_checkpointWrite_eq serves known there).trans (if_pos (by rw [busy]; rfl))

variable (quiet : s.quiesced g.ctx c = true)
include quiet

theorem exec_checkpointWrite_of_sealed (sealed : c.ckSealed buffers = true) :
    exec (.checkpointWrite group step buffers longest peers) s = .next (s.ckAnswer 4) := by
  refine (exec_checkpointWrite_eq serves known there).trans ?_
  dsimp only
  rw [if_neg (by rw [quiet]; decide), if_pos sealed]

variable (open_ : c.ckSealed buffers = false)
include open_

theorem exec_checkpointWrite_of_full (full : g.areaLen < ckAreaLen g.devices (g.shardSize buffers longest)) :
    exec (.checkpointWrite group step buffers longest peers) s = .next (s.ckAnswer 2) := by
  refine (exec_checkpointWrite_eq serves known there).trans ?_
  dsimp only
  rw [if_neg (by rw [quiet]; decide), if_neg (Bool.eq_false_iff.mp open_), if_pos full]

variable (fits : ckAreaLen g.devices (g.shardSize buffers longest) ≤ g.areaLen)
include fits

theorem exec_checkpointWrite_of_undrained (waits : s.buffersReady g.ctx buffers false = false) :
    exec (.checkpointWrite group step buffers longest peers) s = .next s := by
  refine (exec_checkpointWrite_eq serves known there).trans ?_
  dsimp only
  rw [if_neg (by rw [quiet]; decide), if_neg (Bool.eq_false_iff.mp open_), if_neg (Nat.not_lt.mpr fits),
    if_pos (by rw [waits]; rfl)]

theorem exec_checkpointWrite_of_ready (ready : s.buffersReady g.ctx buffers false = true) :
    exec (.checkpointWrite group step buffers longest peers) s =
      (let z := g.shardSize buffers longest
      let t := s.sentShards g step z buffers
      let ps := g.payloads z (s.ckImage g.ctx buffers) peers.shards
      if peers.failed.isEmpty && (peers.shards.length + 1 != g.devices || peers.shards.any fun p => p.length != z) then .next s
      else if !peers.failed.isEmpty then .next (t.ckAnswer 3)
      else .next ((t.writeShards g (t.ckTarget g) step z ps).ckAnswerWith 0 (ps.flatMap sha256))) := by
  refine (exec_checkpointWrite_eq serves known there).trans ?_
  dsimp only
  rw [if_neg (by rw [quiet]; decide), if_neg (Bool.eq_false_iff.mp open_), if_neg (Nat.not_lt.mpr fits),
    if_neg (by rw [ready]; decide)]

end Writing

section Manifests
variable {s : State} {group step : Nat} {entries h : List Byte} {g : CkGroup}

theorem exec_checkpointManifest_of_shards (serves : s.serving = true) (known : s.ckGroup group = some g)
    (seen : s.ckRead (g.shardAt (s.ckTarget g) 0 0) 64 = some h)
    (head : bytesAt h 0 14 = leBytes 8 step ++ leBytes 4 group ++ leBytes 1 0 ++ leBytes 1 g.self)
    (long : entries.length = 48 * g.devices * g.devices) (fits : ckAreaLen g.devices (fieldAt h 16 8) ≤ g.areaLen) :
    (let m := ckHead group g.devices step (fieldAt h 16 8) ++ entries
    exec (.checkpointManifest group step entries) s = .next
      ((s.ckWriteLines (g.slot (s.ckTarget g)) (m ++ ckCommit step m)).ckAnswer 0)) := by
  have good : ¬ (bytesAt h 0 14 ≠ leBytes 8 step ++ leBytes 4 group ++ leBytes 1 0 ++ leBytes 1 g.self
      ∨ entries.length ≠ g.entriesLen ∨ g.areaLen < ckAreaLen g.devices (fieldAt h 16 8)) := by
    rintro (other | short | full)
    · exact other head
    · exact short long
    · exact absurd fits (Nat.not_le.mpr full)
  show execCheckpointManifest group step entries s = _
  simp only [execCheckpointManifest, serves, known, seen, if_neg good, Bool.not_true, Bool.false_eq_true, if_false]

end Manifests

section Restoring
variable {s : State} {group n k : Nat} {answering : List (List Nat)} {manifest : List Byte} {buffers : List (Nat × Nat)}
  {peers : List (Nat × Nat × List Byte)} {g : CkGroup} {c : Context}

/-- The shards of peers that a restore has seen (R480). -/
def CkGroup.peerShards (g : CkGroup) (group : Nat) (peers : List (Nat × Nat × List Byte)) : List SeenShard :=
  (peers.filter fun p => p.2.1 != g.self).filterMap fun p => seenShard group p.1 p.2.1 p.2.2

/-- What a restore of a step works on: this device's manifest and shards of the step, else a peer's manifest (R480). -/
def State.restoreOf (s : State) (g : CkGroup) (group k : Nat) (manifest : List Byte) (peers : List (Nat × Nat × List Byte)) :
    Restore :=
  let own := (s.ckAt g k).bind fun b => (s.ckSlot g b).map fun v => (b, v)
  let man := (own.map fun v => v.2.2) <|> g.manifestOf k manifest
  let z := (man.map (·.1)).getD 0
  { devices := g.devices, step := k, z := z, entries := (man.map (·.2)).getD []
    shards := (own.elim [] fun v => s.ownShards g v.1 z) ++ g.peerShards group peers }

/-- The slot that holds a committed step has a manifest (R480). -/
theorem State.ckSlot_of_ckAt {b : Bool} (at_ : s.ckAt g k = some b) : ∃ v, s.ckSlot g b = some v := by
  have holds_ := List.find?_some at_
  simp only [beq_iff_eq, Option.map_eq_some_iff] at holds_
  obtain ⟨v, there, _⟩ := holds_
  exact ⟨v, there⟩

theorem State.restoreOf_unique {r : Restore} (devices : r.devices = g.devices) (step : r.step = k)
    (own : ∀ b v, s.ckAt g k = some b → s.ckSlot g b = some v →
      r.z = v.2.1 ∧ r.entries = v.2.2 ∧ r.shards = s.ownShards g b v.2.1 ++ g.peerShards group peers)
    (other : s.ckAt g k = none → r.z = ((g.manifestOf k manifest).getD (0, [])).1 ∧
      r.entries = ((g.manifestOf k manifest).getD (0, [])).2 ∧ r.shards = g.peerShards group peers) :
    s.restoreOf g group k manifest peers = r := by
  obtain ⟨devices', step', z, entries, shards⟩ := r
  dsimp only at devices step own other
  subst devices step
  cases at_ : s.ckAt g step' with
  | none =>
    obtain ⟨rfl, rfl, rfl⟩ := other at_
    simp only [State.restoreOf, at_]
    cases g.manifestOf step' manifest <;> rfl
  | some b =>
    obtain ⟨v, there⟩ := State.ckSlot_of_ckAt at_
    obtain ⟨rfl, rfl, rfl⟩ := own b v at_ there
    simp only [State.restoreOf, at_, Option.bind_some, there]
    rfl

variable (serves : s.serving = true) (known : s.ckGroup group = some g) (there : s.ctx g.ctx = some c)
  (quiet : s.quiesced g.ctx c = true) (open_ : c.ckSealed buffers = false)
include serves known there quiet open_

theorem exec_checkpointRestore_of_none (none_ : restoreStep g.devices (s.ckSteps g) answering = none) :
    exec (.checkpointRestore group n answering manifest buffers peers) s = .next (s.ckAnswer 5) := by
  show execCheckpointRestore group n answering manifest buffers peers s = _
  simp only [execCheckpointRestore, serves, known, there, quiet, open_, none_, Bool.not_true, Bool.false_eq_true, if_false]

theorem exec_checkpointRestore_of_step (common : restoreStep g.devices (s.ckSteps g) answering = some k) :
    exec (.checkpointRestore group n answering manifest buffers peers) s =
      (let r := s.restoreOf g group k manifest peers
      if n ≠ k ∨ ¬ r.possible then .next (s.ckAnswerWith 4 (r.blamed.flatMap fun b => leBytes 1 b.1 ++ leBytes 1 b.2))
      else if (g.devices - 1) * r.z < buffers.foldl (fun m b => m + b.2) 0 then .next (s.ckAnswer 2)
      else if !s.buffersReady g.ctx buffers true then .next s
      else .next ((((s.mendSlot g r).restoreBuffers g.ctx (r.image g.self) buffers).checkStepping g.ctx).ckAnswer 0)) := by
  show execCheckpointRestore group n answering manifest buffers peers s = _
  simp only [execCheckpointRestore, serves, known, there, quiet, open_, common, Bool.not_true, Bool.false_eq_true, if_false]
  rfl

end Restoring

/-- Settles O51: each request by the branch that its conditions take, a stripe by the exclusive or of each of its bytes. -/
theorem checkpoints : Obligations.Checkpoints := by
  unfold Obligations.Checkpoints
  refine ⟨fun s serves => ⟨fun group devices self ctx area len => exec_checkpointGroupCreate_of_free serves,
    fun group g c known there => ⟨fun step buffers longest peers => ?write, ?manifest, ?restore⟩⟩,
    fun z xs i y long at_ => xorBytes_parity at_ (long y (List.mem_of_getElem? at_))⟩
  case manifest =>
    rintro step entries h _ seen rfl head long fits
    exact exec_checkpointManifest_of_shards serves known seen head long fits
  case write =>
    refine ⟨exec_checkpointWrite_of_busy serves known there, exec_checkpointWrite_of_sealed serves known there,
      fun quiet open_ => ⟨exec_checkpointWrite_of_full serves known there quiet open_,
        exec_checkpointWrite_of_undrained serves known there quiet open_, fun fits ready failed => ?failed,
        fun fits ready failed short => ?short, fun ready fits failed whole long => ?whole⟩⟩
    all_goals refine (exec_checkpointWrite_of_ready serves known there quiet open_ fits ready).trans ?_
    case failed =>
      have some_ : peers.failed.isEmpty = false := by simpa using failed
      rw [some_]
      rfl
    case short =>
      rw [failed]
      exact if_pos (by simpa using Or.inl short)
    case whole =>
      rw [failed]
      exact if_neg (by simpa [whole, CkGroup.shardSize] using long)
  case restore =>
    intro n answering manifest buffers peers quiet open_
    refine ⟨exec_checkpointRestore_of_none serves known there quiet open_, fun k r common devices step own other => ?_⟩
    have rule := exec_checkpointRestore_of_step (n := n) (manifest := manifest) (peers := peers) serves known there quiet open_ common
    rw [State.restoreOf_unique devices step own other] at rule
    dsimp only at rule
    refine ⟨fun refused => ?_, fun asked possible ready => ?_⟩
    · rw [rule, if_pos (refused.imp_right Bool.eq_false_iff.mp)]
    · rw [if_neg (show ¬ (n ≠ k ∨ ¬ r.possible) by simp [asked, possible])] at rule
      split
      · next short => exact rule.trans (if_pos short)
      · next fits => exact (rule.trans (if_neg fits)).trans (if_neg (by rw [ready]; decide))

end Sys2Proof.Machine
end
